-- ==== Sys2Proof/Word.lean ====
section
/-! DEFINITION. The word types of the Worgil and the task frame (00 R1, R3; 02 R24, R26; 07 R155). -/

namespace Sys2Proof

/-- Eight bits; memory is byte-addressed (00 R3). -/
abbrev Byte := BitVec 8

/-- A 64-bit general register or special register (02 R24). -/
abbrev Word := BitVec 64

/-- A 128-byte vector register (02 R26). -/
abbrev VecWord := BitVec 1024

/-- A 128-bit vector mask register (02 R24). -/
abbrev MaskWord := BitVec 128

/-- An instruction index (02 R32). -/
abbrev InstrIx := BitVec 32

/-- A task, message, continuation or root frame: eight 64-bit words, word 0 the header (07 R155). -/
abbrev Frame := Vector Word 8

/-- The 96 bits of an instruction word (03 R43). -/
abbrev Word96 := BitVec 96

end Sys2Proof
end

