-- ==== Sys2Proof/Syntax.lean ====
section
/-! DEFINITION. The instructions of the Worgil, one constructor per row of spec/opcode_table.json: first the
instruction words (03 R54, R55), then the hardware's own steps, each with what it needs as parameters. -/

namespace Sys2Proof

/-! ## Operands -/

/-- A scalar register number g0-g63 (03 R47). -/
abbrev GReg := Fin 64
/-- A vector register number v0-v63 (03 R47). -/
abbrev VReg := Fin 64
/-- A predicate number p0-p7 (03 R47). -/
abbrev PReg := Fin 8
/-- A vector mask number m0-m7 (03 R47). -/
abbrev MReg := Fin 8

/-- The integer types of scalar instructions (03 R50, 04 R70). -/
inductive IntTy where
  | i8 | i16 | i32 | i64 | n8 | n16 | n32 | n64
deriving DecidableEq, Repr

/-- The floating-point types (03 R50, 04 R72). -/
inductive FpTy where
  | f16 | bf16 | f32
deriving DecidableEq, Repr

/-- The integer lane types of vector instructions (06 R122). -/
inductive LaneInt where
  | i8 | i16 | i32 | n8 | n16 | n32
deriving DecidableEq, Repr

/-- The two types of vdot4 (06 R125). -/
inductive DotTy where
  | i8 | n8
deriving DecidableEq, Repr

/-- The two types of bext (05 R93). -/
inductive WideTy where
  | i64 | n64
deriving DecidableEq, Repr

/-- The types bswap accepts (05 R93). -/
inductive SwapTy where
  | i16 | i32 | i64 | n16 | n32 | n64
deriving DecidableEq, Repr

/-- A lane type, integer or floating point (06 R122). -/
inductive LaneTy where
  | int (t : LaneInt)
  | fp (t : FpTy)
deriving DecidableEq, Repr

/-- A type of cvt, both written out (05 R93, R110). -/
inductive NumTy where
  | int (t : IntTy)
  | fp (t : FpTy)
deriving DecidableEq, Repr

/-- The block formats (04 R79). -/
inductive BxTy where
  | bx8 | bx4
deriving DecidableEq, Repr

/-- Rounding modes (03 R49, 04 R73). -/
inductive Rnd where
  | rne | rtz | rup | rdn
deriving DecidableEq, Repr

/-- Integer conditions (03 R51). -/
inductive Cond where
  | eq | ne | lt | le | gt | ge
deriving DecidableEq, Repr

/-- Floating-point conditions (03 R51). -/
inductive FCond where
  | eq | ne | lt | le | gt | ge | un | ord
deriving DecidableEq, Repr

/-- Scopes (03 R52, 11 R230). -/
inductive Scope where
  | cell | clu | die | pkg | sys
deriving DecidableEq, Repr

/-- Access sizes of layout M (03 R52). -/
inductive Size where
  | b1 | b2 | b4 | b8
deriving DecidableEq, Repr

/-- Lane sizes of vector memory instructions (06 R145). -/
inductive VSize where
  | b1 | b2 | b4
deriving DecidableEq, Repr

/-- The order and scope of a layout-M access: a plain access has scope field 0 (03 R52). `sync` is acquire on
a load and release on a store. -/
inductive MemOrder where
  | plain
  | sync (s : Scope)
  | vol (s : Scope)
deriving DecidableEq, Repr

/-- The memory operand of layout M (03 R53). -/
structure MemOp where
  a : GReg
  b : GReg
  disp : BitVec 32
deriving DecidableEq, Repr

/-- The order of a read-modify-write, X[34:33] (12 R245). -/
inductive RmwOrder where
  | plain | acq | rel | ar
deriving DecidableEq, Repr

/-- The order of a fence (12 R245). -/
inductive FenceOrder where
  | acq | rel | ar
deriving DecidableEq, Repr

/-- The operations of amo (12 R247). -/
inductive AmoOp where
  | swap | add | and | or | xor | min | max
deriving DecidableEq, Repr

/-- The operations of vred (06 R143). -/
inductive RedOp where
  | add | min | max | and | or | xor | fadd | fmin | fmax
deriving DecidableEq, Repr

/-- The operations of chmsk (08 R198). -/
inductive ChmskOp where
  | wr | set | clr
deriving DecidableEq, Repr

/-- The engines a tile can be given to (10 R216, 14 R275). -/
inductive Engine where
  | cch0 | cch1 | mxu
deriving DecidableEq, Repr

/-- The access kinds of fpost post and of page walks (18 R346, 10 R210). -/
inductive AccessKind where
  | read | write | exec
deriving DecidableEq, Repr

/-- The extents of tlbinv; only the page extent names a register (18 R346). -/
inductive TlbExtent where
  | page (a : GReg)
  | context
  | all
deriving DecidableEq, Repr

/-- The three forms of pmov (05 R105); a g source takes no negation (05 R93). -/
inductive PmovForm where
  | pp (d a : PReg) (na : Bool)
  | pg (d : PReg) (a : GReg)
  | gp (d : GReg) (a : PReg) (na : Bool)
deriving DecidableEq, Repr

/-- A B operand marked v|g (06 R123). -/
inductive VSrc where
  | v (r : VReg)
  | g (r : GReg)
deriving DecidableEq, Repr

/-- The mask field and the zeroing bit Z (06 R124). -/
structure MaskSel where
  mask : Option MReg
  z : Bool
deriving DecidableEq, Repr

/-- The special registers of 02 R28. Levels are 1 and 2 (`false` is level 1). -/
inductive SReg where
  | sframe | sbudget | sdomain | sspill | sctl | sdctl | stime | scbase | sclim | sstk
  | scell | sphys | sinv | scarve | svgroup | mxdone | mxstat
  | senacc (i : Fin 24)
  | senlim (i : Fin 24)
  | tvec
  | tcause (two : Bool)
  | tip (two : Bool)
  | tfva (two : Bool)
  | tinfo (two : Bool)
  | tarea (two : Bool)
deriving DecidableEq, Repr

/-! ## What hardware steps are told -/

/-- Where a coherence request is served: at the slice of a die, or at the line's home (10 R226, R227). -/
inductive Site where
  | slice (die : Fin 4)
  | home
deriving DecidableEq, Repr

/-- Where an arriving frame comes from: the outbound port of a cell (07 R172), a page-service post of a die
(18 R350), or another package (22 R401). -/
inductive Arrival where
  | port (sender : Nat) (dest : Nat) (chan : Fin 32)
  | pageService (index : Nat)
  | peer (flat : Nat) (chan : Fin 32) (ctxid : BitVec 16) (frame : Frame)
deriving DecidableEq, Repr

/-- Why an engine read failed: a cause of 14 R283 and R297 that the outside world brings about. -/
inductive EngineUpset where
  | none
  | ue (block : Nat)
deriving DecidableEq, Repr

/-- What the audit of a replay window finds in an entry (20 R380). -/
inductive AuditFinding where
  | single (seq : Nat)
  | uncorrectable (seq : Nat)
deriving DecidableEq, Repr

/-- The types of controllers, and so of signed images (23 R403, R405). -/
inductive CtrlType where
  | coronaip | dispatcher | baseDie | lath
deriving DecidableEq, Repr

/-- The header of a signed image without its signature, and the signature and body as numbers (23 R405). -/
structure SignedImage where
  type : BitVec 8
  key : BitVec 8
  version : BitVec 32
  length : BitVec 32
  hover : BitVec 32
  minver : BitVec 32
  reserved : BitVec 368
  signature : BitVec 512
  body : List Byte
deriving DecidableEq, Repr

/-- What bring-up finds and is told (23 R416): the fused-off cells by physical identifier and the stacks
present, the package's number, budgets, tables, the version, HOVER and MINVER of the images that controllers 2 to 25 load, and
the GiB of the expander behind each CXL port. -/
structure BringUp where
  absentCells : List Nat
  sliceBits : Vector (BitVec 64) 4
  stackBits : BitVec 12
  revoked : BitVec 4
  floors : Vector (BitVec 32) 4
  imageA : SignedImage
  imageB : SignedImage
  images : Vector (BitVec 32 × BitVec 32 × BitVec 32) 24
  pkg : BitVec 12
  budgets : Vector (BitVec 32) 24
  peers : List (Nat × Word)
  endpoints : List (Nat × Word × Word)
  regions : List (Nat × Nat × Nat)
  tierGiB : Vector Nat 8
  timeBase : Word
deriving DecidableEq, Repr

/-! ## The instructions -/

/-- One constructor per row of the opcode table. From `budget` on, the rows are steps of the hardware, not
instruction words; cells are logical numbers. -/
inductive Instr where
  -- scalar integer, multiply, bits (05 R95-R103)
  | add (t : Option IntTy) (d a b : GReg)
  | addImm (d a : GReg) (imm : BitVec 56)
  | sub (t : Option IntTy) (d a b : GReg)
  | subImm (d a : GReg) (imm : BitVec 56)
  | and (t : Option IntTy) (d a b : GReg)
  | andImm (d a : GReg) (imm : BitVec 56)
  | or (t : Option IntTy) (d a b : GReg)
  | orImm (d a : GReg) (imm : BitVec 56)
  | xor (t : Option IntTy) (d a b : GReg)
  | xorImm (d a : GReg) (imm : BitVec 56)
  | andn (t : Option IntTy) (d a b : GReg)
  | andnImm (d a : GReg) (imm : BitVec 56)
  | min (t : Option IntTy) (d a b : GReg)
  | minImm (d a : GReg) (imm : BitVec 56)
  | max (t : Option IntTy) (d a b : GReg)
  | maxImm (d a : GReg) (imm : BitVec 56)
  | sel (d a b : GReg) (p : PReg)
  | lea (d a b : GReg) (sh : Fin 5) (disp : BitVec 32)
  | mul (t : Option IntTy) (d a b : GReg)
  | mulImm (d a : GReg) (imm : BitVec 56)
  | mulh (t : Option IntTy) (d a b : GReg)
  | div (t : Option IntTy) (d a b : GReg)
  | rem (t : Option IntTy) (d a b : GReg)
  | madd (t : Option IntTy) (d a b c : GReg)
  | shl (t : Option IntTy) (d a b : GReg)
  | shlImm (d a : GReg) (imm : BitVec 56)
  | shr (t : Option IntTy) (d a b : GReg)
  | shrImm (d a : GReg) (imm : BitVec 56)
  | sar (t : Option IntTy) (d a b : GReg)
  | sarImm (d a : GReg) (imm : BitVec 56)
  | rotl (t : Option IntTy) (d a b : GReg)
  | rotlImm (d a : GReg) (imm : BitVec 56)
  | clz (t : Option IntTy) (d a : GReg)
  | ctz (t : Option IntTy) (d a : GReg)
  | popc (t : Option IntTy) (d a : GReg)
  | bext (t : Option WideTy) (d a : GReg) (pos len1 : Fin 64)
  | bins (d a : GReg) (pos len1 : Fin 64)
  | bswap (t : Option SwapTy) (d a : GReg)
  -- predicates (05 R104, R105)
  | cmp (t : Option IntTy) (c : Cond) (d : PReg) (a b : GReg)
  | pand (d a b : PReg) (na nb : Bool)
  | por (d a b : PReg) (na nb : Bool)
  | pxor (d a b : PReg) (na nb : Bool)
  | pmov (f : PmovForm)
  -- scalar floating point and conversions (05 R106-R111)
  | fadd (t : Option FpTy) (r : Rnd) (d a b : GReg)
  | fsub (t : Option FpTy) (r : Rnd) (d a b : GReg)
  | fmul (t : Option FpTy) (r : Rnd) (d a b : GReg)
  | fma (t : Option FpTy) (r : Rnd) (d a b c : GReg)
  | fdiv (t : Option FpTy) (r : Rnd) (d a b : GReg)
  | fsqrt (t : Option FpTy) (r : Rnd) (d a : GReg)
  | fmin (t : Option FpTy) (d a b : GReg)
  | fmax (t : Option FpTy) (d a b : GReg)
  | fcmp (t : Option FpTy) (c : FCond) (d : PReg) (a b : GReg)
  | fcls (t : Option FpTy) (d a : GReg)
  | cvt (dt st : NumTy) (r : Rnd) (d a : GReg)
  | fround (t : Option FpTy) (r : Rnd) (d a : GReg)
  -- moves and special registers (05 R112-R114)
  | mov (t : Option IntTy) (d a : GReg)
  | movImm (d : GReg) (imm : BitVec 56)
  | mfs (d : GReg) (r : SReg)
  | mts (r : SReg) (a : GReg)
  | mtsSspill (a : GReg)
  | mtsScarve (a : GReg)
  | mtsSvgroup (a : GReg)
  | mtsSdomain (a : GReg)
  -- control (05 R115-R117)
  | br (imm : BitVec 56)
  | jmp (a : GReg)
  | call (a : GReg)
  | callImm (imm : BitVec 56)
  | ret (a : GReg)
  | loop (d : GReg) (imm : BitVec 56)
  | endAct
  | nop
  -- memory (05 R118-R121; 12 R245-R262)
  | ld (sz : Size) (ord : MemOrder) (sign : Bool) (d : GReg) (m : MemOp)
  | st (sz : Size) (ord : MemOrder) (d : GReg) (m : MemOp)
  | pref (intent : Fin 4) (m : MemOp)
  | stx (sz : Size) (d : GReg) (m : MemOp)
  | cwb (sc : Scope) (n1 : Fin 128) (m : MemOp)
  | cinv (sc : Scope) (n1 : Fin 128) (m : MemOp)
  | amo (sz : Size) (sc : Scope) (sign : Bool) (op : AmoOp) (o : RmwOrder) (d : GReg) (m : MemOp)
  | cas (sz : Size) (sc : Scope) (sign : Bool) (o : RmwOrder) (d : GReg) (m : MemOp)
  | fence (o : FenceOrder) (sc : Scope)
  -- named barriers (12 R254-R259)
  | bset (d a : GReg) (b : Fin 256)
  | barr (d : GReg) (b : Fin 256)
  | bwait (a : GReg) (b : Fin 256)
  | bsync (b : Fin 256)
  | bxch (b : Fin 256)
  -- tasks and messages (08 R186-R199)
  | spawn (a : GReg)
  | send (a b : GReg)
  | arm (d a b : GReg)
  | join (a : GReg)
  | chset (a : GReg) (ch : Fin 32)
  | chmsk (d a : GReg) (op : ChmskOp)
  -- system (18 R346-R354; 20 R370)
  | trap (code : BitVec 16)
  | tret
  | twait (d a : GReg)
  | tabort
  | fpostPost (a : GReg) (k : AccessKind)
  | fpostServe (a b : GReg) (fail : Bool)
  | tlbinv (e : TlbExtent)
  | shand (d a : GReg)
  | shandQuery (d : GReg)
  -- place (16 R322-R334)
  | pnew (d a b : GReg) (sp : Fin 16)
  | pdel (a : GReg)
  | pset (d a b : GReg)
  | pld (d a : GReg) (w : Fin 16)
  | pstw (d a : GReg) (w : Fin 16)
  | pqbox (d a b : GReg) (sp : Fin 16)
  | pqrad (d a b : GReg) (sp : Fin 16)
  | pqwait (d a : GReg)
  | pres (d a : GReg)
  | pmap (d a : GReg) (sp : Fin 16)
  | pspcDefine (d a : GReg) (sp : Fin 16)
  | pspcDelete (d a : GReg) (sp : Fin 16)
  -- engines (14 R275-R291)
  | cpy (d a : GReg) (out : Bool) (ch : Fin 2)
  | cpwp (d : GReg) (ch : Fin 2)
  | cpwait (d a : GReg) (ch : Fin 2)
  | tgive (a : GReg) (n1 : Fin 256) (e : Engine)
  | ttake (a : GReg) (n1 : Fin 256)
  | mxq (d a : GReg)
  | mxwait (a : GReg)
  | shdef (d a b : GReg)
  | shkill (a : GReg)
  -- vector integer (06 R128-R130)
  | vadd (t : Option LaneInt) (d a : VReg) (b : VSrc) (k : MaskSel)
  | vsub (t : Option LaneInt) (d a : VReg) (b : VSrc) (k : MaskSel)
  | vmin (t : Option LaneInt) (d a : VReg) (b : VSrc) (k : MaskSel)
  | vmax (t : Option LaneInt) (d a : VReg) (b : VSrc) (k : MaskSel)
  | vabs (t : Option LaneInt) (d a : VReg) (k : MaskSel)
  | vadds (t : Option LaneInt) (d a : VReg) (b : VSrc) (k : MaskSel)
  | vsubs (t : Option LaneInt) (d a : VReg) (b : VSrc) (k : MaskSel)
  | vmul (t : Option LaneInt) (d a : VReg) (b : VSrc) (k : MaskSel)
  | vmulh (t : Option LaneInt) (d a : VReg) (b : VSrc) (k : MaskSel)
  | vmadd (t : Option LaneInt) (d a : VReg) (b : VSrc) (c : VReg) (k : MaskSel)
  | vdot4 (t : Option DotTy) (d a : VReg) (b : VSrc) (k : MaskSel)
  | vand (t : Option LaneInt) (d a : VReg) (b : VSrc) (k : MaskSel)
  | vor (t : Option LaneInt) (d a : VReg) (b : VSrc) (k : MaskSel)
  | vxor (t : Option LaneInt) (d a : VReg) (b : VSrc) (k : MaskSel)
  | vshl (t : Option LaneInt) (d a : VReg) (b : VSrc) (k : MaskSel)
  | vshr (t : Option LaneInt) (d a : VReg) (b : VSrc) (k : MaskSel)
  | vsar (t : Option LaneInt) (d a : VReg) (b : VSrc) (k : MaskSel)
  -- masks (06 R131, R132)
  | vcmp (t : Option LaneInt) (c : Cond) (d : MReg) (a : VReg) (b : VSrc) (k : MaskSel)
  | vsel (t : Option LaneTy) (d a : VReg) (b : VSrc) (m : MReg)
  | mand (d a b : MReg) (na nb : Bool)
  | mor (d a b : MReg) (na nb : Bool)
  | mxor (d a b : MReg) (na nb : Bool)
  | mpop (t : Option LaneInt) (d : GReg) (a : MReg)
  -- vector floating point and formats (06 R133-R140)
  | vfadd (t : Option FpTy) (r : Rnd) (d a : VReg) (b : VSrc) (k : MaskSel)
  | vfsub (t : Option FpTy) (r : Rnd) (d a : VReg) (b : VSrc) (k : MaskSel)
  | vfmul (t : Option FpTy) (r : Rnd) (d a : VReg) (b : VSrc) (k : MaskSel)
  | vffma (t : Option FpTy) (r : Rnd) (d a : VReg) (b : VSrc) (c : VReg) (k : MaskSel)
  | vfmin (t : Option FpTy) (d a : VReg) (b : VSrc) (k : MaskSel)
  | vfmax (t : Option FpTy) (d a : VReg) (b : VSrc) (k : MaskSel)
  | vfdiv (t : Option FpTy) (r : Rnd) (d a : VReg) (b : VSrc) (k : MaskSel)
  | vfsqrt (t : Option FpTy) (r : Rnd) (d a : VReg) (k : MaskSel)
  | vfexp2 (t : Option FpTy) (r : Rnd) (d a : VReg) (k : MaskSel)
  | vfcmp (t : Option FpTy) (c : FCond) (d : MReg) (a : VReg) (b : VSrc) (k : MaskSel)
  | vcvt (dt st : LaneTy) (r : Rnd) (part : Fin 4) (d a : VReg) (k : MaskSel)
  | vpkbx (f : BxTy) (d a : VReg) (b : GReg) (c : VReg) (sp : Fin 16) (blk : Fin 8)
  | vunbx (f : BxTy) (d a : VReg) (b : GReg) (blk : Fin 8) (k : MaskSel)
  | vtrl (d a : VReg)
  -- permutation and reduction (06 R141-R144)
  | vbcast (t : Option LaneTy) (d : VReg) (a : GReg) (k : MaskSel)
  | vbcastImm (d : VReg) (imm : BitVec 56)
  | vperm (t : Option LaneTy) (d a b : VReg) (k : MaskSel)
  | vslide (t : Option LaneTy) (d a : VReg) (b : GReg) (k : MaskSel)
  | vred (t : Option LaneTy) (r : Rnd) (op : RedOp) (d : GReg) (a : VReg) (m : Option MReg)
  | vins (t : Option LaneTy) (d : VReg) (a b : GReg)
  | vext (t : Option LaneTy) (d : GReg) (a : VReg) (b : GReg)
  -- vector memory and geometry (06 R145-R151)
  | vld (sz : VSize) (ord : MemOrder) (d : VReg) (m : MemOp) (k : MaskSel)
  | vst (sz : VSize) (ord : MemOrder) (d : VReg) (m : MemOp) (k : Option MReg)
  | vlds (sz : VSize) (ord : MemOrder) (d : VReg) (m : MemOp) (k : MaskSel)
  | vsts (sz : VSize) (ord : MemOrder) (d : VReg) (m : MemOp) (k : Option MReg)
  | vldx (sz : VSize) (ord : MemOrder) (d : VReg) (m : MemOp) (k : MaskSel)
  | vstx (sz : VSize) (ord : MemOrder) (d : VReg) (m : MemOp) (k : Option MReg)
  | vrigid (typed : Bool) (d a b : VReg) (k : MaskSel)
  | vdist2 (typed : Bool) (d a b : VReg) (k : MaskSel)
  -- steps of the scheduler (07 R158-R185; 18 R341)
  | budget (c : Nat) (k : Fin 4)
  | handlerLimit (c : Nat) (k : Fin 4)
  | selection (c : Nat)
  | sendHandoff (c : Nat) (k : Fin 4)
  | stealRequest (thief victim : Nat)
  | stealClaim (thief : Nat)
  | stealEmpty (thief : Nat)
  | stealInstall (thief : Nat)
  | installBufferDrain (c : Nat)
  | messageArrival (m : Arrival)
  | frameRefused (sender dest : Nat) (chan : Fin 32) (nowhere : Bool)
  | outboundRetry (sender dest : Nat) (chan : Fin 32)
  | preemptRequest (c : Nat) (ctxid : BitVec 16)
  -- held: the lines that stand in way 15 of the slices (10 R220; log 19)
  | contextSave (c : Nat) (held : List Nat)
  | restoreRequest (c : Nat) (ctxid : BitVec 16) (image : Nat)
  | contextRestore (c : Nat)
  | wakeArrival (c : Nat) (part : Nat)
  | launchRootStart (c : Nat)
  -- coherence and translation (10 R206-R228)
  | gets (at_ : Site) (from_ : Nat) (line : Nat)
  | getm (at_ : Site) (from_ : Nat) (line : Nat)
  | put (at_ : Site) (from_ : Nat) (line : Nat)
  | probe (i : Nat)
  | probeAnswer (i : Nat)
  | conflictRetry (i : Nat)
  | pageWalk (c : Nat) (va : Word)
  | pinRelease (die : Fin 4) (line : Nat)
  | stxLanding (i : Nat)
  | barrierReport (i : Nat)
  -- engines (14 R282, R294-R299)
  | cchLand (c : Nat) (ch : Fin 2) (n : Nat) (u : EngineUpset)
  | mma (c : Nat) (u : EngineUpset)
  | mmv (c : Nat) (u : EngineUpset)
  | mvld (c : Nat) (u : EngineUpset)
  | mzero (c : Nat)
  | macld (c : Nat) (u : EngineUpset)
  | macst (c : Nat) (u : EngineUpset)
  | narrowEnter (c : Nat)
  | narrowExit (c : Nat)
  -- place agents (16 R310-R318)
  | derefAtHome (space home slot : Nat)
  | moveDeparture (i : Nat)
  | moveArrival (i : Nat)
  | moveAck (i : Nat)
  | moveRefuse (i : Nat)
  | moveHomeUpdate (i : Nat)
  | queryRequest (i : Nat) (owner : Nat)
  | queryAnswer (i : Nat) (owner : Nat)
  | tombstoneFree (space owner slot : Nat)
  -- scrim tree (18 R349-R351)
  | scrimPost (i : Nat)
  | scrimPostRetry (i : Nat)
  | scrimWake (i : Nat)
  | wakeDelivery (i : Nat)
  -- dies and laths (20 R366-R387)
  | handoverStage (stack : Fin 12)
  | notownerRetry (i : Nat)
  | flitReceive (link : Fin 12) (intact : Bool)
  | lathReplay (link : Fin 8)
  | retrainComplete (lath : Fin 4) (trained : Bool)
  | replayAudit (link : Fin 8) (found : List AuditFinding)
  | dieUnreachable (d : Fin 4)
  | fenceConfirm (d : Fin 4)
  | dieRejoin (d : Fin 4)
  -- host and launch (22 R389-R402)
  | rdmaWrite (key addr : Nat) (data : List Byte)
  | rdmaRead (key addr n : Nat)
  | launchParse (slot : Fin 512)
  | launchForward (pkg : Nat) (slot : Fin 512) (record : Vector Word 16)
  | admission (part : Nat)
  | admissionRecheck (part : Nat)
  | completionDetect (part : Nat)
  | completionWrite (part : Nat)
  | completionNotice (slot : Fin 512) (pkg : Nat)
  | ptpMessage (ns : Word)
  -- platform (23 R403-R416)
  | powerAlarm (island : Fin 24) (celsius : Nat)
  | alarmClear (island : Fin 24) (celsius : Nat)
  | thermalCutoff (island : Fin 24) (celsius : Nat)
  | imageUpdate (img : SignedImage)
  | controllerCheckIn
  | updateWatchdog
  | coronaipFailover
  | patrolScrub (stack : Option (Fin 12))
  | powerOn (b : BringUp)
  | energyCounterUpdate (island : Fin 24) (microjoules : Nat)
  | cxlLinkDown (port : Fin 8)
  | versionFloorRaise (t : CtrlType)
deriving DecidableEq, Repr

end Sys2Proof
end

