-- ==== Sys2Proof/Config.lean ====
section
/-! DEFINITION. What the spec leaves to an implementation, as constants without a body: no proof can see their value. -/

namespace Sys2Proof.Config

/-- A value the spec leaves open, one for each reading of the counter State.freeNo (log 20 DESIGN CHOICE). -/
opaque freeWord : Nat → Word

/-- A byte the spec leaves open (log 20 DESIGN CHOICE). -/
opaque freeByte : Nat → Byte

/-- The hash of a line from which the slice that serves it and its set there are taken (10 R220; 01 R16; log 17 DESIGN CHOICE). -/
opaque lineHash : Nat → Nat

/-- The set of a home's snoop filter that holds the entry of a line (10 R227; log 17 DESIGN CHOICE). -/
opaque snoopSet : Nat → Nat

/-- The set of a cluster's L2 TLB that holds the translation of a page (10 R211; log 17 DESIGN CHOICE). -/
opaque tlbSet : Nat → Nat

/-- The way that a replacement takes at a turn (10 R212; log 19 DESIGN CHOICE). -/
opaque victim : Nat → Nat

/-- The transient STATE code of a locked entry, by its stable one, less 8 (10 R223; log 58 DESIGN CHOICE). -/
opaque transientState : Nat → Nat

/-- Whether the signature of an image verifies under the key slot's public key (23 R405; log 16 DESIGN CHOICE). -/
opaque signatureOk : SignedImage → Bool

end Sys2Proof.Config
end

