-- ==== Sys2Proof/Machine/Bits.lean ====
section
/-! DEFINITION. Integers of a type, lanes of a vector register, masks, integer operations, CRC-32C:
the arithmetic that reads no state (00 R3; 02 R26; 04 R70, R71, R86; 05 R91, R98-R103; 06 R122, R124, R128-R130). -/

namespace Sys2Proof.Machine

/-! ## Integer types (04 R70, R71) -/

/-- The width N of an integer type. -/
def intWidth : IntTy → Nat
  | .i8 | .n8 => 8
  | .i16 | .n16 => 16
  | .i32 | .n32 => 32
  | .i64 | .n64 => 64

/-- Whether the type is one of `.iN`. -/
def intSigned : IntTy → Bool
  | .i8 | .i16 | .i32 | .i64 => true
  | .n8 | .n16 | .n32 | .n64 => false

/-- The value of N bits read under a signedness. -/
def readInt {n : Nat} (signed : Bool) (x : BitVec n) : Int :=
  if signed then x.toInt else x.toNat

/-- Signed when `signed`, else zero extension of N bits to a g register (R71). -/
def extend {n : Nat} (signed : Bool) (x : BitVec n) : Word :=
  if signed then x.signExtend 64 else x.setWidth 64

/-- In(x): the low N bits of a g source under the suffix's signedness (R91). -/
def inVal (t : IntTy) (x : Word) : Int := readInt (intSigned t) (x.setWidth (intWidth t))

/-- Out(y) of N bits that have been formed (R91). -/
def outBits (t : IntTy) (y : BitVec (intWidth t)) : Word := extend (intSigned t) y

/-- Out(y): the low N bits of the exact result, extended to 64 bits (R91). -/
def outVal (t : IntTy) (y : Int) : Word := outBits t (BitVec.ofInt (intWidth t) y)

/-- The largest value of N bits under a signedness (R70). -/
def maxInt (signed : Bool) (n : Nat) : Int :=
  if signed then 2 ^ (n - 1) - 1 else 2 ^ n - 1

/-- The smallest value of N bits under a signedness (R70). -/
def minInt (signed : Bool) (n : Nat) : Int :=
  if signed then -(2 ^ (n - 1)) else 0

/-- Saturation to the range of N bits (R70). -/
def clampInt (signed : Bool) (n : Nat) (y : Int) : Int :=
  max (minInt signed n) (min (maxInt signed n) y)

/-- A quotient rounded to the nearest integer, ties to even (06 R150). -/
def divNearestEven (a : Int) (b : Nat) : Int :=
  let q := a / (b : Int)
  let r := 2 * (a % (b : Int))
  if r < b then q else if (b : Int) < r then q + 1 else if q % 2 = 0 then q else q + 1

/-! ## Shifts and bit counts at width N (05 R101-R103) -/

/-- shl with an unsigned count that is not narrowed (R101). -/
def shlBits {n : Nat} (a : BitVec n) (c : Nat) : BitVec n := if c < n then a <<< c else 0

/-- shr (R101). -/
def shrBits {n : Nat} (a : BitVec n) (c : Nat) : BitVec n := if c < n then a >>> c else 0

/-- sar: a count of N or more gives N copies of bit N - 1 (R101). -/
def sarBits {n : Nat} (a : BitVec n) (c : Nat) : BitVec n :=
  a.sshiftRight (if c < n then c else n - 1)

/-- rotl by the count modulo N (R101). -/
def rotlBits {n : Nat} (a : BitVec n) (c : Nat) : BitVec n := a.rotateLeft (c % n)

/-- The number of ones among the low k bits. -/
def popCount {n : Nat} (a : BitVec n) : Nat → Nat
  | 0 => 0
  | k + 1 => popCount a k + (a.getLsbD k).toNat

/-- The number of leading zeros of the low k bits, seen from bit k - 1 (R102). -/
def leadZeros {n : Nat} (a : BitVec n) : Nat → Nat
  | 0 => 0
  | k + 1 => if a.getLsbD k then 0 else leadZeros a k + 1

/-- The number of trailing zeros, from bit n - k on, with k bits left to look at (R102). -/
def trailZeros {n : Nat} (a : BitVec n) : Nat → Nat
  | 0 => 0
  | k + 1 => if a.getLsbD (n - (k + 1)) then 0 else trailZeros a k + 1

/-! ## Bytes (00 R3) -/

/-- The k bytes of a number, least significant first. -/
def bytesOf (x : Nat) : Nat → List Byte
  | 0 => []
  | k + 1 => BitVec.ofNat 8 x :: bytesOf (x / 256) k

/-- The number that bytes hold, least significant first. -/
def natOf : List Byte → Nat
  | [] => 0
  | b :: bs => b.toNat + 256 * natOf bs

/-- The word of the bytes, least significant first. -/
def wordOf (bs : List Byte) : Word := BitVec.ofNat 64 (natOf bs)

/-- The low N/8 bytes reversed (05 R102). -/
def swapBytes {n : Nat} (a : BitVec n) : BitVec n :=
  BitVec.ofNat n (natOf (bytesOf a.toNat (n / 8)).reverse)

/-! ## Lanes (02 R26; 06 R122) -/

/-- The width of an integer lane type. -/
def laneIntWidth : LaneInt → Nat
  | .i8 | .n8 => 8
  | .i16 | .n16 => 16
  | .i32 | .n32 => 32

/-- Whether an integer lane type is signed. -/
def laneIntSigned : LaneInt → Bool
  | .i8 | .i16 | .i32 => true
  | .n8 | .n16 | .n32 => false

/-- The width of a floating-point format. -/
def fpWidth : FpTy → Nat
  | .f16 | .bf16 => 16
  | .f32 => 32

/-- The width of a lane type. -/
def laneWidth : LaneTy → Nat
  | .int t => laneIntWidth t
  | .fp t => fpWidth t

/-- The lane count L = 1024 / N (R122). -/
def laneCount (n : Nat) : Nat := 1024 / n

/-- Lane i at width n occupies bits [(i + 1)n - 1 : in] (R26). -/
def lane (n : Nat) (v : VecWord) (i : Nat) : BitVec n := v.extractLsb' (n * i) n

/-- The number whose lane i at width n is `f i`, for the first k lanes. -/
def packLanes (n : Nat) (f : Nat → BitVec n) : Nat → Nat
  | 0 => 0
  | k + 1 => packLanes n f k + (f k).toNat * 2 ^ (n * k)

/-- The vector register whose lane i is `f i`. -/
def ofLanes (n : Nat) (f : Nat → BitVec n) : VecWord :=
  BitVec.ofNat 1024 (packLanes n f (laneCount n))

/-- Whether a lane is active under a mask value, none for an unmasked operation (R124). -/
def laneActive (k : Option MaskWord) (i : Nat) : Bool :=
  match k with
  | none => true
  | some m => m.getLsbD i

/-- What a lane of the destination becomes: the result where active, else kept or zeroed (R124). -/
def maskedLane {n : Nat} (active z : Bool) (old new : BitVec n) : BitVec n :=
  if active then new else if z then 0 else old

/-- A destination register under a mask: inactive lanes keep or are zeroed (R124). -/
def maskedLanes (n : Nat) (k : Option MaskWord) (z : Bool) (old : VecWord)
    (f : Nat → BitVec n) : VecWord :=
  ofLanes n (fun i => maskedLane (laneActive k i) z (lane n old i) (f i))

/-- Bits 0 to k - 1 chosen by `f`, higher bits those of `old` (R131). -/
def setMaskBits (f : Nat → Bool) (old : MaskWord) : Nat → MaskWord
  | 0 => old
  | k + 1 =>
    let m := setMaskBits f old k
    if f k then m ||| (1#128 <<< k) else m &&& ~~~(1#128 <<< k)

/-- An m destination: bits below L from active lanes, inactive ones kept or zeroed (R124, R131). -/
def maskedBits (l : Nat) (k : Option MaskWord) (z : Bool) (old : MaskWord)
    (f : Nat → Bool) : MaskWord :=
  setMaskBits (fun i => if laneActive k i then f i else !z && old.getLsbD i) old l

/-- Register bytes: byte j of a v register (R26). -/
def vecByte (v : VecWord) (j : Nat) : Byte := lane 8 v j

/-- Bytes `at_` to `at_ + bs.length - 1` of a v register replaced. -/
def setVecBytes (v : VecWord) (at_ : Nat) (bs : List Byte) : VecWord :=
  ofLanes 8 (fun j => if at_ ≤ j ∧ j < at_ + bs.length then bs.getD (j - at_) 0 else vecByte v j)

/-- k bytes of a v register from byte `at_` on. -/
def vecBytes (v : VecWord) (at_ k : Nat) : List Byte :=
  (List.range k).map (fun j => vecByte v (at_ + j))

/-! ## CRC-32C (04 R86; 06 R137, R140) -/

/-- The reflected Castagnoli constant. -/
def crcPoly : BitVec 32 := 0x82F63B78#32

/-- One bit of the reflected register. -/
def crcBit (c : BitVec 32) : BitVec 32 :=
  if c.getLsbD 0 then (c >>> 1) ^^^ crcPoly else c >>> 1

/-- k bits of the reflected register. -/
def crcBits (c : BitVec 32) : Nat → BitVec 32
  | 0 => c
  | k + 1 => crcBits (crcBit c) k

/-- One byte into the register. -/
def crcByte (c : BitVec 32) (b : Byte) : BitVec 32 := crcBits (c ^^^ b.setWidth 32) 8

/-- Continuing a finished CRC value over more bytes (06 R137). -/
def crcContinue (c : BitVec 32) (bs : List Byte) : BitVec 32 :=
  ~~~(bs.foldl crcByte (~~~c))

/-- CRC-32C of bytes (R86). -/
def crc32c (bs : List Byte) : BitVec 32 := crcContinue 0 bs

/-- The product of two reflected polynomials modulo the Castagnoli polynomial, over the first k bits of `a`
from bit 31 down. -/
def crcMul (a b : BitVec 32) : Nat → BitVec 32
  | 0 => 0
  | k + 1 => (if a.getLsbD k then b else 0) ^^^ crcMul a (crcBit b) k

/-- The factor x^(8n) for a byte count of at most k bits; `sq` is x^(8·2^i) at the i-th call. -/
def crcShiftFactor (n : Nat) (sq acc : BitVec 32) : Nat → BitVec 32
  | 0 => acc
  | k + 1 =>
    crcShiftFactor (n / 2) (crcMul sq sq 32) (if n % 2 = 1 then crcMul sq acc 32 else acc) k

/-- The CRC of a first part followed by a second of n bytes, from their two CRCs (06 R140). -/
def crcCombine (c1 c2 : BitVec 32) (n : Nat) : BitVec 32 :=
  crcMul (crcShiftFactor n 0x00800000#32 0x80000000#32 34) c1 32 ^^^ c2

end Sys2Proof.Machine
end

