-- ==== Sys2Proof/Machine/Float.lean ====
section
/-! DEFINITION. Floating-point arithmetic: every result is the exact result rounded once (04 R72-R78; 05 R106-R111;
06 R134). A value of any format is held in 32 bits; the 16-bit formats use the low 16 (05 R92). -/

namespace Sys2Proof.Machine

/-- Bits of a floating-point value; a 16-bit format uses the low 16. -/
abbrev FpBits := BitVec 32

/-! ## Formats (04 R72) -/

/-- The number of fraction bits. -/
def fracBits : FpTy → Nat
  | .f16 => 10
  | .bf16 => 7
  | .f32 => 23

/-- The number of exponent bits. -/
def expBits : FpTy → Nat
  | .f16 => 5
  | .bf16 | .f32 => 8

/-- The exponent bias. -/
def expBias (t : FpTy) : Nat := 2 ^ (expBits t - 1) - 1

/-- The exponent of the last place of a subnormal: the smallest subnormal is 2 to this power. -/
def minExp (t : FpTy) : Int := 1 - (expBias t : Int) - fracBits t

/-- The bits of +infinity. -/
def infMag (t : FpTy) : Nat := (2 ^ expBits t - 1) * 2 ^ fracBits t

/-- The weight of the sign bit. -/
def signBit (t : FpTy) : Nat := 2 ^ (fpWidth t - 1)

/-- The low bits of the format. -/
def fpTrunc (t : FpTy) (x : FpBits) : FpBits := BitVec.ofNat 32 (x.toNat % 2 ^ fpWidth t)

/-- The sign. -/
def fpNeg (t : FpTy) (x : FpBits) : Bool := x.getLsbD (fpWidth t - 1)

/-- The bits below the sign. -/
def fpMag (t : FpTy) (x : FpBits) : Nat := x.toNat % signBit t

/-- The bits with this sign and magnitude. -/
def fpMake (t : FpTy) (neg : Bool) (mag : Nat) : FpBits :=
  BitVec.ofNat 32 (mag + if neg then signBit t else 0)

/-- Whether the bits are a NaN (R72). -/
def fpIsNan (t : FpTy) (x : FpBits) : Bool := infMag t < fpMag t x

/-- Whether the bits are an infinity (R72). -/
def fpIsInf (t : FpTy) (x : FpBits) : Bool := fpMag t x = infMag t

/-- The integer significand of a finite value: its value is this times 2 to `fpExp`. -/
def fpSig (t : FpTy) (x : FpBits) : Nat :=
  let f := fpMag t x % 2 ^ fracBits t
  if fpMag t x / 2 ^ fracBits t = 0 then f else f + 2 ^ fracBits t

/-- The exponent of the significand's last place. -/
def fpExp (t : FpTy) (x : FpBits) : Int :=
  minExp t + ((fpMag t x / 2 ^ fracBits t - 1 : Nat) : Int)

/-- A signed integer significand: minus when the sign is set. -/
def signedNat (neg : Bool) (m : Nat) : Int := if neg then -(m : Int) else m

/-- The quiet bit set (R76-R78). -/
def fpQuiet (t : FpTy) (x : FpBits) : FpBits := fpTrunc t x ||| BitVec.ofNat 32 (2 ^ (fracBits t - 1))

/-! ## Rounding (04 R73) -/

/-- Whether a magnitude with quotient `q` and remainder `r` out of `d` is rounded up. -/
def roundsUp (rnd : Rnd) (neg : Bool) (q r d : Nat) : Bool :=
  match rnd with
  | .rne => d < 2 * r || (2 * r = d && q % 2 = 1)
  | .rtz => false
  | .rup => !neg && 0 < r
  | .rdn => neg && 0 < r

/-- The magnitude m·2^e as a multiple of 2^q, rounded. -/
def roundAt (rnd : Rnd) (neg : Bool) (m : Nat) (e q : Int) : Nat :=
  if q ≤ e then m * 2 ^ (e - q).toNat
  else
    let d := 2 ^ (q - e).toNat
    m / d + (roundsUp rnd neg (m / d) (m % d) d).toNat

/-- A result beyond the largest finite value (R73). -/
def fpOverflow (t : FpTy) (rnd : Rnd) (neg : Bool) : FpBits :=
  match rnd with
  | .rne => fpMake t neg (infMag t)
  | .rtz => fpMake t neg (infMag t - 1)
  | .rup => fpMake t neg (if neg then infMag t - 1 else infMag t)
  | .rdn => fpMake t neg (if neg then infMag t else infMag t - 1)

/-- The finite value (-1)^neg · m·2^e rounded to the format (R73, R74). -/
def fpRound (t : FpTy) (rnd : Rnd) (neg : Bool) (m : Nat) (e : Int) : FpBits :=
  let len : Int := if m = 0 then 0 else (Nat.log2 m + 1 : Nat)
  let q := max (minExp t) (e + len - (fracBits t + 1))
  let mag := (q - minExp t).toNat * 2 ^ fracBits t + roundAt rnd neg m e q
  if m = 0 then fpMake t neg 0
  else if infMag t ≤ mag then fpOverflow t rnd neg
  else fpMake t neg mag

/-- The exact sum of two finite values rounded; the sign of an exact zero is R73's. -/
def fpRoundSum (t : FpTy) (rnd : Rnd) (n1 : Bool) (m1 : Nat) (e1 : Int) (n2 : Bool) (m2 : Nat)
    (e2 : Int) : FpBits :=
  let e := min e1 e2
  let s := signedNat n1 m1 * 2 ^ (e1 - e).toNat + signedNat n2 m2 * 2 ^ (e2 - e).toNat
  if s = 0 then fpMake t (if n1 = n2 then n1 else rnd = .rdn) 0
  else fpRound t rnd (s < 0) s.natAbs e

/-- The magnitude m·2^e rounded to an integer. -/
def roundToNat (rnd : Rnd) (neg : Bool) (m : Nat) (e : Int) : Nat := roundAt rnd neg m e 0

/-! ## NaNs (04 R76-R78) -/

/-- The NaN an operation creates; `tag` is CELL<<12 | K (R76, R78). -/
def nanCreated (t : FpTy) (tag : BitVec 22) : FpBits :=
  match t with
  | .f32 => 0x7FC00000#32 ||| tag.setWidth 32
  | .bf16 => 0x7FC0#32
  | .f16 => 0x7E00#32

/-- The tag of cell c at index k (R76). -/
def nanTag (cell : Nat) (k : Nat) : BitVec 22 := BitVec.ofNat 22 (cell * 4096 + k)

/-- Of two FP32 NaNs the one of the smaller payload, the first if they are equal (R77). -/
def nanSmaller (x y : FpBits) : FpBits := if y.toNat % 2 ^ 22 < x.toNat % 2 ^ 22 then y else x

/-- The operand NaN that a result takes, if any operand is a NaN (R77, R78). -/
def nanOf (t : FpTy) (xs : List FpBits) : Option FpBits :=
  match xs.filter (fpIsNan t) with
  | [] => none
  | x :: rest =>
    some (fpQuiet t (match t with
      | .f32 => rest.foldl nanSmaller x
      | _ => x))

/-- An operation: an operand NaN decides, else the body does (R106). -/
def withNans (t : FpTy) (xs : List FpBits) (body : FpBits) : FpBits :=
  match nanOf t xs with
  | some n => n
  | none => body

/-! ## Arithmetic (05 R106) -/

/-- a × b + c, rounded once, with the signs and infinities of IEEE 754; NaN operands excluded. -/
def fmaBody (t : FpTy) (rnd : Rnd) (tag : BitVec 22) (a b c : FpBits) : FpBits :=
  let ns := fpNeg t a != fpNeg t b
  let pInf := fpIsInf t a || fpIsInf t b
  if pInf then
    if fpMag t a = 0 || fpMag t b = 0 then nanCreated t tag
    else if fpIsInf t c && fpNeg t c != ns then nanCreated t tag
    else fpMake t ns (infMag t)
  else if fpIsInf t c then fpTrunc t c
  else fpRoundSum t rnd ns (fpSig t a * fpSig t b) (fpExp t a + fpExp t b) (fpNeg t c) (fpSig t c) (fpExp t c)

/-- fma (R106). -/
def fpFma (t : FpTy) (rnd : Rnd) (tag : BitVec 22) (a b c : FpBits) : FpBits :=
  withNans t [a, b, c] (fmaBody t rnd tag a b c)

/-- a + b without NaN operands. -/
def addBody (t : FpTy) (rnd : Rnd) (tag : BitVec 22) (a b : FpBits) : FpBits :=
  if fpIsInf t a then
    if fpIsInf t b && fpNeg t b != fpNeg t a then nanCreated t tag else fpTrunc t a
  else if fpIsInf t b then fpTrunc t b
  else fpRoundSum t rnd (fpNeg t a) (fpSig t a) (fpExp t a) (fpNeg t b) (fpSig t b) (fpExp t b)

/-- The sign turned. -/
def fpFlip (t : FpTy) (x : FpBits) : FpBits := fpTrunc t x ^^^ BitVec.ofNat 32 (signBit t)

/-- fadd (R106). -/
def fpAdd (t : FpTy) (rnd : Rnd) (tag : BitVec 22) (a b : FpBits) : FpBits :=
  withNans t [a, b] (addBody t rnd tag a b)

/-- fsub (R106); a NaN operand keeps its own sign (R77). -/
def fpSub (t : FpTy) (rnd : Rnd) (tag : BitVec 22) (a b : FpBits) : FpBits :=
  withNans t [a, b] (addBody t rnd tag a (fpFlip t b))

/-- fmul (R106). -/
def fpMul (t : FpTy) (rnd : Rnd) (tag : BitVec 22) (a b : FpBits) : FpBits :=
  let ns := fpNeg t a != fpNeg t b
  withNans t [a, b]
    (if fpIsInf t a || fpIsInf t b then
      if fpMag t a = 0 || fpMag t b = 0 then nanCreated t tag else fpMake t ns (infMag t)
    else fpRound t rnd ns (fpSig t a * fpSig t b) (fpExp t a + fpExp t b))

/-- fdiv (R106). The quotient is formed to 64 places below its operands', with one sticky place below. -/
def fpDiv (t : FpTy) (rnd : Rnd) (tag : BitVec 22) (a b : FpBits) : FpBits :=
  let ns := fpNeg t a != fpNeg t b
  withNans t [a, b]
    (if fpIsInf t a then
      if fpIsInf t b then nanCreated t tag else fpMake t ns (infMag t)
    else if fpIsInf t b then fpMake t ns 0
    else if fpMag t b = 0 then
      if fpMag t a = 0 then nanCreated t tag else fpMake t ns (infMag t)
    else
      let n := fpSig t a * 2 ^ 64
      let d := fpSig t b
      fpRound t rnd ns (2 * (n / d) + (if n % d = 0 then 0 else 1)) (fpExp t a - fpExp t b - 65))

/-- The integer square root of `x`, k binary places, from the root `r` of the places above. -/
def rootBits (x : Nat) (r : Nat) : Nat → Nat
  | 0 => r
  | k + 1 =>
    let r' := r + 2 ^ k
    rootBits x (if r' * r' ≤ x then r' else r) k

/-- The integer square root of a number below 2^(2k). -/
def rootNat (x k : Nat) : Nat := rootBits x 0 k

/-- fsqrt (R106). -/
def fpSqrt (t : FpTy) (rnd : Rnd) (tag : BitVec 22) (a : FpBits) : FpBits :=
  withNans t [a]
    (if fpMag t a = 0 then fpTrunc t a
    else if fpNeg t a then nanCreated t tag
    else if fpIsInf t a then fpTrunc t a
    else
      let odd := fpExp t a % 2
      let x := fpSig t a * 2 ^ odd.toNat * 2 ^ 64
      let r := rootNat x 48
      fpRound t rnd false (2 * r + (if r * r = x then 0 else 1)) ((fpExp t a - odd) / 2 - 33))

/-! ## Comparison, classes, minimum, maximum (05 R107-R109) -/

/-- The order key of a value: -0 is just below +0. -/
def fpKey (t : FpTy) (x : FpBits) : Int :=
  if fpNeg t x then -(fpMag t x : Int) - 1 else fpMag t x

/-- The value's order with -0 equal to +0: the signed magnitude bits. -/
def fpOrd (t : FpTy) (x : FpBits) : Int := signedNat (fpNeg t x) (fpMag t x)

/-- fmin and fmax; `less` says whether the second operand wins over the first (R107). -/
def fpPick (t : FpTy) (wins : Int → Int → Bool) (a b : FpBits) : FpBits :=
  match fpIsNan t a, fpIsNan t b with
  | true, true => withNans t [a, b] a
  | true, false => fpTrunc t b
  | false, true => fpTrunc t a
  | false, false => if wins (fpKey t b) (fpKey t a) then fpTrunc t b else fpTrunc t a

/-- fmin (R107). -/
def fpMin (t : FpTy) (a b : FpBits) : FpBits := fpPick t (fun x y => x < y) a b

/-- fmax (R107). -/
def fpMax (t : FpTy) (a b : FpBits) : FpBits := fpPick t (fun x y => y < x) a b

/-- The bit number of the class (R109). -/
def fpClass (t : FpTy) (x : FpBits) : Nat :=
  if fpIsNan t x then (if x.getLsbD (fracBits t - 1) then 9 else 8)
  else if fpIsInf t x then (if fpNeg t x then 0 else 7)
  else if fpMag t x = 0 then (if fpNeg t x then 3 else 4)
  else if fpMag t x < 2 ^ fracBits t then (if fpNeg t x then 2 else 5)
  else (if fpNeg t x then 1 else 6)

/-! ## Conversions (04 R75; 05 R110, R111) -/

/-- A NaN carried from one format to another, fraction from the top down, quieted (R75). -/
def nanConvert (dt st : FpTy) (x : FpBits) : FpBits :=
  let f := x.toNat % 2 ^ fracBits st
  fpQuiet dt (fpMake dt (fpNeg st x) (infMag dt + f * 2 ^ fracBits dt / 2 ^ fracBits st))

/-- Between floating-point formats; equal formats copy and quiet a NaN (R75, R110). -/
def fpToFp (dt st : FpTy) (rnd : Rnd) (x : FpBits) : FpBits :=
  if fpIsNan st x then nanConvert dt st x
  else if fpIsInf st x then fpMake dt (fpNeg st x) (infMag dt)
  else fpRound dt rnd (fpNeg st x) (fpSig st x) (fpExp st x)

/-- Floating point to an integer of n bits, saturating; a NaN gives 0 (R75). -/
def fpToInt (signed : Bool) (n : Nat) (st : FpTy) (rnd : Rnd) (x : FpBits) : Int :=
  if fpIsNan st x then 0
  else if fpIsInf st x then (if fpNeg st x then minInt signed n else maxInt signed n)
  else clampInt signed n (signedNat (fpNeg st x) (roundToNat rnd (fpNeg st x) (fpSig st x) (fpExp st x)))

/-- Integer to floating point; zero gives +0 (R75). -/
def intToFp (dt : FpTy) (rnd : Rnd) (y : Int) : FpBits := fpRound dt rnd (y < 0) y.natAbs 0

/-- fround (R111). -/
def fpRoundInt (t : FpTy) (rnd : Rnd) (x : FpBits) : FpBits :=
  withNans t [x]
    (if fpIsInf t x || fpMag t x = 0 then fpTrunc t x
    else fpRound t .rtz (fpNeg t x) (roundToNat rnd (fpNeg t x) (fpSig t x) (fpExp t x)) 0)

/-! ## 2 to the power (06 R134) -/

/-- The fraction places of the fixed-point numbers that form a power of two. -/
def exp2Places : Nat := 400

/-- The product, in fixed point, of 2^(2^-i) over the set bits of a fraction `f` of k places, most
significant first; `root` is 2^(2^-i) for the place at hand. -/
def exp2Product (f : Nat) (root acc : Nat) : Nat → Nat
  | 0 => acc
  | k + 1 =>
    let acc' := if f / 2 ^ k % 2 = 1 then acc * root / 2 ^ exp2Places else acc
    if f % 2 ^ k = 0 then acc'
    else exp2Product f (rootNat (root * 2 ^ exp2Places) (exp2Places + 1)) acc' k

/-- 2 to the power of a fraction f / 2^k below 1, in fixed point of `exp2Places`, rounded down. -/
def exp2Frac (f k : Nat) : Nat :=
  exp2Product f (rootNat (2 * 2 ^ (2 * exp2Places)) (exp2Places + 1)) (2 ^ exp2Places) k

/-- vfexp2 in one lane: an irrational result has a sticky place below `exp2Places` (R134; log 15 DEDUCED). -/
def fpExp2 (t : FpTy) (rnd : Rnd) (a : FpBits) : FpBits :=
  withNans t [a]
    (if fpIsInf t a then fpMake t false (if fpNeg t a then 0 else infMag t)
    else if fpMag t a = 0 then fpRound t rnd false 1 0
    else
      let x := signedNat (fpNeg t a) (fpSig t a)
      let e := fpExp t a
      let n := if 0 ≤ e then x * 2 ^ (min e 16).toNat else x / 2 ^ (-e).toNat
      let f := if 0 ≤ e then 0 else (x % 2 ^ (-e).toNat).toNat
      if f = 0 then fpRound t rnd false 1 (max (-4096) (min 4096 n))
      else
        fpRound t rnd false (2 * exp2Frac f (-e).toNat + 1)
          (max (-4096) (min 4096 n) - exp2Places - 1))

end Sys2Proof.Machine
end

