-- ==== Sys2Proof/Machine/State.lean ====
section
/-! DEFINITION. The state of one package: every register, memory, queue and table that the spec names, as plain data. -/

namespace Sys2Proof.Machine

/-- Why the machine would stop with a fault. The spec gives every instruction and event an effect, so no meaning
raises one; the machine itself has no stop. -/
inductive Fault where
  /-- A state the hardware could not leave. Raised by nothing; safe. -/
  | stuck
deriving DecidableEq, Repr

/-- Why an instruction would be refused. -/
inductive Refusal where
  /-- An instruction that has no meaning yet, by mnemonic. Raised only by an arm of exec; safe. -/
  | notModelled (mnemonic : String)
deriving DecidableEq, Repr

/-- A sparse table: entries by number, the numbers strictly rising. -/
abbrev Tab (α : Type) := List (Nat × α)

/-! ## Slots (02 R24; 07 R152, R157; 18 R343, R351) -/

/-- What a deferred spawn or send will hand on (07 R157, 08 R189). -/
inductive Release where
  | spawn (f : Frame)
  | send (flat : BitVec 22) (chan : Fin 32) (f : Frame)
deriving DecidableEq, Repr

/-- An entry of the join list, with the block's physical and virtual address (08 R193, R194). -/
structure JoinEntry where
  releaseOnly : Bool
  pa : Nat
  va : Word
deriving DecidableEq, Repr

/-- A pending fault PEND; the key is CTXID and VA[54:16] (18 R351). -/
structure Pend where
  ctxid : BitVec 16
  page : BitVec 39
  kind : AccessKind
  outcome : Option Bool
deriving DecidableEq, Repr

/-- Which arrival a slot makes at a barrier (12 R257). -/
inductive Arrive where
  | barr (d : GReg)
  | bsync
  | bxch
deriving DecidableEq, Repr

/-- What a slot in WAIT waits for (07 R152), with what its completion needs. -/
inductive Wait where
  | ttake (first count : Nat)
  | cpwait (d : GReg) (ch : Fin 2) (target : Nat)
  | mxwait (target : Nat)
  | bwait (b : Fin 256) (token : BitVec 32)
  | token (b : Fin 256) (token : BitVec 32) (xch : Bool)
  | arrive (b : Fin 256) (form : Arrive)
  | twait (d : GReg)
  | pqwait (d : GReg) (ticket : Nat)
deriving DecidableEq, Repr

/-- The four states of a slot (07 R152). -/
inductive SlotRun where
  | free
  | run
  | wait (w : Wait)
  | commit
deriving DecidableEq, Repr

/-- Where the running activation's frame came from (18 R354). -/
inductive Source where
  | hod
  | channel (c : Fin 32)
deriving DecidableEq, Repr

/-- A transfer of a copy channel (14 R281); `base` is the write pointer at its first byte, `slot` the slot whose cpy it is (11
R244). -/
structure Transfer where
  out : Bool
  m : Word
  o : Nat
  rows : Nat
  rb : Nat
  st : Word
  base : Nat
  slot : Fin 4
deriving DecidableEq, Repr

/-- The fields of a shape entry that a command keeps from its push (14 R286, R290). -/
structure Shape where
  base : Word
  eplane : Word
  trailer : Word
  rows : Nat
  cols : Nat
  fmt : BitVec 4
  stride : Nat
deriving DecidableEq, Repr

/-- What an MXU command does (14 R292, R294). -/
inductive MxOp where
  | mma (a b : Shape)
  | mmv (w : Shape) (vset : BitVec 8)
  | mvld (v : Shape) (slot : Fin 8)
  | mzero
  | macld (off : Nat)
  | macst (off : Nat) (d : Nat) (fmt : BitVec 4)
deriving DecidableEq, Repr

/-- A queued MXU command (14 R290, R292). -/
structure MxCmd where
  op : MxOp
  acc : Fin 4
  startK : Nat
  res : Bool
  ticket : Nat
deriving DecidableEq, Repr

/-- A dereference at a handle home (16 R310). -/
inductive Deref where
  | pdel
  | pset (x y z : BitVec 32)
  | pld (w : Fin 16)
  | pstw (w : Fin 16) (data : Word)
  | pres
deriving DecidableEq, Repr

/-- The answer to a dereference: a value for g[D], or stale (16 R325). -/
inductive DerefAnswer where
  | done (value : Word)
  | stale
deriving DecidableEq, Repr

/-- A message between dies on its way, by stream and number; none when it stays on one die (20 R378). -/
abbrev Transit := Option (Nat × Nat)

/-- What an instruction that stalls its slot in RUN still waits for: `again` tries it once more, `trip` waits for its
message to another die, `there` says that the message has arrived, `home` waits for the home of the byte at an address to lock its
line for an atomic, `reply` and `replyUe` wait for a result or a UE on its way back. A commit waits for its joins in the same forms. -/
inductive Stall where
  | none
  | again
  | trip (via : Transit)
  | there
  | home (pa : Nat)
  | reply (d : GReg) (via : Transit) (value : Word)
  | replyUe (via : Transit) (va info : Word)
  | cpy (d : GReg) (ch : Fin 2) (t : Transfer)
  | mxq (d : GReg) (c : MxCmd)
  | shand (d : GReg)
  | fpost (accepted : Bool)
  | serve (left : Nat)
  | place (op : Deref) (d : GReg) (handle : Word) (answer : Option (DerefAnswer × Transit))
deriving DecidableEq, Repr

/-- One slot. `sinceIssue` counts the cycles since the activation last issued an instruction, none before its first (R39);
`issued` is what it last issued, which a stall performs. -/
structure Slot where
  g : Vector Word 64
  v : Vector VecWord 64
  p : Vector Bool 8
  m : Vector MaskWord 8
  ip : InstrIx
  level : Fin 3
  run : SlotRun
  sframe : Word
  sbudget : BitVec 32
  sctl : Word
  tcause : Vector Word 2
  tip : Vector Word 2
  tfva : Vector Word 2
  tinfo : Vector Word 2
  tarea : Vector Word 2
  limit : Vector Nat 2
  release : List Release
  joins : List JoinEntry
  pend : Option Pend
  frame : Frame
  source : Source
  stall : Stall
  issued : Instr
  sinceIssue : Option Nat
deriving DecidableEq, Repr

/-- A slot right after reset: FREE, registers 0 (07 R152; log 1 DESIGN CHOICE). -/
def Slot.reset : Slot where
  g := Vector.replicate 64 0
  v := Vector.replicate 64 0
  p := Vector.replicate 8 false
  m := Vector.replicate 8 0
  ip := 0
  level := 0
  run := .free
  sframe := 0
  sbudget := 0
  sctl := 0
  tcause := Vector.replicate 2 0
  tip := Vector.replicate 2 0
  tfva := Vector.replicate 2 0
  tinfo := Vector.replicate 2 0
  tarea := Vector.replicate 2 0
  limit := Vector.replicate 2 0
  release := []
  joins := []
  pend := .none
  frame := Vector.replicate 8 0
  source := .hod
  stall := .none
  issued := .nop
  sinceIssue := none

/-! ## Contexts on a cell (02 R28; 18 R357, R360) -/

/-- What a cell read of the context descriptor (18 R357). -/
structure Descriptor where
  addr : Nat
  ctxid : BitVec 16
  sys : Bool
  root : Nat
  save : Word
  shapes : Word
  shcnt : Nat
  psvc : BitVec 27
  spill : Nat
deriving DecidableEq, Repr

/-- A channel: its handler-table entry, its queue, its pass count and raised levels (07 R171, R177). -/
structure Chan where
  entry : Word
  queue : List Frame
  pass : Nat
  raised : Nat
deriving DecidableEq, Repr

/-- A named barrier (12 R254), the reports it holds as (physical identifier, token), the tokens of reports that carry a
bxch (13 R267), and the stxs its arrivals of this completion wait for (12 R257). -/
structure Barrier where
  mask : BitVec 32
  scope : BitVec 3
  count : BitVec 16
  arr : BitVec 16
  gen : BitVec 32
  swap : Bool
  reports : List (Nat × BitVec 32)
  swaps : List (BitVec 32)
  stxs : List Nat
  reported : Bool
deriving DecidableEq, Repr

/-- An unset barrier (12 R254). -/
def Barrier.unset : Barrier := ⟨0, 0, 0, 0, 0, false, [], [], [], false⟩

/-- A copy channel (14 R280, R283). -/
structure CopyChan where
  wp : Nat
  queue : List Transfer
  paused : Bool
  error : Bool
deriving DecidableEq, Repr

/-- A resident vector slot of the MXU (14 R290); `bad` after an error on its MVLD (14 R297). -/
structure VecSlot where
  fmt : BitVec 4
  len : Nat
  elems : List Byte
  exps : List Byte
  bad : Bool
deriving DecidableEq, Repr

/-- A pending TRAILER failure (14 R298). -/
structure PendTrailer where
  ticket : Nat
  opnd : BitVec 2
  addr : Word
deriving DecidableEq, Repr

/-- The MXU of a cell. Accumulator values are listed where they are not +0, at 4096·acc + 64·i + j; `paused` is the page for which it
waits, `failed` one that a page service could not map (14 R296). -/
structure Mxu where
  acc : Tab (BitVec 32)
  poisoned : Vector Bool 4
  slots : Vector VecSlot 8
  pushed : Vector (BitVec 4 × Nat) 8
  queue : List MxCmd
  tickets : Nat
  done : Word
  errtk : BitVec 16
  k : BitVec 16
  err : BitVec 4
  narrow : Bool
  pend : Option PendTrailer
  paused : Option (BitVec 39)
  failed : Option (BitVec 39)
deriving DecidableEq, Repr

/-- The MXU when a context is created (14 R290, R301; log 3 DESIGN CHOICE). -/
def Mxu.fresh : Mxu where
  acc := []
  poisoned := Vector.replicate 4 false
  slots := Vector.replicate 8 ⟨0, 0, [], [], false⟩
  pushed := Vector.replicate 8 (0, 0)
  queue := []
  tickets := 0
  done := 0
  errtk := 0
  k := 0
  err := 0
  narrow := false
  pend := .none
  paused := .none
  failed := .none

/-- The result a query left for pqwait (16 R318, R333). -/
structure QueryResult where
  ticket : Nat
  status : BitVec 32
  count : Nat
deriving DecidableEq, Repr

/-- A wake held in channel 30 (07 R184, R185). -/
structure Wake where
  start : Word
  frame : Frame
deriving DecidableEq, Repr

/-- The state of one context on one cell: the registers of scope cell and context, and what the image
of 18 R360 holds. -/
structure CtxCell where
  desc : Descriptor
  scbase : Word
  sclim : Word
  sdctl : Word
  tvec : Word
  budget : BitVec 32
  sstk : Vector Word 4
  widest : BitVec 2
  domain : BitVec 2
  fails : BitVec 4
  sspill : Word
  ringPages : List Nat
  ringHead : Nat
  ringCount : Nat
  scarve : Word
  svgroup : Word
  frameCtr : BitVec 22
  hod : List Frame
  hodPass : Nat
  hodRaised : Nat
  chans : Vector Chan 32
  lastChan : Fin 32
  dropped : Word
  barriers : Tab Barrier
  spad : List Host.Cell
  padPoison : List Nat
  tiles : Tab Engine
  topcoat : Bool
  cch : Vector CopyChan 2
  mxu : Mxu
  queries : Nat
  results : List QueryResult
  aborts : Nat
  kills : Nat
  undeliv : Nat
  wakes : List Wake
deriving DecidableEq, Repr

/-- The registers of a cell before any context is created on it (log 2 DESIGN CHOICE). -/
def CtxCell.blank : CtxCell where
  desc := ⟨0, 0, false, 0, 0, 0, 0, 0, 0⟩
  scbase := 0
  sclim := 0
  sdctl := 0
  tvec := 0
  budget := 0
  sstk := Vector.replicate 4 0
  widest := 0
  domain := 0
  fails := 0
  sspill := 0
  ringPages := []
  ringHead := 0
  ringCount := 0
  scarve := 2
  svgroup := 0
  frameCtr := 0
  hod := []
  hodPass := 0
  hodRaised := 0
  chans := Vector.replicate 32 ⟨0, [], 0, 0⟩
  lastChan := 31
  dropped := 0
  barriers := []
  spad := []
  padPoison := []
  tiles := []
  topcoat := false
  cch := Vector.replicate 2 ⟨0, [], false, false⟩
  mxu := Mxu.fresh
  queries := 0
  results := []
  aborts := 0
  kills := 0
  undeliv := 0
  wakes := []

/-! ## Cells (01 R17; 07 R166-R172, R182-R185) -/

/-- Where a frame in an outbound port stands (07 R172). -/
inductive PortState where
  | queued
  | refused
  | waiting (cycles : Nat)
deriving DecidableEq, Repr

/-- A frame in an outbound port; `backoff` is the wait of its next refusal, `via` the message that carries it or its refusal
(07 R172). -/
structure OutMsg where
  flat : BitVec 22
  chan : Fin 32
  ctxid : BitVec 16
  frame : Frame
  state : PortState
  backoff : Nat
  via : Transit
deriving DecidableEq, Repr

/-- A steal in progress (07 R168-R170): a request sent in a domain, an EMPTY answer on its way, or a claimed frame. -/
inductive Steal where
  | idle
  | asked (victim : Nat) (domain : BitVec 2) (via : Transit)
  | empty (domain : BitVec 2) (via : Transit)
  | claimed (victim : Nat) (f : Frame) (via : Transit)
deriving DecidableEq, Repr

/-- A restore request queued for a cell: context, and physical identifier of the cell that saved (18 R363). -/
structure RestoreReq where
  ctxid : BitVec 16
  image : Nat
deriving DecidableEq, Repr

/-- What a cell holds beside its slots; `spillers` are the slots whose mts to sspill waits, in the order of their issue (05 R114). -/
structure Cell where
  live : Bool
  cc : CtxCell
  port : List OutMsg
  steal : Steal
  stealWait : Nat
  installs : List Frame
  preempt : Option (BitVec 16)
  closed : Bool
  restores : List RestoreReq
  committing : Option (Fin 4)
  spillers : List (Fin 4)
deriving DecidableEq, Repr

/-- A cell after reset: no context resident. -/
def Cell.reset : Cell where
  live := false
  cc := CtxCell.blank
  port := []
  steal := .idle
  stealWait := 0
  installs := []
  preempt := .none
  closed := false
  restores := []
  committing := .none
  spillers := []

/-- A saved image (18 R360, R361): the cell that saved it, the saved state, and its place. -/
structure Image where
  phys : Nat
  cc : CtxCell
  spilled : Bool
deriving DecidableEq, Repr

/-! ## Coherence (10 R212, R220-R228; 20 R367-R369) -/

/-- The stable states of a copy or an entry (10 R223). -/
inductive Moesi where
  | i | s | e | o | m
deriving DecidableEq, Repr

/-- A copy in an L1 or a victim cache: its state, the stamp of its grant (10 R225), the sectors valid and dirty in it (10
R212). -/
structure LineCopy where
  st : Moesi
  stamp : Byte
  valid : BitVec 4
  dirty : BitVec 4
deriving DecidableEq, Repr

/-- No copy. -/
def LineCopy.none : LineCopy := ⟨.i, 0, 0, 0⟩

/-- A line tag and directory entry of a slice (10 R223): sharers as pointers, 256 + c naming the group agent of cluster c
(G = 1), the coarse vector when `cv`; the state that the home has granted the die with its stamp (10 R225, R228), the L2
holding the line while that is not I; and the sectors whose data the die's copies hold though memory has lost it (20 R384). -/
structure DirEntry where
  seq : Byte
  st : Moesi
  cv : Bool
  owner : Nat
  ptrs : List Nat
  vec : BitVec 32
  lvl : Moesi
  hstamp : Byte
  good : BitVec 4
deriving DecidableEq, Repr

/-- An entry of a home's cross-die directory (10 R227). -/
structure HomeEntry where
  seq : Byte
  st : Moesi
  present : BitVec 4
  owner : BitVec 2
deriving DecidableEq, Repr

/-- A request at a slice or a home (10 R226, R227); `evict` is a home's own back-invalidation of an entry (10 R228), `atom` a
read-modify-write to be performed at the home by a slot, 4·cell + slot (12 R251), `stream` a read past the caches (11 R243). -/
inductive CohKind where
  | gets | getm | put | evict
  | atom (key : Nat)
  | stream
deriving DecidableEq, Repr

/-- A coherence request: its site, whom it comes from (at a slice a cell by physical identifier, or 2048 + d for an engine
of die d; at a home a die), its line and kind. -/
structure CohReq where
  site : Site
  from_ : Nat
  line : Nat
  kind : CohKind
deriving DecidableEq, Repr

/-- A request that waits to be sent again, with its cycles and the wait after the next refusal. -/
structure Retry where
  req : CohReq
  wait : Nat
  backoff : Nat
deriving DecidableEq, Repr

/-- A request of a die on its way to a home, with the incarnation it carries and the wait that a refusal would bring (20
R367, R368). -/
structure ReqMsg where
  req : CohReq
  inc : Byte
  backoff : Nat
  via : Transit
deriving DecidableEq, Repr

/-- A grant of a home on its way to a die (10 R225, R227), with the sectors that another die's copy gave and memory has lost. -/
structure GrantMsg where
  die : Nat
  line : Nat
  st : Moesi
  stamp : Byte
  good : BitVec 4
  via : Transit
deriving DecidableEq, Repr

/-- A transaction that holds a line's lock: its request, the answers still out (10 R221, R226), and the sectors forwarded with the
answers that memory has lost (20 R384). -/
structure Txn where
  req : CohReq
  left : Nat
  good : BitVec 4
deriving DecidableEq, Repr

/-- A probe on its way: to a cell or group agent (at a slice) or a die (at a home), for a request of a kind (10 R225, R226). -/
structure ProbeMsg where
  site : Site
  line : Nat
  target : Nat
  kind : CohKind
  stamp : Byte
  via : Transit
deriving DecidableEq, Repr

/-- An answer on its way back, with the sectors that its data holds and memory has lost (20 R384). -/
structure ProbeAns where
  site : Site
  line : Nat
  target : Nat
  good : BitVec 4
  via : Transit
deriving DecidableEq, Repr

/-- A line the TFU of a die pins (10 R222); `drop` when a cinv waits for the release (12 R262). -/
structure Pin where
  die : Nat
  line : Nat
  drop : Bool
deriving DecidableEq, Repr

/-- The coherence state of the package. L1 copies and the lines of a cell's victim share are keyed by 2^40·cell + line, slice
tags by 2^40·die + line, homes by line. -/
structure Coh where
  l1 : Tab LineCopy
  vic : Tab LineCopy
  dirs : Tab DirEntry
  homes : Tab HomeEntry
  txns : List Txn
  reqs : List ReqMsg
  refusals : List ReqMsg
  grants : List GrantMsg
  probes : List ProbeMsg
  answers : List ProbeAns
  conflicts : List CohReq
  wayWait : List CohReq
  retries : List Retry
  notowner : List Retry
  held : List CohReq
  pins : List Pin
deriving DecidableEq, Repr

/-! ## Translation (10 R208-R211) -/

/-- A cached translation (10 R211); sizes are in bits. -/
structure TlbEntry where
  ctxid : BitVec 16
  va : Nat
  size : Nat
  pa : Nat
  r : Bool
  w : Bool
  x : Bool
deriving DecidableEq, Repr

/-- An intermediate table entry that a walker holds: the table of a level that serves the addresses with these upper bits (10 R211). -/
structure WalkEntry where
  ctxid : BitVec 16
  level : Nat
  top : Nat
  table : Nat
deriving DecidableEq, Repr

/-- A page walker at work: its die, the context and the 64 KiB page (10 R211). -/
structure Walker where
  die : Nat
  ctxid : BitVec 16
  page : Nat
deriving DecidableEq, Repr

/-- The TLBs: L1 by cell, L2 by physical cluster of the package, newest first; the intermediate entries that the walkers of
each die hold, and the walkers whose walk waits for a line (10 R211; log 19 DESIGN CHOICE). -/
structure Tlbs where
  l1 : Tab (List TlbEntry)
  l2 : Tab (List TlbEntry)
  walks : Tab (List WalkEntry)
  walkers : List Walker
deriving DecidableEq, Repr

/-! ## The scrim tree (18 R349-R352) -/

/-- The agents that post faults (18 R349): a slot, a copy channel or the TFU of a cell. -/
inductive Poster where
  | slot (cell : Nat) (k : Fin 4)
  | cch (cell : Nat) (ch : Fin 2)
  | tfu (cell : Nat)
deriving DecidableEq, Repr

/-- A child port of a router: an agent of a cluster router, a cluster of a die root. -/
inductive ScrimChild where
  | agent (p : Poster)
  | cluster (c : Nat)
deriving DecidableEq, Repr

/-- An entry of a router (18 R349). -/
structure ScrimEntry where
  ctxid : BitVec 16
  page : BitVec 39
  kinds : BitVec 3
  children : List ScrimChild
deriving DecidableEq, Repr

/-- A router: cluster c of a die is numbered 33·die + c, the root 33·die + 32. -/
abbrev RouterId := Nat

/-- A post on its way to a router; a refused one waits (18 R349). -/
structure PostMsg where
  router : RouterId
  child : ScrimChild
  ctxid : BitVec 16
  page : BitVec 39
  kind : AccessKind
  wait : Option Nat
  backoff : Nat
  psvc : BitVec 27
deriving DecidableEq, Repr

/-- A wake on its way to a router (18 R351); `server` is the slot whose serve sent it to a root. -/
structure WakeMsg where
  router : RouterId
  ctxid : BitVec 16
  page : BitVec 39
  ok : Bool
  server : Option (Nat × Fin 4)
  via : Transit
deriving DecidableEq, Repr

/-- A wake on its way to an agent (18 R351). -/
structure AgentWake where
  dest : Poster
  ctxid : BitVec 16
  page : BitVec 39
  ok : Bool
deriving DecidableEq, Repr

/-- A page-service request of a die root on its way; a refused one waits (18 R350; 07 R172). -/
structure PsvcMsg where
  die : Nat
  cell : Nat
  chan : Fin 32
  ctxid : BitVec 16
  frame : Frame
  state : PortState
  backoff : Nat
  via : Transit
deriving DecidableEq, Repr

/-- The scrim trees of the four dies. -/
structure Scrim where
  routers : Tab (List ScrimEntry)
  posts : List PostMsg
  wakes : List WakeMsg
  out : List AgentWake
  psvcs : List PsvcMsg
deriving DecidableEq, Repr

/-! ## stx and barrier reports on their way (12 R257, R260) -/

/-- An stx handed to the relay (12 R260). -/
structure StxMsg where
  id : Nat
  cell : Nat
  slot : Fin 4
  dest : Nat
  ctxid : BitVec 16
  off : Nat
  bytes : List Byte
  via : Transit
deriving DecidableEq, Repr

/-- A barrier report on its way within its die (12 R257), and whether a bxch is among its cell's arrivals (13 R267). -/
structure ReportMsg where
  dest : Nat
  source : Nat
  ctxid : BitVec 16
  b : Fin 256
  token : BitVec 32
  swap : Bool
deriving DecidableEq, Repr

/-! ## The place store (16) -/

/-- A region of a space's map (16 R305): bounds LOX, LOY, LOZ, HIX, HIY, HIZ and the owner. -/
structure Region where
  lo : Vector (BitVec 32) 3
  hi : Vector (BitVec 32) 3
  owner : Nat
deriving DecidableEq, Repr

/-- What an instance of a record is (16 R313). -/
inductive InstState where
  | live
  | departing
  | tomb (a' : Nat)
deriving DecidableEq, Repr

/-- An instance of a record at an owner (16 R308, R311): words 0 on, arrival stamp, region, and its handle. -/
structure Inst where
  st : InstState
  a : Nat
  region : Nat
  words : Vector Word 16
  home : Nat
  hslot : Nat
  gen : BitVec 20
deriving DecidableEq, Repr

/-- A dereference queued at a home, with its slot (16 R310); `fwd` once the home has done its part and the rest is on its way to the
owner (17 R336). -/
structure QueuedDeref where
  cell : Nat
  slot : Fin 4
  gen : BitVec 20
  op : Deref
  via : Transit
  fwd : Option (Nat × Nat)
deriving DecidableEq, Repr

/-- A handle slot (16 R309): the record it holds as (owner, record slot). -/
structure Handle where
  gen : BitVec 20
  holds : Option (Nat × Nat)
  moving : Bool
  queue : List QueuedDeref
deriving DecidableEq, Repr

/-- A handle slot when the space is defined (16 R326). -/
def Handle.fresh : Handle := ⟨1, .none, false, []⟩

/-- A defined space (16 R304-R311). Instances are keyed by 2^24·owner + record slot, handle slots by
2^24·home + handle slot, stamps h by region; `pools` the pieces of memory of the owners' pools, as (owner,
address, length). -/
structure Space where
  ctxid : BitVec 16
  num : Fin 16
  window : Nat
  unit : BitVec 8
  pslots : Nat
  rs : BitVec 2
  regions : List Region
  h : Tab Nat
  insts : Tab Inst
  handles : Tab Handle
  redirects : List (Nat × Nat)
  pools : List (Nat × Nat × Nat)
deriving DecidableEq, Repr

/-- How far a move has come (16 R313). -/
inductive MoveStage where
  | marked
  | departed
  | arrived (a : Nat) (slot : Nat)
  | refused
  | acked (a : Nat) (slot : Nat)
  | returned
deriving DecidableEq, Repr

/-- A move in progress (16 R313), with the slot whose pset it is and the message that its next step waits for (20 R377). -/
structure Move where
  ctxid : BitVec 16
  num : Fin 16
  home : Nat
  hslot : Nat
  source : Nat
  sslot : Nat
  dest : Nat
  region : Nat
  x : BitVec 32
  y : BitVec 32
  z : BitVec 32
  stage : MoveStage
  cell : Nat
  slot : Fin 4
  via : Transit
deriving DecidableEq, Repr

/-- What a query looks for (16 R316). -/
inductive QueryShape where
  | box (lo hi : Vector (BitVec 32) 3)
  | sphere (c : Vector (BitVec 32) 3) (r : BitVec 32)
deriving DecidableEq, Repr

/-- A record found by a query, as an entry of its buffer (16 R318). -/
structure Found where
  region : Nat
  home : Nat
  hslot : Nat
  handle : Word
  words : Vector Word 16
deriving DecidableEq, Repr

/-- A query in flight (16 R315): the owners still to serve and the owners served whose answer is out, each with its message, the
instances deferred, and what was found. -/
structure Query where
  cell : Nat
  ctxid : BitVec 16
  num : Fin 16
  ticket : Nat
  q : Nat
  shape : QueryShape
  off : Nat
  cap : Nat
  toServe : List (Nat × Transit)
  toAnswer : List (Nat × Transit)
  deferred : List (Nat × Nat)
  found : List Found
  stale : Bool
deriving DecidableEq, Repr

/-- The place agents of the package. -/
structure Place where
  spaces : List Space
  moves : List Move
  queries : List Query
deriving DecidableEq, Repr

/-! ## Dies, stacks and laths (20) -/

/-- The owner table of a die, its incarnation numbers and fenced bits (20 R366, R375). -/
structure DieTable where
  owner : Vector (Fin 4) 12
  freeze : BitVec 12
  busy : BitVec 12
  incs : Vector Byte 4
  fenced : BitVec 4
deriving DecidableEq, Repr

/-- A hand-over in progress (20 R372): stages completed, and the slot whose shand it is. -/
structure Handover where
  stack : Fin 12
  old : Fin 4
  new : Fin 4
  stage : Nat
  forced : Bool
  waiter : Option (Nat × Fin 4)
deriving DecidableEq, Repr

/-- A flit (20 R379): sequence number, incarnation, acknowledgement, and its payload as a stream message (log 18 DESIGN
CHOICE). -/
structure Flit where
  seq : BitVec 12
  inc : Byte
  ack : BitVec 12
  stream : Nat
  number : Nat
deriving DecidableEq, Repr

/-- An entry of a replay window (20 R379, R380). -/
structure WindowEntry where
  flit : Flit
  rebuild : Bool
deriving DecidableEq, Repr

/-- One direction of a lath (20 R379). -/
structure Link where
  up : Bool
  expect : BitVec 12
  next : BitVec 12
  window : List WindowEntry
  wire : List Flit
  stalled : Nat
  replays : Nat
  retraining : Bool
deriving DecidableEq, Repr

/-- A link after reset: up, sequence numbers 0 (log 4 DESIGN CHOICE). -/
def Link.reset : Link := ⟨true, 0, 0, [], [], 0, 0, false⟩

/-- The stream of one die to another (20 R378): the next number, the next to deliver, and the messages kept, each with the
nanoseconds for which it has gone unanswered (20 R382). -/
structure Stream where
  next : Nat
  deliver : Nat
  kept : List (Nat × Nat)
deriving DecidableEq, Repr

/-- What the package keeps of a die that stopped answering (20 R382). -/
structure DieHealth where
  silent : Nat
  reported : Bool
  confirmed : Bool
deriving DecidableEq, Repr

/-- The dies of the package. -/
structure Dies where
  tables : Vector DieTable 4
  active : Vector (Fin 4) 12
  handovers : List Handover
  links : Vector Link 8
  streams : Tab Stream
  health : Vector DieHealth 4
deriving DecidableEq, Repr

/-! ## Host and launch (22) -/

/-- The states of a launch-window slot (22 R391). -/
inductive WinState where
  | free | parsed | held | run
deriving DecidableEq, Repr

/-- A launch-window slot (22 R391, R392, R399): the last SEQ accepted, the copied record, its place in the order of
acceptance (22 R395), and the packages whose notice is still to come. -/
structure WinSlot where
  st : WinState
  lastSeq : Option (BitVec 32)
  record : Vector Word 16
  order : Nat
  notices : List Nat
deriving DecidableEq, Repr

/-- A launch-window slot after bring-up (22 R392, R416). -/
def WinSlot.fresh : WinSlot := ⟨.free, .none, Vector.replicate 16 0, 0, []⟩

/-- How far a part of a launch has come (22 R394-R399); a complete one keeps END, ABORTS, KILLS and UNDELIV as they were then. -/
inductive PartStage where
  | latched
  | admitted
  | running
  | complete (end_ : Word) (counts : Nat × Nat × Nat)
  | rejected (status : BitVec 8) (end_ : Word)
deriving DecidableEq, Repr

/-- This package's part of a launch: the accepting package, its slot, the record, its place in the order of acceptance (22 R395),
the context it was admitted with, the stage, the cells the wake flood has reached, the losses that count in KILLS, what ABORTS, KILLS and UNDELIV counted before
it, and what they had counted on cells that were lost (22 R394, R399; 23 R413). -/
structure Part where
  accepting : Nat
  slot : Fin 512
  record : Vector Word 16
  order : Nat
  ctxid : Option (BitVec 16)
  stage : PartStage
  waked : List Nat
  lost : Nat
  base : Nat × Nat × Nat
  carried : Nat × Nat × Nat
deriving DecidableEq, Repr

/-- What leaves the package (22 R389), with the fabric address that the peer or endpoint table gives, and a host's RDMA key. -/
inductive Outgoing where
  | completion (fabric key : Word) (addr : Word) (record : Vector Word 4)
  | launch (fabric : Word) (pkg : Nat) (slot : Fin 512) (record : Vector Word 16)
  | notice (fabric : Word) (pkg : Nat) (slot : Fin 512)
  | frame (fabric : Word) (flat : BitVec 22) (chan : Fin 32) (ctxid : BitVec 16) (f : Frame)
  | refusal (flat : Nat) (chan : Fin 32) (ctxid : BitVec 16)
  | undeliverable (flat : Nat) (ctxid : BitVec 16)
  | ack (key addr n : Nat)
  | data (key addr : Nat) (bytes : List Byte)
  | rdmaRefused (key addr : Nat)
deriving DecidableEq, Repr

/-- A request that waits for the dispatcher of its cell's die (18 R359; 23 R407, R408). -/
inductive DispatchReq where
  | preempt (cell : Nat) (ctxid : BitVec 16)
  | restore (cell : Nat) (ctxid : BitVec 16) (image : Nat)
deriving DecidableEq, Repr

/-- The port dies' tables (the fabric address of a package; the fabric address and RDMA key of an endpoint), the launch
window with the number of seals accepted, the dispatchers' parts and requests, and the contexts' registry. -/
structure HostSide where
  open_ : Bool
  peers : Tab Word
  endpoints : Tab (Word × Word)
  regions : List (Nat × Nat × Nat)
  window : List Host.Cell
  slots : Tab WinSlot
  seals : Nat
  parts : List Part
  requests : List DispatchReq
  registry : List (BitVec 16 × Nat)
  sent : List Outgoing
deriving DecidableEq, Repr

/-! ## Platform (23) -/

/-- An image version with its hand-over record formats (23 R405). -/
structure ImageVer where
  version : BitVec 32
  hover : BitVec 32
  minver : BitVec 32
deriving DecidableEq, Repr

/-- What a controller is doing (23 R406). -/
inductive CtrlState where
  | off
  | running
  | starting (deadline : Nat)
deriving DecidableEq, Repr

/-- What the controller of a base die works at: refresh and scrub positions, training values (23 R407). -/
structure BaseWork where
  refresh : Nat
  scrub : Nat
  training : Word
deriving DecidableEq, Repr

/-- What the controller of a lath's end works at: training values and the audit position (23 R407). -/
structure LathWork where
  training : Word
  audit : Nat
deriving DecidableEq, Repr

/-- A hand-over record (23 R407): of a dispatcher the window slots, the parts with the cells their wakes have reached, the steal
domains and the requests in order; of a base die its work and a pending port switch; of a lath its work and the sequence
numbers expected and next in both directions; a Coronaip has its mirror. -/
inductive HandRecord where
  | dispatcher (slots : Tab WinSlot) (parts : List Part) (domains : List (Nat × BitVec 2)) (requests : List DispatchReq)
  | baseDie (work : BaseWork) (pending : Bool)
  | lath (work : LathWork) (seqs : List (BitVec 12 × BitVec 12))
  | mirror
deriving DecidableEq, Repr

/-- A controller (23 R403, R406): the running image and the retained one, and the record in its retained memory. -/
structure Controller where
  image : ImageVer
  retained : ImageVer
  state : CtrlState
  record : Option HandRecord
deriving DecidableEq, Repr

/-- An update in progress (23 R406, R409): the type, the image, the controller at hand, none while it pauses, those after it, how many
are done, and whether one was skipped. -/
structure Update where
  type : CtrlType
  image : ImageVer
  next : Option (Fin 26)
  left : List (Fin 26)
  done : Nat
  skipped : Bool
deriving DecidableEq, Repr

/-- The energy account of an island (23 R410-R412): counter, budget, readings as (time, counter) newest first,
alarm, since when it stood below the clearing thresholds, power cut. -/
structure Island where
  uj : Word
  mw : BitVec 32
  readings : List (Nat × Nat)
  alarm : Bool
  below : Option Nat
  cut : Bool
deriving DecidableEq, Repr

/-- An island at power-on, its counter read as 0 (23 R410; log 6 DESIGN CHOICE). -/
def Island.reset : Island := ⟨0, 0, [(0, 0)], false, .none, false⟩

/-- The platform: fuses (cells, the L2 slices and the stacks present), controllers and the time since the active Coronaip's last
heartbeat, energy, the port dies (expanders in GiB by CXL port, CXL links, Ultra Ethernet ports, the port link of each
die), bring-up. -/
structure Platform where
  absentCells : List Nat
  sliceBits : Vector (BitVec 64) 4
  stackBits : BitVec 12
  revoked : BitVec 4
  floors : Vector (BitVec 32) 4
  updated : Vector (Option (BitVec 32)) 4
  pkg : BitVec 12
  islands : Vector Island 24
  controllers : Vector Controller 26
  baseWork : Vector BaseWork 12
  lathWork : Vector LathWork 8
  activeCoronaip : Fin 2
  heartbeat : Nat
  update : Option Update
  tierGiB : Vector Nat 8
  cxlUp : BitVec 8
  ethUp : BitVec 8
  portUp : BitVec 4
  brought : Bool
deriving DecidableEq, Repr

/-! ## The package -/

/-- What happens next: a slot issues, a step of the hardware, time passes, the active Coronaip gives a heartbeat (23 R404), an
uncorrectable error takes the data of a sector of memory or of a scratchpad, or of a frame of a hod or a channel queue (23
R414), an image saved by another package has been put at its place in memory, or one saved here is taken for another package (18
R363). The agenda is the model's own (log 12 DESIGN CHOICE). -/
inductive Turn where
  | tick (cycles ns : Nat)
  | slot (cell : Nat) (k : Fin 4)
  | event (i : Instr)
  | upset (sector : Nat)
  | upsetPad (cell sector : Nat)
  | upsetHod (cell i : Nat)
  | upsetChan (cell : Nat) (ch : Fin 32) (i : Nat)
  | heartbeat
  | importImage (x : Image)
  | exportImage (phys : Nat) (ctxid : BitVec 16)
deriving DecidableEq, Repr, Inhabited

/-- The state of one package. Slots are keyed by 4·cell + slot and cells by logical number, unlisted ones being as
after reset. Memory is the stacks and the second tier, bytes listed where not 0; `dirty` holds the bytes that caches
hold newer than memory; `poison` lists poisoned sectors. `curCell`, `curSlot`, `agenda`, `turnNo`, `freeNo` are the
model's own. -/
structure State where
  slots : Tab Slot
  cells : Tab Cell
  images : List Image
  mem : List Host.Cell
  dirty : List Host.Cell
  poison : List Nat
  coh : Coh
  tlbs : Tlbs
  scrim : Scrim
  stxs : List StxMsg
  stxNo : Nat
  reports : List ReportMsg
  place : Place
  dies : Dies
  host : HostSide
  plat : Platform
  stime : Word
  cycle : Nat
  curCell : Nat
  curSlot : Fin 4
  agenda : List Turn
  turnNo : Nat
  freeNo : Nat
deriving DecidableEq, Repr

/-! ## Reset -/

/-- The default owner of a stack (01 R14). -/
def defaultOwner (s : Fin 12) : Fin 4 :=
  if s.val < 3 then 0 else if s.val < 6 then 1 else if s.val < 9 then 3 else 2

/-- The owner table of a die at reset (20 R366; log 4 DESIGN CHOICE). -/
def DieTable.reset : DieTable where
  owner := Vector.ofFn defaultOwner
  freeze := 0
  busy := 0
  incs := Vector.replicate 4 0
  fenced := 0

/-- The dies at reset. -/
def Dies.reset : Dies where
  tables := Vector.replicate 4 DieTable.reset
  active := Vector.ofFn defaultOwner
  handovers := []
  links := Vector.replicate 8 Link.reset
  streams := []
  health := Vector.replicate 4 ⟨0, false, false⟩

/-- The platform at power-on: a full part (log 7 DESIGN CHOICE), before bring-up (23 R416). -/
def Platform.reset : Platform where
  absentCells := []
  sliceBits := Vector.replicate 4 (BitVec.allOnes 64)
  stackBits := 0xFFF
  revoked := 0
  floors := Vector.replicate 4 0
  updated := Vector.replicate 4 .none
  pkg := 0
  islands := Vector.replicate 24 Island.reset
  controllers := Vector.replicate 26 ⟨⟨0, 0, 0⟩, ⟨0, 0, 0⟩, .off, .none⟩
  baseWork := Vector.replicate 12 ⟨0, 0, 0⟩
  lathWork := Vector.replicate 8 ⟨0, 0⟩
  activeCoronaip := 0
  heartbeat := 0
  update := .none
  tierGiB := Vector.replicate 8 0
  cxlUp := 0
  ethUp := 0
  portUp := 0
  brought := false

/-- The host side before bring-up: the window closed, tables empty (23 R416; log 6 DESIGN CHOICE). -/
def HostSide.reset : HostSide := ⟨false, [], [], [], [], [], 0, [], [], [], []⟩

/-- The machine right after reset. -/
def State.reset : State where
  slots := []
  cells := []
  images := []
  mem := []
  dirty := []
  poison := []
  coh := ⟨[], [], [], [], [], [], [], [], [], [], [], [], [], [], [], []⟩
  tlbs := ⟨[], [], [], []⟩
  scrim := ⟨[], [], [], [], []⟩
  stxs := []
  stxNo := 0
  reports := []
  place := ⟨[], [], []⟩
  dies := Dies.reset
  host := HostSide.reset
  plat := Platform.reset
  stime := 0
  cycle := 0
  curCell := 0
  curSlot := 0
  agenda := []
  turnNo := 0
  freeNo := 0

end Sys2Proof.Machine
end

