-- ==== Sys2Proof/Machine/Tab.lean ====
section
/-! DEFINITION. Sparse tables and byte memories: one read, one write, one canonical form. -/

namespace Sys2Proof.Machine

/-- The entry of a number, if listed. -/
def tabFind {α : Type} : Tab α → Nat → Option α
  | [], _ => none
  | (k, x) :: t, i => if k = i then some x else tabFind t i

/-- The entry of a number; unlisted numbers hold `d`. -/
def tabGet {α : Type} (d : α) (t : Tab α) (i : Nat) : α := (tabFind t i).getD d

/-- The table with an entry put in its place. -/
def tabSet {α : Type} : Tab α → Nat → α → Tab α
  | [], i, x => [(i, x)]
  | (k, y) :: t, i, x =>
    if i < k then (i, x) :: (k, y) :: t
    else if i = k then (i, x) :: t
    else (k, y) :: tabSet t i x

/-- The table without the entry of a number. -/
def tabErase {α : Type} (t : Tab α) (i : Nat) : Tab α := t.filter (fun e => e.1 != i)

/-- The table with every entry changed by `f`. -/
def tabMap {α : Type} (f : Nat → α → α) (t : Tab α) : Tab α := t.map (fun e => (e.1, f e.1 e.2))

/-- Whether the numbers of a table rise strictly. -/
def tabSorted {α : Type} : Tab α → Bool
  | [] => true
  | [_] => true
  | a :: b :: t => a.1 < b.1 && tabSorted (b :: t)

/-- A byte of a memory whose unlisted addresses read as 0 (log 5 DESIGN CHOICE). -/
def memGet (m : List Host.Cell) (a : Nat) : Byte := tabGet 0 m a

/-- A byte written; a written 0 is not listed. -/
def memSet (m : List Host.Cell) (a : Nat) (b : Byte) : List Host.Cell :=
  if b = 0 then tabErase m a else tabSet m a b

/-- The canonical form of a memory: addresses strictly rising, no entry 0. -/
abbrev Memory.wf (m : List Host.Cell) : Bool := tabSorted m && m.all (fun e => e.2 != 0)

/-- Element i of a list replaced. -/
def listSet {α : Type} (l : List α) (i : Nat) (x : α) : List α := l.set i x

/-- Element i of a list removed. -/
def listDrop {α : Type} (l : List α) (i : Nat) : List α := l.eraseIdx i

end Sys2Proof.Machine
end

