-- ==== Sys2Proof/Machine/Ops.lean ====
section
/-! DEFINITION. The named operations over the state: numbering, slots and registers, cells and channels, ending an
activation, taking a trap and returning from one, special registers. -/

namespace Sys2Proof.Machine

/-- The outcome of an instruction or a step. -/
abbrev Res := Host.Outcome State Fault Refusal

/-! ## Numbering (01 R18-R20; 02 R31) -/

/-- The physical identifier of a logical cell number, past the absent identifiers listed in rising order (R18). -/
def physFrom : List Nat → Nat → Nat
  | [], n => n
  | a :: as, n => physFrom as (if a ≤ n then n + 1 else n)

/-- The physical identifier of a logical cell number (R18). -/
def physOf (s : State) (c : Nat) : Nat := physFrom s.plat.absentCells c

/-- The logical number of a present physical identifier (R18). -/
def logicalOf (s : State) (p : Nat) : Nat := p - s.plat.absentCells.countP (fun a => a < p)

/-- Whether a physical identifier is present. -/
def cellPresent (s : State) (p : Nat) : Bool := p < 1024 && !s.plat.absentCells.contains p

/-- The package's cell count (R19). -/
def cellCount (s : State) : Nat := 1024 - s.plat.absentCells.length

/-- The cells present on a die (R19). -/
def dieCells (s : State) (d : Nat) : Nat := 256 - s.plat.absentCells.countP (fun a => a / 256 = d)

/-- The die of a physical identifier. -/
def dieOf (p : Nat) : Nat := p / 256

/-- The cluster of a physical identifier, numbered over the package. -/
def clusterOf (p : Nat) : Nat := p / 8

/-- The narrowest scope that holds two cells, by flat number (08 R191). -/
def spanScope (s : State) (f1 f2 : Nat) : Scope :=
  let p1 := physOf s (f1 % 1024)
  let p2 := physOf s (f2 % 1024)
  if f1 / 1024 != f2 / 1024 then .sys
  else if f1 = f2 then .cell
  else if clusterOf p1 = clusterOf p2 then .clu
  else if dieOf p1 = dieOf p2 then .die
  else .pkg

/-- The scope's code (03 R52). -/
def scopeCode : Scope → Nat
  | .cell => 0
  | .clu => 1
  | .die => 2
  | .pkg => 3
  | .sys => 4

/-- The flat number of a cell of this package (R20). -/
def flatOf (s : State) (c : Nat) : Nat := s.plat.pkg.toNat * 1024 + c

/-! ## Bits of words -/

/-- Bits [hi:lo] of a word as a number. -/
def bitsOf {n : Nat} (x : BitVec n) (hi lo : Nat) : Nat := x.toNat / 2 ^ lo % 2 ^ (hi + 1 - lo)

/-- A word with bits [hi:lo] replaced by the low bits of a number. -/
def putBits (x : Word) (hi lo : Nat) (y : Nat) : Word :=
  let m : Word := BitVec.ofNat 64 ((2 ^ (hi + 1 - lo) - 1) * 2 ^ lo)
  (x &&& ~~~m) ||| (BitVec.ofNat 64 (y * 2 ^ lo) &&& m)

/-- The bits [hi:lo] of a word in place, the others 0. -/
def keepBits (x : Word) (hi lo : Nat) : Word :=
  x &&& BitVec.ofNat 64 ((2 ^ (hi + 1 - lo) - 1) * 2 ^ lo)

/-! ## Slots and their registers (02 R24) -/

/-- The key of a slot in the table. -/
def slotKey (c : Nat) (k : Fin 4) : Nat := 4 * c + k.val

/-- A slot of a cell. -/
def slotAt (s : State) (c : Nat) (k : Fin 4) : Slot := tabGet Slot.reset s.slots (slotKey c k)

/-- A slot put. -/
def putSlotAt (s : State) (c : Nat) (k : Fin 4) (x : Slot) : State :=
  { s with slots := tabSet s.slots (slotKey c k) x }

/-- The slot whose instruction is performed. -/
def slotOf (s : State) : Slot := slotAt s s.curCell s.curSlot

/-- That slot put. -/
def putSlot (s : State) (x : Slot) : State := putSlotAt s s.curCell s.curSlot x

/-- g[n] of a slot; g0 reads as zero (R24). -/
def Slot.readG (x : Slot) (r : GReg) : Word := if r = 0 then 0 else x.g[r]

/-- g[n] written in a slot; g0 ignores writes (R24). -/
def Slot.writeG (x : Slot) (r : GReg) (w : Word) : Slot := if r = 0 then x else { x with g := x.g.set r w }

/-- p[n] of a slot; p0 reads as 1 (R24). -/
def Slot.readP (x : Slot) (r : PReg) : Bool := if r = 0 then true else x.p[r]

/-- p[n] written in a slot; p0 ignores writes (R24). -/
def Slot.writeP (x : Slot) (r : PReg) (b : Bool) : Slot := if r = 0 then x else { x with p := x.p.set r b }

/-- g[n]. -/
def readG (s : State) (r : GReg) : Word := (slotOf s).readG r

/-- g[n] as a number. -/
def readN (s : State) (r : GReg) : Nat := (readG s r).toNat

/-- g[n] written. -/
def writeG (s : State) (r : GReg) (w : Word) : State := putSlot s ((slotOf s).writeG r w)

/-- p[n]. -/
def readP (s : State) (r : PReg) : Bool := (slotOf s).readP r

/-- p[n] written. -/
def writeP (s : State) (r : PReg) (b : Bool) : State := putSlot s ((slotOf s).writeP r b)

/-- v[n]. -/
def readV (s : State) (r : VReg) : VecWord := (slotOf s).v[r]

/-- v[n] written. -/
def writeV (s : State) (r : VReg) (w : VecWord) : State :=
  putSlot s { slotOf s with v := (slotOf s).v.set r w }

/-- m[n]. -/
def readM (s : State) (r : MReg) : MaskWord := (slotOf s).m[r]

/-- m[n] written. -/
def writeM (s : State) (r : MReg) (w : MaskWord) : State :=
  putSlot s { slotOf s with m := (slotOf s).m.set r w }

/-- The register k after another, modulo 64. -/
def regAt {n : Nat} [NeZero n] (r : Fin n) (k : Nat) : Fin n := r + Fin.ofNat n k

/-- Eight consecutive g registers from a frame base (08 R186). -/
def readFrame (s : State) (r : GReg) : Frame := Vector.ofFn (fun i => readG s (regAt r i.val))

/-- IP set (02 R35 step 7). -/
def setIp (s : State) (ip : InstrIx) : State := putSlot s { slotOf s with ip := ip }

/-- IP of the running instruction. -/
def ipOf (s : State) : InstrIx := (slotOf s).ip

/-- IP ← IP + 1 (02 R35 step 7). -/
def advance (s : State) : State := setIp s (ipOf s + 1)

/-- A result written to g[D] and IP advanced. -/
def finishG (s : State) (r : GReg) (w : Word) : State := advance (writeG s r w)

/-- A result written to p[D] and IP advanced. -/
def finishP (s : State) (r : PReg) (b : Bool) : State := advance (writeP s r b)

/-- A result written to v[D] and IP advanced. -/
def finishV (s : State) (r : VReg) (w : VecWord) : State := advance (writeV s r w)

/-- A result written to m[D] and IP advanced. -/
def finishM (s : State) (r : MReg) (w : MaskWord) : State := advance (writeM s r w)

/-- The stall of the running slot set; the slot stays in RUN at its IP. -/
def setStall (s : State) (x : Stall) : State := putSlot s { slotOf s with stall := x }

/-- The running slot goes to WAIT (07 R152). -/
def enterWait (s : State) (w : Wait) : State := putSlot s { slotOf s with run := .wait w }

/-- The running slot returns to RUN (07 R152). -/
def leaveWait (s : State) : State := putSlot s { slotOf s with run := .run }

/-! ## Cells -/

/-- A cell by logical number. -/
def cellAt (s : State) (c : Nat) : Cell := tabGet Cell.reset s.cells c

/-- A cell put. -/
def putCell (s : State) (c : Nat) (x : Cell) : State := { s with cells := tabSet s.cells c x }

/-- The context resident on a cell. -/
def ccAt (s : State) (c : Nat) : CtxCell := (cellAt s c).cc

/-- The context on a cell put. -/
def putCc (s : State) (c : Nat) (x : CtxCell) : State := putCell s c { cellAt s c with cc := x }

/-- The context of the running slot's cell. -/
def ccOf (s : State) : CtxCell := ccAt s s.curCell

/-- That context put. -/
def putCcOf (s : State) (x : CtxCell) : State := putCc s s.curCell x

/-- Whether the dispatcher of a die has checked in (23 R403, R408). -/
def dispatcherUp (s : State) (d : Fin 4) : Bool := s.plat.controllers[2 + d.val].state = .running

/-- The slots of a cell. -/
def slotsOf (s : State) (c : Nat) : List Slot := (List.finRange 4).map (slotAt s c)

/-- Whether a slot holds an activation (07 R152). -/
def slotBusy (x : Slot) : Bool := x.run ≠ .free

/-- The tag of a NaN that the running cell creates at index k (04 R76). -/
def tagOf (s : State) (k : Nat) : BitVec 22 := nanTag s.curCell k

/-- An access to an RWP or ROP register is permitted (00 R5; 18 R358). -/
def privileged (s : State) : Bool := (slotOf s).level != 0 || (ccOf s).desc.sys

/-! ## Frames (07 R155, R156) -/

/-- SCOPE of a header, codes 5-7 read as 4 (R156). -/
def headerScope (h : Word) : Nat := min 4 (bitsOf h 24 22)

/-- A header as the device sets it at release (R156). -/
def headerAt (h : Word) (kind : Nat) (scope : Nat) (seq : Nat) : Word :=
  putBits (putBits (putBits (putBits h 31 28 kind) 25 25 0) 24 22 scope) 21 0 seq

/-- A frame with another header. -/
def withHeader (f : Frame) (h : Word) : Frame := f.set 0 h

/-- A frame marked as one whose data is lost, by a KIND that no frame has (23 R414; log 28 DESIGN CHOICE). -/
def markLost (f : Frame) : Frame := withHeader f (putBits f[0] 31 28 15)

/-- Whether the data of a frame is lost. -/
def isLost (f : Frame) : Bool := bitsOf f[0] 31 28 = 15

/-! ## Channels (07 R171-R174) -/

/-- VALID of an entry (R171). -/
def entryValid (e : Word) : Bool := e.getLsbD 3

/-- MASK of an entry (R171). -/
def entryMasked (e : Word) : Bool := e.getLsbD 2

/-- The scheduler's answer to new local work: back to the cluster domain (07 R170). -/
def localWork (x : CtxCell) : CtxCell := { x with domain := 0, fails := 0 }

/-- A frame put at the end of a channel's queue. -/
def chanQueue (x : CtxCell) (c : Fin 32) (f : Frame) : CtxCell :=
  { x with chans := x.chans.set c { x.chans[c] with queue := x.chans[c].queue ++ [f] } }

/-- A frame that arrives at a channel of a context on its cell, which has room for it: new local work in a valid and unmasked channel
(07 R170). -/
def chanPush (x : CtxCell) (c : Fin 32) (f : Frame) : CtxCell :=
  if entryValid x.chans[c].entry && !entryMasked x.chans[c].entry then localWork (chanQueue x c f) else chanQueue x c f

/-- The frame of a channel-31 event (R173, R174). -/
def eventFrame (code : Nat) (detail : Word) (dropped : Word) : Frame :=
  #v[0x10000000, 0, BitVec.ofNat 64 code, detail, dropped, 0, 0, 0]

/-- PostEvent(31, code, detail) on a context: queued, or dropped and counted (R173). -/
def ccEvent (x : CtxCell) (code : Nat) (detail : Word) : CtxCell :=
  if x.chans[31].queue.length < 8 then
    { chanPush x 31 (eventFrame code detail x.dropped) with dropped := 0 }
  else { x with dropped := if x.dropped = BitVec.allOnes 64 then x.dropped else x.dropped + 1 }

/-- PostEvent(31, code, detail) on the context of a cell. -/
def postEvent (s : State) (c : Nat) (code : Nat) (detail : Word) : State :=
  putCc s c (ccEvent (ccAt s c) code detail)

/-! ## Ending an activation (07 R154, R182; 18 R354, R355) -/

/-- A pre-emption request for the resident context looked at (07 R182): no new activation starts. While the dispatcher of the die is
swapped, the request waits with it (23 R408). -/
def lookPreempt (s : State) (c : Nat) : State :=
  let x := cellAt s c
  if x.preempt = some x.cc.desc.ctxid && x.live && dispatcherUp s (Fin.ofNat 4 (dieOf (physOf s c))) then
    putCell s c { x with closed := true }
  else s

/-- The running slot freed, its deferred effects discarded and its PEND cleared, its level 0 (18 R354, R355; 19 R365). -/
def freeSlot (s : State) : State :=
  putSlot s { slotOf s with run := .free, level := 0, release := [], joins := [], pend := .none, stall := .none }

/-- KIND of the running frame. -/
def frameKind (s : State) : Nat := bitsOf (slotOf s).sframe 31 28

/-- SEQ of the running frame. -/
def frameSeq (s : State) : Nat := bitsOf (slotOf s).sframe 21 0

/-- The channel of the running message masked (R354, R355), its frame returned poisoned when `back`. -/
def maskChannel (s : State) (back : Bool) : State :=
  match (slotOf s).source with
  | .hod => s
  | .channel c =>
    if frameKind s = 1 then
      let x := ccOf s
      let ch := x.chans[c]
      let f := withHeader (slotOf s).frame ((slotOf s).sframe ||| 0x02000000)
      let ch' := { ch with entry := ch.entry ||| 4, queue := if back then f :: ch.queue else ch.queue }
      putCcOf s { x with chans := x.chans.set c ch' }
    else s

/-- One more ABORTED event of the context (22 R399). -/
def countAbort (x : CtxCell) : CtxCell := { x with aborts := x.aborts + 1 }

/-- One more KILL event of the context (22 R399). -/
def countKill (x : CtxCell) : CtxCell := { x with kills := x.kills + 1 }

/-- The activation ended as by tabort (18 R354). -/
def abortActivation (s : State) : State :=
  let s1 := maskChannel s true
  let s2 := putCcOf s1 (countAbort (ccEvent (ccOf s1) 4 (BitVec.ofNat 64 (frameSeq s))))
  lookPreempt (freeSlot s2) s.curCell

/-- The detail word of KILL (18 R355; log 24 DEDUCED). -/
def killDetail (t : InstrIx) (k : Fin 4) (cause : Nat) (seq : Nat) : Word :=
  BitVec.ofNat 64 (t.toNat * 2 ^ 32 + k.val * 2 ^ 30 + cause * 2 ^ 22 + seq)

/-- The activation killed by a trap at level 2 (18 R355). -/
def killActivation (s : State) (cause : Nat) (t : InstrIx) : State :=
  let s1 := maskChannel s false
  let s2 := putCcOf s1 (countKill (ccEvent (ccOf s1) 5 (killDetail t s.curSlot cause (frameSeq s))))
  lookPreempt (freeSlot s2) s.curCell

/-! ## Taking a trap and returning from one (18 R338, R341, R348) -/

/-- The cycles of a handler limit (R341). -/
def handlerCycles : Nat := 2 ^ 22

/-- The handler entry of a level (R342). -/
def handlerEntry (tvec : Word) (two : Bool) : InstrIx :=
  if two then (tvec >>> 32).setWidth 32 else tvec.setWidth 32

/-- A slot that enters a level: banks written, IP at the handler, a fresh limit, in RUN without a stall. -/
def Slot.enter (x : Slot) (two : Bool) (tvec : Word) (cause : Nat) (t : InstrIx) (va info : Word) : Slot :=
  let b : Fin 2 := if two then 1 else 0
  { x with
    level := if two then 2 else 1
    ip := handlerEntry tvec two
    tcause := x.tcause.set b (BitVec.ofNat 64 cause)
    tip := x.tip.set b (t.setWidth 64)
    tfva := x.tfva.set b va
    tinfo := x.tinfo.set b info
    limit := x.limit.set b handlerCycles
    run := .run
    stall := .none }

/-- Trap(cause) with return IP t, address va and detail info (R338). -/
def takeTrap (s : State) (cause : Nat) (t : InstrIx) (va info : Word) : State :=
  match (slotOf s).level with
  | 0 => putSlot s ((slotOf s).enter false (ccOf s).tvec cause t va info)
  | 1 => putSlot s ((slotOf s).enter true (ccOf s).tvec cause t va info)
  | _ => killActivation s cause (ipOf s)

/-- A trap of the running instruction, whose IP its tip names. -/
def trapHere (s : State) (cause : Nat) (va info : Word) : State := takeTrap s cause (ipOf s) va info

/-- Return from the level the slot is at, which is 1 or 2 (R348). -/
def returnTrap (s : State) : State :=
  let x := slotOf s
  if x.level = 2 then putSlot s { x with ip := (x.tip[1]).setWidth 32, level := 1 }
  else putSlot s { x with ip := (x.tip[0]).setWidth 32, level := 0 }

/-- tinfo on ILLOP (03 R59). -/
def infoIllop (reason pos : Nat) (opc : BitVec 12) : Word :=
  BitVec.ofNat 64 (reason * 2 ^ 16 + pos * 2 ^ 14 + opc.toNat)

/-- tinfo on PRIV, BUDGET, HODFULL and SWTRAP (18 R345). -/
def infoArg (free arg low : Nat) : Word := BitVec.ofNat 64 (free * 2 ^ 32 + arg * 2 ^ 16 + low)

/-- ILLOP raised at step 6 with REASON 4. -/
def trapIllop4 (s : State) (opc : BitVec 12) : State := trapHere s 1 0 (infoIllop 4 0 opc)

/-- PRIV raised by an instruction that names no special register. -/
def trapPriv (s : State) (opc : BitVec 12) : State := trapHere s 2 0 (infoArg 0 0 opc.toNat)

/-! ## Special registers (02 R28; 05 R113) -/

/-- The number of a special register (R28). -/
def sregNumber : SReg → Nat
  | .sframe => 0x000
  | .sbudget => 0x001
  | .sdomain => 0x002
  | .sspill => 0x003
  | .sctl => 0x004
  | .sdctl => 0x005
  | .stime => 0x006
  | .scbase => 0x007
  | .sclim => 0x008
  | .sstk => 0x009
  | .scell => 0x00A
  | .sphys => 0x00B
  | .sinv => 0x00C
  | .scarve => 0x00D
  | .svgroup => 0x00E
  | .mxdone => 0x00F
  | .mxstat => 0x010
  | .senacc i => 0x040 + i.val
  | .senlim i => 0x060 + i.val
  | .tvec => 0x100
  | .tcause l => if l then 0x112 else 0x111
  | .tip l => if l then 0x122 else 0x121
  | .tfva l => if l then 0x132 else 0x131
  | .tinfo l => if l then 0x142 else 0x141
  | .tarea l => if l then 0x152 else 0x151

/-- How a register may be accessed: RO, RW, RWP, or RO with PRIV on a write (00 R5; 02 R28). -/
inductive SAccess where
  | ro | rw | rwp | fuse
deriving DecidableEq, Repr

/-- The access of a register (R28; 01 R19). -/
def sregAccess : SReg → SAccess
  | .sframe | .sbudget | .stime | .scbase | .sclim | .mxdone | .mxstat | .senacc _ | .senlim _ => .ro
  | .sdomain | .sctl | .sstk => .rw
  | .scell | .sphys | .sinv => .fuse
  | .sspill | .sdctl | .scarve | .svgroup | .tvec | .tcause _ | .tip _ | .tfva _ | .tinfo _ | .tarea _ => .rwp

/-- sdomain (08 R202). -/
def sdomainWord (x : CtxCell) : Word :=
  BitVec.ofNat 64 (x.fails.toNat * 2 ^ 8 + x.domain.toNat * 2 ^ 4 + x.widest.toNat)

/-- sinv (01 R19). -/
def sinvWord (s : State) : Word :=
  BitVec.ofNat 64 (s.plat.stackBits.toNat * 2 ^ 36 + dieCells s 3 * 2 ^ 27 + dieCells s 2 * 2 ^ 18 +
    dieCells s 1 * 2 ^ 9 + dieCells s 0)

/-- mxstat (14 R301). -/
def mxstatWord (x : Mxu) : Word :=
  BitVec.ofNat 64 (x.errtk.toNat * 2 ^ 48 + x.k.toNat * 2 ^ 32 +
    (x.poisoned[0].toNat + 2 * x.poisoned[1].toNat + 4 * x.poisoned[2].toNat + 8 * x.poisoned[3].toNat) * 2 ^ 28 +
    x.err.toNat * 2 ^ 24 + x.narrow.toNat * 2 ^ 16 + x.pend.isSome.toNat * 2 ^ 12 + x.queue.length)

/-- The bank of a level. -/
def bankOf (two : Bool) : Fin 2 := if two then 1 else 0

/-- The value an mfs reads (R113). -/
def readSpecial (s : State) (r : SReg) : Word :=
  let x := slotOf s
  let c := ccOf s
  match r with
  | .sframe => x.sframe
  | .sbudget => x.sbudget.setWidth 64
  | .sdomain => sdomainWord c
  | .sspill => c.sspill
  | .sctl => x.sctl
  | .sdctl => c.sdctl
  | .stime => s.stime
  | .scbase => c.scbase
  | .sclim => c.sclim
  | .sstk => c.sstk[s.curSlot]
  | .scell => BitVec.ofNat 64 (s.plat.pkg.toNat * 2 ^ 12 + s.curCell)
  | .sphys => BitVec.ofNat 64 (physOf s s.curCell)
  | .sinv => sinvWord s
  | .scarve => c.scarve
  | .svgroup => c.svgroup
  | .mxdone => c.mxu.done
  | .mxstat => mxstatWord c.mxu
  | .senacc i => s.plat.islands[i].uj
  | .senlim i => s.plat.islands[i].mw.setWidth 64
  | .tvec => c.tvec
  | .tcause l => x.tcause[bankOf l]
  | .tip l => x.tip[bankOf l]
  | .tfva l => x.tfva[bankOf l]
  | .tinfo l => x.tinfo[bankOf l]
  | .tarea l => x.tarea[bankOf l]

/-- A value written to a register that an mts of this form may write; bits reserved or RO keep their values (R113).
The registers with rows of their own are not reached here. -/
def writeSpecial (s : State) (r : SReg) (w : Word) : State :=
  let x := slotOf s
  let c := ccOf s
  match r with
  | .sctl => putSlot s { x with sctl := keepBits w 0 0 }
  | .sdctl => putCcOf s { c with sdctl := keepBits w 0 0 }
  | .sstk => putCcOf s { c with sstk := c.sstk.set s.curSlot (keepBits w 54 4) }
  | .tvec => putCcOf s { c with tvec := w }
  | .tcause l => putSlot s { x with tcause := x.tcause.set (bankOf l) (keepBits w 7 0) }
  | .tip l => putSlot s { x with tip := x.tip.set (bankOf l) (keepBits w 31 0) }
  | .tfva l => putSlot s { x with tfva := x.tfva.set (bankOf l) w }
  | .tinfo l => putSlot s { x with tinfo := x.tinfo.set (bankOf l) w }
  | .tarea l => putSlot s { x with tarea := x.tarea.set (bankOf l) (keepBits w 54 9) }
  | _ => s

/-- PRIV on an mfs or mts, with the register's number (18 R345). -/
def trapSpecial (s : State) (r : SReg) (opc : BitVec 12) : State :=
  trapHere s 2 0 (infoArg 0 (sregNumber r) opc.toNat)

end Sys2Proof.Machine
end

