-- ==== Sys2Proof/Machine/Laths.lean ====
section
/-! DEFINITION. The ring of laths: streams between dies, flits, replay, retraining and the audit of replay windows
(01 R12; 20 R377-R380). What a message carries is not held in its flit (log 18 DESIGN CHOICE). -/

namespace Sys2Proof.Machine

/-- What the package keeps of the dies put. -/
def putDies (s : State) (d : Dies) : State := { s with dies := d }

/-! ## The ring (R377) -/

/-- The two dies that a lath joins, the way of the ring (R377). -/
def lathEnds (l : Nat) : Fin 4 × Fin 4 :=
  match l with
  | 0 => (0, 1)
  | 1 => (1, 3)
  | 2 => (3, 2)
  | _ => (2, 0)

/-- The die that sends on a link; link 2l runs the way of the ring, link 2l + 1 against it. -/
def linkFrom (l : Fin 8) : Fin 4 := if l.val % 2 = 0 then (lathEnds (l.val / 2)).1 else (lathEnds (l.val / 2)).2

/-- The die that receives on a link. -/
def linkTo (l : Fin 8) : Fin 4 := if l.val % 2 = 0 then (lathEnds (l.val / 2)).2 else (lathEnds (l.val / 2)).1

/-- The link that runs the other way on the same lath. -/
def linkBack (l : Fin 8) : Fin 8 := if l.val % 2 = 0 then l + 1 else l - 1

/-- The link a die sends on, clockwise or not. -/
def linkOut (d : Fin 4) (clockwise : Bool) : Fin 8 :=
  match d, clockwise with
  | 0, true => 0
  | 1, true => 2
  | 3, true => 4
  | 2, true => 6
  | 1, false => 1
  | 3, false => 3
  | 2, false => 5
  | 0, false => 7

/-- The links of the way from one die to another in a direction, at most three. -/
def ringPath (clockwise : Bool) (src dst : Fin 4) : Nat → List (Fin 8)
  | 0 => []
  | n + 1 =>
    if src = dst then []
    else
      let l := linkOut src clockwise
      l :: ringPath clockwise (linkTo l) dst n

/-- Whether every link of a path is up. -/
def pathUp (s : State) (p : List (Fin 8)) : Bool := p.all (fun l => s.dies.links[l].up)

/-- The link on which a die sends a message for another: neighbours directly, the diagonal clockwise, the other way round
when a lath is down (R377). -/
def nextLink (s : State) (src dst : Fin 4) : Option (Fin 8) :=
  let cw := ringPath true src dst 3
  let ccw := ringPath false src dst 3
  let best := if ccw.length < cw.length then ccw else cw
  let other := if ccw.length < cw.length then cw else ccw
  if pathUp s best then best.head? else if pathUp s other then other.head? else none

/-- Whether a die stands fenced (R382). -/
def isFenced (s : State) (who : Fin 4) : Bool := s.dies.health[who].reported

/-! ## The way to the port dies (01 R13) -/

/-- Whether the port die that a die is linked to, A for dies 0 and 2 and B for 1 and 3, has an Ultra Ethernet port up (01 R13). -/
def etherUp (s : State) (p : Nat) : Bool := s.plat.ethUp &&& (0xF#8 <<< (4 * (p % 2))) != 0

/-- Whether a die reaches the peers by its own port link: that and a port behind it are up (01 R13). -/
def portOpen (s : State) (p : Nat) : Bool := s.plat.portUp.getLsbD p && etherUp s p

/-- The die by whose port link a die reaches the peers: its own, else a neighbour's, to which one lath leads (01 R13). -/
def exitDie (s : State) (d : Fin 4) : Option (Fin 4) :=
  if portOpen s d.val then some d
  else (([true, false].find? (fun b => s.dies.links[linkOut d b].up && portOpen s (linkTo (linkOut d b)).val))).map
    (fun b => linkTo (linkOut d b))

/-- Whether hosts and peers reach the package, and it them: some die has a way to an Ultra Ethernet port (01 R13; 22 R389). -/
def hostReach (s : State) : Bool := (List.range 4).any (portOpen s)

/-! ## Streams and flits (R378, R379) -/

/-- The key of the stream from one die to another. -/
def streamKey (src dst : Fin 4) : Nat := 4 * src.val + dst.val

/-- A stream. -/
def streamAt (s : State) (k : Nat) : Stream := tabGet ⟨0, 0, []⟩ s.dies.streams k

/-- A stream put. -/
def putStream (s : State) (k : Nat) (x : Stream) : State :=
  putDies s { s.dies with streams := tabSet s.dies.streams k x }

/-- A link put. -/
def putLink (s : State) (l : Fin 8) (x : Link) : State := putDies s { s.dies with links := s.dies.links.set l x }

/-- The links of a set changed. -/
def mapLinks (s : State) (p : Fin 8 → Bool) (f : Link → Link) : State :=
  putDies s { s.dies with links := Vector.ofFn (fun l => if p l then f s.dies.links[l] else s.dies.links[l]) }

/-- A flit put on a link that is up and has room in its replay window; while the lath retrains it stays in the window
(R379). -/
def sendFlit (s : State) (l : Fin 8) (stream number : Nat) : State :=
  let x := s.dies.links[l]
  let src := linkFrom l
  let f : Flit := ⟨x.next, s.dies.tables[src].incs[src], s.dies.links[linkBack l].expect - 1, stream, number⟩
  if x.up && x.window.length < 2048 then
    putLink s l { x with
      next := x.next + 1
      window := x.window ++ [⟨f, false⟩]
      wire := if x.retraining then x.wire else x.wire ++ [f] }
  else s

/-- A kept message of a stream put on its way. -/
def sendKept (s : State) (k number : Nat) : State :=
  match nextLink s (Fin.ofNat 4 (k / 4)) (Fin.ofNat 4 k) with
  | some l => sendFlit s l k number
  | none => s

/-- Whether something for a die leaves another as a message: both are up and they are not one die (01 R16; R382). -/
def byLath (s : State) (src dst : Nat) : Bool :=
  src % 4 != dst % 4 && !isFenced s (Fin.ofNat 4 src) && !isFenced s (Fin.ofNat 4 dst)

/-- A new message of the stream from one die to another, kept until it is acknowledged (R378). -/
def sendMessage (s : State) (src dst : Nat) : State :=
  if !byLath s src dst then s
  else
    let k := streamKey (Fin.ofNat 4 src) (Fin.ofNat 4 dst)
    let x := streamAt s k
    sendKept (putStream s k { x with next := x.next + 1, kept := x.kept ++ [(x.next, 0)] }) k x.next

/-- The name of the message that a die sends another next; none when both are one die, or one is fenced (01 R16; R382). -/
def nextTransit (s : State) (src dst : Nat) : Transit :=
  if !byLath s src dst then none
  else
    let k := streamKey (Fin.ofNat 4 src) (Fin.ofNat 4 dst)
    some (k, (streamAt s k).next)

/-- Whether a message has arrived at its die (R378). -/
def arrived (s : State) (t : Transit) : Bool :=
  match t with
  | some (k, n) => n < (streamAt s k).deliver
  | none => true

/-- Whether a message left before another of its stream (R378). -/
def sentBefore (a b : Transit) : Bool :=
  match a, b with
  | some (k, n), some (k', n') => k = k' && n < n'
  | _, _ => false

/-- Whether a message stands in the replay window of any link. -/
def inWindow (s : State) (k number : Nat) : Bool :=
  s.dies.links.toList.any (fun l => l.window.any (fun e => e.flit.stream = k && e.flit.number = number))

/-- The unacknowledged messages of streams that stand in no window sent, in order: when a window has room again, and when
a lath has gone down (R378, R379). -/
def resendKept (s : State) : State :=
  s.dies.streams.foldl (fun s e =>
    e.2.kept.foldl (fun s n => if inWindow s e.1 n.1 then s else sendKept s e.1 n.1) s) s

/-- A message that has reached its die: delivered in number order, duplicates discarded, kept no longer (R378; log 18
DESIGN CHOICE). What the message says takes effect with the step that waits for it. -/
def deliverMessage (s : State) (k number : Nat) : State :=
  let x := streamAt s k
  if number = x.deliver then
    putStream s k { x with deliver := x.deliver + 1, kept := x.kept.filter (fun n => n.1 != number) }
  else s

/-- Whether a flit is discarded: damaged, out of sequence, or of an incarnation that is not current (R379). -/
def flitBad (s : State) (l : Fin 8) (f : Flit) (intact : Bool) : Bool :=
  let t := s.dies.tables[linkTo l]
  !intact || f.seq != s.dies.links[l].expect || f.inc != t.incs[linkFrom l] || t.fenced.getLsbD (linkFrom l).val

/-- The entries of a window up to an acknowledged SEQ gone, if it is there (R379). -/
def ackWindow (a : BitVec 12) (w : List WindowEntry) : List WindowEntry :=
  match w.findIdx? (fun e => e.flit.seq = a) with
  | some i => w.drop (i + 1)
  | none => w

/-- A link whose replay window has been acknowledged; progress ends a run of replays (R379). -/
def ackLink (a : BitVec 12) (x : Link) : Link :=
  let w := ackWindow a x.window
  if w.length < x.window.length then { x with window := w, stalled := 0, replays := 0 } else x

/-- A die heard from (R382). -/
def heardFrom (s : State) (d : Fin 4) : State :=
  putDies s { s.dies with health := s.dies.health.set d { s.dies.health[d] with silent := 0 } }

/-- The window of the other direction of a lath acknowledged by the ACK that a flit carries (R379). -/
def takeAck (s : State) (l : Fin 8) (ack : BitVec 12) : State :=
  putLink s (linkBack l) (ackLink ack s.dies.links[linkBack l])

/-- An accepted flit: expected SEQ advanced, the other direction's window acknowledged, the message delivered or forwarded
(R377-R379). -/
def acceptFlit (s : State) (l : Fin 8) (f : Flit) : State :=
  let x := s.dies.links[l]
  let s1 := heardFrom (putLink s l { x with expect := x.expect + 1 }) (linkFrom l)
  let s2 := takeAck s1 l f.ack
  let dst : Fin 4 := Fin.ofNat 4 f.stream
  let s3 := if dst = linkTo l then deliverMessage s2 f.stream f.number
    else match nextLink s2 (linkTo l) dst with
      | some n => sendFlit s2 n f.stream f.number
      | none => s2
  resendKept s3

/-- A flit without a message on a link: it takes no SEQ, carries the sender's ACK, and shows that the die answers (R379, R382;
log 18 DESIGN CHOICE). -/
def idleFlit (s : State) (l : Fin 8) : State :=
  resendKept (takeAck (heardFrom s (linkFrom l)) l (s.dies.links[linkBack l].expect - 1))

/-- The next flit on a lath arrives (R379). -/
def receiveLath (l : Fin 8) (intact : Bool) (s : State) : State :=
  let x := s.dies.links[l]
  if !x.up || x.retraining then s
  else
    match x.wire with
    | [] =>
      if !intact || (s.dies.tables[linkTo l]).fenced.getLsbD (linkFrom l).val then s else idleFlit s l
    | f :: w =>
      let s1 := putLink s l { x with wire := w }
      if flitBad s l f intact then s1 else acceptFlit s1 l f

/-- A flit arrives on the port link of a die, which is heard from (01 R13; R382). -/
def receivePort (d : Fin 4) (intact : Bool) (s : State) : State :=
  if intact && s.plat.portUp.getLsbD d.val && !isFenced s d then heardFrom s d else s

/-! ## Replay and retraining (R379) -/

/-- The controller of the sending end of a link: controllers 18 to 25, two a lath (23 R403). -/
def lathController (s : State) (l : Fin 8) : Controller := s.plat.controllers[18 + l.val]

/-- Whether a controller of either end of a link's lath is being swapped (23 R408). -/
def lathSwapping (s : State) (l : Fin 8) : Bool :=
  let swapping (x : Controller) : Bool := match x.state with
    | .starting _ => true
    | _ => false
  swapping (lathController s l) || swapping (lathController s (linkBack l))

/-- The flits of a replay: from ACK + 1 on, to an entry under rebuild (R380). -/
def replayFlits (w : List WindowEntry) : List Flit := (w.takeWhile (fun e => !e.rebuild)).map (fun e => e.flit)

/-- lathReplay: ACK has stood still for 256 cycles; after 8 replays without progress the lath retrains (R379). -/
def execLathReplay (l : Fin 8) (s : State) : Res :=
  let x := s.dies.links[l]
  if !x.up || x.retraining || x.window.isEmpty || x.stalled < 256 then .next s
  else if 8 ≤ x.replays then
    if lathSwapping s l then .next s
    else .next (mapLinks s (fun y => y = l || y = linkBack l) (fun y => { y with retraining := true, wire := [] }))
  else .next (putLink s l { x with wire := replayFlits x.window, stalled := 0, replays := x.replays + 1 })

/-- Whether a link belongs to a lath. -/
def ofLath (lath : Fin 4) (l : Fin 8) : Bool := l.val / 2 = lath.val

/-- retrainComplete: the lath goes on, its windows replayed, or it is down and every stream resends (R379). -/
def execRetrainComplete (lath : Fin 4) (trained : Bool) (s : State) : Res :=
  if !s.dies.links[2 * lath.val].retraining then .next s
  else if trained then
    .next (mapLinks s (ofLath lath) (fun x =>
      { x with retraining := false, replays := 0, stalled := 0, wire := replayFlits x.window }))
  else
    .next (resendKept (mapLinks s (ofLath lath) (fun x =>
      { x with up := false, retraining := false, replays := 0, stalled := 0, wire := [], window := [] })))

/-! ## The audit (R380) -/

/-- Whether an audit found an entry uncorrectable. -/
def foundBad (found : List AuditFinding) (e : WindowEntry) : Bool :=
  found.any (fun x => match x with
    | .single _ => false
    | .uncorrectable n => e.flit.seq.toNat = n)

/-- replayAudit: single-bit errors corrected in place, an uncorrectable entry under rebuild from its message; the rebuilds
of the audit before are done (R380); the audit position moves on (23 R407). -/
def execReplayAudit (l : Fin 8) (found : List AuditFinding) (s : State) : Res :=
  let x := s.dies.links[l]
  let s1 := putLink s l { x with window := x.window.map (fun e => { e with rebuild := foundBad found e }) }
  .next { s1 with plat := { s1.plat with
    lathWork := s1.plat.lathWork.set l { s1.plat.lathWork[l] with audit := s1.plat.lathWork[l].audit + 1 } } }

end Sys2Proof.Machine
end

