-- ==== Sys2Proof/Machine/Memory.lean ====
section
/-! DEFINITION. Memory: bytes of the package, translation, the address checks of an access, and performing it
(00 R3; 02 R35, R40, R41; 10 R206-R218; 18 R344, R345; 20 R384). -/

namespace Sys2Proof.Machine

/-! ## Bytes at physical addresses -/

/-- The first address of the second tier (10 R206). -/
def tierBase : Nat := 0x100000000000

/-- The size of the window of a CXL port, 384 GiB (22 R402). -/
def tierWindow : Nat := 0x6000000000

/-- Whether the expander behind a CXL port reaches an offset of its window (22 R402). -/
def inPortWindow (s : State) (port off : Nat) : Bool :=
  if h : port < 8 then off < s.plat.tierGiB[port] * 2 ^ 30 else false

/-- Whether there is memory at a physical address (10 R206; 01 R10, R23; 22 R402). -/
def memExists (s : State) (pa : Nat) : Bool :=
  if pa < 12 * 2 ^ 36 then s.plat.stackBits.getLsbD (pa / 2 ^ 36)
  else tierBase ≤ pa && inPortWindow s ((pa - tierBase) / tierWindow) ((pa - tierBase) % tierWindow)

/-- The byte that a coherent read returns: a cached dirty byte, else memory's (10 R226). -/
def physByte (s : State) (pa : Nat) : Byte :=
  match tabFind s.dirty pa with
  | some b => b
  | none => memGet s.mem pa

/-- A byte written coherently: it stands in a cache until it is written back; a byte equal to memory's is not
listed. -/
def physSet (s : State) (pa : Nat) (b : Byte) : State :=
  if b = memGet s.mem pa then { s with dirty := tabErase s.dirty pa }
  else { s with dirty := tabSet s.dirty pa b }

/-- n bytes from a physical address on. -/
def physBytes (s : State) (pa n : Nat) : List Byte := (List.range n).map (fun i => physByte s (pa + i))

/-- Bytes written coherently from a physical address on. -/
def physWrite (s : State) (pa : Nat) : List Byte → State
  | [] => s
  | b :: bs => physWrite (physSet s pa b) (pa + 1) bs

/-- The number of n bytes at a physical address (00 R3). -/
def physNat (s : State) (pa n : Nat) : Nat := natOf (physBytes s pa n)

/-- A byte written to memory itself, cached copies of it gone: a write of a device or an RDMA write (22 R390). -/
def memPut (s : State) (pa : Nat) (b : Byte) : State :=
  { s with mem := memSet s.mem pa b, dirty := tabErase s.dirty pa }

/-- Bytes written to memory itself. -/
def memWrite (s : State) (pa : Nat) : List Byte → State
  | [] => s
  | b :: bs => memWrite (memPut s pa b) (pa + 1) bs

/-- The dirty bytes of a line written to memory (12 R262; 10 R226). -/
def writeBack (s : State) (line : Nat) : State :=
  memWrite s (line * 128) (physBytes s (line * 128) 128)

/-- Whether a CXL port is reached: its link is up, and a port link of its port die, to dies 0 and 2 or to dies 1 and 3 (01 R13; 22
R402; log 70 DESIGN CHOICE). -/
def cxlReached (s : State) (port : Nat) : Bool :=
  s.plat.cxlUp.getLsbD port && s.plat.portUp &&& (0x5#4 <<< (port / 4)) != 0

/-- Whether a sector is unreadable in memory: poisoned, or behind a CXL port that is not reached (20 R384; 22 R402). -/
def sectorBad (s : State) (sector : Nat) : Bool :=
  s.poison.contains sector ||
    (tierBase / 32 ≤ sector && !cxlReached s ((sector - tierBase / 32) / (tierWindow / 32)))

/-- Whether any byte from a physical address on is unreadable. -/
def rangeBad (s : State) (pa n : Nat) : Bool :=
  (List.range n).any (fun i => sectorBad s ((pa + i) / 32))

/-- A full-line write replaces a poisoned line (20 R384). -/
def healLine (s : State) (line : Nat) : State :=
  { s with poison := s.poison.filter (fun x => x / 4 != line) }

/-- The poisoned sectors of a line that are among some replaced (20 R385). -/
def healSectors (s : State) (line : Nat) (good : BitVec 4) : State :=
  { s with poison := s.poison.filter (fun x => !(x / 4 = line && good.getLsbD (x % 4))) }

/-- A line marked poisoned (20 R384). -/
def poisonLine (s : State) (line : Nat) : State :=
  { healLine s line with
    poison := (healLine s line).poison ++ [4 * line, 4 * line + 1, 4 * line + 2, 4 * line + 3] }

/-! ## Translation (10 R208-R211) -/

/-- What a walk found, or the level of the entry that failed (R210). -/
abbrev WalkResult := Except Nat TlbEntry

/-- The reserved bits of a table entry are 0 (R209). -/
def pteClean (e : Nat) : Bool := e / 2 ^ 45 = 0 && e / 2 ^ 6 % 2 ^ 6 = 0

/-- KIND of a table entry (R209). -/
def pteKind (e : Nat) : Nat := e / 2 % 4

/-- The address of a table entry (R209). -/
def pteAddr (e : Nat) : Nat := e / 2 ^ 12 * 2 ^ 12 % 2 ^ 45

/-- Whether an entry is valid and names an aligned table or page in memory (R210). -/
def pteNames (s : State) (e size : Nat) : Bool :=
  e % 2 = 1 && pteClean e && pteAddr e % size = 0 && memExists s (pteAddr e)

/-- The translation a leaf entry gives (R209). -/
def pteLeaf (ctxid : BitVec 16) (va bits e : Nat) : TlbEntry :=
  ⟨ctxid, va / 2 ^ bits * 2 ^ bits, bits, pteAddr e, e.testBit 3, e.testBit 4, e.testBit 5⟩

/-- The level 2 table that the root table gives for an address (R208, R210). -/
def rootStep (s : State) (root va : Nat) : Except Nat Nat :=
  let e := physNat s (root + 8 * (va / 2 ^ 42 % 2 ^ 13)) 8
  if memExists s root && pteNames s e (2 ^ 15) && pteKind e = 0 then .ok (pteAddr e) else .error 1

/-- What an entry of a level 2 table gives: a 1 GiB page, or a level 3 table. -/
inductive MidEntry where
  | page (e : TlbEntry)
  | table (a : Nat)
deriving DecidableEq, Repr

/-- What a level 2 table gives for an address (R208, R210). -/
def midStep (s : State) (ctxid : BitVec 16) (table va : Nat) : Except Nat MidEntry :=
  let e := physNat s (table + 8 * (va / 2 ^ 30 % 2 ^ 12)) 8
  if pteKind e = 2 then
    if pteNames s e (2 ^ 30) then .ok (.page (pteLeaf ctxid va 30 e)) else .error 2
  else if pteNames s e (2 ^ 17) && pteKind e = 0 then .ok (.table (pteAddr e)) else .error 2

/-- The place in a level 3 table of an address, and of the first of the 32 entries of its 2 MiB page. -/
def leafPlaces (table va : Nat) : Nat × Nat :=
  let ix := va / 2 ^ 16 % 2 ^ 14
  (table + 8 * ix, table + 8 * (ix / 32 * 32))

/-- What a level 3 table gives for an address (R208, R210). -/
def leafStep (s : State) (ctxid : BitVec 16) (table va : Nat) : WalkResult :=
  let e := physNat s (leafPlaces table va).1 8
  if pteKind e = 0 then
    if pteNames s e (2 ^ 16) then .ok (pteLeaf ctxid va 16 e) else .error 3
  else
    let f := physNat s (leafPlaces table va).2 8
    if e % 2 = 1 && pteKind e = 1 && pteKind f = 1 && pteNames s f (2 ^ 21) then .ok (pteLeaf ctxid va 21 f)
    else .error 3

/-- The walk from a level 2 table on. -/
def walkMid (s : State) (ctxid : BitVec 16) (table va : Nat) : WalkResult :=
  match midStep s ctxid table va with
  | .error l => .error l
  | .ok (.page e) => .ok e
  | .ok (.table t) => leafStep s ctxid t va

/-- The walk from a root table, its entries used as they stand in memory and caches (R208, R210; log 40 DEDUCED, log 59 DESIGN
CHOICE). -/
def walk (s : State) (ctxid : BitVec 16) (root va : Nat) : WalkResult :=
  match rootStep s root va with
  | .error l => .error l
  | .ok t => walkMid s ctxid t va

/-- The intermediate entries that the walkers of a die hold. -/
def heldWalks (s : State) (d : Nat) : List WalkEntry := tabGet [] s.tlbs.walks d

/-- The table of a level that the walkers of a die hold for an address (R211). -/
def heldTable (s : State) (d : Nat) (ctxid : BitVec 16) (level va : Nat) : Option Nat :=
  let top := if level = 2 then va / 2 ^ 42 else va / 2 ^ 30
  ((heldWalks s d).find? (fun x => x.ctxid = ctxid && x.level = level && x.top = top)).map (fun x => x.table)

/-- The walk of a die's walkers, which goes on from the intermediate entries they hold (R211). -/
def dieWalk (s : State) (d : Nat) (ctxid : BitVec 16) (root va : Nat) : WalkResult :=
  match heldTable s d ctxid 3 va, heldTable s d ctxid 2 va with
  | some t, _ => leafStep s ctxid t va
  | none, some t => walkMid s ctxid t va
  | none, none => walk s ctxid root va

/-- The places that a walk reads from a level 2 table on. -/
def midPlaces (s : State) (ctxid : BitVec 16) (table va : Nat) : List Nat :=
  let a := table + 8 * (va / 2 ^ 30 % 2 ^ 12)
  match midStep s ctxid table va with
  | .ok (.table t) => [a, (leafPlaces t va).1, (leafPlaces t va).2]
  | _ => [a]

/-- The places that a walk of a die reads (R211). -/
def walkPlaces (s : State) (d : Nat) (ctxid : BitVec 16) (root va : Nat) : List Nat :=
  match heldTable s d ctxid 3 va, heldTable s d ctxid 2 va with
  | some t, _ => [(leafPlaces t va).1, (leafPlaces t va).2]
  | none, some t => midPlaces s ctxid t va
  | none, none =>
    if !memExists s root then []
    else
      let a := root + 8 * (va / 2 ^ 42 % 2 ^ 13)
      match rootStep s root va with
      | .ok t => a :: midPlaces s ctxid t va
      | .error _ => [a]

/-- The intermediate entry that a walk reads in a level 2 table. -/
def midLearns (s : State) (ctxid : BitVec 16) (table va : Nat) : List WalkEntry :=
  match midStep s ctxid table va with
  | .ok (.table t) => [⟨ctxid, 3, va / 2 ^ 30, t⟩]
  | _ => []

/-- The intermediate entries that a walk of a die has read, those that its walkers held not among them (R211). -/
def walkLearns (s : State) (d : Nat) (ctxid : BitVec 16) (root va : Nat) : List WalkEntry :=
  match heldTable s d ctxid 3 va, heldTable s d ctxid 2 va with
  | some _, _ => []
  | none, some t => midLearns s ctxid t va
  | none, none =>
    match rootStep s root va with
    | .error _ => []
    | .ok t => midLearns s ctxid t va ++ [⟨ctxid, 2, va / 2 ^ 42, t⟩]

/-- A cached translation that covers an address (R211). -/
def tlbFind (ctxid : BitVec 16) (va : Nat) (l : List TlbEntry) : Option TlbEntry :=
  l.find? (fun e => e.ctxid = ctxid && e.va = va / 2 ^ e.size * 2 ^ e.size)

/-- The translation that the TLBs of a cell hold: its L1 TLB, then its cluster's L2 TLB (R211). -/
def tlbHit (s : State) (c : Nat) (ctxid : BitVec 16) (va : Nat) : Option TlbEntry :=
  match tlbFind ctxid va (tabGet [] s.tlbs.l1 c) with
  | some e => some e
  | none => tlbFind ctxid va (tabGet [] s.tlbs.l2 (clusterOf (physOf s c)))

/-- The translation of an address for a context on a cell: the TLBs, else a walk (R211). -/
def translate (s : State) (c : Nat) (d : Descriptor) (va : Nat) : WalkResult :=
  match tlbHit s c d.ctxid va with
  | some e => .ok e
  | none => dieWalk s (dieOf (physOf s c)) d.ctxid d.root va

/-- An entry put first in a list of at most n; the oldest goes when it is full (log 19 DESIGN CHOICE). -/
def putNewest {α : Type} [DecidableEq α] (n : Nat) (e : α) (l : List α) : List α := (e :: l.filter (fun x => x != e)).take n

/-- A TLB without the translations of a set beyond its first n. -/
def keepWays (set : Nat) : Nat → List TlbEntry → List TlbEntry
  | _, [] => []
  | n, e :: l =>
    if Config.tlbSet e.va % 256 = set then
      match n with
      | 0 => keepWays set 0 l
      | n + 1 => e :: keepWays set n l
    else e :: keepWays set n l

/-- A translation put first in the 8-way L2 TLB; the oldest of its set goes when that is full (R211; log 19 DESIGN CHOICE). -/
def putL2Tlb (e : TlbEntry) (l : List TlbEntry) : List TlbEntry :=
  let l1 := e :: l.filter (fun x => x != e)
  if l1.length ≤ 8 then l1 else keepWays (Config.tlbSet e.va % 256) 8 l1

/-- A miss of both TLBs filled by its walk: the translation in both, the intermediate entries at the die's walkers, the newest 64 of
them kept (R211; log 19 DESIGN CHOICE: how many a die holds, and which goes). -/
def fillTlbs (s : State) (c : Nat) (d : Descriptor) (va : Nat) (e : TlbEntry) : State :=
  let k := clusterOf (physOf s c)
  let die := dieOf (physOf s c)
  { s with tlbs := { s.tlbs with
      l1 := tabSet s.tlbs.l1 c (putNewest 64 e (tabGet [] s.tlbs.l1 c))
      l2 := tabSet s.tlbs.l2 k (putL2Tlb e (tabGet [] s.tlbs.l2 k))
      walks := tabSet s.tlbs.walks die
        ((walkLearns s die d.ctxid d.root va).foldr (fun x l => putNewest 64 x l) (heldWalks s die)) } }

/-- The TLBs after an access of a cell to an address: a hit of the L2 TLB fills the L1 TLB, a walk fills both (R211). -/
def useTlbs (s : State) (c : Nat) (d : Descriptor) (va : Nat) : State :=
  match tlbFind d.ctxid va (tabGet [] s.tlbs.l1 c) with
  | some _ => s
  | none =>
    match tlbHit s c d.ctxid va with
    | some e => { s with tlbs := { s.tlbs with l1 := tabSet s.tlbs.l1 c (putNewest 64 e (tabGet [] s.tlbs.l1 c)) } }
    | none =>
      match dieWalk s (dieOf (physOf s c)) d.ctxid d.root va with
      | .ok e => fillTlbs s c d va e
      | .error _ => s

/-- The physical address an entry gives. -/
def tlbPa (e : TlbEntry) (va : Nat) : Nat := e.pa + va % 2 ^ e.size

/-! ## Accesses and their checks (02 R35 step 5, R40, R41; 10 R216, R218) -/

/-- What an access needs, and how its faults are reported (18 R345). -/
structure Access where
  kind : Nat
  opc : BitVec 12
  r : Bool
  w : Bool
  x : Bool
  load : Bool
deriving DecidableEq, Repr

/-- Where a byte of an access lies. -/
inductive Loc where
  | mem (pa : Nat)
  | pad (off : Nat)
deriving DecidableEq, Repr

/-- Why a byte may not be accessed. -/
inductive Bad where
  | addr
  | xlate (level : Nat)
  | prot
deriving DecidableEq, Repr

/-- A trap to take. -/
structure TrapInfo where
  cause : Nat
  va : Word
  info : Word
deriving DecidableEq, Repr

/-- A trap of the running instruction taken. -/
def takeInfo (s : State) (t : TrapInfo) : State := trapHere s t.cause t.va t.info

/-- The scratchpad's size in bytes (10 R213). -/
def padSize (x : CtxCell) : Nat := bitsOf x.scarve 3 0 * 131072

/-- The offset of exchange bank 0 (10 R213, R218). -/
def bankBase (x : CtxCell) : Nat := bitsOf x.scarve 15 8 * 4096

/-- The length of each exchange bank (10 R213). -/
def bankLen (x : CtxCell) : Nat := bitsOf x.scarve 23 16 * 512

/-- Whether a byte offset lies in either exchange bank. -/
def inBanks (x : CtxCell) (o : Nat) : Bool := bankBase x ≤ o && o < bankBase x + 2 * bankLen x

/-- Whether a tile overlaps the exchange banks. -/
def tileInBanks (x : CtxCell) (t : Nat) : Bool :=
  bankLen x != 0 && bankBase x < (t + 1) * 4096 && t * 4096 < bankBase x + 2 * bankLen x

/-- The owner of a tile: an engine, or none for the cell (10 R216). -/
def tileOwner (x : CtxCell) (t : Nat) : Option Engine := tabFind x.tiles t

/-- The copy channel an engine is. -/
def engineChan : Engine → Option (Fin 2)
  | .cch0 => some 0
  | .cch1 => some 1
  | .mxu => none

/-- Whether a byte of an engine-owned tile has landed in the owning channel's current transfer (10 R216; 14 R285). -/
def byteLanded (x : CtxCell) (e : Engine) (o : Nat) : Bool :=
  match engineChan e with
  | none => false
  | some ch =>
    match x.cch[ch].queue with
    | [] => false
    | t :: _ => t.o ≤ o && o < t.o + t.rows * t.rb && t.base + (o - t.o) < x.cch[ch].wp

/-- The offset in the scratchpad that a local access reaches, topcoat offsets turned to their bank; none raises
ADDR (R41; 10 R216, R218). -/
def padLocate (x : CtxCell) (load : Bool) (o : Nat) : Option Nat :=
  if padSize x ≤ o then none
  else if inBanks x o then
    if o < bankBase x + bankLen x then some (if x.topcoat then o + bankLen x else o) else none
  else
    match tileOwner x (o / 4096) with
    | none => some o
    | some e => if load && byteLanded x e o then some o else none

/-- Where a byte lies for a slot of a cell, or why it may not be accessed: ADDR, then XLATE, then PROT (R35). -/
def locate (s : State) (acc : Access) (a : Word) : Except Bad Loc :=
  let x := ccOf s
  if bitsOf a 63 55 = 0 then
    match translate s s.curCell x.desc a.toNat with
    | .error l => .error (.xlate l)
    | .ok e =>
      if (acc.r && !e.r) || (acc.w && !e.w) || (acc.x && !e.x) then .error .prot
      else .ok (.mem (tlbPa e a.toNat))
  else if bitsOf a 63 48 = 0xFE00 then
    match padLocate x acc.load (bitsOf a 47 0) with
    | some o => .ok (.pad o)
    | none => .error .addr
  else .error .addr

/-- The cause code of a failed check (18 R344). -/
def badCause : Bad → Nat
  | .addr => 6
  | .xlate _ => 4
  | .prot => 5

/-- WLVL of a failed check (18 R345). -/
def badLevel : Bad → Nat
  | .xlate l => l
  | _ => 0

/-- tinfo on XLATE, PROT, ADDR, IFETCH and UE (18 R345). -/
def infoAccess (level : Nat) (page2 : Bool) (kind : Nat) (opc : BitVec 12) : Word :=
  BitVec.ofNat 64 (level * 2 ^ 22 + page2.toNat * 2 ^ 21 + kind * 2 ^ 12 + opc.toNat)

/-- Whether an address lies on a later 64 KiB page than the access's first byte (log 29 DEDUCED). -/
def laterPage (first a : Word) : Bool := first.toNat / 2 ^ 16 < a.toNat / 2 ^ 16

/-- The trap of a failed check at `a` in an access that starts at `first`. -/
def badTrap (acc : Access) (first a : Word) (b : Bad) : TrapInfo :=
  ⟨badCause b, a, infoAccess (badLevel b) (laterPage first a) acc.kind acc.opc⟩

/-- The lowest failing address among checked bytes. -/
def lowestBad : List (Word × Except Bad Loc) → Option (Word × Bad)
  | [] => none
  | (a, r) :: l =>
    match r, lowestBad l with
    | .ok _, y => y
    | .error b, none => some (a, b)
    | .error b, some (a', b') => if a'.toNat < a.toNat then some (a', b') else some (a, b)

/-- The places of bytes that have passed their checks. -/
def locsOf : List (Word × Except Bad Loc) → List Loc
  | [] => []
  | (_, .ok l) :: t => l :: locsOf t
  | (_, .error _) :: t => locsOf t

/-- The addresses of n bytes from `a` on, modulo 2^64 (03 R53). -/
def addrsFrom (a : Word) (n : Nat) : List Word := (List.range n).map (fun i => a + BitVec.ofNat 64 i)

/-- Step 5 of R35 over the bytes of an access: the trap of the lowest failing byte, or where each byte lies. -/
def checkBytes (s : State) (acc : Access) (first : Word) (as : List Word) : Except TrapInfo (List Loc) :=
  let rs := as.map (fun a => (a, locate s acc a))
  match lowestBad rs with
  | some (a, b) => .error (badTrap acc first a b)
  | none => .ok (locsOf rs)

/-- Whether the copies of a line on a die hold the data of a sector that memory has lost (20 R384; 22 R402). -/
def heldGood (s : State) (d sector : Nat) : Bool :=
  match tabFind s.coh.dirs (d * 2 ^ 40 + sector / 4) with
  | some e => e.good.getLsbD (sector % 4)
  | none => false

/-- Whether a read of a sector on a die returns poisoned data: memory has lost it and no copy there holds it (20 R384). -/
def readsBad (s : State) (d sector : Nat) : Bool := sectorBad s sector && !heldGood s d sector

/-- Whether a walk for an address of a context on a cell reads a poisoned entry (23 R414; log 59 DESIGN CHOICE). -/
def walkPoisoned (s : State) (c : Nat) (x : Descriptor) (va : Nat) : Bool :=
  let d := dieOf (physOf s c)
  match tlbHit s c x.ctxid va with
  | some _ => false
  | none => (walkPlaces s d x.ctxid x.root va).any (fun a => readsBad s d (a / 32))

/-- The first of some addresses whose walk reads a poisoned entry. -/
def poisonedWalk (s : State) (c : Nat) (x : Descriptor) (as : List Word) : Option Word :=
  as.find? (fun a => bitsOf a 63 55 = 0 && walkPoisoned s c x a.toNat)

/-- The poisoned sectors that a read meets: the lowest address of a byte in one, by the addresses used. -/
def lowestPoison (s : State) : List Word → List Loc → Option Word
  | a :: as, l :: ls =>
    let here : Bool := match l with
      | .mem pa => readsBad s (dieOf (physOf s s.curCell)) (pa / 32)
      | .pad o => (ccOf s).padPoison.contains (o / 32)
    match here, lowestPoison s as ls with
    | false, y => y
    | true, none => some a
    | true, some a' => if a'.toNat < a.toNat then some a' else some a
  | _, _ => none

/-- UE of an access at an address (18 R344, R345). -/
def ueTrap (acc : Access) (first a : Word) : TrapInfo :=
  let sec := keepBits a 63 5
  ⟨0x0D, sec, infoAccess 0 (laterPage first sec) acc.kind acc.opc⟩

/-- UE: the trap of a read that returns poisoned data (18 R344), if it does. -/
def poisonTrap (s : State) (acc : Access) (first : Word) (as : List Word) (ls : List Loc) : Option TrapInfo :=
  (lowestPoison s as ls).map (ueTrap acc first)

/-! ## Lines, homes and bytes of an access -/

/-- The lines of memory that bytes lie in. -/
def linesOf (ls : List Loc) : List Nat :=
  (ls.filterMap (fun l => match l with
    | .mem pa => some (pa / 128)
    | .pad _ => none)).eraseDups

/-- The stack of a line, if it lies in one (10 R206). -/
def stackOfLine (line : Nat) : Option (Fin 12) :=
  if h : line / 2 ^ 29 < 12 then some ⟨line / 2 ^ 29, h⟩ else none

/-- The owner table of a die. -/
def tableOf (s : State) (d : Nat) : DieTable := s.dies.tables[Fin.ofNat 4 d]

/-- The die whose controller a die's routing stage takes for the home of a line (10 R207; 20 R367). -/
def homeDie (s : State) (d line : Nat) : Nat :=
  match stackOfLine line with
  | some k => (tableOf s d).owner[k].val
  | none => line / 32 % 4

/-- Whether a new request of a die for a line is held at its routing stage: its stack frozen there (20 R367), or its home
fenced (20 R382, R385). -/
def lineHeld (s : State) (d line : Nat) : Bool :=
  (match stackOfLine line with
    | some k => (tableOf s d).freeze.getLsbD k.val
    | none => false) || (tableOf s d).fenced.getLsbD (homeDie s d line)

/-- The die whose controller is the home of a line: that of the active port of its stack (10 R207; 20 R368). -/
def trueHome (s : State) (line : Nat) : Nat :=
  match stackOfLine line with
  | some k => s.dies.active[k].val
  | none => line / 32 % 4

/-- Whether a physical address lies in a pool of a place space (16 R307). -/
def inPool (sp : Space) (pa : Nat) : Bool := sp.pools.any (fun r => r.2.1 ≤ pa && pa < r.2.1 + r.2.2)

/-- Whether a physical address lies where a saved image was spilled (18 R361). -/
def inImage (x : Image) (pa : Nat) : Bool :=
  x.spilled && x.cc.desc.spill + 2 ^ 21 * x.phys ≤ pa && pa < x.cc.desc.spill + 2 ^ 21 * (x.phys + 1)

/-- The byte that software reads: unspecified in a place pool and in a spilled image (16 R307; 18 R361; log 20 DESIGN CHOICE). -/
def softByte (s : State) (pa : Nat) : Byte :=
  if s.place.spaces.any (fun sp => inPool sp pa) || s.images.any (fun x => inImage x pa) then
    Config.freeByte (s.turnNo * 2 ^ 46 + pa)
  else physByte s pa

/-- The byte that a stream which bypasses the caches reads (11 R243). -/
def streamByte (s : State) (pa : Nat) : Byte := softByte { s with dirty := [] } pa

/-- A byte of an access. -/
def readLoc (s : State) : Loc → Byte
  | .mem pa => softByte s pa
  | .pad o => memGet (ccOf s).spad o

/-- A byte of an access written. -/
def writeLoc (s : State) (l : Loc) (b : Byte) : State :=
  match l with
  | .mem pa => physSet s pa b
  | .pad o => putCcOf s { ccOf s with spad := memSet (ccOf s).spad o b }

/-- Bytes of an access written in order. -/
def writeLocs (s : State) : List Loc → List Byte → State
  | l :: ls, b :: bs => writeLocs (writeLoc s l b) ls bs
  | _, _ => s

/-- The lines of which these bytes are all 128 (20 R384). -/
def fullLines (ls : List Loc) : List Nat :=
  (linesOf ls).filter (fun line => (List.range 128).all (fun i => ls.contains (.mem (line * 128 + i))))

/-- The scratchpad sectors of which these bytes are all 32. -/
def fullPadSectors (ls : List Loc) : List Nat :=
  ((ls.filterMap (fun l => match l with
    | .pad o => some (o / 32)
    | .mem _ => none)).eraseDups).filter (fun k => (List.range 32).all (fun i => ls.contains (.pad (k * 32 + i))))

/-- Poison that a store of these bytes replaces (20 R384; 23 R414; log 27 DEDUCED). -/
def healLocs (s : State) (ls : List Loc) : State :=
  let s1 := { s with poison := s.poison.filter (fun x => !(fullLines ls).contains (x / 4)) }
  if (ccOf s1).padPoison.isEmpty then s1
  else putCcOf s1 { ccOf s1 with
    padPoison := (ccOf s1).padPoison.filter (fun x => !(fullPadSectors ls).contains x) }

/-- Whether any of these bytes lies in a pool of a space. -/
def hitsPool (sp : Space) (ls : List Loc) : Bool :=
  ls.any (fun l => match l with
    | .mem pa => inPool sp pa
    | .pad _ => false)

/-- What a store into a pool does to the records of its space: they are left open (16 R307; log 20 DESIGN CHOICE). -/
def damageSpace (turn : Nat) (sp : Space) : Space :=
  { sp with insts := tabMap (fun k x => { x with
      words := Vector.ofFn (fun i => Config.freeWord (2 ^ 64 * (turn + 1) + 16 * k + i.val)) }) sp.insts }

/-- The place store after a store of software to these bytes (16 R307). -/
def damagePools (s : State) (ls : List Loc) : State :=
  if s.place.spaces.any (fun sp => hitsPool sp ls) then
    { s with place := { s.place with
        spaces := s.place.spaces.map (fun sp => if hitsPool sp ls then damageSpace s.turnNo sp else sp) } }
  else s

/-- The bytes a load returns. -/
def loadedBytes (s : State) (ls : List Loc) : List Byte := ls.map (readLoc s)

/-- The access of a scalar or vector load (18 R345). -/
def loadAccess (opc : BitVec 12) : Access := ⟨1, opc, true, false, false, true⟩

/-- The access of a scalar or vector store. -/
def storeAccess (opc : BitVec 12) : Access := ⟨2, opc, false, true, false, false⟩

/-- The effective address of a memory operand (03 R53). -/
def effAddr (s : State) (m : MemOp) : Word := readG s m.a + readG s m.b + m.disp.signExtend 64

/-- The bytes of a size code (03 R52). -/
def sizeBytes : Size → Nat
  | .b1 => 1
  | .b2 => 2
  | .b4 => 4
  | .b8 => 8

end Sys2Proof.Machine
end

