-- ==== Sys2Proof/Machine/Coherence.lean ====
section
/-! DEFINITION. Who holds which line in which state: the L1s, the victim shares, the slices' tags and directories, the homes'
directories, and what grants, probes, puts and evictions do to them (10 R212-R228; 12 R262). Lines are physical addresses
divided by 128. -/

namespace Sys2Proof.Machine

/-- The coherence state put. -/
def putCoh (s : State) (c : Coh) : State := { s with coh := c }

/-! ## Copies and entries -/

/-- The key of a line under a cell or a die. -/
def lineKey (n line : Nat) : Nat := n * 2 ^ 40 + line

/-- The copy that the L1 of a cell, by physical identifier, holds. -/
def l1Get (c : Coh) (p line : Nat) : LineCopy := tabGet LineCopy.none c.l1 (lineKey p line)

/-- The L1 copy of a cell changed; a copy in I is not listed. -/
def l1Set (c : Coh) (p line : Nat) (x : LineCopy) : Coh :=
  { c with l1 := if x.st = .i then tabErase c.l1 (lineKey p line) else tabSet c.l1 (lineKey p line) x }

/-- The line that the victim share of a cell holds (R215). -/
def vicGet (c : Coh) (p line : Nat) : LineCopy := tabGet LineCopy.none c.vic (lineKey p line)

/-- A line of a victim share changed. -/
def vicSet (c : Coh) (p line : Nat) (x : LineCopy) : Coh :=
  { c with vic := if x.st = .i then tabErase c.vic (lineKey p line) else tabSet c.vic (lineKey p line) x }

/-- A tag that has been granted nothing (R223). -/
def DirEntry.none : DirEntry := ⟨0, .i, false, 0, [], 0, .i, 0, 0⟩

/-- An entry of a home that has granted nothing (R227). -/
def HomeEntry.none : HomeEntry := ⟨0, .i, 0, 0⟩

/-- The tag and directory entry of a line at a die. -/
def dirGet (c : Coh) (d line : Nat) : DirEntry := tabGet DirEntry.none c.dirs (lineKey d line)

/-- The tag and directory entry of a line at a die, changed. -/
def dirSet (c : Coh) (d line : Nat) (e : DirEntry) : Coh :=
  { c with dirs := tabSet c.dirs (lineKey d line) e }

/-- The home entry of a line. -/
def homeGet (c : Coh) (line : Nat) : HomeEntry := tabGet HomeEntry.none c.homes line

/-- The home entry of a line, changed. -/
def homeSet (c : Coh) (line : Nat) (e : HomeEntry) : Coh := { c with homes := tabSet c.homes line e }

/-- STATE of a stable entry (R223). -/
def moesiCode : Moesi → Nat
  | .i => 0
  | .s => 1
  | .e => 2
  | .o => 3
  | .m => 4

/-! ## Agents and pools (R214, R223) -/

/-- The engines of a die as one requester of its slices. -/
def engineOf (d : Nat) : Nat := 2048 + d

/-- Whether a requester is a cell, which keeps what it is granted. -/
def isCell (a : Nat) : Bool := a < 1024

/-- The group agent of a cell's cluster. -/
def agentOf (p : Nat) : Nat := 1024 + clusterOf p

/-- The pointer by which a die's directory names a cell or a group agent: G in bit 8 (R223). -/
def pointerOf (a : Nat) : Nat := if isCell a then a % 256 else 256 + (a - 1024) % 32

/-- The cell or group agent that a pointer of a die's directory names (R223). -/
def agentAt (d q : Nat) : Nat := if q < 256 then d * 256 + q else 1024 + d * 32 + (q - 256)

/-- POOL of a cell, by physical identifier (R214). -/
def poolNo (s : State) (p : Nat) : Nat := bitsOf (ccAt s (logicalOf s p)).svgroup 1 0

/-- The present members of the group that POOL = k makes of a cell's cluster (R214). -/
def poolGroup (s : State) (p k : Nat) : List Nat :=
  ((List.range 8).map (fun i => p / 8 * 8 + i)).filter (fun q => cellPresent s q && q % 8 / 2 ^ k = p % 8 / 2 ^ k)

/-- Whether the victim share of a cell is pooled: every present member of its group holds the same POOL (R214). -/
def isPooled (s : State) (p : Nat) : Bool :=
  let k := poolNo s p
  k != 0 && (poolGroup s p k).all (fun q => poolNo s q = k)

/-- The cells whose victim shares a cell uses: its pool's, or its own (R214, R215). -/
def poolOf (s : State) (p : Nat) : List Nat := if isPooled s p then poolGroup s p (poolNo s p) else [p]

/-- Whether a cluster, numbered over the package, has a pool (R224). -/
def clusterPooled (s : State) (k : Nat) : Bool :=
  (List.range 8).any (fun i => cellPresent s (8 * k + i) && isPooled s (8 * k + i))

/-- The lines that the victim share of a cell holds at most: 1 MiB less the scratchpad (R213). -/
def shareLines (s : State) (p : Nat) : Nat := (1048576 - padSize (ccAt s (logicalOf s p))) / 128

/-! ## Sharers (R224) -/

/-- The cluster of a pointer, within its die. -/
def pointerCluster (q : Nat) : Nat := if q < 256 then q / 8 else q - 256

/-- A sharer added; a fifth turns the entry to a coarse vector (R224). -/
def addSharer (e : DirEntry) (q : Nat) : DirEntry :=
  let bit (q : Nat) : BitVec 32 := 1#32 <<< pointerCluster q
  if e.cv then { e with vec := e.vec ||| bit q }
  else if q ∈ e.ptrs then e
  else if e.ptrs.length < 4 then { e with ptrs := e.ptrs ++ [q] }
  else { e with cv := true, ptrs := [], vec := e.ptrs.foldl (fun v x => v ||| bit x) (bit q) }

/-- Whether an entry names an owner. -/
def hasOwner (st : Moesi) : Bool :=
  match st with
  | .e | .o | .m => true
  | .i | .s => false

/-- The pointers an invalidation goes to (R224): those in use, or every present cell of each flagged cluster and its group
agent if it has a pool; and the owner. -/
def holders (s : State) (d : Nat) (e : DirEntry) : List Nat :=
  (if e.cv then
    (List.range 256).filter (fun q => e.vec.getLsbD (q / 8) && cellPresent s (d * 256 + q)) ++
      ((List.range 32).filter (fun c => e.vec.getLsbD c && clusterPooled s (d * 32 + c))).map (fun c => 256 + c)
  else e.ptrs) ++ (if hasOwner e.st then [e.owner] else [])

/-! ## Probes at cells and group agents (R215, R225) -/

/-- A copy made weaker; its stamp stays that of its grant (R225). -/
def LineCopy.down (x : LineCopy) (st : Moesi) : LineCopy :=
  match st with
  | .i => LineCopy.none
  | _ => { x with st := st }

/-- The state in which a probe for a read leaves a copy (R226). -/
def shareState : Moesi → Moesi
  | .e => .s
  | .m => .o
  | x => x

/-- The state in which a probe for a request leaves a copy, by the state that the copy then has (R226). -/
def leaveState (st : Moesi) : CohKind → Moesi
  | .gets => shareState st
  | .getm | .put | .evict | .atom _ | .stream => .i

/-- A copy after a probe for a request. -/
def LineCopy.probed (x : LineCopy) (k : CohKind) : LineCopy := x.down (leaveState x.st k)

/-- The copies of a cell, in its L1 and its private share, after a probe (R215). -/
def cellDown (c : Coh) (p line : Nat) (k : CohKind) : Coh :=
  let c1 := if (l1Get c p line).st = .i then c else l1Set c p line ((l1Get c p line).probed k)
  if (vicGet c1 p line).st = .i then c1 else vicSet c1 p line ((vicGet c1 p line).probed k)

/-- The lines that the shares of a cluster hold after a probe at its group agent (R215). -/
def groupDown (c : Coh) (n line : Nat) (k : CohKind) : Coh :=
  (List.range 8).foldl (fun c i =>
    if (vicGet c (8 * n + i) line).st = .i then c
    else vicSet c (8 * n + i) line ((vicGet c (8 * n + i) line).probed k)) c

/-- What a probe does at a cell or a group agent. -/
def agentDown (c : Coh) (a line : Nat) (k : CohKind) : Coh :=
  if isCell a then cellDown c a line k else groupDown c (a - 1024) line k

/-- The copies of a line in the L1s and victim shares of a die dropped, but for one cell's (R226). -/
def dropCopies (c : Coh) (d line keep : Nat) : Coh :=
  let stays (e : Nat × LineCopy) : Bool :=
    !(e.1 % 2 ^ 40 = line && e.1 / 2 ^ 40 / 256 = d && e.1 / 2 ^ 40 != keep)
  { c with l1 := c.l1.filter stays, vic := c.vic.filter stays }

/-! ## Probes at dies (R228) -/

/-- A line out of a die's slice, every on-die copy with it (R220, R228). SEQ of its tag is kept and raised, where that of an entry
that a home frees starts again at 0 (R225; log 71 DESIGN CHOICE). -/
def dieInvalidate (c : Coh) (d line : Nat) : Coh :=
  let e := dirGet c d line
  if e.lvl = .i then c else dirSet (dropCopies c d line 1024) d line { DirEntry.none with seq := e.seq + 1 }

/-- A die left with no more than a share of a line, its cells with no more than S or O (R228). -/
def dieShare (c : Coh) (d line : Nat) : Coh :=
  let e := dirGet c d line
  let p := d * 256 + e.owner
  match e.lvl with
  | .i | .s => c
  | l =>
    match e.st with
    | .e => dirSet (cellDown c p line .gets) d line
        (addSharer { e with seq := e.seq + 1, st := .s, lvl := shareState l } e.owner)
    | .m => dirSet (cellDown c p line .gets) d line { e with seq := e.seq + 1, st := .o, lvl := shareState l }
    | _ => dirSet c d line { e with lvl := shareState l }

/-- What a probe of a home leaves on a die (R228). -/
def probeDie (c : Coh) (d line : Nat) (k : CohKind) : Coh :=
  if k = .gets then dieShare c d line else dieInvalidate c d line

/-! ## The home's side (R226 with dies in place of cells, R227) -/

/-- The dies that a home probes for a request of a die. -/
def homeTargets (h : HomeEntry) (d : Nat) : CohKind → List Nat
  | .gets => if hasOwner h.st && h.owner.toNat != d then [h.owner.toNat] else []
  | .getm => (List.range 4).filter (fun x => h.present.getLsbD x && x != d)
  | .evict | .atom _ => (List.range 4).filter (fun x => h.present.getLsbD x)
  | .put | .stream => []

/-- What a home grants a die for a read, and its entry then, its SEQ the grant's stamp (R225, R227). -/
def homeRead (h : HomeEntry) (d : Nat) : Moesi × HomeEntry :=
  let me : BitVec 4 := 1#4 <<< d
  match h.st with
  | .i => (.e, ⟨h.seq + 1, .e, me, BitVec.ofNat 2 d⟩)
  | .s => (.s, { h with seq := h.seq + 1, present := h.present ||| me })
  | .e =>
    if h.owner.toNat = d then (.e, { h with seq := h.seq + 1 })
    else (.s, { h with seq := h.seq + 1, st := .s, present := h.present ||| me })
  | .o | .m =>
    if h.owner.toNat = d then (h.st, { h with seq := h.seq + 1 })
    else (.s, { h with seq := h.seq + 1, st := .o, present := h.present ||| me })

/-- The entry of a home that grants a die write ownership (R225, R227). -/
def homeWrite (h : HomeEntry) (d : Nat) : HomeEntry := ⟨h.seq + 1, .m, 1#4 <<< d, BitVec.ofNat 2 d⟩

/-- What a home grants for a request, and its entry then. -/
def homeAnswer (h : HomeEntry) (d : Nat) : CohKind → Moesi × HomeEntry
  | .gets => homeRead h d
  | .getm => (.m, homeWrite h d)
  | .put | .evict | .atom _ | .stream => (.i, h)

/-- The entry of a home after a put from a die (R226, R227). -/
def diePut (h : HomeEntry) (d : Nat) : HomeEntry :=
  let rest := h.present &&& ~~~(1#4 <<< d)
  if rest = 0 then { HomeEntry.none with seq := h.seq }
  else if hasOwner h.st && h.owner.toNat = d then ⟨h.seq, .s, rest, 0⟩
  else { h with present := rest }

/-- A home entry without a fenced die (20 R383). -/
def withoutDie (d : Nat) (h : HomeEntry) : HomeEntry :=
  let rest := h.present &&& ~~~(1#4 <<< d)
  if rest = 0 then { HomeEntry.none with seq := h.seq }
  else if h.owner.toNat = d && hasOwner h.st then ⟨h.seq, .s, rest, 0⟩
  else { h with present := rest }

/-- A grant of a home taken by the slice of a die, which keeps its stamp, and the sectors that only copies hold (R225, R228; 20 R384). -/
def takeLevel (c : Coh) (d line : Nat) (st : Moesi) (stamp : Byte) (good : BitVec 4) : Coh :=
  let e := dirGet c d line
  dirSet c d line { e with lvl := st, hstamp := stamp, good := e.good ||| good }

/-! ## The slice's side (R226) -/

/-- Whether the state that a die has been granted is strong enough for a request (R226, R228). -/
def levelServes (k : CohKind) (lvl : Moesi) : Bool :=
  match k, lvl with
  | .gets, .i => false
  | .gets, _ => true
  | .getm, .e => true
  | .getm, .m => true
  | .getm, _ => false
  | .put, _ | .evict, _ | .atom _, _ | .stream, _ => true

/-- The pointers that a request of a cell or engine makes its slice probe (R224, R226). -/
def sliceTargets (s : State) (d : Nat) (e : DirEntry) (from_ : Nat) : CohKind → List Nat
  | .gets => if hasOwner e.st && e.owner != pointerOf from_ then [e.owner] else []
  | .getm => ((holders s d e).filter (fun q => !(isCell from_ && q = pointerOf from_))).eraseDups
  | .put | .evict | .atom _ | .stream => []

/-- The entry after a read granted to a cell by its pointer, and the state granted, its SEQ the grant's stamp (R225, R226). -/
def grantRead (e : DirEntry) (q : Nat) : Moesi × DirEntry :=
  let e1 := { e with seq := e.seq + 1 }
  match e.st with
  | .i =>
    match e.lvl with
    | .e | .m => (.e, { e1 with st := .e, cv := false, owner := q, ptrs := [] })
    | _ => (.s, addSharer { e1 with st := .s, cv := false, ptrs := [] } q)
  | .s => (.s, addSharer e1 q)
  | .e => if e.owner = q then (.e, e1) else (.s, addSharer (addSharer { e1 with st := .s, ptrs := [] } e.owner) q)
  | .o | .m => (.s, addSharer { e1 with st := .o } q)

/-- The entry after write ownership granted to a cell (R225, R226). -/
def grantWrite (e : DirEntry) (q : Nat) : DirEntry :=
  { e with seq := e.seq + 1, st := .m, cv := false, owner := q, ptrs := [], vec := 0, lvl := .m }

/-- The entry after a read of an engine of the die, which keeps no copy: its owner has been probed (R226). -/
def engineRead (e : DirEntry) : DirEntry :=
  match e.st with
  | .e => addSharer { e with st := .s, ptrs := [] } e.owner
  | .m => { e with st := .o }
  | _ => e

/-- The entry after a write of an engine of the die, which keeps no copy. -/
def engineWrite (e : DirEntry) : DirEntry :=
  { e with st := .i, cv := false, owner := 0, ptrs := [], vec := 0, lvl := .m }

/-- The home entry and the die's state once the die writes a line it was granted in E (log 35 DEDUCED). -/
def upgradeDie (c : Coh) (d line : Nat) : Coh :=
  let e := dirGet c d line
  if e.lvl = .e then
    homeSet (dirSet c d line { e with lvl := .m }) line { homeGet c line with st := .m }
  else c

/-- The store that turns a cell's copy in E to M, with no grant and no probe (R212; log 35 DEDUCED). -/
def upgradeCopy (c : Coh) (p line : Nat) : Coh :=
  let d := dieOf p
  let c1 := upgradeDie c d line
  let c2 := dirSet c1 d line { dirGet c1 d line with st := .m }
  l1Set c2 p line { l1Get c2 p line with st := .m }

/-- Whether a copy serves an access without a request. -/
def copyServes (write : Bool) (st : Moesi) : Bool :=
  match st with
  | .m | .e => true
  | .s | .o => !write
  | .i => false

/-- The entry of a slice after a put from its owner (R226). -/
def ownerPut (e : DirEntry) : DirEntry :=
  if e.cv || !e.ptrs.isEmpty then { e with st := .s, owner := 0 } else { e with st := .i, cv := false, owner := 0, vec := 0 }

/-! ## Where a line is dirty -/

/-- Whether a state is dirty. -/
def isDirty (st : Moesi) : Bool :=
  match st with
  | .o | .m => true
  | .i | .s | .e => false

/-- The die that holds a line dirty, if one does. -/
def dirtyDie (c : Coh) (line : Nat) : Option Nat := (List.range 4).find? (fun d => isDirty (dirGet c d line).lvl)

/-- The dirty data of a line written to memory by the die that holds it; data that memory has lost replaces its poison (R226;
20 R384, R385). -/
def backFrom (s : State) (d line : Nat) : State :=
  writeBack (healSectors s line (dirGet s.coh d line).good) line

/-- The sectors of a line that memory holds now and is about to lose. -/
def losing (s : State) (p : Nat → Bool) (line : Nat) : BitVec 4 :=
  (List.range 4).foldl (fun m i => if p (4 * line + i) && !sectorBad s (4 * line + i) then m ||| (1#4 <<< i) else m) 0

/-- The sectors of a test, which memory is about to lose, noted as held by the dies whose copies have them (20 R384; 22 R402). -/
def keepGood (s : State) (p : Nat → Bool) : State :=
  putCoh s { s.coh with dirs := tabMap (fun k e =>
    if e.lvl = .i then e else { e with good := e.good ||| losing s p (k % 2 ^ 40) }) s.coh.dirs }

/-- The platform changed; sectors of the second tier that are out of reach from now on are noted as held by the dies whose copies have them
(22 R402). -/
def putReach (s : State) (p : Platform) : State := { keepGood s (sectorBad { s with plat := p }) with plat := p }

/-- A dirty state after its data has been written to memory (12 R262). -/
def cleanState : Moesi → Moesi
  | .m => .e
  | .o => .s
  | x => x

/-- The copy of a cell after its data has been written to memory. -/
def cleanCopy (c : Coh) (p line : Nat) : Coh :=
  let x := l1Get c p line
  if x.st = .i then c else l1Set c p line { x with st := cleanState x.st, dirty := 0 }

/-- The entry of a slice once its owner's data has been written to memory. -/
def cleanEntry (e : DirEntry) : DirEntry :=
  let e1 := { e with st := cleanState e.st, lvl := cleanState e.lvl }
  if e.st = .o then addSharer e1 e.owner else e1

/-- The states of a line after its dirty data has been written to memory, copies kept (12 R262). -/
def cohClean (c : Coh) (line : Nat) : Coh :=
  match dirtyDie c line with
  | none => c
  | some d =>
    let e := dirGet c d line
    let c1 := if isDirty e.st then cleanCopy c (d * 256 + e.owner) line else c
    let h := homeGet c line
    homeSet (dirSet c1 d line (cleanEntry e)) line (if h.owner.toNat = d then { h with st := cleanState h.st } else h)

/-! ## Locks and pins (R221, R222) -/

/-- Whether a transaction or probe is at a site for a line. -/
def atSite (a : Site) (line : Nat) (b : Site) (line' : Nat) : Bool := a = b && line = line'

/-- Whether a line is locked at a site (R221). -/
def siteLocked (s : State) (a : Site) (line : Nat) : Bool :=
  s.coh.txns.any (fun t => atSite a line t.req.site t.req.line)

/-- Whether a line is locked at the slice of a die (R221). -/
def lineLocked (s : State) (d line : Nat) : Bool := siteLocked s (.slice (Fin.ofNat 4 d)) line

/-- STATE of an entry as its tag holds it: a transient code while the line is locked (R223; log 58 DESIGN CHOICE). -/
def dirState (s : State) (d line : Nat) : Nat :=
  if lineLocked s d line then 8 + Config.transientState (moesiCode (dirGet s.coh d line).st) % 8
  else moesiCode (dirGet s.coh d line).st

/-- A directory entry as the 64 bits of its tag (R223). -/
def dirWord (s : State) (d line : Nat) : Nat :=
  let e := dirGet s.coh d line
  let n := if e.cv then 0 else e.ptrs.length
  let low := if e.cv then e.vec.toNat else (List.range 4).foldl (fun x i => x + e.ptrs.getD i 0 * 2 ^ (9 * i)) 0
  e.seq.toNat * 2 ^ 56 + dirState s d line * 2 ^ 52 + e.cv.toNat * 2 ^ 51 + n * 2 ^ 48 +
    (if hasOwner e.st then e.owner * 2 ^ 39 else 0) + low

/-- Whether a die pins a line (R222). -/
def isPinned (c : Coh) (d line : Nat) : Bool := c.pins.any (fun x => x.die = d && x.line = line)

/-- Whether a die's slice has probes of its own out for a line, so that a probe of the home waits (R221). -/
def sliceProbing (c : Coh) (d line : Nat) : Bool :=
  c.txns.any (fun t => t.req.site = .slice (Fin.ofNat 4 d) && t.req.line = line && t.left != 0)

/-- Whether a probe of the home would wait at a die: for a pin, or for a transaction of its slice (R221, R222). -/
def probeWaits (c : Coh) (line d : Nat) : Bool := isPinned c d line || sliceProbing c d line

/-- The count of a granule table for one 4 KiB granule: its lines granted in E, O or M (20 R369). -/
def granuleCount (c : Coh) (granule : Nat) : Nat := c.homes.countP (fun e => e.1 / 32 = granule && hasOwner e.2.st)

/-- An element picked by the replacement order, which is not architectural (R212; log 19 DESIGN CHOICE). -/
def pick (s : State) (l : List Nat) : Option Nat := l[Config.victim s.turnNo % l.length]?

/-! ## Slices and their ways (R16, R220, R222) -/

/-- The L2 slices present on a die (01 R12, R22). -/
def presentSlices (s : State) (d : Nat) : List Nat :=
  (List.range 64).filter (fun k => (s.plat.sliceBits[Fin.ofNat 4 d]).getLsbD k)

/-- The slice of a die that serves a line: the hash over the slices present (01 R16, R22; log 17 DESIGN CHOICE). -/
def sliceOf (s : State) (d line : Nat) : Nat :=
  let l := presentSlices s d
  l.getD (Config.lineHash line / 1024 % l.length) 0

/-- The set of its slice, as slice and set together, that holds a line at a die (R220; log 17 DESIGN CHOICE). -/
def l2Set (s : State) (d line : Nat) : Nat := 1024 * sliceOf s d line + Config.lineHash line % 1024

/-- The lines that the tags of a die hold. -/
def l2Lines (c : Coh) (d : Nat) : List Nat :=
  (c.dirs.filter (fun e => e.1 / 2 ^ 40 = d && e.2.lvl != .i)).map (fun e => e.1 % 2 ^ 40)

/-- The lines that the slices of a die are fetching, each with a way kept for it. -/
def l2Coming (c : Coh) (d : Nat) : List Nat :=
  (c.txns.filter (fun t => t.req.site = .slice (Fin.ofNat 4 d) && (dirGet c d t.req.line).lvl = .i)).map (fun t => t.req.line)

/-- The bytes of a context image (18 R360). -/
def imageBytes (x : CtxCell) : Nat := 163136 + padSize x

/-- The lines of an image, by the address to which it would be spilled, which the slice hash takes too while it lies in way 15 (18
R361; log 72 DESIGN CHOICE). -/
def imageLines (x : Image) : List Nat :=
  (List.range ((imageBytes x.cc + 127) / 128)).map (fun i => (x.cc.desc.spill + 2 ^ 21 * x.phys) / 128 + i)

/-- Whether way 15 of a set of a die holds saved state (R220; 18 R361). -/
def way15Taken (s : State) (d set : Nat) : Bool :=
  s.images.any (fun x => !x.spilled && dieOf x.phys = d && (imageLines x).any (fun l => l2Set s d l = set))

/-- The ways of a set that may hold lines (R220). -/
def l2Ways (s : State) (d set : Nat) : Nat := if way15Taken s d set then 15 else 16

/-- The lines that take ways of the set of a line. -/
def l2Rivals (s : State) (d line : Nat) : List Nat :=
  (l2Lines s.coh d ++ l2Coming s.coh d).filter (fun l => l != line && l2Set s d l = l2Set s d line)

end Sys2Proof.Machine
end

