-- ==== Sys2Proof/Machine/CohEvents.lean ====
section
/-! DEFINITION. Coherence requests and their steps: ways made free, requests at slices and homes, grants, probes, answers, puts
and the conflict queues; and a line got for an access (10 R212-R228; 20 R367, R368, R373, R381). -/

namespace Sys2Proof.Machine

/-! ## Victim shares (R214, R215) -/

/-- The lines that the victim share of a cell holds. -/
def shareHeld (c : Coh) (p : Nat) : List Nat := (c.vic.filter (fun e => e.1 / 2 ^ 40 = p)).map (fun e => e.1 % 2 ^ 40)

/-- The directory entry of a line that has moved from the L1 of a cell into its pool: the group agent's pointer in place of
the cell's, the agent holding S (R215). -/
def pooledEntry (e : DirEntry) (p : Nat) : DirEntry :=
  let q := pointerOf p
  let a := pointerOf (agentOf p)
  match e.st with
  | .e => if e.owner = q then { e with st := .s, owner := 0, ptrs := [a] } else e
  | _ => if e.cv then e else { e with ptrs := (e.ptrs.map (fun x => if x = q then a else x)).eraseDups }

/-- The cell of a cell's group whose share holds a line (R215). -/
def shareOf (s : State) (p line : Nat) : Option Nat := (poolOf s p).find? (fun q => (vicGet s.coh q line).st != .i)

/-- A clean line that the L1 of a cell evicts goes to the cell's victim share, which makes room; a share of no size takes none, and a
pool that holds the line already takes it no second time (R213, R215; log 19 DESIGN CHOICE). -/
def toShare (s : State) (p line : Nat) : State :=
  let x := l1Get s.coh p line
  let c := l1Set s.coh p line LineCopy.none
  let held := shareHeld c p
  if shareLines s p = 0 then putCoh s c
  else
    let d := dieOf p
    if (shareOf s p line).isSome then
      putCoh s (if isPooled s p then dirSet c d line (pooledEntry (dirGet c d line) p) else c)
    else
      let c1 := if held.length < shareLines s p then c
        else match pick s held with
          | some v => vicSet c p v LineCopy.none
          | none => c
      if isPooled s p then putCoh s (dirSet (vicSet c1 p line { x with st := .s }) d line (pooledEntry (dirGet c1 d line) p))
      else putCoh s (vicSet c1 p line x)

/-! ## Puts (R224-R226) -/

/-- Whether a probe of a site is on its way to a target. -/
def probeInFlight (s : State) (a : Site) (line target : Nat) : Bool :=
  s.coh.probes.any (fun m => atSite a line m.site m.line && m.target = target)

/-- The probe of a site for a target, taken away: a put that crosses it is its answer (R225). -/
def dropProbe (s : State) (a : Site) (line target : Nat) : State :=
  putCoh s { s.coh with
    probes := s.coh.probes.filter (fun m => !(atSite a line m.site m.line && m.target = target))
    answers := s.coh.answers ++ [⟨a, line, target, 0, .none⟩] }

/-- Whether two requests are for one conflict queue: the slice that serves both lines, or the home of both (R221). -/
def sameQueue (s : State) (r x : CohReq) : Bool :=
  match r.site, x.site with
  | .slice d, .slice e => d = e && sliceOf s d.val r.line = sliceOf s d.val x.line
  | .home, .home => trueHome s r.line = trueHome s x.line
  | _, _ => false

/-- A request that waits in the conflict queue of its site, or is refused when the 16 entries are taken (R221). -/
def queueReq (s : State) (r : CohReq) : State :=
  if s.coh.conflicts.length < 16 || s.coh.conflicts.countP (sameQueue s r) < 16 then
    putCoh s { s.coh with conflicts := s.coh.conflicts ++ [r] }
  else putCoh s { s.coh with retries := s.coh.retries ++ [⟨r, 16, 16⟩] }

/-- A put of a cell at its slice: dirty data goes to the slice, a clean copy to the victim share (R215, R224, R226). -/
def slicePut (s : State) (p line : Nat) : State :=
  let d := dieOf p
  let e := dirGet s.coh d line
  match (l1Get s.coh p line).st with
  | .m | .o =>
    let c := l1Set s.coh p line LineCopy.none
    putCoh s (if hasOwner e.st && e.owner = pointerOf p then dirSet c d line (ownerPut e) else c)
  | .e | .s => toShare s p line
  | .i => s

/-- A put served at its site, or queued while another transaction holds the line; one that crosses a probe answers it (R221,
R225). -/
def putServe (s : State) (r : CohReq) : State :=
  let crosses := probeInFlight s r.site r.line r.from_
  if siteLocked s r.site r.line && !crosses then queueReq s r
  else
    let s1 := match r.site with
      | .slice _ => slicePut s r.from_ r.line
      | .home => putCoh s (homeSet s.coh r.line (diePut (homeGet s.coh r.line) r.from_))
    if crosses then dropProbe s1 r.site r.line r.from_ else s1

/-! ## Requests on their way to a home (20 R367, R368, R377) -/

/-- A request of a die sent to the controller that its owner table names, by a lath unless it is the die's own. -/
def sendReq (s : State) (backoff : Nat) (r : CohReq) : State :=
  let h := homeDie s r.from_ r.line
  let m : ReqMsg := ⟨r, (tableOf s r.from_).incs[Fin.ofNat 4 r.from_], backoff, nextTransit s r.from_ h⟩
  sendMessage (putCoh s { s.coh with reqs := s.coh.reqs ++ [m] }) r.from_ h

/-- A line that a die gives up: dirty data is written back, every copy goes (R220, R228). -/
def giveUp (s : State) (d line : Nat) : State :=
  let s1 := if isDirty (dirGet s.coh d line).lvl then backFrom s d line else s
  putCoh s1 (dieInvalidate s1.coh d line)

/-- A line evicted from the slice of a die; the home hears of dirty data, the die's own controller at once (R220, R226; log 19 DESIGN
CHOICE). -/
def evictL2 (s : State) (d line : Nat) : State :=
  let s1 := giveUp s d line
  let r : CohReq := ⟨.home, d, line, .put⟩
  if !isDirty (dirGet s.coh d line).lvl then s1
  else if homeDie s d line = d && trueHome s line = d then putServe s1 r
  else sendReq s1 32 r

/-! ## Ways (R212, R220, R222, R227, R228) -/

/-- The lines that a cell or engine has asked the slices of its die for. -/
def askedLines (s : State) (a : Nat) : List Nat :=
  let mine (r : CohReq) : Bool := r.site != .home && r.from_ = a && r.kind != .put
  ((s.coh.txns.map (fun t => t.req) ++ s.coh.conflicts ++ s.coh.retries.map (fun x => x.req)).filter mine).map (fun r => r.line)

/-- The other lines of the L1 of a cell in the set of a line: PA[15:7] names it (R212). -/
def l1Rivals (s : State) (p line : Nat) : List Nat :=
  ((s.coh.l1.filter (fun e => e.1 / 2 ^ 40 = p)).map (fun e => e.1 % 2 ^ 40)).filter
    (fun l => l != line && l % 512 = line % 512)

/-- A way of the L1 of a cell for a line: one taken away when the 10 ways of its set are taken, none when each of them waits
(R212). -/
def l1Room (s : State) (p line : Nat) : Option State :=
  let here := l1Rivals s p line
  let asked := askedLines s p
  let coming := asked.filter (fun l => l != line && l % 512 = line % 512 && !here.contains l)
  if here.length + coming.length < 10 then some s
  else (pick s (here.filter (fun l => !asked.contains l && !lineLocked s (dieOf p) l))).map (fun v => slicePut s p v)

/-- A way of the slice of a die for a line it does not hold: an unpinned and unlocked one taken away when all are taken, none
when every unpinned one is locked (R220, R222). -/
def l2Room (s : State) (d line : Nat) : Option State :=
  if (dirGet s.coh d line).lvl != .i || (l2Lines s.coh d ++ l2Coming s.coh d).length < 15 then some s
  else
    let here := l2Rivals s d line
    if here.length < l2Ways s d (l2Set s d line) then some s
    else (pick s (here.filter (fun l => !isPinned s.coh d l && !lineLocked s d l))).map (fun v => evictL2 s d v)

/-- Whether two lines take ways of one set of one home (R227). -/
def sameHomeSet (s : State) (l m : Nat) : Bool :=
  trueHome s l = trueHome s m && Config.snoopSet l % 262144 = Config.snoopSet m % 262144

/-- The other lines that take ways of the set of a line at its home (R227). -/
def homeRivals (s : State) (line : Nat) : List Nat :=
  (s.coh.homes.filter (fun e => e.2.st != .i && e.1 != line && sameHomeSet s e.1 line)).map (fun e => e.1)

/-- Whether a home has an entry for a line, or a way for one (R227). -/
def homeRoom (s : State) (line : Nat) : Bool :=
  (homeGet s.coh line).st != .i || s.coh.homes.length < 16 || (homeRivals s line).length < 16

/-! ## Locks and probes (R221, R225, R226) -/

/-- A probe on its way, by a lath when it leaves its die. -/
def sendProbe (r : CohReq) (stamp : Byte) (s : State) (t : Nat) : State :=
  match r.site with
  | .slice _ => putCoh s { s.coh with probes := s.coh.probes ++ [⟨r.site, r.line, t, r.kind, stamp, .none⟩] }
  | .home =>
    let h := trueHome s r.line
    let m : ProbeMsg := ⟨r.site, r.line, t, r.kind, stamp, nextTransit s h t⟩
    sendMessage (putCoh s { s.coh with probes := s.coh.probes ++ [m] }) h t

/-- SEQ + 1 of a line at a site, stored there (R225). -/
def bumpSeq (c : Coh) (a : Site) (line : Nat) : Byte × Coh :=
  match a with
  | .slice d =>
    let e := dirGet c d.val line
    (e.seq + 1, dirSet c d.val line { e with seq := e.seq + 1 })
  | .home =>
    let h := homeGet c line
    (h.seq + 1, homeSet c line { h with seq := h.seq + 1 })

/-- A line locked for a request, with the answers to come. -/
def lockFor (s : State) (r : CohReq) (n : Nat) : State := putCoh s { s.coh with txns := s.coh.txns ++ [⟨r, n, 0⟩] }

/-- A line locked for a request and its probes sent, all under one stamp (R225, R226). -/
def lockAndProbe (s : State) (r : CohReq) (targets : List Nat) : State :=
  let (stamp, c) := bumpSeq s.coh r.site r.line
  targets.foldl (sendProbe r stamp) (lockFor (putCoh s c) r targets.length)

/-- The locks of a site on a line taken away. -/
def unlock (s : State) (a : Site) (line : Nat) : State :=
  putCoh s { s.coh with txns := s.coh.txns.filter (fun t => !atSite a line t.req.site t.req.line) }

/-! ## At a slice (R226) -/

/-- The grant of a slice to a cell, which keeps it with its stamp and no longer in its share, or to an engine, which does not (R215,
R225, R226). -/
def sliceGrant (c : Coh) (d a line : Nat) : CohKind → Coh
  | .gets =>
    let e := dirGet c d line
    if isCell a then
      let (st, e1) := grantRead e (pointerOf a)
      l1Set (dirSet (vicSet c a line LineCopy.none) d line e1) a line { l1Get c a line with st := st, stamp := e1.seq }
    else dirSet c d line { engineRead e with seq := e.seq + 1 }
  | .getm =>
    let c1 := upgradeDie (if isCell a then vicSet c a line LineCopy.none else c) d line
    let e := dirGet c1 d line
    if isCell a then
      l1Set (dirSet c1 d line (grantWrite e (pointerOf a))) a line { l1Get c1 a line with st := .m, stamp := e.seq + 1 }
    else dirSet c1 d line { engineWrite e with seq := e.seq + 1 }
  | .put | .evict | .atom _ | .stream => c

/-- The cells and group agents of a die that a request makes its slice probe (R224, R226). -/
def sliceProbes (s : State) (d : Nat) (r : CohReq) : List Nat :=
  (sliceTargets s d (dirGet s.coh d r.line) r.from_ r.kind).map (agentAt d)

/-- A request served by its slice, the die's level being enough (R226). -/
def sliceServe (s : State) (d : Nat) (r : CohReq) : State :=
  match sliceProbes s d r with
  | [] => putCoh s (sliceGrant s.coh d r.from_ r.line r.kind)
  | t :: l => lockAndProbe s r (t :: l)

/-- The request whose lock at a slice waits for the home, if one does. -/
def waitsHome (s : State) (d : Fin 4) (line : Nat) : Option Txn :=
  s.coh.txns.find? (fun t => atSite (.slice d) line t.req.site t.req.line && t.left = 0)

/-- A slice that waited for the home serves its request. -/
def resumeSlice (s : State) (d : Fin 4) (line : Nat) : State :=
  match waitsHome s d line with
  | some t => sliceServe (unlock s (.slice d) line) d.val t.req
  | none => s

/-! ## At a home (R227, R228; 20 R367, R368) -/

/-- A grant of a home taken by the slice of its die (R225, R227). -/
def takeGrant (s : State) (d line : Nat) (st : Moesi) (stamp : Byte) (good : BitVec 4) : State :=
  resumeSlice (putCoh s (takeLevel s.coh d line st stamp good)) (Fin.ofNat 4 d) line

/-- A request completed for a die that stands fenced: the entry names that die no longer, and dirty data that was forwarded for it goes to
memory (20 R383, R384). -/
def loseGrant (s : State) (r : CohReq) (h : HomeEntry) (good : BitVec 4) : State :=
  let s1 := if r.kind = .getm && (dirtyDie s.coh r.line).isNone then writeBack (healSectors s r.line good) r.line else s
  putCoh s1 (homeSet s1.coh r.line (withoutDie r.from_ h))

/-- The grant of a home to a die, with what the answers forwarded, by a lath unless it is the home's own (R227; 20 R377, R384). -/
def homeGrant (s : State) (r : CohReq) (good : BitVec 4) : State :=
  let (st, h) := homeAnswer (homeGet s.coh r.line) r.from_ r.kind
  let c := homeSet s.coh r.line h
  let home := trueHome s r.line
  if isFenced s (Fin.ofNat 4 r.from_) then loseGrant s r h good
  else if home = r.from_ then takeGrant (putCoh s c) r.from_ r.line st h.seq good
  else
    let m : GrantMsg := ⟨r.from_, r.line, st, h.seq, good, nextTransit s home r.from_⟩
    sendMessage (putCoh s { c with grants := c.grants ++ [m] }) home r.from_

/-- An entry of a home freed once no die holds its line (R228). -/
def freeHome (c : Coh) (line : Nat) : Coh := { c with homes := tabErase c.homes line }

/-- The home's own eviction of an entry begun: every die of its presence set is to give up the line (R228). -/
def startEvict (s : State) (line : Nat) : State :=
  let r : CohReq := ⟨.home, trueHome s line, line, .evict⟩
  match homeTargets (homeGet s.coh line) r.from_ .evict with
  | [] => putCoh s (freeHome s.coh line)
  | t :: l => lockAndProbe s r (t :: l)

/-- Whether an entry of a home is being evicted. -/
def beingEvicted (s : State) (line : Nat) : Bool :=
  s.coh.txns.any (fun t => atSite .home line t.req.site t.req.line && t.req.kind = .evict)

/-- A request that waits for a way of its set at the home, one unlocked entry of which is evicted for each that waits (R227, R228; log
19 DESIGN CHOICE). -/
def needWay (s : State) (r : CohReq) : State :=
  let s1 := putCoh s { s.coh with wayWait := s.coh.wayWait ++ [r] }
  let rivals := homeRivals s r.line
  if s1.coh.wayWait.countP (fun x => sameHomeSet s x.line r.line) ≤ rivals.countP (beingEvicted s) then s1
  else
    match pick s (rivals.filter (fun l => !siteLocked s .home l)) with
    | some v => startEvict s1 v
    | none => s1

/-- A line locked at its home for an atomic, which no die may hold then (12 R251; log 73 DEDUCED). -/
def atomServe (s : State) (r : CohReq) : State :=
  match homeTargets (homeGet s.coh r.line) r.from_ r.kind with
  | [] => lockFor (putCoh s (freeHome s.coh r.line)) r 0
  | t :: l => lockAndProbe s r (t :: l)

/-- A read or write request of a die served by the home of its line (R227). -/
def grantServe (s : State) (r : CohReq) : State :=
  if !homeRoom s r.line then needWay s r
  else
    match homeTargets (homeGet s.coh r.line) r.from_ r.kind with
    | [] => homeGrant s r 0
    | t :: l => lockAndProbe s r (t :: l)

/-- A request of a die served by the home of its line (R227; 12 R251). -/
def homeServe (s : State) (r : CohReq) : State :=
  if siteLocked s .home r.line then queueReq s r
  else
    match r.kind with
    | .atom _ => atomServe s r
    | _ => grantServe s r

/-- Whether a request arrives at a controller that is no longer the home, at a port that is not active, or with an incarnation
that is not current; a put is taken while the stack is frozen (20 R368, R372, R373). -/
def notOwner (s : State) (r : CohReq) (inc : Byte) : Bool :=
  let home := trueHome s r.line
  inc != (tableOf s home).incs[Fin.ofNat 4 r.from_] ||
    match stackOfLine r.line with
    | some k =>
      (r.kind != .put && s.dies.handovers.any (fun h => h.stack = k && 1 ≤ h.stage)) || homeDie s r.from_ r.line != home
    | none => false

/-- A request held at the routing stage of its die (20 R367). -/
def holdReq (s : State) (r : CohReq) : State := putCoh s { s.coh with held := s.coh.held ++ [r] }

/-- A refused request at its die, which waits `backoff` cycles before it sends it again (20 R368). -/
def refused (m : ReqMsg) : Retry := ⟨m.req, m.backoff, min 2048 (2 * m.backoff)⟩

/-- NOTOWNER for a request, by a lath unless its die is the home's own (20 R368, R377). -/
def refuseReq (s : State) (m : ReqMsg) : State :=
  let home := trueHome s m.req.line
  if home = m.req.from_ then putCoh s { s.coh with notowner := s.coh.notowner ++ [refused m] }
  else
    sendMessage (putCoh s { s.coh with refusals := s.coh.refusals ++ [{ m with via := nextTransit s home m.req.from_ }] }) home
      m.req.from_

/-- A message of a die that arrives at a home: refused, or served (20 R367, R368, R373). -/
def takeReq (s : State) (m : ReqMsg) : State :=
  if notOwner s m.req m.inc then refuseReq s m
  else if m.req.kind = .put then putServe s m.req
  else homeServe s m.req

/-- Whether a message for a home that has arrived is the next of its stream there: none sent before it is still to be taken (20
R378). -/
def nextInStream (c : Coh) (t : Transit) : Bool :=
  !c.reqs.any (fun m => sentBefore m.via t) && !c.answers.any (fun m => sentBefore m.via t)

/-- The messages for a home that are there, the first of a test that none of its stream precedes, taken (20 R378). -/
def popReq (s : State) (p : CohReq → Bool) : Option (ReqMsg × State) :=
  (s.coh.reqs.findIdx? (fun m => p m.req && arrived s m.via && nextInStream s.coh m.via)).bind (fun i =>
    (s.coh.reqs[i]?).map (fun m => (m, putCoh s { s.coh with reqs := listDrop s.coh.reqs i })))

/-- A request that a die's routing stage sends on, or holds while the stack is frozen (20 R367); one for its own controller is
there at once, and a stream reads as it goes on. -/
def routeHome (s : State) (backoff : Nat) (r : CohReq) : State :=
  if lineHeld s r.from_ r.line then holdReq s r
  else if r.kind = .stream then s
  else
    let s1 := sendReq s backoff r
    if homeDie s r.from_ r.line = r.from_ then
      match popReq s1 (fun x => x = r) with
      | some (m, s2) => takeReq s2 m
      | none => s1
    else s1

/-! ## Requests that arrive at their site -/

/-- A read or write request of a cell or engine at its slice (R221, R226): one that needs the home holds the line's lock and a
way; without a way it is refused (log 19 DESIGN CHOICE). -/
def arriveSlice (s : State) (d : Fin 4) (r : CohReq) : State :=
  if siteLocked s r.site r.line then queueReq s r
  else if levelServes r.kind (dirGet s.coh d.val r.line).lvl then sliceServe s d.val r
  else
    match l2Room s d.val r.line with
    | none => putCoh s { s.coh with retries := s.coh.retries ++ [⟨r, 16, 16⟩] }
    | some s1 => routeHome (lockFor s1 r 0) 32 ⟨.home, d.val, r.line, r.kind⟩

/-- A request at its site; a home has accepted a queued one, whatever has become of its stack since (20 R372). -/
def serveReq (s : State) (r : CohReq) : State :=
  match r.kind, r.site with
  | .put, _ => putServe s r
  | _, .slice d => arriveSlice s d r
  | _, .home => homeServe s r

/-- The queued requests for unlocked lines served in order (R221). -/
def drainQueue (s : State) : Nat → State
  | 0 => s
  | n + 1 =>
    match s.coh.conflicts.find? (fun r => !siteLocked s r.site r.line) with
    | none => s
    | some r => drainQueue (serveReq (putCoh s { s.coh with conflicts := s.coh.conflicts.erase r }) r) n

/-- The requests that wait for ways at homes served again. -/
def wakeWays (s : State) : State :=
  s.coh.wayWait.foldl homeServe (putCoh s { s.coh with wayWait := [] })

/-- What a lock that has gone lets go on: requests that wait for ways, then the conflict queues (R221, R228). -/
def drain (s : State) : State :=
  let s1 := if s.coh.wayWait.isEmpty then s else wakeWays s
  drainQueue s1 (2 * s1.coh.conflicts.length)

/-! ## A line got for an access -/

/-- The die-level state for a request, got without a message: enough already, or granted by the die's own controller that need
probe no die (R228; log 60 DESIGN CHOICE). -/
def levelNow (s : State) (d line : Nat) (k : CohKind) : Option State :=
  let h := homeGet s.coh line
  if levelServes k (dirGet s.coh d line).lvl then some s
  else if homeDie s d line != d || trueHome s line != d || lineHeld s d line || siteLocked s .home line ||
      !(homeTargets h d k).isEmpty || !homeRoom s line then none
  else
    (l2Room s d line).map (fun s1 =>
      let (st, h1) := homeAnswer (homeGet s1.coh line) d k
      putCoh s1 (takeLevel (homeSet s1.coh line h1) d line st h1.seq 0))

/-- A request of a cell or engine served at once by its slice, on-die probes with it; none when it must wait (R226; log 60
DESIGN CHOICE). -/
def serveNow (s : State) (d a line : Nat) (k : CohKind) : Option State :=
  (levelNow s d line k).bind (fun s1 =>
    (if isCell a then l1Room s1 a line else some s1).map (fun s2 =>
      let ts := sliceProbes s2 d ⟨.slice (Fin.ofNat 4 d), a, line, k⟩
      let c := if ts.isEmpty then s2.coh else (bumpSeq s2.coh (.slice (Fin.ofNat 4 d)) line).2
      putCoh s2 (sliceGrant (ts.foldl (fun c t => agentDown c t line k) c) d a line k)))

/-- A line that a share of its group holds moved into the L1 of a cell, when it has a way (R215). -/
def fromShare (s : State) (p line : Nat) : State :=
  match shareOf s p line with
  | none => s
  | some q =>
    match l1Room s p line with
    | none => s
    | some s1 =>
      let x := vicGet s1.coh q line
      let c := l1Set (vicSet s1.coh q line LineCopy.none) p line x
      let d := dieOf p
      putCoh s1 (if x.st = .i then s1.coh else if isPooled s p then dirSet c d line (addSharer (dirGet c d line) (pointerOf p)) else c)

/-- Whether the copy of a cell serves an access; an engine keeps none. -/
def servesNow (s : State) (a : Nat) (write : Bool) (line : Nat) : Bool := isCell a && copyServes write (l1Get s.coh a line).st

/-- The state after an access that the copy of a cell serves: a store to a copy in E makes it M (R212). -/
def useCopy (s : State) (a : Nat) (write : Bool) (line : Nat) : State :=
  if write && (l1Get s.coh a line).st = .e then putCoh s (upgradeCopy s.coh a line) else s

/-- The kind of request that an access makes. -/
def kindOf (write : Bool) : CohKind := if write then .getm else .gets

/-- What an L1 miss of a cell finds in the victim cache of its group before it goes to the slice; a pool's line moves with the slice's
entry, which a lock holds (R215, R221). -/
def lookShare (s : State) (d a line : Nat) : State :=
  if isCell a && (l1Get s.coh a line).st = .i && !(isPooled s a && lineLocked s d line) then fromShare s a line else s

/-- A line got for an access of a cell or engine: a copy that serves it, one of its group's victim shares, or a request served
at once; none when it must wait (R212, R215, R226). -/
def acquire (s : State) (d a : Nat) (write : Bool) (line : Nat) : Option State :=
  if servesNow s a write line then some (useCopy s a write line)
  else
    let s1 := lookShare s d a line
    if servesNow s1 a write line then some (useCopy s1 a write line)
    else if lineLocked s1 d line then none
    else serveNow s1 d a line (kindOf write)

/-- The request for a line that an access waits for, sent once, after a look in the victim cache (R215); it queues at a locked line
(R221). -/
def askLine (s : State) (d a : Nat) (write : Bool) (line : Nat) : State :=
  if (askedLines s a).contains line then s
  else
    let s0 := lookShare s d a line
    if servesNow s0 a write line then s0
    else
      match (if isCell a then l1Room s0 a line else some s0) with
      | none => s0
      | some s1 => drain (arriveSlice s1 (Fin.ofNat 4 d) ⟨.slice (Fin.ofNat 4 d), a, line, kindOf write⟩)

/-- The lines of an access got in turn: the state with all of them, or with the request for the first that must wait. -/
def acquireLines (s : State) (d a : Nat) (write : Bool) : List Nat → Except State State
  | [] => .ok s
  | l :: ls =>
    match acquire s d a write l with
    | some t => acquireLines t d a write ls
    | none => .error (askLine s d a write l)

/-! ## Requests, puts and grants as steps -/

/-- Whether a request can come from its sender: a present cell of the slice's die, or a die that is not fenced. -/
def fromThere (s : State) (a : Site) (from_ : Nat) : Bool :=
  match a with
  | .slice d => cellPresent s from_ && dieOf from_ = d.val && !isFenced s d
  | .home => from_ < 4 && !isFenced s (Fin.ofNat 4 from_)

/-- The message of a die for a home taken, once it is there. -/
def arriveMessage (s : State) (r : CohReq) : State :=
  match popReq s (fun x => x = r) with
  | some (m, s1) => drain (takeReq s1 m)
  | none => s

/-- gets: a read request arrives at a slice, from a cell without a copy, or at a home (R226, R227). -/
def execGets (a : Site) (from_ line : Nat) (s : State) : Res :=
  if !fromThere s a from_ || !memExists s (line * 128) then .next s
  else
    match a with
    | .slice d => if servesNow s from_ false line then .next s else .next (askLine s d.val from_ false line)
    | .home => .next (arriveMessage s ⟨.home, from_, line, .gets⟩)

/-- getm: a write request arrives at a slice, from a cell without ownership, or at a home (R226, R227). -/
def execGetm (a : Site) (from_ line : Nat) (s : State) : Res :=
  if !fromThere s a from_ || !memExists s (line * 128) then .next s
  else
    match a with
    | .slice d => if servesNow s from_ true line then .next s else .next (askLine s d.val from_ true line)
    | .home => .next (arriveMessage s ⟨.home, from_, line, .getm⟩)

/-- put: a copy is evicted from a cell or a die, or the put of a die arrives at the home (R220, R224-R226); a pinned or locked
line stays (R222). -/
def execPut (a : Site) (from_ line : Nat) (s : State) : Res :=
  let r : CohReq := ⟨a, from_, line, .put⟩
  if !fromThere s a from_ then .next s
  else
    match a with
    | .slice _ => if (l1Get s.coh from_ line).st = .i then .next s else .next (drain (putServe s r))
    | .home =>
      match popReq s (fun x => x = r) with
      | some (m, s1) => .next (drain (takeReq s1 m))
      | none =>
        if (dirGet s.coh from_ line).lvl = .i || isPinned s.coh from_ line || lineLocked s from_ line then .next s
        else .next (evictL2 s from_ line)

/-- The grants that have arrived at their dies taken in order (20 R378). -/
def takeGrants (s : State) : Nat → State
  | 0 => s
  | n + 1 =>
    match s.coh.grants.findIdx? (fun m => arrived s m.via) with
    | none => s
    | some i =>
      match s.coh.grants[i]? with
      | none => s
      | some m =>
        takeGrants (takeGrant (putCoh s { s.coh with grants := listDrop s.coh.grants i }) m.die m.line m.st m.stamp m.good) n

/-- The refusals that have arrived at their dies taken (20 R368, R378). -/
def takeRefusals (s : State) : State :=
  putCoh s { s.coh with
    refusals := s.coh.refusals.filter (fun m => !arrived s m.via)
    notowner := s.coh.notowner ++ (s.coh.refusals.filter (fun m => arrived s m.via)).map refused }

/-- The grants and refusals that a flit has brought taken, and what waited for them. -/
def landGrants (s : State) : State :=
  let s1 := if s.coh.refusals.isEmpty then s else takeRefusals s
  if s1.coh.grants.isEmpty then s1 else drain (takeGrants s1 s1.coh.grants.length)

/-- flitReceive: the next flit arrives on a direction of a lath, or on the port link of a die (01 R13; 20 R378, R379). -/
def execFlitReceive (link : Fin 12) (intact : Bool) (s : State) : Res :=
  if h : link.val < 8 then .next (landGrants (receiveLath ⟨link.val, h⟩ intact s))
  else .next (receivePort ⟨link.val - 8, by omega⟩ intact s)

/-! ## Probes and answers (R222, R225, R228) -/

/-- Whether a probe is older than the grant of a copy (R225). -/
def probeOlder (grant probe : Byte) : Bool := 1 ≤ (grant - probe).toNat && (grant - probe).toNat ≤ 127

/-- Probe i gone. -/
def takeProbe (s : State) (i : Nat) : State := putCoh s { s.coh with probes := listDrop s.coh.probes i }

/-- An answer on its way, by a lath when it leaves its die. -/
def sendAnswer (s : State) (m : ProbeMsg) (good : BitVec 4) : State :=
  match m.site with
  | .slice _ => putCoh s { s.coh with answers := s.coh.answers ++ [⟨m.site, m.line, m.target, 0, .none⟩] }
  | .home =>
    let h := trueHome s m.line
    let x : ProbeAns := ⟨m.site, m.line, m.target, good, nextTransit s m.target h⟩
    sendMessage (putCoh s { s.coh with answers := s.coh.answers ++ [x] }) m.target h

/-- The stamp of the grant that gave a target of a probe its copy, if it has one (R225). -/
def grantStamp (s : State) (m : ProbeMsg) : Option Byte :=
  match m.site with
  | .slice _ =>
    if !isCell m.target then none
    else if (l1Get s.coh m.target m.line).st != .i then some (l1Get s.coh m.target m.line).stamp
    else if (vicGet s.coh m.target m.line).st != .i then some (vicGet s.coh m.target m.line).stamp
    else none
  | .home =>
    let e := dirGet s.coh m.target m.line
    if e.lvl = .i then none else some e.hstamp

/-- Whether a probe is older than the copy it meets, so that it is discarded (R225). -/
def isOlder (s : State) (m : ProbeMsg) : Bool :=
  match grantStamp s m with
  | some g => probeOlder g m.stamp
  | none => false

/-- Whether a probe of a home has dirty data written to memory: a back-invalidation, or one for an atomic there (R228; 12 R251). -/
def writesBack : CohKind → Bool
  | .evict | .atom _ => true
  | .gets | .getm | .put | .stream => false

/-- What a probe does at its target (R225, R226, R228). -/
def probeEffect (s : State) (m : ProbeMsg) : State :=
  match m.site with
  | .slice _ => putCoh s (agentDown s.coh m.target m.line m.kind)
  | .home =>
    let s1 := if writesBack m.kind && isDirty (dirGet s.coh m.target m.line).lvl then backFrom s m.target m.line else s
    putCoh s1 (probeDie s1.coh m.target m.line m.kind)

/-- The sectors that the data forwarded by the target of a probe holds and memory has lost: a dirty owner forwards (R226; 20 R384). -/
def probeData (s : State) (m : ProbeMsg) : BitVec 4 :=
  let e := dirGet s.coh m.target m.line
  if isDirty e.lvl && !writesBack m.kind then e.good else 0

/-- Whether a probe must wait at its target: not there yet, a pinned line, a transaction of the target's slice, a fenced die (R221,
R222; 20 R381). -/
def probeHeld (s : State) (m : ProbeMsg) : Bool :=
  !arrived s m.via || match m.site with
    | .slice _ => false
    | .home => probeWaits s.coh m.line m.target || isFenced s (Fin.ofNat 4 m.target)

/-- probe: a probe reaches a cell, a group agent or a die (R225, R228). -/
def execProbe (i : Nat) (s : State) : Res :=
  match s.coh.probes[i]? with
  | none => .next s
  | some m =>
    if probeHeld s m then .next s
    else if isOlder s m then .next (takeProbe s i)
    else .next (sendAnswer (probeEffect (takeProbe s i) m) m (probeData s m))

/-- The transactions of a site on a line with one answer fewer to come. -/
def countAnswer (s : State) (a : Site) (line : Nat) (good : BitVec 4) : State :=
  putCoh s { s.coh with txns := s.coh.txns.map (fun t =>
    if atSite a line t.req.site t.req.line then { t with left := t.left - 1, good := t.good ||| good } else t) }

/-- The transaction of a site on a line that has every answer. -/
def answered (s : State) (a : Site) (line : Nat) : Option Txn :=
  s.coh.txns.find? (fun t => atSite a line t.req.site t.req.line && t.left = 0)

/-- A transaction with every answer in: the grant, the entry of a home freed, or its line kept locked for an atomic (R226, R228; 12
R251). -/
def finishTxn (s : State) (t : Txn) : State :=
  let s1 := unlock s t.req.site t.req.line
  match t.req.site, t.req.kind with
  | .slice d, k => putCoh s1 (sliceGrant s1.coh d.val t.req.from_ t.req.line k)
  | .home, .evict => putCoh s1 (freeHome s1.coh t.req.line)
  | .home, .atom _ =>
    let s2 := if isFenced s (Fin.ofNat 4 t.req.from_) then s1 else s
    putCoh s2 (freeHome s2.coh t.req.line)
  | .home, _ => homeGrant s1 t.req t.good

/-- An answer counted at its site. -/
def takeAnswer (s : State) (a : Site) (line : Nat) (good : BitVec 4) : State :=
  if s.coh.txns.any (fun t => atSite a line t.req.site t.req.line && t.left != 0) then
    let s1 := countAnswer s a line good
    match answered s1 a line with
    | some t => finishTxn s1 t
    | none => s1
  else s

/-- probeAnswer: an answer, the next of its stream there, reaches its slice or home, which serves what waited for the line (R221, R226;
20 R378). -/
def execProbeAnswer (i : Nat) (s : State) : Res :=
  match s.coh.answers[i]? with
  | none => .next s
  | some m =>
    if !arrived s m.via || !nextInStream s.coh m.via then .next s
    else .next (drain (takeAnswer (putCoh s { s.coh with answers := listDrop s.coh.answers i }) m.site m.line m.good))

/-- A request that a full conflict queue refused, sent again: a die's through its routing stage (R221; 20 R367). -/
def sendAgain (s : State) (r : CohReq) : State :=
  match r.site, r.kind with
  | .home, .put => sendReq s 32 r
  | .home, _ => routeHome s 32 r
  | .slice _, _ => serveReq s r

/-- conflictRetry: a request refused by a full conflict queue arrives again after 16 cycles (R221). -/
def execConflictRetry (i : Nat) (s : State) : Res :=
  match s.coh.retries[i]? with
  | none => .next s
  | some x =>
    if x.wait ≠ 0 then .next s
    else .next (drain (sendAgain (putCoh s { s.coh with retries := listDrop s.coh.retries i }) x.req))

end Sys2Proof.Machine
end

