-- ==== Sys2Proof/Machine/Access.lean ====
section
/-! DEFINITION. Performing an access: walks, the lines got, the wait in RUN when one cannot be had at once, UE, and the bytes
moved; and what is performed at the home of a line (02 R35; 10 R211, R212; 12 R251; 18 R344; 20 R367, R373, R377, R384, R388). -/

namespace Sys2Proof.Machine

/-! ## Waiting in RUN (20 R388) -/

/-- The running slot stalls in RUN and performs its instruction again at a later turn; the instruction has issued, so that no
BUDGET takes its place (07 R180; 20 R388). -/
def waitHere (s : State) : State := setStall s .again

/-- The running slot's instruction waits where it is: at the unit of another die that it has reached, or in its cell. -/
def waitInPlace (s : State) : State := if (slotOf s).stall = .there then s else waitHere s

/-- The die of the running slot. -/
def myDie (s : State) : Nat := dieOf (physOf s s.curCell)

/-- The physical identifier of the running slot's cell. -/
def myPhys (s : State) : Nat := physOf s s.curCell

/-! ## Translation for an access (10 R211) -/

/-- The pages of addresses in the global range. -/
def pagesOf (as : List Word) : List Nat :=
  ((as.filter (fun a => bitsOf a 63 55 = 0)).map (fun a => a.toNat / 65536)).eraseDups

/-- The lines that the walk of an address reads; none when a TLB holds its translation. -/
def walkLines (s : State) (c : Nat) (x : Descriptor) (va : Nat) : List Nat :=
  match tlbHit s c x.ctxid va with
  | some _ => []
  | none => ((walkPlaces s (dieOf (physOf s c)) x.ctxid x.root va).map (fun a => a / 128)).eraseDups

/-- The walker that a walk for an address of a context on a cell takes. -/
def walkerFor (s : State) (c : Nat) (x : Descriptor) (va : Nat) : Walker := ⟨dieOf (physOf s c), x.ctxid, va / 65536⟩

/-- Whether a walk must wait for a walker: the 64 of its die are at work, none of them for its page (R211). -/
def walkersBusy (s : State) (w : Walker) : Bool :=
  !s.tlbs.walkers.contains w && 64 ≤ s.tlbs.walkers.countP (fun x => x.die = w.die)

/-- A walker taken for a walk that waits for a line. -/
def holdWalker (s : State) (w : Walker) : State :=
  if s.tlbs.walkers.contains w then s else { s with tlbs := { s.tlbs with walkers := s.tlbs.walkers ++ [w] } }

/-- The walker of a walk that has ended free again. -/
def freeWalker (s : State) (w : Walker) : State :=
  if s.tlbs.walkers.contains w then { s with tlbs := { s.tlbs with walkers := s.tlbs.walkers.filter (fun x => x != w) } } else s

/-- An address of a context on a cell walked by one of the die's walkers, which gets its lines as an engine of the die does, and the
TLBs filled unless an entry is poisoned (R211; 20 R367; log 59 DESIGN CHOICE); or the state in which the walk waits, for a walker or
for a line. -/
def walkPage (s : State) (c : Nat) (x : Descriptor) (va : Nat) : Except State State :=
  let w := walkerFor s c x va
  if (tlbHit s c x.ctxid va).isSome then .ok (useTlbs s c x va)
  else if walkersBusy s w then .error s
  else
    match acquireLines s w.die (engineOf w.die) false (walkLines s c x va) with
    | .error t => .error (holdWalker t w)
    | .ok t =>
      let u := freeWalker t w
      .ok (if walkPoisoned u c x va then u else useTlbs u c x va)

/-- pageWalk: a walk for an address of the context on a cell, the TLBs filled (R211). -/
def execPageWalk (c : Nat) (va : Word) (s : State) : Res :=
  if !(cellAt s c).live || bitsOf va 63 55 ≠ 0 then .next s
  else
    match walkPage s c (ccAt s c).desc va.toNat with
    | .ok t => .next t
    | .error w => .next w

/-- The pages of an access walked in turn. -/
def walkPages (s : State) (c : Nat) (x : Descriptor) : List Nat → Except State State
  | [] => .ok s
  | p :: ps =>
    match walkPage s c x (65536 * p) with
    | .error w => .error w
    | .ok t => walkPages t c x ps

/-- The UE of an access whose walk reads a poisoned entry, if it does (18 R344; 23 R414; log 59 DESIGN CHOICE). -/
def walkUe (s : State) (c : Nat) (x : Descriptor) (acc : Access) (first : Word) (as : List Word) : Option TrapInfo :=
  (poisonedWalk s c x as).map (ueTrap acc first)

/-- What the checks of an access come to: a wait for a walk, a trap, or where its bytes lie. -/
inductive Checked where
  | wait (s : State)
  | trap (s : State) (t : TrapInfo)
  | ok (s : State) (ls : List Loc)
deriving DecidableEq, Repr

/-- Translation and step 5 of an access of the running slot (02 R35). -/
def checkAccess (s : State) (acc : Access) (first : Word) (as : List Word) : Checked :=
  match walkPages s s.curCell (ccOf s).desc (pagesOf as) with
  | .error w => .wait w
  | .ok t =>
    match walkUe t t.curCell (ccOf t).desc acc first as with
    | some e => .trap t e
    | none =>
      match checkBytes t acc first as with
      | .error e => .trap t e
      | .ok ls => .ok t ls

/-! ## A slot's own copy-out (11 R234, R235, R244) -/

/-- The bytes of a transfer (14 R281). -/
def Transfer.len (t : Transfer) : Nat := t.rows * t.rb

/-- The memory address of byte j of a transfer (14 R281). -/
def transferAddr (t : Transfer) (j : Nat) : Word :=
  t.m + BitVec.ofNat 64 (j / t.rb) * t.st + BitVec.ofNat 64 (j % t.rb)

/-- Whether a transfer to memory of a channel, a cpy of the running slot, is still to write one of some bytes. -/
def willWrite (s : State) (wp : Nat) (t : Transfer) (ls : List Loc) : Bool :=
  t.out && t.slot = s.curSlot && (List.range (t.len - (wp - t.base))).any (fun i =>
    let va := transferAddr t (wp - t.base + i)
    match translate s s.curCell (ccOf s).desc va.toNat with
    | .ok e => bitsOf va 63 55 = 0 && ls.contains (.mem (tlbPa e va.toNat))
    | .error _ => false)

/-- Whether an access of the running slot waits for its own earlier cpy: a byte of it is still to be written (11 R234, R235, R244; log
74 DESIGN CHOICE). -/
def copyPending (s : State) (ls : List Loc) : Bool :=
  (ccOf s).cch.toList.any (fun x => x.queue.any (fun t => willWrite s x.wp t ls))

/-! ## Loads and stores (log 9 DESIGN CHOICE) -/

/-- The sectors of a line that bytes lie in, as a mask. -/
def sectorMask (ls : List Loc) (line : Nat) : BitVec 4 :=
  ls.foldl (fun m l => match l with
    | .mem pa => if pa / 128 = line then m ||| (1#4 <<< (pa / 32 % 4)) else m
    | .pad _ => m) 0

/-- The valid and dirty bits of a cell's copy of a line after an access to its sectors (10 R212). -/
def markLine (c : Coh) (p : Nat) (write : Bool) (ls : List Loc) (line : Nat) : Coh :=
  let x := l1Get c p line
  let m := sectorMask ls line
  if x.st = .i then c
  else l1Set c p line { x with valid := x.valid ||| m, dirty := if write then x.dirty ||| m else x.dirty }

/-- The copies of a cell after an access (10 R212). -/
def markSectors (s : State) (p : Nat) (write : Bool) (ls : List Loc) : State :=
  putCoh s ((linesOf ls).foldl (fun c l => markLine c p write ls l) s.coh)

/-- Lines that a store has filled whole held good by its die, where memory still gives poison for them (20 R384; 22 R402). -/
def markGood (s : State) (d : Nat) (lines : List Nat) : State :=
  lines.foldl (fun s l =>
    if (List.range 4).any (fun i => sectorBad s (4 * l + i)) && (dirGet s.coh d l).lvl != .i then
      putCoh s (dirSet s.coh d l { dirGet s.coh d l with good := BitVec.allOnes 4 })
    else s) s

/-- Lines just written that the die holds no longer, another line of the same store having taken the way, written to memory (10 R220;
12 R262). -/
def settleLines (s : State) (d : Nat) (lines : List Nat) : State :=
  lines.foldl (fun s l => if (dirGet s.coh d l).lvl = .i then writeBack s l else s) s

/-- A store of bytes whose lines the cell has got. -/
def performStore (s : State) (ls : List Loc) (bs : List Byte) : State :=
  let s1 := markGood (healLocs (markSectors s (myPhys s) true ls) ls) (myDie s) (fullLines ls)
  settleLines (writeLocs (damagePools s1 ls) ls bs) (myDie s) (linesOf ls)

/-- The lines of bytes got for an access of the running slot, or the state in which it waits. -/
def getLines (s : State) (write : Bool) (ls : List Loc) : Except State State :=
  if copyPending s ls then .error s else acquireLines s (myDie s) (myPhys s) write (linesOf ls)

/-- What a load does: a wait in RUN, a trap, or its bytes with the state after it. -/
inductive LoadResult where
  | wait (s : State)
  | trap (s : State) (t : TrapInfo)
  | done (s : State) (bs : List Byte)
deriving DecidableEq, Repr

/-- A load of the bytes at `as`, by the running slot. -/
def loadBytes (s : State) (acc : Access) (first : Word) (as : List Word) : LoadResult :=
  match checkAccess s acc first as with
  | .wait w => .wait (waitHere w)
  | .trap t e => .trap t e
  | .ok t ls =>
    match getLines t false ls with
    | .error w => .wait (waitHere w)
    | .ok u =>
      match poisonTrap u acc first as ls with
      | some e => .trap u e
      | none => .done (markSectors u (myPhys u) false ls) (loadedBytes u ls)

/-- What a store does: a wait in RUN, a trap, or the state after it. -/
inductive StoreResult where
  | wait (s : State)
  | trap (s : State) (t : TrapInfo)
  | done (s : State)
deriving DecidableEq, Repr

/-- A store of bytes to `as`, by the running slot. -/
def storeBytes (s : State) (acc : Access) (first : Word) (as : List Word) (bs : List Byte) : StoreResult :=
  match checkAccess s acc first as with
  | .wait w => .wait (waitHere w)
  | .trap t e => .trap t e
  | .ok t ls =>
    match getLines t true ls with
    | .error w => .wait (waitHere w)
    | .ok u => .done (performStore u ls bs)

/-! ## Accesses of engines and of a cell's own logic -/

/-- A line of physical memory got by the hod and commit logic of a cell, or the state in which that waits. -/
def cellLine (s : State) (c : Nat) (write : Bool) (pa : Nat) : Except State State :=
  acquireLines s (dieOf (physOf s c)) (physOf s c) write [pa / 128]

/-- A line of physical memory got by an engine of a cell's die, or the state in which that waits. -/
def engineLine (s : State) (c : Nat) (write : Bool) (line : Nat) : Except State State :=
  let d := dieOf (physOf s c)
  acquireLines s d (engineOf d) write [line]

/-- The bytes of memory from a physical address on. -/
def memLocs (pa n : Nat) : List Loc := (List.range n).map (fun i => .mem (pa + i))

/-! ## At the home of a line (12 R251; 10 R228) -/

/-- A line that no die's cache holds, so that its home may act on it in memory: the copies of the home's own die go at once, those
of other dies by an eviction of its entry; or the state in which this waits. -/
def homeClear (s : State) (d line : Nat) : Except State State :=
  let h := trueHome s line
  if siteLocked s .home line || lineHeld s d line || homeDie s d line != h then .error s
  else if (homeGet s.coh line).st = .i then .ok s
  else if (homeGet s.coh line).present &&& ~~~(1#4 <<< h) != 0 then .error (startEvict s line)
  else if probeWaits s.coh line h || lineLocked s h line then .error s
  else
    let s1 := if isDirty (dirGet s.coh h line).lvl then backFrom s h line else s
    .ok (putCoh s1 (freeHome (dieInvalidate s1.coh h line) line))

/-- Lines cleared in turn. -/
def homeClears (s : State) (d : Nat) : List Nat → Except State State
  | [] => .ok s
  | l :: ls =>
    match homeClear s d l with
    | .error w => .error w
    | .ok t => homeClears t d ls

/-- The request of the running slot for a read-modify-write at the home of a line (12 R251). -/
def atomReq (s : State) (line : Nat) : CohReq := ⟨.home, myDie s, line, .atom (slotKey s.curCell s.curSlot)⟩

/-- Whether the home has locked a line for the running slot, no die holding it any longer. -/
def atomHeld (s : State) (line : Nat) : Bool := s.coh.txns.any (fun t => t.req = atomReq s line && t.left = 0)

/-- The running slot asks the home of the byte at an address for its line, and stalls (12 R251; 20 R367). -/
def askHome (s : State) (pa : Nat) : State := routeHome (setStall s (.home pa)) 32 (atomReq s (pa / 128))

/-- The line of a byte got at its home for a read-modify-write of the running slot: at once where the home is its own die's and nothing
holds the line up, else by a request that the home serves as one of a die (12 R251; 20 R367, R368); or the state in which the slot
waits. -/
def homeReady (s : State) (pa : Nat) : Except State State :=
  let line := pa / 128
  if (slotOf s).stall = .home pa then
    let s1 := arriveMessage s (atomReq s line)
    if atomHeld s1 line then .ok s1 else .error s1
  else if trueHome s line = myDie s then
    match homeClear s (myDie s) line with
    | .ok t => .ok t
    | .error _ => .error (askHome s pa)
  else .error (askHome s pa)

/-- A line let go by its home after a read-modify-write (10 R221). -/
def homeDone (s : State) (line : Nat) : State := if atomHeld s line then drain (unlock s .home line) else s

/-- Whether what a die sends to the home of a line can reach it (20 R377). -/
def homeReachable (s : State) (d line : Nat) : Bool :=
  let h := trueHome s line
  h = d || (nextLink s (Fin.ofNat 4 d) (Fin.ofNat 4 h)).isSome

/-- The running slot's instruction on its way to a unit of another die, by a lath (20 R377). -/
def sendTrip (s : State) (die : Nat) : State :=
  setStall (sendMessage s (myDie s) die) (.trip (nextTransit s (myDie s) die))

/-- The result for g[D] of what a die has performed for the running slot: there at once on the slot's own die, by a lath from another
(20 R377). -/
def replyFrom (s : State) (die : Nat) (d : GReg) (v : Word) : State :=
  if byLath s die (myDie s) then setStall (sendMessage s die (myDie s)) (.reply d (nextTransit s die (myDie s)) v) else finishG s d v

/-- A message from one cell of the package to another, by a lath when they are on two dies, with its name (20 R377). -/
def cellSend (s : State) (src dst : Nat) : Transit × State :=
  let a := dieOf (physOf s src)
  let b := dieOf (physOf s dst)
  (nextTransit s a b, sendMessage s a b)

/-- Whether the running slot's instruction is at a unit of a die: its own, or one it has reached by a lath. -/
def isThere (s : State) (die : Nat) : Bool := die = myDie s || (slotOf s).stall = .there

end Sys2Proof.Machine
end

