-- ==== Sys2Proof/Machine/Residence.lean ====
section
/-! DEFINITION. Finding a context on a cell, resident or saved, and changing it there (12 R258, R260; 18 R362). -/

namespace Sys2Proof.Machine

/-- Whether a context is resident on a cell. -/
def isResident (s : State) (c : Nat) (ctxid : BitVec 16) : Bool :=
  (cellAt s c).live && (ccAt s c).desc.ctxid = ctxid

/-- Whether an image is that of a context saved by a cell. -/
def isImageOf (s : State) (c : Nat) (ctxid : BitVec 16) (x : Image) : Bool :=
  x.phys = physOf s c && x.cc.desc.ctxid = ctxid

/-- The state of a context on a cell, resident or saved. -/
def ctxFind (s : State) (c : Nat) (ctxid : BitVec 16) : Option CtxCell :=
  if isResident s c ctxid then some (ccAt s c)
  else (s.images.find? (isImageOf s c ctxid)).map (fun x => x.cc)

/-- The first image of a context saved by a cell, changed. -/
def imagesPut (s : State) (c : Nat) (ctxid : BitVec 16) (cc : CtxCell) : List Image → List Image
  | [] => []
  | x :: l => if isImageOf s c ctxid x then { x with cc := cc } :: l else x :: imagesPut s c ctxid cc l

/-- The state of a context on a cell, resident or saved, changed. -/
def ctxPut (s : State) (c : Nat) (ctxid : BitVec 16) (cc : CtxCell) : State :=
  if isResident s c ctxid then putCc s c cc
  else { s with images := imagesPut s c ctxid cc s.images }

/-- Whether a cell holds a context, resident or saved. -/
def ctxHeld (s : State) (c : Nat) (ctxid : BitVec 16) : Bool := (ctxFind s c ctxid).isSome

/-- The slots of a cell that hold an activation. -/
def busySlots (s : State) (c : Nat) : List (Fin 4) :=
  (List.finRange 4).filter (fun k => slotBusy (slotAt s c k))

/-- The cells that have an entry in the table, or hold a context. -/
def knownCells (s : State) : List Nat := s.cells.map (fun e => e.1)

end Sys2Proof.Machine
end

