-- ==== Sys2Proof/Machine/Barriers.lean ====
section
/-! DEFINITION. Named barriers and the landing of stx: bset, arrivals and waits, reports, completion, the bank swap
(12 R254-R260; 10 R218, R219). -/

namespace Sys2Proof.Machine

/-- A barrier of a context on a cell. -/
def barrierOf (x : CtxCell) (b : Fin 256) : Barrier := tabGet Barrier.unset x.barriers b.val

/-- A barrier put. -/
def putBarrier (x : CtxCell) (b : Fin 256) (e : Barrier) : CtxCell :=
  { x with barriers := tabSet x.barriers b.val e }

/-- Whether the MASK of a configuration names the cell with this physical identifier (R255). -/
def maskNames (scope : Nat) (mask : BitVec 32) (phys : Nat) : Bool :=
  match scope with
  | 0 => true
  | 1 => mask.getLsbD (phys % 8)
  | _ => mask.getLsbD (clusterOf phys % 32)

/-- Whether a configuration word is valid for a cell (R255). -/
def barrierValid (w : Word) (phys : Nat) : Bool :=
  let mask : BitVec 32 := (w >>> 32).setWidth 32
  let scope := bitsOf w 18 16
  bitsOf w 31 19 = 0 && scope ≤ 2 && bitsOf w 15 0 != 0 &&
    (match scope with
      | 0 => mask = 0
      | 1 => bitsOf w 63 40 = 0
      | _ => true) &&
    maskNames scope mask phys

/-- The status of bset (R256). -/
def bsetStatus (e : Barrier) (w : Word) (phys : Nat) : Nat :=
  if e.arr ≠ 0 then 1 else if barrierValid w phys then 0 else 2

/-- A barrier configured (R256). -/
def Barrier.config (e : Barrier) (w : Word) : Barrier :=
  { e with
    mask := (w >>> 32).setWidth 32
    scope := BitVec.ofNat 3 (bitsOf w 18 16)
    count := w.setWidth 16
    swap := false }

/-- bset (R256). -/
def execBset (d a : GReg) (b : Fin 256) (s : State) : Res :=
  let e := barrierOf (ccOf s) b
  let st := bsetStatus e (readG s a) (physOf s s.curCell)
  let s1 := if st = 0 then putCcOf s (putBarrier (ccOf s) b (e.config (readG s a))) else s
  .next (finishG s1 d (BitVec.ofNat 64 st))

/-- The participants of a barrier by physical identifier: the present cells its MASK names (R255). -/
def participants (s : State) (e : Barrier) (phys : Nat) : List Nat :=
  (match e.scope.toNat with
    | 0 => [phys]
    | 1 => (List.range 8).map (fun i => phys / 8 * 8 + i) |>.filter (fun p => e.mask.getLsbD (p % 8))
    | _ => (List.range 256).map (fun i => phys / 256 * 256 + i)
        |>.filter (fun p => e.mask.getLsbD (clusterOf p % 32))).filter (cellPresent s)

/-- The stx numbers of a slot that have not landed. -/
def pendingStxs (s : State) (c : Nat) (k : Fin 4) : List Nat :=
  ((s.stxs.filter (fun m => m.cell = c && m.slot = k)).map (fun m => m.id)).eraseDups

/-- Whether every stx that a completed share waits for has landed (R257). -/
def stxsLanded (s : State) (ids : List Nat) : Bool :=
  ids.all (fun i => !s.stxs.any (fun m => m.id = i))

/-- The report of a share that is complete and whose stxs have landed, sent once to every participant (R257). -/
def tryReport (s : State) (c : Nat) (b : Fin 256) : State :=
  let x := ccAt s c
  let e := barrierOf x b
  if e.count ≠ 0 && e.arr = e.count && !e.reported && stxsLanded s e.stxs then
    let s1 := putCc s c (putBarrier x b { e with reported := true })
    { s1 with reports := s1.reports ++ (participants s e (physOf s c)).map (fun p =>
        ⟨logicalOf s p, physOf s c, x.desc.ctxid, b, e.gen + 1, e.swap⟩) }
  else s

/-- One arrival of the running slot at a barrier (R257). -/
def arriveAt (s : State) (b : Fin 256) (xch : Bool) : State :=
  let x := ccOf s
  let e := barrierOf x b
  let e' : Barrier := { e with
    arr := e.arr + 1
    swap := e.swap || xch
    stxs := e.stxs ++ pendingStxs s s.curCell s.curSlot }
  tryReport (putCcOf s (putBarrier x b e')) s.curCell b

/-- Whether the wait for a token is satisfied (R259). -/
def tokenReached (gen token : BitVec 32) : Bool := (gen - token).toNat < 2 ^ 31

/-- Whether an arrival is a bxch. -/
def isXch : Arrive → Bool
  | .bxch => true
  | _ => false

/-- An arrival, when this cell's share is not complete: barr goes on with the token, the others wait for it;
otherwise the slot waits to arrive (R257). -/
def arriveOrWait (s : State) (b : Fin 256) (form : Arrive) : State :=
  let e := barrierOf (ccOf s) b
  let t := e.gen + 1
  if e.arr = e.count then enterWait s (.arrive b form)
  else
    let s1 := leaveWait (arriveAt s b (isXch form))
    match form with
    | .barr d => finishG s1 d (t.setWidth 64)
    | .bsync => enterWait s1 (.token b t false)
    | .bxch => enterWait s1 (.token b t true)

/-- barr, bsync or bxch: ILLOP on an unset barrier (R257). -/
def barrierOp (opc : BitVec 12) (b : Fin 256) (form : Arrive) (s : State) : Res :=
  if (barrierOf (ccOf s) b).count = 0 then .next (trapIllop4 s opc)
  else .next (arriveOrWait s b form)

/-- barr (R257). -/
def execBarr (d : GReg) (b : Fin 256) (s : State) : Res := barrierOp 0x144 b (.barr d) s

/-- bsync (R257). -/
def execBsync (b : Fin 256) (s : State) : Res := barrierOp 0x148 b .bsync s

/-- bxch (R257). -/
def execBxch (b : Fin 256) (s : State) : Res := barrierOp 0x14A b .bxch s

/-- bwait: a token already reached departs at once (R259). -/
def execBwait (a : GReg) (b : Fin 256) (s : State) : Res :=
  let e := barrierOf (ccOf s) b
  let t : BitVec 32 := (readG s a).setWidth 32
  if e.count = 0 then .next (trapIllop4 s 0x146)
  else if tokenReached e.gen t then .next (advance s)
  else .next (enterWait s (.bwait b t))

/-! ## Reports and completion (R258) -/

/-- Whether a slot's wait at a barrier is satisfied (R258). -/
def waitReached (b : Fin 256) (gen : BitVec 32) : SlotRun → Bool
  | .wait (.bwait b' t) => b' = b && tokenReached gen t
  | .wait (.token b' t _) => b' = b && tokenReached gen t
  | _ => false

/-- The slots of a cell whose wait on a barrier is satisfied released (R258). -/
def releaseWaiters (s : State) (c : Nat) (b : Fin 256) (gen : BitVec 32) : State :=
  (List.finRange 4).foldl (fun s k =>
    let x := slotAt s c k
    if waitReached b gen x.run then putSlotAt s c k { x with run := .run, ip := x.ip + 1 } else s) s

/-- The swap of the banks, when there are any (10 R219). -/
def swapBanks (x : CtxCell) : CtxCell := if 0 < bankLen x then { x with topcoat := !x.topcoat } else x

/-- Whether a barrier holds the report of every participant for its next token (R258). -/
def allReported (s : State) (e : Barrier) (phys : Nat) : Bool :=
  (participants s e phys).all (fun p => e.reports.contains (p, e.gen + 1))

/-- A completion in the state of a context: the banks swap when any participant's arrivals have a bxch among them (R258; 13 R267;
log 63 DEDUCED). -/
def completeBarrier (x : CtxCell) (b : Fin 256) : CtxCell :=
  let e := barrierOf x b
  let x1 := if e.swap || e.swaps.contains (e.gen + 1) then swapBanks x else x
  putBarrier x1 b { e with
    swap := false
    arr := 0
    gen := e.gen + 1
    reports := e.reports.filter (fun r => r.2 != e.gen + 1)
    swaps := e.swaps.filter (fun t => t != e.gen + 1)
    stxs := []
    reported := false }

/-- barrierReport: a report reaches a participant, whose context may be saved (R258; log 38 DEDUCED). -/
def execBarrierReport (i : Nat) (s : State) : Res :=
  match s.reports[i]? with
  | none => .next s
  | some r =>
    let s0 := { s with reports := listDrop s.reports i }
    match ctxFind s0 r.dest r.ctxid with
    | none => .next s0
    | some x =>
      let e := barrierOf x r.b
      let e1 : Barrier := { e with
        reports := e.reports ++ [(r.source, r.token)]
        swaps := if r.swap then e.swaps ++ [r.token] else e.swaps }
      let x1 := putBarrier x r.b e1
      let phys := physOf s r.dest
      if e1.count ≠ 0 && allReported s e1 phys then
        let x2 := completeBarrier x1 r.b
        let s1 := ctxPut s0 r.dest r.ctxid x2
        .next (if isResident s r.dest r.ctxid then releaseWaiters s1 r.dest r.b (e.gen + 1) else s1)
      else .next (ctxPut s0 r.dest r.ctxid x1)

/-! ## The landing of stx (R260) -/

/-- The bytes of an stx that fit the receiver's banks, written to its undercoat (10 R218; R260). -/
def landBytes (x : CtxCell) (off : Nat) (bs : List Byte) : CtxCell :=
  let base := if x.topcoat then bankBase x else bankBase x + bankLen x
  let spad := (List.range bs.length).foldl (fun m i =>
    if off + i < bankLen x then memSet m (base + off + i) (bs.getD i 0) else m) x.spad
  { x with spad := spad }

/-- Whether an earlier stx of the same slot to the same cell has not landed (R260). -/
def stxBlocked (s : State) (i : Nat) (m : StxMsg) : Bool :=
  (s.stxs.take i).any (fun m' => m'.cell = m.cell && m'.slot = m.slot && m'.dest = m.dest && m'.id != m.id)

/-- Every barrier of a cell looked at for a report that its landed stxs allow. -/
def reportAll (s : State) (c : Nat) : State :=
  if (cellAt s c).live then
    (ccAt s c).barriers.foldl (fun s e => if h : e.1 < 256 then tryReport s c ⟨e.1, h⟩ else s) s
  else s

/-- stxLanding: an stx that has reached its receiver's die lands there, or is discarded there; it counts as landed (R260). -/
def execStxLanding (i : Nat) (s : State) : Res :=
  match s.stxs[i]? with
  | none => .next s
  | some m =>
    if stxBlocked s i m || !arrived s m.via then .next s
    else
      let s0 := { s with stxs := listDrop s.stxs i }
      let s1 := match ctxFind s0 m.dest m.ctxid with
        | none => s0
        | some x => ctxPut s0 m.dest m.ctxid (landBytes x m.off m.bytes)
      .next (reportAll s1 m.cell)

end Sys2Proof.Machine
end

