-- ==== Sys2Proof/Machine/Operands.lean ====
section
/-! DEFINITION. Operand forms: default types, immediates, v|g sources, masks, floating-point sources
(03 R45, R50, R56; 05 R91, R92; 06 R122-R124). -/

namespace Sys2Proof.Machine

/-- The type of an integer instruction whose default is .i64 (05 R93). -/
def ity (t : Option IntTy) : IntTy := t.getD .i64

/-- The type of a bit instruction, whose default is .n64 (05 R93). -/
def bty (t : Option IntTy) : IntTy := t.getD .n64

/-- The type of a floating-point instruction (05 R93). -/
def fty (t : Option FpTy) : FpTy := t.getD .f32

/-- The lane type of an integer vector instruction (06 R125). -/
def vity (t : Option LaneInt) : LaneInt := t.getD .i32

/-- The lane type of a vector shift, whose default is .n32 (06 R125). -/
def vbty (t : Option LaneInt) : LaneInt := t.getD .n32

/-- The lane type of an untyped-by-kind vector instruction (06 R125). -/
def vlty (t : Option LaneTy) : LaneTy := t.getD (.int .i32)

/-- An immediate where the B operand would stand (03 R45). -/
def immWord (imm : BitVec 56) : Word := imm.signExtend 64

/-- A relative target (03 R56). -/
def relTarget (ip : InstrIx) (imm : BitVec 56) : InstrIx := ip + imm.setWidth 32

/-- A g source of a floating-point instruction: the low bits of the format (05 R92). -/
def fpSrc (t : FpTy) (w : Word) : FpBits := fpTrunc t (w.setWidth 32)

/-- A floating-point result, zero-extended (05 R92). -/
def fpOut (t : FpTy) (x : FpBits) : Word := (fpTrunc t x).setWidth 64

/-- Lane i of a B operand at width n: a v register's lane, or the low bits of a g register (06 R123). -/
def srcLane (s : State) (n : Nat) (b : VSrc) (i : Nat) : BitVec n :=
  match b with
  | .v r => lane n (readV s r) i
  | .g r => (readG s r).setWidth n

/-- The count of a vector shift: the lane read unsigned, or all 64 bits of a g register (06 R123, R130). -/
def shiftCount (s : State) (n : Nat) (b : VSrc) (i : Nat) : Nat :=
  match b with
  | .v r => (lane n (readV s r) i).toNat
  | .g r => (readG s r).toNat

/-- The mask of a mask field (06 R124). -/
def maskVal (s : State) (m : Option MReg) : Option MaskWord := m.map (readM s)

/-- A v destination of lane width n under a mask, and IP advanced (06 R124). -/
def finishLanes (s : State) (n : Nat) (d : VReg) (k : MaskSel) (f : Nat → BitVec n) : State :=
  finishV s d (maskedLanes n (maskVal s k.mask) k.z (readV s d) f)

end Sys2Proof.Machine
end

