-- ==== Sys2Proof/Machine/BitOps.lean ====
section
/-! DEFINITION. Scalar bit operations (05 R101-R103). -/

namespace Sys2Proof.Machine

/-- The low N bits of a source. -/
def lowBits (t : IntTy) (w : Word) : BitVec (intWidth t) := w.setWidth (intWidth t)

/-- A shift or rotate of g[A] by a count read as an unsigned 64-bit number (R101). -/
def shiftResult (t : IntTy) (f : BitVec (intWidth t) → Nat → BitVec (intWidth t)) (a c : Word) : Word :=
  outBits t (f (lowBits t a) c.toNat)

/-- shl (R101). -/
def execShl (t : Option IntTy) (d a b : GReg) (s : State) : Res :=
  .next (finishG s d (shiftResult (bty t) shlBits (readG s a) (readG s b)))

/-- shl with an immediate count (R101, 03 R56). -/
def execShlImm (d a : GReg) (imm : BitVec 56) (s : State) : Res :=
  .next (finishG s d (shiftResult .n64 shlBits (readG s a) (immWord imm)))

/-- shr (R101). -/
def execShr (t : Option IntTy) (d a b : GReg) (s : State) : Res :=
  .next (finishG s d (shiftResult (bty t) shrBits (readG s a) (readG s b)))

/-- shr with an immediate count (R101, 03 R56). -/
def execShrImm (d a : GReg) (imm : BitVec 56) (s : State) : Res :=
  .next (finishG s d (shiftResult .n64 shrBits (readG s a) (immWord imm)))

/-- sar (R101). -/
def execSar (t : Option IntTy) (d a b : GReg) (s : State) : Res :=
  .next (finishG s d (shiftResult (bty t) sarBits (readG s a) (readG s b)))

/-- sar with an immediate count (R101, 03 R56). -/
def execSarImm (d a : GReg) (imm : BitVec 56) (s : State) : Res :=
  .next (finishG s d (shiftResult .n64 sarBits (readG s a) (immWord imm)))

/-- rotl (R101). -/
def execRotl (t : Option IntTy) (d a b : GReg) (s : State) : Res :=
  .next (finishG s d (shiftResult (bty t) rotlBits (readG s a) (readG s b)))

/-- rotl with an immediate count (R101, 03 R56). -/
def execRotlImm (d a : GReg) (imm : BitVec 56) (s : State) : Res :=
  .next (finishG s d (shiftResult .n64 rotlBits (readG s a) (immWord imm)))

/-- clz, the count zero-extended (R102). -/
def execClz (t : Option IntTy) (d a : GReg) (s : State) : Res :=
  .next (finishG s d (BitVec.ofNat 64 (leadZeros (lowBits (bty t) (readG s a)) (intWidth (bty t)))))

/-- ctz, the count zero-extended (R102). -/
def execCtz (t : Option IntTy) (d a : GReg) (s : State) : Res :=
  .next (finishG s d (BitVec.ofNat 64 (trailZeros (lowBits (bty t) (readG s a)) (intWidth (bty t)))))

/-- popc, the count zero-extended (R102). -/
def execPopc (t : Option IntTy) (d a : GReg) (s : State) : Res :=
  .next (finishG s d (BitVec.ofNat 64 (popCount (lowBits (bty t) (readG s a)) (intWidth (bty t)))))

/-- bext; only .i64 sign-extends (R103). -/
def execBext (t : Option WideTy) (d a : GReg) (pos len1 : Fin 64) (s : State) : Res :=
  let l := len1.val + 1
  let f := BitVec.ofNat 64 ((readG s a).toNat / 2 ^ pos.val % 2 ^ l)
  .next (finishG s d (match t with
    | some .i64 => if f.getLsbD (l - 1) then f ||| (BitVec.allOnes 64 <<< l) else f
    | _ => f))

/-- bins; D is a source too (R103). -/
def execBins (d a : GReg) (pos len1 : Fin 64) (s : State) : Res :=
  .next (finishG s d (putBits (readG s d) (pos.val + len1.val) pos.val (readG s a).toNat))

/-- The type of bswap (05 R93). -/
def swapType : Option SwapTy → IntTy
  | some .i16 => .i16
  | some .i32 => .i32
  | some .i64 => .i64
  | some .n16 => .n16
  | some .n32 => .n32
  | some .n64 | none => .n64

/-- bswap (R102). -/
def execBswap (t : Option SwapTy) (d a : GReg) (s : State) : Res :=
  .next (finishG s d (outBits (swapType t) (swapBytes (lowBits (swapType t) (readG s a)))))

end Sys2Proof.Machine
end

