-- ==== Sys2Proof/Machine/Bx.lean ====
section
/-! DEFINITION. The BX block formats: elements, packing, unpacking, the running trailer state and the finalised
trailer (04 R79-R87; 06 R136-R140). -/

namespace Sys2Proof.Machine

/-- P of a format (R79). -/
def bxPlaces : BxTy → Nat
  | .bx8 => 5
  | .bx4 => 1

/-- The largest magnitude of a format (R83). -/
def bxMaxMag : BxTy → Nat
  | .bx8 => 63
  | .bx4 => 3

/-- The element width (R79). -/
def bxWidth : BxTy → Nat
  | .bx8 => 8
  | .bx4 => 4

/-- The FMT code of a trailer (R85). -/
def bxFmt : BxTy → Nat
  | .bx8 => 1
  | .bx4 => 2

/-- A value of a BX element, or an operand of the MXU: a NaN, an infinity or a finite value m·2^e. -/
inductive RealVal where
  | nan
  | inf (neg : Bool)
  | fin (neg : Bool) (m : Nat) (e : Int)
deriving DecidableEq, Repr

/-- The value of an element under its block's exponents (R79, R80). -/
def bxValue (f : BxTy) (e0 e1 : Nat) (el : Nat) : RealVal :=
  let mag := el % (bxMaxMag f + 1)
  let sel := el / (bxMaxMag f + 1) % 2 = 1
  let neg := el / (2 * (bxMaxMag f + 1)) % 2 = 1
  if e0 = 255 || e1 = 255 then .nan
  else if neg && mag = 0 then .nan
  else .fin neg mag ((if sel then e1 else e0 : Nat) - 127 - bxPlaces f)

/-- Unpacking one element to FP32; `tag` is that of the NaN it may create (R84). -/
def bxUnpack (f : BxTy) (tag : BitVec 22) (e0 e1 el : Nat) : FpBits :=
  match bxValue f e0 e1 el with
  | .fin neg m e => fpRound .f32 .rne neg m e
  | _ => nanCreated .f32 tag

/-- The bytes of an element list, two elements to a byte in BX4, the even one low (R81). -/
def bxBytes (f : BxTy) (els : List Nat) : List Byte :=
  match f with
  | .bx8 => els.map (BitVec.ofNat 8)
  | .bx4 => (List.range (els.length / 2)).map
      (fun j => BitVec.ofNat 8 (els.getD (2 * j) 0 + 16 * els.getD (2 * j + 1) 0))

/-- Element i of element bytes (R81). -/
def bxElement (f : BxTy) (bs : List Byte) (i : Nat) : Nat :=
  match f with
  | .bx8 => (bs.getD i 0).toNat
  | .bx4 => (bs.getD (i / 2) 0).toNat / (if i % 2 = 0 then 1 else 16) % 16

/-! ## Packing (R83) -/

/-- One element as packed, with whether it saturated, was a NaN or was an infinity. -/
structure BxElem where
  bits : Nat
  sat : Bool
  nan : Bool
  inf : Bool
deriving DecidableEq, Repr

/-- The bits (s, sel, m) of an element (R79). -/
def bxBits (f : BxTy) (s sel : Bool) (m : Nat) : Nat :=
  m + (bxMaxMag f + 1) * (sel.toNat + 2 * s.toNat)

/-- Packing one value under the block's exponents (R83). -/
def bxPackElem (f : BxTy) (e0 e1 : Nat) (x : FpBits) : BxElem :=
  if fpIsNan .f32 x then ⟨bxBits f true false 0, false, true, false⟩
  else if fpIsInf .f32 x then ⟨bxBits f (fpNeg .f32 x) true (bxMaxMag f), true, false, true⟩
  else
    let sig := fpSig .f32 x
    let ex := fpExp .f32 x
    -- |x| < 2^(E0 - 126)
    let below : Bool :=
      if (e0 : Int) - 126 ≤ ex then sig * 2 ^ (ex - ((e0 : Int) - 126)).toNat < 1
      else sig < 2 ^ ((e0 : Int) - 126 - ex).toNat
    let e := if below then e0 else e1
    let m := roundToNat .rne false sig (ex + 127 + bxPlaces f - e)
    let m' := min m (bxMaxMag f)
    ⟨bxBits f (m' ≠ 0 && fpNeg .f32 x) (!below) m', bxMaxMag f < m, false, false⟩

/-- The magnitude of a finite value, 0 for a NaN or an infinity (M of R83, as FP32 bits). -/
def bxFinMag (x : FpBits) : Nat :=
  if fpIsNan .f32 x || fpIsInf .f32 x then 0 else fpMag .f32 x

/-- The largest finite magnitude M of a block (R83), as FP32 bits. -/
def bxBlockMag (xs : List FpBits) : Nat := xs.foldl (fun m x => max m (bxFinMag x)) 0

/-- floor(log2 M) + 127, not below 0, for M as FP32 bits; 0 for M = 0 (R83). -/
def bxExp1 (m : Nat) : Nat :=
  if m = 0 then 0
  else
    let b := BitVec.ofNat 32 m
    (fpExp .f32 b + Nat.log2 (fpSig .f32 b) + 127).toNat

/-- A packed block with what it adds to the running trailer state (R83). -/
structure BxBlock where
  e0 : Nat
  e1 : Nat
  elems : List BxElem
  maxmag : Nat
deriving DecidableEq, Repr

/-- Packing 32 values with spread d (R83). -/
def bxPack (f : BxTy) (d : Nat) (xs : List FpBits) : BxBlock :=
  let m := bxBlockMag xs
  let e1 := bxExp1 m
  let e0 := e1 - d
  ⟨e0, e1, xs.map (bxPackElem f e0 e1), m⟩

/-! ## Trailers (R85, R137, R140) -/

/-- The content of a trailer or of a running trailer state. -/
structure Trailer where
  pcrc : BitVec 32
  crc : BitVec 32
  final : Bool
  fmt : Nat
  nan : Bool
  inf : Bool
  elems : Nat
  satcnt : Nat
  maxmag : Nat
deriving DecidableEq, Repr

/-- The 256 bits of a trailer under R85; R137's PCRC stands in [191:160], 0 in a finalised one. -/
def trailerBits (t : Trailer) : Nat :=
  t.maxmag + t.satcnt * 2 ^ 32 + t.elems * 2 ^ 64 + t.inf.toNat * 2 ^ 96 + t.nan.toNat * 2 ^ 97 +
  t.fmt * 2 ^ 104 + t.final.toNat * 2 ^ 127 + t.crc.toNat * 2 ^ 128 + t.pcrc.toNat * 2 ^ 160

/-- The fields of 256 bits (R85, R137). -/
def trailerOf (x : Nat) : Trailer where
  maxmag := x % 2 ^ 32
  satcnt := x / 2 ^ 32 % 2 ^ 32
  elems := x / 2 ^ 64 % 2 ^ 32
  inf := x.testBit 96
  nan := x.testBit 97
  fmt := x / 2 ^ 104 % 4
  final := x.testBit 127
  crc := BitVec.ofNat 32 (x / 2 ^ 128)
  pcrc := BitVec.ofNat 32 (x / 2 ^ 160)

/-- The largest count of a trailer field; counts saturate there (R85). -/
def count32 (x : Nat) : Nat := min x (2 ^ 32 - 1)

/-- The running state after a block whose element and plane bytes are these: its MAXMAG the larger of the two as raw 32-bit numbers, even
where the field holds a negative or NaN pattern (R83, R138; log 64 DESIGN CHOICE). -/
def trailerAdd (f : BxTy) (t : Trailer) (b : BxBlock) : Trailer where
  pcrc := crcContinue t.pcrc [BitVec.ofNat 8 b.e0, BitVec.ofNat 8 b.e1]
  crc := crcContinue t.crc (bxBytes f (b.elems.map BxElem.bits))
  final := false
  fmt := bxFmt f
  nan := t.nan || b.elems.any BxElem.nan
  inf := t.inf || b.elems.any BxElem.inf
  elems := count32 (t.elems + b.elems.length)
  satcnt := count32 (t.satcnt + b.elems.countP BxElem.sat)
  maxmag := max t.maxmag b.maxmag

/-- The finalised trailer of a running state (R140). -/
def trailerFinal (t : Trailer) : Trailer :=
  { t with crc := crcCombine t.crc t.pcrc (2 * (t.elems / 32)), pcrc := 0, final := true }

/-- The check of R87 but for the CRC over the tile: the trailer's 256 bits against a format and R × C. -/
def trailerFits (x : Nat) (f : BxTy) (elems : Nat) (crc : BitVec 32) : Bool :=
  let t := trailerOf x
  t.final && t.fmt = bxFmt f && t.elems = elems && t.crc = crc && trailerBits t = x % 2 ^ 256 && t.pcrc = 0

end Sys2Proof.Machine
end

