-- ==== Sys2Proof/Machine/System.lean ====
section
/-! DEFINITION. System instructions: trap, tret, twait, tabort, fpost, tlbinv, shand, and the mts forms of scarve and
svgroup (10 R213, R214; 18 R346-R354; 20 R370, R371, R375). -/

namespace Sys2Proof.Machine

/-! ## trap, tret, tabort -/

/-- Whether the slot is at trap level 0. -/
def atLevel0 (s : State) : Bool := (slotOf s).level = 0

/-- trap (R347). -/
def execTrap (code : BitVec 16) (s : State) : Res :=
  .next (takeTrap s 0x0F (ipOf s + 1) 0 (infoArg 0 0 code.toNat))

/-- tret (R348). -/
def execTret (s : State) : Res :=
  if atLevel0 s then .next (trapPriv s 0x182) else .next (returnTrap s)

/-- tabort (R354). -/
def execTabort (s : State) : Res :=
  if atLevel0 s then .next (trapPriv s 0x186) else .next (abortActivation s)

/-! ## fpost and twait (R351, R352) -/

/-- The page part of a fault key (R349). -/
def keyPage (a : Word) : BitVec 39 := BitVec.ofNat 39 (bitsOf a 54 16)

/-- The router of the cluster of a physical cell identifier: 33·die + cluster. -/
def clusterRouter (p : Nat) : RouterId := 33 * dieOf p + clusterOf p % 32

/-- The root of a die. -/
def rootRouter (d : Nat) : RouterId := 33 * d + 32

/-- A post sent by an agent of a cell to its cluster router (R349). -/
def sendPost (s : State) (c : Nat) (who : Poster) (page : BitVec 39) (kind : AccessKind) : State :=
  let d := (ccAt s c).desc
  { s with scrim := { s.scrim with posts := s.scrim.posts ++
      [⟨clusterRouter (physOf s c), .agent who, d.ctxid, page, kind, .none, 32, d.psvc⟩] } }

/-- ADDR of an address operand checked without an access (18 R345). -/
def trapOperandAddr (s : State) (a : Word) (opc : BitVec 12) : State :=
  trapHere s 6 a (infoAccess 0 false 10 opc)

/-- fpost post: PEND set and the post sent; complete once the router has accepted it (R351). -/
def execFpostPost (a : GReg) (k : AccessKind) (s : State) : Res :=
  let w := readG s a
  if atLevel0 s then .next (trapPriv s 0x188)
  else if bitsOf w 63 55 ≠ 0 then .next (trapOperandAddr s w 0x188)
  else
    let x := slotOf s
    let s1 := putSlot s { x with
      pend := some ⟨(ccOf s).desc.ctxid, keyPage w, k, .none⟩
      stall := .fpost false }
    .next (sendPost s1 s.curCell (.slot s.curCell s.curSlot) (keyPage w) k)

/-- A wake of the running slot sent to the root of a die, by a lath when that is another (R351; 20 R377). -/
def sendWake (ctxid : BitVec 16) (page : BitVec 39) (ok : Bool) (s : State) (d : Nat) : State :=
  let w : WakeMsg := ⟨rootRouter d, ctxid, page, ok, some (s.curCell, s.curSlot), nextTransit s (myDie s) d⟩
  sendMessage { s with scrim := { s.scrim with wakes := s.scrim.wakes ++ [w] } } (myDie s) d

/-- fpost serve: a wake sent to the four roots; complete once all have accepted it (R351). -/
def execFpostServe (a b : GReg) (fail : Bool) (s : State) : Res :=
  if !(ccOf s).desc.sys then .next (trapPriv s 0x188)
  else
    let ctxid : BitVec 16 := (readG s b).setWidth 16
    let page := keyPage (readG s a)
    .next ((List.range 4).foldl (sendWake ctxid page (!fail)) (setStall s (.serve 4)))

/-- Whether a slot's PEND holds a key. -/
def pendMatches (x : Slot) (ctxid : BitVec 16) (page : BitVec 39) : Bool :=
  match x.pend with
  | some p => p.ctxid = ctxid && p.page = page
  | none => false

/-- A twait whose PEND is done: the outcome written and PEND cleared (R352). -/
def finishTwait (s : State) (d : GReg) (ok : Bool) : State :=
  finishG (putSlot s { slotOf s with run := .run, pend := .none }) d (if ok then 0 else 1)

/-- twait (R352). -/
def execTwait (d a : GReg) (s : State) : Res :=
  let x := slotOf s
  if atLevel0 s then .next (trapPriv s 0x184)
  else if !pendMatches x (ccOf s).desc.ctxid (keyPage (readG s a)) then .next (finishG s d 2)
  else
    match x.pend.bind (fun p => p.outcome) with
    | some ok => .next (finishTwait s d ok)
    | none => .next (enterWait s (.twait d))

/-! ## tlbinv (R353) -/

/-- Every entry of every TLB, and every intermediate entry of a walker, that `keep` or `hold` rejects dropped. -/
def tlbFilter (s : State) (keep : TlbEntry → Bool) (hold : WalkEntry → Bool) : State :=
  { s with tlbs := { s.tlbs with
      l1 := s.tlbs.l1.map (fun e => (e.1, e.2.filter keep))
      l2 := s.tlbs.l2.map (fun e => (e.1, e.2.filter keep))
      walks := s.tlbs.walks.map (fun e => (e.1, e.2.filter hold)) } }

/-- Whether a cached translation of a context covers an address. -/
def tlbCovers (ctxid : BitVec 16) (a : Nat) (e : TlbEntry) : Bool :=
  e.ctxid = ctxid && e.va = a / 2 ^ e.size * 2 ^ e.size

/-- Whether an intermediate entry of a context serves an address. -/
def walkCovers (ctxid : BitVec 16) (a : Nat) (e : WalkEntry) : Bool :=
  e.ctxid = ctxid && e.top = if e.level = 2 then a / 2 ^ 42 else a / 2 ^ 30

/-- The level and context that tlbinv needs (R346). -/
def tlbinvAllowed (s : State) : TlbExtent → Bool
  | .all => (ccOf s).desc.sys
  | _ => privileged s

/-- tlbinv (R353). -/
def execTlbinv (e : TlbExtent) (s : State) : Res :=
  let ctxid := (ccOf s).desc.ctxid
  if !tlbinvAllowed s e then .next (trapPriv s 0x18A)
  else
    match e with
    | .page a =>
      let w := readG s a
      if bitsOf w 63 55 ≠ 0 then .next (trapOperandAddr s w 0x18A)
      else .next (advance (tlbFilter s (fun t => !tlbCovers ctxid w.toNat t) (fun t => !walkCovers ctxid w.toNat t)))
    | .context => .next (advance (tlbFilter s (fun t => t.ctxid != ctxid) (fun t => t.ctxid != ctxid)))
    | .all => .next (advance (tlbFilter s (fun _ => false) (fun _ => false)))

/-! ## shand (20 R370, R371, R375) -/

/-- The two dies a stack is wired to (01 R14). -/
def pairOf (k : Fin 12) : Fin 4 × Fin 4 :=
  if k.val < 3 then (0, 1) else if k.val < 6 then (1, 3) else if k.val < 9 then (3, 2) else (2, 0)

/-- Whether a hand-over of a stack is in progress. -/
def isBusy (s : State) (d : Nat) (k : Fin 12) : Bool :=
  (tableOf s d).busy.getLsbD k.val || s.dies.handovers.any (fun h => h.stack = k)

/-- The status that shand gets at once, or the hand-over that it starts (R371). -/
def shandCheck (s : State) (q : Word) : Nat ⊕ Handover :=
  if h : bitsOf q 3 0 < 12 then
    let k : Fin 12 := ⟨bitsOf q 3 0, h⟩
    let t : Fin 4 := Fin.ofNat 4 (bitsOf q 9 8)
    let me := dieOf (physOf s s.curCell)
    let o := (tableOf s me).owner[k]
    let pr := pairOf k
    if !s.plat.stackBits.getLsbD k.val || (t != pr.1 && t != pr.2) then .inl 2
    else if isFenced s pr.1 || isFenced s pr.2 then .inl 4
    else if isBusy s o.val k then .inl 3
    else if o = t then .inl 1
    else .inr ⟨k, o, t, 0, false, some (s.curCell, s.curSlot)⟩
  else .inl 2

/-- The die to whose memory controller a shand request goes: the owner of its stack; none for a request that names no stack. -/
def shandDie (s : State) (q : Word) : Option (Fin 4) :=
  if h : bitsOf q 3 0 < 12 then some (tableOf s (myDie s)).owner[bitsOf q 3 0] else none

/-- The die that answers a shand request. -/
def shandFrom (s : State) (q : Word) : Nat := ((shandDie s q).map (fun o => o.val)).getD (myDie s)

/-- Whether a shand request is at the controller that checks it; one that is fenced needs no answer (R371). -/
def shandThere (s : State) (q : Word) : Bool :=
  match shandDie s q with
  | some o => isThere s o.val || isFenced s o
  | none => true

/-- shand, operation 0: the request goes to the owner, and the slot stalls in RUN until the hand-over ends (R371). -/
def execShand (d a : GReg) (s : State) : Res :=
  let q := readG s a
  if !(ccOf s).desc.sys then .next (trapPriv s 0x18C)
  else if bitsOf q 63 10 ≠ 0 || bitsOf q 7 4 ≠ 0 then .next (trapIllop4 s 0x18C)
  else
    if !shandThere s q then .next (sendTrip s (shandFrom s q))
    else
    match shandCheck s q with
    | .inl n => .next (replyFrom (setStall s .none) (shandFrom s q) d (BitVec.ofNat 64 n))
    | .inr h =>
      let s1 := setStall s (.shand d)
      .next { s1 with dies := { s1.dies with handovers := s1.dies.handovers ++ [h] } }

/-- The answer of shand, operation 1 (R375). -/
def shandQueryWord (t : DieTable) : Word :=
  BitVec.ofNat 64 (t.fenced.toNat * 2 ^ 44 + t.busy.toNat * 2 ^ 32 +
    (List.finRange 12).foldl (fun n k => n + t.owner[k].val * 4 ^ k.val) 0)

/-- shand, operation 1 (R375). -/
def execShandQuery (d : GReg) (s : State) : Res :=
  .next (finishG s d (shandQueryWord (tableOf s (dieOf (physOf s s.curCell)))))

/-! ## scarve and svgroup (10 R213, R214) -/

/-- Whether a scarve value is reserved or does not fit (R213). -/
def carveBad (w : Word) : Bool :=
  let spad := bitsOf w 3 0
  spad < 2 || 8 < spad || 128 < bitsOf w 23 16 ||
    spad * 131072 < bitsOf w 15 8 * 4096 + 2 * bitsOf w 23 16 * 512

/-- Whether a tile an engine owns would leave the scratchpad, or move into or out of the banks (R213). -/
def carveOwned (x : CtxCell) (w : Word) : Bool :=
  let y := { x with scarve := w }
  x.tiles.any (fun e => padSize y ≤ e.1 * 4096 || tileInBanks x e.1 != tileInBanks y e.1)

/-- The value scarve keeps: its reserved bits read 0. -/
def carveWord (w : Word) : Word := keepBits w 23 8 ||| keepBits w 3 0

/-- scarve changed: bytes that leave are lost, space that joins reads 0 (R213). -/
def CtxCell.carve (x : CtxCell) (w : Word) : CtxCell :=
  let moved : Bool := bitsOf w 23 8 != bitsOf x.scarve 23 8
  let y := { x with scarve := carveWord w, topcoat := x.topcoat && !moved }
  { y with
    spad := y.spad.filter (fun e => e.1 < padSize x && e.1 < padSize y)
    padPoison := y.padPoison.filter (fun k => k * 32 < padSize y) }

/-- The lines of the victim shares of cells dropped: they are clean (R213-R215). -/
def dropShares (s : State) (ps : List Nat) : State :=
  putCoh s { s.coh with vic := s.coh.vic.filter (fun e => !ps.contains (e.1 / 2 ^ 40)) }

/-- The lines of a share that has shrunk dropped (R213). -/
def shrinkShare (s : State) (c : Nat) (old : CtxCell) : State :=
  if padSize old < padSize (ccAt s c) then dropShares s [physOf s c] else s

/-- mts to scarve (R213). -/
def execMtsScarve (a : GReg) (s : State) : Res :=
  let w := readG s a
  if !privileged s then .next (trapSpecial s .scarve 0x0C4)
  else if carveBad w || carveOwned (ccOf s) w then .next (advance s)
  else .next (advance (shrinkShare (putCcOf s ((ccOf s).carve w)) s.curCell (ccOf s)))

/-- The lines of the old pool of a cell and of its new one dropped when POOL has changed (R214). -/
def dropPools (s : State) (c : Nat) (old : CtxCell) : State :=
  let p := physOf s c
  let k := bitsOf old.svgroup 1 0
  if poolNo s p = k then s else dropShares s (poolGroup s p k ++ poolGroup s p (poolNo s p))

/-- POOL of a cell changed (R214). -/
def setPool (s : State) (c : Nat) (w : Word) : State := dropPools (putCc s c { ccAt s c with svgroup := w }) c (ccAt s c)

/-- The victim shares after the context of a cell has changed: one that shrank, and pools that changed, lose their lines (R213,
R214). -/
def settleShares (s : State) (c : Nat) (old : CtxCell) : State := dropPools (shrinkShare s c old) c old

/-- mts to svgroup (R214, R215). -/
def execMtsSvgroup (a : GReg) (s : State) : Res :=
  if !privileged s then .next (trapSpecial s .svgroup 0x0C4)
  else .next (advance (setPool s s.curCell (keepBits (readG s a) 1 0)))

end Sys2Proof.Machine
end

