-- ==== Sys2Proof/Machine/Engines.lean ====
section
/-! DEFINITION. Engine instructions: tiles given and taken, copy channels, shape entries, the command queue of the MXU
(14 R277-R293, R298). -/

namespace Sys2Proof.Machine

/-! ## Tiles (R277-R279) -/

/-- The window address of a tile, modulo 2^64 (R277). -/
def tileAddr (t : Nat) : Word := BitVec.ofNat 64 (0xFE00 * 2 ^ 48 + 4096 * t)

/-- The number of tiles of the scratchpad (R277). -/
def tileCount (x : CtxCell) : Nat := bitsOf x.scarve 3 0 * 32

/-- The first tile beyond the scratchpad in a range, if any (check 1 of R277). -/
def tileBeyond (x : CtxCell) (t0 n : Nat) : Option Nat :=
  if t0 + n ≤ tileCount x then none else some (max t0 (tileCount x))

/-- ADDR on a tile of a range (R277). -/
def trapTile (s : State) (t0 f : Nat) (opc : BitVec 12) : State :=
  trapHere s 6 (tileAddr f) (infoAccess 0 (laterPage (tileAddr t0) (tileAddr f)) 6 opc)

/-- The tiles of a range. -/
def tileRange (t0 n : Nat) : List Nat := (List.range n).map (fun i => t0 + i)

/-- tgive (R277). -/
def execTgive (a : GReg) (n1 : Fin 256) (e : Engine) (s : State) : Res :=
  let x := ccOf s
  let t0 := readN s a
  let n := n1.val + 1
  match tileBeyond x t0 n with
  | some f => .next (trapTile s t0 f 0x1C6)
  | none =>
    match (tileRange t0 n).find? (tileInBanks x) with
    | some f => .next (trapTile s t0 f 0x1C6)
    | none =>
      match (tileRange t0 n).find? (fun t => (tileOwner x t).isSome) with
      | some f => .next (trapTile s t0 f 0x1C6)
      | none => .next (advance (putCcOf s { x with tiles := (tileRange t0 n).foldl (fun m t => tabSet m t e) x.tiles }))

/-- Whether the cell owns every tile of a range (R278). -/
def cellOwns (x : CtxCell) (t0 n : Nat) : Bool := (tileRange t0 n).all (fun t => (tileOwner x t).isNone)

/-- ttake (R278). -/
def execTtake (a : GReg) (n1 : Fin 256) (s : State) : Res :=
  let x := ccOf s
  let t0 := readN s a
  let n := n1.val + 1
  match tileBeyond x t0 n with
  | some f => .next (trapTile s t0 f 0x1C8)
  | none => if cellOwns x t0 n then .next (advance s) else .next (enterWait s (.ttake t0 n))

/-- The tiles a scratchpad range touches. -/
def tilesOf (off len : Nat) : List Nat :=
  if len = 0 then [] else tileRange (off / 4096) ((off + len - 1) / 4096 - off / 4096 + 1)

/-- The first byte of a range whose tile is beyond the scratchpad, overlaps the banks or is not an engine's. -/
def notOwned (x : CtxCell) (e : Engine) (off len : Nat) : Option Nat :=
  ((tilesOf off len).find? (fun t => tileCount x ≤ t || tileInBanks x t || tileOwner x t != some e)).map
    (fun t => max off (4096 * t))

/-- ADDR at a byte of a scratchpad range of an engine operand. -/
def trapPad (s : State) (off bad : Nat) (opc : BitVec 12) : State :=
  let w (o : Nat) : Word := BitVec.ofNat 64 (0xFE00 * 2 ^ 48 + o)
  trapHere s 6 (w bad) (infoAccess 0 (laterPage (w off) (w bad)) 6 opc)

/-! ## Copy channels (R280-R284) -/

/-- The pointer value of a channel (R280). -/
def pointerWord (c : CopyChan) : Word := BitVec.ofNat 64 (c.error.toNat * 2 ^ 63 + c.wp % 2 ^ 63)

/-- The base of the next transfer: where the last queued one will end (R281, R282). -/
def nextBase (c : CopyChan) : Nat :=
  match c.queue.getLast? with
  | some t => t.base + t.len
  | none => c.wp

/-- A channel put. -/
def putChan (s : State) (c : Nat) (ch : Fin 2) (x : CopyChan) : State :=
  putCc s c { ccAt s c with cch := (ccAt s c).cch.set ch x }

/-- A transfer appended to a channel with room (R281). -/
def appendTransfer (s : State) (d : GReg) (ch : Fin 2) (t : Transfer) : State :=
  let c := (ccOf s).cch[ch]
  let b := nextBase c
  let s1 := putChan s s.curCell ch { c with queue := c.queue ++ [{ t with base := b }], error := false }
  finishG (setStall s1 .none) d (BitVec.ofNat 64 b)

/-- A transfer appended, or the slot stalled while the channel holds four (R281). -/
def pushTransfer (s : State) (d : GReg) (ch : Fin 2) (t : Transfer) : State :=
  if 4 ≤ (ccOf s).cch[ch].queue.length then setStall s (.cpy d ch t) else appendTransfer s d ch t

/-- The engine a channel is. -/
def chanEngine (ch : Fin 2) : Engine := if ch = 0 then .cch0 else .cch1

/-- cpy (R281). -/
def execCpy (d a : GReg) (out : Bool) (ch : Fin 2) (s : State) : Res :=
  let m := readG s a
  let w1 := readG s (regAt a 1)
  let w2 := readG s (regAt a 2)
  let o := bitsOf w1 19 0
  let rows := bitsOf w2 63 32
  let rb := bitsOf w2 31 0
  if rows = 0 || rb = 0 || 2 ^ 20 < rows * rb || bitsOf w1 63 20 ≠ 0 then .next (trapIllop4 s 0x1C0)
  else if bitsOf m 63 55 ≠ 0 then .next (trapHere s 6 m (infoAccess 0 false 6 0x1C0))
  else
    match notOwned (ccOf s) (chanEngine ch) o (rows * rb) with
    | some b => .next (trapPad s o b 0x1C0)
    | none => .next (pushTransfer s d ch ⟨out, m, o, rows, rb, readG s (regAt a 3), 0, s.curSlot⟩)

/-- cpwp (R284). -/
def execCpwp (d : GReg) (ch : Fin 2) (s : State) : Res :=
  .next (finishG s d (pointerWord (ccOf s).cch[ch]))

/-- Whether a cpwait is over (R284). -/
def pointerReached (c : CopyChan) (target : Nat) : Bool := c.error || target ≤ c.wp

/-- cpwait (R284). -/
def execCpwait (d a : GReg) (ch : Fin 2) (s : State) : Res :=
  let c := (ccOf s).cch[ch]
  let target := bitsOf (readG s a) 62 0
  if pointerReached c target then .next (finishG s d (pointerWord c))
  else .next (enterWait s (.cpwait d ch target))

/-! ## Shape entries (R286-R289) -/

/-- SHAPE (R289; log 30 DEDUCED). -/
def trapShape (s : State) (opc : BitVec 12) (handle reason opnd : Nat) : State :=
  trapHere s 0x0B 0 (BitVec.ofNat 64 (handle * 2 ^ 32 + reason * 2 ^ 16 + opnd * 2 ^ 14 + opc.toNat))

/-- The address of an entry of the context's shape table (R286). -/
def entryAddr (s : State) (slot : Nat) : Word := (ccOf s).desc.shapes + BitVec.ofNat 64 (64 * slot)

/-- An entry read as a load of the slot (R287). -/
def readEntry (s : State) (kind : Nat) (opc : BitVec 12) (slot : Nat) : LoadResult :=
  let a := entryAddr s slot
  loadBytes s ⟨kind, opc, true, false, false, true⟩ a (addrsFrom a 64)

/-- Bytes of an entry stored by the slot (R287, R288). -/
def storeEntry (s : State) (opc : BitVec 12) (slot off : Nat) (bs : List Byte) : StoreResult :=
  let a := entryAddr s slot + BitVec.ofNat 64 off
  storeBytes s ⟨9, opc, false, true, false, false⟩ a (addrsFrom a bs.length) bs

/-- The fields of an entry (R286). -/
def entryShape (e : BitVec 512) : Shape where
  base := e.setWidth 64
  eplane := (e >>> 64).setWidth 64
  trailer := (e >>> 128).setWidth 64
  rows := bitsOf e 207 192
  cols := bitsOf e 223 208
  fmt := BitVec.ofNat 4 (bitsOf e 239 236)
  stride := bitsOf e 287 256

/-- Half the bytes of n elements counted twice: the size of n elements in half bytes (R286). -/
def halfBytes (fmt : BitVec 4) (n : Nat) : Nat :=
  if fmt = 11 then 8 * n else if fmt = 12 then 2 * n else if fmt = 13 then n else 4 * n

/-- The bytes of n elements of a format (R286). -/
def elemBytes (fmt : BitVec 4) (n : Nat) : Nat := halfBytes fmt n / 2

/-- The block format of a shape's FMT, if it is one. -/
def bxOf (fmt : BitVec 4) : Option BxTy :=
  if fmt = 12 then some .bx8 else if fmt = 13 then some .bx4 else none

/-- Whether an entry is well formed (R286). -/
def entryOk (e : BitVec 512) : Bool :=
  let h := entryShape e
  let bx := (bxOf h.fmt).isSome
  bitsOf e 511 288 = 0 && bitsOf e 243 241 = 0 && bitsOf e 235 224 = 0 && 9 ≤ h.fmt.toNat && h.fmt.toNat ≤ 13 &&
    h.rows != 0 && h.cols != 0 && (!bx || h.cols % 32 = 0) && elemBytes h.fmt h.cols ≤ h.stride &&
    h.base.toNat % 32 = 0 && h.stride % 32 = 0 && h.trailer.toNat % 32 = 0 && h.eplane.toNat % 2 = 0 &&
    bitsOf h.base 63 55 = 0 && bitsOf h.eplane 63 55 = 0 && bitsOf h.trailer 63 55 = 0 &&
    (if bx then h.eplane != 0 && h.trailer != 0 else h.eplane = 0 && h.trailer = 0)

/-- GEN of an entry. -/
def entryGen (e : BitVec 512) : Nat := bitsOf e 255 244

/-- VALID of an entry. -/
def entryLive (e : BitVec 512) : Bool := e.getLsbD 240

/-- An entry with another GEN and VALID. -/
def entryMark (e : BitVec 512) (gen : Nat) (valid : Bool) : BitVec 512 :=
  let m : BitVec 512 := BitVec.ofNat 512 (2 ^ 256 - 2 ^ 244 + 2 ^ 240)
  (e &&& ~~~m) ||| BitVec.ofNat 512 (gen % 4096 * 2 ^ 244 + valid.toNat * 2 ^ 240)

/-- The entry whose words stand in eight registers (R287). -/
def entryRegs (s : State) (a : GReg) : BitVec 512 :=
  BitVec.ofNat 512 (natOf ((List.range 8).flatMap (fun i => bytesOf (readN s (regAt a i)) 8)))

/-- shdef (R287). -/
def execShdef (d a b : GReg) (s : State) : Res :=
  let sl := readN s b
  if (ccOf s).desc.shcnt ≤ sl then .next (trapShape s 0x1CE (sl % 2 ^ 32) 1 0)
  else
    match readEntry s 9 0x1CE sl with
    | .wait w => .next w
    | .trap t e => .next (takeInfo t e)
    | .done s1 bs =>
      let e : BitVec 512 := BitVec.ofNat 512 (natOf bs)
      let h := entryGen e * 2 ^ 20 + sl
      let new := entryMark (entryRegs s a) 0 false
      if entryLive e then .next (trapShape s 0x1CE h 3 0)
      else if !entryOk new then .next (trapShape s 0x1CE h 2 0)
      else
        match storeEntry s1 0x1CE sl 0 (bytesOf (entryMark new (entryGen e) true).toNat 64) with
        | .wait w => .next w
        | .trap t e => .next (takeInfo t e)
        | .done s2 => .next (finishG s2 d (BitVec.ofNat 64 h))

/-- shkill (R288). -/
def execShkill (a : GReg) (s : State) : Res :=
  let h := bitsOf (readG s a) 31 0
  let sl := h % 2 ^ 20
  if (ccOf s).desc.shcnt ≤ sl then .next (trapShape s 0x1D0 h 1 0)
  else
    match readEntry s 9 0x1D0 sl with
    | .wait w => .next w
    | .trap t e => .next (takeInfo t e)
    | .done s1 bs =>
      let e : BitVec 512 := BitVec.ofNat 512 (natOf bs)
      if !entryLive e || entryGen e != h / 2 ^ 20 then .next (trapShape s 0x1D0 h 0 0)
      else
        let mark := bitsOf (entryMark e (entryGen e + 1) false) 255 240
        match storeEntry s1 0x1D0 sl 30 (bytesOf mark 2) with
        | .wait w => .next w
        | .trap t e => .next (takeInfo t e)
        | .done s2 => .next (advance s2)

/-! ## The command queue (R290-R293) -/

/-- ILLOP of an mxq with a command code that does not exist (03 R57). -/
def trapCommand (s : State) : State := trapHere s 1 0 (infoIllop 5 0 0x1CA)

/-- Whether a reserved bit or value of a command is set: START_K, RES and ACC are reserved where R292 gives them 0 (R292; log 31
DEDUCED, DESIGN CHOICE). -/
def commandReserved (code : Nat) (w : Fin 8 → Word) : Bool :=
  let f := bitsOf (w 2) 3 0
  bitsOf (w 0) 63 32 != 0 || bitsOf (w 0) 15 11 != 0 || w 3 != 0 || w 4 != 0 || w 5 != 0 || w 6 != 0 || w 7 != 0 ||
    (match code with
      | 1 => w 2 != 0
      | 2 => bitsOf (w 1) 63 32 != 0 || bitsOf (w 2) 63 8 != 0 || bitsOf (w 2) 7 0 = 0
      | 3 => bitsOf (w 0) 31 16 != 0 || bitsOf (w 0) 10 8 != 0 || bitsOf (w 1) 63 32 != 0 || bitsOf (w 2) 63 3 != 0
      | 4 => bitsOf (w 0) 31 16 != 0 || bitsOf (w 0) 10 10 != 0 || w 1 != 0 || w 2 != 0
      | 5 => bitsOf (w 0) 31 16 != 0 || bitsOf (w 0) 10 10 != 0 || bitsOf (w 1) 63 20 != 0 ||
          bitsOf (w 1) 11 0 != 0 || w 2 != 0
      | _ => bitsOf (w 0) 31 16 != 0 || bitsOf (w 0) 10 10 != 0 || bitsOf (w 1) 63 20 != 0 ||
          bitsOf (w 1) 11 0 != 0 || bitsOf (w 2) 63 12 != 0 || bitsOf (w 2) 7 4 != 0 || f < 10 || 13 < f ||
          (f < 12 && bitsOf (w 2) 11 8 != 0))

/-- What the check of a command's handles finds (R290). -/
inductive HandleResult where
  | wait (s : State)
  | trap (s : State) (t : TrapInfo)
  | shape (handle reason opnd : Nat)
  | done (s : State) (shapes : List Shape)
deriving DecidableEq, Repr

/-- The handles of a command checked in order and their entries read (R290). -/
def readHandles (s : State) (opnd : Nat) : List Nat → HandleResult
  | [] => .done s []
  | h :: hs =>
    let sl := h % 2 ^ 20
    if (ccOf s).desc.shcnt ≤ sl then .shape h 1 opnd
    else
      match readEntry s 6 0x1CA sl with
      | .wait w => .wait w
      | .trap t e => .trap t e
      | .done s1 bs =>
        let e : BitVec 512 := BitVec.ofNat 512 (natOf bs)
        if !entryLive e || entryGen e != h / 2 ^ 20 then .shape h 0 opnd
        else
          match readHandles s1 (opnd + 1) hs with
          | .done s2 l => .done s2 (entryShape e :: l)
          | r => r

/-- The handles that a command names (R292). -/
def commandHandles (code : Nat) (w1 : Word) : List Nat :=
  match code with
  | 1 => [bitsOf w1 31 0, bitsOf w1 63 32]
  | 2 | 3 => [bitsOf w1 31 0]
  | _ => []

/-- The operation of a command, from its words and shapes (R292). -/
def commandOp (code : Nat) (w : Fin 8 → Word) (shapes : List Shape) : MxOp :=
  let off := bitsOf (w 1) 19 0
  match code, shapes with
  | 1, [a, b] => .mma a b
  | 2, [a] => .mmv a ((w 2).setWidth 8)
  | 3, [v] => .mvld v (Fin.ofNat 8 (bitsOf (w 2) 2 0))
  | 5, _ => .macld off
  | 6, _ => .macst off (bitsOf (w 2) 11 8) ((w 2).setWidth 4)
  | _, _ => .mzero

/-- The slots of a VSET. -/
def vsetSlots (vset : BitVec 8) : List (Fin 8) := (List.finRange 8).filter (fun v => vset.getLsbD v.val)

/-- Whether the shapes fit the command (R293). -/
def commandFits (x : Mxu) (op : MxOp) (startK : Nat) : Bool :=
  match op with
  | .mma a b =>
    a.fmt = b.fmt && a.rows = 64 && b.rows = 64 && a.cols = b.cols && a.cols % 32 = 0 && startK < a.cols / 32
  | .mmv w vset =>
    w.rows = 64 && w.cols % 32 = 0 && startK < w.cols / 32 &&
      (vsetSlots vset).all (fun v => x.pushed[v] = (w.fmt, w.cols))
  | .mvld v _ => v.rows = 1 && v.cols % 32 = 0 && halfBytes v.fmt v.cols ≤ 16384
  | _ => true

/-- The bytes of a MACST in a format (R295). -/
def macstBytes (fmt : BitVec 4) : Nat :=
  if fmt = 11 then 16384 else if fmt = 13 then 4096 else 8192

/-- The scratchpad range of a command: offset and length (R294, R295). -/
def commandRange : MxOp → Nat × Nat
  | .macld off => (off, 16384)
  | .macst off _ fmt => (off, macstBytes fmt)
  | _ => (0, 0)

/-- A command appended to a queue with room (R290). -/
def appendCommand (s : State) (d : GReg) (c : MxCmd) : State :=
  let x := ccOf s
  let m := x.mxu
  let t := m.tickets + 1
  let pushed := match c.op with
    | .mvld v slot => m.pushed.set slot (v.fmt, v.cols)
    | _ => m.pushed
  let s1 := putCcOf s { x with mxu := { m with
    queue := m.queue ++ [{ c with ticket := t }], tickets := t, pushed := pushed } }
  finishG (setStall s1 .none) d (BitVec.ofNat 64 t)

/-- A command appended, or the slot stalled while sixteen are queued or running (R290). -/
def pushCommand (s : State) (d : GReg) (c : MxCmd) : State :=
  if 16 ≤ (ccOf s).mxu.queue.length then setStall s (.mxq d c) else appendCommand s d c

/-- mxq (R290). -/
def execMxq (d a : GReg) (s : State) : Res :=
  let w (i : Fin 8) : Word := readG s (regAt a i.val)
  let code := bitsOf (w 0) 7 0
  if code = 0 || 7 ≤ code then .next (trapCommand s)
  else if commandReserved code w then .next (trapIllop4 s 0x1CA)
  else
    match readHandles s 0 (commandHandles code (w 1)) with
    | .wait w => .next w
    | .trap t e => .next (takeInfo t e)
    | .shape h r o => .next (trapShape s 0x1CA h r o)
    | .done s1 shapes =>
      let op := commandOp code w shapes
      let k := bitsOf (w 0) 31 16
      if !commandFits (ccOf s).mxu op k then .next (trapShape s 0x1CA (bitsOf (w 1) 31 0) 4 0)
      else
        let rg := commandRange op
        match notOwned (ccOf s) .mxu rg.1 rg.2 with
        | some b => .next (trapPad s rg.1 b 0x1CA)
        | none => .next (pushCommand s1 d ⟨op, Fin.ofNat 4 (bitsOf (w 0) 9 8), k, (w 0).getLsbD 10, 0⟩)

/-- The end of an mxwait whose target is reached: TRAILER when it covers the pending failure (R291, R298). -/
def finishMxwait (s : State) (target : Nat) : State :=
  let x := ccOf s
  match x.mxu.pend with
  | some p =>
    if p.ticket ≤ target then
      let s1 := putCcOf s { x with mxu := { x.mxu with pend := .none } }
      trapHere s1 0x0C p.addr (BitVec.ofNat 64 (p.ticket % 2 ^ 32 * 2 ^ 32 + p.opnd.toNat))
    else advance s
  | none => advance s

/-- mxwait (R291, R298). -/
def execMxwait (a : GReg) (s : State) : Res :=
  let t := readN s a
  if t ≤ (ccOf s).mxu.done.toNat then .next (finishMxwait s t) else .next (enterWait s (.mxwait t))

end Sys2Proof.Machine
end

