-- ==== Sys2Proof/Machine/Place.lean ====
section
/-! DEFINITION. The place store: its instructions and the steps of its agents (16 R304-R334). -/

namespace Sys2Proof.Machine

/-! ## Spaces, regions, handles -/

/-- A space of a context. -/
def spaceOf (s : State) (ctxid : BitVec 16) (num : Fin 16) : Option Space :=
  s.place.spaces.find? (fun sp => sp.ctxid = ctxid && sp.num = num)

/-- Whether an entry is the space of this context and number. -/
def sameSpace (a b : Space) : Bool := a.ctxid = b.ctxid && a.num = b.num

/-- A defined space changed. -/
def putSpace (s : State) (sp : Space) : State :=
  { s with place := { s.place with
      spaces := s.place.spaces.map (fun x => if sameSpace x sp then sp else x) } }

/-- The size of a record in words (R308). -/
def recWords (sp : Space) : Nat := if sp.rs = 0 then 4 else if sp.rs = 1 then 8 else 16

/-- The query window in ns (R304). -/
def windowNs (sp : Space) : Nat := if sp.window = 0 then 65536 else sp.window

/-- A point's coordinates. -/
structure Point where
  x : BitVec 32
  y : BitVec 32
  z : BitVec 32
deriving DecidableEq, Repr

/-- Whether a point lies between two corners, signed (R305, R316; log 52 DEDUCED). -/
def inBox (lo hi : Vector (BitVec 32) 3) (p : Point) : Bool :=
  lo[0].sle p.x && p.x.sle hi[0] && lo[1].sle p.y && p.y.sle hi[1] && lo[2].sle p.z && p.z.sle hi[2]

/-- The region of a point: the lowest entry in which it lies (R305). -/
def regionOf (sp : Space) (p : Point) : Nat :=
  (sp.regions.findIdx? (fun r => inBox r.lo r.hi p)).getD (sp.regions.length - 1)

/-- The owner of a region. -/
def ownerOf (sp : Space) (r : Nat) : Nat :=
  match sp.regions[r]? with
  | some e => e.owner
  | none => 0

/-- The key of a record or handle slot at a cell. -/
def placeKey (cell slot : Nat) : Nat := 2 ^ 24 * cell + slot

/-- A handle slot. -/
def handleSlot (sp : Space) (home hslot : Nat) : Handle := tabGet Handle.fresh sp.handles (placeKey home hslot)

/-- A handle slot put. -/
def putHandle (sp : Space) (home hslot : Nat) (h : Handle) : Space :=
  { sp with handles := tabSet sp.handles (placeKey home hslot) h }

/-- An instance put. -/
def putInst (sp : Space) (owner slot : Nat) (x : Inst) : Space :=
  { sp with insts := tabSet sp.insts (placeKey owner slot) x }

/-- An arrival or departure stamp in a region at a time: above every query stamp served there (R311). -/
def stampAt (sp : Space) (t region : Nat) : Nat := max t (tabGet 0 sp.h region + 1)

/-- The time base as a number of ns. -/
def nowNs (s : State) : Nat := s.stime.toNat

/-- The coordinates of an instance (R308). -/
def instPoint (x : Inst) : Point :=
  ⟨x.words[0].setWidth 32, (x.words[0] >>> 32).setWidth 32, x.words[1].setWidth 32⟩

/-- Words 0 and 1 of a record changed to a point, its kind kept (R308, R328). -/
def setPoint (ws : Vector Word 16) (p : Point) : Vector Word 16 :=
  (ws.set 0 (p.y ++ p.x : BitVec 64)).set 1 (keepBits ws[1] 63 32 ||| p.z.setWidth 64)

/-- The first free slot from a starting point on, around a pool of n, by trying at most as often as the fuel says. -/
def freeFrom (used : Nat → Bool) (n start : Nat) : Nat → Option Nat
  | 0 => none
  | f + 1 => if used (start % n) then freeFrom used n (start + 1) f else some (start % n)

/-- A free record slot of an owner (R313, R326). -/
def freeRecord (sp : Space) (owner : Nat) : Option Nat :=
  freeFrom (fun k => (tabFind sp.insts (placeKey owner k)).isSome) (2 ^ sp.pslots) 0 (sp.insts.length + 1)

/-- The lowest-numbered free handle slot of a home (R326; 17 R335). -/
def freeHandle (sp : Space) (home : Nat) : Option Nat :=
  freeFrom (fun k => (handleSlot sp home k).holds.isSome) (2 ^ sp.pslots) 0 (sp.handles.length + 1)

/-- Whether the pool of an owner lies in a stack that its die holds back, so that its agent waits (20 R367, R373). -/
def poolHeld (s : State) (sp : Space) (owner : Nat) : Bool :=
  sp.pools.any (fun r => r.1 = owner && (List.range ((r.2.1 % 128 + r.2.2 + 127) / 128)).any (fun i =>
    lineHeld s (dieOf (physOf s owner)) (r.2.1 / 128 + i)))

/-- A handle (R309). -/
def handleWord (num : Fin 16) (home hslot : Nat) (gen : BitVec 20) : Word :=
  BitVec.ofNat 64 (num.val * 2 ^ 60 + home * 2 ^ 50 + hslot * 2 ^ 20 + gen.toNat)

/-- SPACE of a handle. -/
def handleSpace (w : Word) : Fin 16 := Fin.ofNat 16 (bitsOf w 63 60)
/-- HOME of a handle. -/
def handleHome (w : Word) : Nat := bitsOf w 59 50
/-- SLOT of a handle. -/
def handleIx (w : Word) : Nat := bitsOf w 49 20
/-- GEN of a handle. -/
def handleGen (w : Word) : BitVec 20 := w.setWidth 20

/-! ## Traps and checks (R325) -/

/-- PLACE (R325). -/
def trapPlace (s : State) (opc : BitVec 12) (space reason : Nat) (va : Word) : State :=
  trapHere s 0x10 va (BitVec.ofNat 64 (space * 2 ^ 24 + reason * 2 ^ 16 + opc.toNat))

/-- The checks of a handle at the issuing cell: its space, or the REASON (R325). -/
def handleCheck (s : State) (w : Word) : Except Nat Space :=
  match spaceOf s (ccOf s).desc.ctxid (handleSpace w) with
  | none => .error 1
  | some sp =>
    if cellCount s ≤ handleHome w || 2 ^ sp.pslots ≤ handleIx w || handleGen w = 0 then .error 2 else .ok sp

/-- The point of a point pair (R323). -/
def pointPair (s : State) (r : GReg) : Point :=
  ⟨(readG s r).setWidth 32, (readG s r >>> 32).setWidth 32, (readG s (regAt r 1)).setWidth 32⟩

/-! ## Dereferences (R310, R313, R327-R330) -/

/-- The opcode of a dereference. -/
def derefOpc : Deref → BitVec 12
  | .pdel => 0x1A2
  | .pset _ _ _ => 0x1A4
  | .pld _ => 0x1A6
  | .pstw _ _ => 0x1A8
  | .pres => 0x1B0

/-- The answer to a stale handle (R325, R330). -/
def staleAnswer : Deref → DerefAnswer
  | .pres => .done (BitVec.ofNat 64 (2 ^ 63))
  | _ => .stale

/-- The next generation of a handle slot (R327). -/
def nextGen (g : BitVec 20) : BitVec 20 := if g = BitVec.allOnes 20 then 1 else g + 1

/-- The owner's part of a dereference, at the instance that the home has named (R313, R327-R329; 17 R336). -/
def derefOwner (s : State) (sp : Space) (owner rs : Nat) (op : Deref) : State × DerefAnswer :=
  match tabFind sp.insts (placeKey owner rs) with
  | none => (s, staleAnswer op)
  | some x =>
    match op with
    | .pdel => (putSpace s (putInst sp owner rs { x with st := .tomb (stampAt sp (nowNs s) x.region) }), .done 0)
    | .pld w => (s, .done x.words[w])
    | .pstw w data => (putSpace s (putInst sp owner rs { x with words := x.words.set w data }), .done 0)
    | .pres => (s, .done (BitVec.ofNat 64 (x.region * 2 ^ 32 + owner)))
    | .pset px py pz => (putSpace s (putInst sp owner rs { x with words := setPoint x.words ⟨px, py, pz⟩ }), .done 0)

/-- What a home does with a dereference (R310): it answers, starts a move, or leaves the rest to the owner of the record. -/
inductive HomeStep where
  | answer (a : DerefAnswer)
  | move (x : Inst) (owner rs : Nat) (p : Point)
  | forward (sp : Space) (owner rs : Nat)
deriving DecidableEq, Repr

/-- The home's part of a dereference (R309, R310, R313, R327-R330). -/
def derefHome (sp : Space) (home hslot : Nat) (gen : BitVec 20) (op : Deref) : HomeStep :=
  let h := handleSlot sp home hslot
  match h.holds with
  | none => .answer (staleAnswer op)
  | some (owner, rs) =>
    if h.gen ≠ gen then .answer (staleAnswer op)
    else
      match tabFind sp.insts (placeKey owner rs) with
      | none => .answer (staleAnswer op)
      | some x =>
        match op with
        | .pdel => .forward (putHandle sp home hslot { h with gen := nextGen h.gen, holds := .none }) owner rs
        | .pres => .answer (.done (BitVec.ofNat 64 (x.region * 2 ^ 32 + owner)))
        | .pset px py pz =>
          if regionOf sp ⟨px, py, pz⟩ = x.region then .forward sp owner rs else .move x owner rs ⟨px, py, pz⟩
        | _ => .forward sp owner rs

/-- Step 1 of a move (R313). -/
def startMove (s : State) (sp : Space) (home hslot owner rs : Nat) (p : Point) (c : Nat) (k : Fin 4) : State :=
  let r := regionOf sp p
  let (via, s1) := cellSend (putSpace s (putHandle sp home hslot { handleSlot sp home hslot with moving := true })) home owner
  let m : Move := ⟨sp.ctxid, sp.num, home, hslot, owner, rs, ownerOf sp r, r, p.x, p.y, p.z, .marked, c, k, via⟩
  { s1 with place := { s1.place with moves := s1.place.moves ++ [m] } }

/-- A dereference on its way from its home to the owner, which the home lets no other of its handle overtake (R310; 17 R336). -/
def forwardDeref (s : State) (sp : Space) (home hslot owner rs : Nat) (gen : BitVec 20) (op : Deref) (c : Nat) (k : Fin 4) : State :=
  let (via, s1) := cellSend s home owner
  let h := handleSlot sp home hslot
  putSpace s1 (putHandle sp home hslot { h with queue := ⟨c, k, gen, op, via, some (owner, rs)⟩ :: h.queue })

/-- A dereference performed at the home; no answer yet when it starts a move, or goes on to an owner that is another cell (R310, R313; 17
R336). -/
def derefAt (s : State) (sp : Space) (home hslot : Nat) (gen : BitVec 20) (op : Deref) (c : Nat) (k : Fin 4) :
    State × Option DerefAnswer :=
  match derefHome sp home hslot gen op with
  | .answer a => (s, some a)
  | .move _ owner rs p => (startMove s sp home hslot owner rs p c k, none)
  | .forward sp1 owner rs =>
    if owner = home then
      let r := derefOwner (putSpace s sp1) sp1 owner rs op
      (r.1, some r.2)
    else (forwardDeref s sp1 home hslot owner rs gen op c k, none)

/-- The end of a dereference at its slot (R325, R328-R330). -/
def finishDeref (s : State) (op : Deref) (d : GReg) (handle : Word) (ans : DerefAnswer) : State :=
  match ans with
  | .done v =>
    match op with
    | .pdel | .pstw _ _ => advance s
    | _ => finishG s d v
  | .stale => trapPlace s (derefOpc op) (handleSpace handle).val 0 handle

/-- Whether the agents that a dereference reaches must wait for memory: the home's, and the owner's of the record. -/
def derefHeld (s : State) (sp : Space) (home hslot : Nat) : Bool :=
  poolHeld s sp home || match (handleSlot sp home hslot).holds with
    | some (owner, _) => poolHeld s sp owner
    | none => false

/-- A dereference sent to its home: performed if it is there at once, or queued behind a move, other queued ones, a frozen pool, or
its own message to another die (R310; 20 R377). -/
def startDeref (s : State) (sp : Space) (w : Word) (op : Deref) (d : GReg) : State :=
  let home := handleHome w
  let hs := handleIx w
  let h := handleSlot sp home hs
  let (via, s1) := cellSend s s.curCell home
  if via.isSome || h.moving || !h.queue.isEmpty || derefHeld s sp home hs then
    let q : QueuedDeref := ⟨s.curCell, s.curSlot, handleGen w, op, via, none⟩
    putSpace (setStall s1 (.place op d w .none)) (putHandle sp home hs { h with queue := h.queue ++ [q] })
  else
    let r := derefAt s sp home hs (handleGen w) op s.curCell s.curSlot
    match r.2 with
    | some ans => finishDeref r.1 op d w ans
    | none => setStall r.1 (.place op d w .none)

/-- The checks of R325 on a handle, then the dereference. -/
def derefOp (a d : GReg) (op : Deref) (s : State) : Res :=
  let w := readG s a
  match handleCheck s w with
  | .error r => .next (trapPlace s (derefOpc op) (handleSpace w).val r w)
  | .ok sp => .next (startDeref s sp w op d)

/-- A dereference of a word; one beyond the record raises PLACE with REASON 3, after the checks of the handle (R329; log 66 DESIGN
CHOICE). -/
def derefWord (a d : GReg) (n : Fin 16) (op : Deref) (s : State) : Res :=
  let w := readG s a
  match handleCheck s w with
  | .error r => .next (trapPlace s (derefOpc op) (handleSpace w).val r w)
  | .ok sp =>
    if recWords sp ≤ n.val then .next (trapPlace s (derefOpc op) (handleSpace w).val 3 w)
    else .next (startDeref s sp w op d)

/-- pdel (R327). -/
def execPdel (a : GReg) (s : State) : Res := derefOp a 0 .pdel s

/-- pset (R328). -/
def execPset (d a b : GReg) (s : State) : Res :=
  let p := pointPair s b
  derefOp a d (.pset p.x p.y p.z) s

/-- pld (R329). -/
def execPld (d a : GReg) (w : Fin 16) (s : State) : Res := derefWord a d w (.pld w) s

/-- pstw (R329). -/
def execPstw (d a : GReg) (w : Fin 16) (s : State) : Res := derefWord a d w (.pstw w (readG s d)) s

/-- pres (R330). -/
def execPres (d a : GReg) (s : State) : Res := derefOp a d .pres s

/-! ## pnew and pmap (R326, R331) -/

/-- The words of a new record (R326). -/
def newWords (p : Point) (kind : BitVec 16) (payload : Word) : Vector Word 16 :=
  ((setPoint (Vector.replicate 16 0) p).set 1 (BitVec.ofNat 64 (kind.toNat * 2 ^ 32 + p.z.toNat))).set 2 payload

/-- A record created at the owner of its point, its handle on its way to the slot (R326; 20 R377). -/
def createRecord (s : State) (sp : Space) (d : GReg) (p : Point) (kind : BitVec 16) (payload : Word) : State :=
  let r := regionOf sp p
  let c := ownerOf sp r
  match freeHandle sp c, freeRecord sp c with
  | some n, some rs =>
    let h := handleSlot sp c n
    let sp1 := putHandle sp c n { h with holds := some (c, rs) }
    let sp2 := putInst sp1 c rs ⟨.live, stampAt sp (nowNs s) r, r, newWords p kind payload, c, n, h.gen⟩
    replyFrom (putSpace s sp2) (dieOf (physOf s c)) d (handleWord sp.num c n h.gen)
  | _, _ => replyFrom s (dieOf (physOf s c)) d 0

/-- pnew, performed at the owner of its point (R326). -/
def execPnew (d a b : GReg) (sp : Fin 16) (s : State) : Res :=
  match spaceOf s (ccOf s).desc.ctxid sp with
  | none => .next (trapPlace s 0x1A0 sp.val 1 0)
  | some x =>
    let p := pointPair s a
    let owner := ownerOf x (regionOf x p)
    let die := dieOf (physOf s owner)
    if !isThere s die then .next (sendTrip s die)
    else if poolHeld s x owner then .next (waitInPlace s)
    else .next (createRecord (setStall s .none) x d p (BitVec.ofNat 16 (bitsOf (readG s (regAt a 1)) 47 32)) (readG s b))

/-- pmap (R331). -/
def execPmap (d a : GReg) (sp : Fin 16) (s : State) : Res :=
  match spaceOf s (ccOf s).desc.ctxid sp with
  | none => .next (trapPlace s 0x1B2 sp.val 1 0)
  | some x =>
    let r := regionOf x (pointPair s a)
    .next (finishG s d (BitVec.ofNat 64 (r * 2 ^ 32 + ownerOf x r)))

/-! ## Queries (R315-R318, R332, R333) -/

/-- A coordinate clamped to the space (R315). -/
def clamp32 (x : Int) : BitVec 32 := BitVec.ofInt 32 (max (-(2 ^ 31)) (min (2 ^ 31 - 1) x))

/-- The bounding box of a query (R315). -/
def boundingBox : QueryShape → Vector (BitVec 32) 3 × Vector (BitVec 32) 3
  | .box lo hi => (lo, hi)
  | .sphere c r => (c.map (fun x => clamp32 (x.toInt - r.toNat)), c.map (fun x => clamp32 (x.toInt + r.toNat)))

/-- Whether a point passes the test of a query (R316). -/
def passes (q : QueryShape) (p : Point) : Bool :=
  match q with
  | .box lo hi => inBox lo hi p
  | .sphere o r =>
    let dx := p.x.toInt - o[0].toInt
    let dy := p.y.toInt - o[1].toInt
    let dz := p.z.toInt - o[2].toInt
    dx * dx + dy * dy + dz * dz ≤ (r.toNat : Int) * r.toNat

/-- Whether two boxes meet; an empty one meets none. -/
def boxesMeet (lo hi lo' hi' : Vector (BitVec 32) 3) : Bool :=
  (List.finRange 3).all (fun i =>
    lo[i].sle hi[i] && lo'[i].sle hi'[i] && lo[i].sle hi'[i] && lo'[i].sle hi[i])

/-- Whether a query reaches a region (R315, R316). -/
def reaches (q : QueryShape) (r : Region) : Bool :=
  boxesMeet (boundingBox q).1 (boundingBox q).2 r.lo r.hi

/-- The owners a query is sent to (R315). -/
def queryOwners (sp : Space) (q : QueryShape) : List Nat :=
  ((sp.regions.filter (reaches q)).map (fun r => r.owner)).eraseDups

/-- Whether a byte of a result buffer may not be written: outside the scratchpad, in the banks, in an engine's
tile (R332). -/
def bufferBad (x : CtxCell) (o : Nat) : Bool :=
  padSize x ≤ o || inBanks x o || (tileOwner x (o / 4096)).isSome

/-- The first bad byte of a buffer of n bytes. -/
def firstBadByte (x : CtxCell) (o : Nat) : Nat → Option Nat
  | 0 => none
  | n + 1 => if bufferBad x o then some o else firstBadByte x (o + 1) n

/-- The window address of a scratchpad offset (02 R41). -/
def padAddr (o : Nat) : Word := BitVec.ofNat 64 (0xFE00 * 2 ^ 48 + o)

/-- Whether a record comes before another in a result (R318). -/
def foundBefore (a b : Found) : Bool :=
  a.region < b.region || (a.region = b.region && (a.hslot < b.hslot || (a.hslot = b.hslot && a.home < b.home)))

/-- A record inserted in its place. -/
def insertFound (x : Found) : List Found → List Found
  | [] => [x]
  | y :: l => if foundBefore x y then x :: y :: l else y :: insertFound x l

/-- Records in the order of a result (R318). -/
def sortFound : List Found → List Found
  | [] => []
  | x :: l => insertFound x (sortFound l)

/-- The bytes of an entry (R318). -/
def foundBytes (f : Found) : List Byte :=
  bytesOf f.handle.toNat 8 ++ bytesOf f.words[0].toNat 8 ++ bytesOf (bitsOf f.words[1] 31 0) 4 ++
    bytesOf (bitsOf f.words[1] 47 32) 4 ++ bytesOf f.words[2].toNat 8

/-- The status and count of a finished query (R318). -/
def queryOutcome (q : Query) : Nat × Nat :=
  if q.stale then (2, 0) else (if q.cap < q.found.length then 1 else 0, q.found.length)

/-- The bytes of a result buffer that are written (R318). -/
def resultBytes (q : Query) : List Byte :=
  let o := queryOutcome q
  bytesOf o.2 8 ++ bytesOf o.1 8 ++ bytesOf q.q 8 ++ bytesOf 0 8 ++
    (if q.stale then [] else ((sortFound q.found).take q.cap).flatMap foundBytes)

/-- Bytes that an agent writes to the scratchpad; sectors written whole lose their poison. -/
def padWrite (x : CtxCell) (off : Nat) (bs : List Byte) : CtxCell :=
  let spad := (List.range bs.length).foldl (fun m i =>
    if off + i < padSize x then memSet m (off + i) (bs.getD i 0) else m) x.spad
  { x with spad := spad, padPoison := x.padPoison.filter (fun k => !(off ≤ 32 * k && 32 * k + 32 ≤ off + bs.length)) }

/-- Whether a slot of a cell waits for a ticket (R333). -/
def isAwaited (s : State) (c ticket : Nat) : Bool :=
  (slotsOf s c).any (fun x => match x.run with
    | .wait (.pqwait _ t) => t = ticket
    | _ => false)

/-- A finished query: its buffer written, the agent's bytes over any store made since its issue, and its result kept for pqwait
until it is retired and no slot waits for it (R318, R320, R333; log 66 DESIGN CHOICE). -/
def finishQuery (s : State) (q : Query) : State :=
  match ctxFind s q.cell q.ctxid with
  | none => s
  | some x =>
    let o := queryOutcome q
    let x1 := padWrite x q.off (resultBytes q)
    let keep := x1.results.filter (fun r => x1.queries < r.ticket + 8 || isAwaited s q.cell r.ticket)
    ctxPut s q.cell q.ctxid { x1 with results := keep ++ [⟨q.ticket, BitVec.ofNat 32 o.1, o.2⟩] }

/-- A query sent to its owners, each with its message (R315; 20 R377). -/
def sendQuery (s : State) : List Nat → List (Nat × Transit) × State
  | [] => ([], s)
  | o :: os =>
    let (via, s1) := cellSend s s.curCell o
    let r := sendQuery s1 os
    ((o, via) :: r.1, r.2)

/-- A query issued (R315, R332). -/
def issueQuery (s : State) (sp : Space) (d : GReg) (shape : QueryShape) (buf : Word) : State :=
  let x := ccOf s
  let t := x.queries + 1
  let sent := sendQuery s (queryOwners sp shape)
  let q : Query := ⟨s.curCell, x.desc.ctxid, sp.num, t, nowNs s, shape, bitsOf buf 19 0, bitsOf buf 47 32,
    sent.1, [], [], [], false⟩
  let s1 := putCcOf sent.2 { x with queries := t }
  let s2 := if q.toServe.isEmpty then finishQuery s1 q
    else { s1 with place := { s1.place with queries := s1.place.queries ++ [q] } }
  finishG s2 d (BitVec.ofNat 64 t)

/-- The queries of a cell in flight (R332). -/
def inFlight (s : State) (c : Nat) : Nat := s.place.queries.countP (fun q => q.cell = c)

/-- pqbox and pqrad: the space, the buffer word, its range, then the query, or a wait in RUN for one of the eight
(R323, R325, R332; the order of the checks: log 66 DESIGN CHOICE). -/
def queryOp (opc : BitVec 12) (d b : GReg) (num : Fin 16) (shape : QueryShape) (s : State) : Res :=
  let buf := readG s b
  match spaceOf s (ccOf s).desc.ctxid num with
  | none => .next (trapPlace s opc num.val 1 0)
  | some sp =>
    if bitsOf buf 63 48 ≠ 0 || bitsOf buf 31 20 ≠ 0 || bitsOf buf 4 0 ≠ 0 then .next (trapIllop4 s opc)
    else
      let off := bitsOf buf 19 0
      match firstBadByte (ccOf s) off (32 + 32 * bitsOf buf 47 32) with
      | some o =>
        .next (trapHere s 6 (padAddr o) (infoAccess 0 (laterPage (padAddr off) (padAddr o)) 6 opc))
      | none =>
        if 8 ≤ inFlight s s.curCell then .next (waitHere s) else .next (issueQuery s sp d shape buf)

/-- pqbox (R323, R332). -/
def execPqbox (d a b : GReg) (sp : Fin 16) (s : State) : Res :=
  let w0 := readG s a
  let w1 := readG s (regAt a 1)
  let w2 := readG s (regAt a 2)
  let lo : Vector (BitVec 32) 3 := #v[w0.setWidth 32, (w0 >>> 32).setWidth 32, w1.setWidth 32]
  let hi : Vector (BitVec 32) 3 := #v[(w1 >>> 32).setWidth 32, w2.setWidth 32, (w2 >>> 32).setWidth 32]
  queryOp 0x1AA d b sp (.box lo hi) s

/-- pqrad (R323, R332). -/
def execPqrad (d a b : GReg) (sp : Fin 16) (s : State) : Res :=
  let w0 := readG s a
  let w1 := readG s (regAt a 1)
  let c : Vector (BitVec 32) 3 := #v[w0.setWidth 32, (w0 >>> 32).setWidth 32, w1.setWidth 32]
  queryOp 0x1AC d b sp (.sphere c ((w1 >>> 32).setWidth 32)) s

/-- The result of a completed query (R333). -/
def queryResult (x : CtxCell) (t : Nat) : Option Word :=
  (x.results.find? (fun r => r.ticket = t)).map (fun r =>
    BitVec.ofNat 64 (r.status.toNat * 2 ^ 32 + min r.count 0xFFFFFFFF))

/-- pqwait (R333). -/
def execPqwait (d a : GReg) (s : State) : Res :=
  let w := readG s a
  let t := w.toNat
  let n := (ccOf s).queries
  if t = 0 || n < t then .next (trapPlace s 0x1AE 0 4 w)
  else if t + 8 ≤ n then .next (trapPlace s 0x1AE 0 5 w)
  else
    match queryResult (ccOf s) t with
    | some r => .next (finishG s d r)
    | none => .next (enterWait s (.pqwait d t))

/-- Whether an instance counts for a query stamp (R312). -/
def counts (x : Inst) (q : Nat) : Bool :=
  x.a ≤ q && (match x.st with
    | .tomb a' => q < a'
    | _ => true)

/-- A counted record as an entry (R318). -/
def foundOf (sp : Space) (x : Inst) : Found := ⟨x.region, x.home, x.hslot, handleWord sp.num x.home x.hslot x.gen, x.words⟩

/-- An instance met by a query at an owner: deferred while it departs, else counted or not (R315). -/
def meetInst (sp : Space) (owner : Nat) (q : Query) (e : Nat × Inst) : Query :=
  if e.1 / 2 ^ 24 = owner && counts e.2 q.q && passes q.shape (instPoint e.2) &&
      (match sp.regions[e.2.region]? with
        | some r => r.owner = owner && reaches q.shape r
        | none => false) then
    match e.2.st with
    | .departing => { q with deferred := q.deferred ++ [(owner, e.1 % 2 ^ 24)] }
    | _ => { q with found := q.found ++ [foundOf sp e.2] }
  else q

/-- The stamps h of an owner's regions that a query reaches, raised (R311, R315). -/
def raiseStamps (sp : Space) (owner : Nat) (q : Query) : Space :=
  (List.range sp.regions.length).foldl (fun sp r =>
    match sp.regions[r]? with
    | some e =>
      if e.owner = owner && reaches q.shape e then
        { sp with h := tabSet sp.h r (max (tabGet 0 sp.h r) q.q) }
      else sp
    | none => sp) sp

/-- A query in flight put. -/
def putQuery (s : State) (i : Nat) (q : Query) : State :=
  { s with place := { s.place with queries := listSet s.place.queries i q } }

/-- Whether a message of a query from or to an owner is there. -/
def hasCome (s : State) (l : List (Nat × Transit)) (owner : Nat) : Bool :=
  l.any (fun e => e.1 = owner && arrived s e.2)

/-- The messages of a query without those of an owner. -/
def without (l : List (Nat × Transit)) (owner : Nat) : List (Nat × Transit) := l.filter (fun e => e.1 != owner)

/-- queryRequest: an owner that a query has reached serves it, its answer on its way (R315; 20 R377). -/
def execQueryRequest (i owner : Nat) (s : State) : Res :=
  match s.place.queries[i]? with
  | none => .next s
  | some q =>
    if !hasCome s q.toServe owner then .next s
    else
      match spaceOf s q.ctxid q.num with
      | none => .next s
      | some sp =>
        if poolHeld s sp owner then .next s
        else
          let (via, s1) := cellSend s owner q.cell
          let q1 := { q with toServe := without q.toServe owner, toAnswer := q.toAnswer ++ [(owner, via)] }
          if q.q + windowNs sp < nowNs s then .next (putQuery s1 i { q1 with stale := true })
          else .next (putQuery (putSpace s1 (raiseStamps sp owner q)) i (sp.insts.foldl (meetInst sp owner) q1))

/-- queryAnswer: an owner's answer reaches the agent; with all in, the query completes (R318). -/
def execQueryAnswer (i owner : Nat) (s : State) : Res :=
  match s.place.queries[i]? with
  | none => .next s
  | some q =>
    if !hasCome s q.toAnswer owner || q.deferred.any (fun d => d.1 = owner) then .next s
    else
      let q1 := { q with toAnswer := without q.toAnswer owner }
      if q1.toServe.isEmpty && q1.toAnswer.isEmpty then
        let s1 := { s with place := { s.place with queries := listDrop s.place.queries i } }
        .next (finishQuery s1 q1)
      else .next (putQuery s i q1)

/-- A departing instance resolved in every query that deferred it (R315). -/
def resolveDeferred (s : State) (sp : Space) (owner slot : Nat) (x : Inst) : State :=
  let go (q : Query) : Query :=
    if q.ctxid = sp.ctxid && q.num = sp.num && q.deferred.contains (owner, slot) then
      { q with
        deferred := q.deferred.filter (fun d => d != (owner, slot))
        found := if counts x q.q then q.found ++ [foundOf sp x] else q.found }
    else q
  { s with place := { s.place with queries := s.place.queries.map go } }

/-! ## Moves and tombstones (R313, R314) -/

/-- A move put. -/
def putMove (s : State) (i : Nat) (m : Move) : State :=
  { s with place := { s.place with moves := listSet s.place.moves i m } }

/-- The instance a move starts from. -/
def moveInst (sp : Space) (m : Move) : Option Inst := tabFind sp.insts (placeKey m.source m.sslot)

/-- A move whose next step is at a cell, told by another. -/
def tellMove (s : State) (i : Nat) (m : Move) (src dst : Nat) : State :=
  let (via, s1) := cellSend s src dst
  putMove s1 i { m with via := via }

/-- A step of a move that changes its source instance, with what it does to the queries that deferred it; the next step is at
`dst`. -/
def moveSource (s : State) (i : Nat) (m : Move) (dst : Nat) (stage : MoveStage) (st : InstState) (resolve : Bool) : State :=
  match spaceOf s m.ctxid m.num with
  | none => s
  | some sp =>
    match moveInst sp m with
    | none => s
    | some x =>
      let s1 := tellMove (putSpace s (putInst sp m.source m.sslot { x with st := st })) i { m with stage := stage } m.source dst
      if resolve then resolveDeferred s1 sp m.source m.sslot { x with st := st } else s1

/-- moveDeparture: step 2 of R313. -/
def execMoveDeparture (i : Nat) (s : State) : Res :=
  match s.place.moves[i]? with
  | none => .next s
  | some m =>
    match m.stage with
    | .marked => if arrived s m.via then .next (moveSource s i m m.dest .departed .departing false) else .next s
    | _ => .next s

/-- moveArrival: step 3 of R313. -/
def execMoveArrival (i : Nat) (s : State) : Res :=
  match s.place.moves[i]? with
  | none => .next s
  | some m =>
    match m.stage with
    | .departed =>
      match spaceOf s m.ctxid m.num with
      | none => .next s
      | some sp =>
        if poolHeld s sp m.dest || !arrived s m.via then .next s
        else
        match moveInst sp m, freeRecord sp m.dest with
        | some x, some rs =>
          let a := stampAt sp (nowNs s) m.region
          let y : Inst := { x with
            st := .live, a := a, region := m.region, words := setPoint x.words ⟨m.x, m.y, m.z⟩ }
          .next (tellMove (putSpace s (putInst sp m.dest rs y)) i { m with stage := .arrived a rs } m.dest m.source)
        | _, _ => .next (tellMove s i { m with stage := .refused } m.dest m.source)
    | _ => .next s

/-- moveAck: steps 4 and 5 of R313 after an arrival. -/
def execMoveAck (i : Nat) (s : State) : Res :=
  match s.place.moves[i]? with
  | none => .next s
  | some m =>
    match m.stage with
    | .arrived a rs =>
      if arrived s m.via then .next (moveSource s i m m.home (.acked a rs) (.tomb a) true) else .next s
    | _ => .next s

/-- moveRefuse: steps 4 and 5 of R313 after a refusal. -/
def execMoveRefuse (i : Nat) (s : State) : Res :=
  match s.place.moves[i]? with
  | none => .next s
  | some m =>
    match m.stage with
    | .refused => if arrived s m.via then .next (moveSource s i m m.home .returned .live true) else .next s
    | _ => .next s

/-- The answer of a cell to a dereference on its way to its stalled slot (17 R336; 20 R377). -/
def answerSlot (s : State) (src c : Nat) (k : Fin 4) (ans : DerefAnswer) : State :=
  match (slotAt s c k).stall with
  | .place op d w _ =>
    let (via, s1) := cellSend s src c
    putSlotAt s1 c k { slotAt s1 c k with stall := .place op d w (some (ans, via)) }
  | _ => s

/-- moveHomeUpdate: step 6 of R313, and the answer of the pset (R328). -/
def execMoveHomeUpdate (i : Nat) (s : State) : Res :=
  match s.place.moves[i]? with
  | none => .next s
  | some m =>
    match spaceOf s m.ctxid m.num with
    | none => .next s
    | some sp =>
      if !arrived s m.via then .next s
      else
      let h := handleSlot sp m.home m.hslot
      let drop (x : State) : State := { x with place := { x.place with moves := listDrop x.place.moves i } }
      match m.stage with
      | .acked _ rs =>
        let notices := h.queue.map (fun q => (q.cell, placeKey m.home m.hslot))
        let sp1 := putHandle sp m.home m.hslot { h with moving := false, holds := some (m.dest, rs) }
        .next (answerSlot (drop (putSpace s { sp1 with redirects := sp1.redirects ++ notices }))
          m.home m.cell m.slot (.done 1))
      | .returned =>
        .next (answerSlot (drop (putSpace s (putHandle sp m.home m.hslot { h with moving := false })))
          m.home m.cell m.slot (.done 2))
      | _ => .next s

/-- A dereference of a queue taken: the owner's part of one that its home has sent on, else the home's part, with its answer on its way
(R310; 17 R336). -/
def takeDeref (s : State) (sp : Space) (home slot : Nat) (q : QueuedDeref) : State :=
  let h := handleSlot sp home slot
  let sp1 := putHandle sp home slot { h with queue := h.queue.erase q }
  match q.fwd with
  | some (owner, rs) =>
    let r := derefOwner (putSpace s sp1) sp1 owner rs q.op
    answerSlot r.1 owner q.cell q.slot r.2
  | none =>
    let r := derefAt (putSpace s sp1) sp1 home slot q.gen q.op q.cell q.slot
    match r.2 with
    | some ans => answerSlot r.1 home q.cell q.slot ans
    | none => r.1

/-- The dereference of a handle that is next: the one that its home has sent on to an owner, else the first that has come (R310). -/
def nextDeref (s : State) (h : Handle) : Option QueuedDeref :=
  match h.queue.find? (fun q => q.fwd.isSome) with
  | some q => if arrived s q.via then some q else none
  | none => h.queue.find? (fun q => arrived s q.via)

/-- Whether a dereference waits for memory: of the owner that it has been sent on to, or of home and owner (20 R367, R373). -/
def queuedHeld (s : State) (sp : Space) (home slot : Nat) (q : QueuedDeref) : Bool :=
  match q.fwd with
  | some (owner, _) => poolHeld s sp owner
  | none => derefHeld s sp home slot

/-- derefAtHome: the next dereference of a handle is performed, at its home or at the owner it has been sent on to, in home order (R310;
17 R336; 20 R377). -/
def execDerefAtHome (space home slot : Nat) (s : State) : Res :=
  match s.place.spaces[space]? with
  | none => .next s
  | some sp =>
    let h := handleSlot sp home slot
    match nextDeref s h with
    | none => .next s
    | some q => if h.moving || queuedHeld s sp home slot q then .next s else .next (takeDeref s sp home slot q)

/-- tombstoneFree: a tombstone's record slot is freed once the window has passed (R314). -/
def execTombstoneFree (space owner slot : Nat) (s : State) : Res :=
  match s.place.spaces[space]? with
  | none => .next s
  | some sp =>
    match tabFind sp.insts (placeKey owner slot) with
    | some x =>
      match x.st with
      | .tomb a' =>
        if a' + windowNs sp < nowNs s then
          .next (putSpace s { sp with insts := tabErase sp.insts (placeKey owner slot) })
        else .next s
      | _ => .next s
    | none => .next s

/-! ## pspc (R334) -/

/-- The physical address at which a place agent reaches a virtual address for reading and writing. -/
def agentPa (s : State) (a : Nat) : Option Nat :=
  match locate s ⟨6, 0x1B4, true, true, false, false⟩ (BitVec.ofNat 64 a) with
  | .ok (.mem pa) => if a < 2 ^ 55 then some pa else none
  | _ => none

/-- The physical addresses of the 64 KiB pages of a range, none when one fails. -/
def agentPages (s : State) (base n : Nat) : Option (List Nat) :=
  ((List.range ((base % 65536 + n + 65535) / 65536)).map (fun i => base / 65536 * 65536 + 65536 * i)).mapM
    (agentPa s)

/-- n bytes at a virtual address through its pages. -/
def pagedBytes (s : State) (pages : List Nat) (base n : Nat) : List Byte :=
  (List.range n).map (fun i =>
    let o := base % 65536 + i
    physByte s (pages.getD (o / 65536) 0 + o % 65536))

/-- Whether a space descriptor is well formed (R334). -/
def spaceDescOk (v : Nat) : Bool :=
  let w : BitVec 512 := BitVec.ofNat 512 v
  bitsOf w 511 224 = 0 && bitsOf w 191 168 = 0 && bitsOf w 159 157 = 0 && bitsOf w 151 146 = 0 &&
    bitsOf w 143 140 = 0 && bitsOf w 145 144 ≤ 2 && 4 ≤ bitsOf w 156 152 && bitsOf w 156 152 ≤ 24 &&
    bitsOf w 79 64 = 0 && bitsOf w 127 119 = 0 && bitsOf w 4 0 = 0 && bitsOf w 63 55 = 0

/-- An entry of a region map (R305). -/
def regionEntry (v : Nat) : Region :=
  let f (k : Nat) : BitVec 32 := BitVec.ofNat 32 (v / 2 ^ (32 * k))
  ⟨#v[f 0, f 1, f 2], #v[f 3, f 4, f 5], v / 2 ^ 192 % 1024⟩

/-- The entries of a region map in its bytes. -/
def mapEntries (bs : List Byte) : Nat → List Nat
  | 0 => []
  | n + 1 => natOf (bs.take 32) :: mapEntries (bs.drop 32) n

/-- The whole space (R305). -/
def isWholeSpace (r : Region) : Bool :=
  r.lo = Vector.replicate 3 0x80000000 && r.hi = Vector.replicate 3 0x7FFFFFFF

/-- Whether a region map is well formed (R334). -/
def regionMapOk (s : State) (es : List Nat) : Bool :=
  es.all (fun v =>
    let r := regionEntry v
    v / 2 ^ 202 = 0 && r.owner < cellCount s && (List.finRange 3).all (fun i => r.lo[i].sle r.hi[i])) &&
  (match es.getLast? with
    | some v => isWholeSpace (regionEntry v)
    | none => false)

/-- The pieces of n bytes from a virtual address on, one for each of its pages. -/
def pagePieces (owner base n : Nat) : List Nat → List (Nat × Nat × Nat)
  | [] => []
  | p :: ps =>
    let k := min n (65536 - base % 65536)
    (owner, p + base % 65536, k) :: pagePieces owner (base + k) (n - k) ps

/-- The pieces of memory of the pools of the owners, in increasing cell number (R307, R334). -/
def poolPieces (s : State) (pool bytes : Nat) : List Nat → Option (List (Nat × Nat × Nat))
  | [] => some []
  | c :: cs => (agentPages s (pool + c * bytes) bytes).bind (fun l =>
      (poolPieces s pool bytes cs).map (fun l' => pagePieces c (pool + c * bytes) bytes l ++ l'))

/-- What a define answers: a status, or the space (R334). -/
def defineSpace (s : State) (num : Fin 16) (a : Nat) : Nat ⊕ Space :=
  let ctxid := (ccOf s).desc.ctxid
  if (spaceOf s ctxid num).isSome then .inl 1
  else if a % 64 ≠ 0 then .inl 2
  else
    match agentPages s a 64 with
    | none => .inl 4
    | some pg =>
      let v := natOf (pagedBytes s pg a 64)
      let w : BitVec 512 := BitVec.ofNat 512 v
      if !spaceDescOk v then .inl 2
      else
        let n := bitsOf w 139 128 + 1
        let map := bitsOf w 63 0
        match agentPages s map (32 * n) with
        | none => .inl 4
        | some mpg =>
          let es := mapEntries (pagedBytes s mpg map (32 * n)) n
          if !regionMapOk s es then .inl 2
          else
            let rs := BitVec.ofNat 2 (bitsOf w 145 144)
            let pslots := bitsOf w 156 152
            let size := 2 ^ pslots * (2 ^ (5 + rs.toNat) + 16)
            let regions := es.map regionEntry
            let owners := (List.range 1024).filter (fun c => regions.any (fun r => r.owner = c))
            match poolPieces s (bitsOf w 127 64) size owners with
            | none => .inl 4
            | some pieces =>
              .inr ⟨ctxid, num, bitsOf w 223 192, BitVec.ofNat 8 (bitsOf w 167 160), pslots, rs, regions,
                [], [], [], [], pieces⟩

/-- The ranges of memory that a define reads, as far as what stands there now says: its descriptor and its map (R334). -/
def defineRanges (s : State) (a : Nat) : List (Nat × Nat) :=
  if a % 64 ≠ 0 then []
  else
    (a, 64) :: match agentPages s a 64 with
      | none => []
      | some pg =>
        let v := natOf (pagedBytes s pg a 64)
        let w : BitVec 512 := BitVec.ofNat 512 v
        if spaceDescOk v then [(bitsOf w 63 0, 32 * (bitsOf w 139 128 + 1))] else []

/-- The virtual pages of a range in the global range of addresses. -/
def rangePages (base n : Nat) : List Nat :=
  ((List.range ((base % 65536 + n + 65535) / 65536)).map (fun i => base / 65536 + i)).filter (fun p => p < 2 ^ 39)

/-- The lines of n bytes at a virtual address through its pages; none when one fails. -/
def pagedLines (s : State) (base n : Nat) : List Nat :=
  match agentPages s base n with
  | none => []
  | some pages =>
    (List.range ((base % 128 + n + 127) / 128)).map (fun i =>
      let o := base % 65536 / 128 * 128 + 128 * i
      (pages.getD (o / 65536) 0 + o % 65536) / 128)

/-- The descriptor and the map of a define got by the place agent, or the state in which it waits (R334; 20 R367). -/
def getDefine (s : State) (a : Nat) : Except State State :=
  let rs := defineRanges s a
  match walkPages s s.curCell (ccOf s).desc (rs.flatMap (fun r => rangePages r.1 r.2)).eraseDups with
  | .error w => .error w
  | .ok t => acquireLines t (myDie t) (engineOf (myDie t)) false (rs.flatMap (fun r => pagedLines t r.1 r.2))

/-- The first sector of n bytes at a virtual address that a place agent reads as poison. -/
def rangePoison (s : State) (base n : Nat) : Option Word :=
  match agentPages s base n with
  | none => none
  | some pages =>
    ((List.range ((base % 32 + n + 31) / 32)).find? (fun i =>
      let o := base % 65536 / 32 * 32 + 32 * i
      readsBad s (myDie s) ((pages.getD (o / 65536) 0 + o % 65536) / 32))).map (fun i => BitVec.ofNat 64 (base / 32 * 32 + 32 * i))

/-- The UE of a define that reads poison: in a table entry, the descriptor or the map (18 R344; 20 R384; log 59 DESIGN CHOICE). -/
def defineUe (s : State) (a : Nat) : Option TrapInfo :=
  (defineRanges s a).findSome? (fun r =>
    let acc : Access := ⟨6, 0x1B4, true, true, false, false⟩
    let first : Word := BitVec.ofNat 64 r.1
    match walkUe s s.curCell (ccOf s).desc acc first ((rangePages r.1 r.2).map (fun p => BitVec.ofNat 64 (max r.1 (65536 * p)))) with
    | some e => some e
    | none => (rangePoison s r.1 r.2).map (ueTrap acc first))

/-- pspc, define (R334; 18 R344; log 36 DEDUCED). -/
def execPspcDefine (d a : GReg) (sp : Fin 16) (s : State) : Res :=
  if !privileged s then .next (trapPriv s 0x1B4)
  else if (spaceOf s (ccOf s).desc.ctxid sp).isSome then .next (finishG s d 1)
  else
    match getDefine s (readN s a) with
    | .error w => .next (waitHere w)
    | .ok t =>
      match defineUe t (readN t a) with
      | some e => .next (takeInfo t e)
      | none =>
        match defineSpace t sp (readN t a) with
        | .inl n => .next (finishG t d (BitVec.ofNat 64 n))
        | .inr x => .next (finishG { t with place := { t.place with spaces := t.place.spaces ++ [x] } } d 0)

/-- Whether a slot of a context has issued a pnew in a space that is still under way (R310, R334). -/
def pnewPending (s : State) (sp : Space) (e : Nat × Slot) : Bool :=
  (match e.2.issued, e.2.stall with
    | .pnew _ _ _ n, .trip _ | .pnew _ _ _ n, .there | .pnew _ _ _ n, .again => n = sp.num
    | _, _ => false) && (ccAt s (e.1 / 4)).desc.ctxid = sp.ctxid

/-- Whether a dereference or a move of a space is in flight (R310, R334). -/
def spaceBusy (s : State) (sp : Space) : Bool :=
  s.place.moves.any (fun m => m.ctxid = sp.ctxid && m.num = sp.num) || sp.handles.any (fun e => !e.2.queue.isEmpty) ||
    s.slots.any (pnewPending s sp)

/-- Whether a query is one of a space. -/
def queryOf (sp : Space) (q : Query) : Bool := q.ctxid = sp.ctxid && q.num = sp.num

/-- A space dropped; its queries in flight complete with STATUS STALE, and the pool memory holds what software last stored there
(R334; log 66 DESIGN CHOICE). -/
def deleteSpace (s : State) (sp : Space) : State :=
  let qs := s.place.queries.filter (queryOf sp)
  let s1 := { s with place := { s.place with
    spaces := s.place.spaces.filter (fun x => !sameSpace x sp)
    queries := s.place.queries.filter (fun q => !queryOf sp q) } }
  qs.foldl (fun s q => finishQuery s { q with stale := true }) s1

/-- pspc, delete (R334). -/
def execPspcDelete (d _a : GReg) (sp : Fin 16) (s : State) : Res :=
  if !privileged s then .next (trapPriv s 0x1B4)
  else
    match spaceOf s (ccOf s).desc.ctxid sp with
    | none => .next (finishG s d 3)
    | some x => if spaceBusy s x then .next (waitHere s) else .next (finishG (deleteSpace s x) d 0)

end Sys2Proof.Machine
end

