-- ==== Sys2Proof/Machine/EngineEvents.lean ====
section
/-! DEFINITION. The steps of the engines: copy channels landing bytes, the commands of the MXU, narrowed mode
(04 R88-R90; 14 R279, R282, R283, R294-R299). -/

namespace Sys2Proof.Machine

/-! ## Memory as engines reach it -/

/-- Why an engine cannot read or write a byte now. -/
inductive EngBad where
  | wait
  | xlate (page : BitVec 39)
  | prot
  | addr
  | ue
deriving DecidableEq, Repr

/-- The physical address of a byte for an engine of a cell (14 R283). -/
def engTranslate (s : State) (c : Nat) (write : Bool) (va : Word) : Except EngBad Nat :=
  if bitsOf va 63 55 ≠ 0 then .error .addr
  else
    match translate s c (ccAt s c).desc va.toNat with
    | .error _ => .error (.xlate (keyPage va))
    | .ok e => if if write then !e.w else !e.r then .error .prot else .ok (tlbPa e va.toNat)

/-- An engine's access stopped before it was performed: the state then, and why. -/
abbrev EngRes (α : Type) := Except (State × EngBad) α

/-- A page walked and translated for an engine of a cell; a poisoned table entry is an error (10 R211; 14 R283, R296; log 59 DESIGN
CHOICE). -/
def engWalk (s : State) (c : Nat) (write : Bool) (va : Word) : EngRes (State × Nat) :=
  match walkPages s c (ccAt s c).desc (pagesOf [va]) with
  | .error w => .error (w, .wait)
  | .ok t =>
    if (poisonedWalk t c (ccAt t c).desc [va]).isSome then .error (t, .ue)
    else
      match engTranslate t c write va with
      | .error b => .error (t, b)
      | .ok pa => .ok (t, pa)

/-- A byte that an engine may read through the L2 once it has its line, or why not. -/
def engRead (s : State) (c : Nat) (va : Word) : EngRes (State × Nat) :=
  match engWalk s c false va with
  | .error e => .error e
  | .ok (t, pa) =>
    match engineLine t c false (pa / 128) with
    | .error w => .error (w, .wait)
    | .ok u =>
      if readsBad u (dieOf (physOf s c)) (pa / 32) then .error (u, .ue) else .ok (u, pa)

/-- A stream of a die that its routing stage holds, or whose home it does not reach: a request held for it, once (20 R367, R377). -/
def holdStream (s : State) (d line : Nat) : State :=
  let r : CohReq := ⟨.home, d, line, .stream⟩
  if lineHeld s d line && !s.coh.held.contains r then holdReq s r else s

/-- Whether a stream of a die for a line waits: held at the routing stage, behind one held there, or its home out of reach (20 R367,
R377). -/
def streamHeld (s : State) (d line : Nat) : Bool :=
  lineHeld s d line || s.coh.held.contains ⟨.home, d, line, .stream⟩ || !homeReachable s d line

/-- A byte that an engine may stream past the caches, in the order of its die's held requests, or why not (11 R243; 20 R367). -/
def engStream (s : State) (c : Nat) (va : Word) : EngRes (State × Nat) :=
  match engWalk s c false va with
  | .error e => .error e
  | .ok (t, pa) =>
    let d := dieOf (physOf s c)
    if streamHeld t d (pa / 128) then .error (holdStream t d (pa / 128), .wait)
    else if sectorBad t (pa / 32) then .error (t, .ue)
    else .ok (t, pa)

/-! ## Tiles returned (14 R279) -/

/-- Whether a transfer names a tile. -/
def Transfer.names (t : Transfer) (tile : Nat) : Bool := (tilesOf t.o t.len).contains tile

/-- Whether a command names a tile. -/
def MxCmd.names (c : MxCmd) (tile : Nat) : Bool :=
  (tilesOf (commandRange c.op).1 (commandRange c.op).2).contains tile

/-- Whether a slot stalled for an engine names a tile. -/
def stallNames (e : Engine) (tile : Nat) : Stall → Bool
  | .cpy _ ch t => chanEngine ch = e && t.names tile
  | .mxq _ c => e = .mxu && c.names tile
  | _ => false

/-- Whether a stalled slot of a cell names a tile for an engine. -/
def stalledNames (s : State) (c : Nat) (e : Engine) (tile : Nat) : Bool :=
  (slotsOf s c).any (fun x => stallNames e tile x.stall)

/-- Whether anything names a tile of an engine. -/
def namesTile (s : State) (c : Nat) (e : Engine) (tile : Nat) : Bool :=
  stalledNames s c e tile ||
    (match e with
      | .cch0 => (ccAt s c).cch[0].queue.any (fun t => t.names tile)
      | .cch1 => (ccAt s c).cch[1].queue.any (fun t => t.names tile)
      | .mxu => (ccAt s c).mxu.queue.any (fun q => q.names tile))

/-- Tiles given back to the cell. -/
def returnTiles (s : State) (c : Nat) (ts : List Nat) : State :=
  putCc s c { ccAt s c with tiles := ts.foldl (fun m t => tabErase m t) (ccAt s c).tiles }

/-- The tiles of a completed transfer or command that nothing names any longer returned. -/
def returnUnnamed (s : State) (c : Nat) (e : Engine) (ts : List Nat) : State :=
  returnTiles s c (ts.filter (fun t => !namesTile s c e t))

/-! ## Copy channels (14 R282, R283) -/

/-- The write pointer of a channel raised by one byte. -/
def bumpWp (s : State) (c : Nat) (ch : Fin 2) : State :=
  let x := (ccAt s c).cch[ch]
  putChan s c ch { x with wp := x.wp + 1 }

/-- A byte read from memory and written to the tile; a sector written whole loses its poison. -/
def landIn (s : State) (c : Nat) (t : Transfer) (j pa : Nat) : State :=
  let p := t.o + j
  let x := ccAt s c
  let pp := if p % 32 = 31 && t.o + 31 ≤ p then x.padPoison.filter (fun k => k != p / 32) else x.padPoison
  putCc s c { x with spad := memSet x.spad p (softByte s pa), padPoison := pp }

/-- A byte read from the tile and written to memory; a line written whole loses its poison. -/
def landOut (s : State) (c : Nat) (t : Transfer) (j pa : Nat) : State :=
  let s1 := if pa % 128 = 127 && 127 ≤ j % t.rb then healLine s (pa / 128) else s
  physSet (damagePools s1 [.mem pa]) pa (memGet (ccAt s c).spad (t.o + j))

/-- One byte landed, its line got by the engine, or why not. -/
def landByte (s : State) (c : Nat) (t : Transfer) (j : Nat) : EngRes State :=
  let va := transferAddr t j
  if t.out then
    match engWalk s c true va with
    | .error e => .error e
    | .ok (u, pa) =>
      if (ccAt u c).padPoison.contains ((t.o + j) / 32) then .error (u, .ue)
      else
        match engineLine u c true (pa / 128) with
        | .error w => .error (w, .wait)
        | .ok v => .ok (landOut v c t j pa)
  else (engRead s c va).map (fun r => landIn r.1 c t j r.2)

/-- Up to n bytes landed, and what stopped the channel before that. -/
def landBytes' (s : State) (c : Nat) (ch : Fin 2) (t : Transfer) : Nat → State × Option EngBad
  | 0 => (s, none)
  | n + 1 =>
    let j := (ccAt s c).cch[ch].wp - t.base
    if t.len ≤ j then (s, none)
    else
      match landByte s c t j with
      | .error (w, b) => (w, some b)
      | .ok s1 => landBytes' (bumpWp s1 c ch) c ch t n

/-- A channel in error: WP frozen, its tiles returned but for those a stalled cpy names, its queue discarded,
CCH_FAULT posted (14 R283). -/
def chanError (s : State) (c : Nat) (ch : Fin 2) (cause : Nat) : State :=
  let x := (ccAt s c).cch[ch]
  let e := chanEngine ch
  let ts := ((ccAt s c).tiles.filter (fun t => t.2 = e && !stalledNames s c e t.1)).map (fun t => t.1)
  let s1 := putChan s c ch { x with queue := [], paused := false, error := true }
  postEvent (returnTiles s1 c ts) c 3 (BitVec.ofNat 64 (cause * 256 + ch.val))

/-- The current transfer completed when WP has reached its end (14 R282). -/
def chanComplete (s : State) (c : Nat) (ch : Fin 2) (t : Transfer) : State :=
  let x := (ccAt s c).cch[ch]
  if t.base + t.len ≤ x.wp then
    returnUnnamed (putChan s c ch { x with queue := x.queue.drop 1 }) c (chanEngine ch) (tilesOf t.o t.len)
  else s

/-- A channel paused for a translation, the fault posted (14 R283). -/
def chanPause (s : State) (c : Nat) (ch : Fin 2) (t : Transfer) (page : BitVec 39) : State :=
  let x := (ccAt s c).cch[ch]
  sendPost (putChan s c ch { x with paused := true }) c (.cch c ch) page (if t.out then .write else .read)

/-- cchLand: a copy channel lands up to n bytes of its current transfer (14 R282, R283). -/
def execCchLand (c : Nat) (ch : Fin 2) (n : Nat) (u : EngineUpset) (s : State) : Res :=
  let x := (ccAt s c).cch[ch]
  match x.queue with
  | [] => .next s
  | t :: _ =>
    if !(cellAt s c).live || x.paused || x.error then .next s
    else
      let r := landBytes' s c ch t n
      match r.2, u with
      | some .wait, _ => .next r.1
      | some (.xlate p), _ => .next (chanPause r.1 c ch t p)
      | some .prot, _ => .next (chanError r.1 c ch 2)
      | some .addr, _ => .next (chanError r.1 c ch 3)
      | some .ue, _ => .next (chanError r.1 c ch 4)
      | none, .ue _ =>
        if (ccAt r.1 c).cch[ch].wp < t.base + t.len then .next (chanError r.1 c ch 4)
        else .next (chanComplete r.1 c ch t)
      | none, .none => .next (chanComplete r.1 c ch t)

/-! ## Operands of the MXU (14 R294; 04 R79, R88, R89) -/

/-- An operand element: its value, and its bits when it is an FP32 NaN. -/
structure MxElem where
  val : RealVal
  nan32 : Option FpBits
deriving DecidableEq, Repr

/-- The value of a floating-point element. -/
def fpElem (t : FpTy) (x : FpBits) : MxElem :=
  if fpIsNan t x then ⟨.nan, if t = .f32 then some x else none⟩
  else if fpIsInf t x then ⟨.inf (fpNeg t x), none⟩
  else ⟨.fin (fpNeg t x) (fpSig t x) (fpExp t x), none⟩

/-- Element n of a row or slot whose element bytes and exponent bytes are read by `el` and `ex`; a format that no entry
may hold leaves the value open (14 R286; log 20 DESIGN CHOICE). -/
def elemOf (fmt : BitVec 4) (el ex : Nat → Byte) (n : Nat) : MxElem :=
  let two : FpBits := BitVec.ofNat 32 ((el (2 * n)).toNat + (el (2 * n + 1)).toNat * 256)
  let bx (f : BxTy) (bits : Nat) : MxElem := ⟨bxValue f (ex (2 * (n / 32))).toNat (ex (2 * (n / 32) + 1)).toNat bits, none⟩
  match fmt.toNat with
  | 9 => fpElem .f16 two
  | 10 => fpElem .bf16 two
  | 11 => fpElem .f32 (BitVec.ofNat 32 (natOf ((List.range 4).map (fun i => el (4 * n + i)))))
  | 12 => bx .bx8 (el n).toNat
  | 13 => bx .bx4 ((el (n / 2)).toNat / (if n % 2 = 0 then 1 else 16) % 16)
  | _ => fpElem .f32 (BitVec.ofNat 32 (Config.freeWord (2 ^ 100 + n)).toNat)

/-- A byte of an operand at a virtual address: through the caches, or streamed (14 R296). -/
def opByte (s : State) (c : Nat) (stream : Bool) (va : Word) : Byte :=
  match engTranslate s c false va with
  | .ok pa => if stream then streamByte s pa else softByte s pa
  | .error _ => 0

/-- Block k of row i of a matrix (14 R294). -/
def blockRow (s : State) (c : Nat) (stream : Bool) (h : Shape) (i k : Nat) : List MxElem :=
  let el (n : Nat) : Byte := opByte s c stream (h.base + BitVec.ofNat 64 (i * h.stride + n))
  let ex (n : Nat) : Byte := opByte s c stream (h.eplane + BitVec.ofNat 64 (2 * (i * (h.cols / 32)) + n))
  (List.range 32).map (fun t => elemOf h.fmt el ex (32 * k + t))

/-- Block k of a resident vector slot (14 R294). -/
def blockSlot (v : VecSlot) (k : Nat) : List MxElem :=
  (List.range 32).map (fun t => elemOf v.fmt (fun n => v.elems.getD n 0) (fun n => v.exps.getD n 0) (32 * k + t))

/-! ## Summation (04 R88, R89) -/

/-- A product that is not a NaN: none for infinity times zero. -/
def mxProduct (a b : RealVal) : RealVal :=
  match a, b with
  | .fin n m e, .fin n' m' e' => .fin (n != n') (m * m') (e + e')
  | .inf n, .inf n' => .inf (n != n')
  | .inf n, .fin n' m _ => if m = 0 then .nan else .inf (n != n')
  | .fin n m _, .inf n' => if m = 0 then .nan else .inf (n != n')
  | _, _ => .nan

/-- The NaN that an operand element gives (rule 2 of R89). -/
def elemNan (tag : BitVec 22) (x : MxElem) : FpBits :=
  match x.nan32 with
  | some b => fpQuiet .f32 b
  | none => nanCreated .f32 tag

/-- The first NaN of a block in the order A, B, product (rule 2 of R89). -/
def firstNan (tag : BitVec 22) : List (MxElem × MxElem) → Option FpBits
  | [] => none
  | (a, b) :: l =>
    if a.val = .nan then some (elemNan tag a)
    else if b.val = .nan then some (elemNan tag b)
    else if mxProduct a.val b.val = .nan then some (nanCreated .f32 tag)
    else firstNan tag l

/-- The exact sum of finite products as sign, magnitude and exponent; a zero is -0 when all are -0 (R88). -/
def exactSum (ps : List RealVal) : Bool × Nat × Int :=
  let e := ps.foldl (fun m p => match p with
    | .fin _ _ x => min m x
    | _ => m) (0 : Int)
  let t := ps.foldl (fun s p => match p with
    | .fin n m x => s + signedNat n m * 2 ^ (x - e).toNat
    | _ => s) (0 : Int)
  if t = 0 then (ps.all (fun p => match p with
    | .fin n m _ => n && m = 0
    | _ => false), 0, e)
  else (t < 0, t.natAbs, e)

/-- One output element after one block (R88, R89). -/
def mxBlock (tag : BitVec 22) (acc : FpBits) (as bs : List MxElem) : FpBits :=
  if fpIsNan .f32 acc then acc
  else
    let ab := as.zip bs
    match firstNan tag ab with
    | some n => n
    | none =>
      let ps := ab.map (fun x => mxProduct x.1.val x.2.val)
      match ps.contains (.inf false), ps.contains (.inf true) with
      | true, true => nanCreated .f32 tag
      | true, false => addBody .f32 .rne tag acc (fpMake .f32 false (infMag .f32))
      | false, true => addBody .f32 .rne tag acc (fpMake .f32 true (infMag .f32))
      | false, false =>
        if fpIsInf .f32 acc then acc
        else
          let t := exactSum ps
          fpRoundSum .f32 .rne (fpNeg .f32 acc) (fpSig .f32 acc) (fpExp .f32 acc) t.1 t.2.1 t.2.2

/-- An accumulator element. -/
def accGet (x : Mxu) (a i j : Nat) : FpBits := tabGet 0 x.acc (4096 * a + 64 * i + j)

/-- An accumulator replaced; an element +0 is not listed. -/
def accPut (x : Mxu) (a : Nat) (f : Nat → Nat → FpBits) : Mxu :=
  let new := (List.range 4096).filterMap (fun n =>
    let v := f (n / 64) (n % 64)
    if v = 0 then none else some (4096 * a + n, v))
  { x with acc := x.acc.filter (fun e => e.1 < 4096 * a) ++ new ++ x.acc.filter (fun e => 4096 * (a + 1) ≤ e.1) }

/-- One block applied to every element of an accumulator that `col` gives a column block (R88, R90). -/
def accBlock (x : Mxu) (a : Nat) (tag : BitVec 22) (rows : List (List MxElem)) (col : Nat → Option (List MxElem)) :
    Mxu :=
  accPut x a (fun i j =>
    match col j with
    | some bs => mxBlock tag (accGet x a i j) (rows.getD i []) bs
    | none => accGet x a i j)

/-! ## What a command reads (14 R296-R298) -/

/-- The ranges of block k of a matrix: elements, and exponents for BX. -/
def blockRanges (h : Shape) (k : Nat) : List (Word × Nat) :=
  (List.range h.rows).flatMap (fun i =>
    (h.base + BitVec.ofNat 64 (i * h.stride + elemBytes h.fmt (32 * k)), elemBytes h.fmt 32) ::
      (if (bxOf h.fmt).isSome then [(h.eplane + BitVec.ofNat 64 (2 * (i * (h.cols / 32) + k)), 2)] else []))

/-- The ranges read by block k of a command that starts at a block: the first reads the trailer and the blocks below as
well, for the check alone (14 R298). -/
def readRanges (h : Shape) (startK k : Nat) : List (Word × Nat) :=
  (if k = startK && (bxOf h.fmt).isSome then
    (h.trailer, 32) :: (List.range startK).flatMap (blockRanges h)
  else []) ++ blockRanges h k

/-- One address in each sector of a range. -/
def sectorAddrs (a : Word) (n : Nat) : List Word :=
  let o := a.toNat % 32
  (List.range ((o + n + 31) / 32)).map (fun i => if i = 0 then a else a + BitVec.ofNat 64 (32 * i - o))

/-- Whether one more line of its set can be pinned on a die: fewer than 12 others are (R222). -/
def pinRoom (s : State) (d line : Nat) : Bool :=
  s.coh.pins.length < 12 ||
    (((s.coh.pins.filter (fun p => p.die = d && p.line != line)).map (fun p => p.line)).eraseDups.countP
      (fun l => l2Set s d l = l2Set s d line)) < 12

/-- A line pinned for a command whose own pins come after the first n0; when they fill its set, the oldest of them goes,
consumed by then; none when the pins of others fill it (R222; log 39 DESIGN CHOICE). -/
def pinLine (s : State) (n0 d line : Nat) : Option State :=
  let mine := s.coh.pins.drop n0
  let others := s.coh.pins.take n0
  if mine.any (fun p => p.die = d && p.line = line) then some s
  else if pinRoom s d line then some (putCoh s { s.coh with pins := s.coh.pins ++ [⟨d, line, false⟩] })
  else
    (mine.findIdx? (fun p => l2Set s d p.line = l2Set s d line && others.all (fun q => !(q.die = d && q.line = p.line)))).map
      (fun i => putCoh s { s.coh with pins := others ++ listDrop mine i ++ [⟨d, line, false⟩] })

/-- A sector read for a command: streamed, or through the L2, its line pinned (R222, R243, R296). -/
def readSector (s : State) (c : Nat) (stream : Bool) (n0 : Nat) (a : Word) : EngRes State :=
  if stream then (engStream s c a).map (fun r => r.1)
  else
    match engRead s c a with
    | .error e => .error e
    | .ok (t, pa) =>
      match pinLine t n0 (dieOf (physOf s c)) (pa / 128) with
      | some u => .ok u
      | none => .error (t, .wait)

/-- Sectors read in turn, to the first that cannot be. -/
def readSectors (s : State) (c : Nat) (stream : Bool) (n0 : Nat) : List Word → EngRes State
  | [] => .ok s
  | a :: as =>
    match readSector s c stream n0 a with
    | .error e => .error e
    | .ok t => readSectors t c stream n0 as

/-- How a command's reads end. -/
inductive MxRun where
  | wait (s : State)
  | pause (s : State) (page : BitVec 39)
  | stop (s : State) (k cause : Nat)
  | ok (s : State)
deriving DecidableEq, Repr

/-- The pins of a command that has not run to its end given up. -/
def unpin (s : State) (n0 : Nat) : State := putCoh s { s.coh with pins := s.coh.pins.take n0 }

/-- The end that a failed read gives at a block (14 R296, R297). -/
def badRun (s : State) (n0 k : Nat) : EngBad → MxRun
  | .wait => .wait (unpin s n0)
  | .xlate p => .pause (unpin s n0) p
  | .prot => .stop (unpin s n0) k 3
  | .addr => .stop (unpin s n0) k 4
  | .ue => .stop (unpin s n0) k 1

/-- One address in each sector that block k of a command reads. -/
def blockAddrs (hs : List Shape) (startK k : Nat) : List Word :=
  (hs.flatMap (fun h => readRanges h startK k)).flatMap (fun r => sectorAddrs r.1 r.2)

/-- The sectors of a block read in turn, up to one in a page for which a page service has failed: that one is an error (14 R283, R296;
18 R351). -/
def readBlock (s : State) (c : Nat) (stream : Bool) (n0 : Nat) (as : List Word) : EngRes State × Bool :=
  match (ccAt s c).mxu.failed with
  | none => (readSectors s c stream n0 as, false)
  | some p => (readSectors s c stream n0 (as.takeWhile (fun a => keyPage a != p)), as.any (fun a => keyPage a = p))

/-- The reads of blocks k to k + n - 1 of a command whose pins come after the first n0. -/
def mxReads (s : State) (c : Nat) (stream : Bool) (hs : List Shape) (startK : Nat) (u : EngineUpset) (n0 k : Nat) : Nat → MxRun
  | 0 => .ok s
  | n + 1 =>
    match readBlock s c stream n0 (blockAddrs hs startK k) with
    | (.error (w, b), _) => badRun w n0 k b
    | (.ok t, true) => .stop (unpin t n0) k 2
    | (.ok t, false) => if u = .ue k then .stop (unpin t n0) k 1 else mxReads t c stream hs startK u n0 (k + 1) n

/-- The bytes that a matrix's CRC covers (04 R86). -/
def crcBytesOf (s : State) (c : Nat) (stream : Bool) (h : Shape) : List Byte :=
  let rd (a : Word) (n : Nat) : List Byte := (addrsFrom a n).map (opByte s c stream)
  (List.range h.rows).flatMap (fun i => rd (h.base + BitVec.ofNat 64 (i * h.stride)) (elemBytes h.fmt h.cols)) ++
    rd h.eplane (2 * (h.rows * (h.cols / 32)))

/-- The check of an operand's trailer (04 R87); formats without one pass. -/
def trailerPasses (s : State) (c : Nat) (stream : Bool) (h : Shape) : Bool :=
  match bxOf h.fmt with
  | none => true
  | some f =>
    trailerFits (natOf ((addrsFrom h.trailer 32).map (opByte s c stream))) f (h.rows * h.cols)
      (crc32c (crcBytesOf s c stream h))

/-- The first operand whose check fails, by its number, with its trailer's address (14 R298; log 32 DEDUCED). -/
def trailerFailure (s : State) (c : Nat) (stream : Bool) : List (BitVec 2 × Shape) → Option (BitVec 2 × Word)
  | [] => none
  | (o, h) :: l => if trailerPasses s c stream h then trailerFailure s c stream l else some (o, h.trailer)

/-! ## The end of a command (14 R291, R294, R297, R298) -/

/-- The MXU of a cell put. -/
def putMxu (s : State) (c : Nat) (x : Mxu) : State := putCc s c { ccAt s c with mxu := x }

/-- The island of a cell (01 R15; log 54 DEDUCED). -/
def islandOf (s : State) (c : Nat) : Fin 24 :=
  let p := physOf s c
  Fin.ofNat 24 (5 * dieOf p + clusterOf p % 32 / 8)

/-- The uncore island of a cell's die (01 R15). -/
def uncoreOf (s : State) (c : Nat) : Fin 24 := Fin.ofNat 24 (5 * dieOf (physOf s c) + 4)

/-- Whether an alarm stands that narrows the MXU of a cell (23 R412). -/
def cellAlarm (s : State) (c : Nat) : Bool :=
  s.plat.islands[islandOf s c].alarm || s.plat.islands[uncoreOf s c].alarm

/-- The command at the head completed: mxdone raised, its tiles returned; at this boundary the sequencer follows the alarms
(R299). -/
def completeCommand (s : State) (c : Nat) (q : MxCmd) : State :=
  let x := (ccAt s c).mxu
  let s1 := putMxu s c { x with queue := x.queue.drop 1, done := x.done + 1, failed := .none, narrow := cellAlarm s c }
  returnUnnamed s1 c .mxu (tilesOf (commandRange q.op).1 (commandRange q.op).2)

/-- The ERR code of a cause (14 R297, R301). -/
def errCode (cause : Nat) : BitVec 4 := if cause = 1 then 1 else BitVec.ofNat 4 (cause + 1)

/-- An error recorded in mxstat. -/
def recordError (x : Mxu) (q : MxCmd) (err : BitVec 4) (k : Nat) : Mxu :=
  { x with errtk := BitVec.ofNat 16 q.ticket, k := BitVec.ofNat 16 k, err := err }

/-- An accumulator's poison bit. -/
def setPoison (x : Mxu) (a : Fin 4) (b : Bool) : Mxu := { x with poisoned := x.poisoned.set a b }

/-- An error that stops or ends a command: recorded, MXU_UE posted (14 R297). -/
def commandError (s : State) (c : Nat) (x : Mxu) (q : MxCmd) (k cause : Nat) : State :=
  let d := BitVec.ofNat 64 (q.ticket % 2 ^ 32 * 2 ^ 32 + k * 2 ^ 16 + cause * 2 ^ 8 + q.acc.val)
  completeCommand (postEvent (putMxu s c (recordError x q (errCode cause) k)) c 2 d) c q

/-- A trailer failure: recorded, and held when none is pending (14 R298). -/
def trailerError (x : Mxu) (q : MxCmd) (f : BitVec 2 × Word) : Mxu :=
  let y := recordError x q 2 0xFFFF
  if y.pend.isSome then y else { y with pend := some ⟨q.ticket, f.1, f.2⟩ }

/-- The MXU waits for a page; the fault posted (14 R296). -/
def mxPause (s : State) (c : Nat) (page : BitVec 39) : State :=
  sendPost (putMxu s c { (ccAt s c).mxu with paused := some page }) c (.tfu c) page .read

/-- The command that the sequencer runs next. -/
def headCommand (s : State) (c : Nat) : Option MxCmd :=
  if (cellAt s c).live && (ccAt s c).mxu.paused.isNone then (ccAt s c).mxu.queue.head? else none

/-- An MMA or MMV: its reads, then its blocks; `block` applies block k, its operands read in a state, `bad` says that a slot of a
failed MVLD was read. -/
def runMatrix (s : State) (c : Nat) (q : MxCmd) (hs : List (BitVec 2 × Shape)) (nb : Nat) (stream bad : Bool)
    (block : State → Mxu → Nat → Mxu) (u : EngineUpset) : State :=
  let x := (ccAt s c).mxu
  let blocks (t : State) (n : Nat) : Mxu := (List.range n).foldl (fun y i => block t y (q.startK + i)) x
  if x.poisoned[q.acc] && !q.res then completeCommand s c q
  else
    match mxReads s c stream (hs.map (fun h => h.2)) q.startK u s.coh.pins.length q.startK (nb - q.startK) with
    | .wait t => t
    | .pause t p => mxPause t c p
    | .stop t k cause => commandError t c (setPoison (blocks t (k - q.startK)) q.acc true) q k cause
    | .ok t =>
      let y := blocks t (nb - q.startK)
      match trailerFailure t c stream hs with
      | some f => completeCommand (putMxu t c (trailerError (setPoison y q.acc true) q f)) c q
      | none => completeCommand (putMxu t c (setPoison y q.acc bad)) c q

/-- mma (14 R294). -/
def execMma (c : Nat) (u : EngineUpset) (s : State) : Res :=
  match headCommand s c with
  | some q =>
    match q.op with
    | .mma a b =>
      let block (t : State) (x : Mxu) (k : Nat) : Mxu :=
        let rows := (List.range 64).map (fun i => blockRow t c false a i k)
        let cols := (List.range 64).map (fun j => blockRow t c false b j k)
        accBlock x q.acc.val (nanTag c k) rows (fun j => cols[j]?)
      .next (runMatrix s c q [(0, a), (1, b)] (a.cols / 32) false false block u)
    | _ => .next s
  | none => .next s

/-- mmv: W streamed past the L2 (14 R294). -/
def execMmv (c : Nat) (u : EngineUpset) (s : State) : Res :=
  match headCommand s c with
  | some q =>
    match q.op with
    | .mmv w vset =>
      let vs := (ccAt s c).mxu.slots
      let block (t : State) (x : Mxu) (k : Nat) : Mxu :=
        let rows := (List.range 64).map (fun i => blockRow t c true w i k)
        accBlock x q.acc.val (nanTag c k) rows (fun j =>
          if h : j < 8 then (if vset.getLsbD j then some (blockSlot vs[j] k) else none) else none)
      let bad := (vsetSlots vset).any (fun v => vs[v].bad)
      .next (runMatrix s c q [(0, w)] (w.cols / 32) true bad block u)
    | _ => .next s
  | none => .next s

/-- The bytes of one row and its exponents read into a slot (14 R294). -/
def loadSlot (s : State) (c : Nat) (h : Shape) (bad : Bool) : VecSlot where
  fmt := h.fmt
  len := h.cols
  elems := (addrsFrom h.base (elemBytes h.fmt h.cols)).map (opByte s c false)
  exps := if (bxOf h.fmt).isSome then (addrsFrom h.eplane (2 * (h.cols / 32))).map (opByte s c false) else []
  bad := bad

/-- A slot after an error on its MVLD: what it holds the spec leaves open (14 R297; log 20 DESIGN CHOICE). -/
def openSlot (s : State) (h : Shape) : VecSlot where
  fmt := h.fmt
  len := h.cols
  elems := (List.range (elemBytes h.fmt h.cols)).map (fun i => Config.freeByte (2 ^ 110 * (s.turnNo + 1) + i))
  exps := (List.range (2 * (h.cols / 32))).map (fun i => Config.freeByte (2 ^ 110 * (s.turnNo + 1) + 8192 + i))
  bad := true

/-- A resident vector slot put. -/
def putVec (x : Mxu) (v : Fin 8) (y : VecSlot) : Mxu := { x with slots := x.slots.set v y }

/-- mvld (14 R294, R297, R298). -/
def execMvld (c : Nat) (u : EngineUpset) (s : State) : Res :=
  match headCommand s c with
  | some q =>
    match q.op with
    | .mvld h v =>
      let x := (ccAt s c).mxu
      let nb := h.cols / 32
      let fail (t : State) (cause : Nat) : State := commandError t c (putVec x v (openSlot s h)) q 0xFFFF cause
      match mxReads s c false [h] 0 .none s.coh.pins.length 0 nb with
      | .wait t => .next t
      | .pause t p => .next (mxPause t c p)
      | .stop t _ cause => .next (fail t cause)
      | .ok t =>
        if u ≠ .none then .next (fail (unpin t s.coh.pins.length) 1)
        else
          match trailerFailure t c false [(2, h)] with
          | some f => .next (completeCommand (putMxu t c (trailerError (putVec x v (loadSlot t c h true)) q f)) c q)
          | none => .next (completeCommand (putMxu t c (putVec x v (loadSlot t c h false))) c q)
    | _ => .next s
  | none => .next s

/-- mzero (14 R294). -/
def execMzero (c : Nat) (s : State) : Res :=
  match headCommand s c with
  | some q =>
    match q.op with
    | .mzero =>
      let x := accPut (ccAt s c).mxu q.acc.val (fun _ _ => 0)
      .next (completeCommand (putMxu s c (setPoison x q.acc false)) c q)
    | _ => .next s
  | none => .next s

/-- n bytes of the scratchpad of a context. -/
def padBytes (x : CtxCell) (off n : Nat) : List Byte := (List.range n).map (fun i => memGet x.spad (off + i))

/-- Whether any sector of a scratchpad range is poisoned. -/
def padBad (x : CtxCell) (off n : Nat) : Bool := x.padPoison.any (fun k => off < 32 * k + 32 && 32 * k < off + n)

/-- macld (14 R294, R297); an error poisons the accumulator and leaves its values open (log 20 DESIGN CHOICE). -/
def execMacld (c : Nat) (u : EngineUpset) (s : State) : Res :=
  match headCommand s c with
  | some q =>
    match q.op with
    | .macld off =>
      let x := ccAt s c
      if u ≠ .none || padBad x off 16384 then
        let y := accPut x.mxu q.acc.val (fun i j =>
          (Config.freeWord (2 ^ 120 * (s.turnNo + 1) + 64 * i + j)).setWidth 32)
        .next (commandError s c (setPoison y q.acc true) q 0xFFFF 1)
      else
        let y := accPut x.mxu q.acc.val (fun i j =>
          BitVec.ofNat 32 (natOf (padBytes x (off + 4 * (64 * i + j)) 4)))
        .next (completeCommand (putMxu s c (setPoison y q.acc false)) c q)
    | _ => .next s
  | none => .next s

/-- The blocks of an accumulator packed in row order with what they add to a trailer (14 R295). -/
def packAcc (x : Mxu) (a : Nat) (f : BxTy) (d : Nat) : List BxBlock :=
  (List.range 128).map (fun b => bxPack f d ((List.range 32).map (fun t => accGet x a (b / 2) (b % 2 * 32 + t))))

/-- The bytes of a BX MACST: elements, exponent plane, trailer (14 R295). -/
def macstBx (x : Mxu) (a : Nat) (f : BxTy) (d : Nat) (final : Bool) : List Byte :=
  let bs := packAcc x a f d
  let t := trailerFinal (bs.foldl (trailerAdd f) ⟨0, 0, false, 0, false, false, 0, 0, 0⟩)
  bs.flatMap (fun b => bxBytes f (b.elems.map BxElem.bits)) ++
    bs.flatMap (fun b => [BitVec.ofNat 8 b.e0, BitVec.ofNat 8 b.e1]) ++
    bytesOf (trailerBits { t with final := final }) 32

/-- The bytes that MACST writes (14 R295). -/
def macstOut (x : Mxu) (a : Fin 4) (fmt : BitVec 4) (d : Nat) (sound : Bool) : List Byte :=
  let vals := (List.range 4096).map (fun n => accGet x a.val (n / 64) (n % 64))
  match bxOf fmt with
  | some f => macstBx x a.val f d sound
  | none =>
    if fmt = 11 then vals.flatMap (fun v => bytesOf v.toNat 4)
    else vals.flatMap (fun v => bytesOf (fpToFp .bf16 .f32 .rne v).toNat 2)

/-- macst (14 R295, R297). -/
def execMacst (c : Nat) (u : EngineUpset) (s : State) : Res :=
  match headCommand s c with
  | some q =>
    match q.op with
    | .macst off d fmt =>
      let x := ccAt s c
      let sound := !x.mxu.poisoned[q.acc] && u = .none
      let s1 := putCc s c (padWrite x off (macstOut x.mxu q.acc fmt d sound))
      if u ≠ .none then .next (commandError s1 c (ccAt s1 c).mxu q 0xFFFF 1) else .next (completeCommand s1 c q)
    | _ => .next s
  | none => .next s

/-! ## Narrowed mode and pins (14 R299; 10 R222) -/

/-- The sequencer of a cell set to or from narrowed mode. -/
def setNarrow (s : State) (c : Nat) (b : Bool) : State := putMxu s c { (ccAt s c).mxu with narrow := b }

/-- narrowEnter: at a boundary while the island's alarm stands (14 R299). -/
def execNarrowEnter (c : Nat) (s : State) : Res :=
  if cellAlarm s c then .next (setNarrow s c true) else .next s

/-- narrowExit: at a boundary once the alarm is cleared (14 R299). -/
def execNarrowExit (c : Nat) (s : State) : Res :=
  if cellAlarm s c then .next s else .next (setNarrow s c false)

/-- A line whose last pin has gone removed from a die, as a cinv that waited for it asked, dirty data written back; an entry of the
home's that no die uses any longer goes with it (R222; 12 R262). -/
def dropUnpinned (s : State) (d line : Nat) : State :=
  let s1 := giveUp s d line
  let h := homeGet s1.coh line
  if !h.present.getLsbD d then s1
  else putCoh s1 (if h.present &&& ~~~(1#4 <<< d) = 0 then freeHome s1.coh line else homeSet s1.coh line (diePut h d))

/-- pinRelease: the MXU has consumed a line for one command; a cinv that waited for the last of its pins removes the copy (10
R222; 12 R262). -/
def execPinRelease (die : Fin 4) (line : Nat) (s : State) : Res :=
  match s.coh.pins.findIdx? (fun p => p.die = die.val && p.line = line) with
  | none => .next s
  | some i =>
    let drop := s.coh.pins.any (fun p => p.die = die.val && p.line = line && p.drop)
    let s1 := putCoh s { s.coh with pins := (listDrop s.coh.pins i).map (fun p =>
      if p.die = die.val && p.line = line then { p with drop := drop } else p) }
    .next (if drop && !isPinned s1.coh die.val line then dropUnpinned s1 die.val line else s1)

end Sys2Proof.Machine
end

