-- ==== Sys2Proof/Machine/Hod.lean ====
section
/-! DEFINITION. The deque of a cell: the hod and its spill ring (07 R165-R167; 08 R203), and frame numbers (07 R156). -/

namespace Sys2Proof.Machine

/-- The frames the spill ring can hold (08 R203). -/
def ringCap (x : CtxCell) : Nat :=
  let z := bitsOf x.sspill 4 0
  if z = 0 then 0 else 2 ^ z

/-- The physical address of a place of the ring, by the pages translated when sspill was written (08 R203). -/
def ringAddr (x : CtxCell) (i : Nat) : Nat :=
  let off := bitsOf x.sspill 54 12 * 4096 % 65536 + 64 * i
  x.ringPages.getD (off / 65536) 0 + off % 65536

/-- The bytes of a frame (07 R155; 00 R3). -/
def frameBytes (f : Frame) : List Byte := f.toList.flatMap (fun w => bytesOf w.toNat 8)

/-- The frame in 64 bytes. -/
def frameOfBytes (bs : List Byte) : Frame := Vector.ofFn (fun i => wordOf ((bs.drop (8 * i.val)).take 8))

/-- Whether a cell of a die that reads the 64 bytes of a frame meets poison (20 R384; 23 R414). -/
def frameBad (s : State) (d pa : Nat) : Bool := readsBad s d (pa / 32) || readsBad s d (pa / 32 + 1)

/-- The frame at a physical address as a cell of a die reads it: one with a poisoned sector is lost, its words there left open (23 R414;
log 28 DESIGN CHOICE). -/
def physFrame (s : State) (d pa : Nat) : Frame :=
  let f := frameOfBytes (physBytes s pa 64)
  if frameBad s d pa then
    markLost (Vector.ofFn (fun i =>
      if readsBad s d ((pa + 8 * i.val) / 32) then Config.freeWord (2 ^ 110 + s.turnNo * 2 ^ 46 + pa + 8 * i.val) else f[i]))
  else f

/-- The places of n frames of the ring, from an offset of its head on. -/
def ringPlaces (x : CtxCell) (from_ n : Nat) : List Nat :=
  (List.range n).map (fun i => ringAddr x ((x.ringHead + from_ + i) % ringCap x))

/-- The lines of n frames of the ring of a cell got at cell scope, or the state in which the cell waits (R166; 08 R203; 20
R367). -/
def ringLines (s : State) (c : Nat) (write : Bool) (from_ n : Nat) : Except State State :=
  acquireLines s (dieOf (physOf s c)) (physOf s c) write
    (((ringPlaces (ccAt s c) from_ n).map (fun a => a / 128)).eraseDups)

/-- The frames of the ring of a context on a cell, from an offset of its head on. -/
def ringFrames (s : State) (c : Nat) (x : CtxCell) (from_ n : Nat) : List Frame :=
  (ringPlaces x from_ n).map (physFrame s (dieOf (physOf s c)))

/-- A frame put at the tail of the ring, whose line the cell has got (R166). -/
def ringPut (s : State) (c : Nat) (f : Frame) : State :=
  let x := ccAt s c
  let pa := ringAddr x ((x.ringHead + x.ringCount) % ringCap x)
  let s1 := physWrite (markSectors s (physOf s c) true [.mem pa, .mem (pa + 32)]) pa (frameBytes f)
  settleLines (putCc s1 c { x with ringCount := x.ringCount + 1 }) (dieOf (physOf s c)) [pa / 128]

/-- Frames held by hod and ring (R165). -/
def dequeLen (x : CtxCell) : Nat := x.hod.length + x.ringCount

/-- Free frames of hod and ring together (R158). -/
def freeFrames (x : CtxCell) : Nat := (64 - x.hod.length) + (ringCap x - x.ringCount)

/-- The oldest frames of a full hod spilled, so that a push has room: 32 of them, or as many as fit (R166); or the state of the cell when
nothing fits, or when the spill must wait for a line of the ring. -/
def pushRoom (s : State) (c : Nat) : Except State State :=
  let x := ccAt s c
  let k := min 32 (ringCap x - x.ringCount)
  if x.hod.length < 64 then .ok s
  else if k = 0 then .error s
  else
    match ringLines s c true x.ringCount k with
    | .error w => .error w
    | .ok t =>
      let s1 := (x.hod.take k).foldl (fun s g => ringPut s c g) t
      .ok (putCc s1 c { ccAt s1 c with hod := (ccAt s1 c).hod.drop k })

/-- A frame placed at the bottom of a hod that has room: new local work (R166, R170). -/
def pushBottom (s : State) (c : Nat) (f : Frame) : State :=
  putCc s c (localWork { ccAt s c with hod := (ccAt s c).hod ++ [f] })

/-- A push at the bottom of the hod (R166); or the state in which it waits. -/
def pushFrame (s : State) (c : Nat) (f : Frame) : Except State State := (pushRoom s c).map (fun t => pushBottom t c f)

/-- A frame kept in the install buffer (R166). -/
def keepInstall (s : State) (c : Nat) (f : Frame) : State :=
  putCell s c { cellAt s c with installs := (cellAt s c).installs ++ [f] }

/-- A push of a steal's install, the frame kept in the install buffer when it cannot be placed yet (R166). -/
def pushOrKeep (s : State) (c : Nat) (f : Frame) : State :=
  match pushFrame s c f with
  | .ok t => t
  | .error w => keepInstall w c f

/-- A refill of an empty hod from the tail of the ring (R167); or the state in which it waits for a line of the ring. -/
def refillHod (s : State) (c : Nat) : Except State State :=
  let x := ccAt s c
  if x.hod.isEmpty && x.ringCount != 0 then
    let k := min 32 x.ringCount
    match ringLines s c false (x.ringCount - k) k with
    | .error w => .error w
    | .ok t =>
      .ok (putCc t c { x with
        hod := ringFrames t c x (x.ringCount - k) k
        ringCount := x.ringCount - k })
  else .ok s

/-- The frame a pop would take (R167, R175); none while it must wait. -/
def peekFrame (s : State) (c : Nat) : Option Frame :=
  match refillHod s c with
  | .ok t => (ccAt t c).hod.getLast?
  | .error _ => none

/-- The pop of the bottom frame (R167). -/
def popFrame (s : State) (c : Nat) : Option (Frame × State) :=
  match refillHod s c with
  | .error _ => none
  | .ok t =>
    let x := ccAt t c
    x.hod.getLast?.map (fun f => (f, putCc t c { x with hod := x.hod.dropLast }))

/-- The oldest frame of the deque taken, if there is one (R165, R168); or the state in which the claim waits for a line of the
ring. -/
def takeOldest (s : State) (c : Nat) : Except State (Option (Frame × State)) :=
  let x := ccAt s c
  if x.ringCount ≠ 0 then
    match ringLines s c false 0 1 with
    | .error w => .error w
    | .ok t =>
      .ok (some (physFrame t (dieOf (physOf s c)) (ringAddr x x.ringHead),
        putCc t c { x with ringHead := (x.ringHead + 1) % ringCap x, ringCount := x.ringCount - 1 }))
  else
    match x.hod with
    | [] => .ok none
    | f :: l => .ok (some (f, putCc s c { x with hod := l }))

/-- The next number of the frame counter, for a frame released on a cell (R156). -/
def nextSeq (s : State) (c : Nat) : Nat × State :=
  let x := ccAt s c
  (x.frameCtr.toNat, putCc s c { x with frameCtr := x.frameCtr + 1 })

/-- A frame of a KIND released on a cell: its header set, and pushed (R156, R158); or the state in which the push waits. -/
def releaseFrame (s : State) (c kind : Nat) (f : Frame) : Except State State :=
  (pushRoom s c).map (fun t =>
    let n := nextSeq t c
    pushBottom n.2 c (withHeader f (headerAt f[0] kind (headerScope f[0]) n.1)))

end Sys2Proof.Machine
end

