-- ==== Sys2Proof/Machine/Parts.lean ====
section
/-! DEFINITION. Launch records, a package's part of a launch, and what a part has lost (22 R393, R394; 23 R413). -/

namespace Sys2Proof.Machine

/-- A launch record: its sixteen words (22 R393). -/
abbrev LaunchRec := Vector Word 16

/-- Descriptor address (R393). -/
def LaunchRec.ctx (r : LaunchRec) : Nat := (keepBits r[0] 44 6).toNat

/-- scbase (R393). -/
def LaunchRec.code (r : LaunchRec) : Word := keepBits r[1] 54 16

/-- Entry IP of the root (R393). -/
def LaunchRec.entry (r : LaunchRec) : Nat := bitsOf r[2] 31 0

/-- sclim.LIM (R393). -/
def LaunchRec.lim (r : LaunchRec) : Nat := bitsOf r[2] 63 32

/-- Flat number of the first cell (R393). -/
def LaunchRec.first (r : LaunchRec) : Nat := bitsOf r[3] 21 0

/-- Cell count (R393). -/
def LaunchRec.count (r : LaunchRec) : Nat := bitsOf r[3] 54 32

/-- SPAD, XBASE and XLEN as a value of scarve (R393). -/
def LaunchRec.carve (r : LaunchRec) : Word :=
  BitVec.ofNat 64 (bitsOf r[4] 63 56 * 2 ^ 16 + bitsOf r[4] 55 48 * 2 ^ 8 + bitsOf r[4] 47 44)

/-- CEP (R393). -/
def LaunchRec.cep (r : LaunchRec) : Nat := bitsOf r[6] 63 48

/-- SEQ of the seal (R393). -/
def LaunchRec.seq (r : LaunchRec) : BitVec 32 := BitVec.ofNat 32 (bitsOf r[15] 63 32)

/-- The package of the first cell of a launch. -/
def LaunchRec.firstPkg (r : LaunchRec) : Nat := r.first / 1024

/-- The first flat number of a package's part. -/
def LaunchRec.lo (r : LaunchRec) (pkg : Nat) : Nat := max r.first (1024 * pkg)

/-- One past the last flat number of a package's part. -/
def LaunchRec.hi (r : LaunchRec) (pkg : Nat) : Nat := min (r.first + r.count) (1024 * (pkg + 1))

/-- Whether a package has a part of a launch (22 R399). -/
def LaunchRec.hasPart (r : LaunchRec) (pkg : Nat) : Bool := r.lo pkg < r.hi pkg

/-- The cells of a package's part, by logical number. -/
def LaunchRec.cells (r : LaunchRec) (pkg : Nat) : List Nat :=
  (List.range (r.hi pkg - r.lo pkg)).map (fun i => r.lo pkg + i - 1024 * pkg)

/-- This package's number (01 R19). -/
def myPkg (s : State) : Nat := s.plat.pkg.toNat

/-- The cells of a part, by logical number. -/
def partCells (s : State) (p : Part) : List Nat := LaunchRec.cells p.record (myPkg s)

/-- Whether a cell is one of a part's. -/
def inPart (s : State) (p : Part) (c : Nat) : Bool :=
  let f := flatOf s c
  LaunchRec.lo p.record (myPkg s) ≤ f && f < LaunchRec.hi p.record (myPkg s)

/-- Whether a part's work may exist on the cells. -/
def isOpen (p : Part) : Bool :=
  match p.stage with
  | .admitted | .running => true
  | _ => false

/-- Whether a part is complete and its record still to be written. -/
def recordDue (p : Part) : Bool :=
  match p.stage with
  | .complete _ _ => true
  | _ => false

/-- Whether a part of a context ran on a cell. -/
def ranOn (s : State) (c : Nat) (ctxid : BitVec 16) (p : Part) : Bool := p.ctxid = some ctxid && inPart s p c

/-- Losses on a cell counted in the open parts of their context, where there is none in those whose record is still to be written
(23 R413). -/
def addLoss (s : State) (c : Nat) (ctxid : BitVec 16) (n : Nat) : State :=
  let hit : Part → Bool := if s.host.parts.any (fun p => isOpen p && ranOn s c ctxid p) then isOpen else recordDue
  { s with host := { s.host with parts := s.host.parts.map (fun p =>
      if hit p && ranOn s c ctxid p then { p with lost := p.lost + n } else p) } }

/-- Three counts added. -/
def addCounts (a b : Nat × Nat × Nat) : Nat × Nat × Nat := (a.1 + b.1, a.2.1 + b.2.1, a.2.2 + b.2.2)

/-- What a context has counted on a cell (R399). -/
def CtxCell.counts (x : CtxCell) : Nat × Nat × Nat := (x.aborts, x.kills, x.undeliv)

/-- What the context of a cell that is lost had counted, kept in its open parts (R399; 23 R413). -/
def carryCounts (s : State) (c : Nat) (x : CtxCell) : State :=
  { s with host := { s.host with parts := s.host.parts.map (fun p =>
      if isOpen p && ranOn s c x.desc.ctxid p then { p with carried := addCounts p.carried x.counts } else p) } }

/-- What a context had counted on a cell when it is restored on another: the parts that leave it keep it, those that it comes to did not
count it (R399). -/
def moveCounts (s : State) (a b : Nat) (x : CtxCell) : State :=
  { s with host := { s.host with parts := s.host.parts.map (fun p =>
      if !isOpen p || p.ctxid != some x.desc.ctxid || inPart s p a = inPart s p b then p
      else if inPart s p a then { p with carried := addCounts p.carried x.counts }
      else { p with base := addCounts p.base x.counts }) } }

/-- The frames that the state of a context on a cell holds. -/
def CtxCell.frames (x : CtxCell) : Nat :=
  dequeLen x + x.chans.toList.foldl (fun n ch => n + ch.queue.length) 0 + x.wakes.length

/-- A frame claimed by a thief. -/
def claimedFrames : Steal → Nat
  | .claimed _ _ _ => 1
  | _ => 0

/-- The parts put. -/
def putParts (s : State) (l : List Part) : State := { s with host := { s.host with parts := l } }

/-- A part put. -/
def putPart (s : State) (i : Nat) (p : Part) : State := putParts s (listSet s.host.parts i p)

end Sys2Proof.Machine
end

