-- ==== Sys2Proof/Machine/Tasks.lean ====
section
/-! DEFINITION. Task and message instructions, sdomain and sspill, and end with its commit
(05 R116; 07 R157-R166, R182, R417; 08 R189-R203). -/

namespace Sys2Proof.Machine

/-! ## spawn and send (08 R189-R191) -/

/-- tinfo on SENDFULL (08 R196). -/
def infoSendfull (list : Bool) (opc : BitVec 12) : Word := BitVec.ofNat 64 (list.toNat * 2 ^ 12 + opc.toNat)

/-- SENDFULL (08 R196). -/
def trapSendfull (s : State) (list : Bool) (opc : BitVec 12) : State := trapHere s 9 0 (infoSendfull list opc)

/-- An entry appended to the release buffer, or SENDFULL (07 R157). -/
def deferRelease (s : State) (opc : BitVec 12) (e : Release) : State :=
  let x := slotOf s
  if 16 ≤ x.release.length then trapSendfull s false opc
  else advance (putSlot s { x with release := x.release ++ [e] })

/-- An entry appended to the join list. -/
def appendJoin (s : State) (e : JoinEntry) : State :=
  putSlot s { slotOf s with joins := (slotOf s).joins ++ [e] }

/-- Whether the join list is full (07 R157). -/
def joinsFull (s : State) : Bool := 16 ≤ (slotOf s).joins.length

/-- spawn (R189). -/
def execSpawn (a : GReg) (s : State) : Res :=
  .next (deferRelease s 0x160 (.spawn (readFrame s a)))

/-- send (R189). -/
def execSend (a b : GReg) (s : State) : Res :=
  let d := readG s b
  let ch : Fin 32 := Fin.ofNat 32 (bitsOf d 4 0)
  if bitsOf d 63 27 ≠ 0 then .next (trapIllop4 s 0x162)
  else if ch = 30 || ch = 31 then .next (trapPriv s 0x162)
  else .next (deferRelease s 0x162 (.send (BitVec.ofNat 22 (bitsOf d 26 5)) ch (readFrame s a)))

/-! ## arm and join (08 R193, R194) -/

/-- The bytes of a join block that arm writes: its counter and its continuation (07 R160; R193). -/
def blockLocs (pa : Nat) : List Loc := memLocs pa 4 ++ memLocs (pa + 64) 64

/-- What step 5 for a join block comes to: a wait for a walk, a trap, or its physical address (R193). -/
inductive BlockResult where
  | wait (s : State)
  | trap (s : State) (t : TrapInfo)
  | ok (s : State) (pa : Nat)
deriving DecidableEq, Repr

/-- Step 5 for a join block (R193). -/
def joinBlock (s : State) (acc : Access) (b : Word) : BlockResult :=
  if bitsOf b 63 55 ≠ 0 || bitsOf b 6 0 ≠ 0 then .trap s ⟨6, b, infoAccess 0 false acc.kind acc.opc⟩
  else
    match checkAccess s acc b [b] with
    | .wait w => .wait (waitHere w)
    | .trap t e => .trap t e
    | .ok t (.mem pa :: _) => .ok t pa
    | .ok t _ => .trap t ⟨6, b, infoAccess 0 false acc.kind acc.opc⟩

/-- arm (R193). -/
def execArm (d a b : GReg) (s : State) : Res :=
  let blk := readG s a
  let n := (readG s d).toInt
  match joinBlock s ⟨4, 0x164, false, true, false, false⟩ blk with
  | .wait w => .next w
  | .trap t e => .next (takeInfo t e)
  | .ok t pa =>
    if n < 0 || 2 ^ 31 - 1 < n then .next (trapIllop4 t 0x164)
    else if n = 0 && joinsFull t then .next (trapSendfull t true 0x164)
    else
      match getLines t true (blockLocs pa) with
      | .error w => .next (waitHere w)
      | .ok u =>
        let s1 := performStore u (memLocs (pa + 64) 64) (frameBytes (readFrame u b))
        let s2 := performStore s1 (memLocs pa 4) (bytesOf n.toNat 4)
        .next (advance (if n = 0 then appendJoin s2 ⟨true, pa, blk⟩ else s2))

/-- join (R194). -/
def execJoin (a : GReg) (s : State) : Res :=
  let blk := readG s a
  match joinBlock s ⟨4, 0x166, true, true, false, false⟩ blk with
  | .wait w => .next w
  | .trap t e => .next (takeInfo t e)
  | .ok t pa =>
    if joinsFull t then .next (trapSendfull t true 0x166)
    else .next (advance (appendJoin t ⟨false, pa, blk⟩))

/-! ## chset and chmsk (08 R197-R199) -/

/-- chset: bits [31:4] of the value are ignored (R197). -/
def execChset (a : GReg) (ch : Fin 32) (s : State) : Res :=
  let x := ccOf s
  let e := keepBits (readG s a) 63 32 ||| keepBits (readG s a) 3 0
  .next (advance (putCcOf s { x with chans := x.chans.set ch { x.chans[ch] with entry := e } }))

/-- The MASK bits of the channels, bit 30 read as 0 (R198). -/
def maskSet (x : CtxCell) : BitVec 32 :=
  BitVec.ofNat 32 ((List.finRange 32).foldl (fun n c =>
    if entryMasked x.chans[c].entry && c != 30 then n + 2 ^ c.val else n) 0)

/-- The MASK bit of an entry after chmsk (R198). -/
def chmskBit (op : ChmskOp) (old sel : Bool) : Bool :=
  match op with
  | .wr => sel
  | .set => old || sel
  | .clr => old && !sel

/-- An entry with another MASK bit. -/
def withMask (e : Word) (m : Bool) : Word := putBits e 2 2 m.toNat

/-- chmsk (R198). -/
def execChmsk (d a : GReg) (op : ChmskOp) (s : State) : Res :=
  let x := ccOf s
  let w := readG s a
  let chans := Vector.ofFn (fun c : Fin 32 =>
    let ch := x.chans[c]
    if c = 30 then ch
    else { ch with entry := withMask ch.entry (chmskBit op (entryMasked ch.entry) (w.getLsbD c.val)) })
  .next (finishG (putCcOf s { x with chans := chans }) d ((maskSet x).setWidth 64))

/-! ## sdomain and sspill (08 R202, R203) -/

/-- WIDEST written; 3 leaves it; narrowing takes CUR along (R202). -/
def CtxCell.setWidest (x : CtxCell) (w : BitVec 2) : CtxCell :=
  if w = 3 then x
  else if w < x.domain then { x with widest := w, domain := w, fails := 0 }
  else { x with widest := w }

/-- mts to sdomain (R202). -/
def execMtsSdomain (a : GReg) (s : State) : Res :=
  .next (advance (putCcOf s ((ccOf s).setWidest ((readG s a).setWidth 2))))

/-- The virtual 64 KiB pages of a ring (R203). -/
def ringVpages (base n : Nat) : List Nat :=
  (List.range ((base % 65536 + n + 65535) / 65536)).map (fun i => base / 65536 * 65536 + 65536 * i)

/-- The pages of a new ring translated, or the trap on the first that fails (R203; log 26 DEDUCED). -/
def ringTranslate (s : State) (base : Nat) : List Nat → Except TrapInfo (List Nat)
  | [] => .ok []
  | p :: ps =>
    let a : Word := BitVec.ofNat 64 (max base p)
    let acc : Access := ⟨5, 0x0C4, true, true, false, false⟩
    if walkPoisoned s s.curCell (ccOf s).desc p then .error (ueTrap acc (BitVec.ofNat 64 base) a)
    else
      match locate s acc (BitVec.ofNat 64 p) with
      | .ok (.mem pa) => (ringTranslate s base ps).map (fun l => pa :: l)
      | .ok (.pad _) => .error (badTrap acc (BitVec.ofNat 64 base) a .addr)
      | .error b => .error (badTrap acc (BitVec.ofNat 64 base) a b)

/-- sspill changed to a ring that can hold the frames of the old one, which move to its start: every old frame is read before a
new one is written, also where the rings overlap (R203; log 61 DESIGN CHOICE); or the state in which it waits for a line. -/
def moveRing (s : State) (w : Word) (pages : List Nat) : Except State State :=
  let c := s.curCell
  let x := ccOf s
  match ringLines s c false 0 x.ringCount with
  | .error e => .error e
  | .ok t =>
    let fs := ringFrames t c x 0 x.ringCount
    let y := { x with sspill := w, ringPages := pages, ringHead := 0, ringCount := 0 }
    match ringLines (putCcOf t y) c true 0 x.ringCount with
    | .error e => .error (putCcOf e x)
    | .ok u => .ok (fs.foldl (fun s f => ringPut s c f) u)

/-- Whether no mts to sspill that the cell issued before that of the running slot waits (05 R114). -/
def spillTurn (s : State) : Bool :=
  match (cellAt s s.curCell).spillers with
  | [] => true
  | k :: _ => k = s.curSlot

/-- The mts to sspill of the running slot waits, behind those issued before it (05 R114). -/
def waitSpill (s : State) : State :=
  let x := cellAt s s.curCell
  waitHere (if x.spillers.contains s.curSlot then s else putCell s s.curCell { x with spillers := x.spillers ++ [s.curSlot] })

/-- The mts to sspill of the running slot waits no longer. -/
def leaveSpill (s : State) : State :=
  let x := cellAt s s.curCell
  if x.spillers.contains s.curSlot then
    putCell s s.curCell { x with spillers := x.spillers.filter (fun k => k != s.curSlot) }
  else s

/-- The effect of an accepted sspill, or the state in which it waits (R203). -/
def newRing (s : State) (w : Word) (cap : Nat) (pages : List Nat) : State :=
  if cap < (ccOf s).ringCount then advance (leaveSpill s)
  else
    match moveRing s w pages with
    | .error e => waitSpill e
    | .ok t => advance (leaveSpill t)

/-- mts to sspill, in the order of issue (R203; 05 R114); it waits for a commit of the cell that counts on the ring's room (log 21
DEDUCED). -/
def execMtsSspill (a : GReg) (s : State) : Res :=
  let w := readG s a
  let z := bitsOf w 4 0
  if !privileged s then .next (trapSpecial s .sspill 0x0C4)
  else if (1 ≤ z && z ≤ 4) || 17 ≤ z then .next (advance s)
  else if !spillTurn s || (cellAt s s.curCell).committing.isSome then .next (waitSpill s)
  else
    let base := bitsOf w 54 12 * 4096
    let cap := if z = 0 then 0 else 2 ^ z
    let v := keepBits w 54 12 ||| keepBits w 4 0
    let vps := if z = 0 then [] else ringVpages base (64 * cap)
    match walkPages s s.curCell (ccOf s).desc (vps.map (fun p => p / 65536)) with
    | .error e => .next (waitSpill e)
    | .ok t =>
      match ringTranslate t base vps with
      | .error e => .next (takeInfo (leaveSpill t) e)
      | .ok pages => .next (newRing t v cap pages)

/-! ## end and its commit (05 R116; 07 R158, R159, R163, R417) -/

/-- A continuation released from a join block onto the committing cell's hod, or JOINUE (R163, R417); or the state in which that waits. -/
def releaseCont (s : State) (c : Nat) (e : JoinEntry) : Except State State :=
  match cellLine s c false e.pa with
  | .error w => .error w
  | .ok t =>
    let d := dieOf (physOf t c)
    if frameBad t d (e.pa + 64) then .ok (postEvent t c 6 e.va) else releaseFrame t c 2 (physFrame t d (e.pa + 64))

/-- The signed counter of a join block (R160). -/
def joinCount (s : State) (pa : Nat) : Int := (BitVec.ofNat 32 (physNat s pa 4)).toInt

/-- The counter of a join block counted down at its home, with what its cell hears: 6 for JOINUE, 1 for a counter that was not above 0,
2 for a release, 0 for nothing more (R163, R193, R417). -/
def countJoin (s : State) (e : JoinEntry) : State × Nat :=
  if rangeBad s e.pa 4 then (s, 6)
  else
    let n := joinCount s e.pa
    if n ≤ 0 then (s, 1) else (memWrite s e.pa (bytesOf (n - 1).toNat 4), if n = 1 then 2 else 0)

/-- What a cell hears of a join taken: an event posted, with whether its continuation is to be released (R163, R417). -/
def hearJoin (s : State) (c : Nat) (e : JoinEntry) (code : Nat) : State × Bool :=
  if code = 1 || code = 6 then (postEvent s c code e.va, false) else (s, code = 2)

/-- A join of the committing slot counted at its home, and heard of at its cell, by a lath from another die: whether its continuation is
to be released; or the state in which the commit waits (R158, R163; 20 R367, R377). -/
def joinStep (s : State) (c : Nat) (e : JoinEntry) : Except State (State × Bool) :=
  match (slotOf s).stall with
  | .reply _ via v => if arrived s via then .ok (hearJoin (setStall s .none) c e v.toNat) else .error s
  | _ =>
    if copyPending s (memLocs e.pa 4) then .error s
    else
      match homeReady s e.pa with
      | .error w => .error w
      | .ok t =>
        let home := trueHome t (e.pa / 128)
        let r := countJoin t e
        let u := setStall (homeDone r.1 (e.pa / 128)) .none
        if byLath u home (myDie u) then
          .error (setStall (sendMessage u home (myDie u)) (.reply 0 (nextTransit u home (myDie u)) (BitVec.ofNat 64 r.2)))
        else .ok (hearJoin u c e r.2)

/-- The entries of a join list applied in program order (R158, R163): what is left when one must wait. -/
def applyJoins (s : State) (c : Nat) : List JoinEntry → State × List JoinEntry
  | [] => (s, [])
  | e :: l =>
    match (if e.releaseOnly then .ok (s, true) else joinStep s c e) with
    | .error w => (w, e :: l)
    | .ok (t, false) => applyJoins t c l
    | .ok (t, true) =>
      match releaseCont t c e with
      | .error w => (w, { e with releaseOnly := true } :: l)
      | .ok u => applyJoins u c l

/-- The die to which a frame for a flat number leaves a die: that of its cell, or for another package the one by whose port link it
leaves (01 R13). -/
def destDie (s : State) (d flat : Nat) : Nat :=
  if flat / 1024 = s.plat.pkg.toNat then dieOf (physOf s (flat % 1024))
  else ((exitDie s (Fin.ofNat 4 d)).map (fun p => p.val)).getD d

/-- A sent frame handed to the outbound port, its SCOPE raised (R156, R159; 08 R191). -/
def releaseSend (s : State) (c : Nat) (flat : BitVec 22) (chan : Fin 32) (f : Frame) : State :=
  let n := nextSeq s c
  let sc := max (headerScope f[0]) (scopeCode (spanScope s (flatOf s c) flat.toNat))
  let f' := withHeader f (headerAt f[0] 1 sc n.1)
  let s1 := sendMessage n.2 (dieOf (physOf s c)) (destDie s (dieOf (physOf s c)) flat.toNat)
  let via := nextTransit n.2 (dieOf (physOf s c)) (destDie s (dieOf (physOf s c)) flat.toNat)
  let x := cellAt s1 c
  putCell s1 c { x with port := x.port ++ [⟨flat, chan, x.cc.desc.ctxid, f', .queued, 32, via⟩] }

/-- Step 3: the release buffer handed on in order until the port is full, or a push must wait for a line of the ring; what is left of it
(R159, R166). -/
def handOn (s : State) (c : Nat) : List Release → State × List Release
  | [] => (s, [])
  | .spawn f :: l =>
    match releaseFrame s c 0 f with
    | .error w => (w, .spawn f :: l)
    | .ok t => handOn t c l
  | .send flat ch f :: l =>
    if 64 ≤ (cellAt s c).port.length then (s, .send flat ch f :: l)
    else handOn (releaseSend s c flat ch f) c l

/-- Step 3 by the running slot: ended, or stalled in COMMIT (R158, R159, R182). -/
def commitStep3 (s : State) : State :=
  let r := handOn s s.curCell (slotOf s).release
  match r.2 with
  | [] =>
    let s1 := freeSlot r.1
    lookPreempt (putCell s1 s1.curCell { cellAt s1 s1.curCell with committing := .none }) s1.curCell
  | l =>
    let s1 := putSlot r.1 { slotOf r.1 with run := .commit, release := l, joins := [] }
    putCell s1 s1.curCell { cellAt s1 s1.curCell with committing := some s1.curSlot }

/-- The commit after its room check: joins, then step 3 (R158); a join whose line must be waited for holds it up, the rest of
the list kept (log 62 DEDUCED). -/
def commit (s : State) : State :=
  let r := applyJoins s s.curCell (slotOf s).joins
  match r.2 with
  | [] => commitStep3 r.1
  | l =>
    let s1 := putSlot r.1 { slotOf r.1 with run := .commit, joins := l }
    putCell s1 s1.curCell { cellAt s1 s1.curCell with committing := some s1.curSlot }

/-- end: PRIV above level 0; a commit waits for another of the cell; HODFULL without room (05 R116; 07 R158; log 46 DEDUCED). -/
def execEndAct (s : State) : Res :=
  let x := slotOf s
  let n := x.release.length + x.joins.length
  if x.level ≠ 0 then .next (trapPriv s 0x0EA)
  else if (cellAt s s.curCell).committing.isSome then .next (waitHere s)
  else if freeFrames (ccOf s) < n then .next (trapHere s 0x0A 0 (infoArg (freeFrames (ccOf s)) n 0))
  else .next (commit s)

/-- A cell and slot made the ones at hand. -/
def focus (s : State) (c : Nat) (k : Fin 4) : State := { s with curCell := c, curSlot := k }

/-- sendHandoff: a commit goes on once the outbound port has room, or the line of a join is there (R159). -/
def execSendHandoff (c : Nat) (k : Fin 4) (s : State) : Res :=
  match (slotAt s c k).run with
  | .commit => .next (commit (focus s c k))
  | _ => .next s

end Sys2Proof.Machine
end

