-- ==== Sys2Proof/Machine/Sched.lean ====
section
/-! DEFINITION. The scheduler's steps: starting an activation, selection, budgets, and what a waiting or stalled slot does
when its turn comes (02 R27; 07 R152, R153, R175-R182; 18 R340, R341). -/

namespace Sys2Proof.Machine

/-! ## Starting an activation (02 R27; 18 R340) -/

/-- The save area of a slot at a level; the reserved bits of tarea read 0, also when SAVE lies just below 2^55 (18 R340, R343; 00
R4; log 69 DEDUCED). -/
def areaOf (save : Word) (c : Nat) (k : Fin 4) (level : Nat) : Word :=
  keepBits (save + BitVec.ofNat 64 (1024 * (4 * c + k.val) + 512 * (level - 1))) 54 9

/-- The budget of an activation (07 R179). -/
def startBudget (b : BitVec 32) : BitVec 32 := if b = 0 then 0x400000 else b

/-- The g registers at the start of an activation (02 R27). -/
def startRegs (f : Frame) (sp : Word) : Vector Word 64 :=
  Vector.ofFn (fun i : Fin 64 =>
    if h : 1 ≤ i.val ∧ i.val ≤ 7 then f[i.val]'(by omega) else if i.val = 62 then sp else 0)

/-- A slot at the start of an activation of a frame (02 R27; 18 R340). -/
def startSlot (x : CtxCell) (c : Nat) (k : Fin 4) (f : Frame) (src : Source) : Slot where
  g := startRegs f x.sstk[k]
  v := Vector.replicate 64 0
  p := Vector.replicate 8 false
  m := Vector.replicate 8 0
  ip := (f[0] >>> 32).setWidth 32
  level := 0
  run := .run
  sframe := f[0]
  sbudget := startBudget x.budget
  sctl := x.sdctl
  tcause := Vector.replicate 2 0
  tip := Vector.replicate 2 0
  tfva := Vector.replicate 2 0
  tinfo := Vector.replicate 2 0
  tarea := #v[areaOf x.desc.save c k 1, areaOf x.desc.save c k 2]
  limit := Vector.replicate 2 0
  release := []
  joins := []
  pend := .none
  frame := f
  source := src
  stall := .none
  issued := .nop
  sinceIssue := none

/-- The header with which a frame starts; where its words were lost, KIND is that of its source, and open for a frame of the hod (23 R414;
log 28 DESIGN CHOICE). -/
def startHeader (src : Source) (h : Word) : Word :=
  match src with
  | .channel ch => putBits h 31 28 (if ch = 30 then 3 else 1)
  | .hod => putBits h 31 28 (Config.freeWord (2 ^ 140 + h.toNat)).toNat

/-- A slot at the start of an activation of a frame from a source; one whose data is lost reaches it as UE (18 R340; 23 R414; log 28 DESIGN
CHOICE). -/
def beginSlot (x : CtxCell) (c : Nat) (k : Fin 4) (f : Frame) (src : Source) : Slot :=
  if isLost f then
    let y := startSlot x c k (withHeader f (startHeader src f[0])) src
    y.enter false x.tvec 0x0D y.ip (Config.freeWord (2 ^ 141 + f[0].toNat)) (Config.freeWord (2 ^ 142 + f[0].toNat))
  else startSlot x c k f src

/-! ## Selection (07 R175-R177) -/

/-- Whether a channel has an activation on its cell (R173). -/
def channelBusy (s : State) (c : Nat) (ch : Fin 32) : Bool :=
  (slotsOf s c).any (fun x => slotBusy x && x.source = .channel ch)

/-- Whether a channel is a runnable source (R175). -/
def channelRunnable (s : State) (c : Nat) (ch : Fin 32) : Bool :=
  let x := (ccAt s c).chans[ch]
  entryValid x.entry && !entryMasked x.entry && !x.queue.isEmpty && !channelBusy s c ch

/-- Effective priority: a raised level adds to the own PRIO of the moment, up to 3 (R177; log 65 DESIGN CHOICE). -/
def effPrio (own raised : Nat) : Nat := min 3 (own + raised)

/-- The effective priority of a channel. -/
def channelPrio (x : CtxCell) (ch : Fin 32) : Nat := effPrio (bitsOf x.chans[ch].entry 1 0) x.chans[ch].raised

/-- The channels from the one after the last chosen on (R176). -/
def channelOrder (last : Fin 32) : List (Fin 32) := (List.finRange 32).map (fun i => last + 1 + i)

/-- A runnable source with its effective priority, hod last (R176). -/
def runnableSources (s : State) (c : Nat) : List (Source × Nat) :=
  let x := ccAt s c
  ((channelOrder x.lastChan).filter (channelRunnable s c)).map (fun ch => (.channel ch, channelPrio x ch)) ++
    (match peekFrame s c with
      | some f => [(.hod, effPrio (bitsOf f[0] 27 26) x.hodRaised)]
      | none => [])

/-- The first of the sources of highest effective priority (R176). -/
def bestSource : List (Source × Nat) → Option (Source × Nat)
  | [] => none
  | e :: l =>
    match bestSource l with
    | none => some e
    | some b => if e.2 < b.2 then some b else some e

/-- Pass count and raised level of a source that is passed over; levels are gained also where the effective priority is 3 already
(R177; log 65 DESIGN CHOICE). -/
def passOver (pass raised : Nat) : Nat × Nat := if pass + 1 = 64 then (0, min 3 (raised + 1)) else (pass + 1, raised)

/-- The counts of the sources after a selection (R177). -/
def countPasses (x : CtxCell) (srcs : List (Source × Nat)) (chosen : Source) : CtxCell :=
  srcs.foldl (fun x e =>
    match e.1 with
    | .hod =>
      let r := if chosen = .hod then (0, 0) else passOver x.hodPass x.hodRaised
      { x with hodPass := r.1, hodRaised := r.2 }
    | .channel ch =>
      let y := x.chans[ch]
      let r := if chosen = .channel ch then (0, 0) else passOver y.pass y.raised
      { x with chans := x.chans.set ch { y with pass := r.1, raised := r.2 } }) x

/-- A message's header at the start of its activation: the handler entry's ENTRY and PRIO, KIND 1; a launch root keeps
its own, and a frame whose data is lost its mark (R171, R185). -/
def messageHeader (ch : Fin 32) (entry h : Word) : Word :=
  if ch = 30 then h
  else
    putBits (putBits (putBits h 63 32 (bitsOf entry 63 32)) 27 26 (bitsOf entry 1 0)) 31 28
      (if bitsOf h 31 28 = 15 then 15 else 1)

/-- The frame of a source taken, with the state after it. -/
def takeSource (s : State) (c : Nat) : Source → Option (Frame × State)
  | .hod => popFrame s c
  | .channel ch =>
    let x := ccAt s c
    match x.chans[ch].queue with
    | [] => none
    | f :: l =>
      some (withHeader f (messageHeader ch x.chans[ch].entry f[0]),
        putCc s c { x with chans := x.chans.set ch { x.chans[ch] with queue := l }, lastChan := ch })

/-- The lowest-numbered FREE slot of a cell (R176). -/
def freeSlotOf (s : State) (c : Nat) : Option (Fin 4) :=
  (List.finRange 4).find? (fun k => (slotAt s c k).run = .free)

/-- A selection among the runnable sources of a cell whose hod needs no refill that would wait (R176). -/
def selectSource (s : State) (c : Nat) : State :=
  let srcs := runnableSources s c
  match freeSlotOf s c, bestSource srcs with
  | some k, some b =>
    let s1 := putCc s c (countPasses (ccAt s c) srcs b.1)
    match takeSource s1 c b.1 with
    | some (f, s2) => putSlotAt s2 c k (beginSlot (ccAt s2 c) c k f b.1)
    | none => s
  | _, _ => s

/-- selection; while a refill of the hod waits for a line of the ring, the frame with which the hod takes part is not known, and the
selection waits with it (R167, R175, R176). -/
def execSelection (c : Nat) (s : State) : Res :=
  if !(cellAt s c).live || (cellAt s c).closed then .next s
  else
    match refillHod s c with
    | .error w => .next w
    | .ok _ => .next (selectSource s c)

/-! ## Budgets (07 R179, R180; 18 R341) -/

/-- tinfo of BUDGET (18 R345). -/
def infoBudget (arg : Nat) (opc : BitVec 12) : Word := infoArg 0 arg opc.toNat

/-- ARG and opcode of an abandoned wait (R180; 18 R345). -/
def waitInfo : Wait → Nat × BitVec 12
  | .ttake _ _ => (1, 0x1C8)
  | .cpwait _ _ _ => (1, 0x1C4)
  | .mxwait _ => (1, 0x1CC)
  | .bwait _ _ => (1, 0x146)
  | .token _ _ xch => (2, if xch then 0x14A else 0x148)
  | .arrive _ (.barr _) => (3, 0x144)
  | .arrive _ .bsync => (3, 0x148)
  | .arrive _ .bxch => (3, 0x14A)
  | .twait _ => (1, 0x184)
  | .pqwait _ _ => (1, 0x1AE)

/-- Whether the next instruction of a slot in RUN gives way to BUDGET (R179; 18 R341). -/
def budgetDue (x : Slot) : Bool :=
  match x.level with
  | 0 => x.sbudget = 0
  | 1 => x.limit[0] = 0
  | _ => x.limit[1] = 0

/-- BUDGET in place of the next instruction (R179; 18 R341). -/
def trapBudget (s : State) : State := trapHere s 8 0 (infoBudget 0 0)

/-- The wait of the running slot abandoned (R180). -/
def abandonWait (s : State) (w : Wait) : State :=
  trapHere (leaveWait s) 8 0 (infoBudget (waitInfo w).1 (waitInfo w).2)

/-- budget: at level 0, in place of the next instruction or of the rest of a wait (R179, R180). -/
def execBudget (c : Nat) (k : Fin 4) (s : State) : Res :=
  let x := slotAt s c k
  if x.level ≠ 0 || x.sbudget ≠ 0 then .next s
  else
    match x.run, x.stall with
    | .run, .none => .next (trapBudget (focus s c k))
    | .wait w, _ => .next (abandonWait (focus s c k) w)
    | _, _ => .next s

/-- handlerLimit: at level 1 or 2, in place of the next instruction (18 R341). -/
def execHandlerLimit (c : Nat) (k : Fin 4) (s : State) : Res :=
  let x := slotAt s c k
  match x.run, x.stall with
  | .run, .none => if x.level ≠ 0 && budgetDue x then .next (trapBudget (focus s c k)) else .next s
  | _, _ => .next s

/-! ## Waits and stalls of the running slot -/

/-- What a waiting slot does when its awaited condition holds; none while it does not (07 R152). -/
def resumeWait (s : State) (w : Wait) : Option State :=
  let x := ccOf s
  match w with
  | .ttake t0 n => if cellOwns x t0 n then some (advance (leaveWait s)) else none
  | .cpwait d ch target =>
    let c := x.cch[ch]
    if pointerReached c target then some (finishG (leaveWait s) d (pointerWord c)) else none
  | .mxwait t => if t ≤ x.mxu.done.toNat then some (finishMxwait (leaveWait s) t) else none
  | .bwait b t => if tokenReached (barrierOf x b).gen t then some (advance (leaveWait s)) else none
  | .token b t _ => if tokenReached (barrierOf x b).gen t then some (advance (leaveWait s)) else none
  | .arrive b form => if (barrierOf x b).arr = (barrierOf x b).count then none else some (arriveOrWait s b form)
  | .twait d =>
    match (slotOf s).pend.bind (fun p => p.outcome) with
    | some ok => some (finishTwait s d ok)
    | none => none
  | .pqwait d t => (queryResult x t).map (fun r => finishG (leaveWait s) d r)

/-- A stall that is over clears and the instruction ends; none while it is not, or when the instruction is performed again. -/
def resumeStall (s : State) : Stall → Option State
  | .none | .again | .trip _ | .there | .home _ => none
  | .reply d via v => if arrived s via then some (finishG (setStall s .none) d v) else none
  | .replyUe via va info => if arrived s via then some (takeInfo (setStall s .none) ⟨0x0D, va, info⟩) else none
  | .cpy d ch t => if 4 ≤ (ccOf s).cch[ch].queue.length then none else some (appendTransfer s d ch t)
  | .mxq d c => if 16 ≤ (ccOf s).mxu.queue.length then none else some (appendCommand s d c)
  | .shand _ => none
  | .fpost accepted => if accepted then some (advance (setStall s .none)) else none
  | .serve left => if left = 0 then some (advance (setStall s .none)) else none
  | .place op d w ans =>
    match ans with
    | some (a, via) => if arrived s via then some (finishDeref (setStall s .none) op d w a) else none
    | none => none

end Sys2Proof.Machine
end

