-- ==== Sys2Proof/Machine/Messages.lean ====
section
/-! DEFINITION. Frames on their way to channels: arrival, refusal, retry; undeliverable frames (07 R171, R172; 18 R350,
R362; 22 R401). -/

namespace Sys2Proof.Machine

/-- What becomes of a frame that reaches a cell. -/
inductive Delivery where
  | accepted (s : State)
  | refused
  | nowhere
deriving DecidableEq, Repr

/-- Whether a die stands fenced: its cells refuse frames until it rejoins (20 R386). -/
def dieGone (s : State) (d : Nat) : Bool := isFenced s (Fin.ofNat 4 d)

/-- A frame put in a channel of a context: new local work where the context is resident (07 R170; 18 R362). -/
def putFrame (s : State) (c : Nat) (ctxid : BitVec 16) (x : CtxCell) (ch : Fin 32) (f : Frame) : CtxCell :=
  if isResident s c ctxid then chanPush x ch f else chanQueue x ch f

/-- A frame delivered to a channel of a context on a cell of this package, resident or saved (R172; 18 R362; 22 R401). -/
def deliver (s : State) (c : Nat) (ctxid : BitVec 16) (ch : Fin 32) (f : Frame) : Delivery :=
  if cellCount s ≤ c then .nowhere
  else if dieGone s (dieOf (physOf s c)) then .refused
  else
    match ctxFind s c ctxid with
    | none => .nowhere
    | some x =>
      if x.chans[ch].queue.length < 8 then .accepted (ctxPut s c ctxid (putFrame s c ctxid x ch f)) else .refused

/-- Whether a frame of a port goes to a flat number and channel. -/
def toPair (dest : Nat) (ch : Fin 32) (m : OutMsg) : Bool := m.flat.toNat = dest && m.chan = ch

/-- The first frame of a port for a pair, which holds back the later ones (R172). -/
def firstFor (s : State) (sender dest : Nat) (ch : Fin 32) : Option (Nat × OutMsg) :=
  let p := (cellAt s sender).port
  (p.findIdx? (toPair dest ch)).bind (fun i => (p[i]?).map (fun m => (i, m)))

/-- A port put. -/
def putPort (s : State) (c : Nat) (p : List OutMsg) : State := putCell s c { cellAt s c with port := p }

/-- A frame of a port put. -/
def putOut (s : State) (c i : Nat) (m : OutMsg) : State := putPort s c (listSet (cellAt s c).port i m)

/-- A frame of a port gone. -/
def dropOut (s : State) (c i : Nat) : State := putPort s c (listDrop (cellAt s c).port i)

/-- One more undeliverable frame of a context (22 R399). -/
def countUndeliv (x : CtxCell) : CtxCell := { x with undeliv := x.undeliv + 1 }

/-- The images of a context with one changed: the first of them, wherever it was saved. -/
def countImage (ctxid : BitVec 16) : List Image → List Image
  | [] => []
  | x :: l => if x.cc.desc.ctxid = ctxid then { x with cc := countUndeliv x.cc } :: l else x :: countImage ctxid l

/-- The cell that a context is resident on, if one is. -/
def residentCell (s : State) (ctxid : BitVec 16) : Option Nat := (knownCells s).find? (fun c => isResident s c ctxid)

/-- An undeliverable frame of a context counted in the parts of a test. -/
def countInParts (s : State) (ctxid : BitVec 16) (p : Part → Bool) : State :=
  { s with host := { s.host with parts := s.host.parts.map (fun x =>
    if x.ctxid = some ctxid && p x then { x with carried := (x.carried.1, x.carried.2.1, x.carried.2.2 + 1) } else x) } }

/-- Whether a part of a context ran on the cell that sent a frame. -/
def sentIn (s : State) (c : Nat) (ctxid : BitVec 16) (p : Part) : Bool := isOpen p && p.ctxid = some ctxid && inPart s p c

/-- An undeliverable frame counted in the context that sent it: on its cell, resident or saved there, else in the parts that ran it on
that cell, else wherever the package holds the context now, else in the parts that ran it (22 R399, R401). -/
def countUndeliverable (s : State) (c : Nat) (ctxid : BitVec 16) : State :=
  match ctxFind s c ctxid with
  | some x => ctxPut s c ctxid (countUndeliv x)
  | none =>
    if s.host.parts.any (sentIn s c ctxid) then countInParts s ctxid (sentIn s c ctxid)
    else
      match residentCell s ctxid with
      | some c1 => putCc s c1 (countUndeliv (ccAt s c1))
      | none =>
        if s.images.any (fun x => x.cc.desc.ctxid = ctxid) then { s with images := countImage ctxid s.images }
        else countInParts s ctxid (fun _ => true)

/-- An undeliverable frame dropped and counted (22 R401). -/
def dropUndeliverable (s : State) (c i : Nat) (m : OutMsg) : State := countUndeliverable (dropOut s c i) c m.ctxid

/-- What leaves the package. -/
def sendOut (s : State) (o : Outgoing) : State := { s with host := { s.host with sent := s.host.sent ++ [o] } }

/-- The package of a flat number (01 R20). -/
def pkgOf (flat : Nat) : Nat := flat / 1024

/-- The peer-table entry of a package: its fabric address, if it is not empty (22 R389). -/
def peerOf (s : State) (pkg : Nat) : Option Word := tabFind s.host.peers pkg

/-- Whether a die reaches the peers (01 R13). -/
def portReach (s : State) (d : Nat) : Bool := (exitDie s (Fin.ofNat 4 d)).isSome

/-- A message from the die of a cell to a die of this package, with its name (01 R16; 20 R377). -/
def cellMessage (s : State) (c dst : Nat) : Transit × State :=
  (nextTransit s (dieOf (physOf s c)) dst, sendMessage s (dieOf (physOf s c)) dst)

/-- The frame of a port sent, or sent again, to its destination's die (R172). -/
def sendOutMsg (s : State) (c i : Nat) (m : OutMsg) : State :=
  let r := cellMessage s c (destDie s (dieOf (physOf s c)) m.flat.toNat)
  putOut r.2 c i { m with state := .queued, via := r.1 }

/-- The refusal of a frame on its way back to the sender's port (R172). -/
def refuseOut (s : State) (c i : Nat) (m : OutMsg) : State :=
  let d := destDie s (dieOf (physOf s c)) m.flat.toNat
  putOut (sendMessage s d (dieOf (physOf s c))) c i
    { m with state := .refused, via := nextTransit s d (dieOf (physOf s c)) }

/-- A frame of an outbound port reaches its destination: a cell of this package, or another package that takes it
(R172; 22 R401). -/
def arriveFromPort (s : State) (sender dest : Nat) (ch : Fin 32) : State :=
  match firstFor s sender dest ch with
  | none => s
  | some (i, m) =>
    match m.state with
    | .queued =>
      if pkgOf dest = s.plat.pkg.toNat then
        if !arrived s m.via then s
        else
          match deliver s (dest % 1024) m.ctxid ch m.frame with
          | .accepted s1 => dropOut s1 sender i
          | .refused => refuseOut s sender i m
          | .nowhere => dropUndeliverable s sender i m
      else
        match peerOf s (pkgOf dest) with
        | none => dropUndeliverable s sender i m
        | some fabric =>
          if arrived s m.via && portReach s (dieOf (physOf s sender)) then
            sendOut (dropOut s sender i) (.frame fabric m.flat ch m.ctxid m.frame)
          else s
    | _ => s

/-- The place of the first page-service request of a die for a channel of a cell, which holds back the later ones (R172; 18
R350). -/
def firstPsvc (s : State) (m : PsvcMsg) : Option Nat :=
  s.scrim.psvcs.findIdx? (fun x => x.die = m.die && x.cell = m.cell && x.chan = m.chan)

/-- A page-service request put. -/
def putPsvc (s : State) (i : Nat) (m : PsvcMsg) : State :=
  { s with scrim := { s.scrim with psvcs := listSet s.scrim.psvcs i m } }

/-- A page-service request gone. -/
def dropPsvc (s : State) (i : Nat) : State := { s with scrim := { s.scrim with psvcs := listDrop s.scrim.psvcs i } }

/-- A page-service request reaches its cell, as a send of the die root with the faulting context's CTXID; refused, it waits as a
frame does, and once the wait is over it is sent again (R172; 18 R350; log 67 DESIGN CHOICE). -/
def arrivePsvc (s : State) (i : Nat) (m : PsvcMsg) : State :=
  if firstPsvc s m ≠ some i then s
  else
    match m.state with
    | .waiting 0 =>
      let d := dieOf (physOf s m.cell)
      putPsvc (sendMessage s m.die d) i { m with state := .queued, via := nextTransit s m.die d }
    | .queued =>
      if !arrived s m.via then s
      else
        match deliver s m.cell m.ctxid m.chan m.frame with
        | .accepted s1 => dropPsvc s1 i
        | .refused => putPsvc s i { m with state := .waiting m.backoff, backoff := min 2048 (2 * m.backoff) }
        | .nowhere => dropPsvc s i
    | _ => s

/-- messageArrival (R172; 18 R350; 22 R401; log 51 DEDUCED; log 56 DESIGN CHOICE). -/
def execMessageArrival (a : Arrival) (s : State) : Res :=
  match a with
  | .port sender dest ch => .next (arriveFromPort s sender dest ch)
  | .pageService i =>
    match s.scrim.psvcs[i]? with
    | none => .next s
    | some m => .next (arrivePsvc s i m)
  | .peer flat ch ctxid f =>
    if pkgOf flat ≠ s.plat.pkg.toNat || 30 ≤ ch.val || !hostReach s then .next s
    else
      match deliver s (flat % 1024) ctxid ch (withHeader f (putBits (putBits f[0] 31 28 1) 24 22 4)) with
      | .accepted s1 => .next s1
      | .refused => .next (sendOut s (.refusal flat ch ctxid))
      | .nowhere => .next (sendOut s (.undeliverable flat ctxid))

/-- frameRefused: the refusal reaches the sender's port, which will retry; another package may find a frame
undeliverable (R172; 22 R401). -/
def execFrameRefused (sender dest : Nat) (ch : Fin 32) (nowhere : Bool) (s : State) : Res :=
  match firstFor s sender dest ch with
  | none => .next s
  | some (i, m) =>
    let away : Bool := pkgOf dest != s.plat.pkg.toNat
    let wait : OutMsg := { m with state := .waiting m.backoff, backoff := min 2048 (2 * m.backoff) }
    match m.state with
    | .refused => if arrived s m.via then .next (putOut s sender i wait) else .next s
    | .queued =>
      if away && nowhere then .next (dropUndeliverable s sender i m)
      else if away then .next (putOut s sender i wait)
      else .next s
    | .waiting _ => .next s

/-- outboundRetry: the wait over, the frame is sent again (R172). -/
def execOutboundRetry (sender dest : Nat) (ch : Fin 32) (s : State) : Res :=
  match firstFor s sender dest ch with
  | some (i, m) =>
    match m.state with
    | .waiting 0 => .next (sendOutMsg s sender i m)
    | _ => .next s
  | none => .next s

end Sys2Proof.Machine
end

