-- ==== Sys2Proof/Machine/Contexts.lean ====
section
/-! DEFINITION. Context descriptors, saves and restores of context images (18 R357, R359-R363). -/

namespace Sys2Proof.Machine

/-! ## Descriptors (18 R357) -/

/-- Whether 64 bytes are a well-formed descriptor. -/
def descriptorOk (w : BitVec 512) : Bool :=
  bitsOf w 255 245 = 0 && bitsOf w 196 176 = 0 && bitsOf w 159 129 = 0 && bitsOf w 331 320 = 0 &&
    bitsOf w 383 375 = 0 && bitsOf w 261 256 = 0 && bitsOf w 319 311 = 0 && bitsOf w 244 224 ≤ 1048576 &&
    bitsOf w 201 197 ≤ 29 && bitsOf w 447 385 = 0 && bitsOf w 84 64 = 0 && bitsOf w 127 109 = 0 &&
    bitsOf w 15 0 = 0 && bitsOf w 63 45 = 0

/-- The fields of a descriptor that a cell keeps. -/
def descriptorOf (addr : Nat) (w : BitVec 512) : Descriptor where
  addr := addr
  ctxid := BitVec.ofNat 16 (bitsOf w 175 160)
  sys := w.getLsbD 128
  root := bitsOf w 63 0
  save := BitVec.ofNat 64 (bitsOf w 383 320)
  shapes := BitVec.ofNat 64 (bitsOf w 319 256)
  shcnt := bitsOf w 244 224
  psvc := BitVec.ofNat 27 (bitsOf w 223 197)
  spill := bitsOf w 127 64

/-- The 64 bytes at a physical address as a descriptor; none when they cannot be read. -/
def rawDescriptor (s : State) (addr : Nat) : Option (BitVec 512) :=
  if !memExists s addr || rangeBad s addr 64 then none else some (BitVec.ofNat 512 (physNat s addr 64))

/-- The descriptor at a physical address: none when it cannot be read or is not well formed. -/
def readDescriptor (s : State) (addr : Nat) : Option (BitVec 512) :=
  (rawDescriptor s addr).bind (fun w => if descriptorOk w then some w else none)

/-! ## Saving (18 R359-R361) -/

/-- Whether every condition of a save holds on a cell. -/
def saveReady (s : State) (c : Nat) : Bool :=
  let x := cellAt s c
  let cc := x.cc
  x.live && x.closed && (busySlots s c).isEmpty && x.installs.isEmpty && x.committing.isNone &&
    (match x.steal with
      | .claimed _ _ _ => false
      | _ => true) &&
    cc.mxu.queue.isEmpty &&
    (List.finRange 2).all (fun ch =>
      let k := cc.cch[ch]
      k.queue.isEmpty || k.error || (k.paused && !cc.desc.sys)) &&
    inFlight s c = 0 && !s.stxs.any (fun m => m.cell = c)

/-- The memory where an image is spilled (R361). -/
def spillBase (x : Image) : Nat := x.cc.desc.spill + 2 ^ 21 * x.phys

/-- What software finds where an image was spilled, once the image is gone: the layout of an image is the device's own, so the
bytes are left open (R361; log 20 DESIGN CHOICE). -/
def spillBytes (s : State) (x : Image) : List Byte :=
  (List.range (imageBytes x.cc)).map (fun i => Config.freeByte (2 ^ 130 * (s.turnNo + 1) + spillBase x + i))

/-- Whether an image lies in way 15 of a die (R361). -/
def inWay15 (d : Nat) (x : Image) : Bool := !x.spilled && dieOf x.phys = d

/-- Whether a die does not get through to the memory of an image: the stack of its place is frozen, or its home out of reach (20 R373,
R377). -/
def imageHeld (s : State) (d : Nat) (x : Image) : Bool :=
  lineHeld s d (spillBase x / 128) || !homeReachable s d (spillBase x / 128)

/-- Whether a spill of an image waits (20 R373). -/
def spillWaits (s : State) (x : Image) : Bool := imageHeld s (dieOf x.phys) x

/-- An image written to its place in memory (R361). -/
def spillImage (s : State) (x : Image) : State :=
  let s1 := memWrite s (spillBase x) (spillBytes s x)
  { s1 with images := s.images.map (fun y => if y = x then { y with spilled := true } else y) }

/-- Whether a line of an image needs a way 15 that holds saved state of another (R361). -/
def waysClash (s : State) (d : Nat) (x y : Image) : Bool :=
  (imageLines x).any (fun l => (imageLines y).any (fun m => l2Set s d l = l2Set s d m))

/-- Way 15 of every set that an image needs free of other images: the oldest of the die spilled while one is in the way; none when
a spill waits (R361). -/
def makeWay15 (s : State) (d : Nat) (x : Image) : Nat → Option State
  | 0 => some s
  | n + 1 =>
    match s.images.filter (inWay15 d) with
    | [] => some s
    | o :: l =>
      if !(o :: l).any (waysClash s d x) then some s
      else if spillWaits s o then none
      else makeWay15 (spillImage s o) d x n

/-- Way 15 of the set of one line of an image free of lines: the one among `held` that stands there evicted, where none of them
does an unpinned and unlocked one when all ways are taken; none when every unpinned one is locked (R220, R222, R361; log 19 DESIGN
CHOICE). -/
def clearWay15 (s : State) (d : Nat) (held : List Nat) (line : Nat) : Option State :=
  let here := (l2Lines s.coh d ++ l2Coming s.coh d).filter (fun l => l2Set s d l = l2Set s d line)
  let free := here.filter (fun l => !isPinned s.coh d l && !lineLocked s d l)
  match held.find? (fun v => free.contains v) with
  | some v => some (evictL2 s d v)
  | none => if here.length < 16 then some s else (pick s free).map (fun v => evictL2 s d v)

/-- Every way 15 that an image takes free of lines. -/
def clearWays15 (s : State) (d : Nat) (held : List Nat) : List Nat → Option State
  | [] => some s
  | l :: ls => (clearWay15 s d held l).bind (fun t => clearWays15 t d held ls)

/-- Way 15 of every set that an image needs made free (R220, R361). -/
def roomForImage (s : State) (d : Nat) (x : Image) (held : List Nat) : Option State :=
  (makeWay15 s d x s.images.length).bind (fun t =>
    if held.isEmpty && (l2Lines t.coh d ++ l2Coming t.coh d).length < 16 then some t else clearWays15 t d held (imageLines x))

/-- The cell after its context has been saved. A steal request that no victim has claimed for is withdrawn with it (07 R169; log 75 DESIGN
CHOICE). -/
def emptyCell (x : Cell) : Cell :=
  { x with live := false, cc := CtxCell.blank, preempt := .none, closed := false, steal := .idle, stealWait := 0 }

/-- The walkers of a die at work for a context free again. -/
def dropWalkers (s : State) (d : Nat) (ctxid : BitVec 16) : State :=
  if s.tlbs.walkers.isEmpty then s
  else { s with tlbs := { s.tlbs with walkers := s.tlbs.walkers.filter (fun w => !(w.die = d && w.ctxid = ctxid)) } }

/-- contextSave: the image written to way 15 of the slices of the cell's die once that is free of other images and of the lines held
there (R220, R359-R361). The image keeps more of the context than R360 lists, such as pass counts and raised levels (log 68 DESIGN
CHOICE). -/
def execContextSave (c : Nat) (held : List Nat) (s : State) : Res :=
  if !saveReady s c then .next s
  else
    let x : Image := ⟨physOf s c, ccAt s c, false⟩
    match roomForImage s (dieOf x.phys) x held with
    | some t =>
      let t1 := dropWalkers { t with images := t.images ++ [x] } (dieOf x.phys) x.cc.desc.ctxid
      .next (settleShares (putCell t1 c (emptyCell (cellAt t c))) c x.cc)
    | none => .next s

/-! ## Restoring (18 R363) -/

/-- The image a request names. -/
def findImage (s : State) (r : RestoreReq) : Option Image :=
  s.images.find? (fun x => x.phys = r.image && x.cc.desc.ctxid = r.ctxid)

/-- Whether a request is refused: no such image, a user image bound to another cell, the context resident. -/
def restoreRefused (s : State) (c : Nat) (r : RestoreReq) : Bool :=
  match findImage s r with
  | none => true
  | some x => (!x.cc.desc.sys && x.phys != physOf s c) || isResident s c r.ctxid

/-! ## The dispatcher's requests (07 R182; 18 R359; 23 R407, R408) -/

/-- A pre-emption request stands until looked at, at once on a cell without an activation (07 R182). -/
def takePreempt (s : State) (c : Nat) (ctxid : BitVec 16) : State :=
  if !isResident s c ctxid then s
  else
    let s1 := putCell s c { cellAt s c with preempt := some ctxid }
    if (busySlots s1 c).isEmpty then lookPreempt s1 c else s1

/-- A restore request refused, or queued for the cell in order (R363). -/
def takeRestore (s : State) (c : Nat) (r : RestoreReq) : State :=
  if restoreRefused s c r then s else putCell s c { cellAt s c with restores := (cellAt s c).restores ++ [r] }

/-- The cell of a request. -/
def DispatchReq.cell : DispatchReq → Nat
  | .preempt c _ => c
  | .restore c _ _ => c

/-- A request carried out. -/
def takeRequest (s : State) : DispatchReq → State
  | .preempt c ctxid => takePreempt s c ctxid
  | .restore c ctxid image => takeRestore s c ⟨ctxid, image⟩

/-- Whether the dispatcher that issues a request has checked in: that of the cell's die. -/
def requestReady (s : State) (r : DispatchReq) : Bool := dispatcherUp s (Fin.ofNat 4 (dieOf (physOf s r.cell)))

/-- A request issued by the dispatcher, or kept in its queue while it is swapped (23 R408). -/
def issueRequest (s : State) (r : DispatchReq) : State :=
  if requestReady s r then takeRequest s r else { s with host := { s.host with requests := s.host.requests ++ [r] } }

/-- A pre-emption request that stands on a cell without an activation looked at (07 R182). -/
def lookAgain (s : State) (c : Nat) : State :=
  if (cellAt s c).preempt.isSome && (busySlots s c).isEmpty then lookPreempt s c else s

/-- The requests kept for dispatchers that have checked in carried out in order, and those that stood on their cells looked at (07 R182; 23
R407, R408). -/
def serveRequests (s : State) : State :=
  let s1 := { s with host := { s.host with requests := s.host.requests.filter (fun r => !requestReady s r) } }
  (knownCells s).foldl lookAgain ((s.host.requests.filter (requestReady s)).foldl takeRequest s1)

/-- preemptRequest (07 R182; 18 R359; 23 R408). -/
def execPreemptRequest (c : Nat) (ctxid : BitVec 16) (s : State) : Res := .next (issueRequest s (.preempt c ctxid))

/-- restoreRequest (R363; 23 R408). -/
def execRestoreRequest (c : Nat) (ctxid : BitVec 16) (image : Nat) (s : State) : Res :=
  .next (issueRequest s (.restore c ctxid image))

/-! ## Restores -/

/-- The descriptor after a restore: read again when the image came from memory, its values used as they are read; one that cannot be read
leaves the saved values (R357; log 22 DEDUCED). -/
def restoredDesc (s : State) (fromMem : Bool) (d : Descriptor) : Descriptor :=
  match fromMem, rawDescriptor s d.addr with
  | true, some w => descriptorOf d.addr w
  | _, _ => d

/-- The pages of the ring of a context. -/
def ringPagesOf (x : CtxCell) : List Nat :=
  if ringCap x = 0 then [] else ringVpages (bitsOf x.sspill 54 12 * 4096) (64 * ringCap x)

/-- The ring pages of a system context translated again; kept as they were when one fails (R363; log 22 DEDUCED). -/
def restoredRing (s : State) (c : Nat) (x : CtxCell) : List Nat :=
  if ringCap x = 0 then x.ringPages
  else
    match (ringPagesOf x).mapM (fun p =>
      match translate s c x.desc p with
      | .ok e => some (tlbPa e p)
      | .error _ => none) with
    | some l => l
    | none => x.ringPages

/-- The state that a restore loads: barriers of a system context unset, paused channels going on (R302, R363). -/
def restoredCc (s : State) (c : Nat) (im : Image) : CtxCell :=
  let fromMem := im.spilled || im.phys != physOf s c
  let mxu : Mxu := { im.cc.mxu with narrow := cellAlarm s c, paused := .none }
  let cch := im.cc.cch.map (fun k : CopyChan => { k with paused := false })
  let x : CtxCell := { im.cc with desc := restoredDesc s fromMem im.cc.desc, cch := cch, mxu := mxu }
  if x.desc.sys then { x with barriers := [], ringPages := restoredRing s c x } else x

/-- Whether a restore of an image on a cell waits: it is read from, or first spilled to, memory of a frozen stack (20 R367, R373). -/
def restoreWaits (s : State) (c : Nat) (im : Image) : Bool :=
  (im.spilled || im.phys != physOf s c) &&
    (imageHeld s (dieOf (physOf s c)) im || (!im.spilled && spillWaits s im))

/-- An image loaded into a free cell: one for another cell is first spilled if it lies in way 15 (R363), and leaves what it had counted
with the parts of the cell that saved it (22 R399). -/
def restoreImage (s : State) (c : Nat) (im : Image) : State :=
  let s0 := moveCounts (if !im.spilled && im.phys != physOf s c then spillImage s im else s) (logicalOf s im.phys) c im.cc
  let s1 := { s0 with images := s0.images.filter (fun x =>
    !(x.phys = im.phys && x.cc.desc.ctxid = im.cc.desc.ctxid)) }
  settleShares (putCell s1 c { cellAt s1 c with live := true, cc := restoredCc s1 c im, closed := false, preempt := .none }) c
    (ccAt s c)

/-- The pages of the ring of a system context walked before it is restored on a cell; or the state in which that waits (20 R373). -/
def walkRing (s : State) (c : Nat) (im : Image) : Except State State :=
  if im.cc.desc.sys then
    let d := restoredDesc s (im.spilled || im.phys != physOf s c) im.cc.desc
    walkPages s c d ((ringPagesOf im.cc).map (fun p => p / 65536))
  else .ok s

/-- A restore of an image on a cell that holds no context, or the state in which it waits (R363; 20 R367, R373). -/
def tryRestore (s : State) (c : Nat) (im : Image) : Except State State :=
  if restoreWaits s c im then .error s
  else
    match walkRing s c im with
    | .error w => .error w
    | .ok t => .ok (restoreImage t c im)

/-- contextRestore: the first request of a cell served once no context is resident there, by a dispatcher that has checked in (R363; 23
R408; log 50 DEDUCED). -/
def execContextRestore (c : Nat) (s : State) : Res :=
  match (cellAt s c).restores with
  | [] => .next s
  | r :: l =>
    if (cellAt s c).live || dieGone s (dieOf (physOf s c)) || !dispatcherUp s (Fin.ofNat 4 (dieOf (physOf s c))) then .next s
    else
      let s1 := putCell s c { cellAt s c with restores := l }
      if restoreRefused s1 c r then .next s1
      else
        match findImage s1 r with
        | none => .next s1
        | some im =>
          match tryRestore s c im with
          | .error w => .next w
          | .ok t => .next (putCell t c { cellAt t c with restores := l })

/-! ## Images that go from package to package (R363) -/

/-- The host side put. -/
def putHost (s : State) (h : HostSide) : State := { s with host := h }

/-- Whether any cell of the package holds a context, resident or saved (R357). -/
def ctxAnywhere (s : State) (ctxid : BitVec 16) : Bool :=
  s.cells.any (fun e => e.2.live && e.2.cc.desc.ctxid = ctxid) || s.images.any (fun x => x.cc.desc.ctxid = ctxid)

/-- The registry with a context, entries that no cell holds any longer gone (R357). -/
def register (s : State) (ctxid : BitVec 16) (addr : Nat) : State :=
  let l := s.host.registry.filter (fun e => e.1 != ctxid && ctxAnywhere s e.1)
  putHost s { s.host with registry := l ++ [(ctxid, addr)] }

/-- A context that this package has not held so far: its CTXID registered, its counts those of no part here (R357; 22 R399). -/
def takeContext (s : State) (x : Image) : State :=
  if ctxAnywhere s x.cc.desc.ctxid then s else register s x.cc.desc.ctxid x.cc.desc.addr

/-- A system image that another package saved and that now lies at its place in memory, from where a request restores it (R363; log
22 DEDUCED). -/
def importImage (s : State) (x : Image) : State :=
  if !x.cc.desc.sys || !memExists s (spillBase x) || s.images.any (fun y => y.phys = x.phys && y.cc.desc.ctxid = x.cc.desc.ctxid) then s
  else
    { memWrite (takeContext s x) (spillBase x) (spillBytes s x) with
      images := s.images ++ [{ x with cc := { x.cc with aborts := 0, kills := 0, undeliv := 0 }, spilled := true }] }

/-- The image of a system context saved here taken for a restore on another package: first spilled if it still lies in way 15, then given
up, what it had counted staying with its parts (R363; 22 R399). -/
def exportImage (s : State) (phys : Nat) (ctxid : BitVec 16) : State :=
  match findImage s ⟨ctxid, phys⟩ with
  | none => s
  | some x =>
    if !x.cc.desc.sys || (!x.spilled && spillWaits s x) then s
    else
      let s1 := carryCounts (if x.spilled then s else spillImage s x) (logicalOf s phys) x.cc
      { s1 with images := s1.images.filter (fun y => !(y.phys = phys && y.cc.desc.ctxid = ctxid)) }

end Sys2Proof.Machine
end

