-- ==== Sys2Proof/Machine/Control.lean ====
section
/-! DEFINITION. Control transfers but for end (05 R115, R117). -/

namespace Sys2Proof.Machine

/-- br (R115). -/
def execBr (imm : BitVec 56) (s : State) : Res :=
  .next (setIp s (relTarget (ipOf s) imm))

/-- jmp (R115). -/
def execJmp (a : GReg) (s : State) : Res :=
  .next (setIp s ((readG s a).setWidth 32))

/-- call through a register: the old g[A] is the target (R115). -/
def execCall (a : GReg) (s : State) : Res :=
  .next (setIp (writeG s 63 ((ipOf s + 1).setWidth 64)) ((readG s a).setWidth 32))

/-- call with an offset (R115). -/
def execCallImm (imm : BitVec 56) (s : State) : Res :=
  .next (setIp (writeG s 63 ((ipOf s + 1).setWidth 64)) (relTarget (ipOf s) imm))

/-- ret (R115). -/
def execRet (a : GReg) (s : State) : Res :=
  .next (setIp s ((readG s a).setWidth 32))

/-- loop (R115). -/
def execLoop (d : GReg) (imm : BitVec 56) (s : State) : Res :=
  let n := readG s d - 1
  .next (setIp (writeG s d n) (if n ≠ 0 then relTarget (ipOf s) imm else ipOf s + 1))

/-- nop (R117). -/
def execNop (s : State) : Res :=
  .next (advance s)

end Sys2Proof.Machine
end

