-- ==== Sys2Proof/Machine/Dies.lean ====
section
/-! DEFINITION. Dies: hand-over stages, refused and held requests, fencing a die and its return (20 R366-R387;
23 R413). -/

namespace Sys2Proof.Machine

/-! ## Tables -/

/-- Every die's table changed. -/
def mapTables (s : State) (f : Fin 4 → DieTable → DieTable) : State :=
  putDies s { s.dies with tables := Vector.ofFn (fun d => f d s.dies.tables[d]) }

/-- A bit of a vector set or cleared. -/
def putBit {n : Nat} (x : BitVec n) (i : Nat) (b : Bool) : BitVec n :=
  if b then x ||| (1#n <<< i) else x &&& ~~~(1#n <<< i)

/-- The freeze and busy bits of a stack on every die (R372 stages 1 and 7). -/
def setFreeze (s : State) (k : Fin 12) (b : Bool) : State :=
  mapTables s (fun _ t => { t with freeze := putBit t.freeze k.val b, busy := putBit t.busy k.val b })

/-- The owner of a stack on every die (R372 stage 4). -/
def setOwner (s : State) (k : Fin 12) (d : Fin 4) : State :=
  mapTables s (fun _ t => { t with owner := t.owner.set k d })

/-- The port that the base die of a stack makes active (R372 stage 5). -/
def setActive (s : State) (k : Fin 12) (d : Fin 4) : State :=
  putDies s { s.dies with active := s.dies.active.set k d }

/-- Whether a line lies in a stack. -/
def inStack (k : Fin 12) (line : Nat) : Bool := stackOfLine line = some k

/-! ## Held requests -/

/-- Held requests that meet a test sent on in order (R367, R372). -/
def replayHeld (s : State) (p : CohReq → Bool) : State :=
  let l := s.coh.held.filter p
  drain (l.foldl (fun s r => routeHome s 32 r) (putCoh s { s.coh with held := s.coh.held.filter (fun r => !p r) }))

/-- notownerRetry: a refused request reads the owner table afresh (R368). -/
def execNotownerRetry (i : Nat) (s : State) : Res :=
  match s.coh.notowner[i]? with
  | none => .next s
  | some x =>
    if x.wait ≠ 0 then .next s
    else
      let t := putCoh s { s.coh with notowner := listDrop s.coh.notowner i }
      .next (drain (if x.req.kind = .put then sendReq t x.backoff x.req else routeHome t x.backoff x.req))

/-! ## Recall (R372 stage 3; R385 steps 3 and 4) -/

/-- The lines of a stack that the home has granted to any die. -/
def stackLines (s : State) (k : Fin 12) : List Nat :=
  (s.coh.homes.filter (fun e => inStack k e.1 && e.2.st != .i)).map (fun e => e.1)

/-- The lines of a stack recalled from every die, each by the home's own eviction of its entry (R372; 10 R228). -/
def recallStack (s : State) (k : Fin 12) : State :=
  ((stackLines s k).filter (fun l => !siteLocked s .home l)).foldl startEvict s

/-- The dirty bytes of a line lost. -/
def dropDirty (s : State) (line : Nat) : State :=
  { s with dirty := s.dirty.filter (fun e => e.1 / 128 != line) }

/-- The dirty bytes of a stack that no surviving die holds lost. -/
def dropStackDirty (s : State) (k : Fin 12) : State :=
  { s with dirty := s.dirty.filter (fun e => !inStack k (e.1 / 128)) }

/-- The lines of a stack that a die holds. -/
def heldLines (s : State) (k : Fin 12) (d : Fin 4) : List Nat := (l2Lines s.coh d.val).filter (inStack k)

/-- The dies that do not stand fenced. -/
def survivors (s : State) : List (Fin 4) := (List.finRange 4).filter (fun d => !isFenced s d)

/-- A line given up by a die, whose home then counts it no longer (R385 step 4). -/
def flushLine (d : Nat) (s : State) (line : Nat) : State :=
  let s1 := giveUp s d line
  putCoh s1 (homeSet s1.coh line (diePut (homeGet s1.coh line) d))

/-- The lines of a stack given up by a die, those that no pin or transaction holds (R385 step 4). -/
def flushStack (k : Fin 12) (s : State) (d : Fin 4) : State :=
  ((heldLines s k d).filter (fun l => !probeWaits s.coh l d.val)).foldl (flushLine d.val) s

/-! ## The stages (R372, R376, R385) -/

/-- The hand-over of a stack, with its place. -/
def findHandover (s : State) (k : Fin 12) : Option (Nat × Handover) :=
  (s.dies.handovers.findIdx? (fun h => h.stack = k)).bind (fun i => (s.dies.handovers[i]?).map (fun h => (i, h)))

/-- A hand-over put. -/
def putHandover (s : State) (i : Nat) (h : Handover) : State :=
  putDies s { s.dies with handovers := listSet s.dies.handovers i h }

/-- A hand-over that has completed one more stage. -/
def stageDone (s : State) (i : Nat) (h : Handover) : State := putHandover s i { h with stage := h.stage + 1 }

/-- The result of a shand on its way from the old owner to its slot, if that still waits for it (R371, R376, R377). -/
def answerShand (s : State) (src : Fin 4) (w : Option (Nat × Fin 4)) (r : BitVec 3) : State :=
  match w with
  | none => s
  | some (c, k) =>
    let dst := dieOf (physOf s c)
    match (slotAt s c k).stall with
    | .shand d =>
      let s1 := sendMessage s src.val dst
      putSlotAt s1 c k { slotAt s1 c k with stall := .reply d (nextTransit s src.val dst) (r.setWidth 64) }
    | _ => s

/-- The other die of a stack's pair (01 R14). -/
def otherOf (k : Fin 12) (d : Fin 4) : Fin 4 := if (pairOf k).1 = d then (pairOf k).2 else (pairOf k).1

/-- A forced hand-over of a stack of a fenced die (R385; log 48 DEDUCED). -/
def forcedHandover (k : Fin 12) (d : Fin 4) : Handover := ⟨k, d, otherOf k d, 0, true, .none⟩

/-- A hand-over ended with a result: the stack unfrozen, held requests sent on; a stack left with a fenced owner passes
on (R372 stage 7, R376, R385). -/
def endHandover (s : State) (i : Nat) (h : Handover) (owner : Fin 4) (r : BitVec 3) : State :=
  let rest := listDrop s.dies.handovers i
  let more := if isFenced s owner then [forcedHandover h.stack owner] else []
  let s1 := answerShand (setFreeze (putDies s { s.dies with handovers := rest ++ more }) h.stack false) h.old h.waiter r
  replayHeld s1 (fun x => inStack h.stack x.line)

/-- Whether the queue of a stack's controller holds a request for it, one that waits for a way among them (R372 stage 2). -/
def queueBusy (s : State) (k : Fin 12) : Bool :=
  s.coh.txns.any (fun t => t.req.site = .home && inStack k t.req.line) ||
    (s.coh.conflicts ++ s.coh.wayWait).any (fun r => r.site = .home && inStack k r.line)

/-- Whether the base-die controller of a stack is being swapped (23 R408). -/
def baseSwapping (s : State) (k : Fin 12) : Bool :=
  match (s.plat.controllers[6 + k.val]'(by omega)).state with
  | .starting _ => true
  | _ => false

/-- The home directory of a stack empty: no entry for it (R372 stage 6). -/
def dropHomes (s : State) (k : Fin 12) : State :=
  putCoh s { s.coh with homes := s.coh.homes.filter (fun e => !inStack k e.1) }

/-- The granules of a stack whose count is not 0 (R369). -/
def heldGranules (s : State) (k : Fin 12) : List Nat :=
  ((s.coh.homes.filter (fun e => inStack k e.1 && hasOwner e.2.st)).map (fun e => e.1 / 32)).eraseDups

/-- A line marked poisoned in memory, what surviving dies hold of it staying good (R384, R385). -/
def loseLine (s : State) (line : Nat) : State := poisonLine (keepGood s (fun k => k / 4 = line)) line

/-- Every line of a granule marked poisoned (R385 step 3). -/
def poisonGranule (s : State) (g : Nat) : State :=
  (List.range 32).foldl (fun s i => loseLine s (32 * g + i)) s

/-- Whether a spilled image has a poisoned line (23 R413). -/
def imagePoisoned (s : State) (x : Image) : Bool :=
  x.spilled && s.poison.any (fun k => spillBase x < 32 * k + 32 && 32 * k < spillBase x + imageBytes x.cc)

/-- A lost image counted, with the frames in it and what its context had counted (23 R413); that of a user context counts too where it was
spilled, though its memory stands (log 80 DESIGN CHOICE). -/
def loseImage (s : State) (x : Image) : State :=
  carryCounts (addLoss s (logicalOf s x.phys) x.cc.desc.ctxid (1 + x.cc.frames)) (logicalOf s x.phys) x.cc

/-- The images of a test lost. -/
def loseImages (s : State) (p : Image → Bool) : State :=
  let t := (s.images.filter p).foldl loseImage s
  { t with images := t.images.filter (fun x => !p x) }

/-- The spilled images whose lines a fence has left poisoned lost (23 R413). -/
def losePoisoned (s : State) : State := if s.images.isEmpty then s else loseImages s (imagePoisoned s)

/-- The recall stage: over once no die holds a line of the stack. -/
def recallStage (s : State) (i : Nat) (h : Handover) : State :=
  let s1 := recallStack s h.stack
  if (stackLines s1 h.stack).isEmpty then stageDone s1 i h else s1

/-- Whether a die of the pair of a hand-over stands fenced. -/
def pairFenced (s : State) (h : Handover) : Bool := isFenced s h.old || isFenced s h.new

/-- The next stage of a hand-over that shand started, when it can complete; one that meets a fence before stage 4 goes no further:
that of the new owner stops it, that of the old one waits for R385 (R372, R376). -/
def nextStage (s : State) (i : Nat) (h : Handover) : State :=
  if h.stage < 4 && pairFenced s h then if isFenced s h.new && !isFenced s h.old then endHandover s i h h.old 4 else s
  else
    match h.stage with
    | 0 => stageDone (setFreeze s h.stack true) i h
    | 1 => if queueBusy s h.stack then s else stageDone s i h
    | 2 => recallStage s i h
    | 3 => stageDone (setOwner s h.stack h.new) i h
    | 4 => if baseSwapping s h.stack then s else stageDone (setActive s h.stack h.new) i h
    | 5 => stageDone (dropHomes s h.stack) i h
    | _ => endHandover s i h h.new 0

/-- The die that a forced hand-over gives its stack to: the one of its pair that is not fenced, if one is (R385). -/
def heirOf (s : State) (h : Handover) : Option (Fin 4) :=
  if !isFenced s h.new then some h.new else if !isFenced s h.old then some h.old else none

/-- Fenced dies out of the presence sets of a stack, what they held dirty being poisoned by then (R383, R385). -/
def dropFenced (s : State) (k : Fin 12) : State :=
  let gone := (List.finRange 4).filter (isFenced s)
  putCoh s { s.coh with homes := tabMap (fun line h =>
    if inStack k line then gone.foldl (fun h d => withoutDie d.val h) h else h) s.coh.homes }

/-- Step 3 of a forced hand-over (R385). -/
def forcedPoison (s : State) (k : Fin 12) : State := dropFenced (losePoisoned ((heldGranules s k).foldl poisonGranule s)) k

/-- Step 4 of a forced hand-over: over once no surviving die holds a line of the stack, its granules then counting none; what only fenced
dies held dirty is lost (R385). -/
def forcedRecall (s : State) (i : Nat) (h : Handover) : State :=
  let s1 := (survivors s).foldl (flushStack h.stack) s
  if (survivors s1).all (fun d => (heldLines s1 h.stack d).isEmpty) then
    stageDone (dropHomes (dropStackDirty s1 h.stack) h.stack) i h
  else s1

/-- The next step of a forced hand-over, once the fence that brought it is confirmed. While both dies of the pair are fenced the stack
stays frozen; an heir whose port is not the active one starts again at step 2 (R385; log 48 DEDUCED). -/
def nextForced (s : State) (i : Nat) (h : Handover) : State :=
  if h.stage = 0 then
    if isFenced s h.old && !s.dies.health[h.old].confirmed then s else stageDone (setFreeze s h.stack true) i h
  else
    match heirOf s h with
    | none => s
    | some heir =>
      if 2 ≤ h.stage && s.dies.active[h.stack] != heir then putHandover s i { h with stage := 1 }
      else
        match h.stage with
        | 1 =>
          if baseSwapping s h.stack then s
          else stageDone (setActive s h.stack heir) i { h with new := heir, old := otherOf h.stack heir }
        | 2 => stageDone (forcedPoison s h.stack) i h
        | 3 => forcedRecall s i h
        | 4 => stageDone (setOwner s h.stack heir) i h
        | 5 => stageDone (dropHomes s h.stack) i h
        | _ => endHandover s i h heir 0

/-- handoverStage: the next stage of a stack's hand-over (R372, R385). -/
def execHandoverStage (k : Fin 12) (s : State) : Res :=
  match findHandover s k with
  | none => .next s
  | some (i, h) => .next (if h.forced then nextForced s i h else nextStage s i h)

/-! ## Fencing (R382, R386; 23 R413) -/

/-- Whether a link ends at a die. -/
def linkTouches (d : Fin 4) (l : Fin 8) : Bool := linkFrom l = d || linkTo l = d

/-- Whether a logical cell lies on a die. -/
def cellOnDie (s : State) (d : Nat) (c : Nat) : Bool := dieOf (physOf s c) = d

/-- What is lost with a cell, counted in its parts: activations and frames of its context, frames in its port, and what the
context had counted (R386; 22 R399; 23 R413). -/
def loseCell (s : State) (c : Nat) : State :=
  let x := cellAt s c
  let n := (busySlots s c).length + x.cc.frames + x.installs.length + claimedFrames x.steal
  let s1 := if x.live then carryCounts (addLoss s c x.cc.desc.ctxid n) c x.cc else s
  x.port.foldl (fun s m => addLoss s c m.ctxid 1) s1

/-- A claimed frame of a lost victim lost at its thief (R386). -/
def loseClaim (s : State) (d : Nat) (c : Nat) : State :=
  let x := cellAt s c
  match x.steal with
  | .claimed v _ _ =>
    if cellOnDie s d v && !cellOnDie s d c then
      putCell (addLoss s c x.cc.desc.ctxid 1) c { cellAt (addLoss s c x.cc.desc.ctxid 1) c with steal := .idle }
    else s
  | _ => s

/-- Whether a saved image is lost with a die: it lies in its L2, it is a user context's bound to it, or its lines are poisoned (R386;
23 R413). -/
def imageLost (s : State) (d : Nat) (x : Image) : Bool :=
  dieOf x.phys = d && (!x.spilled || !x.cc.desc.sys || imagePoisoned s x)

/-- The cells of a die as after reset, its slots free, its images gone, what was lost counted (R386). -/
def loseCells (s : State) (d : Nat) : State :=
  let mine := (knownCells s).filter (cellOnDie s d)
  let s1 := loseImages (mine.foldl loseCell s) (imageLost s d)
  let s2 := (knownCells s1).foldl (fun s c => loseClaim s d c) s1
  { s2 with
    cells := s2.cells.filter (fun e => !cellOnDie s d e.1)
    slots := s2.slots.filter (fun e => !cellOnDie s d (e.1 / 4)) }

/-! ## Messages that meet a fence (R382) -/

/-- Whether a message is of a stream from or to a die. -/
def viaDie (d : Nat) (t : Transit) : Bool :=
  match t with
  | some (k, _) => k / 4 = d || k % 4 = d
  | none => false

/-- A message of a stream of a fenced die is on its way no longer: what it was for goes on without it. -/
def cutTransit (d : Nat) (t : Transit) : Transit := if viaDie d t then none else t

/-- Whether a message has left a fenced die and not arrived: its flits are discarded. -/
def cutOff (s : State) (d : Nat) (t : Transit) : Bool :=
  match t with
  | some (k, _) => k / 4 = d && !arrived s t
  | none => false

/-- A steal that meets a fence: a request or an answer goes on without its message. -/
def cutSteal (d : Nat) : Steal → Steal
  | .idle => .idle
  | .asked v dom t => .asked v dom (cutTransit d t)
  | .empty dom t => .empty dom (cutTransit d t)
  | .claimed v f t => .claimed v f (cutTransit d t)

/-- A cell that meets a fence of another die: its frames, refusals and steals go on without their messages. -/
def cutCell (d : Nat) (x : Cell) : Cell :=
  { x with port := x.port.map (fun m => { m with via := cutTransit d m.via }), steal := cutSteal d x.steal }

/-- A stall that meets a fence of another die: an instruction on its way there is tried again, an answer comes without its message. -/
def cutStall (d : Nat) : Stall → Stall
  | .trip t => if viaDie d t then .again else .trip t
  | .reply r t v => .reply r (cutTransit d t) v
  | .replyUe t va info => .replyUe (cutTransit d t) va info
  | .place op r w (some (a, t)) => .place op r w (some (a, cutTransit d t))
  | x => x

/-- A slot that meets a fence of another die. -/
def cutSlot (d : Nat) (x : Slot) : Slot := { x with stall := cutStall d x.stall }

/-- The messages of the place store that meet a fence go on without their messages. -/
def cutPlace (d : Nat) (p : Place) : Place :=
  let each (l : List (Nat × Transit)) : List (Nat × Transit) := l.map (fun e => (e.1, cutTransit d e.2))
  { spaces := p.spaces.map (fun sp => { sp with handles := tabMap (fun _ h =>
      { h with queue := h.queue.map (fun q => { q with via := cutTransit d q.via }) }) sp.handles })
    moves := p.moves.map (fun m => { m with via := cutTransit d m.via })
    queries := p.queries.map (fun q => { q with toServe := each q.toServe, toAnswer := each q.toAnswer }) }

/-- What is on its way from a fenced die discarded; what is on its way to it goes on without its message, to be refused, answered or
held where it is looked at (R382, R386). -/
def loseMessages (s : State) (d : Nat) : State :=
  { s with
    slots := tabMap (fun _ x => cutSlot d x) s.slots
    cells := tabMap (fun _ x => cutCell d x) s.cells
    place := cutPlace d s.place
    stxs := (s.stxs.filter (fun m => !cellOnDie s d m.cell)).map (fun m => { m with via := cutTransit d m.via })
    reports := s.reports.filter (fun m => dieOf m.source != d)
    scrim := { s.scrim with
      routers := s.scrim.routers.filter (fun e => e.1 / 33 != d)
      posts := s.scrim.posts.filter (fun m => m.router / 33 != d)
      wakes := (s.scrim.wakes.filter (fun m => !cutOff s d m.via)).map (fun m => { m with via := cutTransit d m.via })
      psvcs := (s.scrim.psvcs.filter (fun m => m.die != d)).map (fun m => { m with via := cutTransit d m.via }) } }

/-- The request for which a die awaited a grant that a fenced home had sent. -/
def lostGrant (m : GrantMsg) : CohReq := ⟨.home, m.die, m.line, if m.st = .m then .getm else .gets⟩

/-- Coherence messages that meet a fence: requests of the die are gone, requests to it and refusals and grants from it are held again until
the line has another home, its answers that have not arrived are still to come, and its probes are discarded (R382). -/
def cutCoh (s : State) (d : Nat) : State :=
  let c := s.coh
  let kept := c.reqs.filter (fun m => m.req.from_ != d)
  let refusals := c.refusals.filter (fun m => m.req.from_ != d)
  let again := (kept.filter (fun m => viaDie d m.via && m.req.kind != .put) ++ refusals.filter (fun m => cutOff s d m.via)).map
    (fun m => m.req)
  let grants := c.grants.filter (fun m => m.die != d)
  let unanswered := (c.answers.filter (fun m => cutOff s d m.via)).map (fun m =>
    ({ site := m.site, line := m.line, target := m.target, kind := .getm, stamp := 0, via := none } : ProbeMsg))
  putCoh s { c with
    reqs := kept.filter (fun m => !viaDie d m.via)
    refusals := (refusals.filter (fun m => !cutOff s d m.via)).map (fun m => { m with via := cutTransit d m.via })
    grants := (grants.filter (fun m => !cutOff s d m.via)).map (fun m => { m with via := cutTransit d m.via })
    probes := (c.probes.filter (fun m => !cutOff s d m.via)).map (fun m => { m with via := cutTransit d m.via }) ++ unanswered
    answers := (c.answers.filter (fun m => !cutOff s d m.via)).map (fun m => { m with via := cutTransit d m.via })
    held := c.held ++ again ++ (grants.filter (fun m => cutOff s d m.via)).map lostGrant }

/-- Whether a request comes from a die. -/
def reqFrom (d : Nat) (r : CohReq) : Bool :=
  match r.site with
  | .slice x => x.val = d
  | .home => r.from_ = d

/-- The caches, TLBs and slice directories of a die empty, its own requests gone (R386, R387). -/
def flushDie (s : State) (d : Nat) : State :=
  { s with
    coh := { s.coh with
      l1 := s.coh.l1.filter (fun e => e.1 / 2 ^ 40 / 256 != d)
      vic := s.coh.vic.filter (fun e => e.1 / 2 ^ 40 / 256 != d)
      dirs := s.coh.dirs.filter (fun e => e.1 / 2 ^ 40 != d)
      txns := s.coh.txns.filter (fun t => !(t.req.site = .slice (Fin.ofNat 4 d)))
      probes := s.coh.probes.filter (fun m => !(m.site = .slice (Fin.ofNat 4 d)))
      answers := s.coh.answers.filter (fun m => !(m.site = .slice (Fin.ofNat 4 d)))
      conflicts := s.coh.conflicts.filter (fun r => !reqFrom d r)
      wayWait := s.coh.wayWait.filter (fun r => !reqFrom d r)
      retries := s.coh.retries.filter (fun r => !reqFrom d r.req)
      notowner := s.coh.notowner.filter (fun r => !reqFrom d r.req)
      held := s.coh.held.filter (fun r => !reqFrom d r)
      pins := s.coh.pins.filter (fun x => x.die != d) }
    tlbs := {
      l1 := s.tlbs.l1.filter (fun e => !cellOnDie s d e.1)
      l2 := s.tlbs.l2.filter (fun e => e.1 / 32 != d)
      walks := s.tlbs.walks.filter (fun e => e.1 != d)
      walkers := s.tlbs.walkers.filter (fun w => w.die != d) } }

/-- The streams from and to a die gone. -/
def dropStreams (s : State) (d : Nat) : State :=
  putDies s { s.dies with streams := s.dies.streams.filter (fun e => e.1 / 4 != d && e.1 % 4 != d) }

/-- The port link of a die enabled or disabled (R382, R387). -/
def setPortLink (s : State) (d : Nat) (b : Bool) : State := putReach s { s.plat with portUp := putBit s.plat.portUp d b }

/-- The laths and the port link of a die disabled; messages of other dies that were crossing it take the other way (R377, R382). -/
def dropLaths (s : State) (d : Fin 4) : State :=
  let s1 := mapLinks s (linkTouches d) (fun l => { l with up := false, wire := [], window := [], retraining := false })
  resendKept (setPortLink (dropStreams s1 d.val) d.val false)

/-- A die fenced: held in reset, its laths and port link disabled, recorded as fenced by the other dies (R382). -/
def fenceDie (s : State) (d : Fin 4) : State :=
  let s1 := cutCoh (loseMessages (loseCells s d.val) d.val) d.val
  let s2 := putDies s1 { s1.dies with health := s1.dies.health.set d { s1.dies.health[d] with reported := true } }
  let s3 := mapTables s2 (fun x t => if x = d then t else { t with fenced := putBit t.fenced d.val true })
  flushDie (dropLaths s3 d) d.val

/-- Whether an island of a die, 5d to 5d + 4, is cut from power (01 R15; 23 R412). -/
def dieCut (s : State) (d : Fin 4) : Bool :=
  (List.finRange 5).any (fun q => (s.plat.islands[5 * d.val + q.val]'(by omega)).cut)

/-- Whether a message to a die has gone unanswered by either route for 1 ms (R382). -/
def unanswered (s : State) (d : Fin 4) : Bool :=
  s.dies.streams.any (fun e => e.1 % 4 = d.val && e.2.kept.any (fun n => 1000000 ≤ n.2))

/-- dieUnreachable: 1 ms without a flit or without an answer, or an island cut; the die is fenced (R382; 23 R412; log 42
DEDUCED). -/
def execDieUnreachable (d : Fin 4) (s : State) : Res :=
  let h := s.dies.health[d]
  if h.reported || !(1000000 ≤ h.silent || unanswered s d || dieCut s d) then .next s else .next (fenceDie s d)

/-! ## The fence confirmed (R383-R385) -/

/-- Whether a line's home is on a surviving die. -/
def homedElsewhere (s : State) (d : Fin 4) (line : Nat) : Bool := trueHome s line != d.val

/-- A line that a fenced die held dirty lost: poisoned in memory, what survivors hold of it staying good (R384). -/
def loseOwned (s : State) (line : Nat) : State :=
  let s1 := loseLine s line
  if (survivors s).any (fun d => (dirGet s.coh d.val line).lvl != .i) then s1 else dropDirty s1 line

/-- The lines homed elsewhere that a fenced die held dirty lost (R384). -/
def poisonLost (s : State) (d : Fin 4) : State :=
  let lost := (s.coh.homes.filter (fun e =>
    homedElsewhere s d e.1 && isDirty e.2.st && e.2.owner = BitVec.ofFin d)).map (fun e => e.1)
  losePoisoned (lost.foldl loseOwned s)

/-- The probes of homes that wait for a fenced die answered without data, and their transactions completed (R383). -/
def synthesise (s : State) (d : Fin 4) : State :=
  let waiting := s.coh.probes.filter (fun m => m.site = .home && m.target = d.val && homedElsewhere s d m.line)
  let s1 := putCoh s { s.coh with
    probes := s.coh.probes.filter (fun m => !(m.site = .home && m.target = d.val && homedElsewhere s d m.line)) }
  waiting.foldl (fun s m => takeAnswer s .home m.line 0) s1

/-- A fenced die out of every presence set of homes elsewhere (R383). -/
def dropPresence (s : State) (d : Fin 4) : State :=
  putCoh s { s.coh with homes := tabMap (fun line h =>
    if homedElsewhere s d line && h.present.getLsbD d.val then withoutDie d.val h else h) s.coh.homes }

/-- Whether a transaction goes with a fenced die: one of its homes, or an atomic of it whose line a home has locked already. -/
def goesWith (s : State) (d : Fin 4) (t : Txn) : Bool :=
  t.req.site = .home && (!homedElsewhere s d t.req.line || (t.req.from_ = d.val && t.left = 0))

/-- Requests of others at the homes of a fenced die held again; what waited there for the die itself is gone. -/
def reholdRequests (s : State) (d : Fin 4) : State :=
  let mine (line : Nat) : Bool := !homedElsewhere s d line
  let again := ((s.coh.txns.filter (fun t => t.req.site = .home && mine t.req.line && t.req.from_ != d.val && t.req.kind != .evict)).map
    (fun t => t.req)) ++ (s.coh.conflicts ++ s.coh.wayWait).filter (fun r => r.site = .home && mine r.line && r.kind != .put)
  putCoh s { s.coh with
    txns := s.coh.txns.filter (fun t => !goesWith s d t)
    conflicts := s.coh.conflicts.filter (fun r => !(r.site = .home && mine r.line))
    wayWait := s.coh.wayWait.filter (fun r => !mine r.line)
    probes := s.coh.probes.filter (fun m => !(m.site = .home && mine m.line))
    answers := s.coh.answers.filter (fun m => !(m.site = .home && mine m.line))
    held := s.coh.held ++ again }

/-- A hand-over that meets a fence of a die of its pair (R376). -/
def fenceHandover (s : State) (d : Fin 4) (k : Fin 12) : State :=
  match findHandover s k with
  | none => s
  | some (i, h) =>
    if h.forced || 4 ≤ h.stage then s
    else if h.new = d then endHandover s i h h.old 4
    else if h.old = d then answerShand (putHandover s i (forcedHandover k d)) d h.waiter 4
    else s

/-- The forced hand-overs of the stacks that a fenced die owns (R385). -/
def forceStacks (s : State) (d : Fin 4) : State :=
  let ks := (List.finRange 12).filter (fun k =>
    s.plat.stackBits.getLsbD k.val && s.dies.active[k] = d && (findHandover s k).isNone)
  putDies s { s.dies with handovers := s.dies.handovers ++ ks.map (fun k => forcedHandover k d) }

/-- Requests held for lines whose owner has now an answer sent on (R381). -/
def releaseHeld (s : State) (d : Fin 4) : State := replayHeld s (fun r => homedElsewhere s d r.line)

/-- The fence of a die confirmed: every survivor has acknowledged it (R383-R385). Waiting transactions complete under the presence sets as
they stand, from which the die goes then. -/
def confirmFence (s : State) (d : Fin 4) : State :=
  let s1 := putDies s { s.dies with health := s.dies.health.set d { s.dies.health[d] with confirmed := true } }
  let s2 := drain (reholdRequests (dropPresence (synthesise (poisonLost s1 d) d) d) d)
  let s3 := (List.finRange 12).foldl (fun s k => fenceHandover s d k) s2
  releaseHeld (forceStacks s3 d) d

/-! ## Rejoining (R387) -/

/-- A second-tier line homed on a die that rejoins: its directory entry goes, copies elsewhere first; what the die itself held dirty
is lost (log 23 DEDUCED). -/
def rehomeTier (s : State) (d : Fin 4) (line : Nat) : State :=
  let h := homeGet s.coh line
  let s1 := if isDirty h.st && h.owner = BitVec.ofFin d then dropDirty (loseLine s line) line else s
  let s2 := (survivors s).foldl (fun s x => giveUp s x.val line) s1
  putCoh s2 (freeHome s2.coh line)

/-- The second-tier lines homed on a die that anyone holds. -/
def tierLines (s : State) (d : Fin 4) : List Nat :=
  (s.coh.homes.filter (fun e => (stackOfLine e.1).isNone && e.1 / 32 % 4 = d.val && e.2.st != .i)).map (fun e => e.1)

/-- The owner table that a die takes when it rejoins: that of a survivor, with its own fenced bit clear. -/
def rejoinTable (s : State) (d : Fin 4) : DieTable :=
  match (List.finRange 4).find? (fun x => x != d && !isFenced s x) with
  | some x => { s.dies.tables[x] with fenced := putBit s.dies.tables[x].fenced d.val false }
  | none => s.dies.tables[d]

/-- Whether a die still owns a stack that its pair's other die could take over, so that its forced hand-over must end first (R385,
R387). -/
def stillOwns (s : State) (d : Fin 4) : Bool :=
  (List.finRange 12).any (fun k =>
    s.plat.stackBits.getLsbD k.val && ((tableOf s d.val).owner[k] = d || s.dies.active[k] = d || (findHandover s k).isSome) &&
      (d = (pairOf k).1 || d = (pairOf k).2) && !isFenced s (otherOf k d))

/-- The lines homed on a rejoining die of the second tier forgotten, its caches, TLBs and directories empty. -/
def cleanDie (s : State) (d : Fin 4) : State := flushDie ((tierLines s d).foldl (fun s l => rehomeTier s d l) s) d.val

/-- Whether the port link of a die has no power: its port island, 20 or 22, is cut (01 R15; 23 R412). -/
def portCut (s : State) (d : Nat) : Bool := s.plat.islands[20 + 2 * (d % 2)].cut

/-- Whether a surviving die pins a line that is to be given up when a die rejoins (10 R222). -/
def tierPinned (s : State) (d : Fin 4) : Bool :=
  (tierLines s d).any (fun l => (survivors s).any (fun x => isPinned s.coh x.val l))

/-- dieRejoin: caches flushed, a new incarnation, laths and port link retrained, the fenced bit cleared, once the die owns no stack
that can pass on and no pin holds a line that goes (R387; 10 R222; log 23 DEDUCED). -/
def execDieRejoin (d : Fin 4) (s : State) : Res :=
  if !s.dies.health[d].confirmed || dieCut s d || stillOwns s d || tierPinned s d then .next s
  else
    let s1 := cleanDie s d
    let own := rejoinTable s1 d
    let s2 := mapTables s1 (fun x t =>
      let y := if x = d then own else { t with fenced := putBit t.fenced d.val false }
      { y with incs := y.incs.set d (y.incs[d] + 1) })
    let s3 := dropStreams (putDies s2 { s2.dies with health := s2.dies.health.set d ⟨0, false, false⟩ }) d.val
    let s4 := mapLinks (setPortLink s3 d.val (!portCut s3 d.val))
      (fun l => linkTouches d l && !isFenced s3 (linkFrom l) && !isFenced s3 (linkTo l)) (fun _ => Link.reset)
    .next (replayHeld s4 (fun _ => true))

end Sys2Proof.Machine
end

