-- ==== Sys2Proof/Machine/Launch.lean ====
section
/-! DEFINITION. The host side: RDMA, the launch window, parts of launches from their checks to their completion
(22 R389-R400; 07 R184, R185; 23 R411). -/

namespace Sys2Proof.Machine

/-! ## RDMA (R390) and the window (R391, R392) -/

/-- A window slot. -/
def winSlot (s : State) (n : Nat) : WinSlot := tabGet WinSlot.fresh s.host.slots n

/-- A window slot put. -/
def putWin (s : State) (n : Nat) (x : WinSlot) : State := putHost s { s.host with slots := tabSet s.host.slots n x }

/-- Bytes written to the launch window. -/
def windowWrite (m : List Host.Cell) (a : Nat) : List Byte → List Host.Cell
  | [] => m
  | b :: bs => windowWrite (memSet m a b) (a + 1) bs

/-- The record in a window slot. -/
def windowRecord (m : List Host.Cell) (n : Nat) : LaunchRec :=
  Vector.ofFn (fun i : Fin 16 =>
    BitVec.ofNat 64 (natOf ((List.range 8).map (fun j => memGet m (128 * n + 8 * i.val + j)))))

/-- The line monitor looks at a slot whose byte 127 has been written (R392). -/
def acceptSeal (s : State) (n : Nat) : State :=
  let x := winSlot s n
  let r := windowRecord s.host.window n
  if x.st = .free && x.lastSeq != some (LaunchRec.seq r) then
    let s1 := putWin s n { x with st := .parsed, lastSeq := some (LaunchRec.seq r), record := r, order := s.host.seals }
    putHost s1 { s1.host with seals := s.host.seals + 1 }
  else s

/-- The slots whose byte 127 lies in a write. -/
def sealedSlots (addr n : Nat) : List Nat :=
  (List.range 512).filter (fun i => addr ≤ 128 * i + 127 && 128 * i + 127 < addr + n)

/-- Whether an RDMA access lies in a region open under a key (R390); one that lies across two adjoining regions lies in neither (log 76
DESIGN CHOICE). -/
def regionOpen (s : State) (key addr n : Nat) : Bool :=
  s.host.regions.any (fun r => r.1 = key && r.2.1 ≤ addr && addr + n ≤ r.2.1 + r.2.2) &&
    memExists s addr && memExists s (addr + n - 1)

/-- The lines of a physical range. -/
def physLines (addr n : Nat) : List Nat := if n = 0 then [] else
  (List.range ((addr + n - 1) / 128 + 1 - addr / 128)).map (fun i => addr / 128 + i)

/-- Whether a read of an agent outside the package waits at the home of a line (R232, R390; 10 R221; 20 R367). -/
def homeBusy (s : State) (line : Nat) : Bool :=
  s.coh.txns.any (fun t => t.req.line = line) || lineHeld s (trueHome s line) line

/-- The lines of a write of an agent outside the package cleared from every cache by their homes in turn; or the state in which
this waits (R232, R390; 10 R222, R228). -/
def hostClears (s : State) : List Nat → Except State State
  | [] => .ok s
  | l :: ls =>
    match homeClear s (trueHome s l) l with
    | .error w => .error w
    | .ok t => hostClears t ls

/-- Bytes written at their homes by an agent outside the package; whole lines lose their poison. -/
def deviceWrite (s : State) (addr : Nat) (data : List Byte) : State :=
  let ls := memLocs addr data.length
  memWrite (damagePools (healLocs s ls) ls) addr data

/-- rdmaWrite: into the window under key 0, or into an open region; refused elsewhere (R390-R392). Without a way in nothing arrives (01
R13). -/
def execRdmaWrite (key addr : Nat) (data : List Byte) (s : State) : Res :=
  let n := data.length
  if !hostReach s then .next s
  else if key = 0 then
    if s.host.open_ && addr + n ≤ 65536 then
      let s1 := putHost s { s.host with window := windowWrite s.host.window addr data }
      .next (sendOut ((sealedSlots addr n).foldl acceptSeal s1) (.ack key addr n))
    else .next (sendOut s (.rdmaRefused key addr))
  else if !regionOpen s key addr n then .next (sendOut s (.rdmaRefused key addr))
  else
    match hostClears s (physLines addr n) with
    | .error w => .next w
    | .ok t => .next (sendOut (deviceWrite t addr data) (.ack key addr n))

/-- The byte that a host read returns; one that memory has lost and no die holds is open (R390; 20 R384; log 20 DESIGN CHOICE). -/
def hostByte (s : State) (pa : Nat) : Byte :=
  if (List.range 4).all (fun d => readsBad s d (pa / 32)) then Config.freeByte (s.turnNo * 2 ^ 46 + pa) else softByte s pa

/-- rdmaRead (R390). -/
def execRdmaRead (key addr n : Nat) (s : State) : Res :=
  if !hostReach s then .next s
  else if key = 0 then
    if s.host.open_ && addr + n ≤ 65536 then
      .next (sendOut s (.data key addr ((List.range n).map (fun i => memGet s.host.window (addr + i)))))
    else .next (sendOut s (.rdmaRefused key addr))
  else if !regionOpen s key addr n then .next (sendOut s (.rdmaRefused key addr))
  else if (physLines addr n).any (homeBusy s) then .next s
  else .next (sendOut s (.data key addr ((List.range n).map (fun i => hostByte s (addr + i)))))

/-! ## Completion records (R399) -/

/-- A count of 32 bits, saturating. -/
def sat32 (n : Nat) : Nat := min n (2 ^ 32 - 1)

/-- A completion record (R399). -/
def completionWords (status : BitVec 8) (pkg : Nat) (slot : Fin 512) (seq : BitVec 32) (end_ : Word)
    (cells aborts kills undeliv : Nat) : Vector Word 4 :=
  #v[BitVec.ofNat 64 (seq.toNat * 2 ^ 32 + slot.val * 2 ^ 23 + pkg * 2 ^ 8 + status.toNat), end_,
    BitVec.ofNat 64 (sat32 aborts * 2 ^ 32 + sat32 kills), BitVec.ofNat 64 (sat32 undeliv * 2 ^ 32 + sat32 cells)]

/-- The endpoint that a record names: its host's fabric address and RDMA key (R389). -/
def endpointOf (s : State) (r : LaunchRec) : Option (Word × Word) := tabFind s.host.endpoints (LaunchRec.cep r)

/-- A completion record of package j of a launch written by RDMA to its endpoint (R399; log 44 DEDUCED). -/
def writeCompletion (s : State) (r : LaunchRec) (j : Nat) (w : Vector Word 4) : State :=
  match endpointOf s r with
  | some (fabric, key) => sendOut s (.completion fabric key (r[14] + BitVec.ofNat 64 (32 * j)) w)
  | none => s

/-- Whether this package still has a part from its own window slot. -/
def ownPart (s : State) (n : Nat) : Bool :=
  s.host.parts.any (fun p => p.accepting = myPkg s && p.slot.val = n)

/-- A window slot FREE once every record it owes is written and every notice is in (R399). -/
def freeWin (s : State) (n : Nat) : State :=
  let x := winSlot s n
  if x.st != .free && x.st != .parsed && !ownPart s n && x.notices.isEmpty then putWin s n { x with st := .free } else s

/-! ## Parsing (R394) -/

/-- Whether a reserved bit of a record is set (R393). -/
def recordReserved (r : LaunchRec) : Bool :=
  bitsOf r[0] 63 45 != 0 || bitsOf r[0] 5 0 != 0 || bitsOf r[1] 63 55 != 0 || bitsOf r[1] 15 0 != 0 ||
    bitsOf r[3] 63 55 != 0 || bitsOf r[3] 31 22 != 0 || bitsOf r[4] 43 39 != 0 || bitsOf r[4] 35 34 != 0 ||
    bitsOf r[5] 63 55 != 0 || bitsOf r[5] 3 0 != 0 || bitsOf r[6] 47 32 != 0 || bitsOf r[15] 31 0 != 0

/-- Whether a record is rejected as a whole (R394). -/
def recordBad (s : State) (r : LaunchRec) : Bool :=
  recordReserved r || LaunchRec.count r = 0 || 4194304 < LaunchRec.first r + LaunchRec.count r ||
    5 ≤ bitsOf r[4] 38 36 || bitsOf r[4] 33 32 = 3 || carveBad (LaunchRec.carve r) ||
    LaunchRec.lim r ≤ LaunchRec.entry r || (endpointOf s r).isNone

/-- Whether a CTXID stands for another descriptor (18 R357). -/
def ctxidTaken (s : State) (ctxid : BitVec 16) (addr : Nat) : Bool :=
  s.host.registry.any (fun e => e.1 = ctxid && e.2 != addr) && ctxAnywhere s ctxid

/-- The descriptor of a part: none when it is the cause of a rejection (R394). -/
def partDescriptor (s : State) (r : LaunchRec) : Option (BitVec 512) :=
  match readDescriptor s (LaunchRec.ctx r) with
  | none => none
  | some w => if ctxidTaken s (BitVec.ofNat 16 (bitsOf w 175 160)) (LaunchRec.ctx r) then none else some w

/-- The virtual address of the image's handler list (03 R69). -/
def listAddr (r : LaunchRec) : Nat := ((LaunchRec.code r).toNat + 12 * LaunchRec.lim r + 255) / 256 * 256

/-- The handler list, 32 entries; none when it cannot be read (03 R69). -/
def readList (s : State) (w : BitVec 512) (r : LaunchRec) : Option (Vector Word 32) :=
  let a := listAddr r
  let d := descriptorOf (LaunchRec.ctx r) w
  if 2 ^ 55 ≤ a then none
  else
    match walk s d.ctxid d.root a with
    | .error _ => none
    | .ok e =>
      let pa := tlbPa e a
      if !e.r || rangeBad s pa 256 then none
      else some (Vector.ofFn (fun i : Fin 32 => BitVec.ofNat 64 (physNat s (pa + 8 * i.val) 8)))

/-- What rejects a part: its STATUS, or none (R394, R399). A flat number that names no cell comes before a bad descriptor, at which the
check then does not look (log 77 DESIGN CHOICE). -/
def partStatus (s : State) (r : LaunchRec) : Option (BitVec 8) :=
  if (LaunchRec.cells r (myPkg s)).any (fun c => cellCount s ≤ c) then some 1
  else
    match partDescriptor s r with
    | none => some 2
    | some w => if (readList s w r).isNone then some 1 else none

/-- This package's part of a launch, latched or rejected, with its place in the order of acceptance (R394, R395). END of a rejected part
is the time of the check (R399; log 78 DESIGN CHOICE). -/
def addPart (s : State) (accepting : Nat) (slot : Fin 512) (r : LaunchRec) (order : Nat) : State :=
  let stage : PartStage := match partStatus s r with
    | some st => .rejected st s.stime
    | none => .latched
  putParts s (s.host.parts ++ [⟨accepting, slot, r, order, none, stage, [], 0, (0, 0, 0), (0, 0, 0)⟩])

/-- The lines that the check of a part reads: its descriptor, and the walk to its handler list and the list (R394; 18 R357). -/
def partLines (s : State) (r : LaunchRec) : List Nat :=
  LaunchRec.ctx r / 128 :: (match readDescriptor s (LaunchRec.ctx r) with
    | none => []
    | some w =>
      let d := descriptorOf (LaunchRec.ctx r) w
      let die := dieOf (physOf s 0)
      (walkPlaces s die d.ctxid d.root (listAddr r)).map (fun a => a / 128) ++
        (match walk s d.ctxid d.root (listAddr r) with
          | .ok e => [tlbPa e (listAddr r) / 128, tlbPa e (listAddr r) / 128 + 1]
          | .error _ => []))

/-- Whether the dispatchers' reads for a part are held: a line of them lies in a frozen stack, or its home is out of reach (20 R367,
R377). -/
def partHeld (s : State) (r : LaunchRec) : Bool :=
  let d := dieOf (physOf s (LaunchRec.lo r (myPkg s) % 1024))
  (partLines s r).any (fun l => lineHeld s d l || !homeReachable s d l)

/-- The other packages that have a part of a launch. -/
def otherPkgs (s : State) (r : LaunchRec) : List Nat :=
  ((List.range ((r.first + r.count - 1) / 1024 + 1 - r.firstPkg)).map (fun i => r.firstPkg + i)).filter
    (fun p => p != myPkg s)

/-- A record that passed the first checks sent to the other packages; unreachable ones get their completion record at
once, its END the time of the check (R394; log 78 DESIGN CHOICE). -/
def forwardRecord (s : State) (slot : Fin 512) (r : LaunchRec) : State :=
  (otherPkgs s r).foldl (fun s p =>
    match peerOf s p with
    | some fabric =>
      let x := winSlot s slot.val
      putWin (sendOut s (.launch fabric p slot r)) slot.val { x with notices := x.notices ++ [p] }
    | none => writeCompletion s r (p - r.firstPkg) (completionWords 1 (myPkg s) slot r.seq s.stime 0 0 0 0)) s

/-- Whether the parse of a record has nothing to send out of the package, or a port to send it by (01 R13). -/
def mayParse (s : State) (r : LaunchRec) : Bool := hostReach s || (!recordBad s r && (otherPkgs s r).isEmpty)

/-- launchParse: the record of a PARSED slot checked, forwarded, and this package's part taken up (R394, R399). END of a rejected record
is the time of the check (log 78 DESIGN CHOICE); a launch without a part here, whose wakes this package does not flood, is in RUN from its
parse on (R391; log 79 DESIGN CHOICE). -/
def execLaunchParse (slot : Fin 512) (s : State) : Res :=
  let x := winSlot s slot.val
  let r := x.record
  if x.st != .parsed || !(List.finRange 4).any (dispatcherUp s) || !mayParse s r then .next s
  else if recordBad s r then
    let s1 := putWin s slot.val { x with st := .free }
    .next (writeCompletion s1 r 0 (completionWords 1 (myPkg s) slot (LaunchRec.seq r) s.stime 0 0 0 0))
  else if LaunchRec.hasPart r (myPkg s) && partHeld s r then .next s
  else
    let s1 := forwardRecord (putWin s slot.val { x with st := .held, notices := [] }) slot r
    .next (if LaunchRec.hasPart r (myPkg s) then addPart s1 (myPkg s) slot r x.order else freeWin (putWin s1 slot.val { winSlot s1 slot.val with st := .run }) slot.val)

/-- launchForward: a record that another package accepted arrives, in order behind the seals accepted here (R394; log 49
DEDUCED). -/
def execLaunchForward (pkg : Nat) (slot : Fin 512) (r : Vector Word 16) (s : State) : Res :=
  if !s.plat.brought || !hostReach s || pkg = myPkg s || !LaunchRec.hasPart r (myPkg s) || partHeld s r then .next s
  else
    let s1 := addPart s pkg slot r s.host.seals
    .next (putHost s1 { s1.host with seals := s.host.seals + 1 })

/-! ## Admission (R395; 23 R411) -/

/-- The power of an island: the rise of its counter over the last 1 ms (23 R410). -/
def powerOf (s : State) (i : Fin 24) : Nat :=
  let x := s.plat.islands[i]
  let old := match x.readings.find? (fun r => r.1 + 1000000 ≤ s.stime.toNat) with
    | some r => r.2
    | none => match x.readings.getLast? with
      | some r => r.2
      | none => 0
  x.uj.toNat - old

/-- Whether an island lets a part be admitted (23 R410, R411). -/
def islandAdmits (s : State) (i : Fin 24) : Bool :=
  let mw := s.plat.islands[i].mw.toNat
  mw != 0 && 10 * powerOf s i ≤ 9 * mw

/-- The energy admission of a part (23 R411). -/
def energyAdmits (s : State) (cells : List Nat) : Bool :=
  cells.all (fun c => islandAdmits s (islandOf s c) && islandAdmits s (uncoreOf s c)) &&
    [20, 21, 22, 23].all (islandAdmits s)

/-- Whether a cell of a part can be admitted: free or holding the context, on a die whose dispatcher serves it. -/
def cellAdmits (s : State) (ctxid : BitVec 16) (c : Nat) : Bool :=
  let d : Fin 4 := Fin.ofNat 4 (dieOf (physOf s c))
  (!(cellAt s c).live || (ccAt s c).desc.ctxid = ctxid) && !dieGone s d.val && dispatcherUp s d

/-- An entry of the handler list as a cell keeps it (07 R171). -/
def listEntry (e : Word) : Word := keepBits e 63 32 ||| keepBits e 3 0

/-- The entry of channel 30 for a launch (07 R184). -/
def rootEntry (r : LaunchRec) : Word := BitVec.ofNat 64 (LaunchRec.entry r * 2 ^ 32 + 8 + 3)

/-- A context as created on a cell (R395; 18 R357). -/
def freshContext (w : BitVec 512) (r : LaunchRec) (l : Vector Word 32) (narrow : Bool) : CtxCell :=
  { CtxCell.blank with
    desc := descriptorOf (LaunchRec.ctx r) w
    scbase := LaunchRec.code r
    sclim := BitVec.ofNat 64 (LaunchRec.lim r)
    scarve := LaunchRec.carve r
    tvec := BitVec.ofNat 64 (bitsOf w 511 448)
    sdctl := BitVec.ofNat 64 (bitsOf w 447 384)
    chans := Vector.ofFn (fun i => ⟨listEntry l[i], [], 0, 0⟩)
    mxu := { Mxu.fresh with narrow := narrow } }

/-- What a launch sets on every cell of its part: WIDEST with its narrowing, BUDGET, sstk, channel 30's entry (R395; 07 R184; 08
R202). -/
def launchSets (x : CtxCell) (r : LaunchRec) (share : Nat) : CtxCell :=
  { x.setWidest (BitVec.ofNat 2 (bitsOf r[4] 33 32)) with
    budget := BitVec.ofNat 32 (bitsOf r[4] 31 0)
    sstk := Vector.ofFn (fun k : Fin 4 =>
      keepBits (keepBits r[5] 54 4 + BitVec.ofNat 64 (bitsOf r[6] 31 0 * (4 * share + k.val + 1))) 54 4)
    chans := x.chans.set 30 { x.chans[30] with entry := rootEntry r } }

/-- The image of a context that a cell may restore: saved on it (R395). -/
def ownImage (s : State) (c : Nat) (ctxid : BitVec 16) : Option Image := s.images.find? (isImageOf s c ctxid)

/-- A context admitted on one cell: restored, created, or kept (R395). -/
def admitCell (w : BitVec 512) (r : LaunchRec) (l : Vector Word 32) (s : State) (c : Nat) : State :=
  let ctxid : BitVec 16 := BitVec.ofNat 16 (bitsOf w 175 160)
  let s1 :=
    if (cellAt s c).live then s
    else
      match ownImage s c ctxid with
      | some im => restoreImage s c im
      | none =>
        settleShares (putCell s c { cellAt s c with live := true, cc := freshContext w r l (cellAlarm s c), closed := false }) c
          (ccAt s c)
  putCc s1 c (launchSets (ccAt s1 c) r (flatOf s c - LaunchRec.first r))

/-- ABORTED, KILL and undeliverable frames counted so far by a context on some cells (log 43 DEDUCED). -/
def countsOf (s : State) (ctxid : BitVec 16) (cells : List Nat) : Nat × Nat × Nat :=
  cells.foldl (fun n c =>
    match ctxFind s c ctxid with
    | some x => (n.1 + x.aborts, n.2.1 + x.kills, n.2.2 + x.undeliv)
    | none => n) (0, 0, 0)

/-- A part admitted on all its cells. -/
def admitPart (s : State) (i : Nat) (p : Part) (w : BitVec 512) (l : Vector Word 32) : State :=
  let cells := partCells s p
  let ctxid : BitVec 16 := BitVec.ofNat 16 (bitsOf w 175 160)
  let s1 := register s ctxid (LaunchRec.ctx p.record)
  let s2 := cells.foldl (admitCell w p.record l) s1
  putPart s2 i { p with stage := .admitted, ctxid := some ctxid, base := countsOf s2 ctxid cells }

/-- Whether a latched part is the first in order of acceptance, no seal before it still to be parsed (R395). -/
def isFirst (s : State) (p : Part) : Bool :=
  s.host.parts.all (fun q => q.stage != .latched || p.order ≤ q.order) &&
    s.host.slots.all (fun e => e.2.st != .parsed || p.order ≤ e.2.order)

/-- Whether the restores of an admission wait: an image that a cell restores lies in a frozen stack, or the page of a ring is being
walked (20 R367, R373). -/
def restoresHeld (s : State) (ctxid : BitVec 16) (cells : List Nat) : Bool :=
  cells.any (fun c => !(cellAt s c).live && (match ownImage s c ctxid with
    | some im => (match tryRestore s c im with
      | .ok _ => false
      | .error _ => true)
    | none => false))

/-- The ring pages of a part's restores walked in turn, so that none of them waits any longer. -/
def walkRings (s : State) (ctxid : BitVec 16) (cells : List Nat) : State :=
  cells.foldl (fun s c =>
    match ownImage s c ctxid with
    | some im => (match walkRing s c im with
      | .ok t => t
      | .error w => w)
    | none => s) s

/-- Whether nothing but the walks of its restores holds back a latched part that is first: cells, energy, and memory to read (R395;
20 R367; 23 R411). -/
def mayAdmit (s : State) (p : Part) (ctxid : BitVec 16) : Bool :=
  (partCells s p).all (cellAdmits s ctxid) && energyAdmits s (partCells s p) && !partHeld s p.record

/-- A latched part admitted when its cells and its islands allow it; until then, and while its descriptor or list cannot be read, it
stays latched (R395; 23 R411; log 49 DEDUCED). -/
def tryAdmit (s : State) (i : Nat) : State :=
  match s.host.parts[i]? with
  | none => s
  | some p =>
    if p.stage != .latched || !isFirst s p then s
    else
      match partDescriptor s p.record with
      | none => s
      | some w =>
        let ctxid : BitVec 16 := BitVec.ofNat 16 (bitsOf w 175 160)
        if !mayAdmit s p ctxid then s
        else if restoresHeld s ctxid (partCells s p) then walkRings s ctxid (partCells s p)
        else
          match readList s w p.record with
          | none => s
          | some l => admitPart s i p w l

/-- admission (R395). -/
def execAdmission (i : Nat) (s : State) : Res := .next (tryAdmit s i)

/-- admissionRecheck: the check of a latched part made again every 100 µs (23 R411). -/
def execAdmissionRecheck (i : Nat) (s : State) : Res :=
  match s.host.parts[i]? with
  | some p => if p.stage = .latched then .next (tryAdmit s i) else .next s
  | none => .next s

/-! ## Wakes and launch roots (07 R184, R185; R396) -/

/-- The frame of a launch root (07 R185). -/
def rootFrame (r : LaunchRec) (slot share : Nat) : Frame :=
  let h := LaunchRec.entry r * 2 ^ 32 + 3 * 2 ^ 28 + 3 * 2 ^ 26 + bitsOf r[4] 38 36 * 2 ^ 22 + slot
  #v[BitVec.ofNat 64 h, r[7], r[8], r[9], r[10], r[11], r[12], BitVec.ofNat 64 (LaunchRec.count r * 2 ^ 32 + share)]

/-- The flood of a part over once every cell has been reached; its slot is in RUN (R391). -/
def floodDone (s : State) (i : Nat) (p : Part) : State :=
  if (partCells s p).all (fun c => p.waked.contains c) then
    let s1 := putPart s i { p with stage := .running }
    if p.accepting = myPkg s then putWin s1 p.slot.val { winSlot s1 p.slot.val with st := .run } else s1
  else putPart s i p

/-- The wake of a part kept by a cell, in channel 30; in a valid and unmasked one of a resident context it is new local work (07 R170,
R184). -/
def keepWake (here : Bool) (x : CtxCell) (w : Wake) : CtxCell :=
  let y := { x with wakes := x.wakes ++ [w] }
  if here && entryValid x.chans[30].entry && !entryMasked x.chans[30].entry then localWork y else y

/-- Whether the flood of a wake reaches a cell: its dispatcher has checked in, or its die is lost (23 R403, R407). -/
def floodReaches (s : State) (c : Nat) : Bool :=
  let d := dieOf (physOf s c)
  dispatcherUp s (Fin.ofNat 4 d) || dieGone s d

/-- wakeArrival: the wake of a part reaches a cell, which keeps or discards it (07 R184; R396); one without room waits. -/
def execWakeArrival (c : Nat) (i : Nat) (s : State) : Res :=
  match s.host.parts[i]? with
  | none => .next s
  | some p =>
    if p.stage != .admitted || p.waked.contains c || !inPart s p c || !floodReaches s c then .next s
    else
      let reached : Part := { p with waked := p.waked ++ [c] }
      match p.ctxid.bind (fun id => (ctxFind s c id).map (fun x => (id, x))) with
      | none => .next (floodDone s i reached)
      | some (id, x) =>
        if 8 ≤ x.chans[30].queue.length + x.wakes.length then .next s
        else
          let f := rootFrame p.record p.slot.val (flatOf s c - LaunchRec.first p.record)
          .next (floodDone (ctxPut s c id (keepWake (isResident s c id) x ⟨p.record[13], f⟩)) i reached)

/-- launchRootStart: the time base has reached a kept wake's start, and it becomes runnable; it was new work when it came (07 R170,
R185). -/
def execLaunchRootStart (c : Nat) (s : State) : Res :=
  let x := ccAt s c
  match x.wakes.findIdx? (fun w => w.start.toNat ≤ s.stime.toNat) with
  | none => .next s
  | some i =>
    match x.wakes[i]? with
    | some w =>
      if (cellAt s c).live then .next (putCc s c (chanQueue { x with wakes := listDrop x.wakes i } 30 w.frame))
      else .next s
    | none => .next s

/-! ## Completion (R398-R400) -/

/-- Whether the frames of a context on a cell are all gone, and its engines idle. -/
def CtxCell.quiet (x : CtxCell) : Bool :=
  dequeLen x = 0 && x.wakes.isEmpty && (List.finRange 31).all (fun ch => x.chans[ch.castSucc].queue.isEmpty) &&
    (List.finRange 2).all (fun ch => x.cch[ch].queue.isEmpty) && x.mxu.queue.isEmpty

/-- Whether a context is quiet on a cell of a part: no activation, frame, claim, transfer, command or query (R398). -/
def cellQuiet (s : State) (ctxid : BitVec 16) (c : Nat) : Bool :=
  let x := cellAt s c
  (!isResident s c ctxid ||
    ((busySlots s c).isEmpty && x.installs.isEmpty && claimedFrames x.steal = 0 && x.cc.quiet && inFlight s c = 0)) &&
  s.images.all (fun im => !isImageOf s c ctxid im || im.cc.quiet)

/-- Whether no outbound port holds a frame of a context (R398). -/
def portsQuiet (s : State) (ctxid : BitVec 16) : Bool :=
  s.cells.all (fun e => e.2.port.all (fun m => m.ctxid != ctxid))

/-- Whether no cell has claimed a frame of a context without installing it (R398). -/
def claimsQuiet (s : State) (ctxid : BitVec 16) : Bool :=
  s.cells.all (fun e => !(e.2.live && e.2.cc.desc.ctxid = ctxid) || (match e.2.steal with
    | .claimed _ _ _ => false
    | _ => e.2.installs.isEmpty))

/-- Whether a part shares a context and has not completed. -/
def sharesContext (id : BitVec 16) (p : Part) : Bool := isOpen p && p.ctxid = some id

/-- Whether the open parts of a context are quiescent: every wake has been flooded, and nothing of the context is left on their cells
or on its way (R398). -/
def partsQuiet (s : State) (id : BitVec 16) : Bool :=
  s.host.parts.all (fun p => !sharesContext id p || (p.stage = .running && (partCells s p).all (cellQuiet s id))) &&
    portsQuiet s id && claimsQuiet s id

/-- What ABORTS, KILLS and UNDELIV have counted for a part so far, without losses (R399). -/
def partCounts (s : State) (id : BitVec 16) (p : Part) : Nat × Nat × Nat :=
  let n := addCounts (countsOf s id (partCells s p)) p.carried
  (n.1 - p.base.1, n.2.1 - p.base.2.1, n.2.2 - p.base.2.2)

/-- completionDetect: part i is quiescent at this moment, and with it every part that shares its context (R398). -/
def execCompletionDetect (i : Nat) (s : State) : Res :=
  match s.host.parts[i]? with
  | none => .next s
  | some p =>
    match p.stage, p.ctxid with
    | .running, some id =>
      if partsQuiet s id then
        .next (putParts s (s.host.parts.map (fun q =>
          if sharesContext id q then { q with stage := .complete s.stime (partCounts s id q) } else q)))
      else .next s
    | _, _ => .next s

/-- A part gone: its notice sent, or its window slot freed when nothing else is owed (R399). -/
def partDone (s : State) (i : Nat) (p : Part) : State :=
  let s1 := putParts s (listDrop s.host.parts i)
  if p.accepting = myPkg s then freeWin s1 p.slot.val
  else
    match peerOf s p.accepting with
    | some fabric => sendOut s1 (.notice fabric p.accepting p.slot)
    | none => s1

/-- completionWrite: the record of a complete or rejected part written, once a port is reached; every store of its activations and
engines is performed by then (01 R13; R399, R400). -/
def execCompletionWrite (i : Nat) (s : State) : Res :=
  match s.host.parts[i]? with
  | none => .next s
  | some p =>
    if !hostReach s then .next s
    else
    let r := p.record
    let j := myPkg s - LaunchRec.firstPkg r
    match p.stage with
    | .complete e n =>
      let w := completionWords 0 (myPkg s) p.slot (LaunchRec.seq r) e (partCells s p).length n.1 (n.2.1 + p.lost) n.2.2
      .next (partDone (writeCompletion s r j w) i p)
    | .rejected st e =>
      let w := completionWords st (myPkg s) p.slot (LaunchRec.seq r) e 0 0 0 0
      .next (partDone (writeCompletion s r j w) i p)
    | _ => .next s

/-- completionNotice: another package has written its record (R399). -/
def execCompletionNotice (slot : Fin 512) (pkg : Nat) (s : State) : Res :=
  let x := winSlot s slot.val
  if !hostReach s then .next s
  else
  .next (freeWin (putWin s slot.val { x with notices := x.notices.filter (fun p => p != pkg) }) slot.val)

/-- ptpMessage: the time base disciplined by a message that a port has taken; what a slot reads never decreases (R389; 02 R30). -/
def execPtpMessage (ns : Word) (s : State) : Res :=
  .next (if s.plat.ethUp != 0 && s.stime.toNat ≤ ns.toNat then { s with stime := ns } else s)

end Sys2Proof.Machine
end

