-- ==== Sys2Proof/Machine/Firmware.lean ====
section
/-! DEFINITION. Firmware and energy: bring-up, signed images and live update, failover, power alarms and cut-off, patrols,
expander links (22 R402; 23 R403-R416). -/

namespace Sys2Proof.Machine

/-- The platform put. -/
def putPlat (s : State) (p : Platform) : State := { s with plat := p }

/-! ## Energy (R410, R412) -/

/-- An island put. -/
def putIsland (s : State) (i : Fin 24) (x : Island) : State := putPlat s { s.plat with islands := s.plat.islands.set i x }

/-- Readings kept: those of the last 1 ms and one before (R410). -/
def trimReadings (now : Nat) : List (Nat × Nat) → List (Nat × Nat)
  | [] => []
  | r :: l => if r.1 + 1000000 ≤ now then [r] else r :: trimReadings now l

/-- The counter of an island risen, with the reading (R410). -/
def countEnergy (s : State) (i : Fin 24) (microjoules : Nat) : State :=
  let x := s.plat.islands[i]
  let n := min (2 ^ 64 - 1) (x.uj.toNat + microjoules)
  putIsland s i { x with
    uj := BitVec.ofNat 64 n
    readings := trimReadings s.stime.toNat ((s.stime.toNat, n) :: x.readings) }

/-- Whether the power of an island is at most 0.95 of its budget (R412). -/
def powerBelow (s : State) (i : Fin 24) : Bool := 100 * powerOf s i ≤ 95 * s.plat.islands[i].mw.toNat

/-- energyCounterUpdate: the counter of an island rises, which ends a stretch below the clearing threshold when its power passes that;
an island cut from power draws nothing (R410, R412). -/
def execEnergyCounterUpdate (i : Fin 24) (microjoules : Nat) (s : State) : Res :=
  if s.plat.islands[i].cut then .next s
  else
    let t := countEnergy s i microjoules
    .next (if powerBelow t i then t else putIsland t i { t.plat.islands[i] with below := none })

/-- Idle sequencers, which stand at a boundary, follow the alarms of their islands at once (14 R299). -/
def narrowIdle (s : State) : State :=
  (knownCells s).foldl (fun s c =>
    if (cellAt s c).live && (ccAt s c).mxu.queue.isEmpty then setNarrow s c (cellAlarm s c) else s) s

/-- powerAlarm: P above the budget, or a sensor at 105 °C or more (R412). -/
def execPowerAlarm (i : Fin 24) (celsius : Nat) (s : State) : Res :=
  let x := s.plat.islands[i]
  if x.mw.toNat < powerOf s i || 105 ≤ celsius then
    .next (narrowIdle (putIsland s i { x with alarm := true, below := none }))
  else .next s

/-- Whether an island stands below the thresholds that clear an alarm (R412). -/
def alarmBelow (s : State) (i : Fin 24) (celsius : Nat) : Bool :=
  powerBelow s i && celsius < 100

/-- alarmClear: a reading of an island with an alarm; it clears after a full 1 ms below the thresholds (R412). -/
def execAlarmClear (i : Fin 24) (celsius : Nat) (s : State) : Res :=
  let x := s.plat.islands[i]
  let now := s.stime.toNat
  if !x.alarm then .next s
  else if !alarmBelow s i celsius then .next (putIsland s i { x with below := none })
  else
    match x.below with
    | none => .next (putIsland s i { x with below := some now })
    | some t =>
      if t + 1000000 ≤ now then .next (narrowIdle (putIsland s i { x with alarm := false, below := none })) else .next s

/-- The die of an island, if it lies on one (01 R15). -/
def islandDie (i : Fin 24) : Option (Fin 4) := if h : i.val / 5 < 4 then some ⟨i.val / 5, h⟩ else none

/-- A controller put. -/
def putController (s : State) (c : Fin 26) (x : Controller) : State :=
  putPlat s { s.plat with controllers := s.plat.controllers.set c x }

/-- The update of the package put. -/
def putUpdate (s : State) (u : Option Update) : State := putPlat s { s.plat with update := u }

/-- The update after a Coronaip has failed: one of Coronaips stops (R409). -/
def stopCoronaipUpdate (s : State) : State :=
  match s.plat.update with
  | some u => if u.type = .coronaip then putUpdate s none else s
  | none => s

/-- What goes with a port island cut from power: of port die A 20 the Ultra Ethernet ports and port links, 21 the CXL ports and the
Coronaip controller; 22 and 23 of B (01 R15). -/
def cutPort (s : State) (i : Fin 24) : State :=
  let p : Nat := if i.val < 22 then 0 else 1
  let four : BitVec 8 := 0xF#8 <<< (4 * p)
  if i.val = 20 || i.val = 22 then
    putReach s { s.plat with ethUp := s.plat.ethUp &&& ~~~four, portUp := s.plat.portUp &&& ~~~(0x5#4 <<< p) }
  else
    let c : Fin 26 := Fin.ofNat 26 p
    stopCoronaipUpdate
      (putController (putReach s { s.plat with cxlUp := s.plat.cxlUp &&& ~~~four }) c { s.plat.controllers[c] with state := .off })

/-- thermalCutoff: an island at 115 °C is cut from power and its die fenced (R412). -/
def execThermalCutoff (i : Fin 24) (celsius : Nat) (s : State) : Res :=
  let x := s.plat.islands[i]
  if celsius < 115 then .next s
  else
    let s1 := putIsland s i { x with cut := true }
    match islandDie i with
    | some d => .next (if isFenced s1 d then s1 else fenceDie s1 d)
    | none => .next (cutPort s1 i)

/-! ## Images (R405) -/

/-- The number of a TYPE (R405). -/
def typeNumber : CtrlType → BitVec 8
  | .coronaip => 1
  | .dispatcher => 2
  | .baseDie => 3
  | .lath => 4

/-- The place of a TYPE's floor. -/
def typeIndex : CtrlType → Fin 4
  | .coronaip => 0
  | .dispatcher => 1
  | .baseDie => 2
  | .lath => 3

/-- The TYPE of a number, if it is valid (R405). -/
def typeOf (n : BitVec 8) : Option CtrlType :=
  [CtrlType.coronaip, .dispatcher, .baseDie, .lath].find? (fun t => typeNumber t = n)

/-- Whether the active Coronaip accepts an image of a TYPE (R405). -/
def imageOk (revoked : BitVec 4) (floors : Vector (BitVec 32) 4) (img : SignedImage) (t : CtrlType) : Bool :=
  img.key.toNat < 4 && !revoked.getLsbD img.key.toNat && Config.signatureOk img &&
    floors[typeIndex t].toNat ≤ img.version.toNat && img.reserved = 0

/-- What the device keeps of an image. -/
def imageVer (img : SignedImage) : ImageVer := ⟨img.version, img.hover, img.minver⟩

/-! ## Live update (R406-R409) -/

/-- The controllers of a TYPE in the order of an update; of the Coronaips the standby comes first (R403, R406). -/
def updateOrder (active : Fin 2) : CtrlType → List (Fin 26)
  | .coronaip => if active = 0 then [1, 0] else [0, 1]
  | .dispatcher => [2, 3, 4, 5]
  | .baseDie => [6, 7, 8, 9, 10, 11, 12, 13, 14, 15, 16, 17]
  | .lath => [18, 19, 20, 21, 22, 23, 24, 25]

/-- The compute die that a controller stands on: a dispatcher's, or that of a lath's end (R403). -/
def controllerDie (c : Fin 26) : Option (Fin 4) :=
  if 2 ≤ c.val && c.val < 6 then some (Fin.ofNat 4 (c.val - 2))
  else if 18 ≤ c.val then some (linkFrom (Fin.ofNat 8 (c.val - 18)))
  else none

/-- Whether an update skips a controller: it is on a fenced die, or a Coronaip whose island, 21 or 23, is cut from power (01 R15; R409,
R412). -/
def skipController (s : State) (c : Fin 26) : Bool :=
  match controllerDie c with
  | some d => isFenced s d
  | none => if h : c.val < 2 then (s.plat.islands[21 + 2 * c.val]'(by omega)).cut else false

/-- The check of step 1 (R406). -/
def formatsOk (running new : ImageVer) : Bool :=
  new.minver.toNat ≤ running.hover.toNat && running.hover.toNat ≤ new.hover.toNat

/-- The watchdog time of a TYPE in ns (R406). -/
def watchdogNs : CtrlType → Nat
  | .dispatcher => 2000000
  | _ => 200000000

/-- The requests that the dispatcher of a die has not finished, those that stand at its cells first (R407; 07 R182; 18 R363). -/
def dispatchQueue (s : State) (d : Nat) : List DispatchReq :=
  ((knownCells s).filter (cellOnDie s d)).flatMap (fun c =>
    ((cellAt s c).preempt.map (DispatchReq.preempt c)).toList ++
      (cellAt s c).restores.map (fun r => DispatchReq.restore c r.ctxid r.image)) ++
    s.host.requests.filter (fun r => cellOnDie s d r.cell)

/-- Whether a hand-over of a stack waits to switch its port: its stage 5, or step 2 of a forced one (20 R372, R385). -/
def switchPending (h : Handover) : Bool := if h.forced then h.stage = 1 else h.stage = 4

/-- The cells that a dispatcher keeps a steal domain for, with the widest (R407; 07 R170). -/
def domainTable (s : State) (d : Nat) : List (Nat × BitVec 2) :=
  ((knownCells s).filter (cellOnDie s d)).map (fun c => (c, (ccAt s c).widest))

/-- The hand-over record that the running image of a controller writes at its safe point (R406, R407). -/
def recordOf (s : State) (c : Fin 26) : HandRecord :=
  if c.val < 2 then .mirror
  else if c.val < 6 then .dispatcher s.host.slots s.host.parts (domainTable s (c.val - 2)) (dispatchQueue s (c.val - 2))
  else if c.val < 18 then
    let k : Fin 12 := Fin.ofNat 12 (c.val - 6)
    .baseDie s.plat.baseWork[k] (s.dies.handovers.any (fun h => h.stack = k && switchPending h))
  else
    let l : Fin 8 := Fin.ofNat 8 (c.val - 18)
    .lath s.plat.lathWork[l] ([l, linkBack l].map (fun x => (s.dies.links[x].expect, s.dies.links[x].next)))

/-- The work of a controller taken up from its record; what hardware has gone on with meanwhile, and the Coronaip's mirror, stand as
they are (R406-R408). -/
def takeUp (s : State) (c : Fin 26) : State :=
  match s.plat.controllers[c].record with
  | some (.baseDie w _) =>
    let k : Fin 12 := Fin.ofNat 12 (c.val - 6)
    putPlat s { s.plat with baseWork := s.plat.baseWork.set k { w with refresh := s.plat.baseWork[k].refresh } }
  | some (.lath w _) => putPlat s { s.plat with lathWork := s.plat.lathWork.set (Fin.ofNat 8 (c.val - 18)) w }
  | _ => s

/-- Whether a fence is still to be confirmed, which pauses an update; it goes on once every fence is confirmed (R409; log 81 DESIGN
CHOICE). -/
def fencePending (s : State) : Bool := (List.finRange 4).any (fun d => isFenced s d && !s.dies.health[d].confirmed)

/-- The running image of a controller stopped at its safe point with its record written, and the new one started (R406). -/
def startImage (s : State) (c : Fin 26) (t : CtrlType) : State :=
  putController s c { s.plat.controllers[c] with
    record := some (recordOf s c), state := .starting (s.stime.toNat + watchdogNs t) }

/-- An update with no controller left over: its version noted when every controller of the TYPE has it (R405, R409). -/
def endUpdate (s : State) (u : Update) : State :=
  putPlat s { s.plat with
    update := none
    updated := if u.skipped then s.plat.updated else s.plat.updated.set (typeIndex u.type) (some u.image.version) }

/-- The update goes on with the first controller left that is not on a fenced die: its check, then its new image starts; it pauses
while a fence is unconfirmed (R406, R409). -/
def nextController (s : State) (u : Update) : State :=
  if fencePending s then putUpdate s (some { u with next := none })
  else
    let skipped : Bool := u.skipped || (u.left.head?.map (skipController s)).getD false
    match u.left.dropWhile (skipController s) with
    | [] => endUpdate s { u with skipped := skipped }
    | c :: l =>
      if formatsOk s.plat.controllers[c].image u.image then
        putUpdate (startImage s c u.type) (some { u with next := some c, left := l, skipped := skipped })
      else putUpdate s none

/-- An update that a fence made pause goes on. -/
def resumeUpdate (s : State) : State :=
  match s.plat.update with
  | some u => if u.next.isNone then nextController s u else s
  | none => s

/-- fenceConfirm: every survivor has acknowledged the fence of a die; an update that paused goes on (20 R383-R385; R409). -/
def execFenceConfirm (d : Fin 4) (s : State) : Res :=
  let h := s.dies.health[d]
  if !h.reported || h.confirmed then .next s else .next (resumeUpdate (confirmFence s d))

/-- imageUpdate: the host gives an image; refused while another update runs or when a check fails (R405, R406, R409). -/
def execImageUpdate (img : SignedImage) (s : State) : Res :=
  match typeOf img.type with
  | none => .next s
  | some t =>
    if !s.plat.brought || s.plat.update.isSome || !imageOk s.plat.revoked s.plat.floors img t then .next s
    else .next (nextController s ⟨t, imageVer img, none, updateOrder s.plat.activeCoronaip t, 0, false⟩)

/-- A Coronaip that has checked in as updated standby becomes active (R406). -/
def switchCoronaip (s : State) (u : Update) (c : Fin 26) : State :=
  if u.type = .coronaip && u.done = 0 then
    putPlat s { s.plat with activeCoronaip := Fin.ofNat 2 c.val, heartbeat := 0 }
  else s

/-- A new image checked in: it has read the record, and the old image is retained (R406). -/
def checkIn (s : State) (u : Update) (c : Fin 26) : State :=
  let x := s.plat.controllers[c]
  takeUp (putController s c { x with image := u.image, retained := x.image, state := .running }) c

/-- controllerCheckIn: the new image of the controller at hand checks in; requests that waited for a dispatcher are carried out
(R406-R408). -/
def execControllerCheckIn (s : State) : Res :=
  match s.plat.update.bind (fun u => u.next.map (fun c => (u, c))) with
  | none => .next s
  | some (u, c) =>
    match s.plat.controllers[c].state with
    | .starting deadline =>
      if deadline < s.stime.toNat then .next s
      else .next (nextController (serveRequests (switchCoronaip (checkIn s u c) u c)) { u with done := u.done + 1 })
    | _ => .next s

/-- updateWatchdog: the deadline passed, the retained image restarts from the same record and the update stops (R406). -/
def execUpdateWatchdog (s : State) : Res :=
  match s.plat.update.bind (fun u => u.next) with
  | none => .next s
  | some c =>
    let x := s.plat.controllers[c]
    match x.state with
    | .starting deadline =>
      if deadline ≤ s.stime.toNat then
        .next (putUpdate (serveRequests (takeUp (putController s c { x with state := .running }) c)) none)
      else .next s
    | _ => .next s

/-- The controller number of a Coronaip. -/
def coronaipNo (i : Fin 2) : Fin 26 := Fin.ofNat 26 i.val

/-- coronaipFailover: the active Coronaip has missed three heartbeats at 1 ms, the standby becomes active (R404, R409). -/
def execCoronaipFailover (s : State) : Res :=
  let a := s.plat.activeCoronaip
  let b : Fin 2 := a + 1
  let x := s.plat.controllers[coronaipNo a]
  let y := s.plat.controllers[coronaipNo b]
  if y.state = .off || s.plat.heartbeat < 3000000 then .next s
  else
    let s1 := putController (putController s (coronaipNo a) { x with state := .off }) (coronaipNo b) { y with state := .running }
    .next (stopCoronaipUpdate (putPlat s1 { s1.plat with activeCoronaip := b, heartbeat := 0 }))

/-- versionFloorRaise: the host commits an update that every controller of a TYPE has completed (R405). -/
def execVersionFloorRaise (t : CtrlType) (s : State) : Res :=
  let i := typeIndex t
  match s.plat.updated[i] with
  | none => .next s
  | some v =>
    .next (putPlat s { s.plat with
      floors := s.plat.floors.set i (if s.plat.floors[i].toNat ≤ v.toNat then v else s.plat.floors[i])
      updated := s.plat.updated.set i none })

/-! ## Patrols, expanders, bring-up (R415, R416; 22 R402) -/

/-- patrolScrub: single-bit errors of a stack or of the L2 slices corrected, which nothing sees; the scrub position of the stack's
controller moves on (R407, R415). -/
def execPatrolScrub (stack : Option (Fin 12)) (s : State) : Res :=
  match stack with
  | none => .next s
  | some k =>
    let w := s.plat.baseWork[k]
    .next (putPlat s { s.plat with baseWork := s.plat.baseWork.set k { w with scrub := w.scrub + 1 } })

/-- cxlLinkDown: the link of a port goes down (22 R402). -/
def execCxlLinkDown (port : Fin 8) (s : State) : Res :=
  .next (putReach s { s.plat with cxlUp := putBit s.plat.cxlUp port.val false })

/-- The identifiers of absent cells, in rising order. -/
def absentList (l : List Nat) : List Nat := (List.range 1024).filter (fun p => l.contains p)

/-- An image version from its three words. -/
def versionOf (x : BitVec 32 × BitVec 32 × BitVec 32) : ImageVer := ⟨x.1, x.2.1, x.2.2⟩

/-- The controllers after bring-up: a Coronaip whose image fails stays off, the others have loaded theirs and run (R416). The image that
each retains is none yet, its version and formats 0 (R403; log 82 DESIGN CHOICE). -/
def bootControllers (b : BringUp) (okA okB : Bool) : Vector Controller 26 :=
  let boot (v : ImageVer) (ok : Bool) : Controller := ⟨v, ⟨0, 0, 0⟩, if ok then .running else .off, none⟩
  Vector.ofFn (fun c : Fin 26 =>
    if c.val = 0 then boot (imageVer b.imageA) okA
    else if c.val = 1 then boot (imageVer b.imageB) okB
    else boot (versionOf (b.images[Fin.ofNat 24 (c.val - 2)])) true)

/-- Whether a Coronaip's image from the flash passes the checks (R405, R416). -/
def bootOk (b : BringUp) (img : SignedImage) : Bool :=
  img.type = typeNumber .coronaip && imageOk b.revoked b.floors img .coronaip

/-- Whether what bring-up is told can be: budgets within the package's total (R410). -/
def budgetsOk (b : BringUp) : Bool := b.budgets.toList.foldl (fun n x => n + x.toNat) 0 ≤ 3600000

/-- The peer and endpoint tables as they are filled (R389, R416). -/
def tableFrom {α : Type} (n : Nat) (l : List (Nat × α)) : Tab α :=
  (l.filter (fun e => e.1 < n)).foldl (fun t e => tabSet t e.1 e.2) []

/-- The training values of stacks and laths, which the spec leaves open, from a number on (R407; log 20 DESIGN CHOICE). -/
def trainBase (n : Nat) : Vector BaseWork 12 := Vector.ofFn (fun k => ⟨0, 0, Config.freeWord (n + k.val)⟩)

/-- The training values of the ends of the laths. -/
def trainLaths (n : Nat) : Vector LathWork 8 := Vector.ofFn (fun l => ⟨Config.freeWord (n + l.val), 0⟩)

/-- The platform after bring-up (R416). Where both Coronaip images pass, A is the active one, as at reset (R404; log 83 DESIGN CHOICE). -/
def bootPlat (s : State) (b : BringUp) (okA okB : Bool) : Platform :=
  { s.plat with
    absentCells := absentList b.absentCells
    sliceBits := b.sliceBits
    stackBits := b.stackBits
    revoked := b.revoked
    floors := b.floors
    pkg := b.pkg
    islands := Vector.ofFn (fun i => { s.plat.islands[i] with mw := b.budgets[i] })
    controllers := bootControllers b okA okB
    baseWork := trainBase s.freeNo
    lathWork := trainLaths (s.freeNo + 12)
    activeCoronaip := if okA then 0 else 1
    heartbeat := 0
    tierGiB := b.tierGiB.map (fun n => min 384 n)
    cxlUp := 0xFF
    ethUp := 0xFF
    portUp := 0xF
    brought := true }

/-- powerOn: the eight steps of bring-up; without a Coronaip image that passes the device stays in reset (R416; log 47 DEDUCED). -/
def execPowerOn (b : BringUp) (s : State) : Res :=
  let okA := bootOk b b.imageA
  let okB := bootOk b b.imageB
  if s.plat.brought || !(okA || okB) || !budgetsOk b then .next s
  else
    let host : HostSide := { s.host with
      open_ := true
      peers := tableFrom 4096 b.peers
      endpoints := tableFrom 65536 b.endpoints
      regions := b.regions
      slots := [] }
    .next { s with plat := bootPlat s b okA okB, host := host, stime := b.timeBase, freeNo := s.freeNo + 20 }

end Sys2Proof.Machine
end

