-- ==== Sys2Proof/Machine/MemSync.lean ====
section
/-! DEFINITION. Scalar loads and stores, prefetch, stx, cache maintenance, atomics and fences
(05 R118-R121; 12 R245-R253, R260-R262). -/

namespace Sys2Proof.Machine

/-! ## Loads and stores -/

/-- The value of g[D] after a load of bytes (R118). -/
def loadValue (sign : Bool) (n : Nat) (x : Nat) : Word := extend sign (BitVec.ofNat (8 * n) x)

/-- ld (R118, R120). -/
def execLd (sz : Size) (_o : MemOrder) (sign : Bool) (d : GReg) (m : MemOp) (s : State) : Res :=
  let n := sizeBytes sz
  let ea := effAddr s m
  match loadBytes s (loadAccess 0x100) ea (addrsFrom ea n) with
  | .wait w => .next w
  | .trap t e => .next (takeInfo t e)
  | .done s' bs => .next (finishG s' d (loadValue sign n (natOf bs)))

/-- st (R119, R120). -/
def execSt (sz : Size) (_o : MemOrder) (d : GReg) (m : MemOp) (s : State) : Res :=
  let n := sizeBytes sz
  let ea := effAddr s m
  match storeBytes s (storeAccess 0x102) ea (addrsFrom ea n) (bytesOf (readN s d) n) with
  | .wait w => .next w
  | .trap t e => .next (takeInfo t e)
  | .done s' => .next (advance s')

/-- pref changes no architectural state (R121). -/
def execPref (_i : Fin 4) (_m : MemOp) (s : State) : Res :=
  .next (advance s)

/-! ## stx -/

/-- The first address of an stx that fails its checks, if one does (02 R42; R260). -/
def stxBad (s : State) (ea : Word) (n : Nat) : Option Word :=
  if bitsOf ea 63 48 != 0xFE01 || bitsOf ea 47 30 != 0 || bitsOf ea 19 16 != 0 ||
      cellCount s ≤ bitsOf ea 29 20 then some ea
  else if 0x10000 < bitsOf ea 15 0 + n then some (ea + BitVec.ofNat 64 (0x10000 - bitsOf ea 15 0))
  else none

/-- The sector pieces of bytes at an offset, as (offset, bytes) (11 R232). -/
def sectorPieces (off : Nat) (bs : List Byte) : List (Nat × List Byte) :=
  let k := 32 - off % 32
  if bs.length ≤ k then [(off, bs)] else [(off, bs.take k), (off + k, bs.drop k)]

/-- An stx handed to the relay of the die: one message for each sector piece, all of one number, by a lath when the receiver is
on another die (R260; 01 R16; 20 R377; log 37 DEDUCED). -/
def relayStx (s : State) (ea : Word) (bs : List Byte) : State :=
  let dest := bitsOf ea 29 20
  let die := dieOf (physOf s dest)
  let s1 := (sectorPieces (bitsOf ea 15 0) bs).foldl (fun s x =>
    let m : StxMsg := ⟨s.stxNo, s.curCell, s.curSlot, dest, (ccOf s).desc.ctxid, x.1, x.2, nextTransit s (myDie s) die⟩
    sendMessage { s with stxs := s.stxs ++ [m] } (myDie s) die) s
  { s1 with stxNo := s1.stxNo + 1 }

/-- stx: complete once the bytes are handed to the relay (R260). -/
def execStx (sz : Size) (d : GReg) (m : MemOp) (s : State) : Res :=
  let n := sizeBytes sz
  let ea := effAddr s m
  match stxBad s ea n with
  | some a => .next (trapHere s 6 a (infoAccess 0 (laterPage ea a) 8 0x106))
  | none =>
    .next (advance (relayStx s ea (bytesOf (readN s d) n)))

/-! ## cwb and cinv -/

/-- Whether an action on a whole line waits: locked at the slice or the home, held at the routing stage, or its home out of reach
(10 R221; 20 R367, R377). -/
def lineBusy (s : State) (line : Nat) : Bool :=
  lineLocked s (myDie s) line || siteLocked s .home line || lineHeld s (myDie s) line || !homeReachable s (myDie s) line

/-- A line's dirty copy written to memory and kept, clean: whichever cache holds it, so that memory has every write visible to the
slot at any scope (R262; log 25 DEDUCED). -/
def cwbLine (s : State) (line : Nat) : State :=
  match dirtyDie s.coh line with
  | some d => putCoh (backFrom s d line) (cohClean s.coh line)
  | none => s

/-- The copies of a die removed, or marked for the release of its pin (R222, R262). -/
def dropDie (c : Coh) (d line : Nat) : Coh :=
  if isPinned c d line then
    { c with pins := c.pins.map (fun x => if x.die = d && x.line = line then { x with drop := true } else x) }
  else dieInvalidate c d line

/-- The dies whose caches a cinv of the running slot empties: its own, or every die (R262; log 25 DEDUCED). -/
def scopeDies (s : State) : Scope → List Nat
  | .cell | .clu | .die => [myDie s]
  | .pkg | .sys => List.range 4

/-- The home's entry once a cinv has removed every die's copies of a line; a grant on its way keeps it. -/
def forgetLine (c : Coh) (line : Nat) : Coh :=
  if (List.range 4).all (fun d => (dirGet c d line).lvl = .i) && !c.grants.any (fun m => m.line = line) then freeHome c line else c

/-- A line's copies in the caches of the scope removed (R262). -/
def cinvLine (sc : Scope) (s : State) (line : Nat) : State :=
  let s1 := cwbLine s line
  putCoh s1 (forgetLine ((scopeDies s1 sc).foldl (fun c d => dropDie c d line) s1.coh) line)

/-- The bases of the lines of cwb and cinv (R261). -/
def lineBases (ea : Word) (n1 : Fin 128) : List Word :=
  (List.range (n1.val + 1)).map (fun i => keepBits ea 63 7 + BitVec.ofNat 64 (128 * i))

/-- The lines outside the own-scratchpad window, which needs no action (R261; log 25 DEDUCED). -/
def cachedBases (ea : Word) (n1 : Fin 128) : List Word :=
  (lineBases ea n1).filter (fun a => bitsOf a 63 48 != 0xFE00)

/-- cwb or cinv: every line checked, then every line acted on (R261, R262). -/
def cacheOp (acc : Access) (act : State → Nat → State) (n1 : Fin 128) (m : MemOp) (s : State) : Res :=
  let ea := effAddr s m
  match checkAccess s acc (keepBits ea 63 7) (cachedBases ea n1) with
  | .wait w => .next (waitHere w)
  | .trap t e => .next (takeInfo t e)
  | .ok t ls =>
    if (linesOf ls).any (lineBusy t) then .next (waitHere t) else .next (advance ((linesOf ls).foldl act t))

/-- cwb (R261, R262). -/
def execCwb (_sc : Scope) (n1 : Fin 128) (m : MemOp) (s : State) : Res :=
  cacheOp ⟨7, 0x108, true, false, false, true⟩ cwbLine n1 m s

/-- cinv (R261, R262). -/
def execCinv (sc : Scope) (n1 : Fin 128) (m : MemOp) (s : State) : Res :=
  cacheOp ⟨7, 0x10A, false, true, false, true⟩ (cinvLine sc) n1 m s

/-! ## amo and cas -/

/-- The value amo stores: its low 8n bits count (R249). -/
def amoValue (op : AmoOp) (sign : Bool) (n : Nat) (old b : Nat) : Nat :=
  let w := 8 * n
  let x : BitVec w := BitVec.ofNat w old
  let y : BitVec w := BitVec.ofNat w b
  let r : BitVec w := match op with
    | .swap => y
    | .add => x + y
    | .and => x &&& y
    | .or => x ||| y
    | .xor => x ^^^ y
    | .min => if readInt sign x ≤ readInt sign y then x else y
    | .max => if readInt sign x ≤ readInt sign y then y else x
  r.toNat

/-- The byte by which a read-modify-write names its line to the home: at package and system scope, for one in memory (R251). -/
def homeByte : Scope → List Loc → Option Nat
  | .pkg, .mem pa :: _ => some pa
  | .sys, .mem pa :: _ => some pa
  | _, _ => none

/-- The bytes of a read-modify-write got at the unit that its scope names within the die: the L1 in M, or the slice with write
ownership (R251); or the state in which it waits. -/
def atomicReady (s : State) (sc : Scope) (ls : List Loc) : Except State State :=
  match sc with
  | .cell =>
    match getLines s true ls with
    | .error w => .error (waitHere w)
    | .ok t => .ok (markSectors t (myPhys t) true ls)
  | .clu | .die =>
    match acquireLines s (myDie s) (engineOf (myDie s)) true (linesOf ls) with
    | .error w => .error (waitHere w)
    | .ok t => .ok t
  | .pkg | .sys => .ok s

/-- The bytes of a read-modify-write written: at the home they go to memory (R251). -/
def atomicWrite (s : State) (sc : Scope) (ls : List Loc) (bs : List Byte) : State :=
  match sc, ls with
  | .pkg, .mem pa :: _ => memWrite (damagePools s ls) pa bs
  | .sys, .mem pa :: _ => memWrite (damagePools s ls) pa bs
  | _, _ => writeLocs (damagePools s ls) ls bs

/-- A read-modify-write as its instruction gives it: its access, address, size and scope, how its result is read, and the value that it
writes for the one that it finds, if it writes (R248-R250). -/
structure Rmw where
  acc : Access
  ea : Word
  n : Nat
  sc : Scope
  sign : Bool
  f : Nat → Option Nat

/-- What a read-modify-write does where its bytes are: UE, or the value for g[D] with the bytes written (R249, R250; 18 R344). -/
def Rmw.perform (x : Rmw) (s : State) (ls : List Loc) : State × Except TrapInfo Word :=
  match poisonTrap s x.acc x.ea (addrsFrom x.ea x.n) ls with
  | some e => (s, .error e)
  | none =>
    let old := natOf (loadedBytes s ls)
    (match x.f old with
      | some y => atomicWrite s x.sc ls (bytesOf y x.n)
      | none => s, .ok (loadValue x.sign x.n old))

/-- The result of a read-modify-write at its slot. -/
def rmwResult (s : State) (d : GReg) : Except TrapInfo Word → State
  | .error e => takeInfo s e
  | .ok v => finishG (setStall s .none) d v

/-- The result of a read-modify-write that a home has performed on its way back, by a lath to another die (20 R377). -/
def rmwReply (s : State) (home : Nat) (d : GReg) : Except TrapInfo Word → State
  | .ok v => replyFrom (setStall s .none) home d v
  | .error e =>
    if byLath s home (myDie s) then
      setStall (sendMessage s home (myDie s)) (.replyUe (nextTransit s home (myDie s)) e.va e.info)
    else takeInfo s e

/-- A read-modify-write at the home of its line, which goes on when the home has the line, then lets it go (R251; 10 R221). -/
def Rmw.atHome (x : Rmw) (s : State) (d : GReg) (pa : Nat) : Res :=
  match homeReady s pa with
  | .error w => .next w
  | .ok t =>
    let r := x.perform t (memLocs pa x.n)
    .next (rmwReply (homeDone r.1 (pa / 128)) (trueHome t (pa / 128)) d r.2)

/-- A read-modify-write that issues: R248's checks, then where its scope says (R251). -/
def Rmw.start (x : Rmw) (s : State) (d : GReg) : Res :=
  if x.ea.toNat % x.n ≠ 0 then .next (trapHere s 6 x.ea (infoAccess 0 false 3 x.acc.opc))
  else
    match checkAccess s x.acc x.ea (addrsFrom x.ea x.n) with
    | .wait w => .next (waitHere w)
    | .trap t e => .next (takeInfo t e)
    | .ok t ls =>
      if copyPending t ls then .next (waitHere t)
      else
        match homeByte x.sc ls with
        | some pa => x.atHome t d pa
        | none =>
          match atomicReady t x.sc ls with
          | .error w => .next w
          | .ok u => .next (rmwResult (x.perform u ls).1 d (x.perform u ls).2)

/-- amo and cas: the read-modify-write started, or gone on with while its home is asked for the line (R248-R251). -/
def atomicOp (opc : BitVec 12) (sz : Size) (sc : Scope) (sign : Bool) (d : GReg) (m : MemOp)
    (f : Nat → Option Nat) (s : State) : Res :=
  let x : Rmw := ⟨⟨3, opc, true, true, false, false⟩, effAddr s m, sizeBytes sz, sc, sign, f⟩
  match (slotOf s).stall with
  | .home pa => x.atHome s d pa
  | _ => x.start s d

/-- amo; its order has no further effect here (R249; log 8 DESIGN CHOICE). -/
def execAmo (sz : Size) (sc : Scope) (sign : Bool) (op : AmoOp) (_o : RmwOrder) (d : GReg) (m : MemOp)
    (s : State) : Res :=
  atomicOp 0x120 sz sc sign d m (fun old => some (amoValue op sign (sizeBytes sz) old (readN s d))) s

/-- cas: one that finds another value performs only its read (R250; log 8 DESIGN CHOICE). -/
def execCas (sz : Size) (sc : Scope) (sign : Bool) (_o : RmwOrder) (d : GReg) (m : MemOp) (s : State) : Res :=
  let w := 2 ^ (8 * sizeBytes sz)
  atomicOp 0x122 sz sc sign d m (fun old =>
    if old = readN s d % w then some (readN s (regAt d 1) % w) else none) s

/-- fence: accesses take effect in program order, so it adds nothing (R253; log 8 DESIGN CHOICE). -/
def execFence (_o : FenceOrder) (_sc : Scope) (s : State) : Res :=
  .next (advance s)

end Sys2Proof.Machine
end

