-- ==== Sys2Proof/Machine/Flags.lean ====
section
/-! DEFINITION. Conditions: the machine has no flags; compares write predicates and masks (03 R51; 05 R104, R108). -/

namespace Sys2Proof.Machine

/-- An integer condition (R104). -/
def condHolds (c : Cond) (a b : Int) : Bool :=
  match c with
  | .eq => a = b
  | .ne => a ≠ b
  | .lt => a < b
  | .le => a ≤ b
  | .gt => b < a
  | .ge => b ≤ a

/-- A floating-point condition (R108). -/
def fcondHolds (t : FpTy) (c : FCond) (a b : FpBits) : Bool :=
  if fpIsNan t a || fpIsNan t b then
    match c with
    | .un | .ne => true
    | _ => false
  else
    match c with
    | .ord => true
    | .un => false
    | .eq => fpOrd t a = fpOrd t b
    | .ne => fpOrd t a ≠ fpOrd t b
    | .lt => fpOrd t a < fpOrd t b
    | .le => fpOrd t a ≤ fpOrd t b
    | .gt => fpOrd t b < fpOrd t a
    | .ge => fpOrd t b ≤ fpOrd t a

end Sys2Proof.Machine
end

