-- ==== Sys2Proof/Machine/ScalarFp.lean ====
section
/-! DEFINITION. Predicates, scalar floating point, conversions and moves (05 R104-R114). -/

namespace Sys2Proof.Machine

/-- cmp (R104). -/
def execCmp (t : Option IntTy) (c : Cond) (d : PReg) (a b : GReg) (s : State) : Res :=
  .next (finishP s d (condHolds c (inVal (ity t) (readG s a)) (inVal (ity t) (readG s b))))

/-- pand (R105). -/
def execPand (d a b : PReg) (na nb : Bool) (s : State) : Res :=
  .next (finishP s d ((readP s a != na) && (readP s b != nb)))

/-- por (R105). -/
def execPor (d a b : PReg) (na nb : Bool) (s : State) : Res :=
  .next (finishP s d ((readP s a != na) || (readP s b != nb)))

/-- pxor (R105). -/
def execPxor (d a b : PReg) (na nb : Bool) (s : State) : Res :=
  .next (finishP s d ((readP s a != na) != (readP s b != nb)))

/-- pmov in its three forms (R105). -/
def execPmov (f : PmovForm) (s : State) : Res :=
  match f with
  | .pp d a na => .next (finishP s d (readP s a != na))
  | .pg d a => .next (finishP s d (readG s a != 0))
  | .gp d a na => .next (finishG s d (if readP s a != na then 1 else 0))

/-- A floating-point instruction of two g sources. -/
def fpResult2 (s : State) (t : FpTy) (f : FpBits → FpBits → FpBits) (a b : GReg) : Word :=
  fpOut t (f (fpSrc t (readG s a)) (fpSrc t (readG s b)))

/-- fadd (R106). -/
def execFadd (t : Option FpTy) (r : Rnd) (d a b : GReg) (s : State) : Res :=
  .next (finishG s d (fpResult2 s (fty t) (fpAdd (fty t) r (tagOf s 0)) a b))

/-- fsub (R106). -/
def execFsub (t : Option FpTy) (r : Rnd) (d a b : GReg) (s : State) : Res :=
  .next (finishG s d (fpResult2 s (fty t) (fpSub (fty t) r (tagOf s 0)) a b))

/-- fmul (R106). -/
def execFmul (t : Option FpTy) (r : Rnd) (d a b : GReg) (s : State) : Res :=
  .next (finishG s d (fpResult2 s (fty t) (fpMul (fty t) r (tagOf s 0)) a b))

/-- fma (R106). -/
def execFma (t : Option FpTy) (r : Rnd) (d a b c : GReg) (s : State) : Res :=
  .next (finishG s d (fpOut (fty t) (fpFma (fty t) r (tagOf s 0) (fpSrc (fty t) (readG s a))
    (fpSrc (fty t) (readG s b)) (fpSrc (fty t) (readG s c)))))

/-- fdiv (R106). -/
def execFdiv (t : Option FpTy) (r : Rnd) (d a b : GReg) (s : State) : Res :=
  .next (finishG s d (fpResult2 s (fty t) (fpDiv (fty t) r (tagOf s 0)) a b))

/-- fsqrt (R106). -/
def execFsqrt (t : Option FpTy) (r : Rnd) (d a : GReg) (s : State) : Res :=
  .next (finishG s d (fpOut (fty t) (fpSqrt (fty t) r (tagOf s 0) (fpSrc (fty t) (readG s a)))))

/-- fmin (R107). -/
def execFmin (t : Option FpTy) (d a b : GReg) (s : State) : Res :=
  .next (finishG s d (fpResult2 s (fty t) (fpMin (fty t)) a b))

/-- fmax (R107). -/
def execFmax (t : Option FpTy) (d a b : GReg) (s : State) : Res :=
  .next (finishG s d (fpResult2 s (fty t) (fpMax (fty t)) a b))

/-- fcmp (R108). -/
def execFcmp (t : Option FpTy) (c : FCond) (d : PReg) (a b : GReg) (s : State) : Res :=
  .next (finishP s d (fcondHolds (fty t) c (fpSrc (fty t) (readG s a)) (fpSrc (fty t) (readG s b))))

/-- fcls (R109). -/
def execFcls (t : Option FpTy) (d a : GReg) (s : State) : Res :=
  .next (finishG s d (BitVec.ofNat 64 (2 ^ fpClass (fty t) (fpSrc (fty t) (readG s a)))))

/-- cvt between two types (R110). -/
def cvtResult (dt st : NumTy) (r : Rnd) (w : Word) : Word :=
  match dt, st with
  | .int d, .int t => outVal d (inVal t w)
  | .int d, .fp t => outVal d (fpToInt (intSigned d) (intWidth d) t r (fpSrc t w))
  | .fp d, .int t => fpOut d (intToFp d r (inVal t w))
  | .fp d, .fp t => fpOut d (fpToFp d t r (fpSrc t w))

/-- cvt (R110). -/
def execCvt (dt st : NumTy) (r : Rnd) (d a : GReg) (s : State) : Res :=
  .next (finishG s d (cvtResult dt st r (readG s a)))

/-- fround (R111). -/
def execFround (t : Option FpTy) (r : Rnd) (d a : GReg) (s : State) : Res :=
  .next (finishG s d (fpOut (fty t) (fpRoundInt (fty t) r (fpSrc (fty t) (readG s a)))))

/-- mov (R112). -/
def execMov (t : Option IntTy) (d a : GReg) (s : State) : Res :=
  .next (finishG s d (outVal (ity t) (inVal (ity t) (readG s a))))

/-- mov with an immediate (R112). -/
def execMovImm (d : GReg) (imm : BitVec 56) (s : State) : Res :=
  .next (finishG s d (immWord imm))

/-- mfs; an RWP register needs privilege (R113). -/
def execMfs (d : GReg) (r : SReg) (s : State) : Res :=
  if sregAccess r = .rwp && !privileged s then .next (trapSpecial s r 0x0C2)
  else .next (finishG s d (readSpecial s r))

/-- mts to a register without a row of its own; RO ones ignore the write, the fused ones raise PRIV (R113). -/
def execMts (r : SReg) (a : GReg) (s : State) : Res :=
  match sregAccess r with
  | .ro => .next (advance s)
  | .fuse => .next (trapSpecial s r 0x0C4)
  | .rw => .next (advance (writeSpecial s r (readG s a)))
  | .rwp =>
    if privileged s then .next (advance (writeSpecial s r (readG s a)))
    else .next (trapSpecial s r 0x0C4)

end Sys2Proof.Machine
end

