-- ==== Sys2Proof/Machine/ScalarInt.lean ====
section
/-! DEFINITION. Scalar integer arithmetic, multiplication and division (05 R95-R100). -/

namespace Sys2Proof.Machine

/-- An integer instruction on g[A] and a word b, written through Out (R91, R95). -/
def intResult (t : IntTy) (f : Int → Int → Int) (a b : Word) : Word := outVal t (f (inVal t a) (inVal t b))

/-- A bitwise instruction at the type's width (R91, R95). -/
def bitResult (t : IntTy) (f : Word → Word → Word) (a b : Word) : Word :=
  outBits t ((f a b).setWidth (intWidth t))

/-- add (R95). -/
def execAdd (t : Option IntTy) (d a b : GReg) (s : State) : Res :=
  .next (finishG s d (intResult (ity t) (· + ·) (readG s a) (readG s b)))

/-- add with an immediate (R95, 03 R56). -/
def execAddImm (d a : GReg) (imm : BitVec 56) (s : State) : Res :=
  .next (finishG s d (intResult .i64 (· + ·) (readG s a) (immWord imm)))

/-- sub (R95). -/
def execSub (t : Option IntTy) (d a b : GReg) (s : State) : Res :=
  .next (finishG s d (intResult (ity t) (· - ·) (readG s a) (readG s b)))

/-- sub with an immediate (R95, 03 R56). -/
def execSubImm (d a : GReg) (imm : BitVec 56) (s : State) : Res :=
  .next (finishG s d (intResult .i64 (· - ·) (readG s a) (immWord imm)))

/-- and (R95). -/
def execAnd (t : Option IntTy) (d a b : GReg) (s : State) : Res :=
  .next (finishG s d (bitResult (ity t) (· &&& ·) (readG s a) (readG s b)))

/-- and with an immediate (R95, 03 R56). -/
def execAndImm (d a : GReg) (imm : BitVec 56) (s : State) : Res :=
  .next (finishG s d (bitResult .i64 (· &&& ·) (readG s a) (immWord imm)))

/-- or (R95). -/
def execOr (t : Option IntTy) (d a b : GReg) (s : State) : Res :=
  .next (finishG s d (bitResult (ity t) (· ||| ·) (readG s a) (readG s b)))

/-- or with an immediate (R95, 03 R56). -/
def execOrImm (d a : GReg) (imm : BitVec 56) (s : State) : Res :=
  .next (finishG s d (bitResult .i64 (· ||| ·) (readG s a) (immWord imm)))

/-- xor (R95). -/
def execXor (t : Option IntTy) (d a b : GReg) (s : State) : Res :=
  .next (finishG s d (bitResult (ity t) (· ^^^ ·) (readG s a) (readG s b)))

/-- xor with an immediate (R95, 03 R56). -/
def execXorImm (d a : GReg) (imm : BitVec 56) (s : State) : Res :=
  .next (finishG s d (bitResult .i64 (· ^^^ ·) (readG s a) (immWord imm)))

/-- andn (R95). -/
def execAndn (t : Option IntTy) (d a b : GReg) (s : State) : Res :=
  .next (finishG s d (bitResult (ity t) (fun x y => x &&& ~~~y) (readG s a) (readG s b)))

/-- andn with an immediate (R95, 03 R56). -/
def execAndnImm (d a : GReg) (imm : BitVec 56) (s : State) : Res :=
  .next (finishG s d (bitResult .i64 (fun x y => x &&& ~~~y) (readG s a) (immWord imm)))

/-- min (R95). -/
def execMin (t : Option IntTy) (d a b : GReg) (s : State) : Res :=
  .next (finishG s d (intResult (ity t) min (readG s a) (readG s b)))

/-- min with an immediate (R95, 03 R56). -/
def execMinImm (d a : GReg) (imm : BitVec 56) (s : State) : Res :=
  .next (finishG s d (intResult .i64 min (readG s a) (immWord imm)))

/-- max (R95). -/
def execMax (t : Option IntTy) (d a b : GReg) (s : State) : Res :=
  .next (finishG s d (intResult (ity t) max (readG s a) (readG s b)))

/-- max with an immediate (R95, 03 R56). -/
def execMaxImm (d a : GReg) (imm : BitVec 56) (s : State) : Res :=
  .next (finishG s d (intResult .i64 max (readG s a) (immWord imm)))

/-- sel (R96). -/
def execSel (d a b : GReg) (p : PReg) (s : State) : Res :=
  .next (finishG s d (if readP s p then readG s a else readG s b))

/-- lea (R97). -/
def execLea (d a b : GReg) (sh : Fin 5) (disp : BitVec 32) (s : State) : Res :=
  .next (finishG s d (readG s a + (readG s b <<< sh.val) + disp.signExtend 64))

/-- mul (R98). -/
def execMul (t : Option IntTy) (d a b : GReg) (s : State) : Res :=
  .next (finishG s d (intResult (ity t) (· * ·) (readG s a) (readG s b)))

/-- mul with an immediate (R98). -/
def execMulImm (d a : GReg) (imm : BitVec 56) (s : State) : Res :=
  .next (finishG s d (intResult .i64 (· * ·) (readG s a) (immWord imm)))

/-- mulh: the high N bits of the exact product (R98). -/
def execMulh (t : Option IntTy) (d a b : GReg) (s : State) : Res :=
  .next (finishG s d (intResult (ity t) (fun x y => x * y / 2 ^ intWidth (ity t)) (readG s a) (readG s b)))

/-- The type code of an integer type as encoded, 0 for the default (03 R50). -/
def typeCode : Option IntTy → Nat
  | none => 0
  | some .i8 => 1
  | some .i16 => 2
  | some .i32 => 3
  | some .i64 => 4
  | some .n8 => 5
  | some .n16 => 6
  | some .n32 => 7
  | some .n64 => 8

/-- tinfo on DIVZ (R100). -/
def infoDivz (t : Option IntTy) (opc : Nat) : Word := BitVec.ofNat 64 (typeCode t * 2 ^ 12 + opc)

/-- Division by zero: DIVZ when sctl.DIVZ is 1, else the result with quotient 0 and remainder a (R99, R100). -/
def divide (t : Option IntTy) (opc : Nat) (d a b : GReg) (s : State) (f : Int → Int → Int) (zero : Int → Int) :
    Res :=
  let x := inVal (ity t) (readG s a)
  let y := inVal (ity t) (readG s b)
  if y = 0 then
    if (slotOf s).sctl.getLsbD 0 then .next (trapHere s 3 0 (infoDivz t opc))
    else .next (finishG s d (outVal (ity t) (zero x)))
  else .next (finishG s d (outVal (ity t) (f x y)))

/-- div, truncated toward zero (R99). -/
def execDiv (t : Option IntTy) (d a b : GReg) (s : State) : Res :=
  divide t 0x024 d a b s Int.tdiv (fun _ => 0)

/-- rem, with the sign of the dividend (R99). -/
def execRem (t : Option IntTy) (d a b : GReg) (s : State) : Res :=
  divide t 0x026 d a b s Int.tmod (fun x => x)

/-- madd (R98). -/
def execMadd (t : Option IntTy) (d a b c : GReg) (s : State) : Res :=
  .next (finishG s d (outVal (ity t)
    (inVal (ity t) (readG s a) * inVal (ity t) (readG s b) + inVal (ity t) (readG s c))))

end Sys2Proof.Machine
end

