-- ==== Sys2Proof/Machine/Scrim.lean ====
section
/-! DEFINITION. The scrim trees: posts that merge on their way up, page-service requests, wakes on their way down
(18 R349-R352). -/

namespace Sys2Proof.Machine

/-- The bit of an access kind in an access set (R349). -/
def kindBit : AccessKind → BitVec 3
  | .read => 1
  | .write => 2
  | .exec => 4

/-- The entries of a router. -/
def routerEntries (s : State) (r : RouterId) : List ScrimEntry := tabGet [] s.scrim.routers r

/-- The entries of a router put; a router without entries is not listed. -/
def putRouter (s : State) (r : RouterId) (l : List ScrimEntry) : State :=
  { s with scrim := { s.scrim with
      routers := if l.isEmpty then tabErase s.scrim.routers r else tabSet s.scrim.routers r l } }

/-- Whether an entry has a key (R349). -/
def ScrimEntry.hasKey (ctxid : BitVec 16) (page : BitVec 39) (e : ScrimEntry) : Bool :=
  e.ctxid = ctxid && e.page = page

/-- Whether a router is the root of its die. -/
def isRoot (r : RouterId) : Bool := r % 33 = 32

/-- A child's bit set and an access kind added in an entry (R349). -/
def ScrimEntry.merge (e : ScrimEntry) (child : ScrimChild) (k : AccessKind) : ScrimEntry :=
  { e with
    kinds := e.kinds ||| kindBit k
    children := if child ∈ e.children then e.children else e.children ++ [child] }

/-- A post that a cluster router forwards to the root of its die (R349). -/
def forwardPost (m : PostMsg) : PostMsg :=
  { m with router := m.router / 33 * 33 + 32, child := .cluster (m.router % 33), wait := .none, backoff := 32 }

/-- The frame of a page-service request (R350). -/
def psvcFrame (die : Nat) (ctxid : BitVec 16) (page : BitVec 39) (kinds : BitVec 3) : Frame :=
  #v[0x10C00000, 0, BitVec.ofNat 64 (page.toNat * 2 ^ 16), BitVec.ofNat 64 (ctxid.toNat * 2 ^ 48 + kinds.toNat),
    BitVec.ofNat 64 die, 0, 0, 0]

/-- The page-service request of a root for a post, sent to PSVC.CELL in bits [14:5] and PSVC.CHAN in bits [4:0], by a lath when
the cell is on another die (R350, R357). -/
def sendPsvc (s : State) (m : PostMsg) : State :=
  let die := m.router / 33
  let cell := bitsOf m.psvc 14 5
  let x : PsvcMsg := ⟨die, cell, Fin.ofNat 32 (bitsOf m.psvc 4 0), m.ctxid, psvcFrame die m.ctxid m.page (kindBit m.kind),
    .queued, 32, nextTransit s die (dieOf (physOf s cell))⟩
  sendMessage { s with scrim := { s.scrim with psvcs := s.scrim.psvcs ++ [x] } } die (dieOf (physOf s cell))

/-- What a router sends on for a post that it takes up: a cluster router the post, a root its request (R349, R350). -/
def passUp (s : State) (m : PostMsg) (isNew : Bool) : State :=
  if isRoot m.router then
    if isNew then sendPsvc s m else s
  else { s with scrim := { s.scrim with posts := s.scrim.posts ++ [forwardPost m] } }

/-- The poster told that its router has accepted the post: an fpost ends (R351). -/
def postAccepted (s : State) : ScrimChild → State
  | .agent (.slot c k) =>
    match (slotAt s c k).stall with
    | .fpost false => putSlotAt s c k { slotAt s c k with stall := .fpost true }
    | _ => s
  | _ => s

/-- A post taken up by its router, merged or in a free entry; none when all 64 are in use (R349). -/
def takePost (s : State) (m : PostMsg) : Option State :=
  let l := routerEntries s m.router
  match l.find? (ScrimEntry.hasKey m.ctxid m.page) with
  | some e =>
    let s1 := putRouter s m.router (l.map (fun x =>
      if ScrimEntry.hasKey m.ctxid m.page x then x.merge m.child m.kind else x))
    some (if e.kinds &&& kindBit m.kind = 0 then passUp s1 m false else s1)
  | none =>
    if l.length < 64 then
      some (passUp (putRouter s m.router (l ++ [⟨m.ctxid, m.page, kindBit m.kind, [m.child]⟩])) m true)
    else none

/-- The posts on their way put. -/
def putPosts (s : State) (l : List PostMsg) : State := { s with scrim := { s.scrim with posts := l } }

/-- scrimPost: a post reaches its router (R349). -/
def execScrimPost (i : Nat) (s : State) : Res :=
  match s.scrim.posts[i]? with
  | none => .next s
  | some m =>
    if m.wait.isSome then .next s
    else
      match takePost (putPosts s (listDrop s.scrim.posts i)) m with
      | some s1 => .next (postAccepted s1 m.child)
      | none =>
        let refused : PostMsg := { m with wait := some m.backoff, backoff := min 2048 (2 * m.backoff) }
        .next (putPosts s (listSet s.scrim.posts i refused))

/-- scrimPostRetry: the wait over, a refused post is sent again (R349). -/
def execScrimPostRetry (i : Nat) (s : State) : Res :=
  match s.scrim.posts[i]? with
  | none => .next s
  | some m =>
    if m.wait = some 0 then .next (putPosts s (listSet s.scrim.posts i { m with wait := .none })) else .next s

/-- The wakes that a router sends to the children of an entry (R349). -/
def wakeChildren (s : State) (m : WakeMsg) (l : List ScrimChild) : State :=
  l.foldl (fun s ch =>
    match ch with
    | .agent p => { s with scrim := { s.scrim with out := s.scrim.out ++ [⟨p, m.ctxid, m.page, m.ok⟩] } }
    | .cluster c => { s with scrim := { s.scrim with
        wakes := s.scrim.wakes ++ [⟨m.router / 33 * 33 + c, m.ctxid, m.page, m.ok, .none, .none⟩] } }) s

/-- A root has accepted the wake of a serve (R351). -/
def serveAccepted (s : State) : Option (Nat × Fin 4) → State
  | none => s
  | some (c, k) =>
    match (slotAt s c k).stall with
    | .serve (n + 1) => putSlotAt s c k { slotAt s c k with stall := .serve n }
    | _ => s

/-- scrimWake: a wake reaches a router (R349). -/
def execScrimWake (i : Nat) (s : State) : Res :=
  match s.scrim.wakes[i]? with
  | none => .next s
  | some m =>
    if !arrived s m.via then .next s
    else
    let s1 := serveAccepted { s with scrim := { s.scrim with wakes := listDrop s.scrim.wakes i } } m.server
    let l := routerEntries s1 m.router
    match l.find? (ScrimEntry.hasKey m.ctxid m.page) with
    | some e =>
      let s2 := putRouter s1 m.router (l.filter (fun x => !ScrimEntry.hasKey m.ctxid m.page x))
      .next (wakeChildren s2 m e.children)
    | none => .next s1

/-- A wake at a slot: it marks a PEND of its key that is not done (R351). -/
def wakeSlot (s : State) (c : Nat) (k : Fin 4) (w : AgentWake) : State :=
  let x := slotAt s c k
  match x.pend with
  | some p =>
    if p.ctxid = w.ctxid && p.page = w.page && p.outcome.isNone then
      let done : Pend := { p with outcome := some w.ok }
      putSlotAt s c k { x with pend := some done }
    else s
  | none => s

/-- The page of the byte that a copy channel lands next (log 34 DEDUCED). -/
def chanPage (x : CopyChan) : Option (BitVec 39) :=
  x.queue.head?.map (fun t => keyPage (transferAddr t (x.wp - t.base)))

/-- A wake at a copy channel that paused for its page: it goes on, or is in error (14 R283). -/
def wakeChan (s : State) (c : Nat) (ch : Fin 2) (w : AgentWake) : State :=
  let x := (ccAt s c).cch[ch]
  if isResident s c w.ctxid && x.paused && chanPage x = some w.page then
    if w.ok then putChan s c ch { x with paused := false } else chanError s c ch 1
  else s

/-- A wake at a TFU that paused for its page: it walks again, or the block that it reads is in error (14 R283, R296; 18 R351). -/
def wakeTfu (s : State) (c : Nat) (w : AgentWake) : State :=
  let x := (ccAt s c).mxu
  if isResident s c w.ctxid && x.paused = some w.page then
    putMxu s c { x with paused := none, failed := if w.ok then x.failed else some w.page }
  else s

/-- wakeDelivery: a wake reaches an agent (R351). -/
def execWakeDelivery (i : Nat) (s : State) : Res :=
  match s.scrim.out[i]? with
  | none => .next s
  | some w =>
    let s1 := { s with scrim := { s.scrim with out := listDrop s.scrim.out i } }
    match w.dest with
    | .slot c k => .next (wakeSlot s1 c k w)
    | .cch c ch => .next (wakeChan s1 c ch w)
    | .tfu c => .next (wakeTfu s1 c w)

end Sys2Proof.Machine
end

