-- ==== Sys2Proof/Machine/Steal.lean ====
section
/-! DEFINITION. Steals: request, claim, EMPTY answer, install, and the install buffer (07 R166, R168-R170; 08 R192,
R202). -/

namespace Sys2Proof.Machine

/-- Whether a cell, by physical identifier, lies in another's steal domain (R170). -/
def inDomain (domain : BitVec 2) (p q : Nat) : Bool :=
  match domain.toNat with
  | 0 => clusterOf p = clusterOf q
  | 1 => dieOf p = dieOf q
  | _ => true

/-- Whether the current domain of a cell holds another cell (R170). -/
def domainHasOther (s : State) (c : Nat) : Bool :=
  let p := physOf s c
  let d := (ccAt s c).domain
  let n : Nat := match d.toNat with
    | 0 => 8
    | 1 => 256
    | _ => 1024
  (List.range n).any (fun i =>
    let q := p / n * n + i
    q != p && cellPresent s q && inDomain d p q)

/-- Whether the cell is at the widest domain that sdomain allows. -/
def atWidest (x : CtxCell) : Bool := x.widest ≤ x.domain

/-- The wait before the next request after some failures at the widest domain (R170). -/
def stealWaitFor (fails : Nat) : Nat := min 4096 (64 * 2 ^ (fails - 1))

/-- The domain and failures after one more failure (R170; 08 R202). -/
def failDomain (x : CtxCell) : CtxCell :=
  let n := min 15 (x.fails.toNat + 1)
  if x.domain = 0 && 2 ≤ n && !atWidest x then { x with domain := 1, fails := 0 }
  else if x.domain = 1 && 4 ≤ n && !atWidest x then { x with domain := 2, fails := 0 }
  else { x with fails := BitVec.ofNat 4 n }

/-- A failure counted at a cell, and the wait it brings at the widest domain (R170). -/
def countFailure (s : State) (c : Nat) : State :=
  let x := failDomain (ccAt s c)
  let wait := if atWidest x && x.fails != 0 then stealWaitFor x.fails.toNat else 0
  putCell s c { cellAt s c with cc := x, stealWait := wait }

/-- Whether a cell steals: a slot FREE, its deque empty, no runnable message (R170). -/
def mayStealNow (s : State) (c : Nat) : Bool :=
  let x := ccAt s c
  (cellAt s c).live && (freeSlotOf s c).isSome && dequeLen x = 0 &&
    !(List.finRange 32).any (channelRunnable s c) &&
    ((cellAt s c).stealWait = 0 || x.fails = 0 || !atWidest x)

/-- A steal agent put. -/
def setSteal (s : State) (c : Nat) (x : Steal) : State := putCell s c { cellAt s c with steal := x }

/-- A steal request on its way to its victim. -/
def askVictim (s : State) (thief victim : Nat) (d : BitVec 2) : State :=
  let r := cellSend s thief victim
  setSteal r.2 thief (.asked victim d r.1)

/-- An EMPTY answer on its way to its thief. -/
def answerEmpty (s : State) (thief victim : Nat) (d : BitVec 2) : State :=
  let r := cellSend s victim thief
  setSteal r.2 thief (.empty d r.1)

/-- A claimed frame on its way to its thief. -/
def carryFrame (s : State) (thief victim : Nat) (f : Frame) : State :=
  let r := cellSend s victim thief
  setSteal r.2 thief (.claimed victim f r.1)

/-- stealRequest: sent to a victim of the current domain; a failure at once when the domain holds no other cell
(R170). -/
def execStealRequest (thief victim : Nat) (s : State) : Res :=
  let d := (ccAt s thief).domain
  match (cellAt s thief).steal with
  | .idle =>
    if !mayStealNow s thief then .next s
    else if !domainHasOther s thief then .next (countFailure s thief)
    else if victim < cellCount s && victim ≠ thief && inDomain d (physOf s thief) (physOf s victim) then
      .next (askVictim s thief victim d)
    else .next s
  | _ => .next s

/-- stealClaim: the victim's oldest frame removed, or EMPTY (R168, R170). -/
def execStealClaim (thief : Nat) (s : State) : Res :=
  match (cellAt s thief).steal with
  | .asked v d via =>
    if !arrived s via then .next s
    else if isResident s v (ccAt s thief).desc.ctxid then
      match takeOldest s v with
      | .error w => .next w
      | .ok (some (f, s1)) => .next (carryFrame s1 thief v f)
      | .ok none => .next (answerEmpty s thief v d)
    else .next (answerEmpty s thief v d)
  | _ => .next s

/-- stealEmpty: a failure, counted in the domain the request was sent in (R170; 08 R202; log 33 DEDUCED). -/
def execStealEmpty (thief : Nat) (s : State) : Res :=
  match (cellAt s thief).steal with
  | .empty d via =>
    let s1 := setSteal s thief .idle
    if !arrived s via then .next s
    else .next (if (ccAt s thief).domain = d then countFailure s1 thief else s1)
  | _ => .next s

/-- A stolen frame's SCOPE raised when the thief lies outside it (08 R192). -/
def stolenFrame (s : State) (thief victim : Nat) (f : Frame) : Frame :=
  let span := scopeCode (spanScope s (flatOf s victim) (flatOf s thief))
  withHeader f (putBits f[0] 24 22 (max (headerScope f[0]) span))

/-- stealInstall: pushed at the thief, or kept while a commit is in progress or nothing fits (R166, R168). -/
def execStealInstall (thief : Nat) (s : State) : Res :=
  match (cellAt s thief).steal with
  | .claimed v f via =>
    let s1 := setSteal s thief .idle
    let g := stolenFrame s thief v f
    if !arrived s via then .next s
    else if (cellAt s thief).committing.isSome || !(cellAt s thief).installs.isEmpty then .next (keepInstall s1 thief g)
    else .next (pushOrKeep s1 thief g)
  | _ => .next s

/-- installBufferDrain: the oldest kept frame pushed once it fits (R166). -/
def execInstallBufferDrain (c : Nat) (s : State) : Res :=
  match (cellAt s c).installs with
  | [] => .next s
  | f :: l =>
    if (cellAt s c).committing.isSome then .next s
    else
      match pushFrame s c f with
      | .ok s1 => .next (putCell s1 c { cellAt s1 c with installs := l })
      | .error w => .next w

end Sys2Proof.Machine
end

