-- ==== Sys2Proof/Machine/VectorFp.lean ====
section
/-! DEFINITION. Vector floating point, conversions and block formats (06 R133-R140). -/

namespace Sys2Proof.Machine

/-- A lane as the bits of a floating-point value. -/
def fpLane (t : FpTy) (v : VecWord) (i : Nat) : FpBits := (lane (fpWidth t) v i).setWidth 32

/-- A lane of a B operand as the bits of a floating-point value. -/
def fpSrcLane (s : State) (t : FpTy) (b : VSrc) (i : Nat) : FpBits := (srcLane s (fpWidth t) b i).setWidth 32

/-- A floating-point lane operation of v[A] and B; `f` also gets the tag of the lane's created NaN (R133). -/
def laneFps (s : State) (t : FpTy) (d a : VReg) (b : VSrc) (k : MaskSel)
    (f : BitVec 22 → FpBits → FpBits → FpBits) : Res :=
  .next (finishLanes s (fpWidth t) d k (fun i =>
    (f (tagOf s i) (fpLane t (readV s a) i) (fpSrcLane s t b i)).setWidth (fpWidth t)))

/-- vfadd (R133). -/
def execVfadd (t : Option FpTy) (r : Rnd) (d a : VReg) (b : VSrc) (k : MaskSel) (s : State) : Res :=
  laneFps s (fty t) d a b k (fpAdd (fty t) r)

/-- vfsub (R133). -/
def execVfsub (t : Option FpTy) (r : Rnd) (d a : VReg) (b : VSrc) (k : MaskSel) (s : State) : Res :=
  laneFps s (fty t) d a b k (fpSub (fty t) r)

/-- vfmul (R133). -/
def execVfmul (t : Option FpTy) (r : Rnd) (d a : VReg) (b : VSrc) (k : MaskSel) (s : State) : Res :=
  laneFps s (fty t) d a b k (fpMul (fty t) r)

/-- vfdiv (R133). -/
def execVfdiv (t : Option FpTy) (r : Rnd) (d a : VReg) (b : VSrc) (k : MaskSel) (s : State) : Res :=
  laneFps s (fty t) d a b k (fpDiv (fty t) r)

/-- vffma (R133). -/
def execVffma (t : Option FpTy) (r : Rnd) (d a : VReg) (b : VSrc) (c : VReg) (k : MaskSel) (s : State) : Res :=
  let y := fty t
  .next (finishLanes s (fpWidth y) d k (fun i =>
    (fpFma y r (tagOf s i) (fpLane y (readV s a) i) (fpSrcLane s y b i) (fpLane y (readV s c) i)).setWidth
      (fpWidth y)))

/-- vfmin (R133). -/
def execVfmin (t : Option FpTy) (d a : VReg) (b : VSrc) (k : MaskSel) (s : State) : Res :=
  laneFps s (fty t) d a b k (fun _ => fpMin (fty t))

/-- vfmax (R133). -/
def execVfmax (t : Option FpTy) (d a : VReg) (b : VSrc) (k : MaskSel) (s : State) : Res :=
  laneFps s (fty t) d a b k (fun _ => fpMax (fty t))

/-- vfsqrt (R133). -/
def execVfsqrt (t : Option FpTy) (r : Rnd) (d a : VReg) (k : MaskSel) (s : State) : Res :=
  laneFps s (fty t) d a (.v a) k (fun tag x _ => fpSqrt (fty t) r tag x)

/-- vfexp2 (R134). -/
def execVfexp2 (t : Option FpTy) (r : Rnd) (d a : VReg) (k : MaskSel) (s : State) : Res :=
  laneFps s (fty t) d a (.v a) k (fun _ x _ => fpExp2 (fty t) r x)

/-- vfcmp (R131). -/
def execVfcmp (t : Option FpTy) (c : FCond) (d : MReg) (a : VReg) (b : VSrc) (k : MaskSel) (s : State) : Res :=
  let y := fty t
  .next (finishM s d (maskedBits (laneCount (fpWidth y)) (maskVal s k.mask) k.z (readM s d) (fun i =>
    fcondHolds y c (fpLane y (readV s a) i) (fpSrcLane s y b i))))

/-- One lane converted (R110, R135). -/
def cvtLane (dt st : LaneTy) (r : Rnd) (x : BitVec (laneWidth st)) : BitVec (laneWidth dt) :=
  match dt, st with
  | .int _, .int t => BitVec.ofInt _ (readInt (laneIntSigned t) x)
  | .int d, .fp t => BitVec.ofInt _ (fpToInt (laneIntSigned d) (laneIntWidth d) t r (x.setWidth 32))
  | .fp d, .int t => (intToFp d r (readInt (laneIntSigned t) x)).setWidth _
  | .fp d, .fp t => (fpToFp d t r (x.setWidth 32)).setWidth _

/-- The lanes of a converted register: widening reads part P, narrowing writes part P and keeps the rest (R135). -/
def cvtLanes (dt st : LaneTy) (r : Rnd) (part : Nat) (k : Option MaskWord) (z : Bool) (src old : VecWord) :
    VecWord :=
  let wd := laneWidth dt
  let ws := laneWidth st
  let l := laneCount (max ws wd)
  ofLanes wd (fun i =>
    if ws < wd then
      maskedLane (laneActive k i) z (lane wd old i) (cvtLane dt st r (lane ws src (part * l + i)))
    else if part * l ≤ i ∧ i < part * l + l then
      maskedLane (laneActive k i) z (lane wd old i) (cvtLane dt st r (lane ws src (i - part * l)))
    else lane wd old i)

/-- vcvt (R135). -/
def execVcvt (dt st : LaneTy) (r : Rnd) (part : Fin 4) (d a : VReg) (k : MaskSel) (s : State) : Res :=
  .next (finishV s d (cvtLanes dt st r part.val (maskVal s k.mask) k.z (readV s a) (readV s d)))

/-- The bytes of a block in a register (R136). -/
def blockBytes : BxTy → Nat
  | .bx8 => 32
  | .bx4 => 16

/-- The low bit of the exponent pair of a block in its g register (R136). -/
def pairBit (blk : Fin 8) : Nat := 16 * (blk.val % 4)

/-- The 32 FP32 lanes of a register. -/
def fpLanes (v : VecWord) : List FpBits := (List.range 32).map (fun i => lane 32 v i)

/-- vpkbx: the block, its exponent pair and the running trailer state (R138). -/
def execVpkbx (f : BxTy) (d a : VReg) (b : GReg) (c : VReg) (sp : Fin 16) (blk : Fin 8) (s : State) : Res :=
  let p := bxPack f sp.val (fpLanes (readV s a))
  let t := trailerAdd f (trailerOf ((readV s c).toNat % 2 ^ 256)) p
  let vd := setVecBytes (readV s d) (blockBytes f * blk.val) (bxBytes f (p.elems.map BxElem.bits))
  let vc := setVecBytes (readV s c) 0 (bytesOf (trailerBits t) 32)
  let gb := putBits (readG s b) (pairBit blk + 15) (pairBit blk) (p.e1 * 256 + p.e0)
  .next (advance (writeG (writeV (writeV s d vd) c vc) b gb))

/-- vunbx (R139). -/
def execVunbx (f : BxTy) (d a : VReg) (b : GReg) (blk : Fin 8) (k : MaskSel) (s : State) : Res :=
  let bs := vecBytes (readV s a) (blockBytes f * blk.val) (blockBytes f)
  let e0 := bitsOf (readG s b) (pairBit blk + 7) (pairBit blk)
  let e1 := bitsOf (readG s b) (pairBit blk + 15) (pairBit blk + 8)
  .next (finishLanes s 32 d k (fun i => bxUnpack f (tagOf s i) e0 e1 (bxElement f bs i)))

/-- vtrl (R140). -/
def execVtrl (d a : VReg) (s : State) : Res :=
  .next (finishV s d (BitVec.ofNat 1024 (trailerBits (trailerFinal (trailerOf ((readV s a).toNat % 2 ^ 256))))))

end Sys2Proof.Machine
end

