-- ==== Sys2Proof/Machine/VectorInt.lean ====
section
/-! DEFINITION. Vector integer instructions, comparisons and masks (06 R128-R132). -/

namespace Sys2Proof.Machine

/-- An integer lane operation of v[A] and the B operand under a mask; `f` sees the values (R122, R128). -/
def laneInts (s : State) (t : LaneInt) (d a : VReg) (b : VSrc) (k : MaskSel) (f : Int → Int → Int) : Res :=
  let n := laneIntWidth t
  let sg := laneIntSigned t
  .next (finishLanes s n d k (fun i =>
    BitVec.ofInt n (f (readInt sg (lane n (readV s a) i)) (readInt sg (srcLane s n b i)))))

/-- A bitwise lane operation (R130). -/
def laneBitwise (s : State) (t : LaneInt) (d a : VReg) (b : VSrc) (k : MaskSel)
    (f : (n : Nat) → BitVec n → BitVec n → BitVec n) : Res :=
  let n := laneIntWidth t
  .next (finishLanes s n d k (fun i => f n (lane n (readV s a) i) (srcLane s n b i)))

/-- A lane shift (R130). -/
def laneShift (s : State) (t : LaneInt) (d a : VReg) (b : VSrc) (k : MaskSel)
    (f : (n : Nat) → BitVec n → Nat → BitVec n) : Res :=
  let n := laneIntWidth t
  .next (finishLanes s n d k (fun i => f n (lane n (readV s a) i) (shiftCount s n b i)))

/-- vadd (R128). -/
def execVadd (t : Option LaneInt) (d a : VReg) (b : VSrc) (k : MaskSel) (s : State) : Res :=
  laneInts s (vity t) d a b k (· + ·)

/-- vsub (R128). -/
def execVsub (t : Option LaneInt) (d a : VReg) (b : VSrc) (k : MaskSel) (s : State) : Res :=
  laneInts s (vity t) d a b k (· - ·)

/-- vmin (R128). -/
def execVmin (t : Option LaneInt) (d a : VReg) (b : VSrc) (k : MaskSel) (s : State) : Res :=
  laneInts s (vity t) d a b k min

/-- vmax (R128). -/
def execVmax (t : Option LaneInt) (d a : VReg) (b : VSrc) (k : MaskSel) (s : State) : Res :=
  laneInts s (vity t) d a b k max

/-- vabs: an unsigned value is its own (R128). -/
def execVabs (t : Option LaneInt) (d a : VReg) (k : MaskSel) (s : State) : Res :=
  laneInts s (vity t) d a (.v a) k (fun x _ => (x.natAbs : Int))

/-- vadds, clamped to the type (R128). -/
def execVadds (t : Option LaneInt) (d a : VReg) (b : VSrc) (k : MaskSel) (s : State) : Res :=
  laneInts s (vity t) d a b k (fun x y =>
    clampInt (laneIntSigned (vity t)) (laneIntWidth (vity t)) (x + y))

/-- vsubs, clamped to the type (R128). -/
def execVsubs (t : Option LaneInt) (d a : VReg) (b : VSrc) (k : MaskSel) (s : State) : Res :=
  laneInts s (vity t) d a b k (fun x y =>
    clampInt (laneIntSigned (vity t)) (laneIntWidth (vity t)) (x - y))

/-- vmul (R129). -/
def execVmul (t : Option LaneInt) (d a : VReg) (b : VSrc) (k : MaskSel) (s : State) : Res :=
  laneInts s (vity t) d a b k (· * ·)

/-- vmulh (R129). -/
def execVmulh (t : Option LaneInt) (d a : VReg) (b : VSrc) (k : MaskSel) (s : State) : Res :=
  laneInts s (vity t) d a b k (fun x y => x * y / 2 ^ laneIntWidth (vity t))

/-- vmadd (R129). -/
def execVmadd (t : Option LaneInt) (d a : VReg) (b : VSrc) (c : VReg) (k : MaskSel) (s : State) : Res :=
  let n := laneIntWidth (vity t)
  let sg := laneIntSigned (vity t)
  .next (finishLanes s n d k (fun i => BitVec.ofInt n
    (readInt sg (lane n (readV s a) i) * readInt sg (srcLane s n b i) + readInt sg (lane n (readV s c) i))))

/-- The sum of the four byte products of one 32-bit lane (R129). -/
def dotSum (sg : Bool) (x y : BitVec 32) : Int :=
  let p (j : Nat) : Int := readInt sg (x.extractLsb' (8 * j) 8) * readInt sg (y.extractLsb' (8 * j) 8)
  p 0 + p 1 + p 2 + p 3

/-- vdot4: 32-bit lanes, D read and written (R129). -/
def execVdot4 (t : Option DotTy) (d a : VReg) (b : VSrc) (k : MaskSel) (s : State) : Res :=
  let sg : Bool := match t with
    | some .n8 => false
    | _ => true
  .next (finishLanes s 32 d k (fun i =>
    lane 32 (readV s d) i + BitVec.ofInt 32 (dotSum sg (lane 32 (readV s a) i) (srcLane s 32 b i))))

/-- vand (R130). -/
def execVand (t : Option LaneInt) (d a : VReg) (b : VSrc) (k : MaskSel) (s : State) : Res :=
  laneBitwise s (vity t) d a b k (fun _ x y => x &&& y)

/-- vor (R130). -/
def execVor (t : Option LaneInt) (d a : VReg) (b : VSrc) (k : MaskSel) (s : State) : Res :=
  laneBitwise s (vity t) d a b k (fun _ x y => x ||| y)

/-- vxor (R130). -/
def execVxor (t : Option LaneInt) (d a : VReg) (b : VSrc) (k : MaskSel) (s : State) : Res :=
  laneBitwise s (vity t) d a b k (fun _ x y => x ^^^ y)

/-- vshl (R130). -/
def execVshl (t : Option LaneInt) (d a : VReg) (b : VSrc) (k : MaskSel) (s : State) : Res :=
  laneShift s (vbty t) d a b k (fun _ => shlBits)

/-- vshr (R130). -/
def execVshr (t : Option LaneInt) (d a : VReg) (b : VSrc) (k : MaskSel) (s : State) : Res :=
  laneShift s (vbty t) d a b k (fun _ => shrBits)

/-- vsar (R130). -/
def execVsar (t : Option LaneInt) (d a : VReg) (b : VSrc) (k : MaskSel) (s : State) : Res :=
  laneShift s (vbty t) d a b k (fun _ => sarBits)

/-- vcmp (R131). -/
def execVcmp (t : Option LaneInt) (c : Cond) (d : MReg) (a : VReg) (b : VSrc) (k : MaskSel) (s : State) : Res :=
  let n := laneIntWidth (vity t)
  let sg := laneIntSigned (vity t)
  .next (finishM s d (maskedBits (laneCount n) (maskVal s k.mask) k.z (readM s d) (fun i =>
    condHolds c (readInt sg (lane n (readV s a) i)) (readInt sg (srcLane s n b i)))))

/-- vsel: the mask is the selector (R132). -/
def execVsel (t : Option LaneTy) (d a : VReg) (b : VSrc) (m : MReg) (s : State) : Res :=
  let n := laneWidth (vlty t)
  .next (finishV s d (ofLanes n (fun i =>
    if (readM s m).getLsbD i then lane n (readV s a) i else srcLane s n b i)))

/-- A mask, inverted when its negate bit is set (R132). -/
def maskIn (s : State) (r : MReg) (neg : Bool) : MaskWord := if neg then ~~~(readM s r) else readM s r

/-- mand (R132). -/
def execMand (d a b : MReg) (na nb : Bool) (s : State) : Res :=
  .next (finishM s d (maskIn s a na &&& maskIn s b nb))

/-- mor (R132). -/
def execMor (d a b : MReg) (na nb : Bool) (s : State) : Res :=
  .next (finishM s d (maskIn s a na ||| maskIn s b nb))

/-- mxor (R132). -/
def execMxor (d a b : MReg) (na nb : Bool) (s : State) : Res :=
  .next (finishM s d (maskIn s a na ^^^ maskIn s b nb))

/-- mpop (R132). -/
def execMpop (t : Option LaneInt) (d : GReg) (a : MReg) (s : State) : Res :=
  .next (finishG s d (BitVec.ofNat 64 (popCount (readM s a) (laneCount (laneIntWidth (vity t))))))

end Sys2Proof.Machine
end

