-- ==== Sys2Proof/Machine/VectorMem.lean ====
section
/-! DEFINITION. Vector memory instructions (06 R145-R149). -/

namespace Sys2Proof.Machine

/-- The bytes of a lane (R145). -/
def vsizeBytes : VSize → Nat
  | .b1 => 1
  | .b2 => 2
  | .b4 => 4

/-- How a vector memory instruction forms its lane addresses (R146). -/
inductive LaneMode where
  | unit
  | strided (stride : Word)
  | indexed (ix : VecWord)
deriving DecidableEq, Repr

/-- The address of lane i (R146). -/
def laneAddr (m : LaneMode) (e : Word) (n i : Nat) : Word :=
  match m with
  | .unit => e + BitVec.ofNat 64 (i * n)
  | .strided st => e + BitVec.ofNat 64 i * st
  | .indexed ix => e + BitVec.ofNat 64 ((lane (8 * n) ix i).toNat * n)

/-- The active lanes in increasing order. -/
def activeLanes (n : Nat) (k : Option MaskWord) : List Nat :=
  (List.range (128 / n)).filter (laneActive k)

/-- The addresses of the bytes of lanes, in lane order and within a lane in address order (R148). -/
def laneAddrs (m : LaneMode) (e : Word) (n : Nat) (ls : List Nat) : List Word :=
  ls.flatMap (fun i => addrsFrom (laneAddr m e n i) n)

/-- The lowest of the addresses, where the access begins. -/
def firstAddr (as : List Word) : Word :=
  as.foldl (fun x y => if y.toNat < x.toNat then y else x) (as.headD 0)

/-- Bytes taken n at a time for the lanes, written over a register's lanes. -/
def scatterLanes (n : Nat) (v : VecWord) : List Nat → List Byte → VecWord
  | i :: ls, bs => scatterLanes n (setVecBytes v (i * n) (bs.take n)) ls (bs.drop n)
  | [], _ => v

/-- A vector load (R146-R149): active lanes loaded, inactive ones under R124. -/
def vectorLoad (opc : BitVec 12) (sz : VSize) (d : VReg) (m : MemOp) (mode : LaneMode) (k : MaskSel) (s : State) :
    Res :=
  let n := vsizeBytes sz
  let ls := activeLanes n (maskVal s k.mask)
  let as := laneAddrs mode (effAddr s m) n ls
  match loadBytes s (loadAccess opc) (firstAddr as) as with
  | .wait w => .next w
  | .trap t e => .next (takeInfo t e)
  | .done s' bs => .next (finishV s' d (scatterLanes n (if k.z then 0 else readV s d) ls bs))

/-- A vector store (R146-R149): lanes in increasing order, so a higher lane remains (R148). -/
def vectorStore (opc : BitVec 12) (sz : VSize) (d : VReg) (m : MemOp) (mode : LaneMode) (k : Option MReg)
    (s : State) : Res :=
  let n := vsizeBytes sz
  let ls := activeLanes n (maskVal s k)
  let as := laneAddrs mode (effAddr s m) n ls
  let bs := ls.flatMap (fun i => vecBytes (readV s d) (i * n) n)
  match storeBytes s (storeAccess opc) (firstAddr as) as bs with
  | .wait w => .next w
  | .trap t e => .next (takeInfo t e)
  | .done s' => .next (advance s')

/-- vld (R146). -/
def execVld (sz : VSize) (_o : MemOrder) (d : VReg) (m : MemOp) (k : MaskSel) (s : State) : Res :=
  vectorLoad 0x4E0 sz d m .unit k s

/-- vst (R146). -/
def execVst (sz : VSize) (_o : MemOrder) (d : VReg) (m : MemOp) (k : Option MReg) (s : State) : Res :=
  vectorStore 0x4E2 sz d m .unit k s

/-- vlds: the stride is g[B] (R146). -/
def execVlds (sz : VSize) (_o : MemOrder) (d : VReg) (m : MemOp) (k : MaskSel) (s : State) : Res :=
  vectorLoad 0x4E4 sz d m (.strided (readG s m.b)) k s

/-- vsts (R146). -/
def execVsts (sz : VSize) (_o : MemOrder) (d : VReg) (m : MemOp) (k : Option MReg) (s : State) : Res :=
  vectorStore 0x4E6 sz d m (.strided (readG s m.b)) k s

/-- vldx: the index lies in v[D + 1] (R146). -/
def execVldx (sz : VSize) (_o : MemOrder) (d : VReg) (m : MemOp) (k : MaskSel) (s : State) : Res :=
  vectorLoad 0x4E8 sz d m (.indexed (readV s (regAt d 1))) k s

/-- vstx (R146). -/
def execVstx (sz : VSize) (_o : MemOrder) (d : VReg) (m : MemOp) (k : Option MReg) (s : State) : Res :=
  vectorStore 0x4EA sz d m (.indexed (readV s (regAt d 1))) k s

end Sys2Proof.Machine
end

