-- ==== Sys2Proof/Machine/VectorPerm.lean ====
section
/-! DEFINITION. Permutation, reduction and geometry (06 R141-R144, R150, R151). -/

namespace Sys2Proof.Machine

/-- vbcast (R141). -/
def execVbcast (t : Option LaneTy) (d : VReg) (a : GReg) (k : MaskSel) (s : State) : Res :=
  let n := laneWidth (vlty t)
  .next (finishLanes s n d k (fun _ => (readG s a).setWidth n))

/-- vbcast with an immediate: 32 lanes, unmasked (R141). -/
def execVbcastImm (d : VReg) (imm : BitVec 56) (s : State) : Res :=
  .next (finishV s d (ofLanes 32 (fun _ => imm.setWidth 32)))

/-- vperm (R142). -/
def execVperm (t : Option LaneTy) (d a b : VReg) (k : MaskSel) (s : State) : Res :=
  let n := laneWidth (vlty t)
  .next (finishLanes s n d k (fun i => lane n (readV s a) ((lane n (readV s b) i).toNat % laneCount n)))

/-- vslide (R142). -/
def execVslide (t : Option LaneTy) (d a : VReg) (b : GReg) (k : MaskSel) (s : State) : Res :=
  let n := laneWidth (vlty t)
  .next (finishLanes s n d k (fun i =>
    let j := (i : Int) + (readG s b).toInt
    if 0 ≤ j ∧ j < laneCount n then lane n (readV s a) j.toNat else 0))

/-- The lanes that enter a reduction, an inactive one as the identity (R143). -/
def redLanes {α : Type} (k : Option MaskWord) (l : Nat) (idn : α) (f : Nat → α) : List α :=
  (List.range l).map (fun i => if laneActive k i then f i else idn)

/-- One level of the tree; the node above values i and i + 1 of stride w stands over lane i·w (R143). -/
def treeLevel {α : Type} (op : Nat → α → α → α) (w : Nat) (i : Nat) : List α → List α
  | x :: y :: t => op (i * w) x y :: treeLevel op w (i + 2) t
  | l => l

/-- The fixed tree over k levels (R143). -/
def treeReduce {α : Type} (op : Nat → α → α → α) (w : Nat) (l : List α) : Nat → List α
  | 0 => l
  | k + 1 => treeReduce op (2 * w) (treeLevel op w 0 l) k

/-- The integer reduction of values (R143). -/
def redInt (t : LaneInt) (op : RedOp) (k : Option MaskWord) (v : VecWord) : Word :=
  let n := laneIntWidth t
  let sg := laneIntSigned t
  let ints (idn : Int) := redLanes k (laneCount n) idn (fun i => readInt sg (lane n v i))
  let bits (idn : BitVec n) := redLanes k (laneCount n) idn (fun i => lane n v i)
  match op with
  | .min => extend sg (BitVec.ofInt n ((ints (maxInt sg n)).foldl min (maxInt sg n)))
  | .max => extend sg (BitVec.ofInt n ((ints (minInt sg n)).foldl max (minInt sg n)))
  | .and => extend sg ((bits (BitVec.allOnes n)).foldl (· &&& ·) (BitVec.allOnes n))
  | .or => extend sg ((bits 0).foldl (· ||| ·) 0)
  | .xor => extend sg ((bits 0).foldl (· ^^^ ·) 0)
  | _ => BitVec.ofInt 64 ((ints 0).foldl (· + ·) 0)

/-- The floating-point reduction: -0, +infinity or -infinity for an inactive lane (R143). -/
def redFp (t : FpTy) (r : Rnd) (op : RedOp) (tag : Nat → BitVec 22) (k : Option MaskWord) (v : VecWord) : Word :=
  let idn : FpBits := match op with
    | .fmin => fpMake t false (infMag t)
    | .fmax => fpMake t true (infMag t)
    | _ => fpMake t true 0
  let node (i : Nat) (x y : FpBits) : FpBits := match op with
    | .fmin => fpMin t x y
    | .fmax => fpMax t x y
    | _ => fpAdd t r (tag i) x y
  let l := redLanes k (laneCount (fpWidth t)) idn (fpLane t v)
  fpOut t ((treeReduce node 1 l (Nat.log2 (laneCount (fpWidth t)))).headD idn)

/-- vred (R143). -/
def execVred (t : Option LaneTy) (r : Rnd) (op : RedOp) (d : GReg) (a : VReg) (m : Option MReg) (s : State) : Res :=
  .next (finishG s d (match vlty t with
    | .int y => redInt y op (maskVal s m) (readV s a)
    | .fp y => redFp y r op (tagOf s) (maskVal s m) (readV s a)))

/-- vins (R144). -/
def execVins (t : Option LaneTy) (d : VReg) (a b : GReg) (s : State) : Res :=
  let n := laneWidth (vlty t)
  .next (finishV s d (ofLanes n (fun i =>
    if i = readN s b % laneCount n then (readG s a).setWidth n else lane n (readV s d) i)))

/-- vext (R144). -/
def execVext (t : Option LaneTy) (d : GReg) (a : VReg) (b : GReg) (s : State) : Res :=
  let n := laneWidth (vlty t)
  let x := lane n (readV s a) (readN s b % laneCount n)
  .next (finishG s d (match vlty t with
    | .int y => extend (laneIntSigned y) x
    | .fp _ => x.setWidth 64))

/-- int32 lane i of a register. -/
def intLane (v : VecWord) (i : Nat) : Int := (lane 32 v i).toInt

/-- One output coordinate of vrigid: row r of the transform over the point x, y, z (R150). -/
def rigidRow (tf : VecWord) (r : Nat) (x y z : Int) : BitVec 32 :=
  let e := intLane tf (3 * r) * x + intLane tf (3 * r + 1) * y + intLane tf (3 * r + 2) * z +
    intLane tf (9 + r) * 2 ^ 29
  BitVec.ofInt 32 (clampInt true 32 (divNearestEven e (2 ^ 29)))

/-- vrigid: every source is read before D to D + 2 are written (R150). -/
def execVrigid (_typed : Bool) (d a b : VReg) (k : MaskSel) (s : State) : Res :=
  let px := readV s a
  let py := readV s (regAt a 1)
  let pz := readV s (regAt a 2)
  let tf := readV s b
  let out (j : Nat) : VecWord := maskedLanes 32 (maskVal s k.mask) k.z (readV s (regAt d j)) (fun i =>
    rigidRow tf j (intLane px i) (intLane py i) (intLane pz i))
  .next (advance (writeV (writeV (writeV s d (out 0)) (regAt d 1) (out 1)) (regAt d 2) (out 2)))

/-- The squared distance of a point from the reference, clamped to 2^64 - 1 (R151). -/
def distSquared (r : VecWord) (x y z : Int) : Nat :=
  let dx := x - intLane r 0
  let dy := y - intLane r 1
  let dz := z - intLane r 2
  min (dx * dx + dy * dy + dz * dz).toNat (2 ^ 64 - 1)

/-- vdist2: the word pair of point i lies in lanes 2(i mod 16) and the next of v[D + i / 16] (R151). -/
def execVdist2 (_typed : Bool) (d a b : VReg) (k : MaskSel) (s : State) : Res :=
  let px := readV s a
  let py := readV s (regAt a 1)
  let pz := readV s (regAt a 2)
  let rf := readV s b
  let out (j : Nat) : VecWord := ofLanes 32 (fun l =>
    let i := 16 * j + l / 2
    let q := distSquared rf (intLane px i) (intLane py i) (intLane pz i)
    maskedLane (laneActive (maskVal s k.mask) i) k.z (lane 32 (readV s (regAt d j)) l)
      (BitVec.ofNat 32 (if l % 2 = 0 then q else q / 2 ^ 32)))
  .next (advance (writeV (writeV s d (out 0)) (regAt d 1) (out 1)))

end Sys2Proof.Machine
end

