-- ==== Sys2Proof/Machine/Dispatch.lean ====
section
/-! DEFINITION. The meaning of each instruction and step: one arm per constructor, one meaning per arm. -/

namespace Sys2Proof.Machine

/-- What an instruction or a step of the hardware does. -/
def exec (i : Instr) (s : State) : Host.Outcome State Fault Refusal :=
  match i with
  | .add t d a b => Sys2Proof.Machine.execAdd t d a b s
  | .addImm d a imm => Sys2Proof.Machine.execAddImm d a imm s
  | .sub t d a b => Sys2Proof.Machine.execSub t d a b s
  | .subImm d a imm => Sys2Proof.Machine.execSubImm d a imm s
  | .and t d a b => Sys2Proof.Machine.execAnd t d a b s
  | .andImm d a imm => Sys2Proof.Machine.execAndImm d a imm s
  | .or t d a b => Sys2Proof.Machine.execOr t d a b s
  | .orImm d a imm => Sys2Proof.Machine.execOrImm d a imm s
  | .xor t d a b => Sys2Proof.Machine.execXor t d a b s
  | .xorImm d a imm => Sys2Proof.Machine.execXorImm d a imm s
  | .andn t d a b => Sys2Proof.Machine.execAndn t d a b s
  | .andnImm d a imm => Sys2Proof.Machine.execAndnImm d a imm s
  | .min t d a b => Sys2Proof.Machine.execMin t d a b s
  | .minImm d a imm => Sys2Proof.Machine.execMinImm d a imm s
  | .max t d a b => Sys2Proof.Machine.execMax t d a b s
  | .maxImm d a imm => Sys2Proof.Machine.execMaxImm d a imm s
  | .sel d a b p => Sys2Proof.Machine.execSel d a b p s
  | .lea d a b sh disp => Sys2Proof.Machine.execLea d a b sh disp s
  | .mul t d a b => Sys2Proof.Machine.execMul t d a b s
  | .mulImm d a imm => Sys2Proof.Machine.execMulImm d a imm s
  | .mulh t d a b => Sys2Proof.Machine.execMulh t d a b s
  | .div t d a b => Sys2Proof.Machine.execDiv t d a b s
  | .rem t d a b => Sys2Proof.Machine.execRem t d a b s
  | .madd t d a b c => Sys2Proof.Machine.execMadd t d a b c s
  | .shl t d a b => Sys2Proof.Machine.execShl t d a b s
  | .shlImm d a imm => Sys2Proof.Machine.execShlImm d a imm s
  | .shr t d a b => Sys2Proof.Machine.execShr t d a b s
  | .shrImm d a imm => Sys2Proof.Machine.execShrImm d a imm s
  | .sar t d a b => Sys2Proof.Machine.execSar t d a b s
  | .sarImm d a imm => Sys2Proof.Machine.execSarImm d a imm s
  | .rotl t d a b => Sys2Proof.Machine.execRotl t d a b s
  | .rotlImm d a imm => Sys2Proof.Machine.execRotlImm d a imm s
  | .clz t d a => Sys2Proof.Machine.execClz t d a s
  | .ctz t d a => Sys2Proof.Machine.execCtz t d a s
  | .popc t d a => Sys2Proof.Machine.execPopc t d a s
  | .bext t d a pos len1 => Sys2Proof.Machine.execBext t d a pos len1 s
  | .bins d a pos len1 => Sys2Proof.Machine.execBins d a pos len1 s
  | .bswap t d a => Sys2Proof.Machine.execBswap t d a s
  | .cmp t c d a b => Sys2Proof.Machine.execCmp t c d a b s
  | .pand d a b na nb => Sys2Proof.Machine.execPand d a b na nb s
  | .por d a b na nb => Sys2Proof.Machine.execPor d a b na nb s
  | .pxor d a b na nb => Sys2Proof.Machine.execPxor d a b na nb s
  | .pmov f => Sys2Proof.Machine.execPmov f s
  | .fadd t r d a b => Sys2Proof.Machine.execFadd t r d a b s
  | .fsub t r d a b => Sys2Proof.Machine.execFsub t r d a b s
  | .fmul t r d a b => Sys2Proof.Machine.execFmul t r d a b s
  | .fma t r d a b c => Sys2Proof.Machine.execFma t r d a b c s
  | .fdiv t r d a b => Sys2Proof.Machine.execFdiv t r d a b s
  | .fsqrt t r d a => Sys2Proof.Machine.execFsqrt t r d a s
  | .fmin t d a b => Sys2Proof.Machine.execFmin t d a b s
  | .fmax t d a b => Sys2Proof.Machine.execFmax t d a b s
  | .fcmp t c d a b => Sys2Proof.Machine.execFcmp t c d a b s
  | .fcls t d a => Sys2Proof.Machine.execFcls t d a s
  | .cvt dt st r d a => Sys2Proof.Machine.execCvt dt st r d a s
  | .fround t r d a => Sys2Proof.Machine.execFround t r d a s
  | .mov t d a => Sys2Proof.Machine.execMov t d a s
  | .movImm d imm => Sys2Proof.Machine.execMovImm d imm s
  | .mfs d r => Sys2Proof.Machine.execMfs d r s
  | .mts r a => Sys2Proof.Machine.execMts r a s
  | .mtsSspill a => Sys2Proof.Machine.execMtsSspill a s
  | .mtsScarve a => Sys2Proof.Machine.execMtsScarve a s
  | .mtsSvgroup a => Sys2Proof.Machine.execMtsSvgroup a s
  | .mtsSdomain a => Sys2Proof.Machine.execMtsSdomain a s
  | .br imm => Sys2Proof.Machine.execBr imm s
  | .jmp a => Sys2Proof.Machine.execJmp a s
  | .call a => Sys2Proof.Machine.execCall a s
  | .callImm imm => Sys2Proof.Machine.execCallImm imm s
  | .ret a => Sys2Proof.Machine.execRet a s
  | .loop d imm => Sys2Proof.Machine.execLoop d imm s
  | .endAct => Sys2Proof.Machine.execEndAct s
  | .nop => Sys2Proof.Machine.execNop s
  | .ld sz ord sign d m => Sys2Proof.Machine.execLd sz ord sign d m s
  | .st sz ord d m => Sys2Proof.Machine.execSt sz ord d m s
  | .pref intent m => Sys2Proof.Machine.execPref intent m s
  | .stx sz d m => Sys2Proof.Machine.execStx sz d m s
  | .cwb sc n1 m => Sys2Proof.Machine.execCwb sc n1 m s
  | .cinv sc n1 m => Sys2Proof.Machine.execCinv sc n1 m s
  | .amo sz sc sign op o d m => Sys2Proof.Machine.execAmo sz sc sign op o d m s
  | .cas sz sc sign o d m => Sys2Proof.Machine.execCas sz sc sign o d m s
  | .fence o sc => Sys2Proof.Machine.execFence o sc s
  | .bset d a b => Sys2Proof.Machine.execBset d a b s
  | .barr d b => Sys2Proof.Machine.execBarr d b s
  | .bwait a b => Sys2Proof.Machine.execBwait a b s
  | .bsync b => Sys2Proof.Machine.execBsync b s
  | .bxch b => Sys2Proof.Machine.execBxch b s
  | .spawn a => Sys2Proof.Machine.execSpawn a s
  | .send a b => Sys2Proof.Machine.execSend a b s
  | .arm d a b => Sys2Proof.Machine.execArm d a b s
  | .join a => Sys2Proof.Machine.execJoin a s
  | .chset a ch => Sys2Proof.Machine.execChset a ch s
  | .chmsk d a op => Sys2Proof.Machine.execChmsk d a op s
  | .trap code => Sys2Proof.Machine.execTrap code s
  | .tret => Sys2Proof.Machine.execTret s
  | .twait d a => Sys2Proof.Machine.execTwait d a s
  | .tabort => Sys2Proof.Machine.execTabort s
  | .fpostPost a k => Sys2Proof.Machine.execFpostPost a k s
  | .fpostServe a b fail => Sys2Proof.Machine.execFpostServe a b fail s
  | .tlbinv e => Sys2Proof.Machine.execTlbinv e s
  | .shand d a => Sys2Proof.Machine.execShand d a s
  | .shandQuery d => Sys2Proof.Machine.execShandQuery d s
  | .pnew d a b sp => Sys2Proof.Machine.execPnew d a b sp s
  | .pdel a => Sys2Proof.Machine.execPdel a s
  | .pset d a b => Sys2Proof.Machine.execPset d a b s
  | .pld d a w => Sys2Proof.Machine.execPld d a w s
  | .pstw d a w => Sys2Proof.Machine.execPstw d a w s
  | .pqbox d a b sp => Sys2Proof.Machine.execPqbox d a b sp s
  | .pqrad d a b sp => Sys2Proof.Machine.execPqrad d a b sp s
  | .pqwait d a => Sys2Proof.Machine.execPqwait d a s
  | .pres d a => Sys2Proof.Machine.execPres d a s
  | .pmap d a sp => Sys2Proof.Machine.execPmap d a sp s
  | .pspcDefine d a sp => Sys2Proof.Machine.execPspcDefine d a sp s
  | .pspcDelete d a sp => Sys2Proof.Machine.execPspcDelete d a sp s
  | .cpy d a out ch => Sys2Proof.Machine.execCpy d a out ch s
  | .cpwp d ch => Sys2Proof.Machine.execCpwp d ch s
  | .cpwait d a ch => Sys2Proof.Machine.execCpwait d a ch s
  | .tgive a n1 e => Sys2Proof.Machine.execTgive a n1 e s
  | .ttake a n1 => Sys2Proof.Machine.execTtake a n1 s
  | .mxq d a => Sys2Proof.Machine.execMxq d a s
  | .mxwait a => Sys2Proof.Machine.execMxwait a s
  | .shdef d a b => Sys2Proof.Machine.execShdef d a b s
  | .shkill a => Sys2Proof.Machine.execShkill a s
  | .vadd t d a b k => Sys2Proof.Machine.execVadd t d a b k s
  | .vsub t d a b k => Sys2Proof.Machine.execVsub t d a b k s
  | .vmin t d a b k => Sys2Proof.Machine.execVmin t d a b k s
  | .vmax t d a b k => Sys2Proof.Machine.execVmax t d a b k s
  | .vabs t d a k => Sys2Proof.Machine.execVabs t d a k s
  | .vadds t d a b k => Sys2Proof.Machine.execVadds t d a b k s
  | .vsubs t d a b k => Sys2Proof.Machine.execVsubs t d a b k s
  | .vmul t d a b k => Sys2Proof.Machine.execVmul t d a b k s
  | .vmulh t d a b k => Sys2Proof.Machine.execVmulh t d a b k s
  | .vmadd t d a b c k => Sys2Proof.Machine.execVmadd t d a b c k s
  | .vdot4 t d a b k => Sys2Proof.Machine.execVdot4 t d a b k s
  | .vand t d a b k => Sys2Proof.Machine.execVand t d a b k s
  | .vor t d a b k => Sys2Proof.Machine.execVor t d a b k s
  | .vxor t d a b k => Sys2Proof.Machine.execVxor t d a b k s
  | .vshl t d a b k => Sys2Proof.Machine.execVshl t d a b k s
  | .vshr t d a b k => Sys2Proof.Machine.execVshr t d a b k s
  | .vsar t d a b k => Sys2Proof.Machine.execVsar t d a b k s
  | .vcmp t c d a b k => Sys2Proof.Machine.execVcmp t c d a b k s
  | .vsel t d a b m => Sys2Proof.Machine.execVsel t d a b m s
  | .mand d a b na nb => Sys2Proof.Machine.execMand d a b na nb s
  | .mor d a b na nb => Sys2Proof.Machine.execMor d a b na nb s
  | .mxor d a b na nb => Sys2Proof.Machine.execMxor d a b na nb s
  | .mpop t d a => Sys2Proof.Machine.execMpop t d a s
  | .vfadd t r d a b k => Sys2Proof.Machine.execVfadd t r d a b k s
  | .vfsub t r d a b k => Sys2Proof.Machine.execVfsub t r d a b k s
  | .vfmul t r d a b k => Sys2Proof.Machine.execVfmul t r d a b k s
  | .vffma t r d a b c k => Sys2Proof.Machine.execVffma t r d a b c k s
  | .vfmin t d a b k => Sys2Proof.Machine.execVfmin t d a b k s
  | .vfmax t d a b k => Sys2Proof.Machine.execVfmax t d a b k s
  | .vfdiv t r d a b k => Sys2Proof.Machine.execVfdiv t r d a b k s
  | .vfsqrt t r d a k => Sys2Proof.Machine.execVfsqrt t r d a k s
  | .vfexp2 t r d a k => Sys2Proof.Machine.execVfexp2 t r d a k s
  | .vfcmp t c d a b k => Sys2Proof.Machine.execVfcmp t c d a b k s
  | .vcvt dt st r part d a k => Sys2Proof.Machine.execVcvt dt st r part d a k s
  | .vpkbx f d a b c sp blk => Sys2Proof.Machine.execVpkbx f d a b c sp blk s
  | .vunbx f d a b blk k => Sys2Proof.Machine.execVunbx f d a b blk k s
  | .vtrl d a => Sys2Proof.Machine.execVtrl d a s
  | .vbcast t d a k => Sys2Proof.Machine.execVbcast t d a k s
  | .vbcastImm d imm => Sys2Proof.Machine.execVbcastImm d imm s
  | .vperm t d a b k => Sys2Proof.Machine.execVperm t d a b k s
  | .vslide t d a b k => Sys2Proof.Machine.execVslide t d a b k s
  | .vred t r op d a m => Sys2Proof.Machine.execVred t r op d a m s
  | .vins t d a b => Sys2Proof.Machine.execVins t d a b s
  | .vext t d a b => Sys2Proof.Machine.execVext t d a b s
  | .vld sz ord d m k => Sys2Proof.Machine.execVld sz ord d m k s
  | .vst sz ord d m k => Sys2Proof.Machine.execVst sz ord d m k s
  | .vlds sz ord d m k => Sys2Proof.Machine.execVlds sz ord d m k s
  | .vsts sz ord d m k => Sys2Proof.Machine.execVsts sz ord d m k s
  | .vldx sz ord d m k => Sys2Proof.Machine.execVldx sz ord d m k s
  | .vstx sz ord d m k => Sys2Proof.Machine.execVstx sz ord d m k s
  | .vrigid typed d a b k => Sys2Proof.Machine.execVrigid typed d a b k s
  | .vdist2 typed d a b k => Sys2Proof.Machine.execVdist2 typed d a b k s
  | .budget c k => Sys2Proof.Machine.execBudget c k s
  | .handlerLimit c k => Sys2Proof.Machine.execHandlerLimit c k s
  | .selection c => Sys2Proof.Machine.execSelection c s
  | .sendHandoff c k => Sys2Proof.Machine.execSendHandoff c k s
  | .stealRequest thief victim => Sys2Proof.Machine.execStealRequest thief victim s
  | .stealClaim thief => Sys2Proof.Machine.execStealClaim thief s
  | .stealEmpty thief => Sys2Proof.Machine.execStealEmpty thief s
  | .stealInstall thief => Sys2Proof.Machine.execStealInstall thief s
  | .installBufferDrain c => Sys2Proof.Machine.execInstallBufferDrain c s
  | .messageArrival m => Sys2Proof.Machine.execMessageArrival m s
  | .frameRefused sender dest chan nowhere => Sys2Proof.Machine.execFrameRefused sender dest chan nowhere s
  | .outboundRetry sender dest chan => Sys2Proof.Machine.execOutboundRetry sender dest chan s
  | .preemptRequest c ctxid => Sys2Proof.Machine.execPreemptRequest c ctxid s
  | .contextSave c held => Sys2Proof.Machine.execContextSave c held s
  | .restoreRequest c ctxid image => Sys2Proof.Machine.execRestoreRequest c ctxid image s
  | .contextRestore c => Sys2Proof.Machine.execContextRestore c s
  | .wakeArrival c part => Sys2Proof.Machine.execWakeArrival c part s
  | .launchRootStart c => Sys2Proof.Machine.execLaunchRootStart c s
  | .gets at_ from_ line => Sys2Proof.Machine.execGets at_ from_ line s
  | .getm at_ from_ line => Sys2Proof.Machine.execGetm at_ from_ line s
  | .put at_ from_ line => Sys2Proof.Machine.execPut at_ from_ line s
  | .probe n => Sys2Proof.Machine.execProbe n s
  | .probeAnswer n => Sys2Proof.Machine.execProbeAnswer n s
  | .conflictRetry n => Sys2Proof.Machine.execConflictRetry n s
  | .pageWalk c va => Sys2Proof.Machine.execPageWalk c va s
  | .pinRelease die line => Sys2Proof.Machine.execPinRelease die line s
  | .stxLanding n => Sys2Proof.Machine.execStxLanding n s
  | .barrierReport n => Sys2Proof.Machine.execBarrierReport n s
  | .cchLand c ch n u => Sys2Proof.Machine.execCchLand c ch n u s
  | .mma c u => Sys2Proof.Machine.execMma c u s
  | .mmv c u => Sys2Proof.Machine.execMmv c u s
  | .mvld c u => Sys2Proof.Machine.execMvld c u s
  | .mzero c => Sys2Proof.Machine.execMzero c s
  | .macld c u => Sys2Proof.Machine.execMacld c u s
  | .macst c u => Sys2Proof.Machine.execMacst c u s
  | .narrowEnter c => Sys2Proof.Machine.execNarrowEnter c s
  | .narrowExit c => Sys2Proof.Machine.execNarrowExit c s
  | .derefAtHome space home slot => Sys2Proof.Machine.execDerefAtHome space home slot s
  | .moveDeparture n => Sys2Proof.Machine.execMoveDeparture n s
  | .moveArrival n => Sys2Proof.Machine.execMoveArrival n s
  | .moveAck n => Sys2Proof.Machine.execMoveAck n s
  | .moveRefuse n => Sys2Proof.Machine.execMoveRefuse n s
  | .moveHomeUpdate n => Sys2Proof.Machine.execMoveHomeUpdate n s
  | .queryRequest n owner => Sys2Proof.Machine.execQueryRequest n owner s
  | .queryAnswer n owner => Sys2Proof.Machine.execQueryAnswer n owner s
  | .tombstoneFree space owner slot => Sys2Proof.Machine.execTombstoneFree space owner slot s
  | .scrimPost n => Sys2Proof.Machine.execScrimPost n s
  | .scrimPostRetry n => Sys2Proof.Machine.execScrimPostRetry n s
  | .scrimWake n => Sys2Proof.Machine.execScrimWake n s
  | .wakeDelivery n => Sys2Proof.Machine.execWakeDelivery n s
  | .handoverStage stack => Sys2Proof.Machine.execHandoverStage stack s
  | .notownerRetry n => Sys2Proof.Machine.execNotownerRetry n s
  | .flitReceive link intact => Sys2Proof.Machine.execFlitReceive link intact s
  | .lathReplay link => Sys2Proof.Machine.execLathReplay link s
  | .retrainComplete lath trained => Sys2Proof.Machine.execRetrainComplete lath trained s
  | .replayAudit link found => Sys2Proof.Machine.execReplayAudit link found s
  | .dieUnreachable d => Sys2Proof.Machine.execDieUnreachable d s
  | .fenceConfirm d => Sys2Proof.Machine.execFenceConfirm d s
  | .dieRejoin d => Sys2Proof.Machine.execDieRejoin d s
  | .rdmaWrite key addr data => Sys2Proof.Machine.execRdmaWrite key addr data s
  | .rdmaRead key addr n => Sys2Proof.Machine.execRdmaRead key addr n s
  | .launchParse slot => Sys2Proof.Machine.execLaunchParse slot s
  | .launchForward pkg slot record => Sys2Proof.Machine.execLaunchForward pkg slot record s
  | .admission part => Sys2Proof.Machine.execAdmission part s
  | .admissionRecheck part => Sys2Proof.Machine.execAdmissionRecheck part s
  | .completionDetect part => Sys2Proof.Machine.execCompletionDetect part s
  | .completionWrite part => Sys2Proof.Machine.execCompletionWrite part s
  | .completionNotice slot pkg => Sys2Proof.Machine.execCompletionNotice slot pkg s
  | .ptpMessage ns => Sys2Proof.Machine.execPtpMessage ns s
  | .powerAlarm island celsius => Sys2Proof.Machine.execPowerAlarm island celsius s
  | .alarmClear island celsius => Sys2Proof.Machine.execAlarmClear island celsius s
  | .thermalCutoff island celsius => Sys2Proof.Machine.execThermalCutoff island celsius s
  | .imageUpdate img => Sys2Proof.Machine.execImageUpdate img s
  | .controllerCheckIn => Sys2Proof.Machine.execControllerCheckIn s
  | .updateWatchdog => Sys2Proof.Machine.execUpdateWatchdog s
  | .coronaipFailover => Sys2Proof.Machine.execCoronaipFailover s
  | .patrolScrub stack => Sys2Proof.Machine.execPatrolScrub stack s
  | .powerOn b => Sys2Proof.Machine.execPowerOn b s
  | .energyCounterUpdate island microjoules => Sys2Proof.Machine.execEnergyCounterUpdate island microjoules s
  | .cxlLinkDown port => Sys2Proof.Machine.execCxlLinkDown port s
  | .versionFloorRaise t => Sys2Proof.Machine.execVersionFloorRaise t s

end Sys2Proof.Machine
end

