-- ==== Sys2Proof/WellFormed.lean ====
section
/-! DEFINITION. Which terms of Instr are instruction words: every condition that the spec puts on the operands of an
instruction beyond their types (03 R58; 05 R93; 06 R125, R126; 08 R186; 12 R246; 14 R275; 16 R322; 18 R346; 20 R370).
Steps of the hardware are no words, so they are not well formed as instructions. -/

namespace Sys2Proof

/-- A frame base names g[n] to g[n + k] within g1 to g63 (08 R186; 14 R275; 16 R322). -/
def groupOk (r : GReg) (k : Nat) : Bool := 1 ≤ r.val && r.val + k ≤ 63

/-- Z = 1 needs a mask (06 R124). -/
def maskOk (k : MaskSel) : Bool := !k.z || k.mask.isSome

/-- A field of L bits at P lies within 64 bits (05 R93). -/
def fieldOk (pos len1 : Fin 64) : Bool := pos.val + len1.val + 1 ≤ 64

/-- Rounding is the default where an instruction does not round. -/
def noRound (r : Rnd) : Bool := r = .rne

/-- Whether a numeric type is an integer type. -/
def numIsInt : NumTy → Bool
  | .int _ => true
  | .fp _ => false

/-- Whether a lane type is an integer type. -/
def laneIsInt : LaneTy → Bool
  | .int _ => true
  | .fp _ => false

/-- The width of a lane type (06 R122). -/
def laneBits : LaneTy → Nat
  | .int .i8 | .int .n8 => 8
  | .int .i16 | .int .n16 | .fp .f16 | .fp .bf16 => 16
  | .int .i32 | .int .n32 | .fp .f32 => 32

/-- The ratio of two widths, at least 1 (06 R126). -/
def widthRatio (dt st : LaneTy) : Nat := max (laneBits dt / laneBits st) (laneBits st / laneBits dt)

/-- A block number a format has (06 R126). -/
def blockOk (f : BxTy) (b : Fin 8) : Bool :=
  match f with
  | .bx8 => b.val ≤ 3
  | .bx4 => true

/-- An operation of vred listed for the type (06 R143); none is .i32. -/
def redOk (t : Option LaneTy) (op : RedOp) : Bool :=
  match op with
  | .add | .min | .max | .and | .or | .xor => match t with
    | none => true
    | some t => laneIsInt t
  | .fadd | .fmin | .fmax => match t with
    | none => false
    | some t => !laneIsInt t

/-- The registers with rows of their own in the opcode table, which `mts` does not stand for. -/
def ownMts : SReg → Bool
  | .sspill | .scarve | .svgroup | .sdomain => true
  | _ => false

/-- Whether a term is an instruction word. -/
def WellFormed : Instr → Bool
  | .lea _ _ _ _ _ => true
  | .bext _ _ _ pos len1 => fieldOk pos len1
  | .bins _ _ pos len1 => fieldOk pos len1
  | .cvt dt st r _ _ => !(numIsInt dt && numIsInt st) || noRound r
  | .mts r _ => !ownMts r
  | .cas _ _ _ _ d _ => d.val != 0 && d.val != 63
  | .spawn a => groupOk a 7
  | .send a _ => groupOk a 7
  | .arm _ _ b => groupOk b 7
  | .chset _ ch => ch.val != 30
  | .pnew _ a _ _ => groupOk a 1
  | .pset _ _ b => groupOk b 1
  | .pstw _ _ w => 2 ≤ w.val
  | .pqbox _ a _ _ => groupOk a 2
  | .pqrad _ a _ _ => groupOk a 1
  | .pmap _ a _ => groupOk a 1
  | .cpy _ a _ _ => groupOk a 3
  | .mxq _ a => groupOk a 7
  | .shdef _ a _ => groupOk a 7
  | .vadd _ _ _ _ k | .vsub _ _ _ _ k | .vmin _ _ _ _ k | .vmax _ _ _ _ k | .vabs _ _ _ k
  | .vadds _ _ _ _ k | .vsubs _ _ _ _ k | .vmul _ _ _ _ k | .vmulh _ _ _ _ k | .vmadd _ _ _ _ _ k
  | .vdot4 _ _ _ _ k | .vand _ _ _ _ k | .vor _ _ _ _ k | .vxor _ _ _ _ k | .vshl _ _ _ _ k
  | .vshr _ _ _ _ k | .vsar _ _ _ _ k | .vcmp _ _ _ _ _ k | .vfadd _ _ _ _ _ k | .vfsub _ _ _ _ _ k
  | .vfmul _ _ _ _ _ k | .vffma _ _ _ _ _ _ k | .vfmin _ _ _ _ k | .vfmax _ _ _ _ k
  | .vfdiv _ _ _ _ _ k | .vfsqrt _ _ _ _ k | .vfexp2 _ _ _ _ k | .vfcmp _ _ _ _ _ k => maskOk k
  | .vcvt dt st r part _ _ k =>
    (!(laneIsInt dt && laneIsInt st) || noRound r) && decide (part.val < widthRatio dt st) && maskOk k
  | .vpkbx f d _ _ c _ blk => blockOk f blk && decide (c ≠ d)
  | .vunbx f _ _ _ blk k => blockOk f blk && maskOk k
  | .vbcast _ _ _ k | .vperm _ _ _ _ k | .vslide _ _ _ _ k => maskOk k
  | .vred t r op _ _ _ => redOk t op && (noRound r || decide (op = .fadd))
  | .vld _ _ _ _ k | .vlds _ _ _ _ k => maskOk k
  | .vldx _ _ d _ k => d.val % 2 == 0 && maskOk k
  | .vstx _ _ d _ _ => d.val % 2 == 0
  | .vrigid _ d a _ k => decide (d.val + 2 ≤ 63) && decide (a.val + 2 ≤ 63) && maskOk k
  | .vdist2 _ d a _ k => decide (d.val + 1 ≤ 63) && decide (a.val + 2 ≤ 63) && maskOk k
  | .budget _ _ | .handlerLimit _ _ | .selection _ | .sendHandoff _ _ | .stealRequest _ _ | .stealClaim _
  | .stealEmpty _ | .stealInstall _ | .installBufferDrain _ | .messageArrival _ | .frameRefused _ _ _ _
  | .outboundRetry _ _ _ | .preemptRequest _ _ | .contextSave _ _ | .restoreRequest _ _ _
  | .contextRestore _ | .wakeArrival _ _ | .launchRootStart _ | .gets _ _ _ | .getm _ _ _ | .put _ _ _
  | .probe _ | .probeAnswer _ | .conflictRetry _ | .pageWalk _ _ | .pinRelease _ _ | .stxLanding _
  | .barrierReport _ | .cchLand _ _ _ _ | .mma _ _ | .mmv _ _ | .mvld _ _ | .mzero _ | .macld _ _
  | .macst _ _ | .narrowEnter _ | .narrowExit _ | .derefAtHome _ _ _ | .moveDeparture _ | .moveArrival _
  | .moveAck _ | .moveRefuse _ | .moveHomeUpdate _ | .queryRequest _ _ | .queryAnswer _ _
  | .tombstoneFree _ _ _ | .scrimPost _ | .scrimPostRetry _ | .scrimWake _ | .wakeDelivery _
  | .handoverStage _ | .notownerRetry _ | .flitReceive _ _ | .lathReplay _ | .retrainComplete _ _
  | .replayAudit _ _ | .dieUnreachable _ | .fenceConfirm _ | .dieRejoin _ | .rdmaWrite _ _ _
  | .rdmaRead _ _ _ | .launchParse _ | .launchForward _ _ _ | .admission _ | .admissionRecheck _
  | .completionDetect _ | .completionWrite _ | .completionNotice _ _ | .ptpMessage _ | .powerAlarm _ _
  | .alarmClear _ _ | .thermalCutoff _ _ | .imageUpdate _ | .controllerCheckIn | .updateWatchdog
  | .coronaipFailover | .patrolScrub _ | .powerOn _ | .energyCounterUpdate _ _ | .cxlLinkDown _
  | .versionFloorRaise _ => false
  | .add _ _ _ _ | .addImm _ _ _ | .sub _ _ _ _ | .subImm _ _ _ | .and _ _ _ _ | .andImm _ _ _
  | .or _ _ _ _ | .orImm _ _ _ | .xor _ _ _ _ | .xorImm _ _ _ | .andn _ _ _ _ | .andnImm _ _ _
  | .min _ _ _ _ | .minImm _ _ _ | .max _ _ _ _ | .maxImm _ _ _ | .sel _ _ _ _ | .mul _ _ _ _
  | .mulImm _ _ _ | .mulh _ _ _ _ | .div _ _ _ _ | .rem _ _ _ _ | .madd _ _ _ _ _ | .shl _ _ _ _
  | .shlImm _ _ _ | .shr _ _ _ _ | .shrImm _ _ _ | .sar _ _ _ _ | .sarImm _ _ _ | .rotl _ _ _ _
  | .rotlImm _ _ _ | .clz _ _ _ | .ctz _ _ _ | .popc _ _ _ | .bswap _ _ _ | .cmp _ _ _ _ _
  | .pand _ _ _ _ _ | .por _ _ _ _ _ | .pxor _ _ _ _ _ | .pmov _ | .fadd _ _ _ _ _ | .fsub _ _ _ _ _
  | .fmul _ _ _ _ _ | .fma _ _ _ _ _ _ | .fdiv _ _ _ _ _ | .fsqrt _ _ _ _ | .fmin _ _ _ _
  | .fmax _ _ _ _ | .fcmp _ _ _ _ _ | .fcls _ _ _ | .fround _ _ _ _ | .mov _ _ _ | .movImm _ _
  | .mfs _ _ | .mtsSspill _ | .mtsScarve _ | .mtsSvgroup _ | .mtsSdomain _ | .br _ | .jmp _ | .call _
  | .callImm _ | .ret _ | .loop _ _ | .endAct | .nop | .ld _ _ _ _ _ | .st _ _ _ _ | .pref _ _
  | .stx _ _ _ | .cwb _ _ _ | .cinv _ _ _ | .amo _ _ _ _ _ _ _ | .fence _ _ | .bset _ _ _ | .barr _ _
  | .bwait _ _ | .bsync _ | .bxch _ | .join _ | .chmsk _ _ _ | .trap _ | .tret | .twait _ _ | .tabort
  | .fpostPost _ _ | .fpostServe _ _ _ | .tlbinv _ | .shand _ _ | .shandQuery _ | .pdel _ | .pld _ _ _
  | .pqwait _ _ | .pres _ _ | .pspcDefine _ _ _ | .pspcDelete _ _ _ | .cpwp _ _ | .cpwait _ _ _
  | .tgive _ _ _ | .ttake _ _ | .mxwait _ | .shkill _ | .vsel _ _ _ _ _ | .mand _ _ _ _ _
  | .mor _ _ _ _ _ | .mxor _ _ _ _ _ | .mpop _ _ _ | .vtrl _ _ | .vbcastImm _ _ | .vins _ _ _ _
  | .vext _ _ _ _ | .vst _ _ _ _ _ | .vsts _ _ _ _ _ => true

end Sys2Proof
end

