-- ==== Sys2Proof/Decode.lean ====
section
/-! DEFINITION. The decoder of 96-bit words, rejecting by the reasons of 03 R59 in the order of R58, and after it the
encoder, from the encodings of 03 R43-R57, 05 R93, 06 R125, 08 R186, 12 R245, 14 R275, 16 R322, 18 R346 and 20 R370. -/

namespace Sys2Proof

/-! ## Fields of a word (03 R43-R45) -/

/-- The fields of an instruction word as numbers. -/
structure Fields where
  op : Nat
  neg : Nat
  pred : Nat
  hints : Nat
  d : Nat
  a : Nat
  b : Nat
  x : Nat
deriving DecidableEq, Repr

/-- The fields of the 96 bits (R43). -/
def fieldsOf (w : Nat) : Fields where
  op := w / 2 ^ 84 % 2 ^ 12
  neg := w / 2 ^ 83 % 2
  pred := w / 2 ^ 80 % 2 ^ 3
  hints := w / 2 ^ 72 % 2 ^ 8
  d := w / 2 ^ 64 % 2 ^ 8
  a := w / 2 ^ 56 % 2 ^ 8
  b := w / 2 ^ 48 % 2 ^ 8
  x := w % 2 ^ 48

/-- The 96 bits of fields (R43). -/
def wordBits (f : Fields) : Nat :=
  f.op * 2 ^ 84 + f.neg * 2 ^ 83 + f.pred * 2 ^ 80 + f.hints * 2 ^ 72 + f.d * 2 ^ 64 + f.a * 2 ^ 56 +
    f.b * 2 ^ 48 + f.x

/-- An undefined encoding: REASON and POS of R59. -/
structure Ill where
  reason : Nat
  pos : Nat
deriving DecidableEq, Repr

/-- What a decoding gives: a value or why the encoding is undefined. -/
abbrev Dec (α : Type) := Except Ill α

/-- An instruction with its guard and hints (R36, R39). -/
structure Decoded where
  neg : Bool
  pred : PReg
  hints : Byte
  instr : Instr
deriving DecidableEq, Repr

/-! ## Reading fields -/

/-- A check of R58 number 5: REASON 4. -/
def need (c : Bool) : Dec Unit := if c then .ok () else .error ⟨4, 0⟩

/-- A check of R58 number 4 at a position: REASON 3. -/
def needPos (pos : Nat) (c : Bool) : Dec Unit := if c then .ok () else .error ⟨3, pos⟩

/-- A value that a reserved code does not give: REASON 4. -/
def needSome {α : Type} (x : Option α) : Dec α :=
  match x with
  | some a => .ok a
  | none => .error ⟨4, 0⟩

/-- A specifier of the g file (R47). -/
def gSpec (pos v : Nat) : Dec GReg := if h : v < 64 then .ok ⟨v, h⟩ else .error ⟨3, pos⟩

/-- A specifier of the v file (R47). -/
def vSpec (pos v : Nat) : Dec VReg :=
  if h : 64 ≤ v ∧ v < 128 then .ok ⟨v - 64, by omega⟩ else .error ⟨3, pos⟩

/-- A p specifier (R47). -/
def pSpec (pos v : Nat) : Dec PReg :=
  if h : 128 ≤ v ∧ v < 136 then .ok ⟨v - 128, by omega⟩ else .error ⟨3, pos⟩

/-- An m specifier (R47). -/
def mSpec (pos v : Nat) : Dec MReg :=
  if h : 136 ≤ v ∧ v < 144 then .ok ⟨v - 136, by omega⟩ else .error ⟨3, pos⟩

/-- A position the instruction does not use (R46). -/
def unused (pos v : Nat) : Dec Unit := needPos pos (v == 0)

/-- A v or g specifier (06 R123). -/
def vgSpec (pos v : Nat) : Dec VSrc :=
  if h : v < 64 then .ok (.g ⟨v, h⟩)
  else if h : v < 128 then .ok (.v ⟨v - 64, by omega⟩) else .error ⟨3, pos⟩

/-- A frame base or register group (08 R186). -/
def groupSpec (pos v k : Nat) : Dec GReg := do
  let r ← gSpec pos v
  needPos pos (groupOk r k)
  return r

/-- Bits [hi:lo] of X. -/
def xBits (f : Fields) (hi lo : Nat) : Nat := f.x / 2 ^ lo % 2 ^ (hi + 1 - lo)

/-- Bit i of X. -/
def xBit (f : Fields) (i : Nat) : Bool := f.x / 2 ^ i % 2 == 1

/-- The immediate of R45. -/
def immOf (f : Fields) : BitVec 56 := BitVec.ofNat 56 (f.b * 2 ^ 48 + f.x)

/-- A field of X as a Fin. -/
def xFin (f : Fields) (n lo : Nat) [NeZero n] : Fin n := Fin.ofNat n (f.x / 2 ^ lo)

/-- The type code (R49). -/
def tyOf (f : Fields) : Nat := xBits f 47 44

/-- An integer type code; 0 is the default type (R50). -/
def intTy : Nat → Option (Option IntTy)
  | 0 => some none
  | 1 => some (some .i8)
  | 2 => some (some .i16)
  | 3 => some (some .i32)
  | 4 => some (some .i64)
  | 5 => some (some .n8)
  | 6 => some (some .n16)
  | 7 => some (some .n32)
  | 8 => some (some .n64)
  | _ => none

/-- The code of an integer type. -/
def intCode : Option IntTy → Nat
  | none => 0
  | some .i8 => 1
  | some .i16 => 2
  | some .i32 => 3
  | some .i64 => 4
  | some .n8 => 5
  | some .n16 => 6
  | some .n32 => 7
  | some .n64 => 8

/-- A floating-point type code (R50). -/
def fpTy : Nat → Option (Option FpTy)
  | 0 => some none
  | 9 => some (some .f16)
  | 10 => some (some .bf16)
  | 11 => some (some .f32)
  | _ => none

/-- The code of a floating-point type. -/
def fpCode : Option FpTy → Nat
  | none => 0
  | some .f16 => 9
  | some .bf16 => 10
  | some .f32 => 11

/-- An integer lane type code (06 R122). -/
def laneInt : Nat → Option (Option LaneInt)
  | 0 => some none
  | 1 => some (some .i8)
  | 2 => some (some .i16)
  | 3 => some (some .i32)
  | 5 => some (some .n8)
  | 6 => some (some .n16)
  | 7 => some (some .n32)
  | _ => none

/-- The code of an integer lane type. -/
def laneIntCode : Option LaneInt → Nat
  | none => 0
  | some .i8 => 1
  | some .i16 => 2
  | some .i32 => 3
  | some .n8 => 5
  | some .n16 => 6
  | some .n32 => 7

/-- A lane type code, explicit (06 R122). -/
def laneTy1 : Nat → Option LaneTy
  | 1 => some (.int .i8)
  | 2 => some (.int .i16)
  | 3 => some (.int .i32)
  | 5 => some (.int .n8)
  | 6 => some (.int .n16)
  | 7 => some (.int .n32)
  | 9 => some (.fp .f16)
  | 10 => some (.fp .bf16)
  | 11 => some (.fp .f32)
  | _ => none

/-- The code of an explicit lane type. -/
def laneCode1 : LaneTy → Nat
  | .int t => laneIntCode (some t)
  | .fp t => fpCode (some t)

/-- A lane type code. -/
def laneTy : Nat → Option (Option LaneTy)
  | 0 => some none
  | c + 1 => (laneTy1 (c + 1)).map some

/-- The code of a lane type. -/
def laneCode : Option LaneTy → Nat
  | none => 0
  | some t => laneCode1 t

/-- A type of cvt, explicit (05 R93). -/
def numTy : Nat → Option NumTy
  | 1 => some (.int .i8)
  | 2 => some (.int .i16)
  | 3 => some (.int .i32)
  | 4 => some (.int .i64)
  | 5 => some (.int .n8)
  | 6 => some (.int .n16)
  | 7 => some (.int .n32)
  | 8 => some (.int .n64)
  | 9 => some (.fp .f16)
  | 10 => some (.fp .bf16)
  | 11 => some (.fp .f32)
  | _ => none

/-- The code of a type of cvt. -/
def numCode : NumTy → Nat
  | .int t => intCode (some t)
  | .fp t => fpCode (some t)

/-- A type of bext (05 R93). -/
def wideTy : Nat → Option (Option WideTy)
  | 0 => some none
  | 4 => some (some .i64)
  | 8 => some (some .n64)
  | _ => none

/-- The code of a type of bext. -/
def wideCode : Option WideTy → Nat
  | none => 0
  | some .i64 => 4
  | some .n64 => 8

/-- A type of bswap (05 R93). -/
def swapTy : Nat → Option (Option SwapTy)
  | 0 => some none
  | 2 => some (some .i16)
  | 3 => some (some .i32)
  | 4 => some (some .i64)
  | 6 => some (some .n16)
  | 7 => some (some .n32)
  | 8 => some (some .n64)
  | _ => none

/-- The code of a type of bswap. -/
def swapCode : Option SwapTy → Nat
  | none => 0
  | some .i16 => 2
  | some .i32 => 3
  | some .i64 => 4
  | some .n16 => 6
  | some .n32 => 7
  | some .n64 => 8

/-- A type of vdot4 (06 R125). -/
def dotTy : Nat → Option (Option DotTy)
  | 0 => some none
  | 1 => some (some .i8)
  | 5 => some (some .n8)
  | _ => none

/-- The code of a type of vdot4. -/
def dotCode : Option DotTy → Nat
  | none => 0
  | some .i8 => 1
  | some .n8 => 5

/-- A block format, explicit (06 R125). -/
def bxTy : Nat → Option BxTy
  | 12 => some .bx8
  | 13 => some .bx4
  | _ => none

/-- The code of a block format. -/
def bxCode : BxTy → Nat
  | .bx8 => 12
  | .bx4 => 13

/-- A rounding mode (R49). -/
def rndOf (f : Fields) : Rnd :=
  match xBits f 43 42 with
  | 0 => .rne
  | 1 => .rtz
  | 2 => .rup
  | _ => .rdn

/-- The code of a rounding mode. -/
def rndCode : Rnd → Nat
  | .rne => 0
  | .rtz => 1
  | .rup => 2
  | .rdn => 3

/-- An integer condition (R51). -/
def condTy : Nat → Option Cond
  | 0 => some .eq
  | 1 => some .ne
  | 2 => some .lt
  | 3 => some .le
  | 4 => some .gt
  | 5 => some .ge
  | _ => none

/-- The code of an integer condition. -/
def condCode : Cond → Nat
  | .eq => 0
  | .ne => 1
  | .lt => 2
  | .le => 3
  | .gt => 4
  | .ge => 5

/-- A floating-point condition (R51). -/
def fcondTy : Nat → Option FCond
  | 0 => some .eq
  | 1 => some .ne
  | 2 => some .lt
  | 3 => some .le
  | 4 => some .gt
  | 5 => some .ge
  | 6 => some .un
  | 7 => some .ord
  | _ => none

/-- The code of a floating-point condition. -/
def fcondCode : FCond → Nat
  | .eq => 0
  | .ne => 1
  | .lt => 2
  | .le => 3
  | .gt => 4
  | .ge => 5
  | .un => 6
  | .ord => 7

/-- A scope (R52). -/
def scopeTy : Nat → Option Scope
  | 0 => some .cell
  | 1 => some .clu
  | 2 => some .die
  | 3 => some .pkg
  | 4 => some .sys
  | _ => none

/-- The code of a scope in an encoding. -/
def scopeBits : Scope → Nat
  | .cell => 0
  | .clu => 1
  | .die => 2
  | .pkg => 3
  | .sys => 4

/-- An access size (R52). -/
def sizeTy : Nat → Option Size
  | 0 => some .b1
  | 1 => some .b2
  | 2 => some .b4
  | 3 => some .b8
  | _ => none

/-- The code of an access size. -/
def sizeCode : Size → Nat
  | .b1 => 0
  | .b2 => 1
  | .b4 => 2
  | .b8 => 3

/-- A lane size of a vector memory instruction (06 R145). -/
def vsizeTy : Nat → Option VSize
  | 0 => some .b1
  | 1 => some .b2
  | 2 => some .b4
  | _ => none

/-- The code of a lane size. -/
def vsizeCode : VSize → Nat
  | .b1 => 0
  | .b2 => 1
  | .b4 => 2

/-- The order of a layout-M access with its scope: a plain access has scope field 0 (R52). -/
def ordTy (order scope : Nat) : Option MemOrder :=
  match order with
  | 0 => if scope = 0 then some .plain else none
  | 1 => (scopeTy scope).map .sync
  | 2 => (scopeTy scope).map .vol
  | _ => none

/-- The codes of an order and scope. -/
def ordCode : MemOrder → Nat × Nat
  | .plain => (0, 0)
  | .sync s => (1, scopeBits s)
  | .vol s => (2, scopeBits s)

/-- An operation of amo (12 R247). -/
def amoTy : Nat → Option AmoOp
  | 0 => some .swap
  | 1 => some .add
  | 2 => some .and
  | 3 => some .or
  | 4 => some .xor
  | 5 => some .min
  | 6 => some .max
  | _ => none

/-- The code of an operation of amo. -/
def amoCode : AmoOp → Nat
  | .swap => 0
  | .add => 1
  | .and => 2
  | .or => 3
  | .xor => 4
  | .min => 5
  | .max => 6

/-- The order of a read-modify-write (12 R245). -/
def rmwTy (c : Nat) : RmwOrder :=
  match c with
  | 0 => .plain
  | 1 => .acq
  | 2 => .rel
  | _ => .ar

/-- The code of the order of a read-modify-write. -/
def rmwCode : RmwOrder → Nat
  | .plain => 0
  | .acq => 1
  | .rel => 2
  | .ar => 3

/-- The order of a fence; 0 is reserved (12 R246). -/
def fenceTy : Nat → Option FenceOrder
  | 1 => some .acq
  | 2 => some .rel
  | 3 => some .ar
  | _ => none

/-- The code of the order of a fence. -/
def fenceCode : FenceOrder → Nat
  | .acq => 1
  | .rel => 2
  | .ar => 3

/-- An operation of vred (06 R143). -/
def redTy : Nat → Option RedOp
  | 0 => some .add
  | 1 => some .min
  | 2 => some .max
  | 3 => some .and
  | 4 => some .or
  | 5 => some .xor
  | 6 => some .fadd
  | 7 => some .fmin
  | 8 => some .fmax
  | _ => none

/-- The code of an operation of vred. -/
def redCode : RedOp → Nat
  | .add => 0
  | .min => 1
  | .max => 2
  | .and => 3
  | .or => 4
  | .xor => 5
  | .fadd => 6
  | .fmin => 7
  | .fmax => 8

/-- An operation of chmsk (08 R198). -/
def chmskTy : Nat → Option ChmskOp
  | 0 => some .wr
  | 1 => some .set
  | 2 => some .clr
  | _ => none

/-- The code of an operation of chmsk. -/
def chmskCode : ChmskOp → Nat
  | .wr => 0
  | .set => 1
  | .clr => 2

/-- An engine of tgive (14 R275). -/
def engineTy : Nat → Option Engine
  | 0 => some .cch0
  | 1 => some .cch1
  | 2 => some .mxu
  | _ => none

/-- The code of an engine. -/
def engineCode : Engine → Nat
  | .cch0 => 0
  | .cch1 => 1
  | .mxu => 2

/-- An access kind of fpost post (18 R346). -/
def kindTy : Nat → Option AccessKind
  | 0 => some .read
  | 1 => some .write
  | 2 => some .exec
  | _ => none

/-- The code of an access kind. -/
def kindCode : AccessKind → Nat
  | .read => 0
  | .write => 1
  | .exec => 2

/-- A special-register number that 02 R28 lists. -/
def sregTy (n : Nat) : Option SReg :=
  if h : 0x040 ≤ n ∧ n < 0x058 then some (.senacc ⟨n - 0x040, by omega⟩)
  else if h : 0x060 ≤ n ∧ n < 0x078 then some (.senlim ⟨n - 0x060, by omega⟩)
  else
    match n with
    | 0x000 => some .sframe
    | 0x001 => some .sbudget
    | 0x002 => some .sdomain
    | 0x003 => some .sspill
    | 0x004 => some .sctl
    | 0x005 => some .sdctl
    | 0x006 => some .stime
    | 0x007 => some .scbase
    | 0x008 => some .sclim
    | 0x009 => some .sstk
    | 0x00A => some .scell
    | 0x00B => some .sphys
    | 0x00C => some .sinv
    | 0x00D => some .scarve
    | 0x00E => some .svgroup
    | 0x00F => some .mxdone
    | 0x010 => some .mxstat
    | 0x100 => some .tvec
    | 0x111 => some (.tcause false)
    | 0x112 => some (.tcause true)
    | 0x121 => some (.tip false)
    | 0x122 => some (.tip true)
    | 0x131 => some (.tfva false)
    | 0x132 => some (.tfva true)
    | 0x141 => some (.tinfo false)
    | 0x142 => some (.tinfo true)
    | 0x151 => some (.tarea false)
    | 0x152 => some (.tarea true)
    | _ => none

/-- The number of a special register (02 R28). -/
def sregCode : SReg → Nat
  | .sframe => 0x000
  | .sbudget => 0x001
  | .sdomain => 0x002
  | .sspill => 0x003
  | .sctl => 0x004
  | .sdctl => 0x005
  | .stime => 0x006
  | .scbase => 0x007
  | .sclim => 0x008
  | .sstk => 0x009
  | .scell => 0x00A
  | .sphys => 0x00B
  | .sinv => 0x00C
  | .scarve => 0x00D
  | .svgroup => 0x00E
  | .mxdone => 0x00F
  | .mxstat => 0x010
  | .senacc i => 0x040 + i.val
  | .senlim i => 0x060 + i.val
  | .tvec => 0x100
  | .tcause l => 0x111 + l.toNat
  | .tip l => 0x121 + l.toNat
  | .tfva l => 0x131 + l.toNat
  | .tinfo l => 0x141 + l.toNat
  | .tarea l => 0x151 + l.toNat

/-- The mask field and Z of layout T (06 R124). -/
def maskT (f : Fields) : Dec MaskSel := do
  let k := xBits f 37 34
  let z := xBit f 33
  need (k == 0 || 8 ≤ k)
  need (!(z && k == 0))
  return ⟨if 8 ≤ k then some (Fin.ofNat 8 k) else none, z⟩

/-- The mask field and Z of layout M (06 R124). -/
def maskM (f : Fields) : Dec MaskSel := do
  let k := xBits f 38 35
  let z := xBit f 34
  need (k == 0 || 8 ≤ k)
  need (!(z && k == 0))
  return ⟨if 8 ≤ k then some (Fin.ofNat 8 k) else none, z⟩

/-- The code of a mask register, 0 for none (06 R124). -/
def maskCode : Option MReg → Nat
  | none => 0
  | some m => 8 + m.val

/-- The memory operand of layout M (R53). -/
def memOf (a b : GReg) (f : Fields) : MemOp := ⟨a, b, BitVec.ofNat 32 f.x⟩

/-- A C specifier of the g file at X[37:30] (05 R93). -/
def cSpecG (f : Fields) : Dec GReg :=
  let v := xBits f 37 30
  if h : v < 64 then .ok ⟨v, h⟩ else .error ⟨4, 0⟩

/-- A C specifier of the v file at X[31:24] (06 R126). -/
def cSpecV (f : Fields) : Dec VReg :=
  let v := xBits f 31 24
  if h : 64 ≤ v ∧ v < 128 then .ok ⟨v - 64, by omega⟩ else .error ⟨4, 0⟩

/-! ## Shapes of decoding -/

/-- An immediate flag that must be 0 (R58 number 3). -/
def noImm (i : Nat) (k : Dec Instr) : Dec Instr := if i = 0 then k else .error ⟨2, 0⟩

/-- An immediate flag that must be 1 (R58 number 3). -/
def onlyImm (i : Nat) (k : Dec Instr) : Dec Instr := if i = 1 then k else .error ⟨2, 0⟩

/-- An instruction with both forms. -/
def bothForms (i : Nat) (k0 k1 : Dec Instr) : Dec Instr := if i = 0 then k0 else k1

/-- D, A and B in the g file. -/
def ggg (f : Fields) : Dec (GReg × GReg × GReg) := do
  let d ← gSpec 0 f.d
  let a ← gSpec 1 f.a
  let b ← gSpec 2 f.b
  return (d, a, b)

/-- D and A in the g file, B unused. -/
def ggz (f : Fields) : Dec (GReg × GReg) := do
  let d ← gSpec 0 f.d
  let a ← gSpec 1 f.a
  unused 2 f.b
  return (d, a)

/-- D and A in the v file, B v or g. -/
def vvs (f : Fields) : Dec (VReg × VReg × VSrc) := do
  let d ← vSpec 0 f.d
  let a ← vSpec 1 f.a
  let b ← vgSpec 2 f.b
  return (d, a, b)

/-- D and A in the v file, B unused. -/
def vvz (f : Fields) : Dec (VReg × VReg) := do
  let d ← vSpec 0 f.d
  let a ← vSpec 1 f.a
  unused 2 f.b
  return (d, a)

/-- Rounding and condition 0 and X[37:0] 0: a layout-T word that assigns only its type. -/
def typeOnly (f : Fields) : Dec Unit := need (xBits f 43 0 == 0)

/-- op.t gD, gA, gB with an immediate form. -/
def decInt (i : Nat) (f : Fields) (k : Option IntTy → GReg → GReg → GReg → Instr)
    (ki : GReg → GReg → BitVec 56 → Instr) : Dec Instr :=
  bothForms i
    (do
      let (d, a, b) ← ggg f
      let t ← needSome (intTy (tyOf f))
      typeOnly f
      return k t d a b)
    (do
      let d ← gSpec 0 f.d
      let a ← gSpec 1 f.a
      return ki d a (immOf f))

/-- op.t gD, gA, gB without an immediate form. -/
def decIntR (i : Nat) (f : Fields) (k : Option IntTy → GReg → GReg → GReg → Instr) : Dec Instr :=
  noImm i (do
    let (d, a, b) ← ggg f
    let t ← needSome (intTy (tyOf f))
    typeOnly f
    return k t d a b)

/-- op.t gD, gA. -/
def decInt2 (i : Nat) (f : Fields) (k : Option IntTy → GReg → GReg → Instr) : Dec Instr :=
  noImm i (do
    let (d, a) ← ggz f
    let t ← needSome (intTy (tyOf f))
    typeOnly f
    return k t d a)

/-- A predicate operation with two negations. -/
def decPred (i : Nat) (f : Fields) (k : PReg → PReg → PReg → Bool → Bool → Instr) : Dec Instr :=
  noImm i (do
    let d ← pSpec 0 f.d
    let a ← pSpec 1 f.a
    let b ← pSpec 2 f.b
    need (xBits f 47 2 == 0)
    return k d a b (xBit f 1) (xBit f 0))

/-- op.t.rm gD, gA, gB. -/
def decFp3 (i : Nat) (f : Fields) (k : Option FpTy → Rnd → GReg → GReg → GReg → Instr) : Dec Instr :=
  noImm i (do
    let (d, a, b) ← ggg f
    let t ← needSome (fpTy (tyOf f))
    need (xBits f 41 0 == 0)
    return k t (rndOf f) d a b)

/-- op.t.rm gD, gA. -/
def decFp2 (i : Nat) (f : Fields) (k : Option FpTy → Rnd → GReg → GReg → Instr) : Dec Instr :=
  noImm i (do
    let (d, a) ← ggz f
    let t ← needSome (fpTy (tyOf f))
    need (xBits f 41 0 == 0)
    return k t (rndOf f) d a)

/-- op.t gD, gA, gB in floating point without rounding. -/
def decFp3n (i : Nat) (f : Fields) (k : Option FpTy → GReg → GReg → GReg → Instr) : Dec Instr :=
  noImm i (do
    let (d, a, b) ← ggg f
    let t ← needSome (fpTy (tyOf f))
    typeOnly f
    return k t d a b)

/-- An instruction whose fields are all 0. -/
def decBare (i : Nat) (f : Fields) (k : Instr) : Dec Instr :=
  noImm i (do
    unused 0 f.d
    unused 1 f.a
    unused 2 f.b
    need (f.x == 0)
    return k)

/-- A register-indirect control transfer. -/
def decTarget (i : Nat) (f : Fields) (k : GReg → Instr) : Dec Instr :=
  noImm i (do
    unused 0 f.d
    let a ← gSpec 1 f.a
    unused 2 f.b
    need (f.x == 0)
    return k a)

/-- op.t vD, vA, v|g with a mask. -/
def decV3 (i : Nat) (f : Fields) (k : Option LaneInt → VReg → VReg → VSrc → MaskSel → Instr) : Dec Instr :=
  noImm i (do
    let (d, a, b) ← vvs f
    let t ← needSome (laneInt (tyOf f))
    need (xBits f 43 38 == 0)
    let m ← maskT f
    need (xBits f 32 0 == 0)
    return k t d a b m)

/-- op.t.rm vD, vA, v|g with a mask. -/
def decVf3 (i : Nat) (f : Fields) (k : Option FpTy → Rnd → VReg → VReg → VSrc → MaskSel → Instr) : Dec Instr :=
  noImm i (do
    let (d, a, b) ← vvs f
    let t ← needSome (fpTy (tyOf f))
    need (xBits f 41 38 == 0)
    let m ← maskT f
    need (xBits f 32 0 == 0)
    return k t (rndOf f) d a b m)

/-- op.t vD, vA, v|g in floating point, no rounding, with a mask. -/
def decVf3n (i : Nat) (f : Fields) (k : Option FpTy → VReg → VReg → VSrc → MaskSel → Instr) : Dec Instr :=
  noImm i (do
    let (d, a, b) ← vvs f
    let t ← needSome (fpTy (tyOf f))
    need (xBits f 43 38 == 0)
    let m ← maskT f
    need (xBits f 32 0 == 0)
    return k t d a b m)

/-- op.t.rm vD, vA with a mask. -/
def decVf2 (i : Nat) (f : Fields) (k : Option FpTy → Rnd → VReg → VReg → MaskSel → Instr) : Dec Instr :=
  noImm i (do
    let (d, a) ← vvz f
    let t ← needSome (fpTy (tyOf f))
    need (xBits f 41 38 == 0)
    let m ← maskT f
    need (xBits f 32 0 == 0)
    return k t (rndOf f) d a m)

/-- A mask operation with two negations. -/
def decMask (i : Nat) (f : Fields) (k : MReg → MReg → MReg → Bool → Bool → Instr) : Dec Instr :=
  noImm i (do
    let d ← mSpec 0 f.d
    let a ← mSpec 1 f.a
    let b ← mSpec 2 f.b
    need (xBits f 47 2 == 0)
    return k d a b (xBit f 1) (xBit f 0))

/-- The size, order and memory operand of a vector memory instruction, Sign 0 (06 R125, R126). -/
def vmemOf (a b : GReg) (f : Fields) : Dec (VSize × MemOrder × MemOp) := do
  let sz ← needSome (vsizeTy (xBits f 47 45))
  let o ← needSome (ordTy (xBits f 44 43) (xBits f 42 40))
  need (!xBit f 39)
  return (sz, o, memOf a b f)

/-- A vector load; `even` for the indexed form (06 R126). -/
def decVld (i : Nat) (f : Fields) (even : Bool) (k : VSize → MemOrder → VReg → MemOp → MaskSel → Instr) : Dec Instr :=
  noImm i (do
    let d ← vSpec 0 f.d
    needPos 0 (!even || d.val % 2 == 0)
    let a ← gSpec 1 f.a
    let b ← gSpec 2 f.b
    let (sz, o, m) ← vmemOf a b f
    let mk ← maskM f
    need (xBits f 33 32 == 0)
    return k sz o d m mk)

/-- A vector store: Z = 0 (06 R125). -/
def decVst (i : Nat) (f : Fields) (even : Bool) (k : VSize → MemOrder → VReg → MemOp → Option MReg → Instr) :
    Dec Instr :=
  noImm i (do
    let d ← vSpec 0 f.d
    needPos 0 (!even || d.val % 2 == 0)
    let a ← gSpec 1 f.a
    let b ← gSpec 2 f.b
    let (sz, o, m) ← vmemOf a b f
    let mk ← maskM f
    need (!mk.z)
    need (xBits f 33 32 == 0)
    return k sz o d m mk.mask)

/-- A geometry instruction: type none or .i32 (06 R125, R126). -/
def decGeo (i : Nat) (f : Fields) (dn : Nat) (k : Bool → VReg → VReg → VReg → MaskSel → Instr) : Dec Instr :=
  noImm i (do
    let d ← vSpec 0 f.d
    needPos 0 (d.val + dn ≤ 63)
    let a ← vSpec 1 f.a
    needPos 1 (a.val + 2 ≤ 63)
    let b ← vSpec 2 f.b
    need (tyOf f == 0 || tyOf f == 3)
    need (xBits f 43 38 == 0)
    let m ← maskT f
    need (xBits f 32 0 == 0)
    return k (tyOf f == 3) d a b m)

/-! ## The groups of class 0 (03 R54) -/

/-- No instruction has this group or function (R58 number 2). -/
def noFunction : Dec Instr := .error ⟨1, 0⟩

/-- Group 0, integer. -/
def decG0 (fn i : Nat) (f : Fields) : Dec Instr :=
  match fn with
  | 0 => decInt i f .add .addImm
  | 1 => decInt i f .sub .subImm
  | 2 => decInt i f .and .andImm
  | 3 => decInt i f .or .orImm
  | 4 => decInt i f .xor .xorImm
  | 5 => decInt i f .andn .andnImm
  | 6 => decInt i f .min .minImm
  | 7 => decInt i f .max .maxImm
  | 8 => noImm i (do
      let (d, a, b) ← ggg f
      need (xBits f 47 3 == 0)
      return .sel d a b (xFin f 8 0))
  | 9 => noImm i (do
      let (d, a, b) ← ggg f
      need (xBits f 47 35 == 0)
      need (xBits f 34 32 ≤ 4)
      return .lea d a b (Fin.ofNat 5 (xBits f 34 32)) (BitVec.ofNat 32 f.x))
  | _ => noFunction

/-- Group 1, multiply. -/
def decG1 (fn i : Nat) (f : Fields) : Dec Instr :=
  match fn with
  | 0 => decInt i f .mul .mulImm
  | 1 => decIntR i f .mulh
  | 2 => decIntR i f .div
  | 3 => decIntR i f .rem
  | 4 => noImm i (do
      let (d, a, b) ← ggg f
      let t ← needSome (intTy (tyOf f))
      need (xBits f 43 38 == 0)
      let c ← cSpecG f
      need (xBits f 29 0 == 0)
      return .madd t d a b c)
  | _ => noFunction

/-- Group 2, bits. -/
def decG2 (fn i : Nat) (f : Fields) : Dec Instr :=
  match fn with
  | 0 => decInt i f .shl .shlImm
  | 1 => decInt i f .shr .shrImm
  | 2 => decInt i f .sar .sarImm
  | 3 => decInt i f .rotl .rotlImm
  | 4 => decInt2 i f .clz
  | 5 => decInt2 i f .ctz
  | 6 => decInt2 i f .popc
  | 7 => noImm i (do
      let (d, a) ← ggz f
      let t ← needSome (wideTy (tyOf f))
      need (xBits f 43 12 == 0)
      need (fieldOk (xFin f 64 0) (xFin f 64 6))
      return .bext t d a (xFin f 64 0) (xFin f 64 6))
  | 8 => noImm i (do
      let (d, a) ← ggz f
      need (xBits f 47 12 == 0)
      need (fieldOk (xFin f 64 0) (xFin f 64 6))
      return .bins d a (xFin f 64 0) (xFin f 64 6))
  | 9 => noImm i (do
      let (d, a) ← ggz f
      let t ← needSome (swapTy (tyOf f))
      typeOnly f
      return .bswap t d a)
  | _ => noFunction

/-- pmov: both positions may name p or g, not both g (05 R93). -/
def decPmov (f : Fields) : Dec Instr := do
  if h : f.d < 64 then
    let a ← pSpec 1 f.a
    unused 2 f.b
    need (xBits f 47 2 == 0 && !xBit f 0)
    return .pmov (.gp ⟨f.d, h⟩ a (xBit f 1))
  else
    let d ← pSpec 0 f.d
    if ha : f.a < 64 then
      unused 2 f.b
      need (f.x == 0)
      return .pmov (.pg d ⟨f.a, ha⟩)
    else
      let a ← pSpec 1 f.a
      unused 2 f.b
      need (xBits f 47 2 == 0 && !xBit f 0)
      return .pmov (.pp d a (xBit f 1))

/-- Group 3, predicates. -/
def decG3 (fn i : Nat) (f : Fields) : Dec Instr :=
  match fn with
  | 0 => noImm i (do
      let d ← pSpec 0 f.d
      let a ← gSpec 1 f.a
      let b ← gSpec 2 f.b
      let t ← needSome (intTy (tyOf f))
      need (xBits f 43 42 == 0)
      let c ← needSome (condTy (xBits f 41 38))
      need (xBits f 37 0 == 0)
      return .cmp t c d a b)
  | 1 => decPred i f .pand
  | 2 => decPred i f .por
  | 3 => decPred i f .pxor
  | 4 => noImm i (decPmov f)
  | _ => noFunction

/-- Group 4, scalar floating point. -/
def decG4 (fn i : Nat) (f : Fields) : Dec Instr :=
  match fn with
  | 0 => decFp3 i f .fadd
  | 1 => decFp3 i f .fsub
  | 2 => decFp3 i f .fmul
  | 3 => noImm i (do
      let (d, a, b) ← ggg f
      let t ← needSome (fpTy (tyOf f))
      need (xBits f 41 38 == 0)
      let c ← cSpecG f
      need (xBits f 29 0 == 0)
      return .fma t (rndOf f) d a b c)
  | 4 => decFp3 i f .fdiv
  | 5 => decFp2 i f .fsqrt
  | 6 => decFp3n i f .fmin
  | 7 => decFp3n i f .fmax
  | 8 => noImm i (do
      let d ← pSpec 0 f.d
      let a ← gSpec 1 f.a
      let b ← gSpec 2 f.b
      let t ← needSome (fpTy (tyOf f))
      need (xBits f 43 42 == 0)
      let c ← needSome (fcondTy (xBits f 41 38))
      need (xBits f 37 0 == 0)
      return .fcmp t c d a b)
  | 9 => noImm i (do
      let (d, a) ← ggz f
      let t ← needSome (fpTy (tyOf f))
      typeOnly f
      return .fcls t d a)
  | _ => noFunction

/-- Group 5, conversion. -/
def decG5 (fn i : Nat) (f : Fields) : Dec Instr :=
  match fn with
  | 0 => noImm i (do
      let (d, a) ← ggz f
      let dt ← needSome (numTy (tyOf f))
      need (xBits f 41 38 == 0)
      let st ← needSome (numTy (xBits f 37 34))
      need (xBits f 33 0 == 0)
      need (!(numIsInt dt && numIsInt st) || noRound (rndOf f))
      return .cvt dt st (rndOf f) d a)
  | 1 => decFp2 i f .fround
  | _ => noFunction

/-- mts to a register: four registers have rows of their own. -/
def mtsOf (r : SReg) (a : GReg) : Instr :=
  match r with
  | .sspill => .mtsSspill a
  | .scarve => .mtsScarve a
  | .svgroup => .mtsSvgroup a
  | .sdomain => .mtsSdomain a
  | r => .mts r a

/-- Group 6, moves. -/
def decG6 (fn i : Nat) (f : Fields) : Dec Instr :=
  match fn with
  | 0 => bothForms i
      (do
        let (d, a) ← ggz f
        let t ← needSome (intTy (tyOf f))
        typeOnly f
        return .mov t d a)
      (do
        let d ← gSpec 0 f.d
        unused 1 f.a
        return .movImm d (immOf f))
  | 1 => noImm i (do
      let d ← gSpec 0 f.d
      unused 1 f.a
      unused 2 f.b
      need (xBits f 47 12 == 0)
      let r ← needSome (sregTy (xBits f 11 0))
      return .mfs d r)
  | 2 => noImm i (do
      unused 0 f.d
      let a ← gSpec 1 f.a
      unused 2 f.b
      need (xBits f 47 12 == 0)
      let r ← needSome (sregTy (xBits f 11 0))
      return mtsOf r a)
  | _ => noFunction

/-- Group 7, control. -/
def decG7 (fn i : Nat) (f : Fields) : Dec Instr :=
  match fn with
  | 0 => onlyImm i (do
      unused 0 f.d
      unused 1 f.a
      return .br (immOf f))
  | 1 => decTarget i f .jmp
  | 2 => bothForms i
      (do
        unused 0 f.d
        let a ← gSpec 1 f.a
        unused 2 f.b
        need (f.x == 0)
        return .call a)
      (do
        unused 0 f.d
        unused 1 f.a
        return .callImm (immOf f))
  | 3 => decTarget i f .ret
  | 4 => onlyImm i (do
      let d ← gSpec 0 f.d
      unused 1 f.a
      return .loop d (immOf f))
  | 5 => decBare i f .endAct
  | 6 => decBare i f .nop
  | _ => noFunction

/-- A cache-maintenance instruction (12 R245). -/
def decCache (i : Nat) (f : Fields) (k : Scope → Fin 128 → MemOp → Instr) : Dec Instr :=
  noImm i (do
    unused 0 f.d
    let a ← gSpec 1 f.a
    let b ← gSpec 2 f.b
    need (xBits f 47 43 == 0)
    let sc ← needSome (scopeTy (xBits f 42 40))
    need (!xBit f 39)
    return k sc (xFin f 128 32) (memOf a b f))

/-- Group 8, memory. -/
def decG8 (fn i : Nat) (f : Fields) : Dec Instr :=
  match fn with
  | 0 => noImm i (do
      let (d, a, b) ← ggg f
      let sz ← needSome (sizeTy (xBits f 47 45))
      let o ← needSome (ordTy (xBits f 44 43) (xBits f 42 40))
      need (xBits f 38 32 == 0)
      return .ld sz o (xBit f 39) d (memOf a b f))
  | 1 => noImm i (do
      let (d, a, b) ← ggg f
      let sz ← needSome (sizeTy (xBits f 47 45))
      let o ← needSome (ordTy (xBits f 44 43) (xBits f 42 40))
      need (xBits f 39 32 == 0)
      return .st sz o d (memOf a b f))
  | 2 => noImm i (do
      unused 0 f.d
      let a ← gSpec 1 f.a
      let b ← gSpec 2 f.b
      need (xBits f 47 34 == 0)
      return .pref (xFin f 4 32) (memOf a b f))
  | 3 => noImm i (do
      let (d, a, b) ← ggg f
      let sz ← needSome (sizeTy (xBits f 47 45))
      need (xBits f 44 32 == 0)
      return .stx sz d (memOf a b f))
  | 4 => decCache i f .cwb
  | 5 => decCache i f .cinv
  | _ => noFunction

/-- Group 9, atomics. -/
def decG9 (fn i : Nat) (f : Fields) : Dec Instr :=
  match fn with
  | 0 => noImm i (do
      let (d, a, b) ← ggg f
      let sz ← needSome (sizeTy (xBits f 47 45))
      need (xBits f 44 43 == 0)
      let sc ← needSome (scopeTy (xBits f 42 40))
      let op ← needSome (amoTy (xBits f 38 35))
      need (!xBit f 32)
      return .amo sz sc (xBit f 39) op (rmwTy (xBits f 34 33)) d (memOf a b f))
  | 1 => noImm i (do
      let d ← gSpec 0 f.d
      needPos 0 (d.val != 0 && d.val != 63)
      let a ← gSpec 1 f.a
      let b ← gSpec 2 f.b
      let sz ← needSome (sizeTy (xBits f 47 45))
      need (xBits f 44 43 == 0)
      let sc ← needSome (scopeTy (xBits f 42 40))
      need (xBits f 38 35 == 0)
      need (!xBit f 32)
      return .cas sz sc (xBit f 39) (rmwTy (xBits f 34 33)) d (memOf a b f))
  | _ => noFunction

/-- Group 10, synchronisation. -/
def decG10 (fn i : Nat) (f : Fields) : Dec Instr :=
  match fn with
  | 0 => noImm i (do
      unused 0 f.d
      unused 1 f.a
      unused 2 f.b
      need (xBits f 47 6 == 0 && !xBit f 3)
      let o ← needSome (fenceTy (xBits f 5 4))
      let sc ← needSome (scopeTy (xBits f 2 0))
      return .fence o sc)
  | 1 => noImm i (do
      let (d, a) ← ggz f
      need (xBits f 47 8 == 0)
      return .bset d a (xFin f 256 0))
  | 2 => noImm i (do
      let d ← gSpec 0 f.d
      unused 1 f.a
      unused 2 f.b
      need (xBits f 47 8 == 0)
      return .barr d (xFin f 256 0))
  | 3 => noImm i (do
      unused 0 f.d
      let a ← gSpec 1 f.a
      unused 2 f.b
      need (xBits f 47 8 == 0)
      return .bwait a (xFin f 256 0))
  | 4 => noImm i (do
      unused 0 f.d
      unused 1 f.a
      unused 2 f.b
      need (xBits f 47 8 == 0)
      return .bsync (xFin f 256 0))
  | 5 => noImm i (do
      unused 0 f.d
      unused 1 f.a
      unused 2 f.b
      need (xBits f 47 8 == 0)
      return .bxch (xFin f 256 0))
  | _ => noFunction

/-- Group 11, tasks. -/
def decG11 (fn i : Nat) (f : Fields) : Dec Instr :=
  match fn with
  | 0 => noImm i (do
      unused 0 f.d
      let a ← groupSpec 1 f.a 7
      unused 2 f.b
      need (f.x == 0)
      return .spawn a)
  | 1 => noImm i (do
      unused 0 f.d
      let a ← groupSpec 1 f.a 7
      let b ← gSpec 2 f.b
      need (f.x == 0)
      return .send a b)
  | 2 => noImm i (do
      let d ← gSpec 0 f.d
      let a ← gSpec 1 f.a
      let b ← groupSpec 2 f.b 7
      need (f.x == 0)
      return .arm d a b)
  | 3 => noImm i (do
      unused 0 f.d
      let a ← gSpec 1 f.a
      unused 2 f.b
      need (f.x == 0)
      return .join a)
  | 4 => noImm i (do
      unused 0 f.d
      let a ← gSpec 1 f.a
      unused 2 f.b
      need (xBits f 47 5 == 0)
      need ((xFin f 32 0).val != 30)
      return .chset a (xFin f 32 0))
  | 5 => noImm i (do
      let (d, a) ← ggz f
      need (xBits f 47 2 == 0)
      let op ← needSome (chmskTy (xBits f 1 0))
      return .chmsk d a op)
  | _ => noFunction

/-- Group 12, system. -/
def decG12 (fn i : Nat) (f : Fields) : Dec Instr :=
  match fn with
  | 0 => noImm i (do
      unused 0 f.d
      unused 1 f.a
      unused 2 f.b
      need (xBits f 47 16 == 0)
      return .trap (BitVec.ofNat 16 f.x))
  | 1 => decBare i f .tret
  | 2 => noImm i (do
      let (d, a) ← ggz f
      need (f.x == 0)
      return .twait d a)
  | 3 => decBare i f .tabort
  | 4 => noImm i (do
      unused 0 f.d
      let a ← gSpec 1 f.a
      if xBit f 4 then
        let b ← gSpec 2 f.b
        need (xBits f 47 5 == 0 && xBits f 2 0 == 0)
        return .fpostServe a b (xBit f 3)
      else
        unused 2 f.b
        need (xBits f 47 2 == 0)
        let k ← needSome (kindTy (xBits f 1 0))
        return .fpostPost a k)
  | 5 => noImm i (do
      unused 0 f.d
      if xBits f 1 0 == 0 then
        let a ← gSpec 1 f.a
        unused 2 f.b
        need (xBits f 47 2 == 0)
        return .tlbinv (.page a)
      else
        unused 1 f.a
        unused 2 f.b
        need (xBits f 47 2 == 0)
        need (xBits f 1 0 != 3)
        return .tlbinv (if xBits f 1 0 == 1 then .context else .all))
  | 6 => noImm i (do
      let d ← gSpec 0 f.d
      if xBit f 0 then
        unused 1 f.a
        unused 2 f.b
        need (xBits f 47 1 == 0)
        return .shandQuery d
      else
        let a ← gSpec 1 f.a
        unused 2 f.b
        need (xBits f 47 1 == 0)
        return .shand d a)
  | _ => noFunction

/-- Group 13, place. -/
def decG13 (fn i : Nat) (f : Fields) : Dec Instr :=
  match fn with
  | 0 => noImm i (do
      let d ← gSpec 0 f.d
      let a ← groupSpec 1 f.a 1
      let b ← gSpec 2 f.b
      need (xBits f 47 4 == 0)
      return .pnew d a b (xFin f 16 0))
  | 1 => noImm i (do
      unused 0 f.d
      let a ← gSpec 1 f.a
      unused 2 f.b
      need (f.x == 0)
      return .pdel a)
  | 2 => noImm i (do
      let d ← gSpec 0 f.d
      let a ← gSpec 1 f.a
      let b ← groupSpec 2 f.b 1
      need (f.x == 0)
      return .pset d a b)
  | 3 => noImm i (do
      let (d, a) ← ggz f
      need (xBits f 47 4 == 0)
      return .pld d a (xFin f 16 0))
  | 4 => noImm i (do
      let (d, a) ← ggz f
      need (xBits f 47 4 == 0)
      need (2 ≤ (xFin f 16 0).val)
      return .pstw d a (xFin f 16 0))
  | 5 => noImm i (do
      let d ← gSpec 0 f.d
      let a ← groupSpec 1 f.a 2
      let b ← gSpec 2 f.b
      need (xBits f 47 4 == 0)
      return .pqbox d a b (xFin f 16 0))
  | 6 => noImm i (do
      let d ← gSpec 0 f.d
      let a ← groupSpec 1 f.a 1
      let b ← gSpec 2 f.b
      need (xBits f 47 4 == 0)
      return .pqrad d a b (xFin f 16 0))
  | 7 => noImm i (do
      let (d, a) ← ggz f
      need (f.x == 0)
      return .pqwait d a)
  | 8 => noImm i (do
      let (d, a) ← ggz f
      need (f.x == 0)
      return .pres d a)
  | 9 => noImm i (do
      let d ← gSpec 0 f.d
      let a ← groupSpec 1 f.a 1
      unused 2 f.b
      need (xBits f 47 4 == 0)
      return .pmap d a (xFin f 16 0))
  | 10 => noImm i (do
      let (d, a) ← ggz f
      need (xBits f 47 5 == 0)
      return if xBit f 4 then .pspcDelete d a (xFin f 16 0) else .pspcDefine d a (xFin f 16 0))
  | _ => noFunction

/-- Group 14, engines. -/
def decG14 (fn i : Nat) (f : Fields) : Dec Instr :=
  match fn with
  | 0 => noImm i (do
      let d ← gSpec 0 f.d
      let a ← groupSpec 1 f.a 3
      unused 2 f.b
      need (xBits f 47 2 == 0)
      return .cpy d a (xBit f 1) (xFin f 2 0))
  | 1 => noImm i (do
      let d ← gSpec 0 f.d
      unused 1 f.a
      unused 2 f.b
      need (xBits f 47 1 == 0)
      return .cpwp d (xFin f 2 0))
  | 2 => noImm i (do
      let (d, a) ← ggz f
      need (xBits f 47 1 == 0)
      return .cpwait d a (xFin f 2 0))
  | 3 => noImm i (do
      unused 0 f.d
      let a ← gSpec 1 f.a
      unused 2 f.b
      need (xBits f 47 16 == 0 && xBits f 7 2 == 0)
      let e ← needSome (engineTy (xBits f 1 0))
      return .tgive a (xFin f 256 8) e)
  | 4 => noImm i (do
      unused 0 f.d
      let a ← gSpec 1 f.a
      unused 2 f.b
      need (xBits f 47 16 == 0 && xBits f 7 0 == 0)
      return .ttake a (xFin f 256 8))
  | 5 => noImm i (do
      let d ← gSpec 0 f.d
      let a ← groupSpec 1 f.a 7
      unused 2 f.b
      need (f.x == 0)
      return .mxq d a)
  | 6 => noImm i (do
      unused 0 f.d
      let a ← gSpec 1 f.a
      unused 2 f.b
      need (f.x == 0)
      return .mxwait a)
  | 7 => noImm i (do
      let d ← gSpec 0 f.d
      let a ← groupSpec 1 f.a 7
      let b ← gSpec 2 f.b
      need (f.x == 0)
      return .shdef d a b)
  | 8 => noImm i (do
      unused 0 f.d
      let a ← gSpec 1 f.a
      unused 2 f.b
      need (f.x == 0)
      return .shkill a)
  | _ => noFunction

/-- Class 0 (R54). -/
def decClass0 (gr fn i : Nat) (f : Fields) : Dec Instr :=
  match gr with
  | 0 => decG0 fn i f
  | 1 => decG1 fn i f
  | 2 => decG2 fn i f
  | 3 => decG3 fn i f
  | 4 => decG4 fn i f
  | 5 => decG5 fn i f
  | 6 => decG6 fn i f
  | 7 => decG7 fn i f
  | 8 => decG8 fn i f
  | 9 => decG9 fn i f
  | 10 => decG10 fn i f
  | 11 => decG11 fn i f
  | 12 => decG12 fn i f
  | 13 => decG13 fn i f
  | 14 => decG14 fn i f
  | _ => noFunction

/-! ## The groups of class 1 (03 R55) -/

/-- Group 0, vector integer. -/
def decV0 (fn i : Nat) (f : Fields) : Dec Instr :=
  match fn with
  | 0 => decV3 i f .vadd
  | 1 => decV3 i f .vsub
  | 2 => decV3 i f .vmin
  | 3 => decV3 i f .vmax
  | 4 => noImm i (do
      let (d, a) ← vvz f
      let t ← needSome (laneInt (tyOf f))
      need (xBits f 43 38 == 0)
      let m ← maskT f
      need (xBits f 32 0 == 0)
      return .vabs t d a m)
  | 5 => decV3 i f .vadds
  | 6 => decV3 i f .vsubs
  | _ => noFunction

/-- Group 1, vector multiply. -/
def decV1 (fn i : Nat) (f : Fields) : Dec Instr :=
  match fn with
  | 0 => decV3 i f .vmul
  | 1 => decV3 i f .vmulh
  | 2 => noImm i (do
      let (d, a, b) ← vvs f
      let t ← needSome (laneInt (tyOf f))
      need (xBits f 43 38 == 0)
      let m ← maskT f
      need (!xBit f 32)
      let c ← cSpecV f
      need (xBits f 23 0 == 0)
      return .vmadd t d a b c m)
  | 3 => noImm i (do
      let (d, a, b) ← vvs f
      let t ← needSome (dotTy (tyOf f))
      need (xBits f 43 38 == 0)
      let m ← maskT f
      need (xBits f 32 0 == 0)
      return .vdot4 t d a b m)
  | _ => noFunction

/-- Group 2, vector bits. -/
def decV2 (fn i : Nat) (f : Fields) : Dec Instr :=
  match fn with
  | 0 => decV3 i f .vand
  | 1 => decV3 i f .vor
  | 2 => decV3 i f .vxor
  | 3 => decV3 i f .vshl
  | 4 => decV3 i f .vshr
  | 5 => decV3 i f .vsar
  | _ => noFunction

/-- Group 3, masks. -/
def decV3g (fn i : Nat) (f : Fields) : Dec Instr :=
  match fn with
  | 0 => noImm i (do
      let d ← mSpec 0 f.d
      let a ← vSpec 1 f.a
      let b ← vgSpec 2 f.b
      let t ← needSome (laneInt (tyOf f))
      need (xBits f 43 42 == 0)
      let c ← needSome (condTy (xBits f 41 38))
      let m ← maskT f
      need (xBits f 32 0 == 0)
      return .vcmp t c d a b m)
  | 1 => noImm i (do
      let (d, a, b) ← vvs f
      let t ← needSome (laneTy (tyOf f))
      need (xBits f 43 38 == 0)
      let m ← maskT f
      need (!m.z)
      let k ← needSome m.mask
      need (xBits f 32 0 == 0)
      return .vsel t d a b k)
  | 2 => decMask i f .mand
  | 3 => decMask i f .mor
  | 4 => decMask i f .mxor
  | 5 => noImm i (do
      let d ← gSpec 0 f.d
      let a ← mSpec 1 f.a
      unused 2 f.b
      let t ← needSome (laneInt (tyOf f))
      typeOnly f
      return .mpop t d a)
  | _ => noFunction

/-- Group 4, vector floating point. -/
def decV4 (fn i : Nat) (f : Fields) : Dec Instr :=
  match fn with
  | 0 => decVf3 i f .vfadd
  | 1 => decVf3 i f .vfsub
  | 2 => decVf3 i f .vfmul
  | 3 => noImm i (do
      let (d, a, b) ← vvs f
      let t ← needSome (fpTy (tyOf f))
      need (xBits f 41 38 == 0)
      let m ← maskT f
      need (!xBit f 32)
      let c ← cSpecV f
      need (xBits f 23 0 == 0)
      return .vffma t (rndOf f) d a b c m)
  | 4 => decVf3n i f .vfmin
  | 5 => decVf3n i f .vfmax
  | 6 => decVf3 i f .vfdiv
  | 7 => decVf2 i f .vfsqrt
  | 8 => decVf2 i f .vfexp2
  | 9 => noImm i (do
      let d ← mSpec 0 f.d
      let a ← vSpec 1 f.a
      let b ← vgSpec 2 f.b
      let t ← needSome (fpTy (tyOf f))
      need (xBits f 43 42 == 0)
      let c ← needSome (fcondTy (xBits f 41 38))
      let m ← maskT f
      need (xBits f 32 0 == 0)
      return .vfcmp t c d a b m)
  | _ => noFunction

/-- Group 5, vector conversion. -/
def decV5 (fn i : Nat) (f : Fields) : Dec Instr :=
  match fn with
  | 0 => noImm i (do
      let (d, a) ← vvz f
      let dt ← needSome (laneTy1 (tyOf f))
      need (xBits f 41 38 == 0)
      let m ← maskT f
      need (!xBit f 32)
      let st ← needSome (laneTy1 (xBits f 31 28))
      need (xBits f 27 20 == 0)
      need (xBits f 19 17 < widthRatio dt st)
      need (xBits f 16 0 == 0)
      need (!(laneIsInt dt && laneIsInt st) || noRound (rndOf f))
      return .vcvt dt st (rndOf f) (Fin.ofNat 4 (xBits f 19 17)) d a m)
  | 1 => noImm i (do
      let d ← vSpec 0 f.d
      let a ← vSpec 1 f.a
      let b ← gSpec 2 f.b
      let t ← needSome (bxTy (tyOf f))
      need (xBits f 43 32 == 0)
      let c ← cSpecV f
      need (blockOk t (xFin f 8 17))
      need (decide (c ≠ d))
      need (xBits f 16 0 == 0)
      return .vpkbx t d a b c (xFin f 16 20) (xFin f 8 17))
  | 2 => noImm i (do
      let d ← vSpec 0 f.d
      let a ← vSpec 1 f.a
      let b ← gSpec 2 f.b
      let t ← needSome (bxTy (tyOf f))
      need (xBits f 43 38 == 0)
      let m ← maskT f
      need (xBits f 32 20 == 0)
      need (blockOk t (xFin f 8 17))
      need (xBits f 16 0 == 0)
      return .vunbx t d a b (xFin f 8 17) m)
  | 3 => noImm i (do
      let (d, a) ← vvz f
      need (f.x == 0)
      return .vtrl d a)
  | _ => noFunction

/-- Group 6, permutation. -/
def decV6 (fn i : Nat) (f : Fields) : Dec Instr :=
  match fn with
  | 0 => bothForms i
      (do
        let d ← vSpec 0 f.d
        let a ← gSpec 1 f.a
        unused 2 f.b
        let t ← needSome (laneTy (tyOf f))
        need (xBits f 43 38 == 0)
        let m ← maskT f
        need (xBits f 32 0 == 0)
        return .vbcast t d a m)
      (do
        let d ← vSpec 0 f.d
        unused 1 f.a
        return .vbcastImm d (immOf f))
  | 1 => noImm i (do
      let d ← vSpec 0 f.d
      let a ← vSpec 1 f.a
      let b ← vSpec 2 f.b
      let t ← needSome (laneTy (tyOf f))
      need (xBits f 43 38 == 0)
      let m ← maskT f
      need (xBits f 32 0 == 0)
      return .vperm t d a b m)
  | 2 => noImm i (do
      let d ← vSpec 0 f.d
      let a ← vSpec 1 f.a
      let b ← gSpec 2 f.b
      let t ← needSome (laneTy (tyOf f))
      need (xBits f 43 38 == 0)
      let m ← maskT f
      need (xBits f 32 0 == 0)
      return .vslide t d a b m)
  | 3 => noImm i (do
      let d ← gSpec 0 f.d
      let a ← vSpec 1 f.a
      unused 2 f.b
      let t ← needSome (laneTy (tyOf f))
      need (xBits f 41 38 == 0)
      let m ← maskT f
      need (!m.z)
      need (!xBit f 32)
      let op ← needSome (redTy (xBits f 31 28))
      need (redOk t op)
      need (noRound (rndOf f) || decide (op = .fadd))
      need (xBits f 27 0 == 0)
      return .vred t (rndOf f) op d a m.mask)
  | 4 => noImm i (do
      let d ← vSpec 0 f.d
      let a ← gSpec 1 f.a
      let b ← gSpec 2 f.b
      let t ← needSome (laneTy (tyOf f))
      typeOnly f
      return .vins t d a b)
  | 5 => noImm i (do
      let d ← gSpec 0 f.d
      let a ← vSpec 1 f.a
      let b ← gSpec 2 f.b
      let t ← needSome (laneTy (tyOf f))
      typeOnly f
      return .vext t d a b)
  | _ => noFunction

/-- Group 7, vector memory. -/
def decV7 (fn i : Nat) (f : Fields) : Dec Instr :=
  match fn with
  | 0 => decVld i f false .vld
  | 1 => decVst i f false .vst
  | 2 => decVld i f false .vlds
  | 3 => decVst i f false .vsts
  | 4 => decVld i f true .vldx
  | 5 => decVst i f true .vstx
  | _ => noFunction

/-- Group 8, geometry. -/
def decV8 (fn i : Nat) (f : Fields) : Dec Instr :=
  match fn with
  | 0 => decGeo i f 2 .vrigid
  | 1 => decGeo i f 1 .vdist2
  | _ => noFunction

/-- Class 1 (R55). -/
def decClass1 (gr fn i : Nat) (f : Fields) : Dec Instr :=
  match gr with
  | 0 => decV0 fn i f
  | 1 => decV1 fn i f
  | 2 => decV2 fn i f
  | 3 => decV3g fn i f
  | 4 => decV4 fn i f
  | 5 => decV5 fn i f
  | 6 => decV6 fn i f
  | 7 => decV7 fn i f
  | 8 => decV8 fn i f
  | _ => noFunction

/-- The instruction of fields, checked in the order of R58. -/
def decodeInstr (f : Fields) : Dec Instr :=
  match f.op / 2 ^ 10 with
  | 0 => decClass0 (f.op / 2 ^ 5 % 2 ^ 5) (f.op / 2 % 2 ^ 4) (f.op % 2) f
  | 1 => decClass1 (f.op / 2 ^ 5 % 2 ^ 5) (f.op / 2 % 2 ^ 4) (f.op % 2) f
  | _ => .error ⟨0, 0⟩

/-- The decoding of 96 bits. -/
def decodeBits (w : Nat) : Dec Decoded := do
  let f := fieldsOf w
  let i ← decodeInstr f
  return ⟨f.neg == 1, Fin.ofNat 8 f.pred, BitVec.ofNat 8 f.hints, i⟩

/-- The number that bytes hold, byte 0 least significant (00 R3). -/
def bitsFromBytes : List Byte → Nat
  | [] => 0
  | b :: bs => b.toNat + 256 * bitsFromBytes bs

/-- The decoding of bytes as they lie in memory: the instruction and the bytes after its 12 (00 R3); fewer bytes are
no instruction. -/
def decode (bs : List Byte) : Dec (Decoded × List Byte) :=
  if bs.length < 12 then .error ⟨0, 0⟩
  else (decodeBits (bitsFromBytes (bs.take 12))).map (fun d => (d, bs.drop 12))

/-- The bytes of a number, least significant first. -/
def bytesOfBits (w : Nat) : Nat → List Byte
  | 0 => []
  | k + 1 => BitVec.ofNat 8 w :: bytesOfBits (w / 256) k

/-- The instruction whose low bits are w, the bits above nbits being 0. -/
def decodeTableWord (nbits w : Nat) : Option Instr :=
  match decode (bytesOfBits (w % 2 ^ nbits) 12) with
  | .ok (d, _) => some d.instr
  | .error _ => none

/-! ## Encoding -/

/-- The opcode, specifiers and X of an instruction; B and X of an immediate form lie in x, below 2^56. -/
structure Enc where
  op : Nat
  d : Nat
  a : Nat
  b : Nat
  x : Nat
deriving DecidableEq, Repr

/-- X of layout T (R49). -/
def xT (ty rnd cond rest : Nat) : Nat := ty * 2 ^ 44 + rnd * 2 ^ 42 + cond * 2 ^ 38 + rest

/-- X of layout M (R52). -/
def xM (size : Nat) (o : Nat × Nat) (sign : Bool) (per : Nat) (disp : BitVec 32) : Nat :=
  size * 2 ^ 45 + o.1 * 2 ^ 43 + o.2 * 2 ^ 40 + sign.toNat * 2 ^ 39 + per * 2 ^ 32 + disp.toNat

/-- The specifier of a g register. -/
def gS (r : GReg) : Nat := r.val

/-- The specifier of a v register. -/
def vS (r : VReg) : Nat := 64 + r.val

/-- The specifier of a p register. -/
def pS (r : PReg) : Nat := 128 + r.val

/-- The specifier of an m register. -/
def mS (r : MReg) : Nat := 136 + r.val

/-- The specifier of a v or g register. -/
def vgS : VSrc → Nat
  | .v r => vS r
  | .g r => gS r

/-- MK and Z of layout T. -/
def mkT (k : MaskSel) : Nat := maskCode k.mask * 2 ^ 34 + k.z.toNat * 2 ^ 33

/-- MK and Z of layout M, within X[38:32]. -/
def mkM (k : MaskSel) : Nat := maskCode k.mask * 2 ^ 3 + k.z.toNat * 2 ^ 2

/-- An immediate form (R45). -/
def encImm (op d a : Nat) (imm : BitVec 56) : Enc := ⟨op, d, a, imm.toNat / 2 ^ 48, imm.toNat % 2 ^ 48⟩

/-- op.t gD, gA, gB. -/
def encI3 (op : Nat) (t : Option IntTy) (d a b : GReg) : Enc := ⟨op, gS d, gS a, gS b, xT (intCode t) 0 0 0⟩

/-- op.t gD, gA. -/
def encI2 (op : Nat) (t : Option IntTy) (d a : GReg) : Enc := ⟨op, gS d, gS a, 0, xT (intCode t) 0 0 0⟩

/-- op.t.rm gD, gA, gB. -/
def encF3 (op : Nat) (t : Option FpTy) (r : Rnd) (d a b : GReg) : Enc :=
  ⟨op, gS d, gS a, gS b, xT (fpCode t) (rndCode r) 0 0⟩

/-- op.t vD, vA, v|g. -/
def encV3 (op : Nat) (t : Option LaneInt) (d a : VReg) (b : VSrc) (k : MaskSel) : Enc :=
  ⟨op, vS d, vS a, vgS b, xT (laneIntCode t) 0 0 (mkT k)⟩

/-- op.t.rm vD, vA, v|g. -/
def encVf (op : Nat) (t : Option FpTy) (r : Rnd) (d a : VReg) (b : Nat) (k : MaskSel) : Enc :=
  ⟨op, vS d, vS a, b, xT (fpCode t) (rndCode r) 0 (mkT k)⟩

/-- Two negations at X[1:0]. -/
def negs (na nb : Bool) : Nat := na.toNat * 2 + nb.toNat

/-- A vector memory instruction. -/
def encVm (op : Nat) (sz : VSize) (o : MemOrder) (d : VReg) (m : MemOp) (per : Nat) : Enc :=
  ⟨op, vS d, gS m.a, gS m.b, xM (vsizeCode sz) (ordCode o) false per m.disp⟩

/-- The encoding of an instruction; a step of the hardware has none. -/
def encodeInstr : Instr → Option Enc
  | .add t d a b => some (encI3 0x000 t d a b)
  | .addImm d a imm => some (encImm 0x001 (gS d) (gS a) imm)
  | .sub t d a b => some (encI3 0x002 t d a b)
  | .subImm d a imm => some (encImm 0x003 (gS d) (gS a) imm)
  | .and t d a b => some (encI3 0x004 t d a b)
  | .andImm d a imm => some (encImm 0x005 (gS d) (gS a) imm)
  | .or t d a b => some (encI3 0x006 t d a b)
  | .orImm d a imm => some (encImm 0x007 (gS d) (gS a) imm)
  | .xor t d a b => some (encI3 0x008 t d a b)
  | .xorImm d a imm => some (encImm 0x009 (gS d) (gS a) imm)
  | .andn t d a b => some (encI3 0x00A t d a b)
  | .andnImm d a imm => some (encImm 0x00B (gS d) (gS a) imm)
  | .min t d a b => some (encI3 0x00C t d a b)
  | .minImm d a imm => some (encImm 0x00D (gS d) (gS a) imm)
  | .max t d a b => some (encI3 0x00E t d a b)
  | .maxImm d a imm => some (encImm 0x00F (gS d) (gS a) imm)
  | .mul t d a b => some (encI3 0x020 t d a b)
  | .mulImm d a imm => some (encImm 0x021 (gS d) (gS a) imm)
  | .shl t d a b => some (encI3 0x040 t d a b)
  | .shlImm d a imm => some (encImm 0x041 (gS d) (gS a) imm)
  | .shr t d a b => some (encI3 0x042 t d a b)
  | .shrImm d a imm => some (encImm 0x043 (gS d) (gS a) imm)
  | .sar t d a b => some (encI3 0x044 t d a b)
  | .sarImm d a imm => some (encImm 0x045 (gS d) (gS a) imm)
  | .rotl t d a b => some (encI3 0x046 t d a b)
  | .rotlImm d a imm => some (encImm 0x047 (gS d) (gS a) imm)
  | .sel d a b p => some (⟨0x010, gS d, gS a, gS b, p.val⟩)
  | .lea d a b sh disp => some (⟨0x012, gS d, gS a, gS b, sh.val * 2 ^ 32 + disp.toNat⟩)
  | .mulh t d a b => some (encI3 0x022 t d a b)
  | .div t d a b => some (encI3 0x024 t d a b)
  | .rem t d a b => some (encI3 0x026 t d a b)
  | .madd t d a b c => some (⟨0x028, gS d, gS a, gS b, xT (intCode t) 0 0 (gS c * 2 ^ 30)⟩)
  | .clz t d a => some (encI2 0x048 t d a)
  | .ctz t d a => some (encI2 0x04A t d a)
  | .popc t d a => some (encI2 0x04C t d a)
  | .bext t d a pos len1 => some (⟨0x04E, gS d, gS a, 0, xT (wideCode t) 0 0 (len1.val * 2 ^ 6 + pos.val)⟩)
  | .bins d a pos len1 => some (⟨0x050, gS d, gS a, 0, len1.val * 2 ^ 6 + pos.val⟩)
  | .bswap t d a => some (⟨0x052, gS d, gS a, 0, xT (swapCode t) 0 0 0⟩)
  | .cmp t c d a b => some (⟨0x060, pS d, gS a, gS b, xT (intCode t) 0 (condCode c) 0⟩)
  | .pand d a b na nb => some (⟨0x062, pS d, pS a, pS b, negs na nb⟩)
  | .por d a b na nb => some (⟨0x064, pS d, pS a, pS b, negs na nb⟩)
  | .pxor d a b na nb => some (⟨0x066, pS d, pS a, pS b, negs na nb⟩)
  | .pmov (.pp d a na) => some (⟨0x068, pS d, pS a, 0, negs na false⟩)
  | .pmov (.pg d a) => some (⟨0x068, pS d, gS a, 0, 0⟩)
  | .pmov (.gp d a na) => some (⟨0x068, gS d, pS a, 0, negs na false⟩)
  | .fadd t r d a b => some (encF3 0x080 t r d a b)
  | .fsub t r d a b => some (encF3 0x082 t r d a b)
  | .fmul t r d a b => some (encF3 0x084 t r d a b)
  | .fdiv t r d a b => some (encF3 0x088 t r d a b)
  | .fma t r d a b c => some (⟨0x086, gS d, gS a, gS b, xT (fpCode t) (rndCode r) 0 (gS c * 2 ^ 30)⟩)
  | .fsqrt t r d a => some (⟨0x08A, gS d, gS a, 0, xT (fpCode t) (rndCode r) 0 0⟩)
  | .fmin t d a b => some (encF3 0x08C t .rne d a b)
  | .fmax t d a b => some (encF3 0x08E t .rne d a b)
  | .fcmp t c d a b => some (⟨0x090, pS d, gS a, gS b, xT (fpCode t) 0 (fcondCode c) 0⟩)
  | .fcls t d a => some (⟨0x092, gS d, gS a, 0, xT (fpCode t) 0 0 0⟩)
  | .cvt dt st r d a => some (⟨0x0A0, gS d, gS a, 0, xT (numCode dt) (rndCode r) 0 (numCode st * 2 ^ 34)⟩)
  | .fround t r d a => some (⟨0x0A2, gS d, gS a, 0, xT (fpCode t) (rndCode r) 0 0⟩)
  | .mov t d a => some (encI2 0x0C0 t d a)
  | .movImm d imm => some (encImm 0x0C1 (gS d) 0 imm)
  | .mfs d r => some (⟨0x0C2, gS d, 0, 0, sregCode r⟩)
  | .mts r a => some (⟨0x0C4, 0, gS a, 0, sregCode r⟩)
  | .mtsSspill a => some (⟨0x0C4, 0, gS a, 0, sregCode .sspill⟩)
  | .mtsScarve a => some (⟨0x0C4, 0, gS a, 0, sregCode .scarve⟩)
  | .mtsSvgroup a => some (⟨0x0C4, 0, gS a, 0, sregCode .svgroup⟩)
  | .mtsSdomain a => some (⟨0x0C4, 0, gS a, 0, sregCode .sdomain⟩)
  | .br imm => some (encImm 0x0E1 0 0 imm)
  | .jmp a => some (⟨0x0E2, 0, gS a, 0, 0⟩)
  | .call a => some (⟨0x0E4, 0, gS a, 0, 0⟩)
  | .callImm imm => some (encImm 0x0E5 0 0 imm)
  | .ret a => some (⟨0x0E6, 0, gS a, 0, 0⟩)
  | .loop d imm => some (encImm 0x0E9 (gS d) 0 imm)
  | .endAct => some (⟨0x0EA, 0, 0, 0, 0⟩)
  | .nop => some (⟨0x0EC, 0, 0, 0, 0⟩)
  | .ld sz o sg d m => some (⟨0x100, gS d, gS m.a, gS m.b, xM (sizeCode sz) (ordCode o) sg 0 m.disp⟩)
  | .st sz o d m => some (⟨0x102, gS d, gS m.a, gS m.b, xM (sizeCode sz) (ordCode o) false 0 m.disp⟩)
  | .pref n m => some (⟨0x104, 0, gS m.a, gS m.b, xM 0 (0, 0) false n.val m.disp⟩)
  | .stx sz d m => some (⟨0x106, gS d, gS m.a, gS m.b, xM (sizeCode sz) (0, 0) false 0 m.disp⟩)
  | .cwb sc n1 m => some (⟨0x108, 0, gS m.a, gS m.b, xM 0 (0, scopeBits sc) false n1.val m.disp⟩)
  | .cinv sc n1 m => some (⟨0x10A, 0, gS m.a, gS m.b, xM 0 (0, scopeBits sc) false n1.val m.disp⟩)
  | .amo sz sc sg op o d m => some (⟨0x120, gS d, gS m.a, gS m.b, xM (sizeCode sz) (0, scopeBits sc) sg (amoCode op * 2 ^ 3 + rmwCode o * 2) m.disp⟩)
  | .cas sz sc sg o d m => some (⟨0x122, gS d, gS m.a, gS m.b, xM (sizeCode sz) (0, scopeBits sc) sg (rmwCode o * 2) m.disp⟩)
  | .fence o sc => some (⟨0x140, 0, 0, 0, fenceCode o * 2 ^ 4 + scopeBits sc⟩)
  | .bset d a b => some (⟨0x142, gS d, gS a, 0, b.val⟩)
  | .barr d b => some (⟨0x144, gS d, 0, 0, b.val⟩)
  | .bwait a b => some (⟨0x146, 0, gS a, 0, b.val⟩)
  | .bsync b => some (⟨0x148, 0, 0, 0, b.val⟩)
  | .bxch b => some (⟨0x14A, 0, 0, 0, b.val⟩)
  | .spawn a => some (⟨0x160, 0, gS a, 0, 0⟩)
  | .send a b => some (⟨0x162, 0, gS a, gS b, 0⟩)
  | .arm d a b => some (⟨0x164, gS d, gS a, gS b, 0⟩)
  | .join a => some (⟨0x166, 0, gS a, 0, 0⟩)
  | .chset a ch => some (⟨0x168, 0, gS a, 0, ch.val⟩)
  | .chmsk d a op => some (⟨0x16A, gS d, gS a, 0, chmskCode op⟩)
  | .trap c => some (⟨0x180, 0, 0, 0, c.toNat⟩)
  | .tret => some (⟨0x182, 0, 0, 0, 0⟩)
  | .twait d a => some (⟨0x184, gS d, gS a, 0, 0⟩)
  | .tabort => some (⟨0x186, 0, 0, 0, 0⟩)
  | .fpostPost a k => some (⟨0x188, 0, gS a, 0, kindCode k⟩)
  | .fpostServe a b fl => some (⟨0x188, 0, gS a, gS b, 2 ^ 4 + fl.toNat * 2 ^ 3⟩)
  | .tlbinv (.page a) => some (⟨0x18A, 0, gS a, 0, 0⟩)
  | .tlbinv .context => some (⟨0x18A, 0, 0, 0, 1⟩)
  | .tlbinv .all => some (⟨0x18A, 0, 0, 0, 2⟩)
  | .shand d a => some (⟨0x18C, gS d, gS a, 0, 0⟩)
  | .shandQuery d => some (⟨0x18C, gS d, 0, 0, 1⟩)
  | .pnew d a b sp => some (⟨0x1A0, gS d, gS a, gS b, sp.val⟩)
  | .pdel a => some (⟨0x1A2, 0, gS a, 0, 0⟩)
  | .pset d a b => some (⟨0x1A4, gS d, gS a, gS b, 0⟩)
  | .pld d a w => some (⟨0x1A6, gS d, gS a, 0, w.val⟩)
  | .pstw d a w => some (⟨0x1A8, gS d, gS a, 0, w.val⟩)
  | .pqbox d a b sp => some (⟨0x1AA, gS d, gS a, gS b, sp.val⟩)
  | .pqrad d a b sp => some (⟨0x1AC, gS d, gS a, gS b, sp.val⟩)
  | .pqwait d a => some (⟨0x1AE, gS d, gS a, 0, 0⟩)
  | .pres d a => some (⟨0x1B0, gS d, gS a, 0, 0⟩)
  | .pmap d a sp => some (⟨0x1B2, gS d, gS a, 0, sp.val⟩)
  | .pspcDefine d a sp => some (⟨0x1B4, gS d, gS a, 0, sp.val⟩)
  | .pspcDelete d a sp => some (⟨0x1B4, gS d, gS a, 0, 2 ^ 4 + sp.val⟩)
  | .cpy d a out ch => some (⟨0x1C0, gS d, gS a, 0, out.toNat * 2 + ch.val⟩)
  | .cpwp d ch => some (⟨0x1C2, gS d, 0, 0, ch.val⟩)
  | .cpwait d a ch => some (⟨0x1C4, gS d, gS a, 0, ch.val⟩)
  | .tgive a n1 e => some (⟨0x1C6, 0, gS a, 0, n1.val * 2 ^ 8 + engineCode e⟩)
  | .ttake a n1 => some (⟨0x1C8, 0, gS a, 0, n1.val * 2 ^ 8⟩)
  | .mxq d a => some (⟨0x1CA, gS d, gS a, 0, 0⟩)
  | .mxwait a => some (⟨0x1CC, 0, gS a, 0, 0⟩)
  | .shdef d a b => some (⟨0x1CE, gS d, gS a, gS b, 0⟩)
  | .shkill a => some (⟨0x1D0, 0, gS a, 0, 0⟩)
  | .vadd t d a b k => some (encV3 0x400 t d a b k)
  | .vsub t d a b k => some (encV3 0x402 t d a b k)
  | .vmin t d a b k => some (encV3 0x404 t d a b k)
  | .vmax t d a b k => some (encV3 0x406 t d a b k)
  | .vadds t d a b k => some (encV3 0x40A t d a b k)
  | .vsubs t d a b k => some (encV3 0x40C t d a b k)
  | .vmul t d a b k => some (encV3 0x420 t d a b k)
  | .vmulh t d a b k => some (encV3 0x422 t d a b k)
  | .vand t d a b k => some (encV3 0x440 t d a b k)
  | .vor t d a b k => some (encV3 0x442 t d a b k)
  | .vxor t d a b k => some (encV3 0x444 t d a b k)
  | .vshl t d a b k => some (encV3 0x446 t d a b k)
  | .vshr t d a b k => some (encV3 0x448 t d a b k)
  | .vsar t d a b k => some (encV3 0x44A t d a b k)
  | .vabs t d a k => some (⟨0x408, vS d, vS a, 0, xT (laneIntCode t) 0 0 (mkT k)⟩)
  | .vmadd t d a b c k => some (⟨0x424, vS d, vS a, vgS b, xT (laneIntCode t) 0 0 (mkT k + vS c * 2 ^ 24)⟩)
  | .vdot4 t d a b k => some (⟨0x426, vS d, vS a, vgS b, xT (dotCode t) 0 0 (mkT k)⟩)
  | .vcmp t c d a b k => some (⟨0x460, mS d, vS a, vgS b, xT (laneIntCode t) 0 (condCode c) (mkT k)⟩)
  | .vsel t d a b m => some (⟨0x462, vS d, vS a, vgS b, xT (laneCode t) 0 0 (mkT ⟨some m, false⟩)⟩)
  | .mand d a b na nb => some (⟨0x464, mS d, mS a, mS b, negs na nb⟩)
  | .mor d a b na nb => some (⟨0x466, mS d, mS a, mS b, negs na nb⟩)
  | .mxor d a b na nb => some (⟨0x468, mS d, mS a, mS b, negs na nb⟩)
  | .mpop t d a => some (⟨0x46A, gS d, mS a, 0, xT (laneIntCode t) 0 0 0⟩)
  | .vfadd t r d a b k => some (encVf 0x480 t r d a (vgS b) k)
  | .vfsub t r d a b k => some (encVf 0x482 t r d a (vgS b) k)
  | .vfmul t r d a b k => some (encVf 0x484 t r d a (vgS b) k)
  | .vfdiv t r d a b k => some (encVf 0x48C t r d a (vgS b) k)
  | .vfmin t d a b k => some (encVf 0x488 t .rne d a (vgS b) k)
  | .vfmax t d a b k => some (encVf 0x48A t .rne d a (vgS b) k)
  | .vfsqrt t r d a k => some (encVf 0x48E t r d a 0 k)
  | .vfexp2 t r d a k => some (encVf 0x490 t r d a 0 k)
  | .vffma t r d a b c k => some (⟨0x486, vS d, vS a, vgS b, xT (fpCode t) (rndCode r) 0 (mkT k + vS c * 2 ^ 24)⟩)
  | .vfcmp t c d a b k => some (⟨0x492, mS d, vS a, vgS b, xT (fpCode t) 0 (fcondCode c) (mkT k)⟩)
  | .vcvt dt st r part d a k => some (⟨0x4A0, vS d, vS a, 0, xT (laneCode1 dt) (rndCode r) 0 (mkT k + laneCode1 st * 2 ^ 28 + part.val * 2 ^ 17)⟩)
  | .vpkbx t d a b c sp blk => some (⟨0x4A2, vS d, vS a, gS b, xT (bxCode t) 0 0 (vS c * 2 ^ 24 + sp.val * 2 ^ 20 + blk.val * 2 ^ 17)⟩)
  | .vunbx t d a b blk k => some (⟨0x4A4, vS d, vS a, gS b, xT (bxCode t) 0 0 (mkT k + blk.val * 2 ^ 17)⟩)
  | .vtrl d a => some (⟨0x4A6, vS d, vS a, 0, 0⟩)
  | .vbcast t d a k => some (⟨0x4C0, vS d, gS a, 0, xT (laneCode t) 0 0 (mkT k)⟩)
  | .vbcastImm d imm => some (encImm 0x4C1 (vS d) 0 imm)
  | .vperm t d a b k => some (⟨0x4C2, vS d, vS a, vS b, xT (laneCode t) 0 0 (mkT k)⟩)
  | .vslide t d a b k => some (⟨0x4C4, vS d, vS a, gS b, xT (laneCode t) 0 0 (mkT k)⟩)
  | .vred t r op d a m => some (⟨0x4C6, gS d, vS a, 0, xT (laneCode t) (rndCode r) 0 (mkT ⟨m, false⟩ + redCode op * 2 ^ 28)⟩)
  | .vins t d a b => some (⟨0x4C8, vS d, gS a, gS b, xT (laneCode t) 0 0 0⟩)
  | .vext t d a b => some (⟨0x4CA, gS d, vS a, gS b, xT (laneCode t) 0 0 0⟩)
  | .vld sz o d m k => some (encVm 0x4E0 sz o d m (mkM k))
  | .vlds sz o d m k => some (encVm 0x4E4 sz o d m (mkM k))
  | .vldx sz o d m k => some (encVm 0x4E8 sz o d m (mkM k))
  | .vst sz o d m k => some (encVm 0x4E2 sz o d m (mkM ⟨k, false⟩))
  | .vsts sz o d m k => some (encVm 0x4E6 sz o d m (mkM ⟨k, false⟩))
  | .vstx sz o d m k => some (encVm 0x4EA sz o d m (mkM ⟨k, false⟩))
  | .vrigid ty d a b k => some (⟨0x500, vS d, vS a, vS b, xT (if ty then 3 else 0) 0 0 (mkT k)⟩)
  | .vdist2 ty d a b k => some (⟨0x502, vS d, vS a, vS b, xT (if ty then 3 else 0) 0 0 (mkT k)⟩)
  | .budget _ _ | .handlerLimit _ _ | .selection _ | .sendHandoff _ _ | .stealRequest _ _ | .stealClaim _
  | .stealEmpty _ | .stealInstall _ | .installBufferDrain _ | .messageArrival _ | .frameRefused _ _ _ _
  | .outboundRetry _ _ _ | .preemptRequest _ _ | .contextSave _ _ | .restoreRequest _ _ _
  | .contextRestore _ | .wakeArrival _ _ | .launchRootStart _ | .gets _ _ _ | .getm _ _ _ | .put _ _ _
  | .probe _ | .probeAnswer _ | .conflictRetry _ | .pageWalk _ _ | .pinRelease _ _ | .stxLanding _
  | .barrierReport _ | .cchLand _ _ _ _ | .mma _ _ | .mmv _ _ | .mvld _ _ | .mzero _ | .macld _ _
  | .macst _ _ | .narrowEnter _ | .narrowExit _ | .derefAtHome _ _ _ | .moveDeparture _ | .moveArrival _
  | .moveAck _ | .moveRefuse _ | .moveHomeUpdate _ | .queryRequest _ _ | .queryAnswer _ _
  | .tombstoneFree _ _ _ | .scrimPost _ | .scrimPostRetry _ | .scrimWake _ | .wakeDelivery _
  | .handoverStage _ | .notownerRetry _ | .flitReceive _ _ | .lathReplay _ | .retrainComplete _ _
  | .replayAudit _ _ | .dieUnreachable _ | .fenceConfirm _ | .dieRejoin _ | .rdmaWrite _ _ _
  | .rdmaRead _ _ _ | .launchParse _ | .launchForward _ _ _ | .admission _ | .admissionRecheck _
  | .completionDetect _ | .completionWrite _ | .completionNotice _ _ | .ptpMessage _ | .powerAlarm _ _
  | .alarmClear _ _ | .thermalCutoff _ _ | .imageUpdate _ | .controllerCheckIn | .updateWatchdog
  | .coronaipFailover | .patrolScrub _ | .powerOn _ | .energyCounterUpdate _ _ | .cxlLinkDown _
  | .versionFloorRaise _ => none

/-- The fields of an encoding under a guard and hints. -/
def encFields (neg : Bool) (pred : PReg) (hints : Byte) (e : Enc) : Fields :=
  ⟨e.op, neg.toNat, pred.val, hints.toNat, e.d, e.a, e.b, e.x⟩

/-- The 96 bits of an instruction with its guard and hints. -/
def encode (d : Decoded) : Option Nat :=
  (encodeInstr d.instr).map (fun e => wordBits (encFields d.neg d.pred d.hints e))

end Sys2Proof
end

