-- ==== Sys2Proof/Machine/Time.lean ====
section
/-! DEFINITION. Time passing, and data lost to uncorrectable errors (02 R30; 07 R172, R179; 10 R221; 18 R341, R349;
20 R368, R379, R382; 23 R414). -/

namespace Sys2Proof.Machine

/-- What happens next when the agenda is empty (log 12 DESIGN CHOICE). -/
opaque schedule : Nat → Turn

/-- A 32-bit count down by n, not below 0. -/
def countDown (x : BitVec 32) (n : Nat) : BitVec 32 := BitVec.ofNat 32 (x.toNat - n)

/-- Whether cycles count against sbudget in a state (07 R179). -/
def spendsBudget : SlotRun → Bool
  | .run | .wait _ => true
  | .free | .commit => false

/-- A slot's count of cycles since its last issue (02 R39). -/
def issueTick (n : Nat) (x : Slot) : Slot := { x with sinceIssue := x.sinceIssue.map (fun k => k + n) }

/-- A slot's budget or handler limit after cycles have passed (07 R179; 18 R341). -/
def budgetTick (n : Nat) (x : Slot) : Slot :=
  match x.level with
  | 0 => if spendsBudget x.run then { x with sbudget := countDown x.sbudget n } else x
  | 1 => if x.run = .run then { x with limit := x.limit.set 0 (x.limit[0] - n) } else x
  | _ => if x.run = .run then { x with limit := x.limit.set 1 (x.limit[1] - n) } else x

/-- A slot after cycles have passed (02 R39; 07 R179; 18 R341). -/
def slotTick (n : Nat) (x : Slot) : Slot := budgetTick n (issueTick n x)

/-- The state of a frame on its way after cycles have passed: a wait after a refusal runs down (07 R172). -/
def waitTick (n : Nat) : PortState → PortState
  | .waiting k => .waiting (k - n)
  | x => x

/-- A frame of a port after cycles have passed (07 R172). -/
def portTick (n : Nat) (m : OutMsg) : OutMsg := { m with state := waitTick n m.state }

/-- A page-service request after cycles have passed (07 R172; 18 R350). -/
def psvcTick (n : Nat) (m : PsvcMsg) : PsvcMsg := { m with state := waitTick n m.state }

/-- A cell after cycles have passed (07 R170, R172). -/
def cellTick (n : Nat) (x : Cell) : Cell :=
  { x with port := x.port.map (portTick n), stealWait := x.stealWait - n }

/-- A request that waits to be sent again, after cycles have passed (10 R221; 20 R368). -/
def retryTick (n : Nat) (r : Retry) : Retry := { r with wait := r.wait - n }

/-- A refused post after cycles have passed (18 R349). -/
def postTick (n : Nat) (m : PostMsg) : PostMsg := { m with wait := m.wait.map (fun k => k - n) }

/-- A link whose window stands unacknowledged, after cycles have passed (20 R379). -/
def linkTick (n : Nat) (x : Link) : Link :=
  if x.up && !x.window.isEmpty then { x with stalled := x.stalled + n } else x

/-- A die that has not been heard from, after a time (20 R382). -/
def healthTick (ns : Nat) (h : DieHealth) : DieHealth :=
  if h.reported then h else { h with silent := h.silent + ns }

/-- A stream after a time: its unanswered messages grow older (20 R382). -/
def streamTick (ns : Nat) (x : Stream) : Stream := { x with kept := x.kept.map (fun n => (n.1, n.2 + ns)) }

/-- The work of a base die's controller after a time: its refresh goes on (23 R407). -/
def baseTick (ns : Nat) (w : BaseWork) : BaseWork := { w with refresh := w.refresh + ns }

/-- The time base after some nanoseconds: it never falls, and stands at its largest value (02 R30). -/
def laterTime (t : Word) (ns : Nat) : Word := BitVec.ofNat 64 (min (2 ^ 64 - 1) (t.toNat + ns))

/-- Cycles of the core clock and nanoseconds of the time base pass (log 10 DESIGN CHOICE). -/
def passTime (s : State) (cycles ns : Nat) : State :=
  { s with
    slots := tabMap (fun _ x => slotTick cycles x) s.slots
    cells := tabMap (fun _ x => cellTick cycles x) s.cells
    coh := { s.coh with
      retries := s.coh.retries.map (retryTick cycles)
      notowner := s.coh.notowner.map (retryTick cycles) }
    scrim := { s.scrim with
      posts := s.scrim.posts.map (postTick cycles)
      psvcs := s.scrim.psvcs.map (psvcTick cycles) }
    dies := { s.dies with
      links := s.dies.links.map (linkTick cycles)
      streams := tabMap (fun _ x => streamTick ns x) s.dies.streams
      health := s.dies.health.map (healthTick ns) }
    plat := { s.plat with
      heartbeat := s.plat.heartbeat + ns
      baseWork := s.plat.baseWork.map (baseTick ns) }
    stime := laterTime s.stime ns
    cycle := s.cycle + cycles }

/-- A sector of memory loses its data, what caches hold of it staying good (20 R384; 23 R414; log 41 DEDUCED). -/
def upsetSector (s : State) (sector : Nat) : State :=
  if !memExists s (sector * 32) || s.poison.contains sector then s
  else { keepGood s (fun k => k = sector) with poison := s.poison ++ [sector] }

/-- A sector of a scratchpad loses its data (23 R414). -/
def upsetPadSector (s : State) (c sector : Nat) : State :=
  let x := ccAt s c
  if !(cellAt s c).live || padSize x ≤ sector * 32 || x.padPoison.contains sector then s
  else putCc s c { x with padPoison := x.padPoison ++ [sector] }

/-- A frame whose words have been lost, from a number on (log 28 DESIGN CHOICE). -/
def lostFrame (n : Nat) : Frame := markLost (Vector.ofFn (fun i => Config.freeWord (n + i.val)))

/-- A frame of a hod loses its data (23 R414; log 41 DEDUCED). -/
def upsetHod (s : State) (c i : Nat) : State :=
  let x := ccAt s c
  if !(cellAt s c).live || x.hod.length ≤ i then s
  else { putCc s c { x with hod := listSet x.hod i (lostFrame s.freeNo) } with freeNo := s.freeNo + 8 }

/-- A frame of a channel queue loses its data (23 R414; log 41 DEDUCED). -/
def upsetChan (s : State) (c : Nat) (ch : Fin 32) (i : Nat) : State :=
  let x := ccAt s c
  let k := x.chans[ch]
  if !(cellAt s c).live || k.queue.length ≤ i then s
  else
    { putCc s c { x with chans := x.chans.set ch { k with queue := listSet k.queue i (lostFrame s.freeNo) } } with
      freeNo := s.freeNo + 8 }

/-- The active Coronaip gives a heartbeat, while it runs (23 R404). -/
def heartbeat (s : State) : State :=
  if (s.plat.controllers[Fin.ofNat 26 s.plat.activeCoronaip.val]).state = .running then
    { s with plat := { s.plat with heartbeat := 0 } }
  else s

end Sys2Proof.Machine
end

