-- ==== Sys2Proof/Machine/Fetch.lean ====
section
/-! DEFINITION. What a turn does before any meaning is performed: the next turn taken, waits and stalls, the fetch of an
instruction, its decoding and its guard (02 R33, R35, R36; 07 R152, R179, R180). -/

namespace Sys2Proof.Machine

/-- What a turn comes to: a state, or an instruction or step to perform. -/
inductive Ready where
  | done (s : State)
  | go (s : State) (i : Instr)
deriving DecidableEq, Repr

/-! ## Fetch (R32, R33) -/

/-- The address of the running slot's instruction (R32). -/
def fetchAddr (s : State) : Word := (ccOf s).scbase + BitVec.ofNat 64 (12 * (ipOf s).toNat)

/-- LIM (R32). -/
def fetchLim (s : State) : Nat := bitsOf (ccOf s).sclim 31 0

/-- IFETCH (R33; 18 R345; log 55 DEDUCED). -/
def ifetchTrap (first a : Word) : TrapInfo := ⟨7, a, infoAccess 0 (laterPage first a) 0 0⟩

/-- Where a byte of an instruction lies, if its page is translated with execute permission (R33). -/
def fetchLocate (s : State) (a : Word) : Except Bad Loc :=
  if bitsOf a 63 55 ≠ 0 then .error .addr
  else
    match translate s s.curCell (ccOf s).desc a.toNat with
    | .error l => .error (.xlate l)
    | .ok e => if e.x then .ok (.mem (tlbPa e a.toNat)) else .error .prot

/-- The access of a fetch, for the report of poison (18 R344, R345). -/
def fetchAccess : Access := ⟨0, 0, false, false, true, true⟩

/-- What a fetch gives: a trap, a wait, or the twelve bytes. -/
inductive Fetched where
  | trap (s : State) (t : TrapInfo)
  | wait (s : State)
  | bytes (s : State) (bs : List Byte)
deriving DecidableEq, Repr

/-- The fetch of the running slot's instruction, its pages walked and its lines got by its die (R33; 18 R344; log 13 DEDUCED). -/
def fetch (s : State) : Fetched :=
  let first := fetchAddr s
  if fetchLim s ≤ (ipOf s).toNat then .trap s ⟨7, 0, infoAccess 0 false 0 0⟩
  else
    let as := addrsFrom first 12
    match walkPages s s.curCell (ccOf s).desc (pagesOf as) with
    | .error w => .wait w
    | .ok t =>
      match walkUe t t.curCell (ccOf t).desc fetchAccess first as with
      | some e => .trap t e
      | none =>
        let rs := as.map (fun a => (a, fetchLocate t a))
        match lowestBad rs with
        | some (a, _) => .trap t (ifetchTrap first a)
        | none =>
          let ls := locsOf rs
          match acquireLines t (myDie t) (engineOf (myDie t)) false (linesOf ls) with
          | .error w => .wait w
          | .ok u =>
            match poisonTrap u fetchAccess first as ls with
            | some e => .trap u e
            | none => .bytes u (loadedBytes u ls)

/-! ## Decode and guard (R35, R36) -/

/-- ILLOP on an undefined encoding (03 R59). -/
def trapIllop (s : State) (bs : List Byte) (e : Ill) : State :=
  trapHere s 1 0 (infoIllop e.reason e.pos (BitVec.ofNat 12 (bitsFromBytes (bs.take 12) / 2 ^ 84)))

/-- Whether a guard is false (R36). -/
def guardFalse (s : State) (d : Decoded) : Bool := readP s d.pred = d.neg

/-- The issue delay that the twelve bytes of an instruction ask for: bits [79:76] (R39; log 10 DESIGN CHOICE). -/
def issueDelay (bs : List Byte) : Nat := bitsFromBytes (bs.take 12) / 2 ^ 76 % 16

/-- Whether the cycles of an issue delay have not passed since the activation's last issue (R39). -/
def tooEarly (x : Slot) (n : Nat) : Bool :=
  match x.sinceIssue with
  | some k => k < n
  | none => false

/-- The running slot has issued (R39). -/
def markIssue (s : State) : State := putSlot s { slotOf s with sinceIssue := some 0 }

/-- What the running slot has issued kept, which a stall performs. -/
def noteIssued (s : State) (i : Instr) : State := putSlot s { slotOf s with issued := i }

/-- An instruction that issues: ILLOP, a false guard, or one to perform (R35 steps 2 and 3). -/
def issueWord (s : State) (bs : List Byte) : Ready :=
  match decode bs with
  | .error e => .done (trapIllop s bs e)
  | .ok (d, _) => if guardFalse s d then .done (advance s) else .go (noteIssued s d.instr) d.instr

/-- The instruction at the running slot's IP: a trap, a wait for its issue delay, or its issue (R35 steps 1 to 3, R39). -/
def issue (s : State) : Ready :=
  match fetch s with
  | .trap t e => .done (takeInfo t e)
  | .wait t => .done t
  | .bytes t bs => if tooEarly (slotOf t) (issueDelay bs) then .done t else issueWord (markIssue t) bs

/-- A stalled slot's turn: an instruction that waits, or asks a home for its line, is performed again, one on its way once it has arrived,
and any other stall ends when what it waits for has come (07 R180; 20 R377, R388). -/
def stallTurn (s : State) (x : Slot) : Ready :=
  match x.stall with
  | .again => .go (setStall s .none) x.issued
  | .there | .home _ => .go s x.issued
  | .trip t => if arrived s t then .go (setStall s .there) x.issued else .done s
  | w => .done ((resumeStall s w).getD s)

/-- A turn of a slot that has been made the one at hand (07 R152, R179, R180). -/
def slotTurn (s : State) : Ready :=
  let x := slotOf s
  match x.run with
  | .free | .commit => .done s
  | .wait w =>
    match resumeWait s w with
    | some t => .done t
    | none => .done (if x.level = 0 && x.sbudget = 0 then abandonWait s w else s)
  | .run =>
    if x.stall ≠ .none then stallTurn s x
    else if budgetDue x then .done (trapBudget s)
    else issue s

/-! ## Turns -/

/-- The cells that a step of the hardware names; none for an instruction word. -/
def eventCells : Instr → Option (List Nat)
  | .budget c _ | .handlerLimit c _ | .selection c | .sendHandoff c _ | .stealClaim c | .stealEmpty c
  | .stealInstall c | .installBufferDrain c | .preemptRequest c _ | .contextSave c _ | .restoreRequest c _ _
  | .contextRestore c | .wakeArrival c _ | .launchRootStart c | .pageWalk c _ | .cchLand c _ _ _ | .mma c _
  | .mmv c _ | .mvld c _ | .mzero c | .macld c _ | .macst c _ | .narrowEnter c | .narrowExit c => some [c]
  | .stealRequest c v => some [c, v]
  | .frameRefused c _ _ _ | .outboundRetry c _ _ => some [c]
  | .messageArrival _ | .gets _ _ _ | .getm _ _ _ | .put _ _ _ | .probe _ | .probeAnswer _ | .conflictRetry _
  | .pinRelease _ _ | .stxLanding _ | .barrierReport _ | .derefAtHome _ _ _ | .moveDeparture _ | .moveArrival _
  | .moveAck _ | .moveRefuse _ | .moveHomeUpdate _ | .queryRequest _ _ | .queryAnswer _ _
  | .tombstoneFree _ _ _ | .scrimPost _ | .scrimPostRetry _ | .scrimWake _ | .wakeDelivery _
  | .handoverStage _ | .notownerRetry _ | .flitReceive _ _ | .lathReplay _ | .retrainComplete _ _
  | .replayAudit _ _ | .dieUnreachable _ | .fenceConfirm _ | .dieRejoin _ | .rdmaWrite _ _ _
  | .rdmaRead _ _ _ | .launchParse _ | .launchForward _ _ _ | .admission _ | .admissionRecheck _
  | .completionDetect _ | .completionWrite _ | .completionNotice _ _ | .ptpMessage _ | .powerAlarm _ _
  | .alarmClear _ _ | .thermalCutoff _ _ | .imageUpdate _ | .controllerCheckIn | .updateWatchdog
  | .coronaipFailover | .patrolScrub _ | .powerOn _ | .energyCounterUpdate _ _ | .cxlLinkDown _
  | .versionFloorRaise _ => some []
  | _ => none

/-- Whether a step of the hardware can happen: it is no instruction word, and the cells it names exist (log 53 DEDUCED). -/
def eventOk (s : State) (i : Instr) : Bool :=
  match eventCells i with
  | some cs => cs.all (fun c => c < cellCount s)
  | none => false

/-- A turn taken (log 11 DESIGN CHOICE, log 12 DESIGN CHOICE). -/
def takeTurn (s : State) : Turn → Ready
  | .slot c k => if c < cellCount s then slotTurn (focus s c k) else .done s
  | .event i => if eventOk s i then .go s i else .done s
  | .tick cycles ns => .done (passTime s cycles ns)
  | .upset sector => .done (upsetSector s sector)
  | .upsetPad c sector => .done (upsetPadSector s c sector)
  | .upsetHod c i => .done (upsetHod s c i)
  | .upsetChan c ch i => .done (upsetChan s c ch i)
  | .heartbeat => .done (heartbeat s)
  | .importImage x => .done (importImage s x)
  | .exportImage phys ctxid => .done (exportImage s phys ctxid)

/-- The next turn: the head of the agenda, or what the schedule gives (log 12 DESIGN CHOICE). -/
def nextTurn (s : State) : Turn := s.agenda.headD (schedule s.turnNo)

/-- The state in which the next turn is taken. -/
def dropTurn (s : State) : State := { s with agenda := s.agenda.drop 1, turnNo := s.turnNo + 1 }

/-- What the next turn comes to. -/
def nextReady (s : State) : Ready := takeTurn (dropTurn s) (nextTurn s)

end Sys2Proof.Machine
end

