-- ==== Sys2Proof/Machine/FetchWord.lean ====
section
/-! DEFINITION. A word placed where the next step fetches it: one running slot, a one-word image at virtual address 0 and
the three table entries that map it (02 R32; 10 R208, R209). -/

namespace Sys2Proof.Machine

/-- The physical addresses of the root, level 2 and level 3 tables. -/
def rootAt : Nat := 0x10000

/-- The level 2 table. -/
def level2At : Nat := 0x20000

/-- The level 3 table. -/
def level3At : Nat := 0x40000

/-- Memory with twelve code bytes at address 0, mapped read, write and execute at virtual address 0. -/
def placeCode (s : State) (bs : List Byte) : State :=
  memWrite (memWrite (memWrite (memWrite s 0 bs) rootAt (bytesOf (level2At + 1) 8)) level2At (bytesOf (level3At + 1) 8))
    level3At (bytesOf 0x39 8)

/-- A context that runs a one-word image at virtual address 0. -/
def oneWordCtx (x : CtxCell) : CtxCell := { x with desc := { x.desc with root := rootAt }, scbase := 0, sclim := 1 }

/-- A slot that runs at IP 0, level 0, with budget and nothing pending. -/
def readySlot (x : Slot) : Slot :=
  { x with ip := 0, level := 0, run := .run, sbudget := 0x400000, stall := .none, issued := .nop, sinceIssue := none }

/-- The lines that the fetch reads: the code and the three table entries. -/
def fetchLines : List Nat := [0, rootAt / 128, level2At / 128, level3At / 128]

/-- The coherence state in which a die holds those lines, so that the fetch waits for no home. -/
def readyCoh (d : Nat) : Coh :=
  fetchLines.foldl (fun c l =>
    homeSet (takeLevel c d l .e 1 0) l ⟨1, .e, 1#4 <<< d, BitVec.ofNat 2 d⟩)
      ⟨[], [], [], [], [], [], [], [], [], [], [], [], [], [], [], []⟩

/-- The current slot ready to fetch a word of `nbits` bits, the agenda giving it the next turn. -/
def placeWord (s : State) (nbits w : Nat) : State :=
  let s1 := placeCode s (bytesOfBits (w % 2 ^ nbits) 12)
  let s2 := putCell s1 s1.curCell { cellAt s1 s1.curCell with live := true, cc := oneWordCtx (ccOf s1) }
  let s3 := putSlot s2 (readySlot (slotOf s2))
  { s3 with
    tlbs := ⟨[], [], [], []⟩
    coh := readyCoh (myDie s3)
    poison := []
    agenda := .slot s3.curCell s3.curSlot :: s3.agenda }

end Sys2Proof.Machine
end

