-- ==== Sys2Proof/Machine/Step.lean ====
section
/-! DEFINITION. One step of the package, and a word placed where it fetches next. -/

namespace Sys2Proof.Machine

/-- A ready turn finished: a state as it stands, or an instruction or step performed. -/
def finish : Ready → Host.Outcome State Fault Refusal
  | .done t => .next t
  | .go t i => exec i t

/-- One step: the next turn of the agenda, or of the schedule (log 12 DESIGN CHOICE). -/
def step (s : State) : Host.Outcome State Fault Refusal := finish (nextReady s)

/-- The state in which the next step fetches and runs the word (log 14 DESIGN CHOICE). -/
def State.withFetchWord (s : State) (nbits w : Nat) : State := placeWord s nbits w

end Sys2Proof.Machine
end

