-- ==== Sys2Proof/Safety.lean ====
section
/-! DEFINITION. What counts as a sound state and a safe run of the package. -/

namespace Sys2Proof.Safety

open Sys2Proof.Machine

/-- Memory stands in its one canonical form (log 5 DESIGN CHOICE). -/
abbrev MemOk (s : State) : Prop := Memory.wf s.mem = true

/-- The dirty bytes that caches hold are listed once each, in rising order. -/
abbrev DirtyOk (s : State) : Prop := tabSorted s.dirty = true

/-- Slots and cells are listed once each, in rising order. -/
abbrev TablesOk (s : State) : Prop := tabSorted s.slots = true ∧ tabSorted s.cells = true

/-- The invariant of the package's data: every table in its canonical form. -/
abbrev Inv (s : State) : Prop := MemOk s ∧ DirtyOk s ∧ TablesOk s

/-- A FREE slot is at level 0 and defers nothing (07 R152, R157). -/
def FreeClean (s : State) : Prop :=
  ∀ c k, (slotAt s c k).run = .free → (slotAt s c k).level = 0 ∧ (slotAt s c k).release = [] ∧ (slotAt s c k).joins = []

/-- A die is one of the two that a stack is wired to (01 R14). -/
abbrev InPair (k : Fin 12) (d : Fin 4) : Prop := d = (pairOf k).1 ∨ d = (pairOf k).2

/-- Every owner, every active port and the heir of every hand-over is of the stack's pair (01 R14). -/
def PairsOk (s : State) : Prop :=
  (∀ (d : Fin 4) (k : Fin 12), InPair k (s.dies.tables[d]).owner[k] ∧ InPair k s.dies.active[k]) ∧
    ∀ h ∈ s.dies.handovers, InPair h.stack h.new

/-- A step that goes on: neither a fault nor a refusal. -/
def GoesOn (s : State) : Prop := ∃ t, step s = .next t

/-- What a run of n steps reaches, if every step goes on. -/
def Reaches : Nat → State → State → Prop
  | 0, s, t => s = t
  | n + 1, s, t => ∃ u, step s = .next u ∧ Reaches n u t

/-! ## What an instruction leaves as it was -/

/-- Everything but the slot at hand is as before. -/
def OnlySlot (s t : State) : Prop :=
  { t with slots := s.slots } = s ∧
    ∀ c k, ¬(c = s.curCell ∧ k = s.curSlot) → slotAt t c k = slotAt s c k

/-- The instruction answers a next state: from `u`, to which its fetches and walks have led, the slot at hand becomes `x`, and
nothing else changes. -/
def GivesFrom (i : Instr) (s u : State) (x : Slot) : Prop := ∃ t, exec i s = .next t ∧ slotOf t = x ∧ OnlySlot u t

/-- The instruction answers a next state: the slot at hand becomes `x`, and nothing else changes. -/
def Gives (i : Instr) (s : State) (x : Slot) : Prop := GivesFrom i s s x

/-- The instruction has issued and waits in RUN: from `u`, the slot at hand is to perform it again (20 R388). -/
def WaitsIn (i : Instr) (s u : State) : Prop := exec i s = .next (putSlot u { slotOf u with stall := .again })

/-- Nothing has changed but what the memory system holds: memory, caches, TLBs, and messages on laths. -/
def OnlyMemory (s t : State) : Prop :=
  { t with mem := s.mem, dirty := s.dirty, poison := s.poison, coh := s.coh, tlbs := s.tlbs,
           dies := { t.dies with links := s.dies.links, streams := s.dies.streams } } = s

/-- Nothing has changed but messages on laths. -/
def OnlyLaths (s t : State) : Prop :=
  { t with dies := { t.dies with links := s.dies.links, streams := s.dies.streams } } = s

/-- Everything but the slot at hand and the context of its cell is as before. -/
def OnlySlotCc (s t : State) : Prop :=
  { t with slots := s.slots, cells := s.cells } = s ∧
    (∀ c k, ¬(c = s.curCell ∧ k = s.curSlot) → slotAt t c k = slotAt s c k) ∧
    (∀ c, c ≠ s.curCell → cellAt t c = cellAt s c) ∧
    { cellAt t s.curCell with cc := ccOf s } = cellAt s s.curCell

/-- The instruction answers a next state: the slot at hand becomes `x`, the context of its cell becomes `y`, and
nothing else changes. -/
def GivesCc (i : Instr) (s : State) (x : Slot) (y : CtxCell) : Prop :=
  ∃ t, exec i s = .next t ∧ slotOf t = x ∧ ccOf t = y ∧ OnlySlotCc s t

/-- The instruction answers a next state: the slot at hand becomes `x`, the context of its cell `y`, the caches `z`, and nothing
else changes. -/
def GivesCcCoh (i : Instr) (s : State) (x : Slot) (y : CtxCell) (z : Coh) : Prop :=
  ∃ t, exec i s = .next t ∧ slotOf t = x ∧ ccOf t = y ∧ t.coh = z ∧ OnlySlotCc s { t with coh := s.coh }

/-- The slots are as before. -/
def SameSlots (s t : State) : Prop := ∀ c k, slotAt t c k = slotAt s c k

/-- The cells but one are as before. -/
def OtherCells (c : Nat) (s t : State) : Prop := ∀ c', c' ≠ c → cellAt t c' = cellAt s c'

/-- Every byte of the package reads as before. -/
def SameBytes (s t : State) : Prop := ∀ a, physByte t a = physByte s a

/-- Every byte of the package outside `ls` reads as before. -/
def BytesOutside (ls : List Loc) (s t : State) : Prop := ∀ a, Loc.mem a ∉ ls → physByte t a = physByte s a

/-- Every byte of every scratchpad, but those of the cell at hand that `ls` names, reads as before. -/
def PadsOutside (ls : List Loc) (s t : State) : Prop :=
  ∀ c o, (c = s.curCell → Loc.pad o ∉ ls) → memGet (ccAt t c).spad o = memGet (ccAt s c).spad o

/-! ## A slot after an instruction that writes one register -/

/-- g[D] ← w, lost when D is g0; IP ← IP + 1. -/
def gResult (x : Slot) (d : GReg) (w : Word) : Slot :=
  { x with g := if d = 0 then x.g else x.g.set d w, ip := x.ip + 1 }

/-- p[D] ← b, lost when D is p0; IP ← IP + 1. -/
def pResult (x : Slot) (d : PReg) (b : Bool) : Slot :=
  { x with p := if d = 0 then x.p else x.p.set d b, ip := x.ip + 1 }

/-- v[D] ← w; IP ← IP + 1. -/
def vResult (x : Slot) (d : VReg) (w : VecWord) : Slot := { x with v := x.v.set d w, ip := x.ip + 1 }

/-- m[D] ← w; IP ← IP + 1. -/
def mResult (x : Slot) (d : MReg) (w : MaskWord) : Slot := { x with m := x.m.set d w, ip := x.ip + 1 }

/-- Whether a lane is active under a mask field (06 R124). -/
def laneOn (s : State) (k : MaskSel) (j : Nat) : Bool :=
  match k.mask with
  | none => true
  | some m => (readM s m).getLsbD j

/-- The instruction answers a next state: each lane of v[D] at a width is `f` of its index where active, else kept or zeroed
(06 R124); IP ← IP + 1; nothing else changes. -/
def GivesLanes (i : Instr) (s : State) (d : VReg) (n : Nat) (k : MaskSel) (f : Nat → BitVec n) : Prop :=
  ∃ w, Gives i s (vResult (slotOf s) d w) ∧
    ∀ j, j < 1024 / n → lane n w j = if laneOn s k j then f j else if k.z then 0 else lane n (readV s d) j

/-- IP ← IP + 1 and nothing else. -/
def nextIp (x : Slot) : Slot := { x with ip := x.ip + 1 }

/-! ## Rounding, by values (04 R73) -/

/-- The value of a finite floating-point number (04 R72). -/
def fpVal (t : FpTy) (x : FpBits) : ℚ := (if fpNeg t x then -1 else 1) * fpSig t x * 2 ^ fpExp t x

/-- Whether the bits are neither an infinity nor a NaN. -/
abbrev fpFinite (t : FpTy) (x : FpBits) : Prop := fpMag t x < infMag t

/-- `z` is `v` rounded to an integer in a mode. -/
def IntRounded (r : Rnd) (v : ℚ) (z : ℤ) : Prop :=
  match r with
  | .rne => |v - z| ≤ 1 / 2 ∧ (|v - z| = 1 / 2 → z % 2 = 0)
  | .rtz => |(z : ℚ)| ≤ |v| ∧ |v| < |(z : ℚ)| + 1 ∧ 0 ≤ v * z
  | .rup => v ≤ z ∧ (z : ℚ) < v + 1
  | .rdn => (z : ℚ) ≤ v ∧ v < z + 1

/-- `x` is the nonzero value `v` rounded once to a format in a mode, with what a mode makes of a value beyond the largest
finite one (04 R73). -/
def FpRounded (t : FpTy) (r : Rnd) (v : ℝ) (x : FpBits) : Prop :=
  (fpNeg t x = true ↔ v < 0) ∧ x.toNat < 2 ^ fpWidth t ∧ fpMag t x ≤ infMag t ∧
  match r with
  | .rne =>
    (fpFinite t x → |v| < (2 - 1 / 2 ^ (fracBits t + 1)) * 2 ^ expBias t ∧ ∀ y, fpFinite t y →
      |v - fpVal t x| ≤ |v - fpVal t y| ∧
      (|v - fpVal t x| = |v - fpVal t y| → fpMag t y ≠ fpMag t x → fpMag t x % 2 = 0)) ∧
    (¬fpFinite t x → (2 - 1 / 2 ^ (fracBits t + 1)) * 2 ^ expBias t ≤ |v|)
  | .rtz => fpFinite t x ∧ |(fpVal t x : ℝ)| ≤ |v| ∧ ∀ y, fpFinite t y → |(fpVal t y : ℝ)| ≤ |v| →
      |fpVal t y| ≤ |fpVal t x|
  | .rup =>
    (fpFinite t x → v ≤ fpVal t x ∧ ∀ y, fpFinite t y → v ≤ fpVal t y → fpVal t x ≤ fpVal t y) ∧
    (¬fpFinite t x → 0 < v ∧ ∀ y, fpFinite t y → (fpVal t y : ℝ) < v)
  | .rdn =>
    (fpFinite t x → (fpVal t x : ℝ) ≤ v ∧ ∀ y, fpFinite t y → (fpVal t y : ℝ) ≤ v → fpVal t y ≤ fpVal t x) ∧
    (¬fpFinite t x → v < 0 ∧ ∀ y, fpFinite t y → v < fpVal t y)

/-! ## Taking a trap (18 R338, R341, R342) -/

/-- The slot at hand after a trap at level 0. -/
def enter1 (s : State) (cause : Nat) (tip : InstrIx) (va info : Word) : Slot :=
  let x := slotOf s
  { x with
    level := 1
    ip := (ccOf s).tvec.setWidth 32
    tcause := x.tcause.set 0 (BitVec.ofNat 64 cause)
    tip := x.tip.set 0 (tip.setWidth 64)
    tfva := x.tfva.set 0 va
    tinfo := x.tinfo.set 0 info
    limit := x.limit.set 0 4194304
    run := .run
    stall := .none }

/-- The slot at hand after a trap at level 1. -/
def enter2 (s : State) (cause : Nat) (tip : InstrIx) (va info : Word) : Slot :=
  let x := slotOf s
  { x with
    level := 2
    ip := ((ccOf s).tvec >>> 32).setWidth 32
    tcause := x.tcause.set 1 (BitVec.ofNat 64 cause)
    tip := x.tip.set 1 (tip.setWidth 64)
    tfva := x.tfva.set 1 va
    tinfo := x.tinfo.set 1 info
    limit := x.limit.set 1 4194304
    run := .run
    stall := .none }

/-- The instruction takes a trap in the state `u`, to which its fetches and walks have led: from level 0 to 1, from level 1 to 2,
at level 2 the activation is killed. -/
def TrapsFrom (i : Instr) (s u : State) (cause : Nat) (tip : InstrIx) (va info : Word) : Prop :=
  ((slotOf u).level = 0 → GivesFrom i s u (enter1 u cause tip va info)) ∧
  ((slotOf u).level = 1 → GivesFrom i s u (enter2 u cause tip va info)) ∧
  ((slotOf u).level = 2 → exec i s = .next (killActivation u cause (slotOf u).ip))

/-- The instruction takes a trap where it is. -/
def Traps (i : Instr) (s : State) (cause : Nat) (tip : InstrIx) (va info : Word) : Prop := TrapsFrom i s s cause tip va info

/-- A trap in the state `u` whose tip names the instruction itself. -/
def TrapsHereFrom (i : Instr) (s u : State) (cause : Nat) (va : Word) (info : Nat) : Prop :=
  TrapsFrom i s u cause (slotOf u).ip va (BitVec.ofNat 64 info)

/-- The instruction takes a trap whose tip names the instruction itself. -/
def TrapsHere (i : Instr) (s : State) (cause : Nat) (va : Word) (info : Nat) : Prop :=
  Traps i s cause (slotOf s).ip va (BitVec.ofNat 64 info)

/-! ## Frames of wider effects -/

/-- The slots but the one at hand are as before. -/
def OtherSlots (s t : State) : Prop := ∀ c k, ¬(c = s.curCell ∧ k = s.curSlot) → slotAt t c k = slotAt s c k

/-- The slots but one are as before. -/
def SlotsBut (c : Nat) (k : Fin 4) (s t : State) : Prop := ∀ c' k', ¬(c' = c ∧ k' = k) → slotAt t c' k' = slotAt s c' k'

/-- The step answers a next state: a cell becomes `x`, and nothing else changes. -/
def GivesCell (i : Instr) (s : State) (c : Nat) (x : Cell) : Prop :=
  ∃ t, exec i s = .next t ∧ cellAt t c = x ∧ OtherCells c s t ∧ { t with cells := s.cells } = s

/-- A context that is neither at trap level 1 or 2 nor a system one. -/
abbrev UserMode (s : State) : Prop := (slotOf s).level = 0 ∧ (ccOf s).desc.sys = false

/-- The slot at hand after its activation has ended (18 R354, R355; 19 R365). -/
def freed (x : Slot) : Slot :=
  { x with run := .free, level := 0, release := [], joins := [], pend := .none, stall := .none }

/-- A context that new local work has reached: its steal domain starts again at the cluster (07 R170). -/
def withWork (x : CtxCell) : CtxCell := { x with domain := 0, fails := 0 }

/-! ## The place store (16) -/

/-- A handle that is in range, current and not behind a move resolves to a record. -/
structure Resolves (s : State) (w : Word) (sp : Space) (h : Handle) (owner rs : Nat) (x : Inst) : Prop where
  space : spaceOf s (ccOf s).desc.ctxid (Fin.ofNat 16 (w.toNat / 2 ^ 60)) = some sp
  home : w.toNat / 2 ^ 50 % 1024 < cellCount s
  slot : w.toNat / 2 ^ 20 % 2 ^ 30 < 2 ^ sp.pslots
  gen : h.gen = w.setWidth 20
  genNe : h.gen ≠ 0
  handle : handleSlot sp (w.toNat / 2 ^ 50 % 1024) (w.toNat / 2 ^ 20 % 2 ^ 30) = h
  still : h.moving = false ∧ h.queue = []
  holds : h.holds = some (owner, rs)
  inst : tabFind sp.insts (placeKey owner rs) = some x

/-- The instruction answers a next state: the slot at hand becomes `y`, the space `sp` becomes `sp'`, and nothing else
changes. -/
def GivesSpace (i : Instr) (s : State) (y : Slot) (sp sp' : Space) : Prop :=
  ∃ t, exec i s = .next t ∧ slotOf t = y ∧ OtherSlots s t ∧ { t with slots := s.slots, place := s.place } = s ∧
    t.place = { s.place with
      spaces := s.place.spaces.map (fun z => if z.ctxid = sp.ctxid ∧ z.num = sp.num then sp' else z) }

end Sys2Proof.Safety
end

