-- ==== Sys2Proof/Certificates/Slice0/Obligations.lean ====
section
/-! DEFINITION. The statements for the provers. Each Obligations.<Name> is one statement; a Claims.<Name> is a part of one. -/

open Sys2Proof Sys2Proof.Machine Sys2Proof.Safety

/-! ## The machine as a whole -/

/-- After reset every table stands in its canonical form, every slot is FREE and no context is resident, each stack has its
default owner with no freeze, busy or fenced bit, and the launch window is closed with every slot FREE and no last SEQ; every
byte of memory reads as 0 and every g, v, p and m register of every slot holds 0 by the model's choice (R14, R366, R392, R416; log 1,
log 5). -/
def Obligations.AfterReset : Prop :=
  Inv State.reset ∧ FreeClean State.reset ∧ PairsOk State.reset ∧
  (∀ c k, (slotAt State.reset c k).run = .free ∧ slotAt State.reset c k = Slot.reset) ∧
  (∀ c k, (∀ n : Fin 64, (slotAt State.reset c k).g[n] = 0 ∧ (slotAt State.reset c k).v[n] = 0) ∧
    ∀ n : Fin 8, (slotAt State.reset c k).p[n] = false ∧ (slotAt State.reset c k).m[n] = 0) ∧
  (∀ c, (cellAt State.reset c).live = false) ∧
  (∀ (d : Fin 4) (k : Fin 12),
    (State.reset.dies.tables[d]).owner[k] = (if k.val < 3 then 0 else if k.val < 6 then 1 else if k.val < 9 then 3 else 2 : Fin 4) ∧
    State.reset.dies.active[k] = (State.reset.dies.tables[d]).owner[k]) ∧
  (∀ d : Fin 4, (State.reset.dies.tables[d]).freeze = 0 ∧ (State.reset.dies.tables[d]).busy = 0 ∧
    (State.reset.dies.tables[d]).fenced = 0) ∧
  State.reset.host.open_ = false ∧
  (∀ n, (tabGet WinSlot.fresh State.reset.host.slots n).st = .free ∧
    (tabGet WinSlot.fresh State.reset.host.slots n).lastSeq = none) ∧
  ∀ a, physByte State.reset a = 0

/-- A step of a slot that runs and neither stalls nor is out of budget: where the twelve bytes at scbase + 12·IP have been fetched
and decode to an instruction, the step is exec of that instruction when its guard is true and IP + 1 when it is false; an
undefined encoding raises ILLOP with its REASON and POS; an IP at LIM or beyond raises IFETCH, and so does a byte whose page has no
translation or no execute permission, the lowest such byte in tfva; a fetch that meets poison raises UE, at the first byte of the
lowest poisoned sector with KIND 0; a fetch whose walk or lines must wait leaves the slot to fetch again. While fewer cycles than bits [79:76] of the word have passed since the activation's last
issue, the slot waits. A slot that stalls in RUN on an instruction it has issued performs that instruction again without a
fetch, out of budget or not; one whose result comes back from another die goes on when it has arrived. A step of the hardware that the agenda names is exec of it (R32, R33, R35, R36, R39, R59, R180,
R344, R345, R377, R388). By the model's choice the agenda names the turn (log 12), an undefined encoding waits for its issue delay and counts as
issued, and a turn taken early waits (log 10), the bytes are those that stand there at the turn (log 13), and a poisoned entry of the
page tables gives the fetch UE at the byte walked for (log 59). -/
def Obligations.StepRunsDecoded : Prop :=
  ∀ (s u1 u2 w1 : State) (c : Nat) (k : Fin 4) (l : List Turn) (ls : List Loc) (rest : List Byte) (d : Decoded) (e : Ill) (i : Instr)
    (q : Word) (pa : Nat),
  let u : State := { s with agenda := l, turnNo := s.turnNo + 1, curCell := c, curSlot := k }
  let x := slotOf u
  let a (j : Nat) : Word := (ccOf u).scbase + BitVec.ofNat 64 (12 * x.ip.toNat) + BitVec.ofNat 64 j
  let as := (List.range 12).map a
  let bytes := ls.map (readLoc u2)
  let w := natOf (bytes.take 12)
  let y : Slot := { x with sinceIssue := some 0 }
  let v := putSlot u2 y
  let got := acquireLines u1 (myDie u) (engineOf (myDie u)) false (linesOf ls)
  let early : Prop := ∃ m, x.sinceIssue = some m ∧ m < w / 2 ^ 76 % 16
  let later (z : Word) : Word := if (a 0).toNat / 65536 < z.toNat / 65536 then 2 ^ 21 else 0
  let bad (z : Word) : Prop := bitsOf z 63 55 ≠ 0 ∨ (∃ n, translate u1 c (ccOf u).desc z.toNat = .error n) ∨
    ∃ t, translate u1 c (ccOf u).desc z.toNat = .ok t ∧ t.x = false
  let sector : Word := keepBits q 63 5
  (s.agenda = .slot c k :: l → c < cellCount s → x.run = .run → x.stall = .none → budgetDue x = false →
    ((ccOf u).sclim.toNat % 2 ^ 32 ≤ x.ip.toNat → step s = .next (takeTrap u 7 x.ip 0 0)) ∧
    (x.ip.toNat < (ccOf u).sclim.toNat % 2 ^ 32 → walkPages u c (ccOf u).desc (pagesOf as) = .ok u1 →
      (poisonedWalk u1 c (ccOf u).desc as = some q → step s = .next (takeTrap u1 0x0D x.ip sector (later sector))) ∧
      (poisonedWalk u1 c (ccOf u).desc as = none →
        ∀ j, j < 12 → bad (a j) → (∀ n, n < 12 → bad (a n) → (a j).toNat ≤ (a n).toNat) →
          step s = .next (takeTrap u1 7 x.ip (a j) (later (a j))))) ∧
    (x.ip.toNat < (ccOf u).sclim.toNat % 2 ^ 32 → ls.length = 12 →
      walkPages u c (ccOf u).desc (pagesOf as) = .ok u1 → poisonedWalk u1 c (ccOf u).desc as = none →
      (∀ j (h : j < ls.length), fetchLocate u1 (a j) = .ok ls[j]) →
      (got = .error w1 → step s = .next w1) ∧
      (got = .ok u2 → lowestPoison u2 as ls = some q → step s = .next (takeTrap u2 0x0D x.ip sector (later sector))) ∧
      (got = .ok u2 → lowestPoison u2 as ls = none →
      slotOf u2 = x ∧ (early → step s = .next u2) ∧
      (¬early → decode bytes = .ok (d, rest) → readP u d.pred ≠ d.neg →
        step s = exec d.instr (putSlot u2 { y with issued := d.instr })) ∧
      (¬early → decode bytes = .ok (d, rest) → readP u d.pred = d.neg →
        ∃ t, step s = .next t ∧ slotOf t = nextIp y ∧ OnlySlot u2 t) ∧
      (¬early → decode bytes = .error e → step s =
        .next (takeTrap v 1 x.ip 0 (BitVec.ofNat 64 (e.reason * 2 ^ 16 + e.pos * 2 ^ 14 + w / 2 ^ 84 % 2 ^ 12)))))) ∧
    (x.ip.toNat < (ccOf u).sclim.toNat % 2 ^ 32 → walkPages u c (ccOf u).desc (pagesOf as) = .error w1 → step s = .next w1)) ∧
  (s.agenda = .slot c k :: l → c < cellCount s → x.run = .run → x.stall = .again →
    step s = exec x.issued (putSlot u { x with stall := .none })) ∧
  (s.agenda = .slot c k :: l → c < cellCount s → x.run = .run → x.stall = .home pa → step s = exec x.issued u) ∧
  (∀ g via z f, s.agenda = .slot c k :: l → c < cellCount s → x.run = .run →
    (x.stall = .reply g via z ∨ x.stall = .replyUe via z f → arrived u via = false → step s = .next u) ∧
    (x.stall = .reply g via z → arrived u via = true →
      ∃ t, step s = .next t ∧ slotOf t = gResult { x with stall := .none } g z ∧ OnlySlot u t) ∧
    (x.stall = .replyUe via z f → arrived u via = true →
      step s = .next (takeTrap (putSlot u { x with stall := .none }) 0x0D x.ip z f))) ∧
  (s.agenda = .event i :: l → eventOk { s with agenda := l, turnNo := s.turnNo + 1 } i = true →
    step s = exec i { s with agenda := l, turnNo := s.turnNo + 1 })

/-- Words written out from the encodings of R187, R93, R125, R245, R275, R322, R346 and R370 decode to what they stand for, and
words that R58 excludes do not decode. -/
def Obligations.DecodedWords : Prop :=
  decodeTableWord 96 0x000000102030000000000000 = some (.add none 16 32 48) ∧
  decodeTableWord 96 0x0010001010FFFFFFFFFFFFFE = some (.addImm 16 16 (-2)) ∧
  decodeTableWord 96 0x160000001000000000000000 = some (.spawn 16) ∧
  decodeTableWord 96 0x18000000000000000000002A = some (.trap 0x2A) ∧
  decodeTableWord 96 0x184000080900000000000000 = some (.twait 8 9) ∧
  decodeTableWord 96 0x18C000080900000000000000 = some (.shand 8 9) ∧
  decodeTableWord 96 0x4C1000430000000000000001 = some (.vbcastImm 3 1) ∧
  decodeTableWord 96 0x4A20004A4414C0004B440000 = some (.vpkbx .bx8 10 4 20 11 4 2) ∧
  decodeTableWord 96 0x0EC000000000000000000000 = some .nop ∧
  decodeTableWord 96 0x0EC000000000000000000001 = none ∧
  decodeTableWord 96 0x000000403000000000000000 = none ∧
  decodeTableWord 96 0x16800000100000000000001E = none

/-- Every well-formed instruction has an encoding, and the twelve bytes of it, least significant first, decode to it again with its
guard and hints, whatever bytes come after them (R43-R57). -/
def Claims.EncodedDecodes : Prop :=
  ∀ (d : Decoded) (rest : List Byte), WellFormed d.instr = true →
    ∃ w, encode d = some w ∧ w < 2 ^ 96 ∧ decode (bytesOfBits w 12 ++ rest) = .ok (d, rest)

/-- Whatever decodes is well formed, and its encoding is the word it was read from: no bit of a word is without meaning
(R46, R58). -/
def Claims.DecodedEncodes : Prop :=
  ∀ (bs rest : List Byte) (d : Decoded), decode bs = .ok (d, rest) →
    WellFormed d.instr = true ∧ encode d = some (natOf (bs.take 12)) ∧ rest = bs.drop 12

/-- Decoding and encoding agree both ways: EncodedDecodes and DecodedEncodes together. -/
def Obligations.EncodingsAgree : Prop := Claims.EncodedDecodes ∧ Claims.DecodedEncodes

/-- Every step keeps the canonical form of memory and of the tables of dirty bytes, slots and cells (log 5). -/
def Claims.TablesStayCanonical : Prop := ∀ s t : State, Inv s → step s = .next t → Inv t

/-- Every step keeps it so that a FREE slot is at level 0 and has nothing deferred: an activation that ends, however it ends,
leaves no release and no join behind (R152, R157). -/
def Claims.FreeSlotsStayClean : Prop := ∀ s t : State, FreeClean s → step s = .next t → FreeClean t

/-- Every step keeps the tables canonical and FREE slots clean: TablesStayCanonical and FreeSlotsStayClean together. -/
def Obligations.DataInvariant : Prop := Claims.TablesStayCanonical ∧ Claims.FreeSlotsStayClean

/-- No step makes a die outside its pair the owner of a stack, and no instruction and no step of the hardware but the stages of a
hand-over and the fencing and return of a die changes an owner table (R14, R366). -/
def Obligations.StacksStayInPairs : Prop :=
  (∀ s t : State, PairsOk s → step s = .next t → PairsOk t) ∧
  ∀ (s t : State) (i : Instr), exec i s = .next t →
    (∀ k, i ≠ .handoverStage k) → (∀ d, i ≠ .dieUnreachable d ∧ i ≠ .fenceConfirm d ∧ i ≠ .dieRejoin d) →
    (∀ n c, i ≠ .thermalCutoff n c) → t.dies.tables = s.dies.tables

/-- Every step goes on: the spec gives each instruction and each step of the hardware an effect (R35, R152), and by the model's
choice a step that is not enabled answers the state as it is (log 11), so none stops. -/
def Obligations.NothingStops : Prop := ∀ s : State, GoesOn s

/-! ## Scalar instructions (05) -/

/-- add, sub, and, or, xor, andn and mov, both forms: the low N bits of g[D] are the result on the low N bits of the sources
under arithmetic modulo 2^N, extended by the type's signedness; nothing else changes (R91, R95, R112). -/
def Claims.IntegerArithmetic : Prop := ∀ (s : State) (t : Option IntTy) (d a b : GReg) (imm : BitVec 56),
  let T := t.getD .i64
  let x := lowBits T (readG s a)
  let y := lowBits T (readG s b)
  let w := readG s a
  let i := imm.signExtend 64
  let out (z : BitVec (intWidth T)) : Slot := gResult (slotOf s) d (if intSigned T then z.signExtend 64 else z.setWidth 64)
  Gives (.add t d a b) s (out (x + y)) ∧ Gives (.addImm d a imm) s (gResult (slotOf s) d (w + i)) ∧
  Gives (.sub t d a b) s (out (x - y)) ∧ Gives (.subImm d a imm) s (gResult (slotOf s) d (w - i)) ∧
  Gives (.and t d a b) s (out (x &&& y)) ∧ Gives (.andImm d a imm) s (gResult (slotOf s) d (w &&& i)) ∧
  Gives (.or t d a b) s (out (x ||| y)) ∧ Gives (.orImm d a imm) s (gResult (slotOf s) d (w ||| i)) ∧
  Gives (.xor t d a b) s (out (x ^^^ y)) ∧ Gives (.xorImm d a imm) s (gResult (slotOf s) d (w ^^^ i)) ∧
  Gives (.andn t d a b) s (out (x &&& ~~~y)) ∧ Gives (.andnImm d a imm) s (gResult (slotOf s) d (w &&& ~~~i)) ∧
  Gives (.mov t d a) s (out x) ∧ Gives (.movImm d imm) s (gResult (slotOf s) d i)

/-- min and max, both forms: one of the sources, ordered signed for .iN and unsigned for .nN (R91, R95). -/
def Claims.MinMax : Prop := ∀ (s : State) (t : Option IntTy) (d a b : GReg) (imm : BitVec 56),
  let T := t.getD .i64
  let x := lowBits T (readG s a)
  let y := lowBits T (readG s b)
  let i := imm.signExtend 64
  let less : Bool := if intSigned T then x.slt y else x.ult y
  let out (z : BitVec (intWidth T)) : Slot := gResult (slotOf s) d (if intSigned T then z.signExtend 64 else z.setWidth 64)
  Gives (.min t d a b) s (out (if less then x else y)) ∧ Gives (.max t d a b) s (out (if less then y else x)) ∧
  Gives (.minImm d a imm) s (gResult (slotOf s) d (if (readG s a).slt i then readG s a else i)) ∧
  Gives (.maxImm d a imm) s (gResult (slotOf s) d (if (readG s a).slt i then i else readG s a))

/-- Integer arithmetic, logic, moves, min and max: IntegerArithmetic and MinMax together. -/
def Obligations.IntegerOperations : Prop := Claims.IntegerArithmetic ∧ Claims.MinMax

/-- sel copies g[A] where the selecting predicate is 1 and g[B] where it is 0, all 64 bits (R96). -/
def Claims.Select : Prop := ∀ (s : State) (d a b : GReg) (p : PReg),
  (readP s p = true → Gives (.sel d a b p) s (gResult (slotOf s) d (readG s a))) ∧
  (readP s p = false → Gives (.sel d a b p) s (gResult (slotOf s) d (readG s b))) ∧
  Gives (.sel d a b 0) s (gResult (slotOf s) d (readG s a))

/-- lea computes its address modulo 2^64, and accesses nothing (R97). -/
def Claims.LoadEffectiveAddress : Prop := ∀ (s : State) (d a b : GReg) (sh : Fin 5) (disp : BitVec 32),
  Gives (.lea d a b sh disp) s (gResult (slotOf s) d
    (BitVec.ofInt 64 ((readG s a).toNat + (readG s b).toNat * 2 ^ sh.val + disp.toInt)))

/-- sel and lea: Select and LoadEffectiveAddress together. -/
def Obligations.SelectionAndAddresses : Prop := Claims.Select ∧ Claims.LoadEffectiveAddress

/-- mul, madd and mulh: the exact product and its low or high N bits (R91, R98). -/
def Claims.Multiplication : Prop := ∀ (s : State) (t : Option IntTy) (d a b c : GReg) (imm : BitVec 56),
  let T := t.getD .i64
  let n := intWidth T
  let x := lowBits T (readG s a)
  let y := lowBits T (readG s b)
  let z := lowBits T (readG s c)
  let out (r : BitVec n) : Slot := gResult (slotOf s) d (if intSigned T then r.signExtend 64 else r.setWidth 64)
  let high : BitVec n := if intSigned T then
      ((x.signExtend (2 * n) * y.signExtend (2 * n)) >>> n).setWidth n
    else ((x.setWidth (2 * n) * y.setWidth (2 * n)) >>> n).setWidth n
  Gives (.mul t d a b) s (out (x * y)) ∧
  Gives (.mulImm d a imm) s (gResult (slotOf s) d (readG s a * imm.signExtend 64)) ∧
  Gives (.madd t d a b c) s (out (x * y + z)) ∧
  Gives (.mulh t d a b) s (out high)

/-- div and rem by a nonzero divisor: quotient and remainder with a = q·b + r, |r| < |b| and r of the sign of a; by zero
with sctl.DIVZ 0, quotient 0 and remainder a (R91, R99). -/
def Claims.Division : Prop := ∀ (s : State) (t : Option IntTy) (d a b : GReg),
  let T := t.getD .i64
  let x := readInt (intSigned T) (lowBits T (readG s a))
  let y := readInt (intSigned T) (lowBits T (readG s b))
  let out (r : Int) : Slot := gResult (slotOf s) d (outVal T r)
  (y ≠ 0 → ∃ q r : Int, x = q * y + r ∧ r.natAbs < y.natAbs ∧ 0 ≤ r * x ∧
    Gives (.div t d a b) s (out q) ∧ Gives (.rem t d a b) s (out r)) ∧
  (y = 0 → (slotOf s).sctl.getLsbD 0 = false →
    Gives (.div t d a b) s (out 0) ∧ Gives (.rem t d a b) s (out x))

/-- div and rem by zero with sctl.DIVZ 1 take DIVZ at every level and write nothing to g[D]: tip names the instruction, tfva
is 0, tinfo holds TYPE and OPC (R99, R100, R338). -/
def Claims.DivideByZeroTrap : Prop := ∀ (s : State) (t : Option IntTy) (d a b : GReg),
  let code : Nat := match t with
    | none => 0 | some .i8 => 1 | some .i16 => 2 | some .i32 => 3 | some .i64 => 4
    | some .n8 => 5 | some .n16 => 6 | some .n32 => 7 | some .n64 => 8
  lowBits (t.getD .i64) (readG s b) = 0 → (slotOf s).sctl.getLsbD 0 = true →
    TrapsHere (.div t d a b) s 3 0 (4096 * code + 0x024) ∧ TrapsHere (.rem t d a b) s 3 0 (4096 * code + 0x026)

/-- Multiplication, division, and division by zero: Multiplication, Division and DivideByZeroTrap together. -/
def Obligations.ProductsAndQuotients : Prop := Claims.Multiplication ∧ Claims.Division ∧ Claims.DivideByZeroTrap

/-- shl, shr, sar and rotl, both forms, bit by bit: the count is unsigned and not narrowed (R91, R101). -/
def Claims.Shifts : Prop := ∀ (s : State) (t : Option IntTy) (d a b : GReg) (imm : BitVec 56),
  let T := t.getD .n64
  let n := intWidth T
  let w := readG s a
  let Shifted (i : Instr) (m : Nat) (sign : Bool) (f : Nat → Bool) : Prop :=
    ∃ y : BitVec m, (∀ k, k < m → y.getLsbD k = f k) ∧
      Gives i s (gResult (slotOf s) d (if sign then y.signExtend 64 else y.setWidth 64))
  let left (c : Nat) (k : Nat) : Bool := c ≤ k && w.getLsbD (k - c)
  let right (m c : Nat) (k : Nat) : Bool := k + c < m && w.getLsbD (k + c)
  let arith (m c : Nat) (k : Nat) : Bool := w.getLsbD (min (k + c) (m - 1))
  let around (m c : Nat) (k : Nat) : Bool := w.getLsbD ((k + (m - c % m)) % m)
  let c := (readG s b).toNat
  let ci := (imm.signExtend 64).toNat
  Shifted (.shl t d a b) n (intSigned T) (left c) ∧ Shifted (.shlImm d a imm) 64 false (left ci) ∧
  Shifted (.shr t d a b) n (intSigned T) (right n c) ∧ Shifted (.shrImm d a imm) 64 false (right 64 ci) ∧
  Shifted (.sar t d a b) n (intSigned T) (arith n c) ∧ Shifted (.sarImm d a imm) 64 false (arith 64 ci) ∧
  Shifted (.rotl t d a b) n (intSigned T) (around n c) ∧ Shifted (.rotlImm d a imm) 64 false (around 64 ci)

/-- clz, ctz and popc count zeros from the top, zeros from the bottom and ones of the low N bits, and write the count
zero-extended; bswap reverses the N/8 bytes and writes them through Out (R91, R102). -/
def Claims.CountsAndSwap : Prop := ∀ (s : State) (t : Option IntTy) (u : Option SwapTy) (d a : GReg),
  let n := intWidth (t.getD .n64)
  let U := swapType u
  let w := readG s a
  (∃ k, k ≤ n ∧ (∀ i, i < k → w.getLsbD (n - 1 - i) = false) ∧ (k < n → w.getLsbD (n - 1 - k) = true) ∧
    Gives (.clz t d a) s (gResult (slotOf s) d (BitVec.ofNat 64 k))) ∧
  (∃ k, k ≤ n ∧ (∀ i, i < k → w.getLsbD i = false) ∧ (k < n → w.getLsbD k = true) ∧
    Gives (.ctz t d a) s (gResult (slotOf s) d (BitVec.ofNat 64 k))) ∧
  Gives (.popc t d a) s (gResult (slotOf s) d (BitVec.ofNat 64 ((List.range n).countP (fun i => w.getLsbD i)))) ∧
  (∃ y : BitVec (intWidth U),
    (∀ i, i < intWidth U → y.getLsbD i = w.getLsbD (8 * (intWidth U / 8 - 1 - i / 8) + i % 8)) ∧
    Gives (.bswap u d a) s (gResult (slotOf s) d (if intSigned U then y.signExtend 64 else y.setWidth 64)))

/-- bext and bins, bit by bit, for every field that the encoding admits; bins reads g[D] before it writes it, and with
D = g0 nothing is written (R103). -/
def Claims.BitFields : Prop := ∀ (s : State) (t : Option WideTy) (d a : GReg) (pos len1 : Fin 64),
  pos.val + len1.val < 64 →
  (∃ f : Word, (∀ i, i < 64 → f.getLsbD i =
      if i ≤ len1.val then (readG s a).getLsbD (pos.val + i)
      else t == some .i64 && (readG s a).getLsbD (pos.val + len1.val)) ∧
    Gives (.bext t d a pos len1) s (gResult (slotOf s) d f)) ∧
  (∃ f : Word, (∀ i, i < 64 → f.getLsbD i =
      if pos.val ≤ i ∧ i ≤ pos.val + len1.val then (readG s a).getLsbD (i - pos.val) else (readG s d).getLsbD i) ∧
    Gives (.bins d a pos len1) s (gResult (slotOf s) d f)) ∧
  Gives (.bins 0 a pos len1) s (nextIp (slotOf s))

/-- Shifts, counts, byte swaps and bit fields: Shifts, CountsAndSwap and BitFields together. -/
def Obligations.BitOperations : Prop := Claims.Shifts ∧ Claims.CountsAndSwap ∧ Claims.BitFields

/-- cmp writes p[D] from the condition, ordered by the type's signedness; a write to p0 is ignored (R104). -/
def Claims.Compare : Prop := ∀ (s : State) (t : Option IntTy) (d : PReg) (a b : GReg),
  let T := t.getD .i64
  let x := lowBits T (readG s a)
  let y := lowBits T (readG s b)
  let less : Bool := if intSigned T then x.slt y else x.ult y
  let more : Bool := if intSigned T then y.slt x else y.ult x
  Gives (.cmp t .eq d a b) s (pResult (slotOf s) d (x == y)) ∧ Gives (.cmp t .ne d a b) s (pResult (slotOf s) d (x != y)) ∧
  Gives (.cmp t .lt d a b) s (pResult (slotOf s) d less) ∧ Gives (.cmp t .ge d a b) s (pResult (slotOf s) d (!less)) ∧
  Gives (.cmp t .gt d a b) s (pResult (slotOf s) d more) ∧ Gives (.cmp t .le d a b) s (pResult (slotOf s) d (!more)) ∧
  ∀ c, Gives (.cmp t c 0 a b) s (nextIp (slotOf s))

/-- pand, por, pxor and the three forms of pmov (R105). -/
def Claims.PredicateOps : Prop := ∀ (s : State) (d a b : PReg) (na nb : Bool) (gd ga : GReg),
  let x := xor (readP s a) na
  let y := xor (readP s b) nb
  Gives (.pand d a b na nb) s (pResult (slotOf s) d (x && y)) ∧
  Gives (.por d a b na nb) s (pResult (slotOf s) d (x || y)) ∧
  Gives (.pxor d a b na nb) s (pResult (slotOf s) d (xor x y)) ∧
  Gives (.pmov (.pp d a na)) s (pResult (slotOf s) d x) ∧
  (readG s ga = 0 → Gives (.pmov (.pg d ga)) s (pResult (slotOf s) d false)) ∧
  (readG s ga ≠ 0 → Gives (.pmov (.pg d ga)) s (pResult (slotOf s) d true)) ∧
  Gives (.pmov (.gp gd a na)) s (gResult (slotOf s) gd ((BitVec.ofBool x).setWidth 64))

/-- Comparison and predicate operations: Compare and PredicateOps together. -/
def Obligations.Predicates : Prop := Claims.Compare ∧ Claims.PredicateOps

/-! ## Scalar floating point (04, 05) -/

/-- The scalar floating-point instructions read the low bits of their format and write the result zero-extended, with the
NaN tag of the running cell at K = 0; nothing else changes (R92, R106, R107, R109-R111). -/
def Obligations.FloatingPointResults : Prop :=
  ∀ (s : State) (t : Option FpTy) (r : Rnd) (d a b c : GReg) (i j : IntTy) (f g : FpTy),
  let T := t.getD .f32
  let src (u : FpTy) (q : GReg) : FpBits := BitVec.ofNat 32 ((readG s q).toNat % 2 ^ fpWidth u)
  let x := src T a
  let y := src T b
  let z := src T c
  let tag := nanTag s.curCell 0
  let Out (k : Instr) (u : FpTy) (w : FpBits) : Prop :=
    w.toNat < 2 ^ fpWidth u ∧ Gives k s (gResult (slotOf s) d (BitVec.ofNat 64 w.toNat))
  Out (.fadd t r d a b) T (fpAdd T r tag x y) ∧ Out (.fsub t r d a b) T (fpSub T r tag x y) ∧
  Out (.fmul t r d a b) T (fpMul T r tag x y) ∧ Out (.fma t r d a b c) T (fpFma T r tag x y z) ∧
  Out (.fdiv t r d a b) T (fpDiv T r tag x y) ∧ Out (.fsqrt t r d a) T (fpSqrt T r tag x) ∧
  Out (.fmin t d a b) T (fpMin T x y) ∧ Out (.fmax t d a b) T (fpMax T x y) ∧
  Out (.fround t r d a) T (fpRoundInt T r x) ∧
  Out (.cvt (.fp f) (.fp g) r d a) f (fpToFp f g r (src g a)) ∧
  Out (.cvt (.fp f) (.int i) r d a) f (intToFp f r (readInt (intSigned i) (lowBits i (readG s a)))) ∧
  Gives (.cvt (.int i) (.fp f) r d a) s
    (gResult (slotOf s) d (outVal i (fpToInt (intSigned i) (intWidth i) f r (src f a)))) ∧
  Gives (.cvt (.int i) (.int j) r d a) s
    (gResult (slotOf s) d (outVal i (readInt (intSigned j) (lowBits j (readG s a))))) ∧
  Gives (.fcls t d a) s (gResult (slotOf s) d (1 <<< fpClass T x))

/-- A floating-point result of finite operands is the exact value rounded once in the instruction's mode; an exact zero
sum of operands of opposite signs is +0, in mode .rdn -0 (R73, R74, R106). -/
def Claims.RoundedOnce : Prop :=
  ∀ (t : FpTy) (r : Rnd) (tag : BitVec 22) (a b c : FpBits), fpFinite t a → fpFinite t b → fpFinite t c →
  let x := fpVal t a
  let y := fpVal t b
  let z := fpVal t c
  let zero (n1 n2 : Bool) : FpBits := fpMake t (if n1 = n2 then n1 else r = .rdn) 0
  (x + y ≠ 0 → FpRounded t r ((x + y : ℚ)) (fpAdd t r tag a b)) ∧
  (x - y ≠ 0 → FpRounded t r ((x - y : ℚ)) (fpSub t r tag a b)) ∧
  (x * y ≠ 0 → FpRounded t r ((x * y : ℚ)) (fpMul t r tag a b)) ∧
  (x * y + z ≠ 0 → FpRounded t r ((x * y + z : ℚ)) (fpFma t r tag a b c)) ∧
  (x ≠ 0 → y ≠ 0 → FpRounded t r ((x / y : ℚ)) (fpDiv t r tag a b)) ∧
  (0 < x → FpRounded t r (Real.sqrt (x : ℝ)) (fpSqrt t r tag a)) ∧
  (x + y = 0 → fpAdd t r tag a b = zero (fpNeg t a) (fpNeg t b)) ∧
  (x - y = 0 → fpSub t r tag a b = zero (fpNeg t a) (!fpNeg t b)) ∧
  (x * y = 0 → fpMul t r tag a b = fpMake t (fpNeg t a != fpNeg t b) 0) ∧
  (x * y + z = 0 → fpFma t r tag a b c = zero (fpNeg t a != fpNeg t b) (fpNeg t c))

/-- Conversions round once: integers to a format, one format to another, a format to an integer with saturation, and
fround to an integral value of the same sign (R73, R75, R110, R111). -/
def Claims.ConversionsRound : Prop :=
  ∀ (t u : FpTy) (r : Rnd) (n : Int) (a : FpBits) (sg : Bool) (w : Nat), fpFinite t a →
  let v := fpVal t a
  (n ≠ 0 → FpRounded t r ((n : ℚ)) (intToFp t r n)) ∧ intToFp t r 0 = 0 ∧
  (v ≠ 0 → FpRounded u r v (fpToFp u t r a)) ∧ (v = 0 → fpToFp u t r a = fpMake u (fpNeg t a) 0) ∧
  (∃ z : ℤ, IntRounded r v z ∧ fpToInt sg w t r a = clampInt sg w z ∧ fpVal t (fpRoundInt t r a) = z ∧
    fpNeg t (fpRoundInt t r a) = fpNeg t a)

/-- Results and conversions are rounded once: RoundedOnce and ConversionsRound together. -/
def Obligations.FloatingPointRounds : Prop := Claims.RoundedOnce ∧ Claims.ConversionsRound

/-- Infinities and invalid operations of the scalar arithmetic and conversions without a NaN operand, and the operand NaN that
decides when there is one: the FP32 one of the smallest payload, the first one in the narrow formats, quieted; a NaN converted from
one format to another keeps its sign and its fraction from the top down, with the quiet bit set (R74, R75,
R76-R78, R106, R110, R111). -/
def Claims.SpecialValues : Prop :=
  ∀ (t u : FpTy) (r : Rnd) (tag : BitVec 22) (a b c : FpBits) (n : Nat),
  let inf (n : Bool) : FpBits := fpMake t n (infMag t)
  let na := fpNeg t a
  let nb := fpNeg t b
  let nc := fpNeg t c
  let isNan (x : FpBits) : Prop := infMag t < fpMag t x
  let isInf (x : FpBits) : Prop := fpMag t x = infMag t
  let made := nanCreated t tag
  let winner (x y : FpBits) : FpBits :=
    if fpIsNan t x ∧ (¬fpIsNan t y ∨ t ≠ .f32 ∨ x.toNat % 2 ^ 22 ≤ y.toNat % 2 ^ 22) then x else y
  let wins := winner a b
  (isInf a → isInf b → na ≠ nb → fpAdd t r tag a b = made ∧ fpSub t r tag a b = inf na) ∧
  (isInf a → isInf b → na = nb → fpSub t r tag a b = made ∧ fpAdd t r tag a b = inf na) ∧
  (isInf a → fpFinite t b → fpAdd t r tag a b = inf na ∧ fpSub t r tag a b = inf na) ∧
  (fpFinite t a → isInf b → fpAdd t r tag a b = inf nb ∧ fpSub t r tag a b = inf !nb) ∧
  (isInf b → 0 < fpMag t a → ¬isNan a → fpMul t r tag a b = inf (na != nb)) ∧
  (isInf a → fpMag t b = 0 → ¬isNan c → fpFma t r tag a b c = made ∧ fpFma t r tag b a c = made) ∧
  (isInf a → 0 < fpMag t b → ¬isNan b → isInf c → nc ≠ (na != nb) →
    fpFma t r tag a b c = made ∧ fpFma t r tag b a c = made) ∧
  (isInf a → 0 < fpMag t b → ¬isNan b → (fpFinite t c ∨ isInf c ∧ nc = (na != nb)) →
    fpFma t r tag a b c = inf (na != nb) ∧ fpFma t r tag b a c = inf (na != nb)) ∧
  (fpFinite t a → fpFinite t b → isInf c → fpFma t r tag a b c = inf nc) ∧
  (isNan a ∨ isNan b ∨ isNan c → fpFma t r tag a b c = fpQuiet t (winner a (winner b c))) ∧
  (isNan a → fpSqrt t r tag a = fpQuiet t a) ∧
  (isInf a → fpToFp u t r a = fpMake u na (infMag u) ∧ fpRoundInt t r a = inf na ∧
    fpToInt true (n + 1) t r a = (if na then -(2 ^ n : Int) else 2 ^ n - 1) ∧
    fpToInt false n t r a = (if na then 0 else (2 ^ n : Int) - 1)) ∧
  (isNan a → fpToInt true n t r a = 0 ∧ fpToInt false n t r a = 0 ∧ fpRoundInt t r a = fpQuiet t a) ∧
  (isNan a → ∃ y, fpToFp u t r a = y ∧ y.toNat < 2 ^ fpWidth u ∧ fpNeg u y = na ∧
    fpMag u y / 2 ^ fracBits u = infMag u / 2 ^ fracBits u ∧ y.getLsbD (fracBits u - 1) = true ∧
    ∀ k, 1 ≤ k → k < fracBits u → y.getLsbD (fracBits u - 1 - k) = (decide (k < fracBits t) && a.getLsbD (fracBits t - 1 - k))) ∧
  (isInf a → fpMag t b = 0 → fpMul t r tag a b = made ∧ fpMul t r tag b a = made) ∧
  (isInf a → 0 < fpMag t b → ¬isNan b → fpMul t r tag a b = inf (na != nb)) ∧
  (isInf a → isInf b → fpDiv t r tag a b = made) ∧ (fpMag t a = 0 → fpMag t b = 0 → fpDiv t r tag a b = made) ∧
  (isInf a → fpFinite t b → fpDiv t r tag a b = inf (na != nb)) ∧
  (fpFinite t a → isInf b → fpDiv t r tag a b = fpMake t (na != nb) 0) ∧
  (fpFinite t a → 0 < fpMag t a → fpMag t b = 0 → fpDiv t r tag a b = inf (na != nb)) ∧
  (fpMag t a = 0 → fpSqrt t r tag a = fpMake t na 0) ∧ (isInf a → na = false → fpSqrt t r tag a = inf false) ∧
  (0 < fpMag t a → ¬isNan a → na = true → fpSqrt t r tag a = made) ∧
  (isNan a ∨ isNan b → fpAdd t r tag a b = fpQuiet t wins ∧ fpSub t r tag a b = fpQuiet t wins ∧
    fpMul t r tag a b = fpQuiet t wins ∧ fpDiv t r tag a b = fpQuiet t wins)

/-- fmin and fmax return one operand, a number before a NaN, -0 below +0, an infinity beyond every finite value; fcmp by values, a
NaN making .un and .ne hold and all else fail; fcls names the class (R107-R109). -/
def Claims.FloatingPointOrder : Prop :=
  ∀ (s : State) (u : Option FpTy) (k : FCond) (d : PReg) (p q : GReg),
  let t := u.getD .f32
  let a : FpBits := BitVec.ofNat 32 ((readG s p).toNat % 2 ^ fpWidth t)
  let b : FpBits := BitVec.ofNat 32 ((readG s q).toNat % 2 ^ fpWidth t)
  let isNan (x : FpBits) : Prop := infMag t < fpMag t x
  let isInf (x : FpBits) : Prop := fpMag t x = infMag t
  let less (x y : FpBits) : Prop := (fpFinite t x ∧ fpFinite t y ∧ fpVal t x < fpVal t y) ∨
    (isInf x ∧ fpNeg t x = true ∧ ¬(isInf y ∧ fpNeg t y = true)) ∨ (isInf y ∧ fpNeg t y = false ∧ ¬(isInf x ∧ fpNeg t x = false))
  let same (x y : FpBits) : Prop := (fpFinite t x ∧ fpFinite t y ∧ fpVal t x = fpVal t y) ∨
    (isInf x ∧ isInf y ∧ fpNeg t x = fpNeg t y)
  let wins : FpBits :=
    if fpIsNan t a ∧ (¬fpIsNan t b ∨ t ≠ .f32 ∨ a.toNat % 2 ^ 22 ≤ b.toNat % 2 ^ 22) then a else b
  let holds (h : Prop) : Prop := ∃ z : Bool, (z = true ↔ h) ∧ Gives (.fcmp u k d p q) s (pResult (slotOf s) d z)
  (isNan a → ¬isNan b → fpMin t a b = b ∧ fpMax t a b = b) ∧
  (¬isNan a → isNan b → fpMin t a b = a ∧ fpMax t a b = a) ∧
  (isNan a → isNan b → fpMin t a b = fpQuiet t wins ∧ fpMax t a b = fpQuiet t wins) ∧
  (¬isNan a → ¬isNan b → less a b → fpMin t a b = a ∧ fpMax t a b = b) ∧
  (¬isNan a → ¬isNan b → less b a → fpMin t a b = b ∧ fpMax t a b = a) ∧
  (fpMag t a = 0 → fpMag t b = 0 → fpNeg t a = true → fpNeg t b = false → fpMin t a b = a ∧ fpMax t a b = b) ∧
  (same a b → fpNeg t a = fpNeg t b → fpMin t a b = a ∧ fpMax t a b = a) ∧
  (fpMag t a = 0 → fpMag t b = 0 → fpNeg t a = false → fpNeg t b = true → fpMin t a b = b ∧ fpMax t a b = a) ∧
  (isNan a ∨ isNan b → holds (k = .un ∨ k = .ne)) ∧
  (¬isNan a → ¬isNan b → holds (match k with
    | .ord => True
    | .un => False
    | .eq => same a b
    | .ne => ¬same a b
    | .lt => less a b
    | .le => less a b ∨ same a b
    | .gt => less b a
    | .ge => less b a ∨ same a b)) ∧
  (isInf a → fpClass t a = if fpNeg t a then 0 else 7) ∧
  (fpFinite t a → 2 ^ fracBits t ≤ fpMag t a → fpClass t a = if fpNeg t a then 1 else 6) ∧
  (0 < fpMag t a → fpMag t a < 2 ^ fracBits t → fpClass t a = if fpNeg t a then 2 else 5) ∧
  (fpMag t a = 0 → fpClass t a = if fpNeg t a then 3 else 4) ∧
  (isNan a → fpClass t a = if a.getLsbD (fracBits t - 1) then 9 else 8)

/-- Infinities, NaNs and the floating-point order: SpecialValues and FloatingPointOrder together. -/
def Obligations.FloatingPointSpecials : Prop := Claims.SpecialValues ∧ Claims.FloatingPointOrder

/-! ## Special registers and control transfers (02, 05, 08, 10) -/

/-- mfs writes g[D] from the register, with what each of the registers reads as, field by field; an RWP register at level 0 of a
user context raises PRIV with the register's number (R5, R18, R19, R28, R113, 08 R202, 14 R301, 18 R345, 23 R410). -/
def Claims.ReadSpecial : Prop := ∀ (s : State) (d : GReg) (r : SReg),
  let user := UserMode s
  (sregAccess r ≠ .rwp ∨ ¬user → Gives (.mfs d r) s (gResult (slotOf s) d (readSpecial s r))) ∧
  (sregAccess r = .rwp → user → TrapsHere (.mfs d r) s 2 0 (65536 * sregNumber r + 0x0C2)) ∧
  (sregAccess r = .rwp ↔ r ∈ [SReg.sspill, .sdctl, .scarve, .svgroup, .tvec, .tcause false, .tcause true, .tip false, .tip true,
    .tfva false, .tfva true, .tinfo false, .tinfo true, .tarea false, .tarea true]) ∧
  readSpecial s .scell = BitVec.ofNat 64 (4096 * s.plat.pkg.toNat + s.curCell) ∧
  readSpecial s .sframe = (slotOf s).sframe ∧ readSpecial s .sbudget = (slotOf s).sbudget.setWidth 64 ∧
  readSpecial s .stime = s.stime ∧ readSpecial s .sstk = (ccOf s).sstk[s.curSlot] ∧
  readSpecial s .mxdone = (ccOf s).mxu.done ∧ (∀ l, readSpecial s (.tcause l) = (slotOf s).tcause[bankOf l]) ∧
  (∀ l, readSpecial s (.tip l) = (slotOf s).tip[bankOf l] ∧ readSpecial s (.tfva l) = (slotOf s).tfva[bankOf l] ∧
    readSpecial s (.tinfo l) = (slotOf s).tinfo[bankOf l] ∧ readSpecial s (.tarea l) = (slotOf s).tarea[bankOf l]) ∧
  readSpecial s .sctl = (slotOf s).sctl ∧ readSpecial s .sdctl = (ccOf s).sdctl ∧ readSpecial s .tvec = (ccOf s).tvec ∧
  readSpecial s .scbase = (ccOf s).scbase ∧ readSpecial s .sclim = (ccOf s).sclim ∧ readSpecial s .sspill = (ccOf s).sspill ∧
  readSpecial s .scarve = (ccOf s).scarve ∧ readSpecial s .svgroup = (ccOf s).svgroup ∧
  (∀ i : Fin 24, readSpecial s (.senacc i) = s.plat.islands[i].uj ∧
    (readSpecial s (.senlim i)).toNat = s.plat.islands[i].mw.toNat) ∧
  (let w := (readSpecial s .sdomain).toNat
   w % 16 = (ccOf s).widest.toNat ∧ w / 16 % 16 = (ccOf s).domain.toNat ∧ w / 256 = (ccOf s).fails.toNat) ∧
  (let p := physOf s s.curCell
   (p < 1024 → (readSpecial s .sphys).toNat = p) ∧
    (s.plat.absentCells.Pairwise (fun a b => a < b) →
      p ∉ s.plat.absentCells ∧ p = s.curCell + s.plat.absentCells.countP (fun a => a < p))) ∧
  (let w := (readSpecial s .sinv).toNat
   w / 2 ^ 36 = s.plat.stackBits.toNat ∧ ∀ n, n < 4 → w / 2 ^ (9 * n) % 512 = dieCells s n) ∧
  (let w := (readSpecial s .mxstat).toNat
   let x := (ccOf s).mxu
   x.queue.length ≤ 16 → w % 4096 = x.queue.length ∧ w / 2 ^ 12 % 16 = (if x.pend = none then 0 else 1) ∧
      w / 2 ^ 16 % 256 = (if x.narrow then 1 else 0) ∧ w / 2 ^ 24 % 16 = x.err.toNat ∧ w / 2 ^ 32 % 65536 = x.k.toNat ∧
      w / 2 ^ 48 = x.errtk.toNat ∧ ∀ i : Fin 4, (w / 2 ^ 28).testBit i.val = x.poisoned[i])

/-- mts writes the writable bits of its register and keeps the others; an RO register is left alone; scell, sphys and sinv,
and an RWP register at level 0 of a user context, raise PRIV (R5, R28, R29, R31, R113, 18 R345). -/
def Claims.WriteSpecial : Prop := ∀ (s : State) (a : GReg),
  let x := slotOf s
  let c := ccOf s
  let w := readG s a
  let user := UserMode s
  Gives (.mts .sctl a) s (nextIp { x with sctl := w &&& 1 }) ∧
  GivesCc (.mts .sstk a) s (nextIp x) { c with sstk := c.sstk.set s.curSlot (w &&& 0x7FFFFFFFFFFFF0) } ∧
  (∀ r, sregAccess r = .ro → Gives (.mts r a) s (nextIp x)) ∧
  (∀ r, sregAccess r = .fuse → TrapsHere (.mts r a) s 2 0 (65536 * sregNumber r + 0x0C4)) ∧
  (user → ∀ r, sregAccess r = .rwp → TrapsHere (.mts r a) s 2 0 (65536 * sregNumber r + 0x0C4)) ∧
  (¬user → GivesCc (.mts .sdctl a) s (nextIp x) { c with sdctl := w &&& 1 } ∧
    GivesCc (.mts .tvec a) s (nextIp x) { c with tvec := w } ∧
    ∀ l, Gives (.mts (.tcause l) a) s (nextIp { x with tcause := x.tcause.set (bankOf l) (w &&& 0xFF) }) ∧
      Gives (.mts (.tip l) a) s (nextIp { x with tip := x.tip.set (bankOf l) (w &&& 0xFFFFFFFF) }) ∧
      Gives (.mts (.tfva l) a) s (nextIp { x with tfva := x.tfva.set (bankOf l) w }) ∧
      Gives (.mts (.tinfo l) a) s (nextIp { x with tinfo := x.tinfo.set (bankOf l) w }) ∧
      Gives (.mts (.tarea l) a) s (nextIp { x with tarea := x.tarea.set (bankOf l) (w &&& 0x7FFFFFFFFFFE00) }))

/-- mfs and mts of every special register: ReadSpecial and WriteSpecial together. -/
def Obligations.SpecialRegisters : Prop := Claims.ReadSpecial ∧ Claims.WriteSpecial

/-- mts to sdomain: WIDEST alone is written, 3 leaves it, and narrowing below CUR takes CUR along with FAILS at 0 (R202);
mts to svgroup, which drops the lines of the old pool and of the new one when POOL changes; mts to scarve, whose reserved or
unfit values are ignored in full, and which keeps the bytes that stay, reads 0 in the bytes that join, and drops the lines of a
victim share that shrinks (R213, R214). -/
def Claims.CellRegisters : Prop := ∀ (s : State) (a : GReg),
  let x := slotOf s
  let c := ccOf s
  let w := readG s a
  let v : BitVec 2 := w.setWidth 2
  let user := UserMode s
  let spad := w.toNat % 16
  let base := w.toNat / 256 % 256
  let len := w.toNat / 65536 % 256
  let p := physOf s s.curCell
  let dropped (ps : List Nat) : Coh := { s.coh with vic := s.coh.vic.filter (fun e => !ps.contains (e.1 / 2 ^ 40)) }
  let fits : Prop := 2 ≤ spad ∧ spad ≤ 8 ∧ len ≤ 128 ∧ base * 4096 + 1024 * len ≤ spad * 131072
  (v = 3 → GivesCc (.mtsSdomain a) s (nextIp x) c) ∧
  (v ≠ 3 → c.domain ≤ v → GivesCc (.mtsSdomain a) s (nextIp x) { c with widest := v }) ∧
  (v < c.domain → GivesCc (.mtsSdomain a) s (nextIp x) { c with widest := v, domain := v, fails := 0 }) ∧
  (user → TrapsHere (.mtsSvgroup a) s 2 0 0xE00C4 ∧ TrapsHere (.mtsScarve a) s 2 0 0xD00C4) ∧
  (¬user → logicalOf s p = s.curCell → GivesCcCoh (.mtsSvgroup a) s (nextIp x) { c with svgroup := w &&& 3 }
    (if w.toNat % 4 = c.svgroup.toNat % 4 then s.coh
      else dropped (poolGroup s p (c.svgroup.toNat % 4) ++ poolGroup s p (w.toNat % 4)))) ∧
  (∀ k q, q ∈ poolGroup s p k ↔ q / 8 = p / 8 ∧ q % 8 / 2 ^ k = p % 8 / 2 ^ k ∧ q < 1024 ∧ q ∉ s.plat.absentCells) ∧
  (¬user → ¬fits → Gives (.mtsScarve a) s (nextIp x)) ∧
  (¬user → (∃ e ∈ c.tiles, spad * 131072 ≤ e.1 * 4096) → Gives (.mtsScarve a) s (nextIp x)) ∧
  (¬user → fits → c.tiles = [] → ∃ y,
    GivesCcCoh (.mtsScarve a) s (nextIp x) y (if padSize c < spad * 131072 then dropped [p] else s.coh) ∧
    y.scarve = w &&& 0xFFFF0F ∧
    y.topcoat = (c.topcoat && c.scarve.toNat / 256 % 65536 == w.toNat / 256 % 65536) ∧
    (∀ o, memGet y.spad o = if o < spad * 131072 ∧ o < padSize c then memGet c.spad o else 0) ∧
    { y with scarve := c.scarve, topcoat := c.topcoat, spad := c.spad, padPoison := c.padPoison } = c)

/-- mts to sspill: PRIV for a user, a reserved SIZE and a ring too small for the frames held ignored; the first page of the new
ring that fails its check raises XLATE or PROT with tfva at the lowest byte of the ring on it; else the new ring with the frames
of the old one, oldest first, from index 0 on, and bytes outside it as before (R203). A walk or a line that must wait, an mts to
sspill that the cell issued before it (R114), and by the model's choice a commit in progress (log 21), make the mts wait in RUN; by
the model's choice a page whose table entry is poisoned raises UE there (log 59), and where the rings overlap every old frame is read
before a new one is written, by the model's choice (log 61). -/
def Claims.SpillRing : Prop := ∀ (s u v t1 : State) (a : GReg) (pages : List Nat) (j : Nat) (b : Bad),
  let x := slotOf s
  let c := ccOf s
  let w := readG s a
  let z := w.toNat % 32
  let user := UserMode s
  let cap := if z = 0 then 0 else 2 ^ z
  let base := w.toNat / 4096 % 2 ^ 43 * 4096
  let vps := if z = 0 then [] else ringVpages base (64 * cap)
  let fit : Prop := z = 0 ∨ (5 ≤ z ∧ z ≤ 16)
  let checks (p : Nat) := locate u ⟨5, 0x0C4, true, true, false, false⟩ (BitVec.ofNat 64 p)
  let walked := walkPages s s.curCell c.desc (vps.map (fun p => p / 65536))
  let k := s.curSlot
  let poisoned (p : Nat) : Prop := walkPoisoned u s.curCell c.desc p = true
  let passes (p : Nat) : Prop := ¬poisoned p ∧ ∃ pa, checks p = .ok (.mem pa)
  let first : Prop := (cellAt s s.curCell).spillers = [] ∨ (cellAt s s.curCell).spillers.head? = some k
  let stays (u : State) : State := if k ∈ (cellAt u s.curCell).spillers then u
    else putCell u s.curCell { cellAt u s.curCell with spillers := (cellAt u s.curCell).spillers ++ [k] }
  let gone (u : State) : State := if k ∈ (cellAt u s.curCell).spillers then
      putCell u s.curCell { cellAt u s.curCell with spillers := (cellAt u s.curCell).spillers.filter (fun n => n != k) }
    else u
  let va : Nat := if j = 0 then base else vps.getD j 0
  let page2 (z : Nat) : Nat := if base / 65536 < z / 65536 then 2 ^ 21 else 0
  let old := ringLines u s.curCell false 0 c.ringCount
  let y := { c with sspill := w &&& 0x7FFFFFFFFFF01F, ringPages := pages, ringHead := 0, ringCount := 0 }
  let new := ringLines (putCcOf v y) s.curCell true 0 c.ringCount
  (user → TrapsHere (.mtsSspill a) s 2 0 0x300C4) ∧
  (¬user → (1 ≤ z ∧ z ≤ 4) ∨ 17 ≤ z → Gives (.mtsSspill a) s (nextIp x)) ∧
  (¬user → fit → (cellAt s s.curCell).committing ≠ none ∨ ¬first → WaitsIn (.mtsSspill a) s (stays s)) ∧
  (¬user → fit → (cellAt s s.curCell).committing = none → first →
    (walked = .error u → WaitsIn (.mtsSspill a) s (stays u)) ∧
    (walked = .ok u → j < vps.length → (∀ i, i < j → passes (vps.getD i 0)) →
      (poisoned (vps.getD j 0) → TrapsHereFrom (.mtsSspill a) s (gone u) 0x0D (BitVec.ofNat 64 (va / 32 * 32)) (page2 va + 0x50C4)) ∧
      (¬poisoned (vps.getD j 0) → checks (vps.getD j 0) = .error b →
        TrapsHereFrom (.mtsSspill a) s (gone u) (badCause b) (BitVec.ofNat 64 va) (badLevel b * 2 ^ 22 + page2 va + 0x50C4))) ∧
    (walked = .ok u → pages.length = vps.length →
      (∀ i, i < vps.length → ¬poisoned (vps.getD i 0) ∧ checks (vps.getD i 0) = .ok (.mem (pages.getD i 0))) →
      (cap < c.ringCount → GivesFrom (.mtsSspill a) s (gone u) (nextIp x)) ∧
      (c.ringCount ≤ cap → old = .error v → WaitsIn (.mtsSspill a) s (stays v)) ∧
      (c.ringCount ≤ cap → old = .ok v → new = .error t1 → WaitsIn (.mtsSspill a) s (stays (putCcOf t1 c))) ∧
      (c.ringCount ≤ cap → old = .ok v → new = .ok t1 → pages.Nodup → (∀ p ∈ pages, p % 65536 = 0) →
        ∃ t, exec (.mtsSspill a) s = .next t ∧ slotOf t = nextIp x ∧ OtherSlots s t ∧ OtherCells s.curCell s t ∧
          ccOf t = { c with sspill := w &&& 0x7FFFFFFFFFF01F, ringPages := pages, ringHead := 0 } ∧
          (cellAt t s.curCell).spillers = (cellAt s s.curCell).spillers.filter (fun n => n != k) ∧
          OnlyMemory s { t with slots := s.slots, cells := s.cells } ∧
          (∀ i, i < c.ringCount → physBytes t (ringAddr (ccOf t) i) 64 =
            (physFrame v (dieOf (physOf s s.curCell)) (ringAddr c ((c.ringHead + i) % ringCap c))).toList.flatMap
              (fun w => bytesOf w.toNat 8)) ∧
          ∀ b, (∀ i, i < c.ringCount → b < ringAddr (ccOf t) i ∨ ringAddr (ccOf t) i + 64 ≤ b) →
            physByte t b = physByte s b)))

/-- scarve, svgroup, sdomain and the spill ring: CellRegisters and SpillRing together. -/
def Obligations.CellState : Prop := Claims.CellRegisters ∧ Claims.SpillRing

/-- br, jmp, both forms of call, ret and loop set IP; call leaves IP + 1 in g63 and reads the old g[A]; loop counts g[D]
down, and with D = g0 always branches (R115). -/
def Claims.ControlTransfers : Prop := ∀ (s : State) (a d : GReg) (imm : BitVec 56),
  let x := slotOf s
  let far := x.ip + imm.setWidth 32
  let link := x.g.set 63 ((x.ip + 1).setWidth 64)
  let n := readG s d - 1
  Gives (.br imm) s { x with ip := far } ∧ Gives (.jmp a) s { x with ip := (readG s a).setWidth 32 } ∧
  Gives (.ret a) s { x with ip := (readG s a).setWidth 32 } ∧
  Gives (.call a) s { x with g := link, ip := (readG s a).setWidth 32 } ∧
  Gives (.callImm imm) s { x with g := link, ip := far } ∧
  (d ≠ 0 → n ≠ 0 → Gives (.loop d imm) s { x with g := x.g.set d n, ip := far }) ∧
  (d ≠ 0 → n = 0 → Gives (.loop d imm) s (nextIp { x with g := x.g.set d n })) ∧
  Gives (.loop 0 imm) s { x with ip := far }

/-- nop, pref and fence only advance IP; accesses here are performed in program order, so a fence adds nothing (R117, R121,
R253; log 8). -/
def Claims.NoEffect : Prop := ∀ (s : State) (n : Fin 4) (m : MemOp) (o : FenceOrder) (sc : Scope),
  Gives .nop s (nextIp (slotOf s)) ∧ Gives (.pref n m) s (nextIp (slotOf s)) ∧ Gives (.fence o sc) s (nextIp (slotOf s))

/-- Control transfers, and instructions that only advance IP: ControlTransfers and NoEffect together. -/
def Obligations.ControlFlow : Prop := Claims.ControlTransfers ∧ Claims.NoEffect

/-! ## Memory (05, 06, 10, 12) -/

/-- ld whose bytes pass their checks, whose lines have been got and that meets no poison: g[D] becomes the bytes, least
significant first, extended as Sign says; with D = g0 only the value is lost; poison raises UE at its lowest sector. Every byte
of the package reads as before. A walk or a line that must wait leaves the instruction to be performed again, in RUN (R3, R118,
R120, 18 R344, 20 R388). That all bytes are read in one step is the model's choice (log 9). -/
def Claims.Loads : Prop :=
  ∀ (s u v w : State) (sz : Size) (o : MemOrder) (sign : Bool) (d : GReg) (m : MemOp) (ls : List Loc),
  let n := sizeBytes sz
  let ea := readG s m.a + readG s m.b + m.disp.signExtend 64
  let as := (List.range n).map (fun i => ea + BitVec.ofNat 64 i)
  let checked := checkAccess s ⟨1, 0x100, true, false, false, true⟩ ea as
  let sector (a : Word) := a &&& ~~~31
  (checked = .wait w → WaitsIn (.ld sz o sign d m) s w) ∧
  (checked = .ok u ls → getLines u false ls = .error w → WaitsIn (.ld sz o sign d m) s w) ∧
  (checked = .ok u ls → getLines u false ls = .ok v →
    (∀ a, lowestPoison v as ls = some a → TrapsHereFrom (.ld sz o sign d m) s v 13 (sector a)
      ((if ea.toNat / 65536 < (sector a).toNat / 65536 then 2 ^ 21 else 0) + 0x1100)) ∧
    (lowestPoison v as ls = none →
    ∃ (t : State) (y : BitVec (8 * n)), exec (.ld sz o sign d m) s = .next t ∧
      (∀ i (h : i < ls.length), y.extractLsb' (8 * i) 8 = readLoc s ls[i]) ∧ ls.length = n ∧
      slotOf t = gResult (slotOf s) d (if sign then y.signExtend 64 else y.setWidth 64) ∧
      SameBytes s t ∧ OtherSlots s t ∧ OnlyMemory s { t with slots := s.slots }))

/-- Bytes of a number stand least significant first (00 R3). -/
def Claims.ByteOrder : Prop := ∀ (s : State) (pa n : Nat),
  physNat s pa 0 = 0 ∧ physNat s pa (n + 1) = physNat s pa n + 256 ^ n * (physByte s (pa + n)).toNat ∧
  (∀ (w : Word) (i : Nat), i < 8 → (bytesOf w.toNat 8)[i]? = some (w.extractLsb' (8 * i) 8))

/-- Loads and the order of bytes: Loads and ByteOrder together. -/
def Obligations.LoadedValues : Prop := Claims.Loads ∧ Claims.ByteOrder

/-- st whose bytes pass their checks and whose lines have been got: the low bytes of g[D] stand at the places that the checks gave
for the effective address, and every other byte of the package and of the scratchpads reads as before. A walk or a line that
must wait leaves the instruction to be performed again, in RUN (R3, R119, R120, 20 R388). That all bytes are written in one step
is the model's choice (log 9). -/
def Claims.Stores : Prop :=
  ∀ (s u v w : State) (sz : Size) (o : MemOrder) (d : GReg) (m : MemOp) (ls : List Loc),
  let n := sizeBytes sz
  let ea := readG s m.a + readG s m.b + m.disp.signExtend 64
  let as := (List.range n).map (fun i => ea + BitVec.ofNat 64 i)
  let checked := checkAccess s ⟨2, 0x102, false, true, false, false⟩ ea as
  (checked = .wait w → WaitsIn (.st sz o d m) s w) ∧
  (checked = .ok u ls → getLines u true ls = .error w → WaitsIn (.st sz o d m) s w) ∧
  (checked = .ok u ls → getLines u true ls = .ok v →
    ∃ t, exec (.st sz o d m) s = .next t ∧ slotOf t = nextIp (slotOf s) ∧ ls.length = n ∧
      (∀ i (h : i < ls.length), ls[i] ∉ ls.drop (i + 1) →
        (match ls[i] with
          | .mem pa => physByte t pa
          | .pad p => memGet (ccOf t).spad p) = (readG s d).extractLsb' (8 * i) 8) ∧
      BytesOutside ls s t ∧ PadsOutside ls s t ∧
      OtherSlots s t ∧ OtherCells s.curCell s t ∧
      { ccOf t with spad := (ccOf s).spad, padPoison := (ccOf s).padPoison } = ccOf s ∧
      ((∀ sp ∈ s.place.spaces, hitsPool sp ls = false) → t.place = s.place) ∧
      OnlyMemory s { t with slots := s.slots, cells := s.cells, place := s.place })

/-- ld and st in the own-scratchpad window, of bytes below SPAD that lie in no exchange bank and in no tile of an engine:
neither translated nor cached (R41, R120, 10 R213). -/
def Claims.OwnScratchpad : Prop :=
  ∀ (s : State) (sz : Size) (o : MemOrder) (sign : Bool) (d : GReg) (m : MemOp),
  let n := sizeBytes sz
  let ea := readG s m.a + readG s m.b + m.disp.signExtend 64
  let off := ea.toNat % 2 ^ 48
  let c := ccOf s
  ea.toNat / 2 ^ 48 = 0xFE00 → off + n ≤ padSize c → c.scarve.toNat / 65536 % 256 = 0 → c.tiles = [] → c.padPoison = [] →
    (∃ y : BitVec (8 * n), (∀ i, i < n → y.extractLsb' (8 * i) 8 = memGet c.spad (off + i)) ∧
      Gives (.ld sz o sign d m) s (gResult (slotOf s) d (if sign then y.signExtend 64 else y.setWidth 64))) ∧
    (∃ c', GivesCc (.st sz o d m) s (nextIp (slotOf s)) c' ∧ { c' with spad := c.spad } = c ∧
      ∀ p, memGet c'.spad p =
        if off ≤ p ∧ p < off + n then (readG s d).extractLsb' (8 * (p - off)) 8 else memGet c.spad p)

/-- Stores, and the own scratchpad: Stores and OwnScratchpad together. -/
def Obligations.StoredBytes : Prop := Claims.Stores ∧ Claims.OwnScratchpad

/-- The address checks of one byte, in the order ADDR, XLATE, PROT, for ld, st, cwb and cinv, with tfva at the byte and LEVEL,
KIND and OPC in tinfo (R35, R40, R41, 18 R344, R345). A walk that must wait comes first, and by the model's choice one that reads a
poisoned entry (log 59). -/
def Claims.AddressTraps : Prop :=
  ∀ (s u : State) (o : MemOrder) (sign : Bool) (d : GReg) (m : MemOp) (sc : Scope),
  let ea := readG s m.a + readG s m.b + m.disp.signExtend 64
  let line := ea &&& ~~~127
  let high := ea.toNat / 2 ^ 55
  let walks (a : Word) : Prop :=
    walkPages s s.curCell (ccOf s).desc [a.toNat / 65536] = .ok u ∧ poisonedWalk u s.curCell (ccOf s).desc [a] = none
  let walked (a : Word) := translate u s.curCell (ccOf s).desc a.toNat
  (ea.toNat / 2 ^ 48 ≠ 0xFE00 → high ≠ 0 →
    TrapsHere (.ld .b1 o sign d m) s 6 ea 0x1100 ∧ TrapsHere (.st .b1 o d m) s 6 ea 0x2102 ∧
    TrapsHere (.cwb sc 0 m) s 6 line 0x7108 ∧ TrapsHere (.cinv sc 0 m) s 6 line 0x710A) ∧
  (ea.toNat / 2 ^ 48 = 0xFE00 → padSize (ccOf s) ≤ ea.toNat % 2 ^ 48 →
    TrapsHere (.ld .b1 o sign d m) s 6 ea 0x1100 ∧ TrapsHere (.st .b1 o d m) s 6 ea 0x2102) ∧
  (high = 0 → walks ea → ∀ l, walked ea = .error l →
    TrapsHereFrom (.ld .b1 o sign d m) s u 4 ea (l * 2 ^ 22 + 0x1100) ∧
    TrapsHereFrom (.st .b1 o d m) s u 4 ea (l * 2 ^ 22 + 0x2102)) ∧
  (high = 0 → walks line → ∀ l, walked line = .error l →
    TrapsHereFrom (.cwb sc 0 m) s u 4 line (l * 2 ^ 22 + 0x7108) ∧
    TrapsHereFrom (.cinv sc 0 m) s u 4 line (l * 2 ^ 22 + 0x710A)) ∧
  (high = 0 → walks ea → ∀ e, walked ea = .ok e →
    (e.r = false → TrapsHereFrom (.ld .b1 o sign d m) s u 5 ea 0x1100) ∧
    (e.w = false → TrapsHereFrom (.st .b1 o d m) s u 5 ea 0x2102)) ∧
  (high = 0 → walks line → ∀ e, walked line = .ok e →
    (e.r = false → TrapsHereFrom (.cwb sc 0 m) s u 5 line 0x7108) ∧
    (e.w = false → TrapsHereFrom (.cinv sc 0 m) s u 5 line 0x710A))

/-- Every access of a load, a store, an amo, a cas, a cwb or a cinv, scalar or vector and of any width, traps on the lowest of its bytes
that fail the checks: ADDR, XLATE or PROT, with tfva at that byte, the table level of an XLATE, PAGE2 when the byte lies on a later
64 KiB page than the access's first byte, KIND and OPC (R35, R148, R248, 18 R344, R345); an empty access traps on nothing. By the
model's choice a walk that reads a poisoned entry raises UE at the first byte walked for (log 59). -/
def Claims.AccessFaults : Prop :=
  ∀ (s u : State) (sz : Size) (vz : VSize) (o : MemOrder) (ro : RmwOrder) (sc : Scope) (sign : Bool) (op : AmoOp) (d : GReg) (vd : VReg)
    (m : MemOp) (k : MaskSel) (n1 : Fin 128) (e : TrapInfo) (b : Bad) (q : Word) (j : Nat),
  let ea := readG s m.a + readG s m.b + m.disp.signExtend 64
  let span (a : Word) (n : Nat) : List Word := (List.range n).map (fun i => a + BitVec.ofNat 64 i)
  let n := vsizeBytes vz
  let lanes := (List.range (128 / n)).filter (fun i => match k.mask with
    | none => true
    | some r => (readM s r).getLsbD i)
  let unit := lanes.flatMap (fun i => span (ea + BitVec.ofNat 64 (i * n)) n)
  let strided := lanes.flatMap (fun i => span (ea + BitVec.ofNat 64 i * readG s m.b) n)
  let indexed := lanes.flatMap (fun i => span (ea + BitVec.ofNat 64 ((lane (8 * n) (readV s (vd + 1)) i).toNat * n)) n)
  let lines := ((List.range (n1.val + 1)).map (fun i => (ea &&& ~~~127) + BitVec.ofNat 64 (128 * i))).filter
    (fun a => a.toNat / 2 ^ 48 ≠ 0xFE00)
  let Faults (i : Instr) (acc : Access) (first : Word) (as : List Word) : Prop :=
    let later (a : Word) : Nat := if first.toNat / 65536 < a.toNat / 65536 then 2 ^ 21 else 0
    let tail : Nat := acc.kind * 4096 + acc.opc.toNat
    (checkAccess s acc first as = .trap u e → TrapsFrom i s u e.cause (slotOf s).ip e.va e.info) ∧
    (walkPages s s.curCell (ccOf s).desc (pagesOf as) = .ok u →
      (poisonedWalk u s.curCell (ccOf s).desc as = some q →
        TrapsHereFrom i s u 13 (q &&& ~~~31) (later (q &&& ~~~31) + tail)) ∧
      (poisonedWalk u s.curCell (ccOf s).desc as = none → j < as.length → locate u acc (as.getD j 0) = .error b →
        (∀ p b', p < as.length → locate u acc (as.getD p 0) = .error b' → (as.getD j 0).toNat ≤ (as.getD p 0).toNat) →
        TrapsHereFrom i s u (match b with | .addr => 6 | .xlate _ => 4 | .prot => 5) (as.getD j 0)
          ((match b with | .xlate l => l * 2 ^ 22 | _ => 0) + later (as.getD j 0) + tail)))
  let load (opc : BitVec 12) : Access := ⟨1, opc, true, false, false, true⟩
  let store (opc : BitVec 12) : Access := ⟨2, opc, false, true, false, false⟩
  Faults (.ld sz o sign d m) (load 0x100) ea (span ea (sizeBytes sz)) ∧
  Faults (.st sz o d m) (store 0x102) ea (span ea (sizeBytes sz)) ∧
  Faults (.vld vz o vd m k) (load 0x4E0) (firstAddr unit) unit ∧
  Faults (.vlds vz o vd m k) (load 0x4E4) (firstAddr strided) strided ∧
  Faults (.vldx vz o vd m k) (load 0x4E8) (firstAddr indexed) indexed ∧
  Faults (.vst vz o vd m k.mask) (store 0x4E2) (firstAddr unit) unit ∧
  Faults (.vsts vz o vd m k.mask) (store 0x4E6) (firstAddr strided) strided ∧
  Faults (.vstx vz o vd m k.mask) (store 0x4EA) (firstAddr indexed) indexed ∧
  ((∀ pa, (slotOf s).stall ≠ .home pa) → ea.toNat % sizeBytes sz = 0 →
    Faults (.amo sz sc sign op ro d m) ⟨3, 0x120, true, true, false, false⟩ ea (span ea (sizeBytes sz)) ∧
    Faults (.cas sz sc sign ro d m) ⟨3, 0x122, true, true, false, false⟩ ea (span ea (sizeBytes sz))) ∧
  Faults (.cwb sc n1 m) ⟨7, 0x108, true, false, false, true⟩ (ea &&& ~~~127) lines ∧
  Faults (.cinv sc n1 m) ⟨7, 0x10A, false, true, false, true⟩ (ea &&& ~~~127) lines

/-- The address checks of an access, in their order, and the lowest byte that fails: AddressTraps and AccessFaults together. -/
def Obligations.AddressTraps : Prop := Claims.AddressTraps ∧ Claims.AccessFaults

/-- The vector loads, once their lines have been got: lane i comes from E + i·n, from E + i·g[B] or from E + index·n, where E holds
g[B] too; active lanes only; inactive lanes are kept or zeroed; poison raises UE at its lowest sector; every byte of the package reads
as before. A walk or a line that must wait leaves the instruction to be performed again, in RUN (R124, R146, R148, R149, 18 R344, 20
R388). That all lanes are read in one
step is the model's choice (log 9). -/
def Claims.VectorLoads : Prop :=
  ∀ (s u v w : State) (sz : VSize) (o : MemOrder) (d : VReg) (m : MemOp) (k : MaskSel) (form : Fin 3) (ls : List Loc),
  let n := vsizeBytes sz
  let ea := readG s m.a + readG s m.b + m.disp.signExtend 64
  let ix := readV s (d + 1)
  let act (i : Nat) : Bool := match k.mask with
    | none => true
    | some r => (readM s r).getLsbD i
  let at_ (i : Nat) : Word := match form with
    | 0 => ea + BitVec.ofNat 64 (i * n)
    | 1 => ea + BitVec.ofNat 64 i * readG s m.b
    | 2 => ea + BitVec.ofNat 64 ((lane (8 * n) ix i).toNat * n)
  let lanes := (List.range (128 / n)).filter act
  let as := lanes.flatMap (fun i => (List.range n).map (fun j => at_ i + BitVec.ofNat 64 j))
  let i : Instr := match form with
    | 0 => .vld sz o d m k
    | 1 => .vlds sz o d m k
    | 2 => .vldx sz o d m k
  let acc : Access := ⟨1, match form with | 0 => 0x4E0 | 1 => 0x4E4 | 2 => 0x4E8, true, false, false, true⟩
  let checked := checkAccess s acc (firstAddr as) as
  (checked = .wait w → WaitsIn i s w) ∧ (checked = .ok u ls → getLines u false ls = .error w → WaitsIn i s w) ∧
  (checked = .ok u ls → getLines u false ls = .ok v → ∀ a, lowestPoison v as ls = some a →
    TrapsHereFrom i s v 13 (a &&& ~~~31)
      ((if (firstAddr as).toNat / 65536 < (a &&& ~~~31).toNat / 65536 then 2 ^ 21 else 0) + 4096 + acc.opc.toNat)) ∧
  (checked = .ok u ls → getLines u false ls = .ok v → lowestPoison v as ls = none →
    ∃ (t : State) (y : VecWord), exec i s = .next t ∧ slotOf t = vResult (slotOf s) d y ∧
      (∀ p (h : p < ls.length), lane 8 y ((lanes.getD (p / n) 0) * n + p % n) = readLoc s ls[p]) ∧
      (∀ i, i < 128 / n → act i = false → lane (8 * n) y i = if k.z then 0 else lane (8 * n) (readV s d) i) ∧
      SameBytes s t ∧ OtherSlots s t ∧ OnlyMemory s { t with slots := s.slots })

/-- The vector stores, once their lines have been got: active lanes to the same addresses, in lane order, so that of two lanes at one
place the higher remains; every other byte reads as before. A walk or a line that must wait leaves the instruction to be
performed again, in RUN (R146, R148, R149, 20 R388). That all lanes are written in one step is the model's choice (log 9). -/
def Claims.VectorStores : Prop :=
  ∀ (s u v w : State) (sz : VSize) (o : MemOrder) (d : VReg) (m : MemOp) (k : Option MReg) (form : Fin 3) (ls : List Loc),
  let n := vsizeBytes sz
  let ea := readG s m.a + readG s m.b + m.disp.signExtend 64
  let ix := readV s (d + 1)
  let act (i : Nat) : Bool := match k with
    | none => true
    | some r => (readM s r).getLsbD i
  let at_ (i : Nat) : Word := match form with
    | 0 => ea + BitVec.ofNat 64 (i * n)
    | 1 => ea + BitVec.ofNat 64 i * readG s m.b
    | 2 => ea + BitVec.ofNat 64 ((lane (8 * n) ix i).toNat * n)
  let lanes := (List.range (128 / n)).filter act
  let as := lanes.flatMap (fun i => (List.range n).map (fun j => at_ i + BitVec.ofNat 64 j))
  let i : Instr := match form with
    | 0 => .vst sz o d m k
    | 1 => .vsts sz o d m k
    | 2 => .vstx sz o d m k
  let acc : Access := ⟨2, match form with | 0 => 0x4E2 | 1 => 0x4E6 | 2 => 0x4EA, false, true, false, false⟩
  let checked := checkAccess s acc (firstAddr as) as
  (checked = .wait w → WaitsIn i s w) ∧ (checked = .ok u ls → getLines u true ls = .error w → WaitsIn i s w) ∧
  (checked = .ok u ls → getLines u true ls = .ok v →
    ∃ t, exec i s = .next t ∧ slotOf t = nextIp (slotOf s) ∧
      (∀ p (h : p < ls.length), ls[p] ∉ ls.drop (p + 1) →
        (match ls[p] with
          | .mem pa => physByte t pa
          | .pad q => memGet (ccOf t).spad q) = lane 8 (readV s d) ((lanes.getD (p / n) 0) * n + p % n)) ∧
      BytesOutside ls s t ∧ PadsOutside ls s t ∧
      OtherSlots s t ∧ OtherCells s.curCell s t ∧
      { ccOf t with spad := (ccOf s).spad, padPoison := (ccOf s).padPoison } = ccOf s ∧
      OnlyMemory s { t with slots := s.slots, cells := s.cells, place := s.place })

/-- Vector loads and stores: VectorLoads and VectorStores together. -/
def Obligations.VectorMemory : Prop := Claims.VectorLoads ∧ Claims.VectorStores

/-- amo and cas on memory, at the unit that their scope names: g[D] takes the old value; amo stores the new one, cas only where it
found the compared one; all other bytes read as before. At .cell the L1 holds the line in M afterwards, at .clu and .die the
slice holds the die-level ownership, at .pkg and .sys memory itself has the value: there the home is asked for the line, at once or by a
request of the die while the slot stalls, and a home on another die sends the result back by a lath. Poison raises UE. In the
own-scratchpad window they act on the scratchpad. An address that is not a multiple of the size raises ADDR (R248-R251, 18 R344, 20
R367, R377, R388). A slot's own copy-out of one of the bytes still to come makes it wait, by the model's choice (log 74). That the
read and the write are one step is the model's choice (log 9). -/
def Obligations.Atomics : Prop :=
  ∀ (s u v w : State) (sz : Size) (sc : Scope) (sign : Bool) (op : AmoOp) (o : RmwOrder) (d : GReg) (m : MemOp) (pa : Nat),
  let n := sizeBytes sz
  let ea := readG s m.a + readG s m.b + m.disp.signExtend 64
  let as := (List.range n).map (fun i => ea + BitVec.ofNat 64 i)
  let ls := (List.range n).map (fun i => Loc.mem (pa + i))
  let x : BitVec (8 * n) := BitVec.ofNat (8 * n) (natOf (ls.map (readLoc s)))
  let y : BitVec (8 * n) := (readG s d).setWidth (8 * n)
  let less (x : BitVec (8 * n)) : Bool := if sign then x.slt y else x.ult y
  let new (x : BitVec (8 * n)) : BitVec (8 * n) := match op with
    | .swap => y
    | .add => x + y
    | .and => x &&& y
    | .or => x ||| y
    | .xor => x ^^^ y
    | .min => if less x then x else y
    | .max => if less x then y else x
  let old : Word := if sign then x.signExtend 64 else x.setWidth 64
  let still := { slotOf s with stall := .none }
  let asking : Prop := ∃ q, (slotOf s).stall = .home q
  let home : Prop := sc = .pkg ∨ sc = .sys
  let line := pa / 128
  let far := trueHome v line
  let away : Bool := byLath (homeDone v line) far (myDie s)
  let detail (opc : BitVec 12) (a : Word) : Nat :=
    (if ea.toNat / 65536 < (a &&& ~~~31).toNat / 65536 then 2 ^ 21 else 0) + 0x3000 + opc.toNat
  let Done (t : State) (z : BitVec (8 * n)) (wr : Prop) : Prop := (wr → physNat t pa n = z.toNat) ∧
    (∀ a, a < pa ∨ pa + n ≤ a ∨ ¬wr → physByte t a = physByte s a) ∧
    OtherSlots s t ∧ OnlyMemory s { t with slots := s.slots, place := s.place }
  let AtHome (i : Instr) (u : State) (opc : BitVec 12) (z : BitVec (8 * n)) (wr : Prop) : Prop :=
    (homeReady u pa = .error w → exec i s = .next w) ∧
    (homeReady u pa = .ok v →
      (∀ a, lowestPoison v as ls = some a →
        (away = false → TrapsHereFrom i s (homeDone v line) 13 (a &&& ~~~31) (detail opc a)) ∧
        (away = true → exec i s = .next (setStall (sendMessage (homeDone v line) far (myDie s))
          (.replyUe (nextTransit (homeDone v line) far (myDie s)) (a &&& ~~~31) (BitVec.ofNat 64 (detail opc a)))))) ∧
      (lowestPoison v as ls = none → ∃ t, exec i s = .next t ∧ Done t z wr ∧
        (wr → ∀ a, pa ≤ a → a < pa + n → memGet t.mem a = physByte t a) ∧
        (away = false → slotOf t = gResult still d old) ∧
        (away = true → ∃ via, via.isSome = true ∧ slotOf t = { slotOf s with stall := .reply d via old })))
  let Acts (i : Instr) (opc : BitVec 12) (z : BitVec (8 * n)) (wr : Prop) : Prop :=
    ((slotOf s).stall = .home pa → AtHome i s opc z wr) ∧
    (¬asking → ea.toNat % n = 0 → checkAccess s ⟨3, opc, true, true, false, false⟩ ea as = .wait w → WaitsIn i s w) ∧
    (¬asking → ea.toNat % n = 0 → pa % n = 0 → checkAccess s ⟨3, opc, true, true, false, false⟩ ea as = .ok u ls →
      (copyPending u ls = true → WaitsIn i s u) ∧
      (copyPending u ls = false → home → AtHome i u opc z wr) ∧
      (copyPending u ls = false → home → trueHome u line ≠ myDie s →
        exec i s = .next (routeHome (setStall u (.home pa)) 32 ⟨.home, myDie s, line, .atom (slotKey s.curCell s.curSlot)⟩)) ∧
      (copyPending u ls = false → ¬home →
        (∀ a, atomicReady u sc ls = .ok v → lowestPoison v as ls = some a →
          TrapsHereFrom i s v 13 (a &&& ~~~31) (detail opc a)) ∧
        (atomicReady u sc ls = .ok v → lowestPoison v as ls = none →
          ∃ t, exec i s = .next t ∧ slotOf t = gResult still d old ∧ Done t z wr ∧
            (sc = .cell → myPhys s < 1024 → (l1Get t.coh (myPhys s) line).st = .m) ∧
            (sc = .clu ∨ sc = .die → (dirGet t.coh (myDie s) line).lvl = .m)) ∧
        (sc = .cell → getLines u true ls = .error w → WaitsIn i s w) ∧
        (sc = .clu ∨ sc = .die → acquireLines u (myDie u) (engineOf (myDie u)) true (linesOf ls) = .error w → WaitsIn i s w)))
  let off := ea.toNat % 2 ^ 48
  let c := ccOf s
  let px : BitVec (8 * n) := BitVec.ofNat (8 * n) (natOf ((List.range n).map (fun i => memGet c.spad (off + i))))
  let OnPad (i : Instr) (z : BitVec (8 * n) → BitVec (8 * n)) (wr : Prop) : Prop :=
    ∃ c', GivesCc i s (gResult still d (if sign then px.signExtend 64 else px.setWidth 64)) c' ∧ { c' with spad := c.spad } = c ∧
      (∀ q, ¬(wr ∧ off ≤ q ∧ q < off + n) → memGet c'.spad q = memGet c.spad q) ∧
      (wr → ∀ i, i < n → memGet c'.spad (off + i) = (z px).extractLsb' (8 * i) 8)
  Acts (.amo sz sc sign op o d m) 0x120 (new x) True ∧
  Acts (.cas sz sc sign o d m) 0x122 ((readG s (d + 1)).setWidth (8 * n)) (x = y) ∧
  (¬asking → ea.toNat / 2 ^ 48 = 0xFE00 → off % n = 0 → off + n ≤ padSize c → c.scarve.toNat / 65536 % 256 = 0 → c.tiles = [] →
    c.padPoison = [] → OnPad (.amo sz sc sign op o d m) new True ∧
    OnPad (.cas sz sc sign o d m) (fun _ => (readG s (d + 1)).setWidth (8 * n)) (px = y)) ∧
  (¬asking → ea.toNat % n ≠ 0 → TrapsHere (.amo sz sc sign op o d m) s 6 ea 0x3120 ∧
    TrapsHere (.cas sz sc sign o d m) s 6 ea 0x3122)

/-- stx to a present cell and an offset that fits is handed to the relay as its sector pieces, numbered as one, by a lath when the
receiver is on another die; any other address raises ADDR. A piece lands once it is there and the earlier stxs of its slot to
its receiver have landed: it writes the undercoat bank of the receiver's context, resident or saved, up to the length of the
banks; with no such context it is discarded; either way it counts as landed, and a barrier of the sender that waited for nothing
else reports (R42, R257, R260, 10 R218, 20 R377). That an stx that crosses a sector goes out as one piece for each (log 37) and
PAGE2 of its ADDR (18 R345; log 29) are the model's reading. -/
def Claims.RelayedStores : Prop :=
  ∀ (s : State) (sz : Size) (d : GReg) (m : MemOp) (i : Nat) (x : StxMsg),
  let n := sizeBytes sz
  let ea := readG s m.a + readG s m.b + m.disp.signExtend 64
  let off := ea.toNat % 65536
  let dest := ea.toNat / 2 ^ 20 % 1024
  let ok : Prop := ea.toNat / 2 ^ 48 = 0xFE01 ∧ ea.toNat / 2 ^ 30 % 2 ^ 18 = 0 ∧ ea.toNat / 65536 % 16 = 0 ∧ dest < cellCount s
  let blocked : Prop := ∃ e ∈ s.stxs.take i, e.cell = x.cell ∧ e.slot = x.slot ∧ e.dest = x.dest ∧ e.id ≠ x.id
  let live := (cellAt s x.cell).live
  (ok → off + n ≤ 65536 → ∃ t l, exec (.stx sz d m) s = .next t ∧ slotOf t = nextIp (slotOf s) ∧
    t.stxs = s.stxs ++ l ∧ t.stxNo = s.stxNo + 1 ∧
    l.flatMap (fun e => e.bytes) = (List.range n).map (fun j => (readG s d).extractLsb' (8 * j) 8) ∧
    (∀ e ∈ l, e.id = s.stxNo ∧ e.cell = s.curCell ∧ e.slot = s.curSlot ∧ e.dest = dest ∧ e.ctxid = (ccOf s).desc.ctxid ∧
      e.off / 32 = (e.off + e.bytes.length - 1) / 32 ∧ e.via.isSome = byLath s (myDie s) (dieOf (physOf s dest))) ∧
    (∀ e ∈ l.head?, e.off = off) ∧
    (∀ j (h : j + 1 < l.length), l[j + 1].off = l[j].off + l[j].bytes.length) ∧
    OtherSlots s t ∧ OnlyLaths s { t with slots := s.slots, stxs := s.stxs, stxNo := s.stxNo }) ∧
  (¬ok → TrapsHere (.stx sz d m) s 6 ea 0x8106) ∧
  (ok → 65536 < off + n → TrapsHere (.stx sz d m) s 6 (ea + BitVec.ofNat 64 (65536 - off)) (2 ^ 21 + 0x8106)) ∧
  (s.stxs[i]? = some x → arrived s x.via = false ∨ blocked → exec (.stxLanding i) s = .next s) ∧
  (s.stxs[i]? = some x → arrived s x.via = true → ¬blocked → ∃ t rs, exec (.stxLanding i) s = .next t ∧
    t.stxs = s.stxs.eraseIdx i ∧ t.reports = s.reports ++ rs ∧
    { t with stxs := s.stxs, cells := s.cells, images := s.images, reports := s.reports } = s ∧
    (∀ c, { cellAt t c with cc := ccAt s c } = cellAt s c ∧
      { ccAt t c with spad := (ccAt s c).spad, barriers := (ccAt s c).barriers } = ccAt s c ∧
      (c ≠ x.dest ∨ isResident s x.dest x.ctxid = false → (ccAt t c).spad = (ccAt s c).spad) ∧
      (c ≠ x.cell ∨ live = false → (ccAt t c).barriers = (ccAt s c).barriers)) ∧
    (ctxFind s x.dest x.ctxid = none ∨ isResident s x.dest x.ctxid = true → t.images = s.images) ∧
    (∀ c, ctxFind s x.dest x.ctxid = some c →
      let bank := if c.topcoat then bankBase c else bankBase c + bankLen c
      ∃ c', ctxFind t x.dest x.ctxid = some c' ∧ { c' with spad := c.spad, barriers := c.barriers } = c ∧
        (∀ p, memGet c'.spad p =
          if bank + x.off ≤ p ∧ p < bank + x.off + x.bytes.length ∧ p < bank + bankLen c then
            x.bytes.getD (p - bank - x.off) 0 else memGet c.spad p) ∧
        (isResident s x.dest x.ctxid = false → ∃ k y, s.images[k]? = some y ∧ isImageOf s x.dest x.ctxid y = true ∧
          t.images = s.images.set k { y with cc := c' })) ∧
    (live = false → rs = []) ∧
    (live = true → tabSorted (ccAt s x.cell).barriers = true →
      let e (b : Fin 256) := barrierOf (ccAt s x.cell) b
      let due (b : Fin 256) : Prop := (e b).count ≠ 0 ∧ (e b).arr = (e b).count ∧ (e b).reported = false ∧
        ∀ id ∈ (e b).stxs, ∀ m ∈ t.stxs, m.id ≠ id
      ∀ b, (due b → barrierOf (ccAt t x.cell) b = { e b with reported := true } ∧
          rs.filter (fun r => r.b = b) = (participants s (e b) (physOf s x.cell)).map (fun p =>
            ⟨logicalOf s p, physOf s x.cell, (ccAt s x.cell).desc.ctxid, b, (e b).gen + 1, (e b).swap⟩)) ∧
        (¬due b → barrierOf (ccAt t x.cell) b = e b ∧ rs.filter (fun r => r.b = b) = [])))

/-- cwb and cinv of lines that pass their checks, at every scope: every byte of the package still reads as before; a line that a
cache held dirty stands in memory itself afterwards and its copies are clean; cinv leaves the caches of its scope no copy of any
of the lines, but marks one that is pinned for the release of its pin. A walk, or a line that is locked or held back, makes the
instruction wait in RUN (R222, R261, R262, 20 R388). By the model's reading lines in the own-scratchpad window are skipped with
no range check, every cache's dirty copy is written at any scope, and .cell, .clu and .die empty the caches of the die
(log 25). -/
def Claims.CacheMaintenance : Prop :=
  ∀ (s u w : State) (sc : Scope) (n1 : Fin 128) (m : MemOp) (ls : List Loc),
  let ea := readG s m.a + readG s m.b + m.disp.signExtend 64
  let first := ea &&& ~~~127
  let bases := ((List.range (n1.val + 1)).map (fun i => first + BitVec.ofNat 64 (128 * i))).filter
    (fun a => a.toNat / 2 ^ 48 ≠ 0xFE00)
  let wide : Prop := sc = .pkg ∨ sc = .sys
  let busy : Prop := ∃ line ∈ linesOf ls, lineBusy u line = true
  let Done (t : State) : Prop := slotOf t = nextIp (slotOf s) ∧ SameBytes s t ∧ OtherSlots s t ∧
    OnlyMemory s { t with slots := s.slots } ∧
    ∀ line ∈ linesOf ls, ∀ d, dirtyDie u.coh line = some d →
      isDirty (dirGet t.coh d line).lvl = false ∧ ∀ a, a / 128 = line → memGet t.mem a = physByte s a
  let wb := checkAccess s ⟨7, 0x108, true, false, false, true⟩ first bases
  let inv := checkAccess s ⟨7, 0x10A, false, true, false, true⟩ first bases
  (wb = .wait w → WaitsIn (.cwb sc n1 m) s w) ∧ (inv = .wait w → WaitsIn (.cinv sc n1 m) s w) ∧
  (wb = .ok u ls → busy → WaitsIn (.cwb sc n1 m) s u) ∧ (inv = .ok u ls → busy → WaitsIn (.cinv sc n1 m) s u) ∧
  (wb = .ok u ls → ¬busy → ∃ t, exec (.cwb sc n1 m) s = .next t ∧ Done t ∧
    ∀ p line, (l1Get t.coh p line).st = .i ↔ (l1Get u.coh p line).st = .i) ∧
  (inv = .ok u ls → ¬busy → ∃ t, exec (.cinv sc n1 m) s = .next t ∧ Done t ∧
    ∀ line ∈ linesOf ls, line < 2 ^ 40 → ∀ d, d < 4 → wide ∨ d = myDie s →
      (isPinned u.coh d line = false → (dirGet t.coh d line).lvl = .i ∧ ((dirGet u.coh d line).lvl ≠ .i →
        ∀ p, p / 256 = d → (l1Get t.coh p line).st = .i ∧ (vicGet t.coh p line).st = .i)) ∧
      (isPinned u.coh d line = true → ∃ x ∈ t.coh.pins, x.die = d ∧ x.line = line ∧ x.drop = true))

/-- stx and its landing, cwb and cinv: RelayedStores and CacheMaintenance together. -/
def Obligations.RelayAndCaches : Prop := Claims.RelayedStores ∧ Claims.CacheMaintenance

/-! ## Barriers (12) -/

/-- bset: status 1 while ARR is not 0, else 2 on an invalid configuration, else 0 with MASK, SCOPE and COUNT written, GEN kept
and SWAP cleared (R254-R256). -/
def Claims.BarrierSetup : Prop := ∀ (s : State) (d a : GReg) (b : Fin 256),
  let w := readG s a
  let c := ccOf s
  let e := barrierOf c b
  let mask := w.toNat / 2 ^ 32
  let scope := w.toNat / 2 ^ 16 % 8
  let p := physOf s s.curCell
  let valid : Prop := w.toNat / 2 ^ 19 % 2 ^ 13 = 0 ∧ w.toNat % 2 ^ 16 ≠ 0 ∧
    (scope = 0 ∧ mask = 0 ∨ scope = 1 ∧ mask < 256 ∧ mask.testBit (p % 8) = true ∨
      scope = 2 ∧ mask.testBit (p / 8 % 32) = true)
  (e.arr ≠ 0 → Gives (.bset d a b) s (gResult (slotOf s) d 1)) ∧
  (e.arr = 0 → ¬valid → Gives (.bset d a b) s (gResult (slotOf s) d 2)) ∧
  (e.arr = 0 → valid → ∃ c', GivesCc (.bset d a b) s (gResult (slotOf s) d 0) c' ∧ { c' with barriers := c.barriers } = c ∧
    barrierOf c' b = { e with mask := BitVec.ofNat 32 mask, scope := BitVec.ofNat 3 scope, count := w.setWidth 16, swap := false } ∧
    ∀ b', b' ≠ b → barrierOf c' b' = barrierOf c b')

/-- barr, bsync and bxch count one arrival and take the token GEN + 1; barr goes on with it, the others wait for it, and bxch
asks for the swap; the last arrival of the cell reports to every participant at once when the stxs that its arrivals wait for have
landed, and else counts alone, the report following with the landing; an unset barrier raises ILLOP, and a share already complete
makes the slot wait to arrive (R257). That a report says whether a bxch is among its cell's arrivals is the model's reading of
the swap (13 R267; log 63). -/
def Claims.Arrivals : Prop := ∀ (s : State) (d : GReg) (b : Fin 256),
  let c := ccOf s
  let x := slotOf s
  let e := barrierOf c b
  let t := e.gen + 1
  let ids := pendingStxs s s.curCell s.curSlot
  let onGoing : Slot := { gResult x d (t.setWidth 64) with run := .run }
  let waits (r : SlotRun) : Slot := { x with run := r }
  let after (swap rep : Bool) : CtxCell :=
    let e' : Barrier := { e with arr := e.arr + 1, swap := swap, stxs := e.stxs ++ ids, reported := rep }
    { c with barriers := tabSet c.barriers b.val e' }
  let Reports (i : Instr) (y : Slot) (swap : Bool) : Prop := ∃ u, exec i s = .next u ∧ slotOf u = y ∧ ccOf u = after swap true ∧
    OtherSlots s u ∧ OtherCells s.curCell s u ∧ { u with slots := s.slots, cells := s.cells, reports := s.reports } = s ∧
    u.reports = s.reports ++ (participants s e (physOf s s.curCell)).map (fun p =>
      ⟨logicalOf s p, physOf s s.curCell, c.desc.ctxid, b, t, swap⟩)
  let last : Prop := e.arr + 1 = e.count ∧ e.reported = false ∧ ∀ i ∈ e.stxs ++ ids, ∀ m ∈ s.stxs, m.id ≠ i
  (e.count = 0 → TrapsHere (.barr d b) s 1 0 0x40144 ∧ TrapsHere (.bsync b) s 1 0 0x40148 ∧
    TrapsHere (.bxch b) s 1 0 0x4014A ∧ ∀ a, TrapsHere (.bwait a b) s 1 0 0x40146) ∧
  (e.count ≠ 0 → e.arr = e.count → Gives (.barr d b) s (waits (.wait (.arrive b (.barr d)))) ∧
    Gives (.bsync b) s (waits (.wait (.arrive b .bsync))) ∧ Gives (.bxch b) s (waits (.wait (.arrive b .bxch)))) ∧
  (e.count ≠ 0 → e.arr ≠ e.count → ¬last →
    GivesCc (.barr d b) s onGoing (after e.swap e.reported) ∧
    GivesCc (.bsync b) s (waits (.wait (.token b t false))) (after e.swap e.reported) ∧
    GivesCc (.bxch b) s (waits (.wait (.token b t true))) (after true e.reported)) ∧
  (e.count ≠ 0 → last → Reports (.barr d b) onGoing e.swap ∧ Reports (.bsync b) (waits (.wait (.token b t false))) e.swap ∧
    Reports (.bxch b) (waits (.wait (.token b t true))) true) ∧
  (e.count ≠ 0 → ∀ a, let w : BitVec 32 := (readG s a).setWidth 32
    ((e.gen - w).toNat < 2 ^ 31 → Gives (.bwait a b) s (nextIp x)) ∧
    (2 ^ 31 ≤ (e.gen - w).toNat → Gives (.bwait a b) s (waits (.wait (.bwait b w)))))

/-- Setting a barrier, arriving at it and waiting for it: BarrierSetup and Arrivals together. -/
def Obligations.BarrierArrivals : Prop := Claims.BarrierSetup ∧ Claims.Arrivals

/-- A report at a participant whose context is resident or saved there is kept while another is owed; the last one completes the
barrier: SWAP and ARR are cleared, GEN takes the token, the banks swap when a bxch is among the arrivals of this cell or of a
reporting one and there are banks, and every slot of a resident context whose wait is satisfied goes on; a report for a context
that the cell does not hold is dropped (R258, 10 R219). By the model's reading slots that wait to arrive are not released by the
completion and a report with a later token is kept (log 38), and any participant's bxch makes every participant swap (13 R267;
log 63). -/
def Obligations.BarrierCompletion : Prop := ∀ (s : State) (i : Nat) (r : ReportMsg), s.reports[i]? = some r →
  let here := isResident s r.dest r.ctxid
  (ctxFind s r.dest r.ctxid = none → exec (.barrierReport i) s = .next { s with reports := s.reports.eraseIdx i }) ∧
  ∀ c, ctxFind s r.dest r.ctxid = some c →
    let e := barrierOf c r.b
    let held := e.reports ++ [(r.source, r.token)]
    let swaps := if r.swap then e.swaps ++ [r.token] else e.swaps
    let all : Prop := e.count ≠ 0 ∧ ∀ p ∈ participants s e (physOf s r.dest), (p, e.gen + 1) ∈ held
    ∃ t c', exec (.barrierReport i) s = .next t ∧ t.reports = s.reports.eraseIdx i ∧ ctxFind t r.dest r.ctxid = some c' ∧
      OtherCells r.dest s t ∧ { cellAt t r.dest with cc := ccAt s r.dest } = cellAt s r.dest ∧
      (∀ c' k, c' ≠ r.dest → slotAt t c' k = slotAt s c' k) ∧
      { t with reports := s.reports, cells := s.cells, slots := s.slots, images := s.images } = s ∧
      (here = true → t.images = s.images) ∧
      (here = false → SameSlots s t ∧ cellAt t r.dest = cellAt s r.dest ∧ t.images.length = s.images.length ∧
        ∀ j : Nat, t.images[j]? = s.images[j]? ∨ ∃ y, s.images[j]? = some y ∧ isImageOf s r.dest r.ctxid y = true ∧
          t.images[j]? = some { y with cc := c' }) ∧
      { c' with barriers := c.barriers, topcoat := c.topcoat } = c ∧ (∀ b, b ≠ r.b → barrierOf c' b = barrierOf c b) ∧
      (¬all → SameSlots s t ∧ c'.topcoat = c.topcoat ∧ barrierOf c' r.b = { e with reports := held, swaps := swaps }) ∧
      (all → c'.topcoat = (if (e.swap = true ∨ e.gen + 1 ∈ swaps) ∧ 0 < bankLen c then !c.topcoat else c.topcoat) ∧
        (barrierOf c' r.b).arr = 0 ∧ (barrierOf c' r.b).gen = e.gen + 1 ∧ (barrierOf c' r.b).swap = false ∧
        (∀ p w, (p, w) ∈ (barrierOf c' r.b).reports ↔ (p, w) ∈ held ∧ w ≠ e.gen + 1) ∧
        (here = true → ∀ k, slotAt t r.dest k =
          (match (slotAt s r.dest k).run with
            | .wait (.bwait b' w) | .wait (.token b' w _) =>
              if b' = r.b ∧ (e.gen + 1 - w).toNat < 2 ^ 31 then { nextIp (slotAt s r.dest k) with run := .run }
              else slotAt s r.dest k
            | _ => slotAt s r.dest k)))

/-! ## Tasks and messages (07, 08) -/

/-- spawn and send copy eight registers into the release buffer, a seventeenth entry raises SENDFULL; send first checks its
descriptor: reserved bits raise ILLOP, channels 30 and 31 PRIV (R157, R189, R196). -/
def Claims.DeferredReleases : Prop := ∀ (s : State) (a b : GReg),
  let x := slotOf s
  let f : Frame := Vector.ofFn (fun i => readG s (a + Fin.ofNat 64 i.val))
  let d := readG s b
  let chan : Fin 32 := Fin.ofNat 32 d.toNat
  let room := x.release.length < 16
  let ok : Prop := d.toNat < 2 ^ 27 ∧ chan.val < 30
  (room → Gives (.spawn a) s (nextIp { x with release := x.release ++ [.spawn f] })) ∧
  (¬room → TrapsHere (.spawn a) s 9 0 0x160) ∧
  (room → ok → Gives (.send a b) s
    (nextIp { x with release := x.release ++ [.send (BitVec.ofNat 22 (d.toNat / 32)) chan f] })) ∧
  (¬room → ok → TrapsHere (.send a b) s 9 0 0x162) ∧
  (2 ^ 27 ≤ d.toNat → TrapsHere (.send a b) s 1 0 0x40162) ∧
  (d.toNat < 2 ^ 27 → 30 ≤ chan.val → TrapsHere (.send a b) s 2 0 0x162)

/-- arm writes the counter and the continuation of its block, whose line it has got, and, at zero, defers a release; join defers
one decrement of its block, translated once; a block that is unaligned or in a window raises ADDR, a full list SENDFULL, a bad
count ILLOP; a walk or a line that must wait leaves the instruction to be performed again, in RUN (R157, R161, R193, R194, R196,
20 R388). That arm gets its line for all of its bytes at once is the model's choice (log 9). -/
def Claims.JoinBlocks : Prop := ∀ (s u v w : State) (a b d : GReg) (pa : Nat) (f : TrapInfo),
  let x := slotOf s
  let blk := readG s a
  let n := (readG s d).toInt
  let aligned : Prop := blk.toNat < 2 ^ 55 ∧ blk.toNat % 128 = 0
  let arm := checkAccess s ⟨4, 0x164, false, true, false, false⟩ blk [blk]
  let join := checkAccess s ⟨4, 0x166, true, true, false, false⟩ blk [blk]
  let free : Prop := x.joins.length < 16
  let block : List Loc := (List.range 4).map (fun i => .mem (pa + i)) ++ (List.range 64).map (fun i => .mem (pa + 64 + i))
  (¬aligned → TrapsHere (.arm d a b) s 6 blk 0x4164 ∧ TrapsHere (.join a) s 6 blk 0x4166) ∧
  (aligned → (arm = .wait w → WaitsIn (.arm d a b) s w) ∧ (join = .wait w → WaitsIn (.join a) s w) ∧
    (arm = .trap u f → TrapsFrom (.arm d a b) s u f.cause x.ip f.va f.info) ∧
    (join = .trap u f → TrapsFrom (.join a) s u f.cause x.ip f.va f.info)) ∧
  (aligned → join = .ok u [.mem pa] → OnlyMemory s u ∧ SameBytes s u ∧
    (free → GivesFrom (.join a) s u (nextIp { x with joins := x.joins ++ [⟨false, pa, blk⟩] })) ∧
    (¬free → TrapsHereFrom (.join a) s u 9 0 0x1166)) ∧
  (aligned → arm = .ok u [.mem pa] → OnlyMemory s u ∧ SameBytes s u ∧
    (n < 0 ∨ 2 ^ 31 ≤ n → TrapsHereFrom (.arm d a b) s u 1 0 0x40164) ∧
    (n = 0 → ¬free → TrapsHereFrom (.arm d a b) s u 9 0 0x1164) ∧
    (0 ≤ n → n < 2 ^ 31 → n ≠ 0 ∨ free → getLines u true block = .error w → WaitsIn (.arm d a b) s w) ∧
    (0 ≤ n → n < 2 ^ 31 → n ≠ 0 ∨ free → getLines u true block = .ok v →
      ∃ t, exec (.arm d a b) s = .next t ∧
        slotOf t = nextIp (if n = 0 then { x with joins := x.joins ++ [⟨true, pa, blk⟩] } else x) ∧
        (∀ i, i < 4 → physByte t (pa + i) = (readG s d).extractLsb' (8 * i) 8) ∧
        (∀ i, i < 64 → physByte t (pa + 64 + i) = (readG s (b + Fin.ofNat 64 (i / 8))).extractLsb' (8 * (i % 8)) 8) ∧
        (∀ q, ¬(pa ≤ q ∧ q < pa + 4) → ¬(pa + 64 ≤ q ∧ q < pa + 128) → physByte t q = physByte s q) ∧
        OtherSlots s t ∧ (∀ c, cellAt t c = cellAt s c) ∧
        OnlyMemory s { t with slots := s.slots, cells := s.cells, place := s.place }))

/-- spawn, send, arm and join: DeferredReleases and JoinBlocks together. -/
def Obligations.DeferredEffects : Prop := Claims.DeferredReleases ∧ Claims.JoinBlocks

/-- end: PRIV above level 0; HODFULL when the free frames are fewer than the entries; else the activation ends: its spawns go
to the bottom of the hod in order, with KIND 0 and the next frame numbers, and a send goes to the outbound port with KIND 1
and its SCOPE raised, by a lath when its cell, or the port link by which it leaves for another package, is on another die; a spawn
whose spill must wait for a line of the ring leaves the slot in COMMIT with it (R13, R116, R156, R158, R159, R166, R191, R344, 20
R377). An end while another slot of the cell commits waits in RUN: the model's reading (log 46). -/
def Claims.EndCommits : Prop := ∀ (s w : State) (fs : List Frame) (flat : BitVec 22) (ch : Fin 32) (f : Frame),
  let x := slotOf s
  let cell := cellAt s s.curCell
  let c := cell.cc
  let entries := x.release.length + x.joins.length
  let head (f : Frame) (kind scope : Nat) (i : Nat) : Frame :=
    f.set 0 (headerAt f[0] kind scope (c.frameCtr + BitVec.ofNat 22 i).toNat)
  let scope (f : Frame) : Nat := min 4 (f[0].toNat / 2 ^ 22 % 8)
  let quiet : Prop := x.level = 0 ∧ cell.committing = none ∧ cell.preempt = none ∧ x.joins = []
  let Ends (cell' : Cell) : Prop := ∃ t, exec .endAct s = .next t ∧ slotOf t = freed x ∧ OtherSlots s t ∧
    cellAt t s.curCell = cell' ∧ OtherCells s.curCell s t ∧ OnlyLaths s { t with slots := s.slots, cells := s.cells }
  (x.level ≠ 0 → TrapsHere .endAct s 2 0 0x0EA) ∧
  (x.level = 0 → cell.committing ≠ none → WaitsIn .endAct s s) ∧
  (x.level = 0 → cell.committing = none → freeFrames c < entries →
    TrapsHere .endAct s 0x0A 0 (freeFrames c * 2 ^ 32 + entries * 2 ^ 16)) ∧
  (quiet → x.release = [] → Ends cell) ∧
  (quiet → fs ≠ [] → x.release = fs.map .spawn → c.hod.length + fs.length ≤ 64 →
    Ends { cell with cc := withWork { c with
      hod := c.hod ++ fs.zipIdx.map (fun e => head e.1 0 (scope e.1) e.2)
      frameCtr := c.frameCtr + BitVec.ofNat 22 fs.length } }) ∧
  (quiet → x.release = [.send flat ch f] → 1 ≤ freeFrames c → cell.port.length < 64 →
    let wide := max (scope f) (scopeCode (spanScope s (s.plat.pkg.toNat * 1024 + s.curCell) flat.toNat))
    let die := if flat.toNat / 1024 = s.plat.pkg.toNat then dieOf (physOf s (flat.toNat % 1024))
      else ((exitDie s (Fin.ofNat 4 (myDie s))).map (fun p => p.val)).getD (myDie s)
    Ends { cell with
      port := cell.port ++ [⟨flat, ch, c.desc.ctxid, head f 1 wide 0, .queued, 32, nextTransit s (myDie s) die⟩]
      cc := { c with frameCtr := c.frameCtr + 1 } }) ∧
  (quiet → x.release = [.spawn f] → c.hod.length = 64 → c.ringCount < ringCap c →
    ringLines s s.curCell true c.ringCount (min 32 (ringCap c - c.ringCount)) = .error w →
    ∃ t, exec .endAct s = .next t ∧ slotOf t = { x with run := .commit } ∧
      cellAt t s.curCell = { cell with committing := some s.curSlot } ∧ OtherSlots s t ∧ OtherCells s.curCell s t ∧
      { t with slots := w.slots, cells := w.cells } = w ∧ OnlyMemory s w) ∧
  (∀ (h : Word) (k sc q : Nat), k < 16 → sc < 8 → q < 2 ^ 22 →
    let h' := (headerAt h k sc q).toNat
    h' / 2 ^ 28 % 16 = k ∧ h' / 2 ^ 25 % 2 = 0 ∧ h' / 2 ^ 22 % 8 = sc ∧ h' % 2 ^ 22 = q ∧
      h' / 2 ^ 32 = h.toNat / 2 ^ 32 ∧ h' / 2 ^ 26 % 4 = h.toNat / 2 ^ 26 % 4)

/-- A join committed, by end or by a commit that goes on, decrements its block's counter in memory at the home of its line; at one it
also releases the continuation onto the hod with KIND 2; at zero or below it posts JOINZ and changes nothing; a counter or a
continuation that reads as poison posts JOINUE instead; every other byte of the package reads as before (R160, R163, R417). A home on
another die sends what the cell is to hear by a lath (20 R377). While the home, the answer or the line of the continuation must be
waited for, the slot stays in COMMIT with the join and no other slot of the cell commits: the model's reading (log 62); a slot's own
copy-out of the counter still to come is waited for by the model's choice (log 74). -/
def Claims.JoinCommits : Prop := ∀ (s v w : State) (e : JoinEntry) (i : Instr) (g : GReg) (via : Transit) (z : Word),
  let x := slotOf s
  let cell := cellAt s s.curCell
  let c := cell.cc
  let line := e.pa / 128
  let n := (BitVec.ofNat 32 (physNat s e.pa 4)).toInt
  let bad : Bool := (List.range 4).any (fun k => sectorBad v ((e.pa + k) / 32))
  let code : Nat := if bad then 6 else if n ≤ 0 then 1 else if n = 1 then 2 else 0
  let counted := setStall (homeDone (if code = 2 ∨ code = 0 then memWrite v e.pa (bytesOf (n - 1).toNat 4) else v) line) .none
  let far := trueHome v line
  let Waits (u : State) (y : Slot) : Prop := ∃ t, exec i s = .next t ∧ slotOf t = { y with run := .commit } ∧
    cellAt t s.curCell = { cell with committing := some s.curSlot } ∧ OtherSlots s t ∧ OtherCells s.curCell s t ∧
    { t with slots := u.slots, cells := u.cells } = u
  let Ends (u : State) (c' : CtxCell) : Prop := ∃ t, exec i s = .next t ∧ slotOf t = freed x ∧ ccOf t = c' ∧
    { cellAt t s.curCell with cc := c } = { cell with committing := none } ∧ OtherSlots s t ∧ OtherCells s.curCell s t ∧ { t with slots := u.slots, cells := u.cells } = u
  let Heard (u : State) (k : Nat) : Prop :=
    (k = 0 → Ends u c) ∧ (k = 1 ∨ k = 6 → Ends u (ccEvent c k e.va)) ∧
    (k = 2 → cellLine u s.curCell false e.pa = .error w → Waits w { slotOf w with joins := [{ e with releaseOnly := true }] }) ∧
    (k = 2 → cellLine u s.curCell false e.pa = .ok w →
      let f := physFrame w (myDie s) (e.pa + 64)
      let f' := f.set 0 (headerAt f[0] 2 (min 4 (f[0].toNat / 2 ^ 22 % 8)) c.frameCtr.toNat)
      (frameBad w (myDie s) (e.pa + 64) = true → Ends w (ccEvent c 6 e.va)) ∧
      (frameBad w (myDie s) (e.pa + 64) = false → Ends w (withWork { c with hod := c.hod ++ [f'], frameCtr := c.frameCtr + 1 })))
  (i = .endAct ∧ x.level = 0 ∧ cell.committing = none ∨ i = .sendHandoff s.curCell s.curSlot ∧ x.run = .commit) →
  cell.preempt = none → x.release = [] → x.joins = [e] → c.hod.length < 64 →
    (e.releaseOnly = true → Heard s 2) ∧
    (e.releaseOnly = false → x.stall = .reply g via z →
      (arrived s via = false → Waits s x) ∧ (arrived s via = true → Heard (setStall s .none) z.toNat)) ∧
    (e.releaseOnly = false → (∀ g via z, x.stall ≠ .reply g via z) →
      (copyPending s ((List.range 4).map (fun k => .mem (e.pa + k))) = true → Waits s x) ∧
      (copyPending s ((List.range 4).map (fun k => .mem (e.pa + k))) = false →
        (homeReady s e.pa = .error w → Waits w (slotOf w) ∧ OnlyMemory s { w with slots := s.slots }) ∧
        (homeReady s e.pa = .ok v →
          (byLath counted far (myDie s) = false → Heard counted code) ∧
          (byLath counted far (myDie s) = true → Waits (sendMessage counted far (myDie s))
            { x with stall := .reply 0 (nextTransit counted far (myDie s)) (BitVec.ofNat 64 code) }) ∧
          OnlyMemory s { counted with slots := s.slots } ∧
          (∀ q, q < e.pa ∨ e.pa + 4 ≤ q → physByte counted q = physByte s q) ∧
          physNat counted e.pa 4 = (if code = 2 ∨ code = 0 then (n - 1).toNat else physNat s e.pa 4))))

/-- end and what it commits: EndCommits and JoinCommits together. -/
def Obligations.Commits : Prop := Claims.EndCommits ∧ Claims.JoinCommits

/-- chset writes a handler-table entry but for its bits 31 to 4; chmsk returns the MASK bits of the channels, channel 30 as 0,
and rewrites those of the others alone (R197, R198). -/
def Claims.HandlerTable : Prop := ∀ (s : State) (a d : GReg) (ch : Fin 32) (op : ChmskOp),
  let c := ccOf s
  let w := readG s a
  let set : Chan := { c.chans[ch] with entry := w &&& 0xFFFFFFFF0000000F }
  GivesCc (.chset a ch) s (nextIp (slotOf s)) { c with chans := c.chans.set ch set } ∧
  ∃ (old : Word) (c' : CtxCell), GivesCc (.chmsk d a op) s (gResult (slotOf s) d old) c' ∧ { c' with chans := c.chans } = c ∧
    (∀ i, 32 ≤ i → old.getLsbD i = false) ∧
    ∀ k : Fin 32, old.getLsbD k.val = (k.val != 30 && c.chans[k].entry.getLsbD 2) ∧
      { c'.chans[k] with entry := c.chans[k].entry } = c.chans[k] ∧
      (∀ i, i ≠ 2 → c'.chans[k].entry.getLsbD i = c.chans[k].entry.getLsbD i) ∧
      c'.chans[k].entry.getLsbD 2 =
        (let was := c.chans[k].entry.getLsbD 2
        let bit := w.getLsbD k.val
        if k.val = 30 then was
        else match op with
          | .wr => bit
          | .set => was || bit
          | .clr => was && !bit)

/-! ## Traps and system instructions (18, 20) -/

/-- An event of channel 31 is queued behind the others with the count of those dropped before it; with eight queued it is
dropped and counted (R173). -/
def Claims.EventPosting : Prop := ∀ (c : CtxCell) (code : Nat) (w : Word),
  let q := c.chans[31].queue
  let f : Frame := #v[0x10000000, 0, BitVec.ofNat 64 code, w, c.dropped, 0, 0, 0]
  (q.length < 8 → (ccEvent c code w).chans[31].queue = q ++ [f] ∧ (ccEvent c code w).dropped = 0 ∧
    (∀ k : Fin 32, k ≠ 31 → (ccEvent c code w).chans[k] = c.chans[k]) ∧ (ccEvent c code w).hod = c.hod) ∧
  (8 ≤ q.length → c.dropped ≠ BitVec.allOnes 64 → ccEvent c code w = { c with dropped := c.dropped + 1 }) ∧
  (8 ≤ q.length → c.dropped = BitVec.allOnes 64 → ccEvent c code w = c)

/-- chset, chmsk and events on channel 31: HandlerTable and EventPosting together. -/
def Obligations.ChannelEntries : Prop := Claims.HandlerTable ∧ Claims.EventPosting

/-- trap raises SWTRAP with IP + 1 in tip and its code in tinfo.LOW; tret takes IP from the bank of its level, lowers the
level by one and changes nothing else, and at level 0 raises PRIV (R338, R347, R348). That a trap at level 2 puts the IP of the
trap instruction itself into KILL is the model's choice (log 24). -/
def Obligations.TrapAndReturn : Prop := ∀ (s : State) (code : BitVec 16),
  let x := slotOf s
  Traps (.trap code) s 0x0F (x.ip + 1) 0 (code.setWidth 64) ∧
  (x.level = 0 → TrapsHere .tret s 2 0 0x182) ∧
  (x.level = 1 → Gives .tret s { x with ip := (x.tip[0]).setWidth 32, level := 0 }) ∧
  (x.level = 2 → Gives .tret s { x with ip := (x.tip[1]).setWidth 32, level := 1 })

/-- A trap at level 0 or 1 saves cause, IP, address and detail in the banks of the level it enters, starts that level's limit,
goes to the handler entry, and keeps all else, deferred effects included; at level 2 it frees the slot, drops the frame, masks
the channel of a message but of no other frame, and posts KILL, and it writes no bank; a pending pre-emption of the context then
closes the cell, unless the dispatcher of the die is being swapped (R182, R338, R341, R342, R355, R365, 23 R408). That KILL names the slot's IP whatever the return IP is the model's choice
(log 24). -/
def Claims.TrapEntry : Prop := ∀ (s : State) (cause : Nat) (tip : InstrIx) (va info : Word),
  let x := slotOf s
  let c := ccOf s
  let cell := cellAt s s.curCell
  let t := takeTrap s cause tip va info
  let seq := x.sframe.toNat % 2 ^ 22
  let detail : Word := BitVec.ofNat 64 (x.ip.toNat * 2 ^ 32 + s.curSlot.val * 2 ^ 30 + cause * 2 ^ 22 + seq)
  (x.level = 0 → slotOf t = enter1 s cause tip va info ∧ OnlySlot s t) ∧
  (x.level = 1 → slotOf t = enter2 s cause tip va info ∧ OnlySlot s t) ∧
  let closes : Prop := cell.live = true ∧ cell.preempt = some c.desc.ctxid ∧
    dispatcherUp s (Fin.ofNat 4 (myDie s)) = true
  let message : Prop := x.sframe.toNat / 2 ^ 28 % 16 = 1
  (x.level = 2 → slotOf t = freed x ∧ OtherSlots s t ∧ OtherCells s.curCell s t ∧ { t with slots := s.slots, cells := s.cells } = s ∧
    { cellAt t s.curCell with cc := c, closed := cell.closed } = cell ∧
    (closes → (cellAt t s.curCell).closed = true) ∧ (¬closes → (cellAt t s.curCell).closed = cell.closed) ∧
    (x.source = .hod → ccOf t = countKill (ccEvent c 5 detail)) ∧
    (∀ ch, x.source = .channel ch → ¬message → ccOf t = countKill (ccEvent c 5 detail)) ∧
    (∀ ch, x.source = .channel ch → message →
      let masked : Chan := { c.chans[ch] with entry := c.chans[ch].entry ||| 4 }
      ccOf t = countKill (ccEvent { c with chans := c.chans.set ch masked } 5 detail)))

/-- tabort frees the slot and discards its deferred effects and its PEND; a message goes back to the head of its channel poisoned
and the channel is masked, another frame, such as a launch root's, is dropped; ABORTED is posted; a pending pre-emption of the
context then closes the cell, unless the dispatcher of the die is being swapped; at level 0 it raises PRIV (R182, R354, R365, 23
R408). -/
def Claims.Abort : Prop := ∀ (s : State),
  let x := slotOf s
  let c := ccOf s
  let seq : Word := BitVec.ofNat 64 (x.sframe.toNat % 2 ^ 22)
  (x.level = 0 → TrapsHere .tabort s 2 0 0x186) ∧
  let cell := cellAt s s.curCell
  let closes : Prop := cell.live = true ∧ cell.preempt = some c.desc.ctxid ∧
    dispatcherUp s (Fin.ofNat 4 (myDie s)) = true
  let message : Prop := x.sframe.toNat / 2 ^ 28 % 16 = 1
  (x.level ≠ 0 → ∃ t, exec .tabort s = .next t ∧
    slotOf t = freed x ∧ OtherSlots s t ∧ OtherCells s.curCell s t ∧ { t with slots := s.slots, cells := s.cells } = s ∧
    { cellAt t s.curCell with cc := c, closed := cell.closed } = cell ∧
    (closes → (cellAt t s.curCell).closed = true) ∧ (¬closes → (cellAt t s.curCell).closed = cell.closed) ∧
    (x.source = .hod → ccOf t = countAbort (ccEvent c 4 seq)) ∧
    (∀ ch, x.source = .channel ch → ¬message → ccOf t = countAbort (ccEvent c 4 seq)) ∧
    (∀ ch, x.source = .channel ch → message →
      let f := x.frame.set 0 (x.sframe ||| 0x2000000)
      let back : Chan := { c.chans[ch] with entry := c.chans[ch].entry ||| 4, queue := f :: c.chans[ch].queue }
      ccOf t = countAbort (ccEvent { c with chans := c.chans.set ch back } 4 seq)))

/-- Taking a trap, being killed, and tabort: TrapEntry and Abort together. -/
def Obligations.TrapsAndAborts : Prop := Claims.TrapEntry ∧ Claims.Abort

/-- fpost post sets PEND and sends the post to the cluster router; fpost serve sends the wake to the four die roots, by a lath
where the die is another; both stall until they have been accepted; twait takes the outcome of its PEND, waits for it, or gives 2
where PEND is empty or holds another key (R349, R351, R352, 20 R377). -/
def Claims.PageFaultRequests : Prop := ∀ (s : State) (a b d : GReg) (k : AccessKind) (fail : Bool) (ok : Bool),
  let x := slotOf s
  let desc := (ccOf s).desc
  let w := readG s a
  let page : BitVec 39 := BitVec.ofNat 39 (w.toNat / 2 ^ 16)
  let p := physOf s s.curCell
  let mine (o : Option Bool) : Prop := ∃ kind, x.pend = some ⟨desc.ctxid, page, kind, o⟩
  (x.level = 0 → TrapsHere (.fpostPost a k) s 2 0 0x188 ∧ TrapsHere (.twait d a) s 2 0 0x184) ∧
  (x.level ≠ 0 → 2 ^ 55 ≤ w.toNat → TrapsHere (.fpostPost a k) s 6 w 0xA188) ∧
  (desc.sys = false → TrapsHere (.fpostServe a b fail) s 2 0 0x188) ∧
  (x.level ≠ 0 → w.toNat < 2 ^ 55 → ∃ t, exec (.fpostPost a k) s = .next t ∧
    slotOf t = { x with pend := some ⟨desc.ctxid, page, k, none⟩, stall := .fpost false } ∧ OtherSlots s t ∧
    { t with slots := s.slots, scrim := s.scrim } = s ∧ { t.scrim with posts := s.scrim.posts } = s.scrim ∧
    t.scrim.posts = s.scrim.posts ++ [⟨33 * (p / 256) + p / 8 % 32, .agent (.slot s.curCell s.curSlot), desc.ctxid, page, k,
      none, 32, desc.psvc⟩]) ∧
  (desc.sys = true → ∃ t, exec (.fpostServe a b fail) s = .next t ∧ slotOf t = { x with stall := .serve 4 } ∧
    OtherSlots s t ∧ OnlyLaths s { t with slots := s.slots, scrim := s.scrim } ∧
    { t.scrim with wakes := s.scrim.wakes } = s.scrim ∧
    t.scrim.wakes = s.scrim.wakes ++ ([0, 1, 2, 3] : List Nat).map (fun r =>
      ⟨33 * r + 32, (readG s b).setWidth 16, page, !fail, some (s.curCell, s.curSlot), nextTransit s (myDie s) r⟩)) ∧
  (x.level ≠ 0 → mine (some ok) →
    Gives (.twait d a) s (gResult { x with run := .run, pend := none } d (if ok then 0 else 1))) ∧
  (x.level ≠ 0 → mine none → Gives (.twait d a) s { x with run := .wait (.twait d) }) ∧
  (x.level ≠ 0 → (∀ q, x.pend = some q → q.ctxid ≠ desc.ctxid ∨ q.page ≠ page) → Gives (.twait d a) s (gResult x d 2))

/-- tlbinv drops from every TLB the translations of its extent, and from every walker the intermediate entries of it, and no
other; it needs level 1 or 2 or a system context, and for all contexts a system context (R346, R353, 10 R211). -/
def Claims.TlbInvalidation : Prop := ∀ (s : State) (a : GReg) (e : TlbExtent),
  let desc := (ccOf s).desc
  let w := readG s a
  let drops (x : TlbEntry) : Bool := match e with
    | .page r => x.ctxid == desc.ctxid && x.va == (readG s r).toNat / 2 ^ x.size * 2 ^ x.size
    | .context => x.ctxid == desc.ctxid
    | .all => true
  let leaves (x : WalkEntry) : Bool := match e with
    | .page r => x.ctxid == desc.ctxid && x.top == (readG s r).toNat / (if x.level = 2 then 2 ^ 42 else 2 ^ 30)
    | .context => x.ctxid == desc.ctxid
    | .all => true
  let may : Prop := if e = .all then desc.sys = true else ¬UserMode s
  (¬may → TrapsHere (.tlbinv e) s 2 0 0x18A) ∧
  (may → (∀ r, e = .page r → (readG s r).toNat < 2 ^ 55) → ∃ t, exec (.tlbinv e) s = .next t ∧
    slotOf t = nextIp (slotOf s) ∧ OtherSlots s t ∧ { t with slots := s.slots, tlbs := s.tlbs } = s ∧
    t.tlbs.walkers = s.tlbs.walkers ∧ ∀ c, tabGet [] t.tlbs.l1 c = (tabGet [] s.tlbs.l1 c).filter (fun x => !drops x) ∧
      tabGet [] t.tlbs.l2 c = (tabGet [] s.tlbs.l2 c).filter (fun x => !drops x) ∧
      tabGet [] t.tlbs.walks c = (tabGet [] s.tlbs.walks c).filter (fun x => !leaves x)) ∧
  (¬UserMode s → 2 ^ 55 ≤ w.toNat → TrapsHere (.tlbinv (.page a)) s 6 w 0xA18A)

/-! ## Coherence requests in several steps (10, 20) -/

/-- A walk for an address that no TLB holds takes one of the 64 walkers of its die, or waits for one; it gets the lines of the table
entries it reads as an engine of the die does, and may have to wait for one with its walker; one that succeeds puts its translation
first in the cell's TLB of 64 and in its set of the cluster's 8-way TLB, and what it has read of the two upper levels at the die's
walkers, where what they hold stays; one that fails leaves them alone. It reads one entry of eight bytes a level, and gives the page of
64 KiB, of the group of 2 MiB or of 1 GiB with the R, W and X of its entry, or the level that fails (R208-R211, R367). The model's
choices: the newest translation stands first and the oldest of a set goes (log 19), the walk is one step (log 40), and one that meets
a poisoned entry fills nothing (log 59). -/
def Claims.PageWalks : Prop := ∀ (s u w : State) (c : Nat) (va : Word) (e : TlbEntry) (n : Nat),
  let d := (ccAt s c).desc
  let die := physOf s c / 256
  let k := physOf s c / 8
  let v := va.toNat
  let l1 := tabGet [] s.tlbs.l1 c
  let l2 := tabGet [] s.tlbs.l2 k
  let walks := tabGet [] s.tlbs.walks die
  let first (l : List TlbEntry) : List TlbEntry := e :: l.filter (fun x => x ≠ e)
  let set (x : TlbEntry) : Nat := Config.tlbSet x.va % 256
  let e1 := physNat s (d.root + 8 * (v / 2 ^ 42 % 2 ^ 13)) 8
  let a1 := e1 / 2 ^ 12 % 2 ^ 33 * 2 ^ 12
  let e2 := physNat s (a1 + 8 * (v / 2 ^ 30 % 2 ^ 12)) 8
  let a2 := e2 / 2 ^ 12 % 2 ^ 33 * 2 ^ 12
  let e3 := physNat s (a2 + 8 * (v / 2 ^ 16 % 2 ^ 14)) 8
  let e0 := physNat s (a2 + 8 * (32 * (v / 2 ^ 21 % 2 ^ 9))) 8
  let kind (x : Nat) : Nat := x / 2 % 4
  let named (x size : Nat) : Prop := x % 2 = 1 ∧ x / 2 ^ 45 = 0 ∧ x / 2 ^ 6 % 2 ^ 6 = 0 ∧ x / 2 ^ 12 % 2 ^ 33 * 2 ^ 12 % size = 0 ∧
    memExists s (x / 2 ^ 12 % 2 ^ 33 * 2 ^ 12) = true
  let upper : Prop := memExists s d.root = true ∧ named e1 (2 ^ 15) ∧ kind e1 = 0
  let middle : Prop := upper ∧ named e2 (2 ^ 17) ∧ kind e2 = 0
  let large : Prop := named e2 (2 ^ 30) ∧ kind e2 = 2
  let small : Prop := named e3 (2 ^ 16) ∧ kind e3 = 0
  let group : Prop := e3 % 2 = 1 ∧ kind e3 = 1 ∧ named e0 (2 ^ 21) ∧ kind e0 = 1
  let holds (l : List WalkEntry) (level top : Nat) : Prop := ∃ x ∈ l, x.ctxid = d.ctxid ∧ x.level = level ∧ x.top = top
  let got := acquireLines s die (2048 + die) false (walkLines s c d v)
  let me : Walker := ⟨die, d.ctxid, v / 2 ^ 16⟩
  let busy : Prop := me ∉ s.tlbs.walkers ∧ 64 ≤ (s.tlbs.walkers.filter (fun x => x.die = die)).length
  let op : Instr := .pageWalk c va
  let Gives (x bits : Nat) : Prop := ∃ y, walk s d.ctxid d.root v = .ok y ∧ y.ctxid = d.ctxid ∧ y.size = bits ∧
    y.va = v / 2 ^ bits * 2 ^ bits ∧ tlbPa y v = x / 2 ^ bits % 2 ^ (45 - bits) * 2 ^ bits + v % 2 ^ bits ∧
    y.r = x.testBit 3 ∧ y.w = x.testBit 4 ∧ y.x = x.testBit 5
  ((cellAt s c).live = false ∨ 2 ^ 55 ≤ v → exec op s = .next s) ∧
  ((cellAt s c).live = true → v < 2 ^ 55 →
    (tlbFind d.ctxid v l1 = some e → exec op s = .next s) ∧
    (tlbFind d.ctxid v l1 = none → tlbFind d.ctxid v l2 = some e →
      exec op s = .next { s with tlbs := { s.tlbs with l1 := tabSet s.tlbs.l1 c ((first l1).take 64) } }) ∧
    (tlbFind d.ctxid v l1 = none → tlbFind d.ctxid v l2 = none →
      (busy → exec op s = .next s) ∧
      (¬busy → got = .error w → OnlyMemory s w ∧ SameBytes s w ∧ w.tlbs = s.tlbs ∧ exec op s = .next { w with
        tlbs := { s.tlbs with walkers := if me ∈ s.tlbs.walkers then s.tlbs.walkers else s.tlbs.walkers ++ [me] } }) ∧
      (¬busy → got = .ok u → OnlyMemory s u ∧ SameBytes s u ∧ u.tlbs = s.tlbs ∧ ∃ t, exec op s = .next t ∧
        { t with tlbs := s.tlbs } = u ∧ t.tlbs.walkers = s.tlbs.walkers.filter (fun x => x ≠ me) ∧
        (dieWalk u die d.ctxid d.root v = .error n ∨ walkPoisoned u c d v = true →
          { t.tlbs with walkers := s.tlbs.walkers } = s.tlbs) ∧
        (dieWalk u die d.ctxid d.root v = .ok e → walkPoisoned u c d v = false →
          t.tlbs.l1 = tabSet s.tlbs.l1 c ((first l1).take 64) ∧ (∀ x, x ≠ k → tabGet [] t.tlbs.l2 x = tabGet [] s.tlbs.l2 x) ∧
          (∀ x, x ≠ die → tabGet [] t.tlbs.walks x = tabGet [] s.tlbs.walks x) ∧
          (let now := tabGet [] t.tlbs.l2 k
           now.filter (fun x => set x = set e) = ((first l2).filter (fun x => set x = set e)).take 8 ∧
           now.filter (fun x => set x ≠ set e) = (first l2).filter (fun x => set x ≠ set e)) ∧
          (holds walks 3 (v / 2 ^ 30) → tabGet [] t.tlbs.walks die = walks) ∧
          (u = s → ¬holds walks 3 (v / 2 ^ 30) → ¬holds walks 2 (v / 2 ^ 42) → upper →
            holds (tabGet [] t.tlbs.walks die) 2 (v / 2 ^ 42) ∧
            (middle → holds (tabGet [] t.tlbs.walks die) 3 (v / 2 ^ 30))))))) ∧
  (tlbFind d.ctxid v l1 = some e → translate s c d v = .ok e) ∧
  (tlbFind d.ctxid v l1 = none → tlbFind d.ctxid v l2 = none → ¬holds walks 3 (v / 2 ^ 30) → ¬holds walks 2 (v / 2 ^ 42) →
    translate s c d v = walk s d.ctxid d.root v) ∧
  (¬upper → walk s d.ctxid d.root v = .error 1) ∧
  (upper → large → Gives e2 30) ∧
  (upper → ¬large → ¬middle → walk s d.ctxid d.root v = .error 2) ∧
  (middle → small → Gives e3 16) ∧
  (middle → group → Gives e0 21) ∧
  (middle → ¬small → ¬group → walk s d.ctxid d.root v = .error 3)

/-- Fault posts and waits, tlbinv, page walks: PageFaultRequests, TlbInvalidation and PageWalks together. -/
def Obligations.Translation : Prop := Claims.PageFaultRequests ∧ Claims.TlbInvalidation ∧ Claims.PageWalks

/-! ## Traps and system instructions (18, 20) -/

/-- shand: ILLOP on reserved bits and PRIV outside a system context; the request goes to the owner that the table of the issuing
die names, by a lath when that is another die, and there, a status that comes back by a lath to another die: status 2 for a bad stack or die, 4 with a fenced die of the pair, 3
while busy, 1 for the present owner, tried in this order; else the hand-over starts and the slot stalls (R14, R370, R371, R377). -/
def Claims.HandRequest : Prop := ∀ (s : State) (d a : GReg) (k : Fin 12) (t : Fin 4),
  let q := readG s a
  let x := slotOf s
  let me := myDie s
  let o := (tableOf s me).owner[k]
  let pr : Fin 4 × Fin 4 := if k.val < 3 then (0, 1) else if k.val < 6 then (1, 3) else if k.val < 9 then (3, 2) else (2, 0)
  let wired : Prop := s.plat.stackBits.getLsbD k.val = true ∧ (t = pr.1 ∨ t = pr.2)
  let fence : Prop := s.dies.health[pr.1].reported = true ∨ s.dies.health[pr.2].reported = true
  let here : Prop := o.val = me ∨ x.stall = .there ∨ s.dies.health[o].reported = true
  let busy : Prop := (tableOf s o.val).busy.getLsbD k.val = true ∨ ∃ h ∈ s.dies.handovers, h.stack = k
  let asks : Prop := q.toNat = 256 * t.val + k.val
  let sys := (ccOf s).desc.sys = true
  let away : Bool := byLath s o.val me
  let gives (n : Word) : Prop :=
    (away = false → Gives (.shand d a) s (gResult { x with stall := .none } d n)) ∧
    (away = true → ∃ u, exec (.shand d a) s = .next u ∧ slotOf u = { x with stall := .reply d (nextTransit s o.val me) n } ∧
      OtherSlots s u ∧ OnlyLaths s { u with slots := s.slots })
  (¬sys → TrapsHere (.shand d a) s 2 0 0x18C) ∧
  (sys → 1024 ≤ q.toNat ∨ q.toNat / 16 % 16 ≠ 0 → TrapsHere (.shand d a) s 1 0 0x4018C) ∧
  (sys → q.toNat < 1024 → q.toNat / 16 % 16 = 0 → 12 ≤ q.toNat % 16 →
    Gives (.shand d a) s (gResult { x with stall := .none } d 2)) ∧
  (sys → asks → ¬here → exec (.shand d a) s =
    .next (setStall (sendMessage s me o.val) (.trip (nextTransit s me o.val)))) ∧
  (sys → asks → here → ¬wired → gives 2) ∧ (sys → asks → here → wired → fence → gives 4) ∧
  (sys → asks → here → wired → ¬fence → busy → gives 3) ∧
  (sys → asks → here → wired → ¬fence → ¬busy → o = t → gives 1) ∧
  (sys → asks → here → wired → ¬fence → ¬busy → o ≠ t → ∃ u, exec (.shand d a) s = .next u ∧
    slotOf u = { x with stall := .shand d } ∧ OtherSlots s u ∧ { u with slots := s.slots, dies := s.dies } = s ∧
    { u.dies with handovers := s.dies.handovers } = s.dies ∧
    u.dies.handovers = s.dies.handovers ++ [⟨k, o, t, 0, false, some (s.curCell, s.curSlot)⟩])

/-- The query form of shand, at every level of every context: owners, busy bits and fenced bits of the issuing die's table; at
reset the owners read 0xABF540 (R375). -/
def Claims.HandQuery : Prop := ∀ (s : State) (d : GReg),
  let t := tableOf s (physOf s s.curCell / 256)
  ∃ w : Word, Gives (.shandQuery d) s (gResult (slotOf s) d w) ∧
    (∀ k : Fin 12, w.toNat / 4 ^ k.val % 4 = t.owner[k].val) ∧ w.toNat / 2 ^ 24 % 2 ^ 8 = 0 ∧
    w.toNat / 2 ^ 32 % 2 ^ 12 = t.busy.toNat ∧ w.toNat / 2 ^ 44 = t.fenced.toNat ∧
    (s = State.reset → w = 0xABF540)

/-! ## Dies and laths (20) -/

/-- The seven stages of a hand-over, in order: freeze on every die, the queue empty, every entry of the stack evicted at its home,
the new owner in every table, the active port switched, the home directory empty, unfrozen with the waiter answered 0; before
stage 4 a fence of the new owner stops it with 4 and one of the old owner lets it wait; a forced one starts once the fence is
confirmed, makes the heir's port active and poisons what was granted, and ends its recall once no surviving die holds a line,
dirty lines that are good replacing the poison; the result goes to the slot by a lath (R366-R369, R372, R376, R377, R384, R385). The model's choices: the forced one takes seven
steps, the old owner's parts at once (log 48), the controllers' numbers (log 54), and a stage that cannot complete leaves the state
as it is (log 11). -/
def Claims.HandOverStages : Prop := ∀ (s : State) (k : Fin 12) (h : Handover) (c : Nat) (j : Fin 4) (g : GReg),
  let op : Instr := .handoverStage k
  let d := s.dies
  let D (t : State) : Prop := { t with dies := s.dies } = s
  let staged (x : Handover) : List Handover := [{ x with stage := h.stage + 1 }]
  let frozen (b : Bool) (t : State) : Prop := ∀ e : Fin 4, { t.dies.tables[e] with freeze := 0, busy := 0 } = { d.tables[e] with freeze := 0, busy := 0 } ∧
    ∀ i, i < 12 → (t.dies.tables[e].freeze.getLsbD i = if i = k.val then b else d.tables[e].freeze.getLsbD i) ∧
      (t.dies.tables[e].busy.getLsbD i = if i = k.val then b else d.tables[e].busy.getLsbD i)
  let owned (n : Fin 4) (t : State) : Prop := ∀ e : Fin 4, t.dies.tables[e] = { d.tables[e] with owner := d.tables[e].owner.set k n }
  let inK (n : Nat) : Prop := n / 2 ^ 29 = k.val
  let held : Prop := ∃ e ∈ s.coh.homes, inK e.1 ∧ e.2.st ≠ .i
  let swapping : Prop := ∃ n, (s.plat.controllers[6 + k.val]'(by omega)).state = .starting n
  let gone (n : Fin 4) : Prop := d.health[n].reported = true
  let quiet : Prop := s.coh.held = [] ∧ s.coh.wayWait = [] ∧ s.coh.conflicts = []
  let Empty (t : State) : Prop := { t with dies := s.dies, coh := s.coh } = s ∧ { t.coh with homes := s.coh.homes } = s.coh ∧
    t.coh.homes = s.coh.homes.filter (fun e => e.1 / 2 ^ 29 ≠ k.val) ∧ t.dies = { d with handovers := staged h }
  let dst := physOf s c / 256
  let busy : Prop := (∃ t ∈ s.coh.txns, t.req.site = .home ∧ inK t.req.line) ∨
    ∃ r ∈ s.coh.conflicts ++ s.coh.wayWait, r.site = .home ∧ inK r.line
  let counted (n : Nat) : Prop := ∃ e ∈ s.coh.homes, inK e.1 ∧ (e.2.st = .e ∨ e.2.st = .o ∨ e.2.st = .m) ∧ n / 32 = e.1 / 32
  let Ends (r : BitVec 3) : Prop := h.waiter = some (c, j) → (slotAt s c j).stall = .shand g → quiet → ∃ t, exec op s = .next t ∧
    { t with dies := s.dies, slots := s.slots } = s ∧ frozen false t ∧
    { t.dies with tables := d.tables } = { (sendMessage s h.old.val dst).dies with handovers := [] } ∧
    slotAt t c j = { slotAt s c j with stall := .reply g (nextTransit s h.old.val dst) (r.setWidth 64) } ∧ SlotsBut c j s t
  (d.handovers = [] → exec op s = .next s) ∧
  (d.handovers = [h] → h.stack = k → h.forced = false → h.stage < 4 →
    (gone h.old → exec op s = .next s) ∧ (gone h.new → ¬gone h.old → Ends 4)) ∧
  (d.handovers = [h] → h.stack = k → h.forced = false → 4 ≤ h.stage ∨ ¬gone h.old ∧ ¬gone h.new →
    (h.stage = 0 → ∃ t, exec op s = .next t ∧ D t ∧ frozen true t ∧ { t.dies with tables := d.tables } = { d with handovers := staged h }) ∧
    (h.stage = 1 → busy → exec op s = .next s) ∧
    (h.stage = 1 → ¬busy → exec op s = .next { s with dies := { d with handovers := staged h } }) ∧
    (h.stage = 2 → ¬held → exec op s = .next { s with dies := { d with handovers := staged h } }) ∧
    (h.stage = 2 → held → (∀ e ∈ s.coh.homes, inK e.1 → e.2.st ≠ .i → siteLocked s .home e.1 = true) → exec op s = .next s) ∧
    (h.stage = 2 → held → tabSorted s.coh.homes = true → (∀ e ∈ s.coh.homes, inK e.1 → e.2.st ≠ .i → e.2.present ≠ 0) →
      ∃ t, exec op s = .next t ∧ OnlyLaths s { t with coh := s.coh } ∧ t.dies.handovers = d.handovers ∧
      ∀ e ∈ s.coh.homes, inK e.1 → e.2.st ≠ .i → siteLocked s .home e.1 = false →
        (∃ x ∈ t.coh.txns, x.req = ⟨.home, trueHome s e.1, e.1, .evict⟩) ∧
        ∀ q, q < 4 → e.2.present.getLsbD q = true → ∃ m ∈ t.coh.probes, m.site = .home ∧ m.line = e.1 ∧ m.target = q ∧
          m.kind = .evict ∧ m.stamp = e.2.seq + 1) ∧
    (h.stage = 3 → ∃ t, exec op s = .next t ∧ D t ∧ owned h.new t ∧ { t.dies with tables := d.tables } = { d with handovers := staged h }) ∧
    (h.stage = 4 → swapping → exec op s = .next s) ∧
    (h.stage = 4 → ¬swapping → exec op s = .next { s with dies := { d with active := d.active.set k h.new, handovers := staged h } }) ∧
    (h.stage = 5 → ∃ t, exec op s = .next t ∧ Empty t) ∧
    (h.stage = 6 → ¬gone h.new → Ends 0)) ∧
  (d.handovers = [h] → h.stack = k → h.forced = true →
    (h.stage = 0 → gone h.old → d.health[h.old].confirmed = false → exec op s = .next s) ∧
    (h.stage = 0 → ¬gone h.old ∨ d.health[h.old].confirmed = true → ∃ t, exec op s = .next t ∧ D t ∧ frozen true t ∧
      { t.dies with tables := d.tables } = { d with handovers := staged h }) ∧
    (1 ≤ h.stage → gone h.new → gone h.old → exec op s = .next s) ∧
    (2 ≤ h.stage → ¬gone h.new → d.active[k] ≠ h.new → exec op s = .next { s with dies := { d with handovers := [{ h with stage := 1 }] } })) ∧
  (d.handovers = [h] → h.stack = k → h.forced = true → ¬gone h.new → h.stage = 1 ∨ d.active[k] = h.new →
    (h.stage = 1 → swapping → exec op s = .next s) ∧
    (h.stage = 1 → ¬swapping → exec op s = .next { s with dies := { d with
      active := d.active.set k h.new, handovers := staged { h with old := if (pairOf k).1 = h.new then (pairOf k).2 else (pairOf k).1 } } }) ∧
    (h.stage = 2 → s.images = [] → ∃ t, exec op s = .next t ∧ { t with dies := s.dies, poison := s.poison, coh := s.coh } = s ∧
      { t.coh with dirs := s.coh.dirs, homes := s.coh.homes } = s.coh ∧ t.dies = { d with handovers := staged h } ∧
      (∀ n, n ∈ t.poison ↔ n ∈ s.poison ∨ counted (n / 4)) ∧
      (∀ n, ¬inK n → homeGet t.coh n = homeGet s.coh n) ∧
      (∀ n, inK n → ∀ e : Fin 4,
        (homeGet t.coh n).present.getLsbD e.val = ((homeGet s.coh n).present.getLsbD e.val && !d.health[e].reported)) ∧
      ∀ x n, n < 2 ^ 40 → let y := dirGet s.coh x n
        ∃ b, dirGet t.coh x n = { y with good := b } ∧ (¬counted n ∨ y.lvl = .i → b = y.good) ∧
          (counted n → y.lvl ≠ .i → ∀ i, i < 4 → b.getLsbD i = (y.good.getLsbD i || !sectorBad s (4 * n + i)))) ∧
    (h.stage = 3 → (∃ e : Fin 4, ¬gone e ∧ ∃ n ∈ l2Lines s.coh e.val, inK n ∧ probeWaits s.coh n e.val = true) → ∃ t,
      exec op s = .next t ∧ t.dies = d) ∧
    (h.stage = 3 → (∀ e : Fin 4, ¬gone e → ∀ n ∈ l2Lines s.coh e.val, inK n → probeWaits s.coh n e.val = false) → ∃ t, exec op s = .next t ∧
      t.dies = { d with handovers := staged h } ∧
      (∀ e : Fin 4, ¬gone e → ∀ n, n < 2 ^ 40 → inK n → (dirGet t.coh e.val n).lvl = .i ∧
        (isDirty (dirGet s.coh e.val n).lvl = true →
          (∀ i, i < 4 → (dirGet s.coh e.val n).good.getLsbD i = true → 4 * n + i ∉ t.poison) ∧
          ∀ p, p / 128 = n → memGet t.mem p = physByte s p)) ∧
      (∀ y ∈ t.coh.homes, ¬inK y.1) ∧ ∀ p, inK (p / 128) → physByte t p = memGet t.mem p) ∧
    (h.stage = 4 → ∃ t, exec op s = .next t ∧ D t ∧ owned h.new t ∧ { t.dies with tables := d.tables } = { d with handovers := staged h }) ∧
    (h.stage = 5 → ∃ t, exec op s = .next t ∧ Empty t) ∧
    (h.stage = 6 → h.waiter = none → quiet → ∃ t, exec op s = .next t ∧ D t ∧ frozen false t ∧
      { t.dies with tables := d.tables } = { d with handovers := [] }))

/-- shand and the stages of a hand-over: HandRequest, HandQuery and HandOverStages together. -/
def Obligations.HandOvers : Prop := Claims.HandRequest ∧ Claims.HandQuery ∧ Claims.HandOverStages

/-! ## The place store (16) -/

/-- Dereferences of a handle that resolves, at a home on the die of the slot with no pool frozen: pld reads a word, pstw writes one,
pres gives region and owner, pdel raises the generation, frees the handle slot and leaves a tombstone, and pset inside its region
changes the coordinates alone; pset into another region starts a move, with the handle MOVING, the slot stalled and the owner
told. Where the owner of the record is another cell than the home, the home's part of a pdel, pld, pstw or pset is done at once and the
rest goes on to the owner, ahead of every other dereference of the handle. A home on another die, or one that must wait for its
memory, gets the dereference in its queue, with the message that brings it, and the slot stalls (R310, R313, R327-R330, 17 R336, 20
R367, R377). -/
def Claims.Dereferences : Prop :=
  ∀ (s : State) (d a b : GReg) (n : Fin 16) (sp : Space) (h : Handle) (owner rs : Nat) (x : Inst),
  let w := readG s a
  let y := slotOf s
  let home := w.toNat / 2 ^ 50 % 1024
  let ix := w.toNat / 2 ^ 20 % 2 ^ 30
  let die (c : Nat) := dieOf (physOf s c)
  let words (v : Vector Word 16) : Space := { sp with insts := tabSet sp.insts (placeKey owner rs) { x with words := v } }
  let p : Point := ⟨(readG s b).setWidth 32, (readG s b >>> 32).setWidth 32, (readG s (b + 1)).setWidth 32⟩
  let moved := (x.words.set 0 (readG s b)).set 1 ((x.words[1] &&& 0xFFFFFFFF00000000) ||| (readG s (b + 1) &&& 0xFFFFFFFF))
  let put (h' : Handle) : Tab Handle := tabSet sp.handles (placeKey home ix) h'
  let here : Prop := byLath s (myDie s) (die home) = false ∧ derefHeld s sp home ix = false
  let Queued (i : Instr) (op : Deref) (r : GReg) : Prop := ∃ t, exec i s = .next t ∧ OtherSlots s t ∧
    slotOf t = { y with stall := .place op r w none } ∧ OnlyLaths s { t with slots := s.slots, place := s.place } ∧
    t.place.moves = s.place.moves ∧ t.place.queries = s.place.queries ∧
    spaceOf t sp.ctxid sp.num = some { sp with handles := put { h with
      queue := [⟨s.curCell, s.curSlot, w.setWidth 20, op, nextTransit s (myDie s) (die home), none⟩] } }
  let Forwarded (i : Instr) (op : Deref) (r : GReg) (h' : Handle) : Prop := ∃ t, exec i s = .next t ∧ OtherSlots s t ∧
    slotOf t = { y with stall := .place op r w none } ∧ OnlyLaths s { t with slots := s.slots, place := s.place } ∧
    t.place.moves = s.place.moves ∧ t.place.queries = s.place.queries ∧
    spaceOf t sp.ctxid sp.num = some { sp with handles := put { h' with
      queue := [⟨s.curCell, s.curSlot, w.setWidth 20, op, nextTransit s (die home) (die owner), some (owner, rs)⟩] } }
  let freed' : Handle := { h with gen := if h.gen = BitVec.allOnes 20 then 1 else h.gen + 1, holds := none }
  Resolves s w sp h owner rs x →
    (¬here → Queued (.pres d a) .pres d ∧ Queued (.pdel a) .pdel 0 ∧ Queued (.pset d a b) (.pset p.x p.y p.z) d ∧
      (n.val < recWords sp → Queued (.pld d a n) (.pld n) d ∧ Queued (.pstw d a n) (.pstw n (readG s d)) d)) ∧
    (here → owner ≠ home → Forwarded (.pdel a) .pdel 0 freed' ∧
      (regionOf sp p = x.region → Forwarded (.pset d a b) (.pset p.x p.y p.z) d h) ∧
      (n.val < recWords sp → Forwarded (.pld d a n) (.pld n) d h ∧ Forwarded (.pstw d a n) (.pstw n (readG s d)) d h)) ∧
    (here → owner = home → n.val < recWords sp → Gives (.pld d a n) s (gResult y d x.words[n])) ∧
    (here → owner = home → n.val < recWords sp → GivesSpace (.pstw d a n) s (nextIp y) sp (words (x.words.set n (readG s d)))) ∧
    (here → Gives (.pres d a) s (gResult y d (BitVec.ofNat 64 (x.region * 2 ^ 32 + owner)))) ∧
    (here → owner = home → ∃ a' : Nat, max s.stime.toNat (tabGet 0 sp.h x.region + 1) = a' ∧
      GivesSpace (.pdel a) s (nextIp y) sp { sp with
        handles := put freed'
        insts := tabSet sp.insts (placeKey owner rs) { x with st := .tomb a' } }) ∧
    (here → owner = home → regionOf sp p = x.region → GivesSpace (.pset d a b) s (gResult y d 0) sp (words moved)) ∧
    (here → regionOf sp p ≠ x.region → ∃ t, exec (.pset d a b) s = .next t ∧ OtherSlots s t ∧
      slotOf t = { y with stall := .place (.pset p.x p.y p.z) d w none } ∧
      OnlyLaths s { t with slots := s.slots, place := s.place } ∧
      spaceOf t sp.ctxid sp.num = some { sp with handles := put { h with moving := true } } ∧
      t.place.queries = s.place.queries ∧
      t.place.moves = s.place.moves ++ [⟨sp.ctxid, sp.num, home, ix, owner, rs, ownerOf sp (regionOf sp p), regionOf sp p,
        p.x, p.y, p.z, .marked, s.curCell, s.curSlot, nextTransit s (die home) (die owner)⟩])

/-- PLACE: a space that is not defined, a handle out of range, a word beyond the record, and at the home, here one on the die of the
slot, a stale handle, which pres alone answers with 1<<63 (R325, R329, R330). That REASON 2 goes before REASON 3 is the model's
choice (log 66). -/
def Claims.PlaceTraps : Prop := ∀ (s : State) (d a b : GReg) (n : Fin 16) (sp : Space),
  let w := readG s a
  let num : Fin 16 := Fin.ofNat 16 (w.toNat / 2 ^ 60)
  let info (reason opc : Nat) : Nat := num.val * 2 ^ 24 + reason * 2 ^ 16 + opc
  let id := (ccOf s).desc.ctxid
  let home := w.toNat / 2 ^ 50 % 1024
  let ix := w.toNat / 2 ^ 20 % 2 ^ 30
  let h := handleSlot sp home ix
  let inRange : Prop := home < cellCount s ∧ ix < 2 ^ sp.pslots ∧ w.setWidth 20 ≠ 0
  let here : Prop := byLath s (myDie s) (dieOf (physOf s home)) = false ∧ derefHeld s sp home ix = false
  let all (reason : Nat) : Prop :=
    TrapsHere (.pdel a) s 0x10 w (info reason 0x1A2) ∧ TrapsHere (.pset d a b) s 0x10 w (info reason 0x1A4) ∧
    TrapsHere (.pld d a n) s 0x10 w (info reason 0x1A6) ∧ TrapsHere (.pstw d a n) s 0x10 w (info reason 0x1A8)
  (spaceOf s id num = none → all 1 ∧ TrapsHere (.pres d a) s 0x10 w (info 1 0x1B0)) ∧
  (spaceOf s id num = some sp → ¬inRange → all 2 ∧ TrapsHere (.pres d a) s 0x10 w (info 2 0x1B0)) ∧
  (spaceOf s id num = some sp → inRange → recWords sp ≤ n.val →
    TrapsHere (.pld d a n) s 0x10 w (info 3 0x1A6) ∧ TrapsHere (.pstw d a n) s 0x10 w (info 3 0x1A8)) ∧
  (spaceOf s id num = some sp → inRange → n.val < recWords sp → here → h.moving = false → h.queue = [] →
    h.gen ≠ w.setWidth 20 ∨ h.holds = none →
    all 0 ∧ Gives (.pres d a) s (gResult (slotOf s) d (1 <<< 63)))

/-- Dereferences of place handles and their traps: Dereferences and PlaceTraps together. -/
def Obligations.PlaceDereferences : Prop := Claims.Dereferences ∧ Claims.PlaceTraps

/-- pnew goes to the owner of the point's region, by a lath when that is on another die; there it takes the lowest-numbered free
handle slot and a free record slot and makes the record live; a full handle pool or a full record pool gives 0; the result comes back
by a lath from another die; a pool that is frozen makes it wait; pmap gives region and owner; a space that is not defined raises PLACE (R308, R309, R325, R326, R331, 17
R335, 20 R367, R377). That the record slot is the lowest-numbered free one too is R335's own step. -/
def Claims.RecordCreation : Prop := ∀ (s : State) (d a b : GReg) (num : Fin 16) (sp : Space) (n rs : Nat),
  let y := slotOf s
  let id := (ccOf s).desc.ctxid
  let w1 := readG s (a + 1)
  let p : Point := ⟨(readG s a).setWidth 32, (readG s a >>> 32).setWidth 32, w1.setWidth 32⟩
  let r := regionOf sp p
  let c := ownerOf sp r
  let die := dieOf (physOf s c)
  let h := handleSlot sp c n
  let words : Vector Word 16 := (((Vector.replicate 16 0).set 0 (readG s a)).set 1 (w1 &&& 0xFFFFFFFFFFFF)).set 2 (readG s b)
  let x : Inst := ⟨.live, max s.stime.toNat (tabGet 0 sp.h r + 1), r, words, c, n, h.gen⟩
  let there : Prop := die = myDie s ∨ y.stall = .there
  let still : Slot := { y with stall := .none }
  let gets (v : Word) : Slot := if byLath s die (myDie s) = true then { y with stall := .reply d (nextTransit s die (myDie s)) v }
    else gResult still d v
  let handleUsed (k : Nat) : Prop := (handleSlot sp c k).holds ≠ none
  let recordUsed (k : Nat) : Prop := tabFind sp.insts (placeKey c k) ≠ none
  (spaceOf s id num = none → TrapsHere (.pnew d a b num) s 0x10 0 (num.val * 2 ^ 24 + 2 ^ 16 + 0x1A0) ∧
    TrapsHere (.pmap d a num) s 0x10 0 (num.val * 2 ^ 24 + 2 ^ 16 + 0x1B2)) ∧
  (spaceOf s id num = some sp →
    Gives (.pmap d a num) s (gResult y d (BitVec.ofNat 64 (r * 2 ^ 32 + c))) ∧
    (¬there → exec (.pnew d a b num) s = .next (setStall (sendMessage s (myDie s) die) (.trip (nextTransit s (myDie s) die)))) ∧
    (there → poolHeld s sp c = true → exec (.pnew d a b num) s =
      .next (if y.stall = .there then s else putSlot s { y with stall := .again })) ∧
    (there → poolHeld s sp c = false → (∀ k, k < 2 ^ sp.pslots → handleUsed k) ∨ (∀ k, k < 2 ^ sp.pslots → recordUsed k) →
      ∃ t, exec (.pnew d a b num) s = .next t ∧ slotOf t = gets 0 ∧ OtherSlots s t ∧ OnlyLaths s { t with slots := s.slots }) ∧
    (there → poolHeld s sp c = false → n < 2 ^ sp.pslots → ¬handleUsed n → (∀ k, k < n → handleUsed k) →
      rs < 2 ^ sp.pslots → ¬recordUsed rs → (∀ k, k < rs → recordUsed k) →
      ∃ t, exec (.pnew d a b num) s = .next t ∧
        slotOf t = gets (BitVec.ofNat 64 (sp.num.val * 2 ^ 60 + c * 2 ^ 50 + n * 2 ^ 20 + h.gen.toNat)) ∧
        OtherSlots s t ∧ OnlyLaths s { t with slots := s.slots, place := s.place } ∧
        spaceOf t id num = some { sp with
          handles := tabSet sp.handles (placeKey c n) { h with holds := some (c, rs) }
          insts := tabSet sp.insts (placeKey c rs) x } ∧
        t.place.moves = s.place.moves ∧ t.place.queries = s.place.queries))

/-- pspc is privileged. A define waits for the lines of its descriptor and map, then answers the status of the first check that
fails: 1 for a space defined already, 2 for an unaligned descriptor, 4 for one not mapped, 2 for one not well formed, 4 for a map
not mapped, 2 for one not well formed, 4 for a pool of a named owner not mapped; else 0, and the space is added, empty, with every
handle at generation 1. A define that reads poison raises UE, in the descriptor at its lowest poisoned sector. A delete answers 3 for
a space not defined, waits in RUN while a dereference, a pnew or a move of it is in flight, and else drops it with all its records,
its queries in flight completing STALE (R310, R334, 18 R344, 07 R180). By the model's choice a poisoned entry of the page tables
gives the define UE too (log 59). -/
def Claims.SpaceControl : Prop :=
  ∀ (s u w : State) (d a : GReg) (num : Fin 16) (sp : Space) (pg mpg : List Nat) (c : CtxCell) (q : Query) (e : TrapInfo) (z : Nat),
  let y := slotOf s
  let id := (ccOf s).desc.ctxid
  let v := (readG s a).toNat
  let mine (q : Query) : Bool := q.ctxid = sp.ctxid && q.num = sp.num
  let pnews (x : Slot) : Prop := (∃ d a b, x.issued = .pnew d a b sp.num) ∧ (x.stall = .again ∨ x.stall = .there ∨ ∃ t, x.stall = .trip t)
  let busy : Prop := (∃ m ∈ s.place.moves, m.ctxid = sp.ctxid ∧ m.num = sp.num) ∨ (∃ e ∈ sp.handles, e.2.queue ≠ []) ∨
    ∃ e ∈ s.slots, pnews e.2 ∧ (ccAt s (e.1 / 4)).desc.ctxid = sp.ctxid
  let V := natOf (pagedBytes u pg v 64)
  let F (hi lo : Nat) : Nat := V / 2 ^ lo % 2 ^ (hi + 1 - lo)
  let descOk : Prop := F 511 224 = 0 ∧ F 191 168 = 0 ∧ F 159 157 = 0 ∧ F 151 146 = 0 ∧ F 143 140 = 0 ∧ F 145 144 ≤ 2 ∧
    4 ≤ F 156 152 ∧ F 156 152 ≤ 24 ∧ F 79 64 = 0 ∧ F 127 119 = 0 ∧ F 4 0 = 0 ∧ F 63 55 = 0
  let n := F 139 128 + 1
  let bytes := 2 ^ F 156 152 * (2 ^ (5 + F 145 144) + 16)
  let E (i : Nat) : Nat := natOf (pagedBytes u mpg (F 63 0) (32 * n)) / 2 ^ (256 * i) % 2 ^ 256
  let co (i k : Nat) : BitVec 32 := BitVec.ofNat 32 (E i / 2 ^ (32 * k))
  let owner (i : Nat) : Nat := E i / 2 ^ 192 % 1024
  let mapOk : Prop := (∀ i, i < n → E i / 2 ^ 202 = 0 ∧ owner i < cellCount u ∧ ∀ k, k < 3 → (co i k).toInt ≤ (co i (k + 3)).toInt) ∧
    ∀ k, k < 3 → co (n - 1) k = 0x80000000 ∧ co (n - 1) (k + 3) = 0x7FFFFFFF
  let poolsOk : Prop := ∀ i, i < n → agentPages u (F 127 64 + owner i * bytes) bytes ≠ none
  let Answers (k : Word) : Prop := GivesFrom (.pspcDefine d a num) s u (gResult y d k)
  let def_ : Prop := ¬UserMode s ∧ spaceOf s id num = none
  (UserMode s → TrapsHere (.pspcDefine d a num) s 2 0 0x1B4 ∧ TrapsHere (.pspcDelete d a num) s 2 0 0x1B4) ∧
  (¬UserMode s → (spaceOf s id num).isSome → Gives (.pspcDefine d a num) s (gResult y d 1)) ∧
  (def_ → v % 64 ≠ 0 → Gives (.pspcDefine d a num) s (gResult y d 2)) ∧
  (def_ → getDefine s v = .error w → WaitsIn (.pspcDefine d a num) s w) ∧
  (def_ → v % 64 = 0 → getDefine s v = .ok u → defineUe u v = some e →
    TrapsFrom (.pspcDefine d a num) s u e.cause (slotOf s).ip e.va e.info) ∧
  (def_ → v % 64 = 0 → getDefine s v = .ok u → poisonedWalk u s.curCell (ccOf s).desc [readG s a] = none → agentPages u v 64 = some pg →
    let bad (k : Nat) : Prop := readsBad u (myDie s) ((pg.getD 0 0 + v % 65536) / 32 + k) = true
    z < 2 → bad z → (z = 1 → ¬bad 0) →
    TrapsHereFrom (.pspcDefine d a num) s u 13 (BitVec.ofNat 64 (v + 32 * z)) 0x61B4) ∧
  (def_ → v % 64 = 0 → getDefine s v = .ok u → defineUe u v = none → OnlyMemory s u ∧ SameBytes s u ∧
    (agentPages u v 64 = none → Answers 4) ∧
    (agentPages u v 64 = some pg → ¬descOk → Answers 2) ∧
    (agentPages u v 64 = some pg → descOk → agentPages u (F 63 0) (32 * n) = none → Answers 4) ∧
    (agentPages u v 64 = some pg → descOk → agentPages u (F 63 0) (32 * n) = some mpg →
      (¬mapOk → Answers 2) ∧ (mapOk → ¬poolsOk → Answers 4) ∧
      (mapOk → poolsOk → ∃ t pools, exec (.pspcDefine d a num) s = .next t ∧ slotOf t = gResult y d 0 ∧ OtherSlots s t ∧
        { t with slots := s.slots, place := s.place } = { u with slots := s.slots } ∧
        t.place = { s.place with spaces := s.place.spaces ++ [⟨id, num, F 223 192, BitVec.ofNat 8 (F 167 160), F 156 152,
          BitVec.ofNat 2 (F 145 144), (List.range n).map (fun i =>
            ⟨#v[co i 0, co i 1, co i 2], #v[co i 3, co i 4, co i 5], owner i⟩), [], [], [], [], pools⟩] }))) ∧
  (∀ c k, handleSlot { sp with handles := [] } c k = ⟨1, none, false, []⟩) ∧
  (¬UserMode s → spaceOf s id num = none → Gives (.pspcDelete d a num) s (gResult y d 3)) ∧
  (¬UserMode s → spaceOf s id num = some sp → busy → WaitsIn (.pspcDelete d a num) s s) ∧
  (¬UserMode s → spaceOf s id num = some sp → ¬busy →
    ∃ t, exec (.pspcDelete d a num) s = .next t ∧ slotOf t = gResult y d 0 ∧ OtherSlots s t ∧
      { t with slots := s.slots, cells := s.cells, images := s.images, place := s.place } = s ∧
      t.place.moves = s.place.moves ∧ t.place.queries = s.place.queries.filter (fun q => !mine q) ∧ spaceOf t id num = none ∧
      (∀ id' n', (id', n') ≠ (id, num) → spaceOf t id' n' = spaceOf s id' n') ∧
      ((∀ q ∈ s.place.queries, mine q = false) → t.cells = s.cells ∧ t.images = s.images) ∧
      (q ∈ s.place.queries → mine q = true → ctxFind s q.cell q.ctxid = some c → c.queries < q.ticket + 8 →
        ∃ c', ctxFind t q.cell q.ctxid = some c' ∧ (⟨q.ticket, 2, 0⟩ : QueryResult) ∈ c'.results))

/-- Spaces, new records, tombstones and the map: RecordCreation and SpaceControl together. -/
def Obligations.PlaceSpaces : Prop := Claims.RecordCreation ∧ Claims.SpaceControl

/-- pqbox and pqrad check space, buffer word and then every byte of the buffer against the scratchpad, the exchange banks and the
tiles of engines, wait in RUN while eight queries of the cell are in flight, and take the next ticket and a query stamped with the
time base, sent to the owners of the regions it reaches, by laths where they are on other dies; a query that reaches none is
complete at once; pqwait gives the result of a completed query, waits for one in flight, and raises PLACE for a ticket never
issued or retired (R315, R323, R325, R332, R333, 20 R377). The order of the checks when several fail is the model's choice (log
66), and PAGE2 of the ADDR its reading (18 R345; log 29). -/
def Claims.Queries : Prop := ∀ (s : State) (d a b : GReg) (num : Fin 16) (sp : Space) (r : QueryResult),
  let y := slotOf s
  let c := ccOf s
  let buf := readG s b
  let w (i : Fin 64) : Word := readG s (a + i)
  let lo (v : Word) : BitVec 32 := v.setWidth 32
  let hi (v : Word) : BitVec 32 := (v >>> 32).setWidth 32
  let box : QueryShape := .box #v[lo (w 0), hi (w 0), lo (w 1)] #v[hi (w 1), lo (w 2), hi (w 2)]
  let ball : QueryShape := .sphere #v[lo (w 0), hi (w 0), lo (w 1)] (hi (w 1))
  let off := buf.toNat % 2 ^ 20
  let cap := buf.toNat / 2 ^ 32 % 2 ^ 16
  let wordOk : Prop := buf.toNat / 2 ^ 48 = 0 ∧ buf.toNat / 2 ^ 20 % 2 ^ 12 = 0 ∧ buf.toNat % 32 = 0
  let bad (o : Nat) : Prop := padSize c ≤ o ∨ (bankBase c ≤ o ∧ o < bankBase c + 2 * bankLen c) ∨
    tabFind c.tiles (o / 4096) ≠ none
  let room : Prop := ∀ j, j < 32 + 32 * cap → ¬bad (off + j)
  let t := c.queries + 1
  let Issues (i : Instr) (q : QueryShape) : Prop := ∃ u l, exec i s = .next u ∧
    slotOf u = gResult y d (BitVec.ofNat 64 t) ∧ OtherSlots s u ∧
    OnlyLaths s { u with slots := s.slots, cells := s.cells, place := s.place } ∧ OtherCells s.curCell s u ∧
    ccOf u = { c with queries := t } ∧ u.place.spaces = s.place.spaces ∧ u.place.moves = s.place.moves ∧
    l.map (fun e => e.1) = queryOwners sp q ∧
    (∀ e ∈ l, e.2.isSome = byLath s (myDie s) (dieOf (physOf s e.1))) ∧
    u.place.queries = s.place.queries ++ [⟨s.curCell, c.desc.ctxid, sp.num, t, s.stime.toNat, q, off, cap, l, [], [], [], false⟩]
  let Ends (i : Instr) : Prop := ∃ u, exec i s = .next u ∧ slotOf u = gResult y d (BitVec.ofNat 64 t) ∧ OtherSlots s u ∧
    { u with slots := s.slots, cells := s.cells } = s ∧ OtherCells s.curCell s u ∧ (ccOf u).queries = t ∧
    (⟨t, 0, 0⟩ : QueryResult) ∈ (ccOf u).results
  let found := spaceOf s c.desc.ctxid num
  let ticket := (readG s a).toNat
  (found = none → TrapsHere (.pqbox d a b num) s 0x10 0 (num.val * 2 ^ 24 + 2 ^ 16 + 0x1AA) ∧
    TrapsHere (.pqrad d a b num) s 0x10 0 (num.val * 2 ^ 24 + 2 ^ 16 + 0x1AC)) ∧
  (found = some sp → ¬wordOk → TrapsHere (.pqbox d a b num) s 1 0 0x401AA ∧ TrapsHere (.pqrad d a b num) s 1 0 0x401AC) ∧
  (found = some sp → wordOk → ∀ j, j < 32 + 32 * cap → bad (off + j) → (∀ k, k < j → ¬bad (off + k)) →
    let at_ : Word := BitVec.ofNat 64 (0xFE00 * 2 ^ 48 + (off + j))
    let page2 := if off / 65536 < (off + j) / 65536 then 2 ^ 21 else 0
    TrapsHere (.pqbox d a b num) s 6 at_ (page2 + 0x61AA) ∧ TrapsHere (.pqrad d a b num) s 6 at_ (page2 + 0x61AC)) ∧
  (found = some sp → wordOk → room → 8 ≤ s.place.queries.countP (fun q => q.cell = s.curCell) →
    WaitsIn (.pqbox d a b num) s s ∧ WaitsIn (.pqrad d a b num) s s) ∧
  (found = some sp → wordOk → room → s.place.queries.countP (fun q => q.cell = s.curCell) < 8 →
    (queryOwners sp box ≠ [] → Issues (.pqbox d a b num) box) ∧ (queryOwners sp ball ≠ [] → Issues (.pqrad d a b num) ball) ∧
    ((cellAt s s.curCell).live = true → (queryOwners sp box = [] → Ends (.pqbox d a b num)) ∧
      (queryOwners sp ball = [] → Ends (.pqrad d a b num)))) ∧
  (ticket = 0 ∨ c.queries < ticket → TrapsHere (.pqwait d a) s 0x10 (readG s a) 0x401AE) ∧
  (ticket ≠ 0 → ticket + 8 ≤ c.queries → TrapsHere (.pqwait d a) s 0x10 (readG s a) 0x501AE) ∧
  (ticket ≠ 0 → ticket ≤ c.queries → c.queries < ticket + 8 →
    (c.results.find? (fun e => e.ticket = ticket) = some r → Gives (.pqwait d a) s
      (gResult y d (BitVec.ofNat 64 (r.status.toNat * 2 ^ 32 + min r.count 0xFFFFFFFF)))) ∧
    (c.results.find? (fun e => e.ticket = ticket) = none →
      Gives (.pqwait d a) s { y with run := .wait (.pqwait d ticket) }))

/-- An owner that a query has reached in time raises the stamps of the regions it reaches and answers with the records that count; a
late one answers STALE; the last answer completes the query, in a resident or a saved context: a header of COUNT, STATUS, q and 0,
then the first CAP records found in order of region, handle SLOT and handle HOME, STATUS TRUNC when there are more, and nothing
else of the buffer changed (R311, R312, R315, R318, 20 R367, R377). That a step which is not due leaves the state as it is is the
model's choice (log 11). -/
def Claims.QueryService : Prop := ∀ (s : State) (i owner : Nat) (q : Query) (sp : Space) (c : CtxCell),
  s.place.queries[i]? = some q →
  let die (c : Nat) := dieOf (physOf s c)
  let served : Query := { q with
    toServe := q.toServe.filter (fun e => e.1 ≠ owner)
    toAnswer := q.toAnswer ++ [(owner, nextTransit s (die owner) (die q.cell))] }
  let asked : Prop := ∃ v, (owner, v) ∈ q.toServe ∧ arrived s v = true
  let answered : Prop := (∃ v, (owner, v) ∈ q.toAnswer ∧ arrived s v = true) ∧ ∀ e ∈ q.deferred, e.1 ≠ owner
  let rest := q.toAnswer.filter (fun e => e.1 ≠ owner)
  (¬asked → exec (.queryRequest i owner) s = .next s) ∧ (¬answered → exec (.queryAnswer i owner) s = .next s) ∧
  (spaceOf s q.ctxid q.num = some sp →
    (poolHeld s sp owner = true → exec (.queryRequest i owner) s = .next s) ∧
    (asked → poolHeld s sp owner = false → q.q + windowNs sp < s.stime.toNat → ∃ t, exec (.queryRequest i owner) s = .next t ∧
      OnlyLaths s { t with place := s.place } ∧
      t.place = { s.place with queries := s.place.queries.set i { served with stale := true } }) ∧
    (asked → poolHeld s sp owner = false → s.stime.toNat ≤ q.q + windowNs sp → ∃ t q' sp',
      exec (.queryRequest i owner) s = .next t ∧ OnlyLaths s { t with place := s.place } ∧
      t.place.queries = s.place.queries.set i q' ∧ spaceOf t q.ctxid q.num = some sp' ∧ { sp' with h := sp.h } = sp ∧
      (∀ r e, sp.regions[r]? = some e → tabGet 0 sp'.h r =
        if e.owner = owner ∧ reaches q.shape e = true then max (tabGet 0 sp.h r) q.q else tabGet 0 sp.h r) ∧
      { q' with found := q.found, deferred := q.deferred } = served ∧
      (∀ f ∈ q'.found, f ∈ q.found ∨ ∃ e ∈ sp.insts, f = foundOf sp e.2 ∧ e.1 / 2 ^ 24 = owner ∧ counts e.2 q.q = true ∧
        passes q.shape (instPoint e.2) = true) ∧
      (∀ e ∈ sp.insts, ∀ r, e.1 / 2 ^ 24 = owner → counts e.2 q.q = true → passes q.shape (instPoint e.2) = true →
        sp.regions[e.2.region]? = some r → r.owner = owner → reaches q.shape r = true → e.2.st ≠ .departing →
        foundOf sp e.2 ∈ q'.found))) ∧
  (answered → rest ≠ [] ∨ q.toServe ≠ [] → exec (.queryAnswer i owner) s =
    .next { s with place := { s.place with queries := s.place.queries.set i { q with toAnswer := rest } } }) ∧
  (answered → rest = [] → q.toServe = [] → ctxFind s q.cell q.ctxid = some c →
    let n := if q.stale then 0 else q.found.length
    let st := if q.stale then 2 else if q.cap < q.found.length then 1 else 0
    let k := min q.cap n
    let entry (f : Found) : List Byte := bytesOf f.handle.toNat 8 ++ bytesOf f.words[0].toNat 8 ++
      bytesOf (f.words[1].toNat % 2 ^ 32) 4 ++ bytesOf (f.words[1].toNat / 2 ^ 32 % 2 ^ 16) 4 ++ bytesOf f.words[2].toNat 8
    let before (a b : Found) : Prop := a.region < b.region ∨ a.region = b.region ∧
      (a.hslot < b.hslot ∨ a.hslot = b.hslot ∧ a.home ≤ b.home)
    q.off + 32 + 32 * k ≤ padSize c →
    ∃ (t : State) (c' : CtxCell) (l : List Found), exec (.queryAnswer i owner) s = .next t ∧ t.place = { s.place with queries := s.place.queries.eraseIdx i } ∧
      { t with cells := s.cells, images := s.images, place := s.place } = s ∧ OtherCells q.cell s t ∧
      (isResident s q.cell q.ctxid = true → t.images = s.images) ∧
      ctxFind t q.cell q.ctxid = some c' ∧ { c' with spad := c.spad, padPoison := c.padPoison, results := c.results } = c ∧
      l.Perm q.found ∧ l.Pairwise before ∧
      (∀ j, j < 32 → memGet c'.spad (q.off + j) =
        (bytesOf n 8 ++ bytesOf st 8 ++ bytesOf q.q 8 ++ bytesOf 0 8).getD j 0) ∧
      (∀ e f, e < k → l[e]? = some f → ∀ j, j < 32 → memGet c'.spad (q.off + 32 + 32 * e + j) = (entry f).getD j 0) ∧
      (∀ o, o < q.off ∨ q.off + 32 + 32 * k ≤ o → memGet c'.spad o = memGet c.spad o) ∧
      (⟨q.ticket, BitVec.ofNat 32 st, n⟩ : QueryResult) ∈ c'.results)

/-- Queries of the place store: Queries and QueryService together. -/
def Obligations.PlaceQueries : Prop := Claims.Queries ∧ Claims.QueryService

/-- The move of a record, each step taken once the message of the one before is there: departure, arrival in a free record slot with
a stamp above every query served there, acknowledgement with a tombstone of that stamp, and the home's update that answers 1;
with no free slot the destination refuses, the record lives on unchanged and the answer is 2; the answer goes by a lath to another
die (R311, R313, R314, 20 R367, R377).
That a step which is not due leaves the state as it is is the model's choice (log 11). -/
def Claims.RecordMoves : Prop := ∀ (s : State) (i : Nat) (m : Move) (sp : Space) (x : Inst) (ns a' : Nat),
  s.place.moves[i]? = some m → spaceOf s m.ctxid m.num = some sp →
  let src := placeKey m.source m.sslot
  let a := max s.stime.toNat (tabGet 0 sp.h m.region + 1)
  let h := handleSlot sp m.home m.hslot
  let onlyPlace (t : State) : Prop := OnlyLaths s { t with place := s.place }
  let die (c : Nat) := dieOf (physOf s c)
  let staged (t : State) (g : MoveStage) (from_ to_ : Nat) : Prop :=
    t.place.moves[i]? = some { m with stage := g, via := nextTransit s (die from_) (die to_) }
  let now (t : State) : Option Space := spaceOf t m.ctxid m.num
  let changed (y : Inst) : Space := { sp with insts := tabSet sp.insts src y }
  let words := (x.words.set 0 (m.y ++ m.x : BitVec 64)).set 1 ((x.words[1] &&& 0xFFFFFFFF00000000) ||| m.z.setWidth 64)
  (arrived s m.via = false → exec (.moveDeparture i) s = .next s ∧ exec (.moveArrival i) s = .next s ∧
    exec (.moveAck i) s = .next s ∧ exec (.moveRefuse i) s = .next s ∧ exec (.moveHomeUpdate i) s = .next s) ∧
  (poolHeld s sp m.dest = true → exec (.moveArrival i) s = .next s) ∧
  (arrived s m.via = true → tabFind sp.insts src = some x →
    (m.stage = .marked → ∃ t, exec (.moveDeparture i) s = .next t ∧ onlyPlace t ∧ staged t .departed m.source m.dest ∧
      now t = some (changed { x with st := .departing })) ∧
    (m.stage = .departed → poolHeld s sp m.dest = false → freeRecord sp m.dest = some ns → ∃ t,
      exec (.moveArrival i) s = .next t ∧ onlyPlace t ∧ staged t (.arrived a ns) m.dest m.source ∧ now t = some { sp with
        insts := tabSet sp.insts (placeKey m.dest ns) { x with st := .live, a := a, region := m.region, words := words } }) ∧
    (m.stage = .departed → poolHeld s sp m.dest = false → freeRecord sp m.dest = none → ∃ t,
      exec (.moveArrival i) s = .next t ∧ onlyPlace t ∧ staged t .refused m.dest m.source ∧ now t = some sp) ∧
    (m.stage = .arrived a' ns → ∃ t, exec (.moveAck i) s = .next t ∧ onlyPlace t ∧ staged t (.acked a' ns) m.source m.home ∧
      now t = some (changed { x with st := .tomb a' })) ∧
    (m.stage = .refused → ∃ t, exec (.moveRefuse i) s = .next t ∧ onlyPlace t ∧ staged t .returned m.source m.home ∧
      now t = some (changed { x with st := .live }))) ∧
  (arrived s m.via = true → ∀ op d w o, (slotAt s m.cell m.slot).stall = .place op d w o →
    let back := nextTransit s (die m.home) (die m.cell)
    let answer (v : Word) : Slot := { slotAt s m.cell m.slot with stall := .place op d w (some (.done v, back)) }
    let answered (t : State) (v : Word) : Prop := slotAt t m.cell m.slot = answer v ∧ SlotsBut m.cell m.slot s t ∧
      onlyPlace { t with slots := s.slots } ∧ t.place.moves = s.place.moves.eraseIdx i
    (m.stage = .acked a' ns → ∃ t, exec (.moveHomeUpdate i) s = .next t ∧ answered t 1 ∧
      ∀ sp', now t = some sp' → handleSlot sp' m.home m.hslot = { h with moving := false, holds := some (m.dest, ns) }) ∧
    (m.stage = .returned → ∃ t, exec (.moveHomeUpdate i) s = .next t ∧ answered t 2 ∧
      ∀ sp', now t = some sp' → handleSlot sp' m.home m.hslot = { h with moving := false }))

/-- The dereference of a handle that is next is performed unless the record moves or its memory is held, and its slot gets the answer,
by a lath on another die: one that the home has sent on to the owner goes before every other, at the owner; else the first that has
come, at the home, which sends it on where the owner is another cell. A tombstone's record slot is freed once the time base has
passed its stamp by the window (R310, R314, 17 R336, 20 R367, R377). That a step which is not due leaves the state as it is is the
model's choice (log 11). -/
def Claims.HomeOrder : Prop := ∀ (s : State) (j home ix : Nat) (sp : Space) (q : QueuedDeref)
    (owner rs a' : Nat) (x : Inst) (n : Fin 16) (d : GReg) (w : Word),
  s.place.spaces[j]? = some sp → spaceOf s sp.ctxid sp.num = some sp →
  let h := handleSlot sp home ix
  let die (c : Nat) := dieOf (physOf s c)
  let sent : Prop := h.queue.find? (fun e => e.fwd.isSome) = some q
  let none' : Prop := ∀ e ∈ h.queue, e.fwd = none
  let first : Prop := none' ∧ h.queue.find? (fun e => arrived s e.via) = some q
  let waits (op : Deref) : Prop := (slotAt s q.cell q.slot).stall = .place op d w none
  let left : Handle := { h with queue := h.queue.erase q }
  let put (h' : Handle) (l : Tab Inst) : Space := { sp with handles := tabSet sp.handles (placeKey home ix) h', insts := l }
  let Answered (from_ : Nat) (op : Deref) (l : Tab Inst) (a : DerefAnswer) : Prop := ∃ t,
    exec (.derefAtHome j home ix) s = .next t ∧ SlotsBut q.cell q.slot s t ∧
    OnlyLaths s { t with slots := s.slots, place := s.place } ∧ t.place.moves = s.place.moves ∧
    spaceOf t sp.ctxid sp.num = some (put left l) ∧ slotAt t q.cell q.slot = { slotAt s q.cell q.slot with
      stall := .place op d w (some (a, nextTransit s (die from_) (die q.cell))) }
  (h.moving = true ∨ (∀ e ∈ h.queue, arrived s e.via = false) ∨ (none' ∧ derefHeld s sp home ix = true) ∨
    (sent ∧ (arrived s q.via = false ∨ q.fwd = some (owner, rs) ∧ poolHeld s sp owner = true)) →
    exec (.derefAtHome j home ix) s = .next s) ∧
  (first → h.moving = false → derefHeld s sp home ix = false → h.holds = some (owner, rs) →
    tabFind sp.insts (placeKey owner rs) = some x → q.op = .pld n → waits (.pld n) →
    (h.gen ≠ q.gen → Answered home (.pld n) sp.insts .stale) ∧
    (h.gen = q.gen → owner = home → Answered home (.pld n) sp.insts (.done x.words[n])) ∧
    (h.gen = q.gen → owner ≠ home → ∃ t, exec (.derefAtHome j home ix) s = .next t ∧ OnlyLaths s { t with place := s.place } ∧
      t.place.moves = s.place.moves ∧ spaceOf t sp.ctxid sp.num = some (put { h with queue :=
        { q with via := nextTransit s (die home) (die owner), fwd := some (owner, rs) } :: h.queue.erase q } sp.insts))) ∧
  (sent → q.fwd = some (owner, rs) → arrived s q.via = true → h.moving = false → poolHeld s sp owner = false →
    tabFind sp.insts (placeKey owner rs) = some x →
    (q.op = .pld n → waits (.pld n) → Answered owner (.pld n) sp.insts (.done x.words[n])) ∧
    (q.op = .pdel → waits .pdel → Answered owner .pdel (tabSet sp.insts (placeKey owner rs)
      { x with st := .tomb (max s.stime.toNat (tabGet 0 sp.h x.region + 1)) }) (.done 0))) ∧
  (tabFind sp.insts (placeKey owner rs) = some x → x.st = .tomb a' → a' + windowNs sp < s.stime.toNat →
    ∃ t, exec (.tombstoneFree j owner rs) s = .next t ∧ { t with place := s.place } = s ∧
      spaceOf t sp.ctxid sp.num = some { sp with insts := tabErase sp.insts (placeKey owner rs) }) ∧
  (tabFind sp.insts (placeKey owner rs) = some x → x.st = .tomb a' → s.stime.toNat ≤ a' + windowNs sp →
    exec (.tombstoneFree j owner rs) s = .next s)

/-- Moves of records and the order at a home: RecordMoves and HomeOrder together. -/
def Obligations.PlaceMoves : Prop := Claims.RecordMoves ∧ Claims.HomeOrder

/-! ## Engines (14) -/

/-- tgive hands a range of the cell's tiles to an engine when every tile is inside the scratchpad, outside the banks and owned by
no engine, and raises ADDR at the lowest tile that fails; ttake completes once the cell owns the range and else waits
(R277, R278). PAGE2 in tinfo of these ADDRs is the model's reading (18 R345; log 29). -/
def Obligations.TileHandOver : Prop := ∀ (s : State) (a : GReg) (n1 : Fin 256) (e : Engine) (f : Nat),
  let c := ccOf s
  let t0 := (readG s a).toNat
  let n := n1.val + 1
  let count := c.scarve.toNat % 16 * 32
  let bad (t : Nat) : Prop := tileInBanks c t = true ∨ (tabFind c.tiles t).isSome = true
  let at_ (t : Nat) : Word := BitVec.ofNat 64 (0xFE00 * 2 ^ 48 + 4096 * t)
  let later (t : Nat) : Nat := if (at_ t0).toNat / 2 ^ 16 < (at_ t).toNat / 2 ^ 16 then 2 ^ 21 else 0
  (t0 + n ≤ count → (∀ t, t0 ≤ t → t < t0 + n → ¬bad t) → ∃ c', GivesCc (.tgive a n1 e) s (nextIp (slotOf s)) c' ∧
    { c' with tiles := c.tiles } = c ∧
    ∀ t, tabFind c'.tiles t = if t0 ≤ t ∧ t < t0 + n then some e else tabFind c.tiles t) ∧
  (count < t0 + n → TrapsHere (.tgive a n1 e) s 6 (at_ (max t0 count)) (later (max t0 count) + 0x61C6) ∧
    TrapsHere (.ttake a n1) s 6 (at_ (max t0 count)) (later (max t0 count) + 0x61C8)) ∧
  (t0 + n ≤ count → t0 ≤ f → f < t0 + n → tileInBanks c f = true → (∀ t, t0 ≤ t → t < f → tileInBanks c t = false) →
    TrapsHere (.tgive a n1 e) s 6 (at_ f) (later f + 0x61C6)) ∧
  (t0 + n ≤ count → (∀ t, t0 ≤ t → t < t0 + n → tileInBanks c t = false) → t0 ≤ f → f < t0 + n →
    (tabFind c.tiles f).isSome = true → (∀ t, t0 ≤ t → t < f → tabFind c.tiles t = none) →
    TrapsHere (.tgive a n1 e) s 6 (at_ f) (later f + 0x61C6)) ∧
  (t0 + n ≤ count → (∀ t, t0 ≤ t → t < t0 + n → tabFind c.tiles t = none) →
    Gives (.ttake a n1) s (nextIp (slotOf s))) ∧
  (t0 + n ≤ count → t0 ≤ f → f < t0 + n → (tabFind c.tiles f).isSome = true →
    Gives (.ttake a n1) s { slotOf s with run := .wait (.ttake t0 n) })

/-- cpy checks its transfer, then appends it to a channel with room at the base where the queued ones end, clears an error and
gives the base; cpwp gives the pointer, cpwait gives it once the target is reached or the channel is in error
(R280, R281, R284). PAGE2 in tinfo of an ADDR at a tile is the model's reading (18 R345; log 29). -/
def Claims.CopyRequests : Prop := ∀ (s : State) (d a : GReg) (out : Bool) (ch : Fin 2),
  let x := slotOf s
  let c := ccOf s
  let q := c.cch[ch]
  let m := readG s a
  let w1 := (readG s (a + 1)).toNat
  let w2 := (readG s (a + 2)).toNat
  let rows := w2 / 2 ^ 32
  let rb := w2 % 2 ^ 32
  let len := rows * rb
  let o := w1 % 2 ^ 20
  let shaped : Prop := rows ≠ 0 ∧ rb ≠ 0 ∧ len ≤ 2 ^ 20 ∧ w1 < 2 ^ 20
  let mine : Prop := ∀ t, o / 4096 ≤ t → t ≤ (o + len - 1) / 4096 →
    t < c.scarve.toNat % 16 * 32 ∧ tileInBanks c t = false ∧ tabFind c.tiles t = some (if ch = 0 then .cch0 else .cch1)
  let base := (match q.queue.getLast? with
    | some t => t.base + t.rows * t.rb
    | none => q.wp)
  let t : Transfer := ⟨out, m, o, rows, rb, readG s (a + 3), 0, s.curSlot⟩
  let pointer : Word := BitVec.ofNat 64 ((if q.error then 2 ^ 63 else 0) + q.wp % 2 ^ 63)
  let target := (readG s a).toNat % 2 ^ 63
  let op : Instr := .cpy d a out ch
  let window (f : Nat) : Word := BitVec.ofNat 64 (0xFE00 * 2 ^ 48 + f)
  let later (f : Nat) : Nat := if (window o).toNat / 2 ^ 16 < (window f).toNat / 2 ^ 16 then 2 ^ 21 else 0
  (∀ f, shaped → m.toNat < 2 ^ 55 → notOwned c (if ch = 0 then .cch0 else .cch1) o len = some f →
    TrapsHere op s 6 (window f) (later f + 0x61C0)) ∧
  (¬shaped → TrapsHere op s 1 0 0x401C0) ∧ (shaped → 2 ^ 55 ≤ m.toNat → TrapsHere op s 6 m 0x61C0) ∧
  (shaped → m.toNat < 2 ^ 55 → mine → q.queue.length < 4 →
    let q' : CopyChan := { q with queue := q.queue ++ [{ t with base := base }], error := false }
    GivesCc op s (gResult { x with stall := .none } d (BitVec.ofNat 64 base)) { c with cch := c.cch.set ch q' }) ∧
  (shaped → m.toNat < 2 ^ 55 → mine → 4 ≤ q.queue.length → Gives op s { x with stall := .cpy d ch t }) ∧
  Gives (.cpwp d ch) s (gResult x d pointer) ∧
  (q.error = true ∨ target ≤ q.wp → Gives (.cpwait d a ch) s (gResult x d pointer)) ∧
  (q.error = false → q.wp < target → Gives (.cpwait d a ch) s { x with run := .wait (.cpwait d ch target) })

/-- A copy channel lands one byte, once its line has been got: inwards the byte of memory at row j / RB and column j mod RB goes to
offset O + j, outwards the other way; WP counts it, and at the end of the transfer the next one is current; a line that must be
waited for lands nothing; a byte without a translation pauses the channel and posts the fault, and one that is forbidden, outside
the address space or poisoned stops it in error and posts CCH_FAULT (R281-R283, 20 R367). -/
def Claims.CopyLanding : Prop :=
  ∀ (s v w : State) (c : Nat) (ch : Fin 2) (t : Transfer) (l : List Transfer) (pa : Nat),
  let x := ccAt s c
  let q := x.cch[ch]
  let j := q.wp - t.base
  let va := t.m + BitVec.ofNat 64 (j / t.rb) * t.st + BitVec.ofNat 64 (j % t.rb)
  let ev : Instr := .cchLand c ch 1 .none
  let last : Prop := j + 1 = t.rows * t.rb
  let counts (u : State) : Prop := (ccAt u c).cch[ch].wp = q.wp + 1 ∧ (last → (ccAt u c).cch[ch].queue = l) ∧
    (¬last → (ccAt u c).cch[ch].queue = t :: l)
  (cellAt s c).live = true → q.queue = t :: l → q.paused = false → q.error = false → t.base ≤ q.wp → j < t.rows * t.rb →
    (t.out = false → engRead s c va = .ok (v, pa) → ∃ u, exec ev s = .next u ∧ SameSlots s u ∧ SameBytes s u ∧
      OtherCells c s u ∧ OnlyMemory s { u with cells := s.cells } ∧ counts u ∧
      ∀ o, memGet (ccAt u c).spad o = if o = t.o + j then softByte s pa else memGet x.spad o) ∧
    (t.out = true → engWalk s c true va = .ok (w, pa) → x.padPoison.contains ((t.o + j) / 32) = false →
      engineLine w c true (pa / 128) = .ok v → ∃ u, exec ev s = .next u ∧ SameSlots s u ∧ OtherCells c s u ∧
      OnlyMemory s { u with cells := s.cells, place := s.place } ∧ counts u ∧ (ccAt u c).spad = x.spad ∧
      ∀ a, physByte u a = if a = pa then memGet x.spad (t.o + j) else physByte s a) ∧
    (t.out = false → engRead s c va = .error (w, .wait) → exec ev s = .next w ∧ OnlyMemory s w ∧ SameBytes s w) ∧
    (∀ page, t.out = false → engRead s c va = .error (w, .xlate page) → ∃ u, exec ev s = .next u ∧ SameSlots s u ∧
      OnlyMemory s { u with cells := s.cells, scrim := s.scrim } ∧ OtherCells c s u ∧
      { u.scrim with posts := s.scrim.posts } = s.scrim ∧
      ccAt u c = { x with cch := x.cch.set ch { q with paused := true } } ∧
      u.scrim.posts = s.scrim.posts ++ [⟨clusterRouter (physOf s c), .agent (.cch c ch), x.desc.ctxid, page, .read, none, 32,
        x.desc.psvc⟩]) ∧
    (∀ b cause, (b, cause) ∈ [(EngBad.prot, 2), (.addr, 3), (.ue, 4)] → t.out = false → engRead s c va = .error (w, b) →
      tabSorted x.tiles = true →
      let e : Engine := if ch = 0 then .cch0 else .cch1
      let q' : CopyChan := { q with queue := [], paused := false, error := true }
      ∃ u, exec ev s = .next u ∧ SameSlots s u ∧ OnlyMemory s { u with cells := s.cells } ∧ OtherCells c s u ∧
        { ccAt u c with tiles := x.tiles } =
          ccEvent { x with cch := x.cch.set ch q' } 3 (BitVec.ofNat 64 (256 * cause + ch.val)) ∧
        ∀ k, tabFind (ccAt u c).tiles k =
          if tabFind x.tiles k = some e ∧ stalledNames s c e k = false then none else tabFind x.tiles k)

/-- Copy requests and landing bytes: CopyRequests and CopyLanding together. -/
def Obligations.CopyChannels : Prop := Claims.CopyRequests ∧ Claims.CopyLanding

/-- shdef writes a well-formed entry with the GEN found and VALID 1 and gives its handle; shkill clears VALID and raises GEN;
both raise SHAPE as their checks fail and the trap of their access of the entry, and no other byte of the package changes; a read or a store of the entry that must wait
leaves the instruction to be performed again, in RUN (R286-R289, 20 R388). The fields of tinfo on SHAPE are the model's reading
of R289 (log 30). -/
def Obligations.ShapeTable : Prop :=
  ∀ (s : State) (d a b : GReg) (s1 s2 u w : State) (bs : List Byte) (pa : Nat),
  let x := slotOf s
  let count := (ccOf s).desc.shcnt
  let e : BitVec 512 := BitVec.ofNat 512 (natOf bs)
  let gen := e.toNat / 2 ^ 244 % 4096
  let sl := (readG s b).toNat
  let h := gen * 2 ^ 20 + sl
  let new : BitVec 512 := entryMark (entryRegs s a) 0 false
  let put := entryMark new gen true
  let k := (readG s a).toNat % 2 ^ 32
  let ks := k % 2 ^ 20
  let stale : Prop := e.getLsbD 240 = false ∨ gen ≠ k / 2 ^ 20
  let mark := (entryMark e (gen + 1) false).toNat / 2 ^ 240 % 2 ^ 16
  let info (handle reason opc : Nat) : Nat := handle * 2 ^ 32 + reason * 2 ^ 16 + opc
  let Done (i : Instr) (y : Slot) (q n v : Nat) : Prop := ∃ t, exec i s = .next t ∧ slotOf t = y ∧ OtherSlots s t ∧
    { t with slots := s2.slots } = s2 ∧ physNat t q n = v ∧ ∀ r, r < q ∨ q + n ≤ r → physByte t r = physByte s r
  let Waits (i : Instr) : Prop := exec i s = .next w ∧ (slotOf w).stall = .again ∧ OnlyMemory s { w with slots := s.slots } ∧
    { slotOf w with stall := (slotOf s).stall } = slotOf s ∧ OtherSlots s w
  (∀ f, (sl < count → readEntry s 9 0x1CE sl = .trap u f → TrapsFrom (.shdef d a b) s u f.cause x.ip f.va f.info) ∧
    (ks < count → readEntry s 9 0x1D0 ks = .trap u f → TrapsFrom (.shkill a) s u f.cause x.ip f.va f.info)) ∧
  (sl < count → readEntry s 9 0x1CE sl = .wait w → Waits (.shdef d a b)) ∧
  (ks < count → readEntry s 9 0x1D0 ks = .wait w → Waits (.shkill a)) ∧
  (count ≤ sl → TrapsHere (.shdef d a b) s 0x0B 0 (info (sl % 2 ^ 32) 1 0x1CE)) ∧
  (count ≤ ks → TrapsHere (.shkill a) s 0x0B 0 (info k 1 0x1D0)) ∧
  (sl < count → readEntry s 9 0x1CE sl = .done s1 bs →
    (e.getLsbD 240 = true → TrapsHere (.shdef d a b) s 0x0B 0 (info h 3 0x1CE)) ∧
    (e.getLsbD 240 = false → entryOk new = false → TrapsHere (.shdef d a b) s 0x0B 0 (info h 2 0x1CE)) ∧
    (e.getLsbD 240 = false → entryOk new = true → storeEntry s1 0x1CE sl 0 (bytesOf put.toNat 64) = .wait w →
      Waits (.shdef d a b)) ∧
    (e.getLsbD 240 = false → entryOk new = true → storeEntry s1 0x1CE sl 0 (bytesOf put.toNat 64) = .done s2 →
      checkAccess s1 ⟨9, 0x1CE, false, true, false, false⟩ (entryAddr s1 sl + 0) (addrsFrom (entryAddr s1 sl + 0) 64) =
        .ok u (memLocs pa 64) → Done (.shdef d a b) (gResult x d (BitVec.ofNat 64 h)) pa 64 put.toNat)) ∧
  (ks < count → readEntry s 9 0x1D0 ks = .done s1 bs →
    (stale → TrapsHere (.shkill a) s 0x0B 0 (info k 0 0x1D0)) ∧
    (¬stale → storeEntry s1 0x1D0 ks 30 (bytesOf mark 2) = .wait w → Waits (.shkill a)) ∧
    (¬stale → storeEntry s1 0x1D0 ks 30 (bytesOf mark 2) = .done s2 →
      checkAccess s1 ⟨9, 0x1D0, false, true, false, false⟩ (entryAddr s1 ks + 30) (addrsFrom (entryAddr s1 ks + 30) 2) =
        .ok u (memLocs pa 2) → Done (.shkill a) (nextIp x) pa 2 mark)) ∧
  (∀ i, i < 512 → put.getLsbD i =
    if 244 ≤ i ∧ i < 256 then e.getLsbD i else if i = 240 then true
    else (readG s (a + Fin.ofNat 64 (i / 64))).getLsbD (i % 64)) ∧
  mark = ((gen + 1) % 4096) * 16 + e.toNat / 2 ^ 241 % 8 * 2

/-- mxq checks code, reserved bits, handles, shapes and tiles in this order, then appends the command with the next ticket, or
stalls while sixteen are queued; a shape entry that must be waited for leaves it to be performed again, in RUN; mxwait completes
once mxdone has reached its target, and raises TRAILER, at any level, for a pending failure that the target covers (R289-R293,
R298, 20 R388). By the model's reading SHAPE with REASON 4 names the first handle with OPND 0 (log 30), PAGE2 is set in tinfo of
an ADDR at a later page (18 R345; log 29), and a VSET of 0, like a START_K, RES or ACC that R292 makes 0, is a reserved value
(log 31). -/
def Obligations.CommandQueue : Prop :=
  ∀ (s : State) (d a : GReg) (s1 w' : State) (shapes : List Shape) (hd rs od : Nat) (p : PendTrailer),
  let x := slotOf s
  let c := ccOf s
  let w (i : Fin 8) : Word := readG s (regAt a i.val)
  let f (i : Fin 8) (hi lo : Nat) : Nat := (w i).toNat / 2 ^ lo % 2 ^ (hi + 1 - lo)
  let code := (w 0).toNat % 256
  let reserved : Prop := f 0 63 32 ≠ 0 ∨ f 0 15 11 ≠ 0 ∨ (∃ i : Fin 8, 3 ≤ i.val ∧ w i ≠ 0) ∨ (code = 1 ∧ w 2 ≠ 0) ∨
    (code = 2 ∧ (f 1 63 32 ≠ 0 ∨ f 2 63 8 ≠ 0 ∨ f 2 7 0 = 0)) ∨
    (code = 3 ∧ (f 0 31 16 ≠ 0 ∨ f 0 10 8 ≠ 0 ∨ f 1 63 32 ≠ 0 ∨ f 2 63 3 ≠ 0)) ∨
    (4 ≤ code ∧ (f 0 31 16 ≠ 0 ∨ f 0 10 10 ≠ 0)) ∨ (code = 4 ∧ (w 1 ≠ 0 ∨ w 2 ≠ 0)) ∨
    (5 ≤ code ∧ (f 1 63 20 ≠ 0 ∨ f 1 11 0 ≠ 0)) ∨ (code = 5 ∧ w 2 ≠ 0) ∨
    (code = 6 ∧ (f 2 63 12 ≠ 0 ∨ f 2 7 4 ≠ 0 ∨ f 2 3 0 < 10 ∨ 13 < f 2 3 0 ∨ (f 2 3 0 < 12 ∧ f 2 11 8 ≠ 0)))
  let ok : Prop := 1 ≤ code ∧ code ≤ 6 ∧ ¬reserved
  let op := commandOp code w shapes
  let k := (w 0).toNat / 2 ^ 16 % 2 ^ 16
  let cmd : MxCmd := ⟨op, Fin.ofNat 4 ((w 0).toNat / 256), k, (w 0).getLsbD 10, 0⟩
  let read := readHandles s 0 (commandHandles code (w 1))
  let tk := c.mxu.tickets + 1
  let pushed := (match op with
    | .mvld v n => c.mxu.pushed.set n (v.fmt, v.cols)
    | _ => c.mxu.pushed)
  let mxu' : Mxu := { c.mxu with queue := c.mxu.queue ++ [{ cmd with ticket := tk }], tickets := tk, pushed := pushed }
  let target := (readG s a).toNat
  let reached : Prop := target ≤ c.mxu.done.toNat
  let window (f : Nat) : Word := BitVec.ofNat 64 (0xFE00 * 2 ^ 48 + f)
  (code = 0 ∨ 7 ≤ code → TrapsHere (.mxq d a) s 1 0 0x501CA) ∧
  (1 ≤ code → code ≤ 6 → reserved → TrapsHere (.mxq d a) s 1 0 0x401CA) ∧
  (ok → read = .wait w' → exec (.mxq d a) s = .next w' ∧ (slotOf w').stall = .again ∧ OnlyMemory s { w' with slots := s.slots }) ∧
  (ok → read = .shape hd rs od → TrapsHere (.mxq d a) s 0x0B 0 (hd * 2 ^ 32 + rs * 2 ^ 16 + od * 2 ^ 14 + 0x1CA)) ∧
  (ok → read = .done s1 shapes → commandFits c.mxu op k = false →
    TrapsHere (.mxq d a) s 0x0B 0 ((w 1).toNat % 2 ^ 32 * 2 ^ 32 + 4 * 2 ^ 16 + 0x1CA)) ∧
  (∀ f, ok → read = .done s1 shapes → commandFits c.mxu op k = true →
    notOwned c .mxu (commandRange op).1 (commandRange op).2 = some f →
    TrapsHere (.mxq d a) s 6 (window f)
      ((if (window (commandRange op).1).toNat / 2 ^ 16 < (window f).toNat / 2 ^ 16 then 2 ^ 21 else 0) + 0x61CA)) ∧
  (ok → read = .done s1 shapes → commandFits c.mxu op k = true →
    notOwned c .mxu (commandRange op).1 (commandRange op).2 = none →
    ∃ t, exec (.mxq d a) s = .next t ∧ OtherSlots s t ∧ SameBytes s t ∧ OtherCells s.curCell s t ∧
      OnlyMemory s { t with slots := s.slots, cells := s.cells } ∧
      (c.mxu.queue.length < 16 → ccOf t = { c with mxu := mxu' } ∧
        slotOf t = gResult { x with stall := .none } d (BitVec.ofNat 64 tk)) ∧
      (16 ≤ c.mxu.queue.length → ccOf t = c ∧ slotOf t = { x with stall := .mxq d cmd })) ∧
  (reached → c.mxu.pend = none → Gives (.mxwait a) s (nextIp x)) ∧
  (reached → c.mxu.pend = some p → target < p.ticket → Gives (.mxwait a) s (nextIp x)) ∧
  (reached → c.mxu.pend = some p → p.ticket ≤ target →
    TrapsFrom (.mxwait a) s (putCcOf s { c with mxu := { c.mxu with pend := none } }) 0x0C x.ip p.addr
      (BitVec.ofNat 64 (p.ticket % 2 ^ 32 * 2 ^ 32 + p.opnd.toNat))) ∧
  (¬reached → Gives (.mxwait a) s { x with run := .wait (.mxwait target) })

/-- A completed MXU command leaves the queue and counts in mxdone: MZERO makes every element of its accumulator +0, MACLD loads
FP32 values from 16 KiB, MACST stores them in FP32, rounded to BF16 in 8 KiB, or as BX blocks with their exponent plane and trailer,
whose FINAL is 0 for a poisoned accumulator, and MMA and MMV, once their operands have been read, add blocks START_K on to
each element, MMV only in the columns of its vector slots; MVLD fills its slot; other accumulators keep their values; a command
whose operand must wait for a line or a pin stays; at the boundary the MXU is narrowed exactly while an alarm of its islands
stands (R75, R83, R85, R88, R291, R294-R296, R299, 10 R222, 20 R367). -/
def Claims.MatrixCommands : Prop := ∀ (s v w : State) (c : Nat) (q : MxCmd) (l : List MxCmd),
  let x := (ccAt s c).mxu
  let pad := (ccAt s c).spad
  let alarm : Prop := s.plat.islands[islandOf s c].alarm = true ∨ s.plat.islands[uncoreOf s c].alarm = true
  let Ends (v : State) (i : Instr) (Q : State → Mxu → Prop) : Prop := OnlyMemory s v ∧ SameBytes s v ∧
    ∃ t, exec i s = .next t ∧ { t with cells := s.cells } = v ∧ OtherCells c s t ∧
      (ccAt t c).mxu.queue = l ∧ (ccAt t c).mxu.done = x.done + 1 ∧ ((ccAt t c).mxu.narrow = true ↔ alarm) ∧ Q t (ccAt t c).mxu
  let Acc (y : Mxu) (p : Bool) (f : Nat → Nat → FpBits) : Prop := y.poisoned = x.poisoned.set q.acc p ∧ y.slots = x.slots ∧
    ∀ b i j, b < 4 → i < 64 → j < 64 → accGet y b i j = if b = q.acc.val then f i j else accGet x b i j
  let blocks (n : Nat) (v : FpBits) (as bs : Nat → List MxElem) : FpBits :=
    (List.range (n - q.startK)).foldl (fun v k => mxBlock (nanTag c (q.startK + k)) v (as (q.startK + k)) (bs (q.startK + k))) v
  let runs : Prop := x.poisoned[q.acc] = false ∨ q.res = true
  let reads (stream : Bool) (hs : List Shape) (k n : Nat) : MxRun := mxReads s c stream hs k .none s.coh.pins.length k n
  (cellAt s c).live = true → x.paused = none → x.queue = q :: l →
    (q.op = .mzero → Ends s (.mzero c) (fun _ y => Acc y false (fun _ _ => 0))) ∧
    (∀ off, q.op = .macld off → padBad (ccAt s c) off 16384 = false → Ends s (.macld c .none) (fun _ y =>
      Acc y false (fun i j => BitVec.ofNat 32 (natOf (padBytes (ccAt s c) (off + 4 * (64 * i + j)) 4))))) ∧
    (∀ off d, q.op = .macst off d 11 → off + 16384 ≤ padSize (ccAt s c) → Ends s (.macst c .none) (fun t y =>
      y.acc = x.acc ∧ y.poisoned = x.poisoned ∧ ∀ p, memGet (ccAt t c).spad p =
        if off ≤ p ∧ p < off + 16384 then
          (accGet x q.acc.val ((p - off) / 256) ((p - off) / 4 % 64)).extractLsb' (8 * ((p - off) % 4)) 8
        else memGet pad p)) ∧
    (∀ off d, q.op = .macst off d 10 → off + 8192 ≤ padSize (ccAt s c) → Ends s (.macst c .none) (fun t y =>
      y.acc = x.acc ∧ y.poisoned = x.poisoned ∧ ∀ p, memGet (ccAt t c).spad p =
        if off ≤ p ∧ p < off + 8192 then
          (fpToFp .bf16 .f32 .rne (accGet x q.acc.val ((p - off) / 128) ((p - off) / 2 % 64))).extractLsb' (8 * ((p - off) % 2)) 8
        else memGet pad p)) ∧
    (∀ (f : BxTy) off d, q.op = .macst off d (if f = .bx8 then 12 else 13) →
      let size : Nat := if f = .bx8 then 32 else 16
      let B (b : Nat) : BxBlock := bxPack f d ((List.range 32).map (fun t => accGet x q.acc.val (b / 2) (b % 2 * 32 + t)))
      let tr : Trailer := trailerFinal (((List.range 128).map B).foldl (trailerAdd f) ⟨0, 0, false, 0, false, false, 0, 0, 0⟩)
      off + 128 * size + 288 ≤ padSize (ccAt s c) → Ends s (.macst c .none) (fun t y =>
        y.acc = x.acc ∧ y.poisoned = x.poisoned ∧ tr.elems = 4096 ∧
        (∀ b j, b < 128 → j < size → memGet (ccAt t c).spad (off + size * b + j) =
          (bxBytes f ((B b).elems.map BxElem.bits)).getD j 0) ∧
        (∀ b, b < 128 → memGet (ccAt t c).spad (off + 128 * size + 2 * b) = BitVec.ofNat 8 (B b).e0 ∧
          memGet (ccAt t c).spad (off + 128 * size + 2 * b + 1) = BitVec.ofNat 8 (B b).e1) ∧
        (∀ j, j < 32 → memGet (ccAt t c).spad (off + 128 * size + 256 + j) =
          (bytesOf (trailerBits { tr with final := !x.poisoned[q.acc] }) 32).getD j 0) ∧
        ∀ p, p < off ∨ off + 128 * size + 288 ≤ p → memGet (ccAt t c).spad p = memGet pad p)) ∧
    (∀ h g, q.op = .mma h g → runs → reads false [h, g] q.startK (h.cols / 32 - q.startK) = .ok v →
      trailerFailure v c false [(0, h), (1, g)] = none → Ends v (.mma c .none) (fun _ y => Acc y false (fun i j =>
        blocks (h.cols / 32) (accGet x q.acc.val i j) (blockRow v c false h i) (blockRow v c false g j)))) ∧
    (∀ h g, q.op = .mma h g → runs → reads false [h, g] q.startK (h.cols / 32 - q.startK) = .wait w →
      exec (.mma c .none) s = .next w ∧ OnlyMemory s w ∧ SameBytes s w) ∧
    (∀ h vset, q.op = .mmv h vset → runs → (∀ v : Fin 8, vset.getLsbD v.val = true → x.slots[v].bad = false) →
      reads true [h] q.startK (h.cols / 32 - q.startK) = .ok v →
      trailerFailure v c true [(0, h)] = none → Ends v (.mmv c .none) (fun _ y => Acc y false (fun i j =>
        if hj : j < 8 then
          if vset.getLsbD j then
            blocks (h.cols / 32) (accGet x q.acc.val i j) (blockRow v c true h i) (blockSlot x.slots[j])
          else accGet x q.acc.val i j
        else accGet x q.acc.val i j))) ∧
    (∀ h n, q.op = .mvld h n → reads false [h] 0 (h.cols / 32) = .ok v → trailerFailure v c false [(2, h)] = none →
      Ends v (.mvld c .none) (fun _ y => y.acc = x.acc ∧ y.poisoned = x.poisoned ∧
        y.slots = x.slots.set n (loadSlot v c h false)))

/-- Errors of MXU commands. A poisoned accumulator makes an MMA or MMV without RES complete with nothing done. An uncorrectable error or
a fault, at block k of an MMA or MMV, ends it there: the blocks before k are applied, the accumulator is poisoned, mxstat records
the error, MXU_UE is posted, and the queue goes on; on MVLD, MACLD and MACST K is 0xFFFF, MVLD marks its slot, MACLD
poisons its accumulator and MACST writes its BX trailer with FINAL 0. A failed trailer lets the command end on the data as read,
poisons its accumulator or marks its slot, records ERR TRAILER with K 0xFFFF and is pending unless an earlier one is; a slot of a
failed MVLD poisons the accumulator of an MMV that reads it. A fault to be served pauses the TFU and posts its page; one
answered fail is an XLATE error when a read of its page comes up (R283, R296, R297, R298, R301, 18 R351). -/
def Claims.MatrixErrors : Prop := ∀ (s v : State) (c : Nat) (q : MxCmd) (l : List MxCmd) (k cause : Nat) (e : EngineUpset)
    (page : BitVec 39),
  let x := (ccAt s c).mxu
  let pad := (ccAt s c).spad
  let detail (k cause : Nat) : Word := BitVec.ofNat 64 (q.ticket % 2 ^ 32 * 2 ^ 32 + k * 2 ^ 16 + cause * 2 ^ 8 + q.acc.val)
  let Ends (v : State) (i : Instr) (Q : State → Mxu → Prop) : Prop := OnlyMemory s v ∧ SameBytes s v ∧
    ∃ t, exec i s = .next t ∧ { t with cells := s.cells } = v ∧ OtherCells c s t ∧
      (ccAt t c).mxu.queue = l ∧ (ccAt t c).mxu.done = x.done + 1 ∧ Q t (ccAt t c).mxu
  let Fails (v : State) (i : Instr) (k cause : Nat) (Q : State → Mxu → Prop) : Prop := Ends v i (fun t y =>
    y.errtk = BitVec.ofNat 16 q.ticket ∧ y.k = BitVec.ofNat 16 k ∧
      y.err = (match cause with | 1 => 1 | 2 => 3 | 3 => 4 | 4 => 5 | _ => y.err) ∧ y.pend = x.pend ∧
      (ccAt t c).chans = (ccEvent (ccAt s c) 2 (detail k cause)).chans ∧
      (ccAt t c).dropped = (ccEvent (ccAt s c) 2 (detail k cause)).dropped ∧ Q t y)
  let Trailers (v : State) (i : Instr) (f : BitVec 2 × Word) (Q : State → Mxu → Prop) : Prop := Ends v i (fun t y =>
    y.errtk = BitVec.ofNat 16 q.ticket ∧ y.k = 0xFFFF ∧ y.err = 2 ∧ (ccAt t c).chans = (ccAt s c).chans ∧
      y.pend = (if x.pend = none then some ⟨q.ticket, f.1, f.2⟩ else x.pend) ∧ Q t y)
  let Acc (y : Mxu) (p : Bool) (f : Nat → Nat → FpBits) : Prop := y.poisoned = x.poisoned.set q.acc p ∧ y.slots = x.slots ∧
    ∀ b i j, b < 4 → i < 64 → j < 64 → accGet y b i j = if b = q.acc.val then f i j else accGet x b i j
  let blocks (n : Nat) (v : FpBits) (as bs : Nat → List MxElem) : FpBits :=
    (List.range (n - q.startK)).foldl (fun v k => mxBlock (nanTag c (q.startK + k)) v (as (q.startK + k)) (bs (q.startK + k))) v
  let mma (v : State) (h g : Shape) (n i j : Nat) : FpBits :=
    blocks n (accGet x q.acc.val i j) (blockRow v c false h i) (blockRow v c false g j)
  let mmv (v : State) (h : Shape) (vset : BitVec 8) (n i j : Nat) : FpBits :=
    if hj : j < 8 then
      if vset.getLsbD j then blocks n (accGet x q.acc.val i j) (blockRow v c true h i) (blockSlot x.slots[j])
      else accGet x q.acc.val i j
    else accGet x q.acc.val i j
  let runs : Prop := x.poisoned[q.acc] = false ∨ q.res = true
  let anyBad (vset : BitVec 8) : Bool := (List.finRange 8).any (fun n => vset.getLsbD n.val && x.slots[n].bad)
  let reads (stream : Bool) (hs : List Shape) (e : EngineUpset) (k n : Nat) : MxRun := mxReads s c stream hs k e s.coh.pins.length k n
  (cellAt s c).live = true → x.paused = none → x.queue = q :: l →
    (¬runs → (∀ h g, q.op = .mma h g → Ends s (.mma c e) (fun _ y => y.acc = x.acc ∧ y.poisoned = x.poisoned ∧ y.slots = x.slots)) ∧
      ∀ h vset, q.op = .mmv h vset → Ends s (.mmv c e) (fun _ y => y.acc = x.acc ∧ y.poisoned = x.poisoned ∧ y.slots = x.slots)) ∧
    (∀ h g, q.op = .mma h g → runs →
      (reads false [h, g] e q.startK (h.cols / 32 - q.startK) = .stop v k cause →
        Fails v (.mma c e) k cause (fun _ y => Acc y true (mma v h g k))) ∧
      (∀ f, reads false [h, g] e q.startK (h.cols / 32 - q.startK) = .ok v → trailerFailure v c false [(0, h), (1, g)] = some f →
        Trailers v (.mma c e) f (fun _ y => Acc y true (mma v h g (h.cols / 32)))) ∧
      (reads false [h, g] e q.startK (h.cols / 32 - q.startK) = .pause v page → ∃ t, exec (.mma c e) s = .next t ∧
        { t with cells := s.cells, scrim := s.scrim } = v ∧ OtherCells c s t ∧
        ccAt t c = { ccAt s c with mxu := { x with paused := some page } } ∧
        t.scrim.posts = s.scrim.posts ++ [⟨clusterRouter (physOf s c), .agent (.tfu c), (ccAt s c).desc.ctxid, page, .read, none, 32,
          (ccAt s c).desc.psvc⟩])) ∧
    (∀ h vset, q.op = .mmv h vset → runs →
      (reads true [h] e q.startK (h.cols / 32 - q.startK) = .stop v k cause →
        Fails v (.mmv c e) k cause (fun _ y => Acc y true (mmv v h vset k))) ∧
      (reads true [h] e q.startK (h.cols / 32 - q.startK) = .ok v →
        (∀ f, trailerFailure v c true [(0, h)] = some f →
          Trailers v (.mmv c e) f (fun _ y => Acc y true (mmv v h vset (h.cols / 32)))) ∧
        (trailerFailure v c true [(0, h)] = none →
          Ends v (.mmv c e) (fun _ y => Acc y (anyBad vset) (mmv v h vset (h.cols / 32)))))) ∧
    (∀ h n, q.op = .mvld h n →
      (reads false [h] .none 0 (h.cols / 32) = .stop v k cause → Fails v (.mvld c e) 0xFFFF cause (fun _ y =>
        y.acc = x.acc ∧ y.poisoned = x.poisoned ∧ (y.slots[n]).bad = true ∧ ∀ m, m ≠ n → y.slots[m] = x.slots[m])) ∧
      (∀ f, reads false [h] .none 0 (h.cols / 32) = .ok v → e = .none → trailerFailure v c false [(2, h)] = some f →
        Trailers v (.mvld c e) f (fun _ y => y.acc = x.acc ∧ y.poisoned = x.poisoned ∧
          y.slots = x.slots.set n (loadSlot v c h true)))) ∧
    (∀ off, q.op = .macld off → e ≠ .none ∨ padBad (ccAt s c) off 16384 = true → Fails s (.macld c e) 0xFFFF 1 (fun _ y =>
      y.poisoned = x.poisoned.set q.acc true ∧ y.slots = x.slots ∧
        ∀ b i j, b < 4 → b ≠ q.acc.val → i < 64 → j < 64 → accGet y b i j = accGet x b i j)) ∧
    (∀ off d fmt, q.op = .macst off d fmt → e ≠ .none → Fails s (.macst c e) 0xFFFF 1 (fun t y =>
      y.acc = x.acc ∧ y.poisoned = x.poisoned ∧ (fmt = 12 → off + 4384 ≤ padSize (ccAt s c) →
        (memGet (ccAt t c).spad (off + 4352 + 15)).getLsbD 7 = false))) ∧
    (x.failed = some page → ∀ (hs : List Shape) (stream : Bool) (n : Nat) (a : Word),
      (blockAddrs hs q.startK q.startK).head? = some a → a.toNat / 65536 % 2 ^ 39 = page.toNat →
      reads stream hs e q.startK (n + 1) = .stop s q.startK 2)

/-- A cell's MXU is narrowed while the alarm of its island or of its die's uncore stands and not after; the MXU gives up one pin of a
line that it has consumed, and with the last pin a cinv that waited for it empties the die of the line, dirty data written back
(R222, R299, 12 R262, 23 R412). That a command holds pins of its own, and that a step which is not due leaves the state as it is,
are the model's choice (logs 39 and 11). -/
def Claims.NarrowingAndPins : Prop := ∀ (s : State) (c : Nat) (d : Fin 4) (line i : Nat),
  let x := ccAt s c
  let alarm : Prop := s.plat.islands[islandOf s c].alarm = true ∨ s.plat.islands[uncoreOf s c].alarm = true
  let sets (i : Instr) (b : Bool) : Prop := ∃ t, exec i s = .next t ∧ { t with cells := s.cells } = s ∧ OtherCells c s t ∧
    ccAt t c = { x with mxu := { x.mxu with narrow := b } }
  let here (p : Pin) : Prop := p.die = d.val ∧ p.line = line
  let first : Prop := (∃ p, s.coh.pins[i]? = some p ∧ here p) ∧ ∀ j p, j < i → s.coh.pins[j]? = some p → ¬here p
  let drops : Prop := ∃ p ∈ s.coh.pins, here p ∧ p.drop = true
  let more : Prop := ∃ p ∈ s.coh.pins.eraseIdx i, here p
  (alarm → sets (.narrowEnter c) true ∧ exec (.narrowExit c) s = .next s) ∧
  (¬alarm → sets (.narrowExit c) false ∧ exec (.narrowEnter c) s = .next s) ∧
  ((∀ p ∈ s.coh.pins, ¬here p) → exec (.pinRelease d line) s = .next s) ∧
  (first → ¬drops → exec (.pinRelease d line) s = .next { s with coh := { s.coh with pins := s.coh.pins.eraseIdx i } }) ∧
  (first → drops → more → ∃ t, exec (.pinRelease d line) s = .next t ∧ { t with coh := s.coh } = s ∧
    { t.coh with pins := s.coh.pins } = s.coh ∧ (∀ p ∈ t.coh.pins, here p → p.drop = true) ∧
    t.coh.pins.map (fun p => (p.die, p.line)) = (s.coh.pins.eraseIdx i).map (fun p => (p.die, p.line))) ∧
  (first → drops → ¬more → line < 2 ^ 40 → ∃ t, exec (.pinRelease d line) s = .next t ∧ OnlyMemory s t ∧ SameBytes s t ∧
    t.coh.pins = s.coh.pins.eraseIdx i ∧ (dirGet t.coh d.val line).lvl = .i ∧ (homeGet t.coh line).present.getLsbD d.val = false)

/-- The commands of the MXU, their errors, narrowing and pins: MatrixCommands, MatrixErrors and NarrowingAndPins together. -/
def Obligations.MatrixUnit : Prop := Claims.MatrixCommands ∧ Claims.MatrixErrors ∧ Claims.NarrowingAndPins

/-! ## Vector instructions (06) -/

/-- The integer vector instructions lane by lane, at the width of the type and under the mask: an inactive lane keeps its value
or is zeroed (R122-R124, R128-R130). -/
def Obligations.VectorInteger : Prop :=
  ∀ (s : State) (t : Option LaneInt) (u : Option DotTy) (d a c : VReg) (b : VSrc) (k : MaskSel),
  let T := t.getD .i32
  let n := laneIntWidth T
  let U := t.getD .n32
  let sg := laneIntSigned T
  let src (m : Nat) (j : Nat) : BitVec m := (match b with
    | .v r => lane m (readV s r) j
    | .g r => (readG s r).setWidth m)
  let x (j : Nat) : BitVec n := lane n (readV s a) j
  let y (j : Nat) : BitVec n := src n j
  let less (p q : BitVec n) : Bool := if sg then p.slt q else p.ult q
  let wide (p : BitVec n) : BitVec (2 * n) := if sg then p.signExtend (2 * n) else p.setWidth (2 * n)
  let val (p : BitVec n) : Int := if sg then p.toInt else p.toNat
  let lo : Int := if sg then -(2 ^ (n - 1)) else 0
  let hi : Int := if sg then 2 ^ (n - 1) - 1 else 2 ^ n - 1
  let byte (w : BitVec 32) (j : Nat) : BitVec 32 :=
    if u = some .n8 then (w.extractLsb' (8 * j) 8).setWidth 32 else (w.extractLsb' (8 * j) 8).signExtend 32
  let dot (p q : BitVec 32) : BitVec 32 := byte p 0 * byte q 0 + byte p 1 * byte q 1 + byte p 2 * byte q 2 + byte p 3 * byte q 3
  GivesLanes (.vadd t d a b k) s d n k (fun j => x j + y j) ∧
  GivesLanes (.vsub t d a b k) s d n k (fun j => x j - y j) ∧
  GivesLanes (.vmin t d a b k) s d n k (fun j => if less (x j) (y j) then x j else y j) ∧
  GivesLanes (.vmax t d a b k) s d n k (fun j => if less (x j) (y j) then y j else x j) ∧
  GivesLanes (.vabs t d a k) s d n k (fun j => if sg ∧ (x j).slt 0 then -(x j) else x j) ∧
  GivesLanes (.vadds t d a b k) s d n k (fun j => BitVec.ofInt n (max lo (min hi (val (x j) + val (y j))))) ∧
  GivesLanes (.vsubs t d a b k) s d n k (fun j => BitVec.ofInt n (max lo (min hi (val (x j) - val (y j))))) ∧
  GivesLanes (.vmul t d a b k) s d n k (fun j => x j * y j) ∧
  GivesLanes (.vmulh t d a b k) s d n k (fun j => ((wide (x j) * wide (y j)) >>> n).setWidth n) ∧
  GivesLanes (.vmadd t d a b c k) s d n k (fun j => x j * y j + lane n (readV s c) j) ∧
  GivesLanes (.vdot4 u d a b k) s d 32 k (fun j => lane 32 (readV s d) j + dot (lane 32 (readV s a) j) (src 32 j)) ∧
  GivesLanes (.vand t d a b k) s d n k (fun j => x j &&& y j) ∧
  GivesLanes (.vor t d a b k) s d n k (fun j => x j ||| y j) ∧
  GivesLanes (.vxor t d a b k) s d n k (fun j => x j ^^^ y j) ∧
  (let m := laneIntWidth U
   let z (j : Nat) : BitVec m := lane m (readV s a) j
   let count (j : Nat) : Nat := (match b with
     | .v r => (lane m (readV s r) j).toNat
     | .g r => (readG s r).toNat)
   GivesLanes (.vshl t d a b k) s d m k (fun j => if count j < m then z j <<< count j else 0) ∧
   GivesLanes (.vshr t d a b k) s d m k (fun j => if count j < m then z j >>> count j else 0) ∧
   GivesLanes (.vsar t d a b k) s d m k (fun j => (z j).sshiftRight (min (count j) (m - 1))))

/-- vcmp and vfcmp write one bit of m[D] for each lane, vsel chooses by the bits of a mask and writes every lane, mand, mor and
mxor act on all 128 bits, mpop counts the first L (R124, R131, R132). -/
def Obligations.VectorMasks : Prop :=
  ∀ (s : State) (t : Option LaneInt) (f : Option FpTy) (l : Option LaneTy) (cd : Cond) (fc : FCond) (d p q : MReg) (v a : VReg)
    (g : GReg) (b : VSrc) (k : MaskSel) (na nb : Bool),
  let src (m : Nat) (j : Nat) : BitVec m := (match b with
    | .v r => lane m (readV s r) j
    | .g r => (readG s r).setWidth m)
  let old := readM s d
  let Bits (i : Instr) (n : Nat) (h : Nat → Bool) : Prop := ∃ w, Gives i s (mResult (slotOf s) d w) ∧
    ∀ j, j < 128 → w.getLsbD j =
      if 1024 / n ≤ j then old.getLsbD j else if laneOn s k j then h j else if k.z then false else old.getLsbD j
  let T := t.getD .i32
  let n := laneIntWidth T
  let sg := laneIntSigned T
  let x (j : Nat) : BitVec n := lane n (readV s a) j
  let less (p q : BitVec n) : Bool := if sg then p.slt q else p.ult q
  let F := f.getD .f32
  let L := l.getD (.int .i32)
  let neg (w : MaskWord) (z : Bool) : MaskWord := if z then ~~~w else w
  let P := neg (readM s p) na
  let Q := neg (readM s q) nb
  Bits (.vcmp t cd d a b k) n (fun j => (match cd with
    | .eq => x j == src n j
    | .ne => x j != src n j
    | .lt => less (x j) (src n j)
    | .le => !less (src n j) (x j)
    | .gt => less (src n j) (x j)
    | .ge => !less (x j) (src n j))) ∧
  Bits (.vfcmp f fc d a b k) (fpWidth F) (fun j =>
    fcondHolds F fc ((lane (fpWidth F) (readV s a) j).setWidth 32) ((src (fpWidth F) j).setWidth 32)) ∧
  (∃ w, Gives (.vsel l v a b p) s (vResult (slotOf s) v w) ∧ ∀ j, j < 1024 / laneWidth L → lane (laneWidth L) w j =
    if (readM s p).getLsbD j then lane (laneWidth L) (readV s a) j else src (laneWidth L) j) ∧
  Gives (.mand d p q na nb) s (mResult (slotOf s) d (P &&& Q)) ∧ Gives (.mor d p q na nb) s (mResult (slotOf s) d (P ||| Q)) ∧
  Gives (.mxor d p q na nb) s (mResult (slotOf s) d (P ^^^ Q)) ∧
  Gives (.mpop t g p) s (gResult (slotOf s) g
    (BitVec.ofNat 64 ((List.range (1024 / n)).countP (fun j => (readM s p).getLsbD j))))

/-- The floating-point vector instructions apply the scalar operations to each active lane, the lane's index in the tag of a NaN
it creates; vcvt widens from and narrows into part P and leaves the lanes outside it alone (R133-R135). -/
def Claims.VectorFloatingPoint : Prop :=
  ∀ (s : State) (t : Option FpTy) (r : Rnd) (dt st : LaneTy) (part : Fin 4) (d a c : VReg) (b : VSrc) (k : MaskSel),
  let T := t.getD .f32
  let n := fpWidth T
  let x (j : Nat) : FpBits := (lane n (readV s a) j).setWidth 32
  let z (j : Nat) : FpBits := (lane n (readV s c) j).setWidth 32
  let y (j : Nat) : FpBits := (match b with
    | .v q => (lane n (readV s q) j).setWidth 32
    | .g q => ((readG s q).setWidth n).setWidth 32)
  let tag (j : Nat) : BitVec 22 := nanTag s.curCell j
  let Fp (i : Instr) (f : Nat → FpBits) : Prop := GivesLanes i s d n k (fun j => (f j).setWidth n)
  let wd := laneWidth dt
  let ws := laneWidth st
  let L := 1024 / max ws wd
  let new (j : Nat) : BitVec wd := (match dt, st with
    | .int _, .int q => BitVec.ofInt _ (readInt (laneIntSigned q) (lane ws (readV s a) j))
    | .int p, .fp q => BitVec.ofInt _ (fpToInt (laneIntSigned p) wd q r ((lane ws (readV s a) j).setWidth 32))
    | .fp p, .int q => (intToFp p r (readInt (laneIntSigned q) (lane ws (readV s a) j))).setWidth _
    | .fp p, .fp q => (fpToFp p q r ((lane ws (readV s a) j).setWidth 32)).setWidth _)
  let From (g : Nat → Option Nat) : Prop := ∃ w, Gives (.vcvt dt st r part d a k) s (vResult (slotOf s) d w) ∧
    ∀ j, j < 1024 / wd → lane wd w j = (match g j with
      | none => lane wd (readV s d) j
      | some i => if laneOn s k j then new i else if k.z then 0 else lane wd (readV s d) j)
  Fp (.vfadd t r d a b k) (fun j => fpAdd T r (tag j) (x j) (y j)) ∧
  Fp (.vfsub t r d a b k) (fun j => fpSub T r (tag j) (x j) (y j)) ∧
  Fp (.vfmul t r d a b k) (fun j => fpMul T r (tag j) (x j) (y j)) ∧
  Fp (.vfdiv t r d a b k) (fun j => fpDiv T r (tag j) (x j) (y j)) ∧
  Fp (.vffma t r d a b c k) (fun j => fpFma T r (tag j) (x j) (y j) (z j)) ∧
  Fp (.vfmin t d a b k) (fun j => fpMin T (x j) (y j)) ∧ Fp (.vfmax t d a b k) (fun j => fpMax T (x j) (y j)) ∧
  Fp (.vfsqrt t r d a k) (fun j => fpSqrt T r (tag j) (x j)) ∧ Fp (.vfexp2 t r d a k) (fun j => fpExp2 T r (x j)) ∧
  (ws < wd → From (fun j => some (part.val * L + j))) ∧ (ws = wd → part = 0 → From some) ∧
  (wd < ws → From (fun j => if part.val * L ≤ j ∧ j < part.val * L + L then some (j - part.val * L) else none))

/-- vfexp2 in a lane: 2 to an integral power, and a power beyond every format, is rounded once; any other power of a finite value is
rounded once from a number that is off by less than one part in 2^380, which only an argument that close to a rounding boundary could
show (log 15); infinities give +infinity and +0, a NaN is quieted (R134, 04 R73). -/
def Claims.PowersOfTwo : Prop := ∀ (t : FpTy) (r : Rnd) (a : FpBits),
  let power : ℝ := (2 : ℝ) ^ ((fpVal t a : ℚ) : ℝ)
  (fpFinite t a → (∃ z : ℤ, fpVal t a = z) ∨ 1024 ≤ |fpVal t a| → FpRounded t r power (fpExp2 t r a)) ∧
  (fpFinite t a → |fpVal t a| < 1024 → ∃ v : ℝ, |v - power| ≤ power / 2 ^ 380 ∧ FpRounded t r v (fpExp2 t r a)) ∧
  (fpMag t a = infMag t → fpExp2 t r a = if fpNeg t a then 0 else fpMake t false (infMag t)) ∧
  (infMag t < fpMag t a → fpExp2 t r a = fpQuiet t a)

/-- Floating-point vector instructions and vcvt: VectorFloatingPoint and PowersOfTwo together. -/
def Obligations.VectorFloatingPoint : Prop := Claims.VectorFloatingPoint ∧ Claims.PowersOfTwo

/-- vpkbx packs 32 values into block b of v[D], puts the exponent pair into g[B] and continues the trailer state in bytes 0-31 of
v[C]; vunbx unpacks a block; vtrl finalises a trailer state (R136-R140). That MAXMAG of a running state is taken as a raw number,
whatever its bits, is the model's choice (log 64). -/
def Claims.BlockFormats : Prop :=
  ∀ (s : State) (f : BxTy) (d a c : VReg) (b : GReg) (sp : Fin 16) (blk : Fin 8) (k : MaskSel),
  let size : Nat := if f = .bx8 then 32 else 16
  let lo := 16 * (blk.val % 4)
  let vals : List FpBits := (List.range 32).map (lane 32 (readV s a))
  let p := bxPack f sp.val vals
  let els := bxBytes f (p.elems.map BxElem.bits)
  let st := trailerOf ((readV s c).toNat % 2 ^ 256)
  let e0 := (readG s b).toNat / 2 ^ lo % 256
  let e1 := (readG s b).toNat / 2 ^ (lo + 8) % 256
  let el (j : Nat) : Nat := (if f = .bx8 then (lane 8 (readV s a) (32 * blk.val + j)).toNat
    else (lane 8 (readV s a) (16 * blk.val + j / 2)).toNat / 16 ^ (j % 2) % 16)
  size * (blk.val + 1) ≤ 128 →
    (d ≠ c → ∃ vd vc g, Gives (.vpkbx f d a b c sp blk) s (gResult { slotOf s with v := ((slotOf s).v.set d vd).set c vc } b g) ∧
      (∀ j, j < 128 → lane 8 vd j =
        if size * blk.val ≤ j ∧ j < size * (blk.val + 1) then els.getD (j - size * blk.val) 0 else lane 8 (readV s d) j) ∧
      vc.toNat % 2 ^ 256 = trailerBits (trailerAdd f st p) ∧
      (∀ j, 32 ≤ j → j < 128 → lane 8 vc j = lane 8 (readV s c) j) ∧
      (∀ i, i < 64 → g.getLsbD i = if lo ≤ i ∧ i < lo + 16 then (p.e1 * 256 + p.e0).testBit (i - lo) else (readG s b).getLsbD i)) ∧
    GivesLanes (.vunbx f d a b blk k) s d 32 k (fun j => bxUnpack f (nanTag s.curCell j) e0 e1 (el j)) ∧
    Gives (.vtrl d a) s (vResult (slotOf s) d
      (BitVec.ofNat 1024 (trailerBits (trailerFinal (trailerOf ((readV s a).toNat % 2 ^ 256))))))

/-- Packing and unpacking by values: every element but a special one is the value rounded to the nearest multiple of its
exponent's unit, saturated; unpacking a packed NaN or a block NaN creates a NaN (R79, R80, R83, R84). -/
def Claims.BlockValues : Prop :=
  ∀ (f : BxTy) (e0 e1 el : Nat) (tag : BitVec 22) (x : FpBits), e0 ≤ e1 → e1 < 255 →
  let unit (e : Nat) : ℚ := 2 ^ ((e : ℤ) - 127 - bxPlaces f)
  let y := bxPackElem f e0 e1 x
  let m := y.bits % (bxMaxMag f + 1)
  let below : Prop := |fpVal .f32 x| < 2 ^ ((e0 : ℤ) - 126)
  (fpFinite .f32 x → ∃ (e : Nat) (z : ℤ), (below → e = e0) ∧ (¬below → e = e1) ∧ IntRounded .rne (|fpVal .f32 x| / unit e) z ∧
    (m : ℤ) = min z (bxMaxMag f) ∧ (y.sat = true ↔ (bxMaxMag f : ℤ) < z) ∧ y.nan = false ∧ y.inf = false ∧
    (y.bits / (bxMaxMag f + 1) % 2 = 0 ↔ below) ∧
    (y.bits / (2 * (bxMaxMag f + 1)) = 1 ↔ m ≠ 0 ∧ fpNeg .f32 x = true) ∧
    (bxUnpack f tag e0 e1 y.bits = fpRound .f32 .rne (decide (m ≠ 0 ∧ fpNeg .f32 x = true)) m ((e : ℤ) - 127 - bxPlaces f))) ∧
  (infMag .f32 < fpMag .f32 x → y.nan = true ∧ bxUnpack f tag e0 e1 y.bits = nanCreated .f32 tag) ∧
  (fpMag .f32 x = infMag .f32 → y.sat = true ∧ y.inf = true ∧ m = bxMaxMag f) ∧
  bxUnpack f tag 255 e1 el = nanCreated .f32 tag ∧ bxUnpack f tag e0 255 el = nanCreated .f32 tag

/-- The block formats: BlockFormats and BlockValues together. -/
def Obligations.BlockFormat : Prop := Claims.BlockFormats ∧ Claims.BlockValues

/-- vbcast, vperm, vslide, vins and vext move lanes; a broadcast immediate goes to all 32 lanes; every source is read in full
first (R141, R142, R144). -/
def Claims.LaneMoves : Prop :=
  ∀ (s : State) (t : Option LaneTy) (d a b : VReg) (g h : GReg) (imm : BitVec 56) (k : MaskSel),
  let T := t.getD (.int .i32)
  let n := laneWidth T
  let L := 1024 / n
  let x (j : Nat) : BitVec n := lane n (readV s a) j
  let at_ := (readG s h).toNat % L
  GivesLanes (.vbcast t d g k) s d n k (fun _ => (readG s g).setWidth n) ∧
  (∃ w, Gives (.vbcastImm d imm) s (vResult (slotOf s) d w) ∧ ∀ j, j < 32 → lane 32 w j = imm.setWidth 32) ∧
  GivesLanes (.vperm t d a b k) s d n k (fun j => x ((lane n (readV s b) j).toNat % L)) ∧
  GivesLanes (.vslide t d a h k) s d n k (fun j =>
    let i := (j : Int) + (readG s h).toInt
    if 0 ≤ i ∧ i < L then x i.toNat else 0) ∧
  (∃ w, Gives (.vins t d g h) s (vResult (slotOf s) d w) ∧ ∀ j, j < L →
    lane n w j = if j = at_ then (readG s g).setWidth n else lane n (readV s d) j) ∧
  Gives (.vext t g a h) s (gResult (slotOf s) g (match T with
    | .int .i8 | .int .i16 | .int .i32 => (x at_).signExtend 64
    | _ => (x at_).setWidth 64))

/-- vred reduces the active lanes: the exact sum, a least or greatest value, bitwise operations, and for floating point the
fixed tree, whose node over the lanes from i on carries tag i; without an active lane the identity (R143). -/
def Claims.Reductions : Prop :=
  ∀ (s : State) (y : LaneInt) (f : FpTy) (r : Rnd) (d : GReg) (a : VReg) (m : Option MReg) (op : RedOp),
  let on (j : Nat) : Bool := laneOn s ⟨m, false⟩ j
  let n := laneIntWidth y
  let sg := laneIntSigned y
  let x (j : Nat) : BitVec n := lane n (readV s a) j
  let js := (List.range (1024 / n)).filter on
  let vals := js.map (fun j => if sg then (x j).toInt else ((x j).toNat : Int))
  let To (w : Word) : Prop := Gives (.vred (some (.int y)) r op d a m) s (gResult (slotOf s) d w)
  let bits (h : Nat → Bool) : Prop := ∃ w : BitVec n, (∀ i, i < n → w.getLsbD i = h i) ∧
    To (if sg then w.signExtend 64 else w.setWidth 64)
  let lo : Int := if sg then -(2 ^ (n - 1)) else 0
  let hi : Int := if sg then 2 ^ (n - 1) - 1 else 2 ^ n - 1
  let w := fpWidth f
  let idn : FpBits := (match op with
    | .fmin => fpMake f false (infMag f)
    | .fmax => fpMake f true (infMag f)
    | _ => fpMake f true 0)
  let node (i : Nat) (p q : FpBits) : FpBits := (match op with
    | .fmin => fpMin f p q
    | .fmax => fpMax f p q
    | _ => fpAdd f r (nanTag s.curCell i) p q)
  (op = .add → To (BitVec.ofInt 64 vals.sum)) ∧
  (op = .min → ∃ v, To (BitVec.ofInt 64 v) ∧ (vals = [] → v = hi) ∧ (vals ≠ [] → v ∈ vals) ∧ ∀ z ∈ vals, v ≤ z) ∧
  (op = .max → ∃ v, To (BitVec.ofInt 64 v) ∧ (vals = [] → v = lo) ∧ (vals ≠ [] → v ∈ vals) ∧ ∀ z ∈ vals, z ≤ v) ∧
  (op = .and → bits (fun i => js.all (fun j => (x j).getLsbD i))) ∧
  (op = .or → bits (fun i => js.any (fun j => (x j).getLsbD i))) ∧
  (op = .xor → bits (fun i => js.countP (fun j => (x j).getLsbD i) % 2 = 1)) ∧
  (op = .fadd ∨ op = .fmin ∨ op = .fmax → ∃ tree : Nat → Nat → FpBits,
    (∀ i, tree 0 i = if on i then (lane w (readV s a) i).setWidth 32 else idn) ∧
    (∀ h i, tree (h + 1) i = node i (tree h i) (tree h (i + 2 ^ h))) ∧
    Gives (.vred (some (.fp f)) r op d a m) s
      (gResult (slotOf s) d (BitVec.ofNat 64 ((tree (if w = 32 then 5 else 6) 0).toNat % 2 ^ w))))

/-- vrigid and vdist2 transform and measure the points of three planes; every source is read before a destination is written
(R150, R151). -/
def Claims.Geometry : Prop := ∀ (s : State) (typed : Bool) (d a b : VReg) (k : MaskSel), a.val + 2 < 64 →
  let e (r : VReg) (j : Nat) : Int := (lane 32 (readV s r) j).toInt
  let tf (j : Nat) : Int := e b j
  let sum (r i : Nat) : Int := tf (3 * r) * e a i + tf (3 * r + 1) * e (a + 1) i + tf (3 * r + 2) * e (a + 2) i + tf (9 + r) * 2 ^ 29
  let dist (i : Nat) : Nat :=
    min ((e a i - tf 0) ^ 2 + (e (a + 1) i - tf 1) ^ 2 + (e (a + 2) i - tf 2) ^ 2).toNat (2 ^ 64 - 1)
  let keep (r : VReg) (j : Nat) : BitVec 32 := if k.z then 0 else lane 32 (readV s r) j
  let d1 : VReg := d + 1
  let d2 : VReg := d + 2
  (d.val + 2 < 64 → ∃ w : Fin 3 → VecWord, Gives (.vrigid typed d a b k) s
    (nextIp { slotOf s with v := (((slotOf s).v.set d (w 0)).set d1.val (w 1) d1.isLt).set d2.val (w 2) d2.isLt }) ∧
    ∀ (r : Fin 3) (i : Nat), i < 32 → ∃ z : ℤ, IntRounded .rne ((sum r.val i : ℚ) / 2 ^ 29) z ∧
      lane 32 (w r) i = if laneOn s k i then BitVec.ofInt 32 (max (-(2 ^ 31)) (min (2 ^ 31 - 1) z))
        else keep (d + Fin.ofNat 64 r.val) i) ∧
  (d.val + 1 < 64 → ∃ w : Fin 2 → VecWord, Gives (.vdist2 typed d a b k) s
    (nextIp { slotOf s with v := ((slotOf s).v.set d (w 0)).set d1.val (w 1) d1.isLt }) ∧
    ∀ (r : Fin 2) (l : Nat), l < 32 → lane 32 (w r) l =
      if laneOn s k (16 * r.val + l / 2) then BitVec.ofNat 32 (dist (16 * r.val + l / 2) / 2 ^ (32 * (l % 2)))
      else keep (d + Fin.ofNat 64 r.val) l)

/-- Lane moves, reductions and geometry: LaneMoves, Reductions and Geometry together. -/
def Obligations.LanesAndGeometry : Prop := Claims.LaneMoves ∧ Claims.Reductions ∧ Claims.Geometry

/-! ## Scheduling (07) -/

/-- A budget that has run out traps at level 0 in place of the next instruction or of the rest of a wait, tip naming it; a handler
limit that has run out traps at level 1 and kills at level 2; the steps are idle before that (R179, R180, R341, R345). -/
def Claims.Budgets : Prop := ∀ (s : State) (c : Nat) (k : Fin 4) (w : Wait),
  let x := slotAt s c k
  let f := focus s c k
  let code : Nat := (match w with
    | .ttake _ _ => 0x101C8
    | .cpwait _ _ _ => 0x101C4
    | .mxwait _ => 0x101CC
    | .bwait _ _ => 0x10146
    | .token _ _ false => 0x20148
    | .token _ _ true => 0x2014A
    | .arrive _ (.barr _) => 0x30144
    | .arrive _ .bsync => 0x30148
    | .arrive _ .bxch => 0x3014A
    | .twait _ => 0x10184
    | .pqwait _ _ => 0x101AE)
  let Enters (i : Instr) (y : Slot) : Prop := ∃ t, exec i s = .next t ∧ slotAt t c k = y ∧ SlotsBut c k s t ∧
    { t with slots := s.slots, curCell := s.curCell, curSlot := s.curSlot } = s
  (x.level = 0 → x.sbudget = 0 → x.run = .run → x.stall = .none → Enters (.budget c k) (enter1 f 8 x.ip 0 0)) ∧
  (x.level = 0 → x.sbudget = 0 → x.run = .wait w → Enters (.budget c k) (enter1 f 8 x.ip 0 (BitVec.ofNat 64 code))) ∧
  (x.level ≠ 0 ∨ x.sbudget ≠ 0 → exec (.budget c k) s = .next s) ∧
  (x.level = 1 → x.limit[0] = 0 → x.run = .run → x.stall = .none → Enters (.handlerLimit c k) (enter2 f 8 x.ip 0 0)) ∧
  (x.level = 2 → x.limit[1] = 0 → x.run = .run → x.stall = .none →
    exec (.handlerLimit c k) s = .next (killActivation f 8 x.ip)) ∧
  (x.level = 0 ∨ x.level = 1 ∧ x.limit[0] ≠ 0 ∨ x.level = 2 ∧ x.limit[1] ≠ 0 → exec (.handlerLimit c k) s = .next s)

/-- Selection starts the runnable source of highest effective priority in the lowest FREE slot: among channels of one priority the
first after the last chosen, the hod last; every source passed over counts, and at 64 passes rises one level; an empty hod is
first refilled from the tail of the ring, whose lines may have to be waited for, and no source is chosen meanwhile; the new
activation has its frame's words in g1-g7, its stack pointer in g62 and zero elsewhere; one whose frame is lost has taken UE at its
first instruction (R27, R167, R171, R173, R175-R177, R340, R414). Without a source the state stays as
it is. The model's choices: a raised level adds to the PRIO of the moment and is gained at 3 too (log 65), the reserved bits of
tarea read 0 beside 2^55 (log 69), a lost frame is known by KIND 15 and reaches its activation as UE (log 28), and a step that is
not enabled leaves the state as it is (log 11). -/
def Claims.Selection : Prop :=
  ∀ (s u w : State) (c : Nat) (k : Fin 4) (ch : Fin 32) (f : Frame) (l : List Frame),
  let x := ccAt s c
  let busy (e : Fin 32) : Prop := ∃ j, (slotAt s c j).run ≠ .free ∧ (slotAt s c j).source = .channel e
  let runs (e : Fin 32) : Prop := x.chans[e].entry.getLsbD 3 = true ∧ x.chans[e].entry.getLsbD 2 = false ∧
    x.chans[e].queue ≠ [] ∧ ¬busy e
  let prio (e : Fin 32) : Nat := min 3 (x.chans[e].entry.toNat % 4 + x.chans[e].raised)
  let hodTop := peekFrame s c
  let hodPrio (g : Frame) : Nat := min 3 (g[0].toNat / 2 ^ 26 % 4 + x.hodRaised)
  let passed (p r : Nat) : Nat × Nat := if p = 63 then (0, min 3 (r + 1)) else (p + 1, r)
  let Started (y : CtxCell) (z : Slot) (src : Source) (g : Frame) : Prop :=
    let area := y.desc.save + BitVec.ofNat 64 (1024 * (4 * c + k.val))
    let lost : Prop := g[0].toNat / 2 ^ 28 % 16 = 15
    let ip : InstrIx := (g[0] >>> 32).setWidth 32
    (¬lost → z.level = 0 ∧ z.sframe = g[0] ∧ z.ip = ip) ∧
    (lost → z.level = 1 ∧ z.ip = y.tvec.setWidth 32 ∧ z.tcause[0] = 0x0D ∧ z.tip[0] = ip.setWidth 64 ∧ z.limit[0] = handlerCycles) ∧
    z.run = .run ∧ z.source = src ∧
    (∀ i : Fin 64, z.g[i] = if h : 1 ≤ i.val ∧ i.val ≤ 7 then g[i.val]'(by omega) else if i = 62 then y.sstk[k] else 0) ∧
    (∀ i : Fin 64, z.v[i] = 0) ∧ (∀ i : Fin 8, z.p[i] = false ∧ z.m[i] = 0) ∧
    z.sbudget = (if y.budget = 0 then 0x400000 else y.budget) ∧ z.sctl = y.sdctl ∧ z.release = [] ∧ z.sinceIssue = none ∧ z.joins = [] ∧
    z.pend = none ∧ z.stall = .none ∧ z.tarea[0] = area &&& 0x7FFFFFFFFFFE00 ∧ z.tarea[1] = (area + 512) &&& 0x7FFFFFFFFFFE00
  let Passes (y : CtxCell) : Prop := ∀ e, e ≠ ch → runs e → y.chans[e] = { x.chans[e] with
    pass := (passed x.chans[e].pass x.chans[e].raised).1, raised := (passed x.chans[e].pass x.chans[e].raised).2 }
  let Stays (y : CtxCell) : Prop := ∀ e, ¬runs e → y.chans[e] = x.chans[e]
  let FromHod (v : State) (y : CtxCell) : Prop := (∀ e, runs e → prio e < hodPrio f) →
    ∃ t, exec (.selection c) s = .next t ∧ SlotsBut c k s t ∧ OtherCells c s t ∧
      { t with slots := v.slots, cells := v.cells } = v ∧ { cellAt t c with cc := x } = cellAt s c ∧
      Started (ccAt t c) (slotAt t c k) .hod f ∧ (ccAt t c).hod = l ∧ (ccAt t c).hodPass = 0 ∧ (ccAt t c).hodRaised = 0 ∧
      (∀ e, runs e → (ccAt t c).chans[e] = { x.chans[e] with
        pass := (passed x.chans[e].pass x.chans[e].raised).1, raised := (passed x.chans[e].pass x.chans[e].raised).2 }) ∧
      Stays (ccAt t c) ∧ { ccAt t c with chans := x.chans, hod := x.hod, hodPass := x.hodPass, hodRaised := x.hodRaised } = y
  let n := min 32 x.ringCount
  let tail := ringLines s c false (x.ringCount - n) n
  (cellAt s c).live = true → (cellAt s c).closed = false → (slotAt s c k).run = .free → (∀ j, j < k → (slotAt s c j).run ≠ .free) →
    (runs ch → x.chans[ch].queue = f :: l → (∀ g, hodTop = some g → hodPrio g ≤ prio ch) →
      (∀ e, runs e → e ≠ ch → prio e < prio ch ∨ prio e = prio ch ∧ (ch - (x.lastChan + 1)).val < (e - (x.lastChan + 1)).val) →
      x.hod ≠ [] ∨ x.ringCount = 0 ∨ tail = .ok u →
      ∃ t g, exec (.selection c) s = .next t ∧ SlotsBut c k s t ∧ OtherCells c s t ∧
        { t with slots := s.slots, cells := s.cells } = s ∧
        Started (ccAt t c) (slotAt t c k) (.channel ch) g ∧
        (ch = 30 → g = f) ∧ (ch ≠ 30 → (∀ i : Fin 8, i ≠ 0 → g[i] = f[i]) ∧ g[0].toNat / 2 ^ 32 = x.chans[ch].entry.toNat / 2 ^ 32 ∧
          g[0].toNat / 2 ^ 28 % 16 = (if f[0].toNat / 2 ^ 28 % 16 = 15 then 15 else 1) ∧
          g[0].toNat / 2 ^ 26 % 4 = x.chans[ch].entry.toNat % 4 ∧
          g[0].toNat % 2 ^ 26 = f[0].toNat % 2 ^ 26) ∧
        (ccAt t c).lastChan = ch ∧ (ccAt t c).chans[ch] = { x.chans[ch] with queue := l, pass := 0, raised := 0 } ∧ Passes (ccAt t c) ∧
        Stays (ccAt t c) ∧ (hodTop.isSome = true → ((ccAt t c).hodPass, (ccAt t c).hodRaised) = passed x.hodPass x.hodRaised) ∧
        (hodTop = none → (ccAt t c).hodPass = x.hodPass ∧ (ccAt t c).hodRaised = x.hodRaised) ∧
        { cellAt t c with cc := x } = cellAt s c ∧
        { ccAt t c with chans := x.chans, lastChan := x.lastChan, hodPass := x.hodPass, hodRaised := x.hodRaised } = x) ∧
    (x.hod = l ++ [f] → FromHod s x) ∧
    (x.hod = [] → x.ringCount ≠ 0 → tail = .ok u → OnlyMemory s u ∧ SameBytes s u ∧
      ((List.range n).map (fun i => physFrame u (physOf s c / 256) (ringAddr x ((x.ringHead + (x.ringCount - n) + i) % ringCap x))) = l ++ [f] →
        FromHod u { x with ringCount := x.ringCount - n })) ∧
    (x.hod = [] → x.ringCount ≠ 0 → tail = .error w → exec (.selection c) s = .next w ∧
      OnlyMemory s w ∧ SameBytes s w) ∧
    (x.hod = [] → x.ringCount = 0 → (∀ e, ¬runs e) → exec (.selection c) s = .next s)

/-- Budgets and selection: Budgets and Selection together. -/
def Obligations.Scheduling : Prop := Claims.Budgets ∧ Claims.Selection

/-- A steal: a request from a cell with nothing to do to a cell of its domain, the victim's oldest frame or EMPTY, the frame
installed at the bottom of the thief's hod or kept, and the domain's widening on failures; what goes from one die to another goes
by a lath and takes effect once it has arrived; a push on a full hod moves the 32 oldest frames, or as many as fit, to the tail of
the ring (R165, R166, R168-R170, R192, R202, R377). The model's choices: an EMPTY of a domain left since then does not count
(log 33), what a ring frame of a poisoned sector reads is left open (log 28), a step that is not enabled leaves the state as it is (log 11). -/
def Claims.Steals : Prop := ∀ (s u w : State) (a b : Nat) (d : BitVec 2) (f : Frame) (l : List Frame) (via : Transit),
  let A := cellAt s a
  let B := cellAt s b
  let x := A.cc
  let p := physOf s a
  let q := physOf s b
  let near : Prop := x.domain = 0 ∧ p / 8 = q / 8 ∨ x.domain = 1 ∧ p / 256 = q / 256 ∨ 2 ≤ x.domain.toNat
  let n := min 15 (x.fails.toNat + 1)
  let y : CtxCell := if x.domain = 0 ∧ 2 ≤ n ∧ 0 < x.widest.toNat then { x with domain := 1, fails := 0 }
    else if x.domain = 1 ∧ 4 ≤ n ∧ 1 < x.widest.toNat then { x with domain := 2, fails := 0 }
    else { x with fails := BitVec.ofNat 4 n }
  let failed : Cell := { A with
    cc := y
    steal := .idle
    stealWait := if y.widest ≤ y.domain ∧ y.fails ≠ 0 then min 4096 (64 * 2 ^ (y.fails.toNat - 1)) else 0 }
  let Two (i : Instr) (v : State) (A' B' : Cell) : Prop := ∃ t, exec i s = .next t ∧ cellAt t a = A' ∧ cellAt t b = B' ∧
    (∀ e, e ≠ a → e ≠ b → cellAt t e = cellAt s e) ∧ { t with cells := v.cells } = sendMessage v (q / 256) (p / 256)
  let back (v : State) : Transit := nextTransit v (q / 256) (p / 256)
  let oldest := ringLines s b false 0 1
  let empty : Prop := ∃ t, exec (.stealClaim a) s = .next t ∧ cellAt t a = { A with steal := .empty d (back s) } ∧
    OtherCells a s t ∧ { t with cells := s.cells } = sendMessage s (q / 256) (p / 256)
  let g := stolenFrame s a b f
  let idle := setSteal s a .idle
  let k := min 32 (ringCap x - x.ringCount)
  let place (i : Nat) := ringAddr x ((x.ringHead + x.ringCount + i) % ringCap x)
  let moved := ringLines idle a true x.ringCount k
  let placed : Prop := ∀ i j, i < j → j < k → place i + 64 ≤ place j ∨ place j + 64 ≤ place i
  (A.steal = .idle → mayStealNow s a = true → domainHasOther s a = true → b < cellCount s → b ≠ a → near →
    ∃ t, exec (.stealRequest a b) s = .next t ∧
      cellAt t a = { A with steal := .asked b x.domain (nextTransit s (p / 256) (q / 256)) } ∧ OtherCells a s t ∧
      { t with cells := s.cells } = sendMessage s (p / 256) (q / 256)) ∧
  (A.steal = .idle → mayStealNow s a = true → domainHasOther s a = false → GivesCell (.stealRequest a b) s a failed) ∧
  (A.steal = .idle → mayStealNow s a = false → exec (.stealRequest a b) s = .next s) ∧
  (mayStealNow s a = true → A.live = true ∧ (∃ k, (slotAt s a k).run = .free) ∧ x.hod = [] ∧ x.ringCount = 0) ∧
  (A.steal = .asked b d via ∨ A.steal = .empty d via ∨ A.steal = .claimed b f via → arrived s via = false →
    exec (.stealClaim a) s = .next s ∧ exec (.stealEmpty a) s = .next s ∧ exec (.stealInstall a) s = .next s) ∧
  (b ≠ a → A.steal = .asked b d via → arrived s via = true → B.live = true → B.cc.desc.ctxid = x.desc.ctxid →
    (B.cc.ringCount = 0 → B.cc.hod = f :: l →
      Two (.stealClaim a) s { A with steal := .claimed b f (back s) } { B with cc := { B.cc with hod := l } }) ∧
    (B.cc.ringCount ≠ 0 → oldest = .ok u → OnlyMemory s u ∧ SameBytes s u ∧
      Two (.stealClaim a) u { A with steal := .claimed b (physFrame u (q / 256) (ringAddr B.cc B.cc.ringHead)) (back u) }
      { B with cc := { B.cc with ringHead := (B.cc.ringHead + 1) % ringCap B.cc, ringCount := B.cc.ringCount - 1 } }) ∧
    (B.cc.ringCount ≠ 0 → oldest = .error w → exec (.stealClaim a) s = .next w ∧ OnlyMemory s w ∧ SameBytes s w) ∧
    (B.cc.ringCount = 0 → B.cc.hod = [] → empty)) ∧
  (A.steal = .asked b d via → arrived s via = true → B.live = false ∨ B.cc.desc.ctxid ≠ x.desc.ctxid → empty) ∧
  (A.steal = .empty d via → arrived s via = true →
    GivesCell (.stealEmpty a) s a (if x.domain = d then failed else { A with steal := .idle })) ∧
  (A.steal = .claimed b f via → arrived s via = true → A.committing = none → A.installs = [] →
    (x.hod.length < 64 → GivesCell (.stealInstall a) s a { A with steal := .idle, cc := withWork { x with hod := x.hod ++ [g] } }) ∧
    (64 ≤ x.hod.length → k = 0 → GivesCell (.stealInstall a) s a { A with steal := .idle, installs := [g] }) ∧
    (64 ≤ x.hod.length → k ≠ 0 → moved = .error w → OnlyMemory idle w ∧ SameBytes s w ∧ ∃ t, exec (.stealInstall a) s = .next t ∧
      cellAt t a = { A with steal := .idle, installs := [g] } ∧ OtherCells a s t ∧ { t with cells := w.cells } = w) ∧
    (64 ≤ x.hod.length → k ≠ 0 → moved = .ok u → placed → ∃ t, exec (.stealInstall a) s = .next t ∧ OtherCells a s t ∧
      OnlyMemory s { t with cells := s.cells } ∧
      cellAt t a = { A with
        steal := .idle, cc := withWork { x with hod := x.hod.drop k ++ [g], ringCount := x.ringCount + k } } ∧
      (∀ i, i < k → physBytes t (place i) 64 = (x.hod.getD i g).toList.flatMap (fun w => bytesOf w.toNat 8)) ∧
      ∀ e, (∀ i, i < k → e < place i ∨ place i + 64 ≤ e) → physByte t e = physByte s e)) ∧
  (A.steal = .claimed b f via → arrived s via = true → A.committing ≠ none ∨ A.installs ≠ [] →
    GivesCell (.stealInstall a) s a { A with steal := .idle, installs := A.installs ++ [g] }) ∧
  (A.installs = f :: l → A.committing = none → x.hod.length < 64 →
    GivesCell (.installBufferDrain a) s a { A with installs := l, cc := withWork { x with hod := x.hod ++ [f] } }) ∧
  (A.installs = [] ∨ A.committing ≠ none → exec (.installBufferDrain a) s = .next s) ∧
  (∀ i : Fin 8, i ≠ 0 → g[i] = f[i]) ∧ g[0].toNat / 2 ^ 22 % 8 =
    max (min 4 (f[0].toNat / 2 ^ 22 % 8)) (scopeCode (spanScope s (s.plat.pkg.toNat * 1024 + b) (s.plat.pkg.toNat * 1024 + a)))

/-- A frame of a port reaches its cell's channel, in a resident or a saved context, while fewer than eight wait there and is refused
otherwise, also by a fenced die; frame and refusal go by a lath from die to die and act once they have arrived; a refused frame
waits, its wait doubling from 32 to 2048 cycles, and holds back those behind it; a frame that no cell can take is dropped and
counted once for the context that sent it, wherever that stands, and in a part that ran it on that cell; frames leave for the peer's fabric address by a port die that the
die reaches by one lath at most, once they have come there; frames of peers and page-service requests arrive alike, and a refused page-service request waits and holds back those
behind it; a commit goes on once the port has room (R13, R159, R170-R172, R350, R362, R389, R399, R401). The model's choices: SCOPE .sys in
a peer's frame (log 51), a page-service request goes to the faulting context on its cell (log 67), what another package answers
(log 56), and a step that is not enabled leaves the state as it is (log 11). -/
def Claims.MessageDelivery : Prop :=
  ∀ (s : State) (a e i n : Nat) (ch : Fin 32) (m : OutMsg) (k : Fin 4) (h : Frame) (w : PsvcMsg) (fabric : Word)
    (y : Image) (xs zs : List Image),
  let A := cellAt s a
  let d := e % 1024
  let here := physOf s a / 256
  let h0 := Fin.ofNat 4 here
  let way (p : Fin 4) : Bool := s.plat.portUp.getLsbD p.val && s.plat.ethUp.toNat / 16 ^ (p.val % 2) % 16 != 0
  let aside (b : Bool) : Bool := s.dies.links[linkOut h0 b].up && way (linkTo (linkOut h0 b))
  let there := if e / 1024 = s.plat.pkg.toNat then physOf s d / 256 else if way h0 then h0.val
    else if aside true then (linkTo (linkOut h0 true)).val else if aside false then (linkTo (linkOut h0 false)).val else here
  let local_ : Prop := e / 1024 = s.plat.pkg.toNat
  let first : Prop := A.port[i]? = some m ∧ m.flat.toNat = e ∧ m.chan = ch ∧
    ∀ j m', j < i → A.port[j]? = some m' → ¬(m'.flat.toNat = e ∧ m'.chan = ch)
  let up (c : Nat) : Prop := c < cellCount s ∧ dieGone s (physOf s c / 256) = false
  let resident (c : Nat) (id : BitVec 16) : Prop := (cellAt s c).live = true ∧ (ccAt s c).desc.ctxid = id
  let imageOf (c : Nat) (id : BitVec 16) (z : Image) : Prop := z.phys = physOf s c ∧ z.cc.desc.ctxid = id
  let saved (c : Nat) (id : BitVec 16) : Prop := ¬resident c id ∧ s.images = xs ++ y :: zs ∧ imageOf c id y ∧ ∀ z ∈ xs, ¬imageOf c id z
  let nowhere (c : Nat) (id : BitVec 16) : Prop := cellCount s ≤ c ∨ up c ∧ ¬resident c id ∧ ∀ z ∈ s.images, ¬imageOf c id z
  let queued (x : CtxCell) (ch : Fin 32) (f : Frame) : CtxCell :=
    { x with chans := x.chans.set ch { x.chans[ch] with queue := x.chans[ch].queue ++ [f] } }
  let push (x : CtxCell) (ch : Fin 32) (f : Frame) : CtxCell :=
    if x.chans[ch].entry.getLsbD 3 ∧ x.chans[ch].entry.getLsbD 2 = false then withWork (queued x ch f) else queued x ch f
  let room (x : CtxCell) (ch : Fin 32) : Prop := x.chans[ch].queue.length < 8
  let refuses : Prop := d < cellCount s ∧
    (dieGone s (physOf s d / 256) = true ∨ resident d m.ctxid ∧ ¬room (ccAt s d) ch ∨ saved d m.ctxid ∧ ¬room y.cc ch)
  let op : Instr := .messageArrival (.port a e ch)
  let ref : Instr := .frameRefused a e ch false
  let Port (i : Instr) (l : List OutMsg) : Prop := GivesCell i s a { A with port := l }
  let Sends (i : Instr) (d1 d2 : Nat) (l : List OutMsg) : Prop := ∃ t, exec i s = .next t ∧ cellAt t a = { A with port := l } ∧
    OtherCells a s t ∧ { t with cells := s.cells } = sendMessage s d1 d2
  let marked (z : PortState) (n : Nat) : List OutMsg := A.port.set i { m with state := z, backoff := n }
  let counted (x : CtxCell) : CtxCell := { x with undeliv := x.undeliv + 1 }
  let ran (p : Part) : Prop := (p.stage = .admitted ∨ p.stage = .running) ∧ p.ctxid = some m.ctxid ∧ inPart s p a = true
  let oneMore (p : Part) : Part := { p with carried := (p.carried.1, p.carried.2.1, p.carried.2.2 + 1) }
  let Dropped (op : Instr) : Prop := ∃ t, exec op s = .next t ∧ (cellAt t a).port = A.port.eraseIdx i ∧
    (resident a m.ctxid → GivesCell op s a { A with port := A.port.eraseIdx i, cc := counted A.cc }) ∧
    (saved a m.ctxid → cellAt t a = { A with port := A.port.eraseIdx i } ∧ OtherCells a s t ∧
      { t with cells := s.cells, images := s.images } = s ∧ t.images = xs ++ { y with cc := counted y.cc } :: zs) ∧
    (¬resident a m.ctxid → (∀ z ∈ s.images, ¬imageOf a m.ctxid z) → (∃ p ∈ s.host.parts, ran p) →
      cellAt t a = { A with port := A.port.eraseIdx i } ∧ OtherCells a s t ∧
      { t with cells := s.cells, host := { t.host with parts := s.host.parts } } = s ∧
      t.host.parts = s.host.parts.map (fun p => if ran p then oneMore p else p)) ∧
    (¬resident a m.ctxid → (∀ z ∈ s.images, ¬imageOf a m.ctxid z) → (∀ p ∈ s.host.parts, ¬ran p) →
      (∀ c, c ≠ a → resident c m.ctxid → ∃ b, b ≠ a ∧ resident b m.ctxid ∧ ∀ c,
        cellAt t c = { cellAt s c with
          port := if c = a then A.port.eraseIdx i else (cellAt s c).port
          cc := if c = b then counted (ccAt s c) else ccAt s c }) ∧
      ((∀ c, ¬resident c m.ctxid) → cellAt t a = { A with port := A.port.eraseIdx i } ∧ OtherCells a s t ∧
        (s.images = xs ++ y :: zs → y.cc.desc.ctxid = m.ctxid → (∀ z ∈ xs, z.cc.desc.ctxid ≠ m.ctxid) →
          { t with cells := s.cells, images := s.images } = s ∧ t.images = xs ++ { y with cc := counted y.cc } :: zs) ∧
        ((∀ z ∈ s.images, z.cc.desc.ctxid ≠ m.ctxid) → { t with cells := s.cells, host := { t.host with parts := s.host.parts } } = s ∧
          t.host.parts = s.host.parts.map (fun p => if p.ctxid = some m.ctxid then oneMore p else p))))
  let reaches : Prop := way h0 = true ∨ aside true = true ∨ aside false = true
  let heard : Prop := ∃ p, way p = true
  let h' := putBits (putBits h[0] 31 28 1) 24 22 4
  let pfirst : Prop := s.scrim.psvcs[i]? = some w ∧
    ∀ j w', j < i → s.scrim.psvcs[j]? = some w' → ¬(w'.die = w.die ∧ w'.cell = w.cell ∧ w'.chan = w.chan)
  let ps : Instr := .messageArrival (.pageService i)
  let Psvcs (v : State) (l : List PsvcMsg) : Prop := ∃ t, exec ps s = .next t ∧
    { t with scrim := { t.scrim with psvcs := s.scrim.psvcs } } = v ∧ t.scrim.psvcs = l
  (first → m.state = .queued → local_ → arrived s m.via = false → exec op s = .next s) ∧
  (first → m.state = .queued → local_ → arrived s m.via = true →
    (up d → resident d m.ctxid → room (ccAt s d) ch → ∃ t, exec op s = .next t ∧
      (∀ c, cellAt t c = { cellAt s c with
        port := if c = a then A.port.eraseIdx i else (cellAt s c).port
        cc := if c = d then push (ccAt s c) ch m.frame else ccAt s c }) ∧ { t with cells := s.cells } = s) ∧
    (up d → saved d m.ctxid → room y.cc ch → ∃ t, exec op s = .next t ∧ cellAt t a = { A with port := A.port.eraseIdx i } ∧
      OtherCells a s t ∧ { t with cells := s.cells, images := s.images } = s ∧
      t.images = xs ++ { y with cc := queued y.cc ch m.frame } :: zs) ∧
    (refuses → Sends op there here (A.port.set i { m with state := .refused, via := nextTransit s there here })) ∧
    (nowhere d m.ctxid → Dropped op)) ∧
  (first → m.state = .refused → arrived s m.via = true → Port ref (marked (.waiting m.backoff) (min 2048 (2 * m.backoff)))) ∧
  (first → m.state = .refused → arrived s m.via = false → exec ref s = .next s) ∧
  (first → m.state = .waiting 0 →
    Sends (.outboundRetry a e ch) here there (A.port.set i { m with state := .queued, via := nextTransit s here there })) ∧
  (first → (∃ n, m.state = .waiting (n + 1)) → exec (.outboundRetry a e ch) s = .next s ∧ exec op s = .next s) ∧
  (first → m.state = .queued → ¬local_ → tabFind s.host.peers (e / 1024) = none → Dropped op) ∧
  (first → m.state = .queued → ¬local_ → tabFind s.host.peers (e / 1024) = some fabric → arrived s m.via = true → reaches → ∃ t,
    exec op s = .next t ∧ cellAt t a = { A with port := A.port.eraseIdx i } ∧ OtherCells a s t ∧
    { t with cells := s.cells, host := { t.host with sent := s.host.sent } } = s ∧
    t.host.sent = s.host.sent ++ [.frame fabric m.flat ch m.ctxid m.frame]) ∧
  (first → m.state = .queued → ¬local_ → tabFind s.host.peers (e / 1024) = some fabric → arrived s m.via = false ∨ ¬reaches →
    exec op s = .next s) ∧
  (first → m.state = .queued → ¬local_ → Dropped (.frameRefused a e ch true) ∧
    Port ref (marked (.waiting m.backoff) (min 2048 (2 * m.backoff)))) ∧
  (¬heard → exec (.messageArrival (.peer e ch m.ctxid h)) s = .next s) ∧
  (local_ → heard → ch.val < 30 → up d → resident d m.ctxid → room (ccAt s d) ch → GivesCell (.messageArrival (.peer e ch m.ctxid h)) s d
    { cellAt s d with cc := push (ccAt s d) ch (h.set 0 h') }) ∧
  (local_ → heard → ch.val < 30 → up d → saved d m.ctxid → room y.cc ch → ∃ t, exec (.messageArrival (.peer e ch m.ctxid h)) s = .next t ∧
    { t with images := s.images } = s ∧ t.images = xs ++ { y with cc := queued y.cc ch (h.set 0 h') } :: zs) ∧
  (local_ → heard → ch.val < 30 → refuses ∨ nowhere d m.ctxid → ∃ t,
    exec (.messageArrival (.peer e ch m.ctxid h)) s = .next t ∧ { t with host := { t.host with sent := s.host.sent } } = s ∧
    (refuses → t.host.sent = s.host.sent ++ [.refusal e ch m.ctxid]) ∧
    (nowhere d m.ctxid → t.host.sent = s.host.sent ++ [.undeliverable e m.ctxid])) ∧
  (pfirst → w.state = .queued → arrived s w.via = true →
    (up w.cell → resident w.cell w.ctxid → room (ccAt s w.cell) w.chan → ∃ t, exec ps s = .next t ∧
      cellAt t w.cell = { cellAt s w.cell with cc := push (ccAt s w.cell) w.chan w.frame } ∧ OtherCells w.cell s t ∧
      { t with cells := s.cells, scrim := { t.scrim with psvcs := s.scrim.psvcs } } = s ∧
      t.scrim.psvcs = s.scrim.psvcs.eraseIdx i) ∧
    (up w.cell → resident w.cell w.ctxid → ¬room (ccAt s w.cell) w.chan →
      Psvcs s (s.scrim.psvcs.set i { w with state := .waiting w.backoff, backoff := min 2048 (2 * w.backoff) })) ∧
    (nowhere w.cell w.ctxid → Psvcs s (s.scrim.psvcs.eraseIdx i))) ∧
  (pfirst → w.state = .waiting 0 → Psvcs (sendMessage s w.die (physOf s w.cell / 256))
    (s.scrim.psvcs.set i { w with state := .queued, via := nextTransit s w.die (physOf s w.cell / 256) })) ∧
  (s.scrim.psvcs[i]? = some w → ¬pfirst ∨ w.state = .waiting (n + 1) ∨ w.state = .queued ∧ arrived s w.via = false →
    exec ps s = .next s) ∧
  (h'.toNat / 2 ^ 22 % 8 = 4 ∧ h'.toNat / 2 ^ 28 = 16 * (h[0].toNat / 2 ^ 32) + 1) ∧
  (let x := slotAt s a k
   let f := m.frame
   let wide := max (min 4 (f[0].toNat / 2 ^ 22 % 8)) (scopeCode (spanScope s (s.plat.pkg.toNat * 1024 + a) m.flat.toNat))
   let sent : OutMsg := ⟨m.flat, ch, A.cc.desc.ctxid, f.set 0 (headerAt f[0] 1 wide A.cc.frameCtr.toNat), .queued, 32,
     nextTransit s here there⟩
   m.flat.toNat = e → x.run = .commit → x.joins = [] → x.release = [.send m.flat ch f] → A.preempt = none → A.port.length < 64 → ∃ t,
     exec (.sendHandoff a k) s = .next t ∧ slotAt t a k = freed x ∧ SlotsBut a k s t ∧ OtherCells a s t ∧
     { t with slots := s.slots, cells := s.cells, curCell := s.curCell, curSlot := s.curSlot } = sendMessage s here there ∧
     cellAt t a = { A with port := A.port ++ [sent], committing := none, cc := { A.cc with frameCtr := A.cc.frameCtr + 1 } })

/-- Stealing work and delivering messages: Steals and MessageDelivery together. -/
def Obligations.FrameTransport : Prop := Claims.Steals ∧ Claims.MessageDelivery

/-- A pre-emption request closes a cell without an activation at once; a save needs a closed and quiet cell and a way 15 free of
lines (`held` names those that stand there) and of other images, the oldest of the die being spilled while one is in the way, then writes its context to an image and
frees the cell; a restore is refused without a fitting image, is queued, and loads the image into a free cell of a die that is not
fenced, once no frozen stack and no lath that is down is in its way and the pages of a system context's ring are walked, what the
image had counted staying with the parts that it leaves; both requests, and a restore that is queued, wait for a dispatcher that is
being swapped (R182, R220, R359-R363, R373, R377, R399, R408). The model's choices: a restore on a fenced die waits
(log 50), a system image's barriers are unset on every restore (log 22), what an image keeps beyond the spec's list (log 68), which line stands in way 15 (log 19), and
a step that is not enabled leaves the state as it is (log 11). -/
def Obligations.SavesAndRestores : Prop :=
  ∀ (s u : State) (c ph : Nat) (held : List Nat) (id : BitVec 16) (r : RestoreReq) (l : List RestoreReq) (im : Image),
  let A := cellAt s c
  let die := physOf s c / 256
  let ready : Prop := (s.plat.controllers[2 + (Fin.ofNat 4 die).val]).state = .running
  let resident : Prop := A.live = true ∧ A.cc.desc.ctxid = id
  let blocked : Prop := A.live = false ∨ A.closed = false ∨ (∃ k, (slotAt s c k).run ≠ .free) ∨ A.installs ≠ [] ∨
    A.committing ≠ none ∨ (∃ v f via, A.steal = .claimed v f via) ∨ A.cc.mxu.queue ≠ [] ∨ inFlight s c ≠ 0 ∨ (∃ m ∈ s.stxs, m.cell = c) ∨
    ∃ ch : Fin 2, A.cc.cch[ch].queue ≠ [] ∧ A.cc.cch[ch].error = false ∧ (A.cc.cch[ch].paused = false ∨ A.cc.desc.sys = true)
  let saved : Cell := { A with
    live := false, cc := CtxCell.blank, preempt := none, closed := false, steal := .idle, stealWait := 0 }
  let fits (r : RestoreReq) (im : Image) : Prop := s.images.find? (fun x => x.phys = r.image ∧ x.cc.desc.ctxid = r.ctxid) = some im ∧
    (im.cc.desc.sys = true ∨ im.phys = physOf s c) ∧ ¬(A.live = true ∧ A.cc.desc.ctxid = r.ctxid)
  let mine : Image := ⟨physOf s c, A.cc, false⟩
  let inWay (x : Image) : Prop := x.spilled = false ∧ x.phys / 256 = die
  let place (x : Image) : Nat := x.cc.desc.spill + 2 ^ 21 * x.phys
  let moved (x : Image) : Prop := x.spilled = true ∨ x.phys ≠ physOf s c
  let away (d line : Nat) : Prop := trueHome s line ≠ d ∧ nextLink s (Fin.ofNat 4 d) (Fin.ofNat 4 (trueHome s line)) = none
  let shut (d : Nat) (im : Image) : Prop := lineHeld s d (place im / 128) = true ∨ away d (place im / 128)
  let waits (im : Image) : Prop := moved im ∧ (shut die im ∨ im.spilled = false ∧ shut (im.phys / 256) im)
  let other (im : Image) (p : Part) : Prop := (p.stage = .admitted ∨ p.stage = .running) ∧ p.ctxid = some im.cc.desc.ctxid ∧
    inPart s p (logicalOf s im.phys) ≠ inPart s p c
  let more (x : Nat × Nat × Nat) (im : Image) : Nat × Nat × Nat := (x.1 + im.cc.aborts, x.2.1 + im.cc.kills, x.2.2 + im.cc.undeliv)
  let Queued (i : Instr) (q : DispatchReq) : Prop := exec i s = .next { s with host := { s.host with requests := s.host.requests ++ [q] } }
  (ready → resident → (∀ k, (slotAt s c k).run = .free) →
    GivesCell (.preemptRequest c id) s c { A with preempt := some id, closed := true }) ∧
  (ready → resident → (∃ k, (slotAt s c k).run ≠ .free) → GivesCell (.preemptRequest c id) s c { A with preempt := some id }) ∧
  (ready → ¬resident → exec (.preemptRequest c id) s = .next s) ∧
  (¬ready → Queued (.preemptRequest c id) (.preempt c id) ∧ Queued (.restoreRequest c id ph) (.restore c id ph)) ∧
  (blocked → exec (.contextSave c held) s = .next s) ∧
  (¬blocked → roomForImage s die mine held = none → exec (.contextSave c held) s = .next s) ∧
  (¬blocked → roomForImage s die mine held = some u → ∃ t, exec (.contextSave c held) s = .next t ∧ cellAt t c = saved ∧ OtherCells c s t ∧
    OnlyMemory s { t with cells := s.cells, images := s.images } ∧ t.images = u.images ++ [mine] ∧
    (∀ a, physByte t a ≠ physByte s a → ∃ x ∈ s.images, inWay x ∧ place x ≤ a ∧ a < place x + (163136 + padSize x.cc)) ∧
    u.images.map (fun x => { x with spilled := false }) = s.images.map (fun x => { x with spilled := false }) ∧
    (∀ i : Nat, ∀ x y, s.images[i]? = some x → u.images[i]? = some y → x = y ∨ inWay x ∧ y.spilled = true) ∧
    ((∀ x ∈ s.images, inWay x → waysClash s die x mine = false) → u.images = s.images) ∧
    (∀ x ∈ u.images, inWay x → waysClash s die x mine = false) ∧
    ∀ xs x zs, s.images = xs ++ x :: zs → (∀ y ∈ xs, ¬inWay y) → inWay x → u.images ≠ s.images →
      u.images[xs.length]? = some { x with spilled := true }) ∧
  (ready → fits ⟨id, ph⟩ im → GivesCell (.restoreRequest c id ph) s c { A with restores := A.restores ++ [⟨id, ph⟩] }) ∧
  (ready → (∀ im, ¬fits ⟨id, ph⟩ im) → exec (.restoreRequest c id ph) s = .next s) ∧
  (A.restores = r :: l → A.live = true ∨ dieGone s die = true ∨ ¬ready → exec (.contextRestore c) s = .next s) ∧
  (A.restores = r :: l → A.live = false → dieGone s die = false → ready →
    ((∀ im, ¬fits r im) → GivesCell (.contextRestore c) s c { A with restores := l }) ∧
    (fits r im → waits im → exec (.contextRestore c) s = .next s) ∧
    (fits r im → ¬waits im → walkRing s c im = .error u → exec (.contextRestore c) s = .next u ∧ OnlyMemory s u ∧ SameBytes s u) ∧
    (fits r im → ¬waits im → walkRing s c im = .ok u → ∃ t, exec (.contextRestore c) s = .next t ∧ OtherCells c s t ∧
      OnlyMemory s { t with cells := s.cells, images := s.images, host := { t.host with parts := s.host.parts } } ∧
      t.host.parts = s.host.parts.map (fun p => if ¬other im p then p
        else if inPart s p (logicalOf s im.phys) = true then { p with carried := more p.carried im } else { p with base := more p.base im }) ∧
      (∀ a, physByte t a ≠ physByte s a → im.spilled = false ∧ im.phys ≠ physOf s c ∧ place im ≤ a ∧ a < place im + (163136 + padSize im.cc)) ∧
      (∀ x, x ∈ t.images ↔ x ∈ s.images ∧ ¬(x.phys = im.phys ∧ x.cc.desc.ctxid = im.cc.desc.ctxid)) ∧
      { cellAt t c with cc := A.cc } = { A with live := true, restores := l, closed := false, preempt := none } ∧
      (¬moved im → (ccAt t c).desc = im.cc.desc) ∧
      (let loaded : CtxCell := { im.cc with
        cch := im.cc.cch.map (fun q => { q with paused := false })
        mxu := { im.cc.mxu with narrow := cellAlarm s c, paused := none } }
       ((ccAt t c).desc.sys = false → { ccAt t c with desc := im.cc.desc } = loaded) ∧
       ((ccAt t c).desc.sys = true → (ccAt t c).barriers = [] ∧
         { ccAt t c with desc := im.cc.desc, barriers := loaded.barriers, ringPages := loaded.ringPages } = loaded))))

/-- A post merges into the entry of its context and page or takes a free one of 64, which ends the fpost, else waits and is sent again; a new kind goes on
to the root of the die, a new entry there makes one request to the page server, by a lath to another die; a wake frees the entry
once it has arrived, goes to its children and marks the PEND of its key, restarts or stops a copy channel, lets a TFU that waits for its page
walk again or puts it in error
(R283, R296, R349-R351, R357). -/
def Obligations.PostsAndWakes : Prop := ∀ (s : State) (i : Nat) (m : PostMsg) (w : WakeMsg) (z : AgentWake) (e : ScrimEntry),
  let l := tabGet [] s.scrim.routers m.router
  let key (x : ScrimEntry) : Prop := x.ctxid = m.ctxid ∧ x.page = m.page
  let root : Prop := m.router % 33 = 32
  let bit : BitVec 3 := (match m.kind with
    | .read => 1
    | .write => 2
    | .exec => 4)
  let posts := s.scrim.posts.eraseIdx i
  let up : PostMsg := { m with router := m.router / 33 * 33 + 32, child := .cluster (m.router % 33), wait := none, backoff := 32 }
  let server := m.psvc.toNat / 32 % 1024
  let request : PsvcMsg := ⟨m.router / 33, server, Fin.ofNat 32 m.psvc.toNat, m.ctxid,
    #v[0x10C00000, 0, BitVec.ofNat 64 (m.page.toNat * 2 ^ 16), BitVec.ofNat 64 (m.ctxid.toNat * 2 ^ 48 + bit.toNat),
       BitVec.ofNat 64 (m.router / 33), 0, 0, 0], .queued, 32, nextTransit s (m.router / 33) (physOf s server / 256)⟩
  let merged : ScrimEntry := { e with
    kinds := e.kinds ||| bit, children := if m.child ∈ e.children then e.children else e.children ++ [m.child] }
  let Up (i : Instr) (v : State) (taken : Bool) (es : List ScrimEntry) (ps : List PostMsg) (qs : List PsvcMsg) : Prop := ∃ t,
    exec i s = .next t ∧ { t with scrim := v.scrim, slots := v.slots } = v ∧ (∀ c k, slotAt t c k =
      if taken = true ∧ m.child = .agent (.slot c k) ∧ (slotAt s c k).stall = .fpost false then
        { slotAt s c k with stall := .fpost true } else slotAt s c k) ∧ { t.scrim with routers := s.scrim.routers, posts := s.scrim.posts, psvcs := s.scrim.psvcs } = s.scrim ∧
    (∀ r, tabGet [] t.scrim.routers r = if r = m.router then es else tabGet [] s.scrim.routers r) ∧
    t.scrim.posts = ps ∧ t.scrim.psvcs = qs
  (s.scrim.posts[i]? = some m → m.wait = none →
    (l.find? (fun x => key x) = some e →
      let es := l.map (fun x => if key x then { x with
        kinds := x.kinds ||| bit, children := if m.child ∈ x.children then x.children else x.children ++ [m.child] } else x)
      (e.kinds &&& bit ≠ 0 ∨ root → Up (.scrimPost i) s true es posts s.scrim.psvcs) ∧
      (e.kinds &&& bit = 0 → ¬root → Up (.scrimPost i) s true es (posts ++ [up]) s.scrim.psvcs) ∧ (l = [e] → es = [merged])) ∧
    ((∀ x ∈ l, ¬key x) → l.length < 64 →
      let es := l ++ [⟨m.ctxid, m.page, bit, [m.child]⟩]
      (root → Up (.scrimPost i) (sendMessage s (m.router / 33) (physOf s server / 256)) true es posts
        (s.scrim.psvcs ++ [request])) ∧
      (¬root → Up (.scrimPost i) s true es (posts ++ [up]) s.scrim.psvcs)) ∧
    ((∀ x ∈ l, ¬key x) → 64 ≤ l.length → Up (.scrimPost i) s false l
      (s.scrim.posts.set i { m with wait := some m.backoff, backoff := min 2048 (2 * m.backoff) }) s.scrim.psvcs)) ∧
  (s.scrim.posts[i]? = some m → m.wait = some 0 →
    Up (.scrimPostRetry i) s false l (s.scrim.posts.set i { m with wait := none }) s.scrim.psvcs) ∧
  (s.scrim.wakes[i]? = some w → arrived s w.via = false → exec (.scrimWake i) s = .next s) ∧
  (s.scrim.wakes[i]? = some w → arrived s w.via = true →
    let k := tabGet [] s.scrim.routers w.router
    let agents (cs : List ScrimChild) : List AgentWake := cs.filterMap (fun c => match c with
      | .agent p => some ⟨p, w.ctxid, w.page, w.ok⟩
      | .cluster _ => none)
    let downs (cs : List ScrimChild) : List WakeMsg := cs.filterMap (fun c => match c with
      | .agent _ => none
      | .cluster j => some ⟨w.router / 33 * 33 + j, w.ctxid, w.page, w.ok, none, none⟩)
    ∀ cs, ((k.find? (fun x => x.ctxid = w.ctxid ∧ x.page = w.page)).map (fun x => x.children)).getD [] = cs →
    ∃ t, exec (.scrimWake i) s = .next t ∧ { t with scrim := s.scrim, slots := s.slots } = s ∧
      (∀ c j, (w.server ≠ some (c, j) → slotAt t c j = slotAt s c j) ∧ ∀ n, w.server = some (c, j) →
        (slotAt s c j).stall = .serve (n + 1) → slotAt t c j = { slotAt s c j with stall := .serve n }) ∧ t.scrim.posts = s.scrim.posts ∧
      t.scrim.psvcs = s.scrim.psvcs ∧ t.scrim.out = s.scrim.out ++ agents cs ∧ t.scrim.wakes = s.scrim.wakes.eraseIdx i ++ downs cs ∧
      ∀ r, tabGet [] t.scrim.routers r = if r = w.router then k.filter (fun x => ¬(x.ctxid = w.ctxid ∧ x.page = w.page))
        else tabGet [] s.scrim.routers r) ∧
  (s.scrim.out[i]? = some z → ∃ t, exec (.wakeDelivery i) s = .next t ∧
    { t with slots := s.slots, cells := s.cells, scrim := { t.scrim with out := s.scrim.out } } = s ∧
    t.scrim.out = s.scrim.out.eraseIdx i ∧
    (∀ c k p, z.dest = .slot c k → (∀ c', cellAt t c' = cellAt s c') ∧ SlotsBut c k s t ∧ ((slotAt s c k).pend = some p →
      slotAt t c k = if p.ctxid = z.ctxid ∧ p.page = z.page ∧ p.outcome = none then
        { slotAt s c k with pend := some { p with outcome := some z.ok } } else slotAt s c k)) ∧
    (∀ c ch, z.dest = .cch c ch → SameSlots s t ∧ OtherCells c s t ∧
      let q := (ccAt s c).cch[ch]
      ((cellAt s c).live = true → (ccAt s c).desc.ctxid = z.ctxid → q.paused = true →
        q.queue.head?.map (fun y => (transferAddr y (q.wp - y.base)).extractLsb' 16 39) = some z.page →
        (z.ok = true → (ccAt t c).cch[ch] = { q with paused := false }) ∧
        (z.ok = false → (ccAt t c).cch[ch] = { q with queue := [], paused := false, error := true }))) ∧
    (∀ c, z.dest = .tfu c → SameSlots s t ∧ OtherCells c s t ∧
      ((cellAt s c).live = true → (ccAt s c).desc.ctxid = z.ctxid →
        ((ccAt s c).mxu.paused = some z.page → ccAt t c = { ccAt s c with
          mxu := { (ccAt s c).mxu with paused := none, failed := if z.ok then (ccAt s c).mxu.failed else some z.page } }) ∧
        ((ccAt s c).mxu.paused ≠ some z.page → ccAt t c = ccAt s c))))

/-! ## Coherence requests in several steps (10, 20) -/

/-- A slice whose die holds the line strongly enough grants a read in S, or in E when no cell holds it and the die owns it, a write
in M; a miss looks in its victim cache first, and a copy granted is no longer there; the slice probes the owner or every other holder
first, under a lock and the next stamp; else it locks the line, keeps a way and asks
the home, by a lath when that is on another die, the request held while the stack is frozen; a put takes a copy away, dirty data to
the slice, a clean line to the victim share; a request for a locked line is queued, or refused for 16 cycles when 16 wait at its slice
(R212-R215, R220-R226, R367). The model's choices: which request waits for a way (log 19), what is not enabled leaves the state as
it is (log 11). -/
def Claims.SliceRequests : Prop := ∀ (s : State) (d : Fin 4) (p line : Nat),
  let a : Site := .slice d
  let c := s.coh
  let e := dirGet c d.val line
  let h := homeGet c line
  let x := l1Get c p line
  let r (k : CohKind) : CohReq := ⟨a, p, line, k⟩
  let up : CohReq := ⟨.home, d.val, line, .gets⟩
  let home := homeDie s d.val line
  let inc := s.dies.tables[d].incs[d]
  let q := p % 256
  let me : BitVec 4 := 1#4 <<< d.val
  let locked : Prop := ∃ t ∈ c.txns, t.req.site = a ∧ t.req.line = line
  let there : Prop := p < 1024 ∧ p ∉ s.plat.absentCells ∧ p / 256 = d.val ∧ s.dies.health[d].reported = false
  let quiet : Prop := c.wayWait = [] ∧ ∀ y ∈ c.conflicts, ∃ t ∈ c.txns, t.req.site = y.site ∧ t.req.line = y.line
  let ready : Prop := line ∉ askedLines s p ∧ l1Room s p line = some s
  let cluster (z : Nat) : Nat := if z < 256 then z / 8 else z - 256
  let covers (y : DirEntry) (z : Nat) : Prop := if y.cv = true then y.vec.getLsbD (cluster z) = true else z ∈ y.ptrs
  let CohTo (i : Instr) (Q : Coh → Prop) : Prop := ∃ t, exec i s = .next t ∧ { t with coh := s.coh } = s ∧ Q t.coh
  let L1 (u : Coh) (y : LineCopy) : Prop := l1Get u p line = y ∧ ∀ z n, n < 2 ^ 40 → ¬(z = p ∧ n = line) → l1Get u z n = l1Get c z n
  let NoVic (u : Coh) : Prop := (vicGet u p line).st = .i ∧ ∀ z n, n < 2 ^ 40 → ¬(z = p ∧ n = line) → vicGet u z n = vicGet c z n
  let alone : Prop := shareOf s p line = none
  let Dir (u : Coh) (y : DirEntry) : Prop := dirGet u d.val line = y ∧
    ∀ z n, n < 2 ^ 40 → ¬(z = d.val ∧ n = line) → dirGet u z n = dirGet c z n
  let others := ((holders s d.val e).filter (fun z => z ≠ q)).eraseDups
  let probes (k : CohKind) (l : List Nat) (u : Coh) : Prop :=
    u.txns = c.txns ++ [⟨r k, l.length, 0⟩] ∧ Dir u { e with seq := e.seq + 1 } ∧
    u.probes = c.probes ++ l.map (fun z => ⟨a, line, agentAt d.val z, k, e.seq + 1, none⟩) ∧
    { u with txns := c.txns, probes := c.probes, dirs := c.dirs } = c
  let queued (k : CohKind) (u : Coh) : Prop :=
    if c.conflicts.countP (fun y => y.site = a ∧ sliceOf s d.val y.line = sliceOf s d.val line) < 16 then
      u = { c with conflicts := c.conflicts ++ [r k] }
    else u = { c with retries := c.retries ++ [⟨r k, 16, 16⟩] }
  let crosses : Prop := ∃ m ∈ c.probes, m.site = a ∧ m.line = line ∧ m.target = p
  let agent := 256 + p / 8 % 32
  there → memExists s (line * 128) = true → quiet →
    (x.st = .i → line ∈ askedLines s p → exec (.gets a p line) s = .next s) ∧
    (x.st = .i → ready → isPooled s p = false → (vicGet c p line).st ≠ .i → CohTo (.gets a p line) (fun u =>
      L1 u (vicGet c p line) ∧ NoVic u ∧ { u with l1 := c.l1, vic := c.vic } = c)) ∧
    (x.st = .i → ready → alone → locked → CohTo (.gets a p line) (queued .gets)) ∧
    (x.st = .i → ready → alone → ¬locked → e.lvl ≠ .i →
      (e.st = .i → CohTo (.gets a p line) (fun u =>
        let st : Moesi := if e.lvl = .e ∨ e.lvl = .m then .e else .s
        L1 u { x with st := st, stamp := e.seq + 1 } ∧ NoVic u ∧ { u with l1 := c.l1, vic := c.vic, dirs := c.dirs } = c ∧
        (st = .e → Dir u { e with seq := e.seq + 1, st := .e, cv := false, owner := q, ptrs := [] }) ∧
        (st = .s → Dir u { e with seq := e.seq + 1, st := .s, cv := false, ptrs := [q] }))) ∧
      (e.st = .s → CohTo (.gets a p line) (fun u =>
        let y := dirGet u d.val line
        L1 u { x with st := .s, stamp := e.seq + 1 } ∧ NoVic u ∧ { u with l1 := c.l1, vic := c.vic, dirs := c.dirs } = c ∧ Dir u y ∧ y.st = .s ∧
        y.seq = e.seq + 1 ∧ covers y q ∧ (∀ z, covers e z → covers y z) ∧
        (y.cv = true ↔ e.cv = true ∨ e.ptrs.length ≥ 4 ∧ q ∉ e.ptrs))) ∧
      (e.st = .e ∨ e.st = .o ∨ e.st = .m → e.owner ≠ q →
        CohTo (.gets a p line) (probes .gets [e.owner]))) ∧
    (x.st = .i → ready → alone → ¬locked → e.lvl = .i →
      (l2Room s d.val line = none → CohTo (.gets a p line) (fun u => u = { c with retries := c.retries ++ [⟨r .gets, 16, 16⟩] })) ∧
      (l2Room s d.val line = some s → lineHeld s d.val line = true → CohTo (.gets a p line) (fun u =>
        u = { c with txns := c.txns ++ [⟨r .gets, 0, 0⟩], held := c.held ++ [up] })) ∧
      (l2Room s d.val line = some s → lineHeld s d.val line = false → home ≠ d.val → ∃ t, exec (.gets a p line) s = .next t ∧
        { t with coh := s.coh } = sendMessage s d.val home ∧ t.coh = { c with
          txns := c.txns ++ [⟨r .gets, 0, 0⟩], reqs := c.reqs ++ [⟨up, inc, 32, nextTransit s d.val home⟩] }) ∧
      (l2Room s d.val line = some s → lineHeld s d.val line = false → home = d.val → trueHome s line = d.val → c.reqs = [] →
        s.dies.handovers = [] → siteLocked s .home line = false → homeRoom s line = true → h.st = .i → e.st = .i →
        CohTo (.gets a p line) (fun u => L1 u { x with st := .e, stamp := e.seq + 1 } ∧
          Dir u { e with seq := e.seq + 1, st := .e, cv := false, owner := q, ptrs := [], lvl := .e, hstamp := h.seq + 1 } ∧
          homeGet u line = ⟨h.seq + 1, .e, me, BitVec.ofNat 2 d.val⟩ ∧
          (∀ n, n ≠ line → homeGet u n = homeGet c n) ∧ NoVic u ∧
          { u with l1 := c.l1, vic := c.vic, dirs := c.dirs, homes := c.homes } = c))) ∧
    (x.st ≠ .i → exec (.gets a p line) s = .next s) ∧
    (x.st = .m ∨ x.st = .e → exec (.getm a p line) s = .next s) ∧
    (x.st ≠ .m → x.st ≠ .e → ready → x.st ≠ .i ∨ alone → locked → CohTo (.getm a p line) (queued .getm)) ∧
    (x.st ≠ .m → x.st ≠ .e → ready → x.st ≠ .i ∨ alone → ¬locked → e.lvl = .m ∨ e.lvl = .e →
      (others = [] → CohTo (.getm a p line) (fun u => L1 u { x with st := .m, stamp := e.seq + 1 } ∧
        Dir u { e with seq := e.seq + 1, st := .m, cv := false, owner := q, ptrs := [], vec := 0, lvl := .m } ∧
        homeGet u line = (if e.lvl = .e then { h with st := .m } else h) ∧ (∀ n, n ≠ line → homeGet u n = homeGet c n) ∧
        NoVic u ∧ { u with l1 := c.l1, vic := c.vic, dirs := c.dirs, homes := c.homes } = c)) ∧
      (others ≠ [] → CohTo (.getm a p line) (probes .getm others))) ∧
    (x.st = .i → exec (.put a p line) s = .next s) ∧
    (x.st ≠ .i → locked → ¬crosses → CohTo (.put a p line) (queued .put)) ∧
    (x.st = .m ∨ x.st = .o → ¬locked → ¬crosses → CohTo (.put a p line) (fun u => L1 u LineCopy.none ∧
      { u with l1 := c.l1, dirs := c.dirs } = c ∧ (¬(hasOwner e.st = true ∧ e.owner = q) → Dir u e) ∧
      (hasOwner e.st = true → e.owner = q → e.cv = true ∨ e.ptrs ≠ [] → Dir u { e with st := .s, owner := 0 }) ∧
      (hasOwner e.st = true → e.owner = q → e.cv = false → e.ptrs = [] → Dir u { e with st := .i, owner := 0, vec := 0 }))) ∧
    (x.st = .e ∨ x.st = .s → ¬locked → ¬crosses →
      (shareLines s p = 0 → CohTo (.put a p line) (fun u => L1 u LineCopy.none ∧ { u with l1 := c.l1 } = c)) ∧
      (shareLines s p ≠ 0 → ¬alone → CohTo (.put a p line) (fun u => L1 u LineCopy.none ∧ { u with l1 := c.l1, dirs := c.dirs } = c ∧
        (isPooled s p = false → u.dirs = c.dirs))) ∧
      (alone → (shareHeld c p).length < shareLines s p → CohTo (.put a p line) (fun u => L1 u LineCopy.none ∧
        (∀ z n, n < 2 ^ 40 → ¬(z = p ∧ n = line) → vicGet u z n = vicGet c z n) ∧
        { u with l1 := c.l1, vic := c.vic, dirs := c.dirs } = c ∧
        (isPooled s p = false → vicGet u p line = x ∧ u.dirs = c.dirs) ∧
        (isPooled s p = true → vicGet u p line = { x with st := .s } ∧
          (e.st = .e → e.owner = q → Dir u { e with st := .s, owner := 0, ptrs := [agent] }) ∧
          (e.st = .s → e.cv = false → Dir u { e with ptrs := (e.ptrs.map (fun z => if z = q then agent else z)).eraseDups }))))) ∧
    (x.st ≠ .i → crosses → CohTo (.put a p line) (fun u => (l1Get u p line).st = .i ∧ u.txns = c.txns ∧
      u.probes = c.probes.filter (fun m => ¬(m.site = a ∧ m.line = line ∧ m.target = p)) ∧
      u.answers = c.answers ++ [⟨a, line, p, 0, none⟩]))

/-- A probe that is older than the grant of the copy it meets is dropped; any other weakens the copies of a cell in its L1 and its
share, of a group agent in the shares of its cluster, or of a die, whose dirty data is forwarded, or goes to memory when the home
evicts its entry or performs an atomic, and is answered; answers and requests of one stream are taken in their order; a probe of a home waits until it has arrived, for a pin, for a transaction of the slice and for a fence; the last answer
ends the transaction with its grant, or frees the entry that its home evicts; a refused request arrives again after its wait
(R215, R221, R222, R225, R226, R228, R251, R378, R381). That what is not enabled leaves the state as it is is the model's choice (log 11). -/
def Claims.ProbesAndAnswers : Prop := ∀ (s : State) (i : Nat) (m : ProbeMsg) (n : ProbeAns) (t : Txn) (x : Retry) (e : Fin 4),
  let c := s.coh
  let y := l1Get c m.target m.line
  let v := vicGet c m.target m.line
  let g := dirGet c m.target m.line
  let since (stamp : Byte) : Prop := 1 ≤ (stamp - m.stamp).toNat ∧ (stamp - m.stamp).toNat ≤ 127
  let older : Prop := m.target < 1024 ∧ (y.st ≠ .i ∧ since y.stamp ∨ y.st = .i ∧ v.st ≠ .i ∧ since v.stamp)
  let gone := c.probes.eraseIdx i
  let home := trueHome s m.line
  let quiet : Prop := c.wayWait = [] ∧ ∀ y ∈ c.conflicts, ∃ t ∈ c.txns, t.req.site = y.site ∧ t.req.line = y.line
  let CohTo (i : Instr) (Q : Coh → Prop) : Prop := ∃ t, exec i s = .next t ∧ { t with coh := s.coh } = s ∧ Q t.coh
  let share (st : Moesi) : Moesi := (match st with
    | .e => .s
    | .m => .o
    | y => y)
  let less (was now : LineCopy) : Prop :=
    (was.st = .i → now.st = .i) ∧ (was.st ≠ .i → m.kind ≠ .gets → now.st = .i) ∧
    (was.st ≠ .i → m.kind = .gets → now = { was with st := share was.st })
  let turn (v : Transit) : Prop := (∀ q ∈ c.reqs, sentBefore q.via v = false) ∧ ∀ q ∈ c.answers, sentBefore q.via v = false
  let given : BitVec 4 := if isDirty g.lvl = true ∧ (m.kind = .gets ∨ m.kind = .getm) then g.good else 0
  let writes : Prop := isDirty g.lvl = true ∧ (m.kind = .evict ∨ ∃ k, m.kind = .atom k)
  let answers := c.answers.eraseIdx i
  (c.probes[i]? = some m → arrived s m.via = false → exec (.probe i) s = .next s) ∧
  (c.probes[i]? = some m → arrived s m.via = true → m.site = .slice e → m.line < 2 ^ 40 →
    (older → CohTo (.probe i) (fun u => u = { c with probes := gone })) ∧
    (¬older → CohTo (.probe i) (fun u => u.answers = c.answers ++ [⟨m.site, m.line, m.target, 0, none⟩] ∧
      { u with probes := c.probes, answers := c.answers, l1 := c.l1, vic := c.vic } = c ∧ u.probes = gone ∧
      (∀ q k, k < 2 ^ 40 → ¬((q = m.target ∨ q / 8 = m.target - 1024) ∧ k = m.line) →
        l1Get u q k = l1Get c q k ∧ vicGet u q k = vicGet c q k) ∧
      (m.target < 1024 → less y (l1Get u m.target m.line) ∧ less v (vicGet u m.target m.line)) ∧
      (1024 ≤ m.target → ∀ q, q / 8 = m.target - 1024 → l1Get u q m.line = l1Get c q m.line ∧
        less (vicGet c q m.line) (vicGet u q m.line))))) ∧
  (c.probes[i]? = some m → arrived s m.via = true → m.site = .home →
    (probeWaits c m.line m.target = true ∨ s.dies.health[Fin.ofNat 4 m.target].reported = true → exec (.probe i) s = .next s) ∧
    (probeWaits c m.line m.target = false → s.dies.health[Fin.ofNat 4 m.target].reported = false →
      (g.lvl ≠ .i → since g.hstamp → CohTo (.probe i) (fun u => u = { c with probes := gone })) ∧
      (g.lvl = .i ∨ ¬since g.hstamp → m.line < 2 ^ 40 → m.kind ≠ .put → m.kind ≠ .stream → ∃ u, exec (.probe i) s = .next u ∧ SameBytes s u ∧
        { u with coh := s.coh, mem := s.mem, dirty := s.dirty, poison := s.poison } = sendMessage s m.target home ∧
        u.coh.probes = gone ∧ u.coh.answers = c.answers ++
          [⟨.home, m.line, m.target, given, nextTransit s m.target home⟩] ∧
        u.coh.homes = c.homes ∧ u.coh.txns = c.txns ∧
        (writes → ∀ p, p / 128 = m.line → memGet u.mem p = physByte s p) ∧ (¬writes → u.mem = s.mem) ∧
        (m.kind ≠ .gets → (dirGet u.coh m.target m.line).lvl = .i ∧
          (g.lvl ≠ .i → ∀ q, q / 256 = m.target → q ≠ 1024 → (l1Get u.coh q m.line).st = .i ∧ (vicGet u.coh q m.line).st = .i)) ∧
        (m.kind = .gets → (dirGet u.coh m.target m.line).lvl = share g.lvl ∧
          (g.lvl = .e ∨ g.lvl = .m → g.st = .e ∨ g.st = .m → (l1Get c (256 * m.target + g.owner) m.line).st ≠ .i →
            (l1Get u.coh (256 * m.target + g.owner) m.line).st =
              share (l1Get c (256 * m.target + g.owner) m.line).st))))) ∧
  (c.answers[i]? = some n → arrived s n.via = false ∨ ¬turn n.via → exec (.probeAnswer i) s = .next s) ∧
  (c.answers[i]? = some n → arrived s n.via = true → turn n.via → quiet → c.txns = [t] → t.req.site = n.site → t.req.line = n.line →
    (2 ≤ t.left → CohTo (.probeAnswer i) (fun u => u = { c with answers := answers, txns := [{ t with left := t.left - 1, good := t.good ||| n.good }] })) ∧
    (t.left = 1 → n.site = .home → t.req.kind = .evict → c.conflicts = [] → CohTo (.probeAnswer i) (fun u =>
      u = { c with answers := answers, txns := [], homes := c.homes.filter (fun z => z.1 ≠ n.line) })) ∧
    (t.left = 1 → n.site = .slice e → t.req.kind = .getm → t.req.from_ < 1024 → c.conflicts = [] → n.line < 2 ^ 40 →
      CohTo (.probeAnswer i) (fun u => u.txns = [] ∧ u.answers = answers ∧
        l1Get u t.req.from_ n.line = { l1Get c t.req.from_ n.line with st := .m, stamp := (dirGet c e.val n.line).seq + 1 } ∧
        dirGet u e.val n.line = { dirGet c e.val n.line with
          seq := (dirGet c e.val n.line).seq + 1, st := .m, cv := false, owner := t.req.from_ % 256, ptrs := [], vec := 0, lvl := .m }))) ∧
  (c.answers[i]? = some n → arrived s n.via = true → turn n.via → quiet → (∀ t ∈ c.txns, ¬(t.req.site = n.site ∧ t.req.line = n.line)) →
    CohTo (.probeAnswer i) (fun u => u = { c with answers := answers })) ∧
  (c.retries[i]? = some x → x.wait ≠ 0 → exec (.conflictRetry i) s = .next s) ∧
  (c.retries[i]? = some x → x.wait = 0 → quiet → x.req.site = .slice e → x.req.kind ≠ .put → t ∈ c.txns → t.req.site = x.req.site →
    t.req.line = x.req.line → CohTo (.conflictRetry i) (fun u =>
    u = if c.conflicts.countP (fun r => r.site = .slice e ∧ sliceOf s e.val r.line = sliceOf s e.val x.req.line) < 16 then
        { c with retries := c.retries.eraseIdx i, conflicts := c.conflicts ++ [x.req] }
      else { c with retries := c.retries.eraseIdx i ++ [⟨x.req, 16, 16⟩] }))

/-- Requests at a slice, probes and answers: SliceRequests and ProbesAndAnswers together. -/
def Obligations.SliceCoherence : Prop := Claims.SliceRequests ∧ Claims.ProbesAndAnswers

/-- A home serves the dies as a slice serves its cells: E to the first reader, S beside others, M to a writer, each with the next
stamp and by a lath to another die; probes first to the owner or to every other die; a request for a locked line queues, one that
finds no way of its set waits while the home evicts an entry of it; a die that puts a dirty line writes it to memory and tells the
home; a message at a controller that is not the home, or of an old incarnation, is refused, by a lath to another die, and reads the owner
table again later; those of one stream are taken in their order (R225-R228, R367, R368, R377, R378). The model's choices: which line is evicted (log 19), and that what is not enabled leaves the state
as it is (log 11). -/
def Obligations.HomeRequests : Prop :=
  ∀ (s : State) (d : Fin 4) (line i : Nat) (m : ReqMsg) (ms ns : List ReqMsg) (x : Retry),
  let c := s.coh
  let h := homeGet c line
  let e := dirGet c d.val line
  let r (k : CohKind) : CohReq := ⟨.home, d.val, line, k⟩
  let me : BitVec 4 := 1#4 <<< d.val
  let home := trueHome s line
  let up : Prop := s.dies.health[d].reported = false
  let turn (v : Transit) : Prop := (∀ q ∈ c.reqs, sentBefore q.via v = false) ∧ ∀ q ∈ c.answers, sentBefore q.via v = false
  let came (k : CohKind) : Prop := c.reqs = ms ++ m :: ns ∧ m.req = r k ∧ arrived s m.via = true ∧ turn m.via ∧
    ∀ q ∈ ms, ¬(q.req = r k ∧ arrived s q.via = true ∧ turn q.via)
  let left : Coh := { c with reqs := ms ++ ns }
  let locked : Prop := ∃ t ∈ c.txns, t.req.site = .home ∧ t.req.line = line
  let quiet : Prop := c.wayWait = [] ∧ ∀ y ∈ c.conflicts, ∃ t ∈ c.txns, t.req.site = y.site ∧ t.req.line = y.line
  let current (k : CohKind) : Prop := notOwner s (r k) m.inc = false
  let CohTo (i : Instr) (Q : Coh → Prop) : Prop := ∃ t, exec i s = .next t ∧ { t with coh := s.coh } = s ∧ Q t.coh
  let Homes (u : Coh) (y : HomeEntry) : Prop := homeGet u line = y ∧ ∀ n, n ≠ line → homeGet u n = homeGet c n
  let Granted (i : Instr) (st : Moesi) (y : HomeEntry) : Prop :=
    (home ≠ d.val → ∃ t, exec i s = .next t ∧ { t with coh := s.coh } = sendMessage s home d.val ∧ Homes t.coh y ∧
      { t.coh with homes := c.homes } = { left with grants := c.grants ++ [⟨d.val, line, st, y.seq, 0, nextTransit s home d.val⟩] }) ∧
    (home = d.val → (∀ t ∈ c.txns, ¬(t.req.site = .slice d ∧ t.req.line = line)) → CohTo i (fun u => Homes u y ∧
      dirGet u d.val line = { e with lvl := st, hstamp := y.seq } ∧ { u with homes := c.homes, dirs := c.dirs } = left))
  let Probes (i : Instr) (k : CohKind) (l : List Nat) : Prop := ∃ t, exec i s = .next t ∧
    { t with coh := s.coh } = l.foldl (fun u z => sendMessage u home z) s ∧ Homes t.coh { h with seq := h.seq + 1 } ∧
    { t.coh with homes := c.homes } = { left with
      txns := c.txns ++ [⟨r k, l.length, 0⟩]
      probes := c.probes ++ l.map (fun z => ⟨.home, line, z, k, h.seq + 1, nextTransit s home z⟩) }
  let rest := (List.range 4).filter (fun z => h.present.getLsbD z ∧ z ≠ d.val)
  let owns : Prop := hasOwner h.st = true ∧ h.owner.toNat = d.val
  let calm : Prop := ∀ q ∈ c.probes, ¬(q.site = .home ∧ q.line = line ∧ q.target = d.val)
  let Left (u : Coh) : Prop := (h.present &&& ~~~me = 0 → Homes u { HomeEntry.none with seq := h.seq }) ∧
    (h.present &&& ~~~me ≠ 0 → owns → Homes u ⟨h.seq, .s, h.present &&& ~~~me, 0⟩) ∧
    (h.present &&& ~~~me ≠ 0 → ¬owns → Homes u { h with present := h.present &&& ~~~me })
  let mine : Prop := homeDie s d.val line = d.val ∧ home = d.val
  let rivals := homeRivals s line
  let read : Instr := .gets .home d.val line
  let write : Instr := .getm .home d.val line
  let put : Instr := .put .home d.val line
  (up → (∀ q ∈ c.reqs, ¬(q.req = r .gets ∧ arrived s q.via = true ∧ turn q.via)) → exec read s = .next s) ∧
  (up → memExists s (line * 128) = true → quiet → came .gets → current .gets → ¬locked → homeRoom s line = true →
    (h.st = .i → Granted read .e ⟨h.seq + 1, .e, me, BitVec.ofNat 2 d.val⟩) ∧
    (h.st = .s → Granted read .s { h with seq := h.seq + 1, present := h.present ||| me }) ∧
    (owns → Granted read h.st { h with seq := h.seq + 1 }) ∧
    (hasOwner h.st = true → ¬owns → Probes read .gets [h.owner.toNat])) ∧
  (up → memExists s (line * 128) = true → quiet → came .getm → current .getm → ¬locked → homeRoom s line = true →
    (rest = [] → Granted write .m ⟨h.seq + 1, .m, me, BitVec.ofNat 2 d.val⟩) ∧ (rest ≠ [] → Probes write .getm rest)) ∧
  (up → memExists s (line * 128) = true → quiet → came .gets → current .gets → locked → CohTo read (fun u =>
    u = if c.conflicts.countP (fun y => y.site = .home ∧ trueHome s y.line = home) < 16 then
        { left with conflicts := c.conflicts ++ [r .gets] }
      else { left with retries := c.retries ++ [⟨r .gets, 16, 16⟩] })) ∧
  (up → memExists s (line * 128) = true → quiet → came .gets → current .gets → ¬locked → homeRoom s line = false →
    (∀ v ∈ rivals, siteLocked s .home v = false ∧ (homeGet c v).present ≠ 0) → ∃ t, exec read s = .next t ∧
    t.coh.wayWait = [r .gets] ∧ ∃ v ∈ rivals,
      let dies := (List.range 4).filter (fun z => (homeGet c v).present.getLsbD z)
      t.coh.txns = c.txns ++ [⟨⟨.home, trueHome s v, v, .evict⟩, dies.length, 0⟩] ∧
      t.coh.probes = c.probes ++ dies.map (fun z =>
        ⟨.home, v, z, .evict, (homeGet c v).seq + 1, nextTransit s (trueHome s v) z⟩)) ∧
  (up → memExists s (line * 128) = true → quiet → came .gets → ¬current .gets →
    (home = d.val → CohTo read (fun u => u = { left with
      notowner := c.notowner ++ [⟨r .gets, m.backoff, min 2048 (2 * m.backoff)⟩] })) ∧
    (home ≠ d.val → ∃ t, exec read s = .next t ∧ { t with coh := s.coh } = sendMessage s home d.val ∧
      t.coh = { left with refusals := c.refusals ++ [{ m with via := nextTransit s home d.val }] })) ∧
  (up → quiet → came .put → current .put → ¬locked → calm → CohTo put (fun u => { u with homes := c.homes } = left ∧ Left u)) ∧
  (up → came .put → ¬current .put → quiet → home ≠ d.val → ∃ t, exec put s = .next t ∧
    { t with coh := s.coh } = sendMessage s home d.val ∧
    t.coh = { left with refusals := c.refusals ++ [{ m with via := nextTransit s home d.val }] }) ∧
  (up → (∀ q ∈ c.reqs, ¬(q.req = r .put ∧ arrived s q.via = true)) →
    (e.lvl = .i ∨ isPinned c d.val line = true ∨ lineLocked s d.val line = true → exec put s = .next s) ∧
    (e.lvl ≠ .i → isPinned c d.val line = false → lineLocked s d.val line = false → line < 2 ^ 40 → ∃ t, exec put s = .next t ∧
      OnlyMemory s t ∧ SameBytes s t ∧ (dirGet t.coh d.val line).lvl = .i ∧
      (∀ p, p / 256 = d.val → p ≠ 1024 → (l1Get t.coh p line).st = .i ∧ (vicGet t.coh p line).st = .i) ∧
      (isDirty e.lvl = true → ∀ p, p / 128 = line → memGet t.mem p = physByte s p) ∧
      (isDirty e.lvl = true → mine → quiet → t.coh.reqs = c.reqs ∧ t.dies = s.dies ∧ (¬locked → calm → Left t.coh)) ∧
      (isDirty e.lvl = true → ¬mine → quiet → t.coh.homes = c.homes ∧ t.coh.reqs = c.reqs ++
        [⟨r .put, s.dies.tables[d].incs[d], 32, nextTransit s d.val (homeDie s d.val line)⟩] ∧
        t.dies = (sendMessage s d.val (homeDie s d.val line)).dies) ∧
      (isDirty e.lvl = false → t.mem = s.mem ∧ t.coh.homes = c.homes ∧ t.coh.reqs = c.reqs ∧ t.dies = s.dies))) ∧
  (c.notowner[i]? = some x → x.wait ≠ 0 → exec (.notownerRetry i) s = .next s) ∧
  (c.notowner[i]? = some x → quiet → x.wait = 0 → x.req.kind ≠ .put → lineHeld s x.req.from_ x.req.line = true →
    CohTo (.notownerRetry i) (fun u => u = { c with notowner := c.notowner.eraseIdx i, held := c.held ++ [x.req] })) ∧
  (c.notowner[i]? = some x → quiet → x.wait = 0 → x.req.kind ≠ .stream → lineHeld s x.req.from_ x.req.line = false →
    homeDie s x.req.from_ x.req.line ≠ x.req.from_ → ∃ t, exec (.notownerRetry i) s = .next t ∧
    { t with coh := s.coh } = sendMessage s x.req.from_ (homeDie s x.req.from_ x.req.line) ∧ t.coh = { c with
      notowner := c.notowner.eraseIdx i
      reqs := c.reqs ++ [⟨x.req, (tableOf s x.req.from_).incs[Fin.ofNat 4 x.req.from_], x.backoff,
        nextTransit s x.req.from_ (homeDie s x.req.from_ x.req.line)⟩] })

/-! ## Dies and laths (20) -/

/-- A die that has been silent for 1 ms, has left a message unanswered for 1 ms, or has an island cut, is fenced: its laths and port
link go down, the others' tables record it, its cells, slots, caches and TLBs are as after reset, its images go, and what is on
its way to or from it goes on without its message; once every survivor has acknowledged, transactions that waited for it complete,
the lines it held dirty are poisoned and it leaves every presence set elsewhere; a die that rejoins, once it owns no stack that can
pass on and no pin holds a line that goes, has a new incarnation, its port link unless that has no power, and is fenced no longer (R15,
R222, R382-R387, R412). The model's choices: a returning die takes the owner table
of the first survivor (log 23), what makes a die unreachable (log 42), and what is not enabled leaves the state as it is (log 11). -/
def Obligations.FencedDies : Prop := ∀ (s : State) (d e : Fin 4) (q : ProbeMsg) (x : Txn),
  let h := s.dies.health[d]
  let cut : Prop := ∃ q : Fin 5, (s.plat.islands[5 * d.val + q.val]'(by omega)).cut = true
  let due : Prop := 1000000 ≤ h.silent ∨ cut ∨
    ∃ y ∈ s.dies.streams, y.1 % 4 = d.val ∧ ∃ n ∈ y.2.kept, 1000000 ≤ n.2
  let touches (l : Fin 8) : Prop := linkFrom l = d ∨ linkTo l = d
  let mine (c : Nat) : Prop := physOf s c / 256 = d.val
  let crossing (t : Transit) : Transit := (match t with
    | some (k, n) => if k / 4 = d.val ∨ k % 4 = d.val then none else some (k, n)
    | none => none)
  let stealAfter (y : Steal) : Steal := (match y with
    | .idle => .idle
    | .asked v g t => .asked v g (crossing t)
    | .empty g t => .empty g (crossing t)
    | .claimed v f t => if physOf s v / 256 = d.val then .idle else .claimed v f (crossing t))
  let stallAfter (y : Stall) : Stall := (match y with
    | .trip v => if crossing v = v then .trip v else .again
    | .reply r v z => .reply r (crossing v) z
    | .replyUe v a b => .replyUe (crossing v) a b
    | .place op r w (some (a, v)) => .place op r w (some (a, crossing v))
    | z => z)
  let quiet : Prop := s.coh.conflicts = [] ∧ s.coh.wayWait = [] ∧ s.coh.held = [] ∧ s.dies.handovers = [] ∧ s.images = []
  let one (k : CohKind) : Prop := s.coh.probes = [q] ∧ q.site = .home ∧ q.target = d.val ∧ trueHome s q.line ≠ d.val ∧
    s.coh.txns = [x] ∧ x.req = ⟨.home, e.val, q.line, k⟩ ∧ x.left = 1 ∧ e ≠ d ∧ s.dies.health[e].reported = false ∧
    trueHome s q.line ≠ e.val
  let pinned : Prop := ∃ y ∈ s.coh.homes, 12 * 2 ^ 29 ≤ y.1 ∧ y.1 / 32 % 4 = d.val ∧ y.2.st ≠ .i ∧
    ∃ f : Fin 4, s.dies.health[f].reported = false ∧ isPinned s.coh f.val y.1 = true
  let stuck : Prop := ∃ k : Fin 12, s.plat.stackBits.getLsbD k.val = true ∧ (d = (pairOf k).1 ∨ d = (pairOf k).2) ∧
    s.dies.health[otherOf k d].reported = false ∧
    (s.dies.tables[d].owner[k] = d ∨ s.dies.active[k] = d ∨ ∃ y ∈ s.dies.handovers, y.stack = k)
  (h.reported = true ∨ ¬due → exec (.dieUnreachable d) s = .next s) ∧
  (h.reported = false → due → ∃ t, exec (.dieUnreachable d) s = .next t ∧ t.mem = s.mem ∧ t.dirty = s.dirty ∧ t.poison = s.poison ∧
    { t.plat with portUp := s.plat.portUp } = s.plat ∧
    (∀ i, i < 4 → t.plat.portUp.getLsbD i = (s.plat.portUp.getLsbD i && i != d.val)) ∧
    t.dies.health[d] = { h with reported := true } ∧ (∀ e : Fin 4, e ≠ d → t.dies.health[e] = s.dies.health[e]) ∧
    (∀ l : Fin 8, (touches l → t.dies.links[l].up = false ∧ t.dies.links[l].wire = [] ∧ t.dies.links[l].window = []) ∧
      (¬touches l → t.dies.links[l].up = s.dies.links[l].up ∧ t.dies.links[l].expect = s.dies.links[l].expect) ∧
      (¬touches l → (∀ y ∈ s.dies.streams, y.2.kept = []) → t.dies.links[l] = s.dies.links[l])) ∧
    (∀ e : Fin 4, e ≠ d → ∀ i : Fin 4, t.dies.tables[e].fenced.getLsbD i.val = (decide (i = d) || s.dies.tables[e].fenced.getLsbD i.val)) ∧
    (∀ c, mine c → cellAt t c = Cell.reset ∧ ∀ k, slotAt t c k = Slot.reset) ∧
    (∀ c, ¬mine c → ∀ k, slotAt t c k = { slotAt s c k with stall := stallAfter (slotAt s c k).stall }) ∧
    (∀ c, ¬mine c → cellAt t c = { cellAt s c with
      port := (cellAt s c).port.map (fun m => { m with via := crossing m.via }), steal := stealAfter (cellAt s c).steal }) ∧
    (∀ y, y ∈ t.images ↔ y ∈ s.images ∧ ¬(y.phys / 256 = d.val ∧ (y.spilled = false ∨ y.cc.desc.sys = false ∨ imagePoisoned s y = true))) ∧
    (∀ c, mine c → tabGet [] t.tlbs.l1 c = []) ∧
    (∀ p n, p / 256 = d.val → n < 2 ^ 40 → (l1Get t.coh p n).st = .i ∧ (vicGet t.coh p n).st = .i) ∧
    (∀ n, n < 2 ^ 40 → dirGet t.coh d.val n = DirEntry.none) ∧ t.coh.homes = s.coh.homes ∧
    (∀ m ∈ t.coh.reqs, m.req.from_ ≠ d.val) ∧ (∀ m ∈ t.coh.refusals, m.req.from_ ≠ d.val) ∧ (∀ y ∈ t.tlbs.walkers, y.die ≠ d.val) ∧ (∀ m ∈ t.coh.grants, m.die ≠ d.val) ∧
    ∀ m ∈ s.coh.reqs, m.req.from_ ≠ d.val → m.via ≠ crossing m.via → m.req.kind ≠ .put → m.req.site = .home → m.req ∈ t.coh.held) ∧
  (h.reported = false ∨ h.confirmed = true → exec (.fenceConfirm d) s = .next s) ∧
  (h.reported = true → h.confirmed = false → s.coh.txns = [] → s.coh.probes = [] → quiet →
    ∃ t, exec (.fenceConfirm d) s = .next t ∧ t.mem = s.mem ∧ SameSlots s t ∧ t.cells = s.cells ∧
    t.dies.health[d] = { h with confirmed := true } ∧
    (∀ y ∈ s.coh.homes, trueHome s y.1 ≠ d.val → y.2.st = .o ∨ y.2.st = .m → y.2.owner.toNat = d.val →
      (∀ i, i < 4 → 4 * y.1 + i ∈ t.poison) ∧
      ((∀ e : Fin 4, s.dies.health[e].reported = false → (dirGet s.coh e.val y.1).lvl = .i) →
        ∀ a, a / 128 = y.1 → physByte t a = memGet s.mem a)) ∧
    (∀ n, trueHome s n ≠ d.val → (homeGet t.coh n).present.getLsbD d.val = false) ∧
    (∀ n, trueHome s n = d.val → homeGet t.coh n = homeGet s.coh n) ∧
    (∀ y ∈ t.dies.handovers, y.forced = true ∧ y.old = d ∧ y.stage = 0) ∧
    (∀ k : Fin 12, s.plat.stackBits.getLsbD k.val = true → s.dies.active[k] = d → ∃ y ∈ t.dies.handovers, y.stack = k ∧
      y.new = if (pairOf k).1 = d then (pairOf k).2 else (pairOf k).1)) ∧
  (h.reported = true → h.confirmed = false → quiet → one .gets → (homeGet s.coh q.line).st = .m →
    (homeGet s.coh q.line).owner.toNat = d.val → (homeGet s.coh q.line).present = 1#4 <<< d.val →
    ∃ t, exec (.fenceConfirm d) s = .next t ∧ t.coh.txns = [] ∧ t.coh.probes = [] ∧ (homeGet t.coh q.line).st = .s ∧
      (homeGet t.coh q.line).present = 1#4 <<< e.val ∧ ∃ m ∈ t.coh.grants, m.die = e.val ∧ m.line = q.line ∧ m.st = .s) ∧
  (h.reported = true → h.confirmed = false → quiet → one .getm → ∃ t, exec (.fenceConfirm d) s = .next t ∧ t.coh.txns = [] ∧ t.coh.probes = [] ∧ (homeGet t.coh q.line).st = .m ∧
      (homeGet t.coh q.line).owner.toNat = e.val ∧ ∃ m ∈ t.coh.grants, m.die = e.val ∧ m.line = q.line ∧ m.st = .m) ∧
  (h.confirmed = false ∨ cut ∨ stuck ∨ pinned → exec (.dieRejoin d) s = .next s) ∧
  (h.confirmed = true → ¬cut → ¬stuck → ¬pinned → s.coh.conflicts = [] → s.coh.wayWait = [] → s.coh.held = [] →
    ∃ t, exec (.dieRejoin d) s = .next t ∧ SameSlots s t ∧ t.cells = s.cells ∧
    t.dies.health[d] = ⟨0, false, false⟩ ∧ t.plat.portUp.getLsbD d.val = !(s.plat.islands[20 + 2 * (d.val % 2)]'(by omega)).cut ∧
    (∀ e : Fin 4, e ≠ d → t.dies.tables[e].incs[d] = s.dies.tables[e].incs[d] + 1 ∧ t.dies.tables[e].fenced.getLsbD d.val = false ∧
      t.dies.tables[e].owner = s.dies.tables[e].owner) ∧
    (∀ e : Fin 4, e ≠ d → s.dies.health[e].reported = false → (∀ f : Fin 4, f < e → f ≠ d → s.dies.health[f].reported = true) →
      t.dies.tables[d].owner = s.dies.tables[e].owner ∧ t.dies.tables[d].fenced.getLsbD d.val = false) ∧
    (∀ l : Fin 8, touches l → s.dies.health[linkFrom l].reported = false ∨ linkFrom l = d →
      s.dies.health[linkTo l].reported = false ∨ linkTo l = d → t.dies.links[l] = Link.reset) ∧
    (∀ p n, p / 256 = d.val → n < 2 ^ 40 → (l1Get t.coh p n).st = .i ∧ (vicGet t.coh p n).st = .i) ∧
    (∀ n, n < 2 ^ 40 → dirGet t.coh d.val n = DirEntry.none) ∧
    (∀ n, 12 * 2 ^ 29 ≤ n → n / 32 % 4 = d.val → (homeGet t.coh n).st = .i) ∧ ∀ c, mine c → tabGet [] t.tlbs.l1 c = [])

/-- A message from one die to another takes the next number of its stream, is kept, and goes on the next link of the way: clockwise
to the diagonal, directly to a neighbour, the other way round when a lath is down; a flit that is damaged, out of sequence, of an
old incarnation or from a fenced die is discarded; an accepted one advances SEQ, acknowledges the window of the other direction
by its ACK and delivers its message once and in order, or forwards it; none arrives while the lath retrains; 256 cycles without
progress bring a replay, 8 replays a retraining, which replays the windows or takes the lath down; an audit marks what must be
rebuilt; a grant or refusal that has arrived is taken by its die (R13, R368, R377-R380, R382, R407, R408). The model's choices: a flit carries only
a message's number, and an idle flit an acknowledgement (log 18), and the numbers of the links (log 4). -/
def Obligations.LathFlits : Prop := ∀ (s : State) (l n : Fin 8) (port src dst : Fin 4) (intact trained : Bool) (f : Flit) (w : List Flit)
    (lath : Fin 4) (found : List AuditFinding) (g : GrantMsg) (r : ReqMsg),
  let x := s.dies.links[l]
  let b := linkBack l
  let y := s.dies.links[b]
  let table := s.dies.tables[linkTo l]
  let rcv : Instr := .flitReceive (Fin.ofNat 12 l.val) intact
  let prt : Instr := .flitReceive (Fin.ofNat 12 (8 + port.val)) intact
  let bad : Prop := intact = false ∨ f.seq ≠ x.expect ∨ f.inc ≠ table.incs[linkFrom l] ∨ table.fenced.getLsbD (linkFrom l).val = true
  let D (i : Instr) (Q : Dies → Prop) : Prop := ∃ t, exec i s = .next t ∧ { t with dies := s.dies } = s ∧ Q t.dies
  let OnLink (i : Instr) (y : Link) : Prop := exec i s = .next { s with dies := { s.dies with links := s.dies.links.set l y } }
  let acked (y : Link) (a : BitVec 12) : List WindowEntry := (match y.window.findIdx? (fun e => e.flit.seq = a) with
    | some i => y.window.drop (i + 1)
    | none => y.window)
  let again (y : List WindowEntry) : List Flit := (y.takeWhile (fun e => !e.rebuild)).map (fun e => e.flit)
  let st := streamAt s f.stream
  let live : Prop := x.up = true ∧ x.retraining = false
  let still : Prop := s.coh.grants = [] ∧ s.coh.refusals = []
  let noKept : Prop := ∀ e ∈ s.dies.streams, e.2.kept = []
  let swap (m : Fin 8) : Prop := ∃ n, (s.plat.controllers[18 + m.val]'(by omega)).state = .starting n
  let idle : Prop := x.up = false ∨ x.retraining = true ∨ x.window = [] ∨ x.stalled < 256
  let isBad (e : WindowEntry) : Bool := found.any (fun y => y = .uncorrectable e.flit.seq.toNat)
  let key := 4 * src.val + dst.val
  let own := streamAt s key
  let nextDie (d : Fin 4) : Fin 4 := (match d with
    | 0 => 1
    | 1 => 3
    | 3 => 2
    | 2 => 0)
  let short := if nextDie dst = src then ringPath false src dst 3 else ringPath true src dst 3
  let long := if nextDie dst = src then ringPath true src dst 3 else ringPath false src dst 3
  let allUp (p : List (Fin 8)) : Prop := ∀ m ∈ p, s.dies.links[m].up = true
  let mine (m : Fin 8) (seq : BitVec 12) : Flit := ⟨seq, s.dies.tables[linkFrom m].incs[linkFrom m],
    s.dies.links[linkBack m].expect - 1, key, own.next⟩
  (src = dst ∨ s.dies.health[src].reported = true ∨ s.dies.health[dst].reported = true →
    sendMessage s src.val dst.val = s ∧ nextTransit s src.val dst.val = none) ∧
  (src ≠ dst → s.dies.health[src].reported = false → s.dies.health[dst].reported = false →
    nextTransit s src.val dst.val = some (key, own.next) ∧ (arrived s (some (key, own.next)) = true ↔ own.next < own.deliver) ∧
    streamAt (sendMessage s src.val dst.val) key = { own with next := own.next + 1, kept := own.kept ++ [(own.next, 0)] } ∧
    (nextLink s src dst = some n → s.dies.links[n].up = true → s.dies.links[n].window.length < 2048 →
      let sent := mine n s.dies.links[n].next
      (sendMessage s src.val dst.val).dies.links = s.dies.links.set n { s.dies.links[n] with
        next := s.dies.links[n].next + 1
        window := s.dies.links[n].window ++ [⟨sent, false⟩]
        wire := if s.dies.links[n].retraining = true then s.dies.links[n].wire else s.dies.links[n].wire ++ [sent] })) ∧
  (src ≠ dst → (allUp short → nextLink s src dst = short.head?) ∧ (¬allUp short → allUp long → nextLink s src dst = long.head?) ∧
    (¬allUp short → ¬allUp long → nextLink s src dst = none)) ∧
  (exec prt s = .next (if intact = true ∧ s.plat.portUp.getLsbD port.val = true ∧ s.dies.health[port].reported = false then
    { s with dies := { s.dies with health := s.dies.health.set port { s.dies.health[port] with silent := 0 } } } else s)) ∧
  (still → ¬live → exec rcv s = .next s) ∧
  (s.coh.grants = [] → s.coh.refusals = [r] → ¬live → arrived s r.via = true → exec rcv s = .next { s with coh := { s.coh with
    refusals := [], notowner := s.coh.notowner ++ [⟨r.req, r.backoff, min 2048 (2 * r.backoff)⟩] } }) ∧
  (s.coh.grants = [g] → s.coh.refusals = [] → ¬live → arrived s g.via = true → s.coh.conflicts = [] → s.coh.wayWait = [] →
    (∀ t ∈ s.coh.txns, t.req.line ≠ g.line) → ∃ t, exec rcv s = .next t ∧ { t with coh := s.coh } = s ∧
    dirGet t.coh g.die g.line = { dirGet s.coh g.die g.line with
      lvl := g.st, hstamp := g.stamp, good := (dirGet s.coh g.die g.line).good ||| g.good } ∧ t.coh.grants = []) ∧
  (still → live → x.wire = [] → noKept → intact = true → table.fenced.getLsbD (linkFrom l).val = false → D rcv (fun t =>
    t.links[b].window = acked y (y.expect - 1) ∧ t.links[l] = x ∧ t.health[linkFrom l].silent = 0 ∧
    { t with links := s.dies.links, health := s.dies.health } = s.dies)) ∧
  (still → live → x.wire = [] → intact = false ∨ table.fenced.getLsbD (linkFrom l).val = true → exec rcv s = .next s) ∧
  (still → live → x.wire = f :: w → bad → OnLink rcv { x with wire := w }) ∧
  (still → live → x.wire = f :: w → ¬bad → Fin.ofNat 4 f.stream = linkTo l →
    (∀ e ∈ s.dies.streams, e.1 = f.stream ∨ e.2.kept = []) → (∀ n ∈ st.kept, n.1 = f.number) → tabSorted s.dies.streams = true →
    f.number = st.deliver → D rcv (fun t => t.links[l] = { x with wire := w, expect := x.expect + 1 } ∧ t.links[b].window = acked y f.ack ∧
      tabGet ⟨0, 0, []⟩ t.streams f.stream = { st with deliver := st.deliver + 1, kept := [] } ∧
      t.health[linkFrom l] = { s.dies.health[linkFrom l] with silent := 0 } ∧
      { t with links := s.dies.links, streams := s.dies.streams, health := s.dies.health } = s.dies)) ∧
  (still → live → x.wire = f :: w → ¬bad → Fin.ofNat 4 f.stream = linkTo l → noKept → f.number ≠ st.deliver →
    D rcv (fun t => t.streams = s.dies.streams ∧ t.links[l].expect = x.expect + 1)) ∧
  (still → live → x.wire = f :: w → ¬bad → Fin.ofNat 4 f.stream ≠ linkTo l → noKept →
    nextLink s (linkTo l) (Fin.ofNat 4 f.stream) = some n → n ≠ b → s.dies.links[n].up = true → s.dies.links[n].window.length < 2048 →
    D rcv (fun t => t.streams = s.dies.streams ∧ t.links[l] = { x with wire := w, expect := x.expect + 1 } ∧
      (∃ z ∈ t.links[n].window, z.flit.stream = f.stream ∧ z.flit.number = f.number ∧ z.flit.seq = s.dies.links[n].next ∧
        z.flit.inc = s.dies.tables[linkFrom n].incs[linkFrom n]) ∧ t.links[n].next = s.dies.links[n].next + 1)) ∧
  (idle → exec (.lathReplay l) s = .next s) ∧
  (¬idle → x.replays < 8 → OnLink (.lathReplay l) { x with wire := again x.window, stalled := 0, replays := x.replays + 1 }) ∧
  (¬idle → 8 ≤ x.replays → swap l ∨ swap b → exec (.lathReplay l) s = .next s) ∧
  (¬idle → 8 ≤ x.replays → ¬swap l → ¬swap b → D (.lathReplay l) (fun t => { t with links := s.dies.links } = s.dies ∧
    ∀ m : Fin 8, t.links[m] = if m = l ∨ m = b then { s.dies.links[m] with retraining := true, wire := [] } else s.dies.links[m])) ∧
  ((s.dies.links[2 * lath.val]'(by omega)).retraining = false → exec (.retrainComplete lath trained) s = .next s) ∧
  ((s.dies.links[2 * lath.val]'(by omega)).retraining = true → D (.retrainComplete lath true) (fun t => { t with links := s.dies.links } = s.dies ∧
    ∀ m : Fin 8, t.links[m] = if m.val / 2 = lath.val then { s.dies.links[m] with
      retraining := false, replays := 0, stalled := 0, wire := again s.dies.links[m].window } else s.dies.links[m])) ∧
  ((s.dies.links[2 * lath.val]'(by omega)).retraining = true → D (.retrainComplete lath false) (fun t =>
    { t with links := s.dies.links } = s.dies ∧ ∀ m : Fin 8, m.val / 2 = lath.val → t.links[m].up = false ∧ t.links[m].window = [] ∧ t.links[m].wire = [])) ∧
  (exec (.replayAudit l found) s = .next { s with
    dies := { s.dies with links := s.dies.links.set l { x with window := x.window.map (fun e => { e with rebuild := isBad e }) } }
    plat := { s.plat with lathWork := s.plat.lathWork.set l { s.plat.lathWork[l] with audit := s.plat.lathWork[l].audit + 1 } } })

/-! ## Host, launches and completion (22) -/

/-- RDMA under key 0 reaches the launch window, where byte 127 of a free slot with a new SEQ makes it PARSED, in the order of the
seals; under another key it reaches memory inside an open region, a read once no transaction or frozen stack holds its lines, a
write once their homes have cleared them from every cache; elsewhere it is refused; without a port that is up behind a port link that
is up nothing arrives. A read gives the byte that a die's copy or memory defines (R13, R384, R389-R392, R395, R232). By the model's
choice an access across two regions is refused (log 76), and a byte that nothing defines is open (log 20). -/
def Claims.RemoteAccess : Prop := ∀ (s u w : State) (key addr n i : Nat) (data : List Byte),
  let reach : Prop := ∃ p : Fin 4, s.plat.portUp.getLsbD p.val = true ∧ s.plat.ethUp.toNat / 16 ^ (p.val % 2) % 16 ≠ 0
  let open_ (n : Nat) : Prop := ∃ r ∈ s.host.regions, r.1 = key ∧ r.2.1 ≤ addr ∧ addr + n ≤ r.2.1 + r.2.2
  let there (n : Nat) : Prop := memExists s addr = true ∧ memExists s (addr + n - 1) = true
  let window (n : Nat) : Prop := s.host.open_ = true ∧ addr + n ≤ 65536
  let refused : State := { s with host := { s.host with sent := s.host.sent ++ [.rdmaRefused key addr] } }
  let busy (n : Nat) : Prop := ∃ l ∈ physLines addr n, homeBusy s l = true
  let clears := hostClears s (physLines addr data.length)
  let x := tabGet WinSlot.fresh s.host.slots i
  let byte (t : State) (a : Nat) : Byte := memGet t.host.window a
  let word (t : State) (j : Nat) : Word := BitVec.ofNat 64 (natOf ((List.range 8).map (fun b => byte t (128 * i + 8 * j + b))))
  (¬reach → exec (.rdmaRead key addr n) s = .next s ∧ exec (.rdmaWrite key addr data) s = .next s) ∧
  (∀ a, (∃ d, d < 4 ∧ readsBad s d (a / 32) = false) → hostByte s a = softByte s a) ∧
  (reach →
  (key = 0 → ¬window n → exec (.rdmaRead key addr n) s = .next refused) ∧
  (key = 0 → ¬window data.length → exec (.rdmaWrite key addr data) s = .next refused) ∧
  (key = 0 → window n → exec (.rdmaRead key addr n) s = .next { s with host := { s.host with
    sent := s.host.sent ++ [.data key addr ((List.range n).map (fun j => byte s (addr + j)))] } }) ∧
  (key = 0 → window data.length → i < 512 → ∃ t o, exec (.rdmaWrite key addr data) s = .next t ∧
    { t with host := { t.host with
      window := s.host.window, slots := s.host.slots, seals := s.host.seals, sent := s.host.sent } } = s ∧
    t.host.sent = s.host.sent ++ [.ack key addr data.length] ∧ s.host.seals ≤ t.host.seals ∧
    (∀ a, byte t a = if addr ≤ a then data.getD (a - addr) (byte s a) else byte s a) ∧
    tabGet WinSlot.fresh t.host.slots i =
      if addr ≤ 128 * i + 127 ∧ 128 * i + 127 < addr + data.length ∧ x.st = .free ∧ x.lastSeq ≠ some ((word t 15 >>> 32).setWidth 32) then
        { x with
          st := .parsed, lastSeq := some ((word t 15 >>> 32).setWidth 32), record := Vector.ofFn (fun j => word t j.val), order := o }
      else x) ∧
  (key = 0 → window data.length → i < 512 → addr ≤ 128 * i + 127 → 128 * i + 127 < addr + data.length → x.st = .free →
    ∀ t, exec (.rdmaWrite key addr data) s = .next t → x.lastSeq ≠ some ((word t 15 >>> 32).setWidth 32) →
      let o := (tabGet WinSlot.fresh t.host.slots i).order
      s.host.seals ≤ o ∧ o < t.host.seals) ∧
  (key ≠ 0 → ¬(open_ n ∧ there n) → exec (.rdmaRead key addr n) s = .next refused) ∧
  (key ≠ 0 → ¬(open_ data.length ∧ there data.length) → exec (.rdmaWrite key addr data) s = .next refused) ∧
  (key ≠ 0 → open_ n → there n → busy n → exec (.rdmaRead key addr n) s = .next s) ∧
  (key ≠ 0 → open_ n → there n → ¬busy n → exec (.rdmaRead key addr n) s = .next { s with host := { s.host with
    sent := s.host.sent ++ [.data key addr ((List.range n).map (fun j => hostByte s (addr + j)))] } }) ∧
  (key ≠ 0 → open_ data.length → there data.length → clears = .error w → exec (.rdmaWrite key addr data) s = .next w ∧
    OnlyMemory s w ∧ SameBytes s w) ∧
  (key ≠ 0 → open_ data.length → there data.length → clears = .ok u → ∃ t, exec (.rdmaWrite key addr data) s = .next t ∧
    SameSlots s t ∧ (∀ c, cellAt t c = cellAt s c) ∧ OnlyMemory s { t with cells := s.cells, host := s.host, place := s.place } ∧
    ((∀ sp ∈ s.place.spaces, ∀ j, j < data.length → inPool sp (addr + j) = false) → t.place = s.place) ∧
    { t.host with sent := s.host.sent } = s.host ∧ t.host.sent = s.host.sent ++ [.ack key addr data.length] ∧
    (∀ j, j < data.length → physByte t (addr + j) = data.getD j 0 ∧ memGet t.mem (addr + j) = data.getD j 0) ∧
    ∀ a, a < addr ∨ addr + data.length ≤ a → physByte t a = physByte s a))

/-- A PARSED record that is not well formed is rejected as a whole with STATUS 1; a sound one is held and this package's part latched,
or rejected with its STATUS, once what its check reads is not in a frozen stack; it is sent on to another package that has a part,
or its completion record written when that is unreachable; a forwarded record adds a part likewise; what leaves the package or comes
from another needs a port that is reached (R13, R357, R367, R377, R389, R393-R395, R399). END of what is rejected is the time of the
check (log 78), a launch without a part here runs from its parse on (log 79), and a flat number of no cell comes before the descriptor
(log 77).
By the model's choice also the record for an unreachable package has the number of the package that writes it (log 44), a forwarded part stands
behind the seals accepted before it (log 49), and a step that is not enabled leaves the state as it is (log 11). -/
def Claims.LaunchChecks : Prop := ∀ (s : State) (n : Fin 512) (pkg : Nat) (q : Vector Word 16) (fabric key peer : Word),
  let reach : Prop := ∃ p : Fin 4, s.plat.portUp.getLsbD p.val = true ∧ s.plat.ethUp.toNat / 16 ^ (p.val % 2) % 16 ≠ 0
  let x := tabGet WinSlot.fresh s.host.slots n.val
  let r := x.record
  let me := s.plat.pkg.toNat
  let w (j : Fin 16) : Nat := r[j].toNat
  let reserved : Prop := 2 ^ 45 ≤ w 0 ∨ w 0 % 2 ^ 6 ≠ 0 ∨ 2 ^ 55 ≤ w 1 ∨ w 1 % 2 ^ 16 ≠ 0 ∨ 2 ^ 55 ≤ w 3 ∨ w 3 / 2 ^ 22 % 2 ^ 10 ≠ 0 ∨
    w 4 / 2 ^ 39 % 2 ^ 5 ≠ 0 ∨ w 4 / 2 ^ 34 % 2 ^ 2 ≠ 0 ∨ 2 ^ 55 ≤ w 5 ∨ w 5 % 2 ^ 4 ≠ 0 ∨ w 6 / 2 ^ 32 % 2 ^ 16 ≠ 0 ∨ w 15 % 2 ^ 32 ≠ 0
  let first := w 3 % 2 ^ 22
  let count := w 3 / 2 ^ 32 % 2 ^ 23
  let last := (first + count - 1) / 1024
  let endpoint := tabFind s.host.endpoints (w 6 / 2 ^ 48)
  let bad : Prop := reserved ∨ count = 0 ∨ 4194304 < first + count ∨ 5 ≤ w 4 / 2 ^ 36 % 2 ^ 3 ∨ w 4 / 2 ^ 32 % 2 ^ 2 = 3 ∨
    carveBad (LaunchRec.carve r) = true ∨ w 2 / 2 ^ 32 ≤ w 2 % 2 ^ 32 ∨ endpoint = none
  let up : Prop := ∃ d : Fin 4, (s.plat.controllers[2 + d.val]'(by omega)).state = .running
  let rejection : Outgoing :=
    .completion fabric key r[14] #v[BitVec.ofNat 64 (w 15 / 2 ^ 32 * 2 ^ 32 + n.val * 2 ^ 23 + me * 2 ^ 8 + 1), s.stime, 0, 0]
  let stage (r : Vector Word 16) : PartStage := (match partStatus s r with
    | some st => .rejected st s.stime
    | none => .latched)
  let part (accepting : Nat) (r : Vector Word 16) (o : Nat) : Part := {
    accepting := accepting, slot := n, record := r, order := o, ctxid := none, stage := stage r, waked := [], lost := 0
    base := (0, 0, 0), carried := (0, 0, 0) }
  let Slot (t : State) (y : WinSlot) : Prop := ∀ j, tabGet WinSlot.fresh t.host.slots j =
    if j = n.val then y else tabGet WinSlot.fresh s.host.slots j
  let Host (t : State) : Prop := { t with host := { t.host with slots := s.host.slots, sent := s.host.sent } } = s
  (x.st ≠ .parsed ∨ ¬up → exec (.launchParse n) s = .next s) ∧
  (x.st = .parsed → ¬reach → bad ∨ first / 1024 ≠ me ∨ last ≠ me → exec (.launchParse n) s = .next s) ∧
  (x.st = .parsed → up → reach → bad → ∃ t, exec (.launchParse n) s = .next t ∧ Host t ∧ Slot t { x with st := .free } ∧
    (endpoint = some (fabric, key) → t.host.sent = s.host.sent ++ [rejection]) ∧ (endpoint = none → t.host.sent = s.host.sent)) ∧
  (x.st = .parsed → up → ¬bad → LaunchRec.hasPart r me = true → partHeld s r = true → exec (.launchParse n) s = .next s) ∧
  (x.st = .parsed → up → ¬bad → first / 1024 = me → last = me → partHeld s r = false → ∃ t, exec (.launchParse n) s = .next t ∧
    { t with host := { t.host with slots := s.host.slots, parts := s.host.parts } } = s ∧
    Slot t { x with st := .held, notices := [] } ∧ t.host.parts = s.host.parts ++ [part me r x.order]) ∧
  (x.st = .parsed → up → reach → ¬bad → first / 1024 = pkg → last = pkg → pkg ≠ me → ∃ t, exec (.launchParse n) s = .next t ∧ Host t ∧
    (tabFind s.host.peers pkg = some peer → t.host.sent = s.host.sent ++ [.launch peer pkg n r] ∧
      Slot t { x with st := .run, notices := [pkg] }) ∧
    (tabFind s.host.peers pkg = none → endpoint = some (fabric, key) → t.host.sent = s.host.sent ++ [rejection] ∧
      Slot t { x with
        notices := [], st := if ∃ p ∈ s.host.parts, p.accepting = me ∧ p.slot = n then .run else .free })) ∧
  (s.plat.brought = true → reach → pkg ≠ me → LaunchRec.hasPart q me = true → partHeld s q = false → exec (.launchForward pkg n q) s =
    .next { s with host := { s.host with
      parts := s.host.parts ++ [part pkg q s.host.seals], seals := s.host.seals + 1 } }) ∧
  (s.plat.brought = false ∨ ¬reach ∨ pkg = me ∨ LaunchRec.hasPart q me = false ∨ partHeld s q = true →
    exec (.launchForward pkg n q) s = .next s) ∧
  ((∃ c ∈ LaunchRec.cells q me, cellCount s ≤ c) → partStatus s q = some 1) ∧
  ((∀ c ∈ LaunchRec.cells q me, c < cellCount s) → (partDescriptor s q = none → partStatus s q = some 2) ∧
    ∀ v, partDescriptor s q = some v → (readList s v q = none → partStatus s q = some 1) ∧
      ((readList s v q).isSome = true → partStatus s q = none))

/-- RDMA, and the checks of a launch: RemoteAccess and LaunchChecks together. -/
def Obligations.HostAccess : Prop := Claims.RemoteAccess ∧ Claims.LaunchChecks

/-- The first part in the order of acceptance is admitted once each of its cells is free or holds its context, on a die that serves
it, and every island it uses draws at most nine tenths of its budget: its context is created, restored where the cell saved it, or
kept where it is resident, with what the launch sets, WIDEST narrowing what it must; otherwise it stays latched, and is looked at
again (R202, R357, R363, R395, R411). The model's choices: an island without a budget, a die that does not serve, and memory that
cannot be read keep a part latched (log 49). -/
def Claims.Admission : Prop :=
  ∀ (s : State) (i : Nat) (p : Part) (w : BitVec 512) (hl : Vector Word 32) (c : Nat) (im : Image) (v : State),
  let r := p.record
  let id : BitVec 16 := BitVec.ofNat 16 (w.toNat / 2 ^ 160 % 2 ^ 16)
  let cells := partCells s p
  let die (c : Nat) : Fin 4 := Fin.ofNat 4 (physOf s c / 256)
  let fits : Prop := ∀ c ∈ cells, ((cellAt s c).live = false ∨ (ccAt s c).desc.ctxid = id) ∧
    s.dies.health[die c].reported = false ∧ (s.plat.controllers[2 + (die c).val]'(by omega)).state = .running
  let cool (k : Fin 24) : Prop := s.plat.islands[k].mw ≠ 0 ∧ 10 * powerOf s k ≤ 9 * s.plat.islands[k].mw.toNat
  let energy : Prop := (∀ c ∈ cells, cool (islandOf s c) ∧ cool (uncoreOf s c)) ∧ cool 20 ∧ cool 21 ∧ cool 22 ∧ cool 23
  let earliest : Prop := (∀ q ∈ s.host.parts, q.stage = .latched → p.order ≤ q.order) ∧
    ∀ e ∈ s.host.slots, e.2.st = .parsed → p.order ≤ e.2.order
  let turn : Prop := s.host.parts[i]? = some p ∧ p.stage = .latched ∧ earliest
  let Both (Q : Host.Outcome State Fault Refusal → Prop) : Prop := Q (exec (.admission i) s) ∧ Q (exec (.admissionRecheck i) s)
  let j := s.plat.pkg.toNat * 1024 + c - r[3].toNat % 2 ^ 22
  let stack (k : Nat) : Nat := (r[5].toNat + r[6].toNat % 2 ^ 32 * (4 * j + k + 1)) / 2 ^ 4 % 2 ^ 51 * 2 ^ 4
  let widest := r[4].toNat / 2 ^ 32 % 4
  let Sets (x y : CtxCell) : Prop := y.budget.toNat = r[4].toNat % 2 ^ 32 ∧
    (widest = 3 → y.widest = x.widest ∧ y.domain = x.domain ∧ y.fails = x.fails) ∧
    (widest ≠ 3 → y.widest.toNat = widest ∧ (widest < x.domain.toNat → y.domain.toNat = widest ∧ y.fails = 0) ∧
      (x.domain.toNat ≤ widest → y.domain = x.domain ∧ y.fails = x.fails)) ∧
    (r[5].toNat < 2 ^ 55 → r[5].toNat % 16 = 0 → ∀ k : Fin 4, y.sstk[k].toNat = stack k.val) ∧
    y.chans[30].entry.toNat = r[2].toNat % 2 ^ 32 * 2 ^ 32 + 11 ∧ { y.chans[30] with entry := x.chans[30].entry } = x.chans[30] ∧
    { y with
      budget := x.budget, widest := x.widest, domain := x.domain, fails := x.fails, sstk := x.sstk,
      chans := y.chans.set 30 x.chans[30] } = x
  let saved (c : Nat) : Prop := ∃ y ∈ s.images, y.phys = physOf s c ∧ y.cc.desc.ctxid = id
  let ready : Prop := turn ∧ partDescriptor s r = some w ∧ fits ∧ energy ∧ partHeld s r = false
  (s.host.parts[i]? = none → Both (fun o => o = .next s)) ∧
  (s.host.parts[i]? = some p → p.stage ≠ .latched ∨ ¬earliest → Both (fun o => o = .next s)) ∧
  (turn → partDescriptor s r = none → Both (fun o => o = .next s)) ∧
  (turn → partDescriptor s r = some w → ¬(fits ∧ energy ∧ partHeld s r = false) → Both (fun o => o = .next s)) ∧
  (ready → restoresHeld s id cells = true → Both (fun o => ∃ t, o = .next t ∧ OnlyMemory s t ∧ SameBytes s t)) ∧
  (ready → restoresHeld s id cells = false → readList s w r = none → Both (fun o => o = .next s)) ∧
  (ready → readList s w r = some hl → (∀ e ∈ cells, (cellAt s e).live = false → ¬saved e) → Both (fun o => ∃ t, o = .next t ∧
    { t with cells := s.cells, coh := s.coh, host := { t.host with registry := s.host.registry, parts := s.host.parts } } = s ∧
    { t.coh with vic := s.coh.vic } = s.coh ∧
    (∃ q, t.host.parts = s.host.parts.set i q ∧ { q with base := p.base, ctxid := p.ctxid } = { p with stage := .admitted } ∧
      q.ctxid = some id) ∧
    ((id, LaunchRec.ctx r) ∈ t.host.registry) ∧ (∀ e, e ∉ cells → cellAt t e = cellAt s e) ∧
    (c ∈ cells → (cellAt t c).live = true ∧
      ((cellAt s c).live = true → Sets (ccAt s c) (ccAt t c)) ∧
      ((cellAt s c).live = false → ∃ y, Sets y (ccAt t c) ∧ y.desc = descriptorOf (LaunchRec.ctx r) w ∧ y.scbase = LaunchRec.code r ∧
        y.sclim.toNat = r[2].toNat / 2 ^ 32 ∧ y.scarve = LaunchRec.carve r ∧ y.tvec.toNat = w.toNat / 2 ^ 448 ∧
        y.sdctl.toNat = w.toNat / 2 ^ 384 % 2 ^ 64 ∧ y.hod = [] ∧ y.frameCtr = 0 ∧ y.domain = 0 ∧
        ∀ k : Fin 32, y.chans[k].queue = [] ∧ y.chans[k].entry.toNat = hl[k].toNat / 2 ^ 32 * 2 ^ 32 + hl[k].toNat % 16)))) ∧
  (ready → restoresHeld s id cells = false → readList s w r = some hl → cells = [c] → (cellAt s c).live = false →
    ownImage s c id = some im → tryRestore s c im = .ok v → Both (fun o => ∃ t, o = .next t ∧ (cellAt t c).live = true ∧
      Sets (ccAt (restoreImage s c im) c) (ccAt t c) ∧ t.images = (restoreImage s c im).images))

/-- The wake of an admitted part reaches each of its cells once, while the dispatcher of the cell's die runs or the die is lost, and is
kept there, with the context saved or not, until its start time, when the launch root becomes runnable on channel 30; kept in a valid
and unmasked channel of a resident context it is new local work; it waits while eight stand there, and is discarded where the context is not held; once
every cell has been reached the part runs (R170, R184, R185, R391, R396, R403, R407). What is not enabled leaves the state as it is
by the model's choice (log 11). -/
def Claims.LaunchWakes : Prop :=
  ∀ (s : State) (c i : Nat) (p : Part) (id : BitVec 16) (w : Wake) (l1 l2 : List Wake) (i1 i2 : List Image) (im : Image),
  let r := p.record
  let A := cellAt s c
  let x := A.cc
  let me := s.plat.pkg.toNat
  let d : Fin 4 := Fin.ofNat 4 (physOf s c / 256)
  let j := me * 1024 + c - r[3].toNat % 2 ^ 22
  let root : Frame := #v[BitVec.ofNat 64 (r[2].toNat % 2 ^ 32 * 2 ^ 32 + 3 * 2 ^ 28 + 3 * 2 ^ 26 + r[4].toNat / 2 ^ 36 % 2 ^ 3 * 2 ^ 22 + p.slot.val),
    r[7], r[8], r[9], r[10], r[11], r[12], BitVec.ofNat 64 (r[3].toNat / 2 ^ 32 % 2 ^ 23 * 2 ^ 32 + j)]
  let floods : Prop := (s.plat.controllers[2 + d.val]'(by omega)).state = .running ∨ s.dies.health[d].reported = true
  let due : Prop := s.host.parts[i]? = some p ∧ p.stage = .admitted ∧ c ∉ p.waked ∧ inPart s p c = true ∧ floods
  let resident : Prop := A.live = true ∧ x.desc.ctxid = id
  let savedAs (y : Image) : Prop := y.phys = physOf s c ∧ y.cc.desc.ctxid = id
  let stored (y : CtxCell) : CtxCell := { y with wakes := y.wakes ++ [⟨r[13], root⟩] }
  let kept (y : CtxCell) : CtxCell :=
    if y.chans[30].entry.getLsbD 3 = true ∧ y.chans[30].entry.getLsbD 2 = false then withWork (stored y) else stored y
  let full (y : CtxCell) : Prop := 8 ≤ y.chans[30].queue.length + y.wakes.length
  let all : Prop := ∀ e ∈ partCells s p, e = c ∨ e ∈ p.waked
  let reached : Part := { p with waked := p.waked ++ [c] }
  let Reach (t : State) : Prop := exec (.wakeArrival c i) s = .next t ∧
    { t with cells := s.cells, images := s.images, host := { t.host with parts := s.host.parts, slots := s.host.slots } } = s ∧
    t.host.parts = s.host.parts.set i (if all then { reached with stage := .running } else reached) ∧
    ∀ n, tabGet WinSlot.fresh t.host.slots n = if all ∧ p.accepting = me ∧ n = p.slot.val then
      { tabGet WinSlot.fresh s.host.slots n with st := .run } else tabGet WinSlot.fresh s.host.slots n
  (due → p.ctxid = some id → resident → ¬full x → ∃ t, Reach t ∧ cellAt t c = { A with cc := kept x } ∧ OtherCells c s t ∧
    t.images = s.images) ∧
  (due → p.ctxid = some id → resident → full x → exec (.wakeArrival c i) s = .next s) ∧
  (due → p.ctxid = some id → ¬resident → s.images = i1 ++ im :: i2 → savedAs im → (∀ y ∈ i1, ¬savedAs y) →
    (¬full im.cc → ∃ t, Reach t ∧ t.cells = s.cells ∧ t.images = i1 ++ { im with cc := stored im.cc } :: i2) ∧
    (full im.cc → exec (.wakeArrival c i) s = .next s)) ∧
  (due → p.ctxid = none ∨ p.ctxid = some id ∧ ¬resident ∧ (∀ y ∈ s.images, ¬savedAs y) → ∃ t, Reach t ∧ t.cells = s.cells ∧
    t.images = s.images) ∧
  (s.host.parts[i]? = none → exec (.wakeArrival c i) s = .next s) ∧
  (s.host.parts[i]? = some p → p.stage ≠ .admitted ∨ c ∈ p.waked ∨ inPart s p c = false ∨ ¬floods →
    exec (.wakeArrival c i) s = .next s) ∧
  (x.wakes = l1 ++ w :: l2 → (∀ z ∈ l1, s.stime.toNat < z.start.toNat) → w.start.toNat ≤ s.stime.toNat → A.live = true →
    GivesCell (.launchRootStart c) s c { A with cc := { x with
      wakes := l1 ++ l2, chans := x.chans.set 30 { x.chans[30] with queue := x.chans[30].queue ++ [w.frame] } } }) ∧
  ((∀ z ∈ x.wakes, s.stime.toNat < z.start.toNat) → exec (.launchRootStart c) s = .next s)

/-- Admission of a part and its wakes: Admission and LaunchWakes together. -/
def Obligations.Launches : Prop := Claims.Admission ∧ Claims.LaunchWakes

/-- The parts of a context are complete together, once every one of them runs and their cells hold no activation, frame, claim,
transfer, command or query of it, and no port or thief holds a frame of it; a record tells the end time, its cells and what was
aborted, killed and lost by then, on cells lost too; the record leaves by a port that is reached; the window slot is free once every record it owes is written
(R13, R389, R398-R400, R413). By the model's choice ABORTS, KILLS and UNDELIV count from the part's admission (log 43), no record goes to
an endpoint that is not in the table (log 44), and a step that is not enabled leaves the state as it is (log 11). -/
def Obligations.Completion : Prop :=
  ∀ (s : State) (i : Nat) (p : Part) (id : BitVec 16) (e : Word) (st : BitVec 8) (n : Fin 512) (pkg : Nat) (m : Nat × Nat × Nat),
  let reach : Prop := ∃ p : Fin 4, s.plat.portUp.getLsbD p.val = true ∧ s.plat.ethUp.toNat / 16 ^ (p.val % 2) % 16 ≠ 0
  let r := p.record
  let me := s.plat.pkg.toNat
  let x := tabGet WinSlot.fresh s.host.slots n.val
  let quiet (y : CtxCell) : Prop := y.hod = [] ∧ y.ringCount = 0 ∧ y.wakes = [] ∧ (∀ k : Fin 32, k ≠ 31 → y.chans[k].queue = []) ∧
    (∀ k : Fin 2, y.cch[k].queue = []) ∧ y.mxu.queue = []
  let still (q : Part) : Prop := ∀ c ∈ partCells s q,
    ((cellAt s c).live = true → (ccAt s c).desc.ctxid = id → (∀ k, (slotAt s c k).run = .free) ∧ (cellAt s c).installs = [] ∧
      (∀ v f via, (cellAt s c).steal ≠ .claimed v f via) ∧ quiet (ccAt s c) ∧ inFlight s c = 0) ∧
    ∀ im ∈ s.images, im.phys = physOf s c → im.cc.desc.ctxid = id → quiet im.cc
  let silent : Prop :=
    (∀ q ∈ s.host.parts, q.stage = .admitted ∨ q.stage = .running → q.ctxid = some id → q.stage = .running ∧ still q) ∧
    (∀ y ∈ s.cells, (∀ m ∈ y.2.port, m.ctxid ≠ id) ∧
      (y.2.live = true → y.2.cc.desc.ctxid = id → y.2.installs = [] ∧ ∀ v f via, y.2.steal ≠ .claimed v f via))
  let at_ : Word := r[14] + BitVec.ofNat 64 (32 * (me - r[3].toNat % 2 ^ 22 / 1024))
  let head (st : Nat) : Word := BitVec.ofNat 64 (r[15].toNat / 2 ^ 32 * 2 ^ 32 + p.slot.val * 2 ^ 23 + me * 2 ^ 8 + st)
  let sat (k : Nat) : Nat := min k (2 ^ 32 - 1)
  let counts (q : Part) : Nat × Nat × Nat :=
    let k := countsOf s id (partCells s q)
    (k.1 + q.carried.1 - q.base.1, k.2.1 + q.carried.2.1 - q.base.2.1, k.2.2 + q.carried.2.2 - q.base.2.2)
  let record (w : Vector Word 4) : List Outgoing := (match tabFind s.host.endpoints (r[6].toNat / 2 ^ 48) with
    | some (fabric, key) => [.completion fabric key at_ w]
    | none => [])
  let notice : List Outgoing := (match tabFind s.host.peers p.accepting with
    | some fabric => [.notice fabric p.accepting p.slot]
    | none => [])
  let Wrote (w : Vector Word 4) : Prop := ∃ t, exec (.completionWrite i) s = .next t ∧
    { t with host := { t.host with parts := s.host.parts, slots := s.host.slots, sent := s.host.sent } } = s ∧
    t.host.parts = s.host.parts.eraseIdx i ∧
    (p.accepting ≠ me → t.host.slots = s.host.slots ∧ t.host.sent = s.host.sent ++ record w ++ notice) ∧
    (p.accepting = me → t.host.sent = s.host.sent ++ record w ∧
      ∀ k, tabGet WinSlot.fresh t.host.slots k =
        let y := tabGet WinSlot.fresh s.host.slots k
        if k = p.slot.val ∧ y.st ≠ .parsed ∧ y.notices = [] ∧ ∀ q ∈ s.host.parts.eraseIdx i, ¬(q.accepting = me ∧ q.slot = p.slot) then
          { y with st := .free } else y)
  (s.host.parts[i]? = some p → p.stage = .running → p.ctxid = some id → silent → exec (.completionDetect i) s =
    .next { s with host := { s.host with parts := s.host.parts.map (fun q =>
      if q.stage = .running ∧ q.ctxid = some id then { q with stage := .complete s.stime (counts q) } else q) } }) ∧
  (s.host.parts[i]? = some p → p.stage ≠ .running ∨ p.ctxid = none ∨ p.ctxid = some id ∧ ¬silent →
    exec (.completionDetect i) s = .next s) ∧
  (s.host.parts[i]? = none → exec (.completionDetect i) s = .next s ∧ exec (.completionWrite i) s = .next s) ∧
  (¬reach → exec (.completionWrite i) s = .next s ∧ exec (.completionNotice n pkg) s = .next s) ∧
  (reach → s.host.parts[i]? = some p → p.stage = .complete e m → Wrote #v[head 0, e,
    BitVec.ofNat 64 (sat m.1 * 2 ^ 32 + sat (m.2.1 + p.lost)), BitVec.ofNat 64 (sat m.2.2 * 2 ^ 32 + sat (partCells s p).length)]) ∧
  (reach → s.host.parts[i]? = some p → p.stage = .rejected st e → Wrote #v[head st.toNat, e, 0, 0]) ∧
  (s.host.parts[i]? = some p → p.stage = .latched ∨ p.stage = .admitted ∨ p.stage = .running → exec (.completionWrite i) s = .next s) ∧
  (reach → ∃ t, exec (.completionNotice n pkg) s = .next t ∧ { t with host := { t.host with slots := s.host.slots } } = s ∧
    ∀ k, tabGet WinSlot.fresh t.host.slots k = if k = n.val then
        let y : WinSlot := { x with notices := x.notices.filter (fun q => q ≠ pkg) }
        if x.st ≠ .parsed ∧ y.notices = [] ∧ ∀ q ∈ s.host.parts, ¬(q.accepting = me ∧ q.slot = n) then { y with st := .free } else y
      else tabGet WinSlot.fresh s.host.slots k)

/-! ## Platform (23) -/

/-- The time base takes a later time and never goes back; an island's counter rises while it has power, and its power is the rise over
the last 1 ms; an alarm begins above the budget or at 105 °C and ends after a full 1 ms below 95 % and 100 °C, which any counter
update above 95 % begins anew, narrowing the idle MXUs of its cells meanwhile; at 115 °C an island is cut: one of a die fences the die,
one of a port die takes its ports and links, or its expanders and Coronaip, along; what caches hold of memory that is out of reach then
stays good (R13, R15, R30, R299, R389, R402, R409, R410, R412). The numbers of
the islands are log 54, and that a clear needs a step of its own, and that a step that is not enabled leaves the state as it is, is
the model's choice (log 11). -/
def Claims.EnergyAndTime : Prop :=
  ∀ (s : State) (i : Fin 24) (n t : Nat) (ns : Word) (d : Fin 4) (c : Nat) (r1 r2 : List (Nat × Nat)) (e : Nat × Nat),
  let x := s.plat.islands[i]
  let now := s.stime.toNat
  let hot : Prop := x.mw.toNat < powerOf s i ∨ 105 ≤ n
  let cool : Prop := 100 * powerOf s i ≤ 95 * x.mw.toNat ∧ n < 100
  let Isl (op : Instr) (y : Island) : Prop := exec op s = .next { s with plat := { s.plat with islands := s.plat.islands.set i y } }
  let Alarmed (op : Instr) (y : Island) : Prop := ∃ u, exec op s = .next u ∧ { u with plat := s.plat, cells := s.cells } = s ∧
    u.plat = { s.plat with islands := s.plat.islands.set i y } ∧
    (∀ e, { ccAt u e with mxu := (ccAt s e).mxu } = ccAt s e ∧ { (ccAt u e).mxu with narrow := (ccAt s e).mxu.narrow } = (ccAt s e).mxu) ∧
    (c ∈ s.cells.map (fun e => e.1) → (cellAt s c).live = true → (ccAt s c).mxu.queue = [] → (ccAt u c).mxu.narrow = cellAlarm u c) ∧
    ((ccAt s c).mxu.queue ≠ [] → (ccAt u c).mxu.narrow = (ccAt s c).mxu.narrow)
  let cut := s.plat.islands.set i { x with cut := true }
  let side : Fin 2 := if i.val < 22 then 0 else 1
  let coronaip : Fin 26 := Fin.ofNat 26 side.val
  let Keeps (t : State) : Prop := { t.coh with dirs := s.coh.dirs } = s.coh ∧ ∀ x m, m < 2 ^ 40 →
    let y := dirGet s.coh x m
    ∃ b, dirGet t.coh x m = { y with good := b } ∧ ∀ i, i < 4 → b.getLsbD i =
      (y.good.getLsbD i || (decide (y.lvl ≠ .i) && sectorBad t (4 * m + i) && !sectorBad s (4 * m + i)))
  (s.plat.ethUp ≠ 0 → now ≤ ns.toNat → exec (.ptpMessage ns) s = .next { s with stime := ns }) ∧
  (s.plat.ethUp = 0 ∨ ns.toNat < now → exec (.ptpMessage ns) s = .next s) ∧
  (x.readings = r1 ++ e :: r2 → (∀ y ∈ r1, now < y.1 + 1000000) → e.1 + 1000000 ≤ now → powerOf s i = x.uj.toNat - e.2) ∧
  (x.readings = r1 ++ [e] → (∀ y ∈ r1 ++ [e], now < y.1 + 1000000) → powerOf s i = x.uj.toNat - e.2) ∧
  (x.cut = true → exec (.energyCounterUpdate i n) s = .next s) ∧
  (x.cut = false → ∃ u r b, exec (.energyCounterUpdate i n) s = .next u ∧
    u = { s with plat := { s.plat with islands := s.plat.islands.set i { x with
      uj := BitVec.ofNat 64 (min (2 ^ 64 - 1) (x.uj.toNat + n)), readings := r, below := b } } } ∧
    r.head? = some (now, min (2 ^ 64 - 1) (x.uj.toNat + n)) ∧
    b = if 100 * powerOf u i ≤ 95 * x.mw.toNat then x.below else none) ∧
  (hot → Alarmed (.powerAlarm i n) { x with alarm := true, below := none }) ∧ (¬hot → exec (.powerAlarm i n) s = .next s) ∧
  (x.alarm = false → exec (.alarmClear i n) s = .next s) ∧
  (x.alarm = true → ¬cool → Isl (.alarmClear i n) { x with below := none }) ∧
  (x.alarm = true → cool → x.below = none → Isl (.alarmClear i n) { x with below := some now }) ∧
  (x.alarm = true → cool → x.below = some t → now < t + 1000000 → exec (.alarmClear i n) s = .next s) ∧
  (x.alarm = true → cool → x.below = some t → t + 1000000 ≤ now → Alarmed (.alarmClear i n) { x with alarm := false, below := none }) ∧
  (n < 115 → exec (.thermalCutoff i n) s = .next s) ∧
  (115 ≤ n → i.val = 20 ∨ i.val = 22 → ∃ t eth port, exec (.thermalCutoff i n) s = .next t ∧ Keeps t ∧
    { t with coh := s.coh } = { s with plat := { s.plat with islands := cut, ethUp := eth, portUp := port } } ∧
    (∀ k, k < 8 → (eth.getLsbD k = true ↔ s.plat.ethUp.getLsbD k = true ∧ k / 4 ≠ side.val)) ∧
    ∀ k, k < 4 → (port.getLsbD k = true ↔ s.plat.portUp.getLsbD k = true ∧ k % 2 ≠ side.val)) ∧
  (115 ≤ n → i.val = 21 ∨ i.val = 23 → ∃ t cxl, exec (.thermalCutoff i n) s = .next t ∧ Keeps t ∧
    { t with coh := s.coh } = { s with plat := { s.plat with
      islands := cut, cxlUp := cxl
      controllers := s.plat.controllers.set coronaip { s.plat.controllers[coronaip] with state := .off }
      update := if s.plat.update.any (fun u => u.type = .coronaip) then none else s.plat.update } } ∧
    ∀ k, k < 8 → (cxl.getLsbD k = true ↔ s.plat.cxlUp.getLsbD k = true ∧ k / 4 ≠ side.val)) ∧
  (115 ≤ n → i.val / 5 = d.val → s.dies.health[d].reported = true → Isl (.thermalCutoff i n) { x with cut := true }) ∧
  (115 ≤ n → i.val / 5 = d.val → s.dies.health[d].reported = false → ∃ u, exec (.thermalCutoff i n) s = .next u ∧
    { u.plat with portUp := s.plat.portUp } = { s.plat with islands := cut } ∧
    (∀ k, k < 4 → (u.plat.portUp.getLsbD k = true ↔ s.plat.portUp.getLsbD k = true ∧ k ≠ d.val)) ∧
    u.dies.health[d].reported = true ∧ u.mem = s.mem)

/-- Bring-up happens once, with a Coronaip image that passes and budgets within 3.6 MW, and sets the fuses, the images of all
controllers, the host's tables with their fabric addresses and keys, the budgets, the expanders within their windows, the links of
the port dies and the time base; a patrol moves on and changes nothing else; an expander reaches the GiB it has in the window of its
port, and one whose link is down is unreadable, its lines in caches staying good (R13, R22, R206, R389, R402, R407, R410, R415, R416). By the model's choice bring-up
with bad budgets or without an image (A is active where both pass: log 83) leaves the state as it is, and the other controllers run at once (log 47); the numbers of the
controllers are log 54; what is not enabled leaves the state as it is (log 11). -/
def Claims.PowerUp : Prop :=
  ∀ (s : State) (b : Sys2Proof.BringUp) (k : Fin 12) (port : Fin 8) (n q : Nat) (a a' : Word) (l1 l2 : List (Nat × Word))
    (m1 m2 : List (Nat × Word × Word)),
  let p := s.plat
  let Keeps (t : State) : Prop := { t.coh with dirs := s.coh.dirs } = s.coh ∧ ∀ x m, m < 2 ^ 40 →
    let y := dirGet s.coh x m
    ∃ b, dirGet t.coh x m = { y with good := b } ∧ ∀ i, i < 4 → b.getLsbD i =
      (y.good.getLsbD i || (decide (y.lvl ≠ .i) && sectorBad t (4 * m + i) && !sectorBad s (4 * m + i)))
  let passes (img : SignedImage) : Prop := img.type = 1 ∧ img.key.toNat < 4 ∧ b.revoked.getLsbD img.key.toNat = false ∧
    Config.signatureOk img = true ∧ b.floors[0].toNat ≤ img.version.toNat ∧ img.reserved = 0
  let power : Prop := (b.budgets.toList.map BitVec.toNat).sum ≤ 3600000
  let version (img : SignedImage) : ImageVer := ⟨img.version, img.hover, img.minver⟩
  (p.brought = true ∨ (¬passes b.imageA ∧ ¬passes b.imageB) ∨ ¬power → exec (.powerOn b) s = .next s) ∧
  (p.brought = false → passes b.imageA ∨ passes b.imageB → power → ∃ t, exec (.powerOn b) s = .next t ∧
    { t with plat := s.plat, host := s.host, stime := s.stime, freeNo := s.freeNo } = s ∧ t.stime = b.timeBase ∧
    (∀ q, q ∈ t.plat.absentCells ↔ q < 1024 ∧ q ∈ b.absentCells) ∧ t.plat.absentCells.Pairwise (· < ·) ∧
    t.plat.sliceBits = b.sliceBits ∧ t.plat.stackBits = b.stackBits ∧ t.plat.revoked = b.revoked ∧ t.plat.floors = b.floors ∧
    t.plat.pkg = b.pkg ∧ (∀ i : Fin 24, t.plat.islands[i] = { p.islands[i] with mw := b.budgets[i] }) ∧
    (∀ i : Fin 8, t.plat.tierGiB[i] = min 384 b.tierGiB[i]) ∧ t.plat.cxlUp = 0xFF ∧ t.plat.ethUp = 0xFF ∧ t.plat.portUp = 0xF ∧
    t.plat.heartbeat = 0 ∧ t.plat.update = p.update ∧ t.plat.updated = p.updated ∧
    (passes b.imageA → t.plat.activeCoronaip = 0 ∧ t.plat.controllers[0].state = .running) ∧
    (¬passes b.imageA → t.plat.activeCoronaip = 1 ∧ t.plat.controllers[0].state = .off) ∧
    (passes b.imageB → t.plat.controllers[1].state = .running) ∧ (¬passes b.imageB → t.plat.controllers[1].state = .off) ∧
    t.plat.controllers[0].image = version b.imageA ∧ t.plat.controllers[1].image = version b.imageB ∧
    (∀ c : Fin 26, 2 ≤ c.val → t.plat.controllers[c].state = .running ∧ t.plat.controllers[c].record = none ∧
      let v := b.images[Fin.ofNat 24 (c.val - 2)]
      t.plat.controllers[c].image = ⟨v.1, v.2.1, v.2.2⟩) ∧
    t.plat.brought = true ∧ t.host.open_ = true ∧ t.host.regions = b.regions ∧
    (q < 4096 → b.peers = l1 ++ (q, a) :: l2 → (∀ e ∈ l2, e.1 ≠ q) → tabFind t.host.peers q = some a) ∧
    (4096 ≤ q ∨ (∀ e ∈ b.peers, e.1 ≠ q) → tabFind t.host.peers q = none) ∧
    (q < 65536 → b.endpoints = m1 ++ (q, a, a') :: m2 → (∀ e ∈ m2, e.1 ≠ q) → tabFind t.host.endpoints q = some (a, a')) ∧
    (65536 ≤ q ∨ (∀ e ∈ b.endpoints, e.1 ≠ q) → tabFind t.host.endpoints q = none) ∧
    t.host.slots = [] ∧ t.host.parts = s.host.parts ∧ t.host.registry = s.host.registry) ∧
  exec (.patrolScrub none) s = .next s ∧
  exec (.patrolScrub (some k)) s = .next { s with plat := { p with
    baseWork := p.baseWork.set k { p.baseWork[k] with scrub := p.baseWork[k].scrub + 1 } } } ∧
  (n < 0x6000000000 → (memExists s (0x100000000000 + 0x6000000000 * port.val + n) = true ↔ n < p.tierGiB[port] * 2 ^ 30)) ∧
  (0x6000000000 * 8 ≤ n → memExists s (0x100000000000 + n) = false) ∧
  ∃ t, exec (.cxlLinkDown port) s = .next t ∧ { t with plat := { t.plat with cxlUp := p.cxlUp }, coh := s.coh } = s ∧ Keeps t ∧
    (∀ i, i < 8 → t.plat.cxlUp.getLsbD i = if i = port.val then false else p.cxlUp.getLsbD i) ∧
    (tierBase / 32 ≤ n → (n - tierBase / 32) / (0x6000000000 / 32) = port.val → sectorBad t n = true)

/-- Time, energy, alarms and bring-up: EnergyAndTime and PowerUp together. -/
def Obligations.PowerAndTime : Prop := Claims.EnergyAndTime ∧ Claims.PowerUp

/-- An image is accepted when its key is not revoked, its signature verifies, its version reaches the floor of its TYPE and no other
update runs; the controllers that are on no fenced die and have power take it one after another, the update pausing while a fence is unconfirmed (it
goes on once all are confirmed: log 81) and stopping at a version that does not fit; each stops at its safe point with its record in retained memory, its new image takes up the
record when it checks in (refresh has gone on meanwhile), and a watchdog brings the old image back to the same record; requests that waited for a dispatcher, at a cell
too, are then carried out; the standby Coronaip goes first and becomes active, and takes over from one that misses three heartbeats; an update of
every controller of a TYPE can raise the floor (R15, R182, R359, R363, R383, R403-R409). The numbers and the order of the controllers are log 54,
and what is not enabled leaves the state as it is by the model's choice (log 11). -/
def Obligations.Firmware : Prop :=
  ∀ (s : State) (img : SignedImage) (u : Update) (c f : Fin 26) (n : Nat) (ty : CtrlType) (v : BitVec 32) (pre rest : List (Fin 26))
    (d : Fin 4) (a ph : Nat) (id : BitVec 16) (l : List Turn) (y : Cell),
  let p := s.plat
  let no (t : CtrlType) : Nat := (match t with
    | .coronaip => 1 | .dispatcher => 2 | .baseDie => 3 | .lath => 4)
  let ix (t : CtrlType) : Fin 4 := (match t with
    | .coronaip => 0 | .dispatcher => 1 | .baseDie => 2 | .lath => 3)
  let floor := p.floors[ix ty]
  let sound (t : CtrlType) : Prop := img.key.toNat < 4 ∧ p.revoked.getLsbD img.key.toNat = false ∧ Config.signatureOk img = true ∧
    p.floors[ix t].toNat ≤ img.version.toNat ∧ img.reserved = 0
  let fits (x y : ImageVer) : Prop := y.minver.toNat ≤ x.hover.toNat ∧ x.hover.toNat ≤ y.hover.toNat
  let turnOrder (t : CtrlType) : List (Fin 26) := (match t with
    | .coronaip => if p.activeCoronaip = 0 then [1, 0] else [0, 1]
    | .dispatcher => (List.range 4).map (fun k => Fin.ofNat 26 (2 + k))
    | .baseDie => (List.range 12).map (fun k => Fin.ofNat 26 (6 + k))
    | .lath => (List.range 8).map (fun k => Fin.ofNat 26 (18 + k)))
  let skips (v : State) (c : Fin 26) : Prop := (∃ d : Fin 4, v.dies.health[d].reported = true ∧
    (c.val = 2 + d.val ∨ 18 ≤ c.val ∧ linkFrom (Fin.ofNat 8 (c.val - 18)) = d)) ∨
    c.val < 2 ∧ (v.plat.islands[Fin.ofNat 24 (21 + 2 * c.val)]).cut = true
  let paused (v : State) : Prop := ∃ d : Fin 4, v.dies.health[d].reported = true ∧ v.dies.health[d].confirmed = false
  let To (v : State) (o : Host.Outcome State Fault Refusal) (q : Platform) : Prop := o = .next { v with plat := q }
  let Goes (v : State) (q : Update) (o : Host.Outcome State Fault Refusal) : Prop :=
    (paused v → To v o { v.plat with update := some { q with next := none } }) ∧
    (¬paused v → q.left = pre ++ f :: rest → (∀ g ∈ pre, skips v g) → ¬skips v f →
      (fits v.plat.controllers[f].image q.image → To v o { v.plat with
        controllers := v.plat.controllers.set f { v.plat.controllers[f] with
          record := some (recordOf v f), state := .starting (v.stime.toNat + (if q.type = .dispatcher then 2000000 else 200000000)) }
        update := some { q with next := some f, left := rest, skipped := q.skipped || !pre.isEmpty } }) ∧
      (¬fits v.plat.controllers[f].image q.image → To v o { v.plat with update := none })) ∧
    (¬paused v → (∀ g ∈ q.left, skips v g) → To v o { v.plat with
      update := none
      updated := if q.skipped = false ∧ q.left = [] then v.plat.updated.set (ix q.type) (some q.image.version) else v.plat.updated })
  let x := p.controllers[c]
  let taken (y : Controller) : Platform := { p with
    controllers := p.controllers.set c y
    baseWork := (match x.record with
      | some (.baseDie w _) =>
        p.baseWork.set (Fin.ofNat 12 (c.val - 6)) { w with refresh := p.baseWork[Fin.ofNat 12 (c.val - 6)].refresh }
      | _ => p.baseWork)
    lathWork := (match x.record with
      | some (.lath w _) => p.lathWork.set (Fin.ofNat 8 (c.val - 18)) w
      | _ => p.lathWork) }
  let checked := taken { x with image := u.image, retained := x.image, state := .running }
  let switched : Platform := if u.type = .coronaip ∧ u.done = 0 then
    { checked with activeCoronaip := Fin.ofNat 2 c.val, heartbeat := 0 } else checked
  let back := serveRequests { s with plat := taken { x with state := .running } }
  let idle : State := { s with host := { s.host with requests := [] } }
  let calm : Prop := ∀ e, (cellAt s e).preempt = none
  let up : Prop := (p.controllers[2 + (Fin.ofNat 4 (physOf s a / 256)).val]).state = .running
  (p.brought = false ∨ p.update ≠ none ∨ (∀ t, img.type.toNat = no t → ¬sound t) → exec (.imageUpdate img) s = .next s) ∧
  (p.brought = true → p.update = none → img.type.toNat = no ty → sound ty →
    Goes s ⟨ty, ⟨img.version, img.hover, img.minver⟩, none, turnOrder ty, 0, false⟩ (exec (.imageUpdate img) s)) ∧
  (p.update.bind (fun u => u.next) = none → exec .controllerCheckIn s = .next s ∧ exec .updateWatchdog s = .next s) ∧
  (p.update = some u → u.next = some c → x.state = .running ∨ x.state = .off →
    exec .controllerCheckIn s = .next s ∧ exec .updateWatchdog s = .next s) ∧
  (p.update = some u → u.next = some c → x.state = .starting n →
    (n < s.stime.toNat → exec .controllerCheckIn s = .next s) ∧ (s.stime.toNat < n → exec .updateWatchdog s = .next s) ∧
    (n ≤ s.stime.toNat → exec .updateWatchdog s = .next { back with plat := { back.plat with update := none } }) ∧
    (s.stime.toNat ≤ n →
      Goes (serveRequests { s with plat := switched }) { u with done := u.done + 1 } (exec .controllerCheckIn s))) ∧
  (s.host.requests = [] → calm → serveRequests s = s) ∧
  (s.host.requests = [] → s.cells = [(a, y)] → y.preempt = some id → y.live = true → y.cc.desc.ctxid = id →
    (∀ k, (slotAt s a k).run = .free) → up → serveRequests s = { s with cells := [(a, { y with closed := true })] }) ∧
  (s.host.requests = [.preempt a id] → calm → (up → exec (.preemptRequest a id) idle = .next (serveRequests s)) ∧ (¬up → serveRequests s = s)) ∧
  (s.host.requests = [.restore a id ph] → calm →
    (up → exec (.restoreRequest a id ph) idle = .next (serveRequests s)) ∧ (¬up → serveRequests s = s)) ∧
  (s.dies.health[d].reported = true → s.dies.health[d].confirmed = false → p.update = some u →
    (u.next = none → Goes (confirmFence s d) u (exec (.fenceConfirm d) s)) ∧
    (u.next ≠ none → exec (.fenceConfirm d) s = .next (confirmFence s d))) ∧
  (let a := p.activeCoronaip
   let b : Fin 2 := a + 1
   let A : Fin 26 := Fin.ofNat 26 a.val
   let B : Fin 26 := Fin.ofNat 26 b.val
   (p.controllers[B].state = .off ∨ p.heartbeat < 3000000 → exec .coronaipFailover s = .next s) ∧
   (p.controllers[B].state ≠ .off → 3000000 ≤ p.heartbeat → To s (exec .coronaipFailover s) { p with
     controllers := (p.controllers.set A { p.controllers[A] with state := .off }).set B { p.controllers[B] with state := .running }
     activeCoronaip := b
     heartbeat := 0
     update := if p.update.any (fun u => u.type = .coronaip) then none else p.update }) ∧
   (s.agenda = .heartbeat :: l → p.controllers[A].state = .running → step s = .next { s with
     agenda := l, turnNo := s.turnNo + 1, plat := { p with heartbeat := 0 } })) ∧
  (p.updated[ix ty] = none → exec (.versionFloorRaise ty) s = .next s) ∧
  (p.updated[ix ty] = some v → To s (exec (.versionFloorRaise ty) s) { p with
    floors := p.floors.set (ix ty) (if floor.toNat ≤ v.toNat then v else floor), updated := p.updated.set (ix ty) none })
end

