-- ==== Sys2Proof/Laws/State.lean ====
section
/-! SUPPORT. The fields of the state after each named update of Ops: one lemma for each field that an update leaves alone. -/

namespace Sys2Proof.Machine

/-! ## putSlotAt -/

@[simp] theorem putSlotAt_cells (s : State) (c : Nat) (k : Fin 4) (x : Slot) : (putSlotAt s c k x).cells = s.cells := rfl
@[simp] theorem putSlotAt_images (s : State) (c : Nat) (k : Fin 4) (x : Slot) : (putSlotAt s c k x).images = s.images := rfl
@[simp] theorem putSlotAt_mem (s : State) (c : Nat) (k : Fin 4) (x : Slot) : (putSlotAt s c k x).mem = s.mem := rfl
@[simp] theorem putSlotAt_dirty (s : State) (c : Nat) (k : Fin 4) (x : Slot) : (putSlotAt s c k x).dirty = s.dirty := rfl
@[simp] theorem putSlotAt_poison (s : State) (c : Nat) (k : Fin 4) (x : Slot) : (putSlotAt s c k x).poison = s.poison := rfl
@[simp] theorem putSlotAt_coh (s : State) (c : Nat) (k : Fin 4) (x : Slot) : (putSlotAt s c k x).coh = s.coh := rfl
@[simp] theorem putSlotAt_tlbs (s : State) (c : Nat) (k : Fin 4) (x : Slot) : (putSlotAt s c k x).tlbs = s.tlbs := rfl
@[simp] theorem putSlotAt_scrim (s : State) (c : Nat) (k : Fin 4) (x : Slot) : (putSlotAt s c k x).scrim = s.scrim := rfl
@[simp] theorem putSlotAt_stxs (s : State) (c : Nat) (k : Fin 4) (x : Slot) : (putSlotAt s c k x).stxs = s.stxs := rfl
@[simp] theorem putSlotAt_stxNo (s : State) (c : Nat) (k : Fin 4) (x : Slot) : (putSlotAt s c k x).stxNo = s.stxNo := rfl
@[simp] theorem putSlotAt_reports (s : State) (c : Nat) (k : Fin 4) (x : Slot) : (putSlotAt s c k x).reports = s.reports := rfl
@[simp] theorem putSlotAt_place (s : State) (c : Nat) (k : Fin 4) (x : Slot) : (putSlotAt s c k x).place = s.place := rfl
@[simp] theorem putSlotAt_dies (s : State) (c : Nat) (k : Fin 4) (x : Slot) : (putSlotAt s c k x).dies = s.dies := rfl
@[simp] theorem putSlotAt_host (s : State) (c : Nat) (k : Fin 4) (x : Slot) : (putSlotAt s c k x).host = s.host := rfl
@[simp] theorem putSlotAt_plat (s : State) (c : Nat) (k : Fin 4) (x : Slot) : (putSlotAt s c k x).plat = s.plat := rfl
@[simp] theorem putSlotAt_stime (s : State) (c : Nat) (k : Fin 4) (x : Slot) : (putSlotAt s c k x).stime = s.stime := rfl
@[simp] theorem putSlotAt_cycle (s : State) (c : Nat) (k : Fin 4) (x : Slot) : (putSlotAt s c k x).cycle = s.cycle := rfl
@[simp] theorem putSlotAt_curCell (s : State) (c : Nat) (k : Fin 4) (x : Slot) : (putSlotAt s c k x).curCell = s.curCell := rfl
@[simp] theorem putSlotAt_curSlot (s : State) (c : Nat) (k : Fin 4) (x : Slot) : (putSlotAt s c k x).curSlot = s.curSlot := rfl
@[simp] theorem putSlotAt_agenda (s : State) (c : Nat) (k : Fin 4) (x : Slot) : (putSlotAt s c k x).agenda = s.agenda := rfl
@[simp] theorem putSlotAt_turnNo (s : State) (c : Nat) (k : Fin 4) (x : Slot) : (putSlotAt s c k x).turnNo = s.turnNo := rfl
@[simp] theorem putSlotAt_freeNo (s : State) (c : Nat) (k : Fin 4) (x : Slot) : (putSlotAt s c k x).freeNo = s.freeNo := rfl

/-! ## putSlot -/

@[simp] theorem putSlot_cells (s : State) (x : Slot) : (putSlot s x).cells = s.cells := rfl
@[simp] theorem putSlot_images (s : State) (x : Slot) : (putSlot s x).images = s.images := rfl
@[simp] theorem putSlot_mem (s : State) (x : Slot) : (putSlot s x).mem = s.mem := rfl
@[simp] theorem putSlot_dirty (s : State) (x : Slot) : (putSlot s x).dirty = s.dirty := rfl
@[simp] theorem putSlot_poison (s : State) (x : Slot) : (putSlot s x).poison = s.poison := rfl
@[simp] theorem putSlot_coh (s : State) (x : Slot) : (putSlot s x).coh = s.coh := rfl
@[simp] theorem putSlot_tlbs (s : State) (x : Slot) : (putSlot s x).tlbs = s.tlbs := rfl
@[simp] theorem putSlot_scrim (s : State) (x : Slot) : (putSlot s x).scrim = s.scrim := rfl
@[simp] theorem putSlot_stxs (s : State) (x : Slot) : (putSlot s x).stxs = s.stxs := rfl
@[simp] theorem putSlot_stxNo (s : State) (x : Slot) : (putSlot s x).stxNo = s.stxNo := rfl
@[simp] theorem putSlot_reports (s : State) (x : Slot) : (putSlot s x).reports = s.reports := rfl
@[simp] theorem putSlot_place (s : State) (x : Slot) : (putSlot s x).place = s.place := rfl
@[simp] theorem putSlot_dies (s : State) (x : Slot) : (putSlot s x).dies = s.dies := rfl
@[simp] theorem putSlot_host (s : State) (x : Slot) : (putSlot s x).host = s.host := rfl
@[simp] theorem putSlot_plat (s : State) (x : Slot) : (putSlot s x).plat = s.plat := rfl
@[simp] theorem putSlot_stime (s : State) (x : Slot) : (putSlot s x).stime = s.stime := rfl
@[simp] theorem putSlot_cycle (s : State) (x : Slot) : (putSlot s x).cycle = s.cycle := rfl
@[simp] theorem putSlot_curCell (s : State) (x : Slot) : (putSlot s x).curCell = s.curCell := rfl
@[simp] theorem putSlot_curSlot (s : State) (x : Slot) : (putSlot s x).curSlot = s.curSlot := rfl
@[simp] theorem putSlot_agenda (s : State) (x : Slot) : (putSlot s x).agenda = s.agenda := rfl
@[simp] theorem putSlot_turnNo (s : State) (x : Slot) : (putSlot s x).turnNo = s.turnNo := rfl
@[simp] theorem putSlot_freeNo (s : State) (x : Slot) : (putSlot s x).freeNo = s.freeNo := rfl

/-! ## putCell -/

@[simp] theorem putCell_slots (s : State) (c : Nat) (x : Cell) : (putCell s c x).slots = s.slots := rfl
@[simp] theorem putCell_images (s : State) (c : Nat) (x : Cell) : (putCell s c x).images = s.images := rfl
@[simp] theorem putCell_mem (s : State) (c : Nat) (x : Cell) : (putCell s c x).mem = s.mem := rfl
@[simp] theorem putCell_dirty (s : State) (c : Nat) (x : Cell) : (putCell s c x).dirty = s.dirty := rfl
@[simp] theorem putCell_poison (s : State) (c : Nat) (x : Cell) : (putCell s c x).poison = s.poison := rfl
@[simp] theorem putCell_coh (s : State) (c : Nat) (x : Cell) : (putCell s c x).coh = s.coh := rfl
@[simp] theorem putCell_tlbs (s : State) (c : Nat) (x : Cell) : (putCell s c x).tlbs = s.tlbs := rfl
@[simp] theorem putCell_scrim (s : State) (c : Nat) (x : Cell) : (putCell s c x).scrim = s.scrim := rfl
@[simp] theorem putCell_stxs (s : State) (c : Nat) (x : Cell) : (putCell s c x).stxs = s.stxs := rfl
@[simp] theorem putCell_stxNo (s : State) (c : Nat) (x : Cell) : (putCell s c x).stxNo = s.stxNo := rfl
@[simp] theorem putCell_reports (s : State) (c : Nat) (x : Cell) : (putCell s c x).reports = s.reports := rfl
@[simp] theorem putCell_place (s : State) (c : Nat) (x : Cell) : (putCell s c x).place = s.place := rfl
@[simp] theorem putCell_dies (s : State) (c : Nat) (x : Cell) : (putCell s c x).dies = s.dies := rfl
@[simp] theorem putCell_host (s : State) (c : Nat) (x : Cell) : (putCell s c x).host = s.host := rfl
@[simp] theorem putCell_plat (s : State) (c : Nat) (x : Cell) : (putCell s c x).plat = s.plat := rfl
@[simp] theorem putCell_stime (s : State) (c : Nat) (x : Cell) : (putCell s c x).stime = s.stime := rfl
@[simp] theorem putCell_cycle (s : State) (c : Nat) (x : Cell) : (putCell s c x).cycle = s.cycle := rfl
@[simp] theorem putCell_curCell (s : State) (c : Nat) (x : Cell) : (putCell s c x).curCell = s.curCell := rfl
@[simp] theorem putCell_curSlot (s : State) (c : Nat) (x : Cell) : (putCell s c x).curSlot = s.curSlot := rfl
@[simp] theorem putCell_agenda (s : State) (c : Nat) (x : Cell) : (putCell s c x).agenda = s.agenda := rfl
@[simp] theorem putCell_turnNo (s : State) (c : Nat) (x : Cell) : (putCell s c x).turnNo = s.turnNo := rfl
@[simp] theorem putCell_freeNo (s : State) (c : Nat) (x : Cell) : (putCell s c x).freeNo = s.freeNo := rfl

/-! ## putCc -/

@[simp] theorem putCc_slots (s : State) (c : Nat) (x : CtxCell) : (putCc s c x).slots = s.slots := rfl
@[simp] theorem putCc_images (s : State) (c : Nat) (x : CtxCell) : (putCc s c x).images = s.images := rfl
@[simp] theorem putCc_mem (s : State) (c : Nat) (x : CtxCell) : (putCc s c x).mem = s.mem := rfl
@[simp] theorem putCc_dirty (s : State) (c : Nat) (x : CtxCell) : (putCc s c x).dirty = s.dirty := rfl
@[simp] theorem putCc_poison (s : State) (c : Nat) (x : CtxCell) : (putCc s c x).poison = s.poison := rfl
@[simp] theorem putCc_coh (s : State) (c : Nat) (x : CtxCell) : (putCc s c x).coh = s.coh := rfl
@[simp] theorem putCc_tlbs (s : State) (c : Nat) (x : CtxCell) : (putCc s c x).tlbs = s.tlbs := rfl
@[simp] theorem putCc_scrim (s : State) (c : Nat) (x : CtxCell) : (putCc s c x).scrim = s.scrim := rfl
@[simp] theorem putCc_stxs (s : State) (c : Nat) (x : CtxCell) : (putCc s c x).stxs = s.stxs := rfl
@[simp] theorem putCc_stxNo (s : State) (c : Nat) (x : CtxCell) : (putCc s c x).stxNo = s.stxNo := rfl
@[simp] theorem putCc_reports (s : State) (c : Nat) (x : CtxCell) : (putCc s c x).reports = s.reports := rfl
@[simp] theorem putCc_place (s : State) (c : Nat) (x : CtxCell) : (putCc s c x).place = s.place := rfl
@[simp] theorem putCc_dies (s : State) (c : Nat) (x : CtxCell) : (putCc s c x).dies = s.dies := rfl
@[simp] theorem putCc_host (s : State) (c : Nat) (x : CtxCell) : (putCc s c x).host = s.host := rfl
@[simp] theorem putCc_plat (s : State) (c : Nat) (x : CtxCell) : (putCc s c x).plat = s.plat := rfl
@[simp] theorem putCc_stime (s : State) (c : Nat) (x : CtxCell) : (putCc s c x).stime = s.stime := rfl
@[simp] theorem putCc_cycle (s : State) (c : Nat) (x : CtxCell) : (putCc s c x).cycle = s.cycle := rfl
@[simp] theorem putCc_curCell (s : State) (c : Nat) (x : CtxCell) : (putCc s c x).curCell = s.curCell := rfl
@[simp] theorem putCc_curSlot (s : State) (c : Nat) (x : CtxCell) : (putCc s c x).curSlot = s.curSlot := rfl
@[simp] theorem putCc_agenda (s : State) (c : Nat) (x : CtxCell) : (putCc s c x).agenda = s.agenda := rfl
@[simp] theorem putCc_turnNo (s : State) (c : Nat) (x : CtxCell) : (putCc s c x).turnNo = s.turnNo := rfl
@[simp] theorem putCc_freeNo (s : State) (c : Nat) (x : CtxCell) : (putCc s c x).freeNo = s.freeNo := rfl

/-! ## putCcOf -/

@[simp] theorem putCcOf_slots (s : State) (x : CtxCell) : (putCcOf s x).slots = s.slots := rfl
@[simp] theorem putCcOf_images (s : State) (x : CtxCell) : (putCcOf s x).images = s.images := rfl
@[simp] theorem putCcOf_mem (s : State) (x : CtxCell) : (putCcOf s x).mem = s.mem := rfl
@[simp] theorem putCcOf_dirty (s : State) (x : CtxCell) : (putCcOf s x).dirty = s.dirty := rfl
@[simp] theorem putCcOf_poison (s : State) (x : CtxCell) : (putCcOf s x).poison = s.poison := rfl
@[simp] theorem putCcOf_coh (s : State) (x : CtxCell) : (putCcOf s x).coh = s.coh := rfl
@[simp] theorem putCcOf_tlbs (s : State) (x : CtxCell) : (putCcOf s x).tlbs = s.tlbs := rfl
@[simp] theorem putCcOf_scrim (s : State) (x : CtxCell) : (putCcOf s x).scrim = s.scrim := rfl
@[simp] theorem putCcOf_stxs (s : State) (x : CtxCell) : (putCcOf s x).stxs = s.stxs := rfl
@[simp] theorem putCcOf_stxNo (s : State) (x : CtxCell) : (putCcOf s x).stxNo = s.stxNo := rfl
@[simp] theorem putCcOf_reports (s : State) (x : CtxCell) : (putCcOf s x).reports = s.reports := rfl
@[simp] theorem putCcOf_place (s : State) (x : CtxCell) : (putCcOf s x).place = s.place := rfl
@[simp] theorem putCcOf_dies (s : State) (x : CtxCell) : (putCcOf s x).dies = s.dies := rfl
@[simp] theorem putCcOf_host (s : State) (x : CtxCell) : (putCcOf s x).host = s.host := rfl
@[simp] theorem putCcOf_plat (s : State) (x : CtxCell) : (putCcOf s x).plat = s.plat := rfl
@[simp] theorem putCcOf_stime (s : State) (x : CtxCell) : (putCcOf s x).stime = s.stime := rfl
@[simp] theorem putCcOf_cycle (s : State) (x : CtxCell) : (putCcOf s x).cycle = s.cycle := rfl
@[simp] theorem putCcOf_curCell (s : State) (x : CtxCell) : (putCcOf s x).curCell = s.curCell := rfl
@[simp] theorem putCcOf_curSlot (s : State) (x : CtxCell) : (putCcOf s x).curSlot = s.curSlot := rfl
@[simp] theorem putCcOf_agenda (s : State) (x : CtxCell) : (putCcOf s x).agenda = s.agenda := rfl
@[simp] theorem putCcOf_turnNo (s : State) (x : CtxCell) : (putCcOf s x).turnNo = s.turnNo := rfl
@[simp] theorem putCcOf_freeNo (s : State) (x : CtxCell) : (putCcOf s x).freeNo = s.freeNo := rfl

/-! ## postEvent -/

@[simp] theorem postEvent_slots (s : State) (c n : Nat) (w : Word) : (postEvent s c n w).slots = s.slots := rfl
@[simp] theorem postEvent_images (s : State) (c n : Nat) (w : Word) : (postEvent s c n w).images = s.images := rfl
@[simp] theorem postEvent_mem (s : State) (c n : Nat) (w : Word) : (postEvent s c n w).mem = s.mem := rfl
@[simp] theorem postEvent_dirty (s : State) (c n : Nat) (w : Word) : (postEvent s c n w).dirty = s.dirty := rfl
@[simp] theorem postEvent_poison (s : State) (c n : Nat) (w : Word) : (postEvent s c n w).poison = s.poison := rfl
@[simp] theorem postEvent_coh (s : State) (c n : Nat) (w : Word) : (postEvent s c n w).coh = s.coh := rfl
@[simp] theorem postEvent_tlbs (s : State) (c n : Nat) (w : Word) : (postEvent s c n w).tlbs = s.tlbs := rfl
@[simp] theorem postEvent_scrim (s : State) (c n : Nat) (w : Word) : (postEvent s c n w).scrim = s.scrim := rfl
@[simp] theorem postEvent_stxs (s : State) (c n : Nat) (w : Word) : (postEvent s c n w).stxs = s.stxs := rfl
@[simp] theorem postEvent_stxNo (s : State) (c n : Nat) (w : Word) : (postEvent s c n w).stxNo = s.stxNo := rfl
@[simp] theorem postEvent_reports (s : State) (c n : Nat) (w : Word) : (postEvent s c n w).reports = s.reports := rfl
@[simp] theorem postEvent_place (s : State) (c n : Nat) (w : Word) : (postEvent s c n w).place = s.place := rfl
@[simp] theorem postEvent_dies (s : State) (c n : Nat) (w : Word) : (postEvent s c n w).dies = s.dies := rfl
@[simp] theorem postEvent_host (s : State) (c n : Nat) (w : Word) : (postEvent s c n w).host = s.host := rfl
@[simp] theorem postEvent_plat (s : State) (c n : Nat) (w : Word) : (postEvent s c n w).plat = s.plat := rfl
@[simp] theorem postEvent_stime (s : State) (c n : Nat) (w : Word) : (postEvent s c n w).stime = s.stime := rfl
@[simp] theorem postEvent_cycle (s : State) (c n : Nat) (w : Word) : (postEvent s c n w).cycle = s.cycle := rfl
@[simp] theorem postEvent_curCell (s : State) (c n : Nat) (w : Word) : (postEvent s c n w).curCell = s.curCell := rfl
@[simp] theorem postEvent_curSlot (s : State) (c n : Nat) (w : Word) : (postEvent s c n w).curSlot = s.curSlot := rfl
@[simp] theorem postEvent_agenda (s : State) (c n : Nat) (w : Word) : (postEvent s c n w).agenda = s.agenda := rfl
@[simp] theorem postEvent_turnNo (s : State) (c n : Nat) (w : Word) : (postEvent s c n w).turnNo = s.turnNo := rfl
@[simp] theorem postEvent_freeNo (s : State) (c n : Nat) (w : Word) : (postEvent s c n w).freeNo = s.freeNo := rfl

/-! ## writeG -/

@[simp] theorem writeG_cells (s : State) (r : GReg) (w : Word) : (writeG s r w).cells = s.cells := rfl
@[simp] theorem writeG_images (s : State) (r : GReg) (w : Word) : (writeG s r w).images = s.images := rfl
@[simp] theorem writeG_mem (s : State) (r : GReg) (w : Word) : (writeG s r w).mem = s.mem := rfl
@[simp] theorem writeG_dirty (s : State) (r : GReg) (w : Word) : (writeG s r w).dirty = s.dirty := rfl
@[simp] theorem writeG_poison (s : State) (r : GReg) (w : Word) : (writeG s r w).poison = s.poison := rfl
@[simp] theorem writeG_coh (s : State) (r : GReg) (w : Word) : (writeG s r w).coh = s.coh := rfl
@[simp] theorem writeG_tlbs (s : State) (r : GReg) (w : Word) : (writeG s r w).tlbs = s.tlbs := rfl
@[simp] theorem writeG_scrim (s : State) (r : GReg) (w : Word) : (writeG s r w).scrim = s.scrim := rfl
@[simp] theorem writeG_stxs (s : State) (r : GReg) (w : Word) : (writeG s r w).stxs = s.stxs := rfl
@[simp] theorem writeG_stxNo (s : State) (r : GReg) (w : Word) : (writeG s r w).stxNo = s.stxNo := rfl
@[simp] theorem writeG_reports (s : State) (r : GReg) (w : Word) : (writeG s r w).reports = s.reports := rfl
@[simp] theorem writeG_place (s : State) (r : GReg) (w : Word) : (writeG s r w).place = s.place := rfl
@[simp] theorem writeG_dies (s : State) (r : GReg) (w : Word) : (writeG s r w).dies = s.dies := rfl
@[simp] theorem writeG_host (s : State) (r : GReg) (w : Word) : (writeG s r w).host = s.host := rfl
@[simp] theorem writeG_plat (s : State) (r : GReg) (w : Word) : (writeG s r w).plat = s.plat := rfl
@[simp] theorem writeG_stime (s : State) (r : GReg) (w : Word) : (writeG s r w).stime = s.stime := rfl
@[simp] theorem writeG_cycle (s : State) (r : GReg) (w : Word) : (writeG s r w).cycle = s.cycle := rfl
@[simp] theorem writeG_curCell (s : State) (r : GReg) (w : Word) : (writeG s r w).curCell = s.curCell := rfl
@[simp] theorem writeG_curSlot (s : State) (r : GReg) (w : Word) : (writeG s r w).curSlot = s.curSlot := rfl
@[simp] theorem writeG_agenda (s : State) (r : GReg) (w : Word) : (writeG s r w).agenda = s.agenda := rfl
@[simp] theorem writeG_turnNo (s : State) (r : GReg) (w : Word) : (writeG s r w).turnNo = s.turnNo := rfl
@[simp] theorem writeG_freeNo (s : State) (r : GReg) (w : Word) : (writeG s r w).freeNo = s.freeNo := rfl

/-! ## writeP -/

@[simp] theorem writeP_cells (s : State) (r : PReg) (b : Bool) : (writeP s r b).cells = s.cells := rfl
@[simp] theorem writeP_images (s : State) (r : PReg) (b : Bool) : (writeP s r b).images = s.images := rfl
@[simp] theorem writeP_mem (s : State) (r : PReg) (b : Bool) : (writeP s r b).mem = s.mem := rfl
@[simp] theorem writeP_dirty (s : State) (r : PReg) (b : Bool) : (writeP s r b).dirty = s.dirty := rfl
@[simp] theorem writeP_poison (s : State) (r : PReg) (b : Bool) : (writeP s r b).poison = s.poison := rfl
@[simp] theorem writeP_coh (s : State) (r : PReg) (b : Bool) : (writeP s r b).coh = s.coh := rfl
@[simp] theorem writeP_tlbs (s : State) (r : PReg) (b : Bool) : (writeP s r b).tlbs = s.tlbs := rfl
@[simp] theorem writeP_scrim (s : State) (r : PReg) (b : Bool) : (writeP s r b).scrim = s.scrim := rfl
@[simp] theorem writeP_stxs (s : State) (r : PReg) (b : Bool) : (writeP s r b).stxs = s.stxs := rfl
@[simp] theorem writeP_stxNo (s : State) (r : PReg) (b : Bool) : (writeP s r b).stxNo = s.stxNo := rfl
@[simp] theorem writeP_reports (s : State) (r : PReg) (b : Bool) : (writeP s r b).reports = s.reports := rfl
@[simp] theorem writeP_place (s : State) (r : PReg) (b : Bool) : (writeP s r b).place = s.place := rfl
@[simp] theorem writeP_dies (s : State) (r : PReg) (b : Bool) : (writeP s r b).dies = s.dies := rfl
@[simp] theorem writeP_host (s : State) (r : PReg) (b : Bool) : (writeP s r b).host = s.host := rfl
@[simp] theorem writeP_plat (s : State) (r : PReg) (b : Bool) : (writeP s r b).plat = s.plat := rfl
@[simp] theorem writeP_stime (s : State) (r : PReg) (b : Bool) : (writeP s r b).stime = s.stime := rfl
@[simp] theorem writeP_cycle (s : State) (r : PReg) (b : Bool) : (writeP s r b).cycle = s.cycle := rfl
@[simp] theorem writeP_curCell (s : State) (r : PReg) (b : Bool) : (writeP s r b).curCell = s.curCell := rfl
@[simp] theorem writeP_curSlot (s : State) (r : PReg) (b : Bool) : (writeP s r b).curSlot = s.curSlot := rfl
@[simp] theorem writeP_agenda (s : State) (r : PReg) (b : Bool) : (writeP s r b).agenda = s.agenda := rfl
@[simp] theorem writeP_turnNo (s : State) (r : PReg) (b : Bool) : (writeP s r b).turnNo = s.turnNo := rfl
@[simp] theorem writeP_freeNo (s : State) (r : PReg) (b : Bool) : (writeP s r b).freeNo = s.freeNo := rfl

/-! ## writeV -/

@[simp] theorem writeV_cells (s : State) (r : VReg) (w : VecWord) : (writeV s r w).cells = s.cells := rfl
@[simp] theorem writeV_images (s : State) (r : VReg) (w : VecWord) : (writeV s r w).images = s.images := rfl
@[simp] theorem writeV_mem (s : State) (r : VReg) (w : VecWord) : (writeV s r w).mem = s.mem := rfl
@[simp] theorem writeV_dirty (s : State) (r : VReg) (w : VecWord) : (writeV s r w).dirty = s.dirty := rfl
@[simp] theorem writeV_poison (s : State) (r : VReg) (w : VecWord) : (writeV s r w).poison = s.poison := rfl
@[simp] theorem writeV_coh (s : State) (r : VReg) (w : VecWord) : (writeV s r w).coh = s.coh := rfl
@[simp] theorem writeV_tlbs (s : State) (r : VReg) (w : VecWord) : (writeV s r w).tlbs = s.tlbs := rfl
@[simp] theorem writeV_scrim (s : State) (r : VReg) (w : VecWord) : (writeV s r w).scrim = s.scrim := rfl
@[simp] theorem writeV_stxs (s : State) (r : VReg) (w : VecWord) : (writeV s r w).stxs = s.stxs := rfl
@[simp] theorem writeV_stxNo (s : State) (r : VReg) (w : VecWord) : (writeV s r w).stxNo = s.stxNo := rfl
@[simp] theorem writeV_reports (s : State) (r : VReg) (w : VecWord) : (writeV s r w).reports = s.reports := rfl
@[simp] theorem writeV_place (s : State) (r : VReg) (w : VecWord) : (writeV s r w).place = s.place := rfl
@[simp] theorem writeV_dies (s : State) (r : VReg) (w : VecWord) : (writeV s r w).dies = s.dies := rfl
@[simp] theorem writeV_host (s : State) (r : VReg) (w : VecWord) : (writeV s r w).host = s.host := rfl
@[simp] theorem writeV_plat (s : State) (r : VReg) (w : VecWord) : (writeV s r w).plat = s.plat := rfl
@[simp] theorem writeV_stime (s : State) (r : VReg) (w : VecWord) : (writeV s r w).stime = s.stime := rfl
@[simp] theorem writeV_cycle (s : State) (r : VReg) (w : VecWord) : (writeV s r w).cycle = s.cycle := rfl
@[simp] theorem writeV_curCell (s : State) (r : VReg) (w : VecWord) : (writeV s r w).curCell = s.curCell := rfl
@[simp] theorem writeV_curSlot (s : State) (r : VReg) (w : VecWord) : (writeV s r w).curSlot = s.curSlot := rfl
@[simp] theorem writeV_agenda (s : State) (r : VReg) (w : VecWord) : (writeV s r w).agenda = s.agenda := rfl
@[simp] theorem writeV_turnNo (s : State) (r : VReg) (w : VecWord) : (writeV s r w).turnNo = s.turnNo := rfl
@[simp] theorem writeV_freeNo (s : State) (r : VReg) (w : VecWord) : (writeV s r w).freeNo = s.freeNo := rfl

/-! ## writeM -/

@[simp] theorem writeM_cells (s : State) (r : MReg) (w : MaskWord) : (writeM s r w).cells = s.cells := rfl
@[simp] theorem writeM_images (s : State) (r : MReg) (w : MaskWord) : (writeM s r w).images = s.images := rfl
@[simp] theorem writeM_mem (s : State) (r : MReg) (w : MaskWord) : (writeM s r w).mem = s.mem := rfl
@[simp] theorem writeM_dirty (s : State) (r : MReg) (w : MaskWord) : (writeM s r w).dirty = s.dirty := rfl
@[simp] theorem writeM_poison (s : State) (r : MReg) (w : MaskWord) : (writeM s r w).poison = s.poison := rfl
@[simp] theorem writeM_coh (s : State) (r : MReg) (w : MaskWord) : (writeM s r w).coh = s.coh := rfl
@[simp] theorem writeM_tlbs (s : State) (r : MReg) (w : MaskWord) : (writeM s r w).tlbs = s.tlbs := rfl
@[simp] theorem writeM_scrim (s : State) (r : MReg) (w : MaskWord) : (writeM s r w).scrim = s.scrim := rfl
@[simp] theorem writeM_stxs (s : State) (r : MReg) (w : MaskWord) : (writeM s r w).stxs = s.stxs := rfl
@[simp] theorem writeM_stxNo (s : State) (r : MReg) (w : MaskWord) : (writeM s r w).stxNo = s.stxNo := rfl
@[simp] theorem writeM_reports (s : State) (r : MReg) (w : MaskWord) : (writeM s r w).reports = s.reports := rfl
@[simp] theorem writeM_place (s : State) (r : MReg) (w : MaskWord) : (writeM s r w).place = s.place := rfl
@[simp] theorem writeM_dies (s : State) (r : MReg) (w : MaskWord) : (writeM s r w).dies = s.dies := rfl
@[simp] theorem writeM_host (s : State) (r : MReg) (w : MaskWord) : (writeM s r w).host = s.host := rfl
@[simp] theorem writeM_plat (s : State) (r : MReg) (w : MaskWord) : (writeM s r w).plat = s.plat := rfl
@[simp] theorem writeM_stime (s : State) (r : MReg) (w : MaskWord) : (writeM s r w).stime = s.stime := rfl
@[simp] theorem writeM_cycle (s : State) (r : MReg) (w : MaskWord) : (writeM s r w).cycle = s.cycle := rfl
@[simp] theorem writeM_curCell (s : State) (r : MReg) (w : MaskWord) : (writeM s r w).curCell = s.curCell := rfl
@[simp] theorem writeM_curSlot (s : State) (r : MReg) (w : MaskWord) : (writeM s r w).curSlot = s.curSlot := rfl
@[simp] theorem writeM_agenda (s : State) (r : MReg) (w : MaskWord) : (writeM s r w).agenda = s.agenda := rfl
@[simp] theorem writeM_turnNo (s : State) (r : MReg) (w : MaskWord) : (writeM s r w).turnNo = s.turnNo := rfl
@[simp] theorem writeM_freeNo (s : State) (r : MReg) (w : MaskWord) : (writeM s r w).freeNo = s.freeNo := rfl

/-! ## setIp -/

@[simp] theorem setIp_cells (s : State) (ip : InstrIx) : (setIp s ip).cells = s.cells := rfl
@[simp] theorem setIp_images (s : State) (ip : InstrIx) : (setIp s ip).images = s.images := rfl
@[simp] theorem setIp_mem (s : State) (ip : InstrIx) : (setIp s ip).mem = s.mem := rfl
@[simp] theorem setIp_dirty (s : State) (ip : InstrIx) : (setIp s ip).dirty = s.dirty := rfl
@[simp] theorem setIp_poison (s : State) (ip : InstrIx) : (setIp s ip).poison = s.poison := rfl
@[simp] theorem setIp_coh (s : State) (ip : InstrIx) : (setIp s ip).coh = s.coh := rfl
@[simp] theorem setIp_tlbs (s : State) (ip : InstrIx) : (setIp s ip).tlbs = s.tlbs := rfl
@[simp] theorem setIp_scrim (s : State) (ip : InstrIx) : (setIp s ip).scrim = s.scrim := rfl
@[simp] theorem setIp_stxs (s : State) (ip : InstrIx) : (setIp s ip).stxs = s.stxs := rfl
@[simp] theorem setIp_stxNo (s : State) (ip : InstrIx) : (setIp s ip).stxNo = s.stxNo := rfl
@[simp] theorem setIp_reports (s : State) (ip : InstrIx) : (setIp s ip).reports = s.reports := rfl
@[simp] theorem setIp_place (s : State) (ip : InstrIx) : (setIp s ip).place = s.place := rfl
@[simp] theorem setIp_dies (s : State) (ip : InstrIx) : (setIp s ip).dies = s.dies := rfl
@[simp] theorem setIp_host (s : State) (ip : InstrIx) : (setIp s ip).host = s.host := rfl
@[simp] theorem setIp_plat (s : State) (ip : InstrIx) : (setIp s ip).plat = s.plat := rfl
@[simp] theorem setIp_stime (s : State) (ip : InstrIx) : (setIp s ip).stime = s.stime := rfl
@[simp] theorem setIp_cycle (s : State) (ip : InstrIx) : (setIp s ip).cycle = s.cycle := rfl
@[simp] theorem setIp_curCell (s : State) (ip : InstrIx) : (setIp s ip).curCell = s.curCell := rfl
@[simp] theorem setIp_curSlot (s : State) (ip : InstrIx) : (setIp s ip).curSlot = s.curSlot := rfl
@[simp] theorem setIp_agenda (s : State) (ip : InstrIx) : (setIp s ip).agenda = s.agenda := rfl
@[simp] theorem setIp_turnNo (s : State) (ip : InstrIx) : (setIp s ip).turnNo = s.turnNo := rfl
@[simp] theorem setIp_freeNo (s : State) (ip : InstrIx) : (setIp s ip).freeNo = s.freeNo := rfl

/-! ## advance -/

@[simp] theorem advance_cells (s : State) : (advance s).cells = s.cells := rfl
@[simp] theorem advance_images (s : State) : (advance s).images = s.images := rfl
@[simp] theorem advance_mem (s : State) : (advance s).mem = s.mem := rfl
@[simp] theorem advance_dirty (s : State) : (advance s).dirty = s.dirty := rfl
@[simp] theorem advance_poison (s : State) : (advance s).poison = s.poison := rfl
@[simp] theorem advance_coh (s : State) : (advance s).coh = s.coh := rfl
@[simp] theorem advance_tlbs (s : State) : (advance s).tlbs = s.tlbs := rfl
@[simp] theorem advance_scrim (s : State) : (advance s).scrim = s.scrim := rfl
@[simp] theorem advance_stxs (s : State) : (advance s).stxs = s.stxs := rfl
@[simp] theorem advance_stxNo (s : State) : (advance s).stxNo = s.stxNo := rfl
@[simp] theorem advance_reports (s : State) : (advance s).reports = s.reports := rfl
@[simp] theorem advance_place (s : State) : (advance s).place = s.place := rfl
@[simp] theorem advance_dies (s : State) : (advance s).dies = s.dies := rfl
@[simp] theorem advance_host (s : State) : (advance s).host = s.host := rfl
@[simp] theorem advance_plat (s : State) : (advance s).plat = s.plat := rfl
@[simp] theorem advance_stime (s : State) : (advance s).stime = s.stime := rfl
@[simp] theorem advance_cycle (s : State) : (advance s).cycle = s.cycle := rfl
@[simp] theorem advance_curCell (s : State) : (advance s).curCell = s.curCell := rfl
@[simp] theorem advance_curSlot (s : State) : (advance s).curSlot = s.curSlot := rfl
@[simp] theorem advance_agenda (s : State) : (advance s).agenda = s.agenda := rfl
@[simp] theorem advance_turnNo (s : State) : (advance s).turnNo = s.turnNo := rfl
@[simp] theorem advance_freeNo (s : State) : (advance s).freeNo = s.freeNo := rfl

/-! ## finishG -/

@[simp] theorem finishG_cells (s : State) (r : GReg) (w : Word) : (finishG s r w).cells = s.cells := rfl
@[simp] theorem finishG_images (s : State) (r : GReg) (w : Word) : (finishG s r w).images = s.images := rfl
@[simp] theorem finishG_mem (s : State) (r : GReg) (w : Word) : (finishG s r w).mem = s.mem := rfl
@[simp] theorem finishG_dirty (s : State) (r : GReg) (w : Word) : (finishG s r w).dirty = s.dirty := rfl
@[simp] theorem finishG_poison (s : State) (r : GReg) (w : Word) : (finishG s r w).poison = s.poison := rfl
@[simp] theorem finishG_coh (s : State) (r : GReg) (w : Word) : (finishG s r w).coh = s.coh := rfl
@[simp] theorem finishG_tlbs (s : State) (r : GReg) (w : Word) : (finishG s r w).tlbs = s.tlbs := rfl
@[simp] theorem finishG_scrim (s : State) (r : GReg) (w : Word) : (finishG s r w).scrim = s.scrim := rfl
@[simp] theorem finishG_stxs (s : State) (r : GReg) (w : Word) : (finishG s r w).stxs = s.stxs := rfl
@[simp] theorem finishG_stxNo (s : State) (r : GReg) (w : Word) : (finishG s r w).stxNo = s.stxNo := rfl
@[simp] theorem finishG_reports (s : State) (r : GReg) (w : Word) : (finishG s r w).reports = s.reports := rfl
@[simp] theorem finishG_place (s : State) (r : GReg) (w : Word) : (finishG s r w).place = s.place := rfl
@[simp] theorem finishG_dies (s : State) (r : GReg) (w : Word) : (finishG s r w).dies = s.dies := rfl
@[simp] theorem finishG_host (s : State) (r : GReg) (w : Word) : (finishG s r w).host = s.host := rfl
@[simp] theorem finishG_plat (s : State) (r : GReg) (w : Word) : (finishG s r w).plat = s.plat := rfl
@[simp] theorem finishG_stime (s : State) (r : GReg) (w : Word) : (finishG s r w).stime = s.stime := rfl
@[simp] theorem finishG_cycle (s : State) (r : GReg) (w : Word) : (finishG s r w).cycle = s.cycle := rfl
@[simp] theorem finishG_curCell (s : State) (r : GReg) (w : Word) : (finishG s r w).curCell = s.curCell := rfl
@[simp] theorem finishG_curSlot (s : State) (r : GReg) (w : Word) : (finishG s r w).curSlot = s.curSlot := rfl
@[simp] theorem finishG_agenda (s : State) (r : GReg) (w : Word) : (finishG s r w).agenda = s.agenda := rfl
@[simp] theorem finishG_turnNo (s : State) (r : GReg) (w : Word) : (finishG s r w).turnNo = s.turnNo := rfl
@[simp] theorem finishG_freeNo (s : State) (r : GReg) (w : Word) : (finishG s r w).freeNo = s.freeNo := rfl

/-! ## finishP -/

@[simp] theorem finishP_cells (s : State) (r : PReg) (b : Bool) : (finishP s r b).cells = s.cells := rfl
@[simp] theorem finishP_images (s : State) (r : PReg) (b : Bool) : (finishP s r b).images = s.images := rfl
@[simp] theorem finishP_mem (s : State) (r : PReg) (b : Bool) : (finishP s r b).mem = s.mem := rfl
@[simp] theorem finishP_dirty (s : State) (r : PReg) (b : Bool) : (finishP s r b).dirty = s.dirty := rfl
@[simp] theorem finishP_poison (s : State) (r : PReg) (b : Bool) : (finishP s r b).poison = s.poison := rfl
@[simp] theorem finishP_coh (s : State) (r : PReg) (b : Bool) : (finishP s r b).coh = s.coh := rfl
@[simp] theorem finishP_tlbs (s : State) (r : PReg) (b : Bool) : (finishP s r b).tlbs = s.tlbs := rfl
@[simp] theorem finishP_scrim (s : State) (r : PReg) (b : Bool) : (finishP s r b).scrim = s.scrim := rfl
@[simp] theorem finishP_stxs (s : State) (r : PReg) (b : Bool) : (finishP s r b).stxs = s.stxs := rfl
@[simp] theorem finishP_stxNo (s : State) (r : PReg) (b : Bool) : (finishP s r b).stxNo = s.stxNo := rfl
@[simp] theorem finishP_reports (s : State) (r : PReg) (b : Bool) : (finishP s r b).reports = s.reports := rfl
@[simp] theorem finishP_place (s : State) (r : PReg) (b : Bool) : (finishP s r b).place = s.place := rfl
@[simp] theorem finishP_dies (s : State) (r : PReg) (b : Bool) : (finishP s r b).dies = s.dies := rfl
@[simp] theorem finishP_host (s : State) (r : PReg) (b : Bool) : (finishP s r b).host = s.host := rfl
@[simp] theorem finishP_plat (s : State) (r : PReg) (b : Bool) : (finishP s r b).plat = s.plat := rfl
@[simp] theorem finishP_stime (s : State) (r : PReg) (b : Bool) : (finishP s r b).stime = s.stime := rfl
@[simp] theorem finishP_cycle (s : State) (r : PReg) (b : Bool) : (finishP s r b).cycle = s.cycle := rfl
@[simp] theorem finishP_curCell (s : State) (r : PReg) (b : Bool) : (finishP s r b).curCell = s.curCell := rfl
@[simp] theorem finishP_curSlot (s : State) (r : PReg) (b : Bool) : (finishP s r b).curSlot = s.curSlot := rfl
@[simp] theorem finishP_agenda (s : State) (r : PReg) (b : Bool) : (finishP s r b).agenda = s.agenda := rfl
@[simp] theorem finishP_turnNo (s : State) (r : PReg) (b : Bool) : (finishP s r b).turnNo = s.turnNo := rfl
@[simp] theorem finishP_freeNo (s : State) (r : PReg) (b : Bool) : (finishP s r b).freeNo = s.freeNo := rfl

/-! ## finishV -/

@[simp] theorem finishV_cells (s : State) (r : VReg) (w : VecWord) : (finishV s r w).cells = s.cells := rfl
@[simp] theorem finishV_images (s : State) (r : VReg) (w : VecWord) : (finishV s r w).images = s.images := rfl
@[simp] theorem finishV_mem (s : State) (r : VReg) (w : VecWord) : (finishV s r w).mem = s.mem := rfl
@[simp] theorem finishV_dirty (s : State) (r : VReg) (w : VecWord) : (finishV s r w).dirty = s.dirty := rfl
@[simp] theorem finishV_poison (s : State) (r : VReg) (w : VecWord) : (finishV s r w).poison = s.poison := rfl
@[simp] theorem finishV_coh (s : State) (r : VReg) (w : VecWord) : (finishV s r w).coh = s.coh := rfl
@[simp] theorem finishV_tlbs (s : State) (r : VReg) (w : VecWord) : (finishV s r w).tlbs = s.tlbs := rfl
@[simp] theorem finishV_scrim (s : State) (r : VReg) (w : VecWord) : (finishV s r w).scrim = s.scrim := rfl
@[simp] theorem finishV_stxs (s : State) (r : VReg) (w : VecWord) : (finishV s r w).stxs = s.stxs := rfl
@[simp] theorem finishV_stxNo (s : State) (r : VReg) (w : VecWord) : (finishV s r w).stxNo = s.stxNo := rfl
@[simp] theorem finishV_reports (s : State) (r : VReg) (w : VecWord) : (finishV s r w).reports = s.reports := rfl
@[simp] theorem finishV_place (s : State) (r : VReg) (w : VecWord) : (finishV s r w).place = s.place := rfl
@[simp] theorem finishV_dies (s : State) (r : VReg) (w : VecWord) : (finishV s r w).dies = s.dies := rfl
@[simp] theorem finishV_host (s : State) (r : VReg) (w : VecWord) : (finishV s r w).host = s.host := rfl
@[simp] theorem finishV_plat (s : State) (r : VReg) (w : VecWord) : (finishV s r w).plat = s.plat := rfl
@[simp] theorem finishV_stime (s : State) (r : VReg) (w : VecWord) : (finishV s r w).stime = s.stime := rfl
@[simp] theorem finishV_cycle (s : State) (r : VReg) (w : VecWord) : (finishV s r w).cycle = s.cycle := rfl
@[simp] theorem finishV_curCell (s : State) (r : VReg) (w : VecWord) : (finishV s r w).curCell = s.curCell := rfl
@[simp] theorem finishV_curSlot (s : State) (r : VReg) (w : VecWord) : (finishV s r w).curSlot = s.curSlot := rfl
@[simp] theorem finishV_agenda (s : State) (r : VReg) (w : VecWord) : (finishV s r w).agenda = s.agenda := rfl
@[simp] theorem finishV_turnNo (s : State) (r : VReg) (w : VecWord) : (finishV s r w).turnNo = s.turnNo := rfl
@[simp] theorem finishV_freeNo (s : State) (r : VReg) (w : VecWord) : (finishV s r w).freeNo = s.freeNo := rfl

/-! ## finishM -/

@[simp] theorem finishM_cells (s : State) (r : MReg) (w : MaskWord) : (finishM s r w).cells = s.cells := rfl
@[simp] theorem finishM_images (s : State) (r : MReg) (w : MaskWord) : (finishM s r w).images = s.images := rfl
@[simp] theorem finishM_mem (s : State) (r : MReg) (w : MaskWord) : (finishM s r w).mem = s.mem := rfl
@[simp] theorem finishM_dirty (s : State) (r : MReg) (w : MaskWord) : (finishM s r w).dirty = s.dirty := rfl
@[simp] theorem finishM_poison (s : State) (r : MReg) (w : MaskWord) : (finishM s r w).poison = s.poison := rfl
@[simp] theorem finishM_coh (s : State) (r : MReg) (w : MaskWord) : (finishM s r w).coh = s.coh := rfl
@[simp] theorem finishM_tlbs (s : State) (r : MReg) (w : MaskWord) : (finishM s r w).tlbs = s.tlbs := rfl
@[simp] theorem finishM_scrim (s : State) (r : MReg) (w : MaskWord) : (finishM s r w).scrim = s.scrim := rfl
@[simp] theorem finishM_stxs (s : State) (r : MReg) (w : MaskWord) : (finishM s r w).stxs = s.stxs := rfl
@[simp] theorem finishM_stxNo (s : State) (r : MReg) (w : MaskWord) : (finishM s r w).stxNo = s.stxNo := rfl
@[simp] theorem finishM_reports (s : State) (r : MReg) (w : MaskWord) : (finishM s r w).reports = s.reports := rfl
@[simp] theorem finishM_place (s : State) (r : MReg) (w : MaskWord) : (finishM s r w).place = s.place := rfl
@[simp] theorem finishM_dies (s : State) (r : MReg) (w : MaskWord) : (finishM s r w).dies = s.dies := rfl
@[simp] theorem finishM_host (s : State) (r : MReg) (w : MaskWord) : (finishM s r w).host = s.host := rfl
@[simp] theorem finishM_plat (s : State) (r : MReg) (w : MaskWord) : (finishM s r w).plat = s.plat := rfl
@[simp] theorem finishM_stime (s : State) (r : MReg) (w : MaskWord) : (finishM s r w).stime = s.stime := rfl
@[simp] theorem finishM_cycle (s : State) (r : MReg) (w : MaskWord) : (finishM s r w).cycle = s.cycle := rfl
@[simp] theorem finishM_curCell (s : State) (r : MReg) (w : MaskWord) : (finishM s r w).curCell = s.curCell := rfl
@[simp] theorem finishM_curSlot (s : State) (r : MReg) (w : MaskWord) : (finishM s r w).curSlot = s.curSlot := rfl
@[simp] theorem finishM_agenda (s : State) (r : MReg) (w : MaskWord) : (finishM s r w).agenda = s.agenda := rfl
@[simp] theorem finishM_turnNo (s : State) (r : MReg) (w : MaskWord) : (finishM s r w).turnNo = s.turnNo := rfl
@[simp] theorem finishM_freeNo (s : State) (r : MReg) (w : MaskWord) : (finishM s r w).freeNo = s.freeNo := rfl

/-! ## setStall -/

@[simp] theorem setStall_cells (s : State) (x : Stall) : (setStall s x).cells = s.cells := rfl
@[simp] theorem setStall_images (s : State) (x : Stall) : (setStall s x).images = s.images := rfl
@[simp] theorem setStall_mem (s : State) (x : Stall) : (setStall s x).mem = s.mem := rfl
@[simp] theorem setStall_dirty (s : State) (x : Stall) : (setStall s x).dirty = s.dirty := rfl
@[simp] theorem setStall_poison (s : State) (x : Stall) : (setStall s x).poison = s.poison := rfl
@[simp] theorem setStall_coh (s : State) (x : Stall) : (setStall s x).coh = s.coh := rfl
@[simp] theorem setStall_tlbs (s : State) (x : Stall) : (setStall s x).tlbs = s.tlbs := rfl
@[simp] theorem setStall_scrim (s : State) (x : Stall) : (setStall s x).scrim = s.scrim := rfl
@[simp] theorem setStall_stxs (s : State) (x : Stall) : (setStall s x).stxs = s.stxs := rfl
@[simp] theorem setStall_stxNo (s : State) (x : Stall) : (setStall s x).stxNo = s.stxNo := rfl
@[simp] theorem setStall_reports (s : State) (x : Stall) : (setStall s x).reports = s.reports := rfl
@[simp] theorem setStall_place (s : State) (x : Stall) : (setStall s x).place = s.place := rfl
@[simp] theorem setStall_dies (s : State) (x : Stall) : (setStall s x).dies = s.dies := rfl
@[simp] theorem setStall_host (s : State) (x : Stall) : (setStall s x).host = s.host := rfl
@[simp] theorem setStall_plat (s : State) (x : Stall) : (setStall s x).plat = s.plat := rfl
@[simp] theorem setStall_stime (s : State) (x : Stall) : (setStall s x).stime = s.stime := rfl
@[simp] theorem setStall_cycle (s : State) (x : Stall) : (setStall s x).cycle = s.cycle := rfl
@[simp] theorem setStall_curCell (s : State) (x : Stall) : (setStall s x).curCell = s.curCell := rfl
@[simp] theorem setStall_curSlot (s : State) (x : Stall) : (setStall s x).curSlot = s.curSlot := rfl
@[simp] theorem setStall_agenda (s : State) (x : Stall) : (setStall s x).agenda = s.agenda := rfl
@[simp] theorem setStall_turnNo (s : State) (x : Stall) : (setStall s x).turnNo = s.turnNo := rfl
@[simp] theorem setStall_freeNo (s : State) (x : Stall) : (setStall s x).freeNo = s.freeNo := rfl

/-! ## enterWait -/

@[simp] theorem enterWait_cells (s : State) (w : Wait) : (enterWait s w).cells = s.cells := rfl
@[simp] theorem enterWait_images (s : State) (w : Wait) : (enterWait s w).images = s.images := rfl
@[simp] theorem enterWait_mem (s : State) (w : Wait) : (enterWait s w).mem = s.mem := rfl
@[simp] theorem enterWait_dirty (s : State) (w : Wait) : (enterWait s w).dirty = s.dirty := rfl
@[simp] theorem enterWait_poison (s : State) (w : Wait) : (enterWait s w).poison = s.poison := rfl
@[simp] theorem enterWait_coh (s : State) (w : Wait) : (enterWait s w).coh = s.coh := rfl
@[simp] theorem enterWait_tlbs (s : State) (w : Wait) : (enterWait s w).tlbs = s.tlbs := rfl
@[simp] theorem enterWait_scrim (s : State) (w : Wait) : (enterWait s w).scrim = s.scrim := rfl
@[simp] theorem enterWait_stxs (s : State) (w : Wait) : (enterWait s w).stxs = s.stxs := rfl
@[simp] theorem enterWait_stxNo (s : State) (w : Wait) : (enterWait s w).stxNo = s.stxNo := rfl
@[simp] theorem enterWait_reports (s : State) (w : Wait) : (enterWait s w).reports = s.reports := rfl
@[simp] theorem enterWait_place (s : State) (w : Wait) : (enterWait s w).place = s.place := rfl
@[simp] theorem enterWait_dies (s : State) (w : Wait) : (enterWait s w).dies = s.dies := rfl
@[simp] theorem enterWait_host (s : State) (w : Wait) : (enterWait s w).host = s.host := rfl
@[simp] theorem enterWait_plat (s : State) (w : Wait) : (enterWait s w).plat = s.plat := rfl
@[simp] theorem enterWait_stime (s : State) (w : Wait) : (enterWait s w).stime = s.stime := rfl
@[simp] theorem enterWait_cycle (s : State) (w : Wait) : (enterWait s w).cycle = s.cycle := rfl
@[simp] theorem enterWait_curCell (s : State) (w : Wait) : (enterWait s w).curCell = s.curCell := rfl
@[simp] theorem enterWait_curSlot (s : State) (w : Wait) : (enterWait s w).curSlot = s.curSlot := rfl
@[simp] theorem enterWait_agenda (s : State) (w : Wait) : (enterWait s w).agenda = s.agenda := rfl
@[simp] theorem enterWait_turnNo (s : State) (w : Wait) : (enterWait s w).turnNo = s.turnNo := rfl
@[simp] theorem enterWait_freeNo (s : State) (w : Wait) : (enterWait s w).freeNo = s.freeNo := rfl

/-! ## leaveWait -/

@[simp] theorem leaveWait_cells (s : State) : (leaveWait s).cells = s.cells := rfl
@[simp] theorem leaveWait_images (s : State) : (leaveWait s).images = s.images := rfl
@[simp] theorem leaveWait_mem (s : State) : (leaveWait s).mem = s.mem := rfl
@[simp] theorem leaveWait_dirty (s : State) : (leaveWait s).dirty = s.dirty := rfl
@[simp] theorem leaveWait_poison (s : State) : (leaveWait s).poison = s.poison := rfl
@[simp] theorem leaveWait_coh (s : State) : (leaveWait s).coh = s.coh := rfl
@[simp] theorem leaveWait_tlbs (s : State) : (leaveWait s).tlbs = s.tlbs := rfl
@[simp] theorem leaveWait_scrim (s : State) : (leaveWait s).scrim = s.scrim := rfl
@[simp] theorem leaveWait_stxs (s : State) : (leaveWait s).stxs = s.stxs := rfl
@[simp] theorem leaveWait_stxNo (s : State) : (leaveWait s).stxNo = s.stxNo := rfl
@[simp] theorem leaveWait_reports (s : State) : (leaveWait s).reports = s.reports := rfl
@[simp] theorem leaveWait_place (s : State) : (leaveWait s).place = s.place := rfl
@[simp] theorem leaveWait_dies (s : State) : (leaveWait s).dies = s.dies := rfl
@[simp] theorem leaveWait_host (s : State) : (leaveWait s).host = s.host := rfl
@[simp] theorem leaveWait_plat (s : State) : (leaveWait s).plat = s.plat := rfl
@[simp] theorem leaveWait_stime (s : State) : (leaveWait s).stime = s.stime := rfl
@[simp] theorem leaveWait_cycle (s : State) : (leaveWait s).cycle = s.cycle := rfl
@[simp] theorem leaveWait_curCell (s : State) : (leaveWait s).curCell = s.curCell := rfl
@[simp] theorem leaveWait_curSlot (s : State) : (leaveWait s).curSlot = s.curSlot := rfl
@[simp] theorem leaveWait_agenda (s : State) : (leaveWait s).agenda = s.agenda := rfl
@[simp] theorem leaveWait_turnNo (s : State) : (leaveWait s).turnNo = s.turnNo := rfl
@[simp] theorem leaveWait_freeNo (s : State) : (leaveWait s).freeNo = s.freeNo := rfl

/-! ## freeSlot -/

@[simp] theorem freeSlot_cells (s : State) : (freeSlot s).cells = s.cells := rfl
@[simp] theorem freeSlot_images (s : State) : (freeSlot s).images = s.images := rfl
@[simp] theorem freeSlot_mem (s : State) : (freeSlot s).mem = s.mem := rfl
@[simp] theorem freeSlot_dirty (s : State) : (freeSlot s).dirty = s.dirty := rfl
@[simp] theorem freeSlot_poison (s : State) : (freeSlot s).poison = s.poison := rfl
@[simp] theorem freeSlot_coh (s : State) : (freeSlot s).coh = s.coh := rfl
@[simp] theorem freeSlot_tlbs (s : State) : (freeSlot s).tlbs = s.tlbs := rfl
@[simp] theorem freeSlot_scrim (s : State) : (freeSlot s).scrim = s.scrim := rfl
@[simp] theorem freeSlot_stxs (s : State) : (freeSlot s).stxs = s.stxs := rfl
@[simp] theorem freeSlot_stxNo (s : State) : (freeSlot s).stxNo = s.stxNo := rfl
@[simp] theorem freeSlot_reports (s : State) : (freeSlot s).reports = s.reports := rfl
@[simp] theorem freeSlot_place (s : State) : (freeSlot s).place = s.place := rfl
@[simp] theorem freeSlot_dies (s : State) : (freeSlot s).dies = s.dies := rfl
@[simp] theorem freeSlot_host (s : State) : (freeSlot s).host = s.host := rfl
@[simp] theorem freeSlot_plat (s : State) : (freeSlot s).plat = s.plat := rfl
@[simp] theorem freeSlot_stime (s : State) : (freeSlot s).stime = s.stime := rfl
@[simp] theorem freeSlot_cycle (s : State) : (freeSlot s).cycle = s.cycle := rfl
@[simp] theorem freeSlot_curCell (s : State) : (freeSlot s).curCell = s.curCell := rfl
@[simp] theorem freeSlot_curSlot (s : State) : (freeSlot s).curSlot = s.curSlot := rfl
@[simp] theorem freeSlot_agenda (s : State) : (freeSlot s).agenda = s.agenda := rfl
@[simp] theorem freeSlot_turnNo (s : State) : (freeSlot s).turnNo = s.turnNo := rfl
@[simp] theorem freeSlot_freeNo (s : State) : (freeSlot s).freeNo = s.freeNo := rfl

/-! ## focus -/

@[simp] theorem focus_slots (s : State) (c : Nat) (k : Fin 4) : (focus s c k).slots = s.slots := rfl
@[simp] theorem focus_cells (s : State) (c : Nat) (k : Fin 4) : (focus s c k).cells = s.cells := rfl
@[simp] theorem focus_images (s : State) (c : Nat) (k : Fin 4) : (focus s c k).images = s.images := rfl
@[simp] theorem focus_mem (s : State) (c : Nat) (k : Fin 4) : (focus s c k).mem = s.mem := rfl
@[simp] theorem focus_dirty (s : State) (c : Nat) (k : Fin 4) : (focus s c k).dirty = s.dirty := rfl
@[simp] theorem focus_poison (s : State) (c : Nat) (k : Fin 4) : (focus s c k).poison = s.poison := rfl
@[simp] theorem focus_coh (s : State) (c : Nat) (k : Fin 4) : (focus s c k).coh = s.coh := rfl
@[simp] theorem focus_tlbs (s : State) (c : Nat) (k : Fin 4) : (focus s c k).tlbs = s.tlbs := rfl
@[simp] theorem focus_scrim (s : State) (c : Nat) (k : Fin 4) : (focus s c k).scrim = s.scrim := rfl
@[simp] theorem focus_stxs (s : State) (c : Nat) (k : Fin 4) : (focus s c k).stxs = s.stxs := rfl
@[simp] theorem focus_stxNo (s : State) (c : Nat) (k : Fin 4) : (focus s c k).stxNo = s.stxNo := rfl
@[simp] theorem focus_reports (s : State) (c : Nat) (k : Fin 4) : (focus s c k).reports = s.reports := rfl
@[simp] theorem focus_place (s : State) (c : Nat) (k : Fin 4) : (focus s c k).place = s.place := rfl
@[simp] theorem focus_dies (s : State) (c : Nat) (k : Fin 4) : (focus s c k).dies = s.dies := rfl
@[simp] theorem focus_host (s : State) (c : Nat) (k : Fin 4) : (focus s c k).host = s.host := rfl
@[simp] theorem focus_plat (s : State) (c : Nat) (k : Fin 4) : (focus s c k).plat = s.plat := rfl
@[simp] theorem focus_stime (s : State) (c : Nat) (k : Fin 4) : (focus s c k).stime = s.stime := rfl
@[simp] theorem focus_cycle (s : State) (c : Nat) (k : Fin 4) : (focus s c k).cycle = s.cycle := rfl
@[simp] theorem focus_agenda (s : State) (c : Nat) (k : Fin 4) : (focus s c k).agenda = s.agenda := rfl
@[simp] theorem focus_turnNo (s : State) (c : Nat) (k : Fin 4) : (focus s c k).turnNo = s.turnNo := rfl
@[simp] theorem focus_freeNo (s : State) (c : Nat) (k : Fin 4) : (focus s c k).freeNo = s.freeNo := rfl

/-! ## putCoh -/

@[simp] theorem putCoh_slots (s : State) (c : Coh) : (putCoh s c).slots = s.slots := rfl
@[simp] theorem putCoh_cells (s : State) (c : Coh) : (putCoh s c).cells = s.cells := rfl
@[simp] theorem putCoh_images (s : State) (c : Coh) : (putCoh s c).images = s.images := rfl
@[simp] theorem putCoh_mem (s : State) (c : Coh) : (putCoh s c).mem = s.mem := rfl
@[simp] theorem putCoh_dirty (s : State) (c : Coh) : (putCoh s c).dirty = s.dirty := rfl
@[simp] theorem putCoh_poison (s : State) (c : Coh) : (putCoh s c).poison = s.poison := rfl
@[simp] theorem putCoh_tlbs (s : State) (c : Coh) : (putCoh s c).tlbs = s.tlbs := rfl
@[simp] theorem putCoh_scrim (s : State) (c : Coh) : (putCoh s c).scrim = s.scrim := rfl
@[simp] theorem putCoh_stxs (s : State) (c : Coh) : (putCoh s c).stxs = s.stxs := rfl
@[simp] theorem putCoh_stxNo (s : State) (c : Coh) : (putCoh s c).stxNo = s.stxNo := rfl
@[simp] theorem putCoh_reports (s : State) (c : Coh) : (putCoh s c).reports = s.reports := rfl
@[simp] theorem putCoh_place (s : State) (c : Coh) : (putCoh s c).place = s.place := rfl
@[simp] theorem putCoh_dies (s : State) (c : Coh) : (putCoh s c).dies = s.dies := rfl
@[simp] theorem putCoh_host (s : State) (c : Coh) : (putCoh s c).host = s.host := rfl
@[simp] theorem putCoh_plat (s : State) (c : Coh) : (putCoh s c).plat = s.plat := rfl
@[simp] theorem putCoh_stime (s : State) (c : Coh) : (putCoh s c).stime = s.stime := rfl
@[simp] theorem putCoh_cycle (s : State) (c : Coh) : (putCoh s c).cycle = s.cycle := rfl
@[simp] theorem putCoh_curCell (s : State) (c : Coh) : (putCoh s c).curCell = s.curCell := rfl
@[simp] theorem putCoh_curSlot (s : State) (c : Coh) : (putCoh s c).curSlot = s.curSlot := rfl
@[simp] theorem putCoh_agenda (s : State) (c : Coh) : (putCoh s c).agenda = s.agenda := rfl
@[simp] theorem putCoh_turnNo (s : State) (c : Coh) : (putCoh s c).turnNo = s.turnNo := rfl
@[simp] theorem putCoh_freeNo (s : State) (c : Coh) : (putCoh s c).freeNo = s.freeNo := rfl

/-! ## putDies -/

@[simp] theorem putDies_slots (s : State) (d : Dies) : (putDies s d).slots = s.slots := rfl
@[simp] theorem putDies_cells (s : State) (d : Dies) : (putDies s d).cells = s.cells := rfl
@[simp] theorem putDies_images (s : State) (d : Dies) : (putDies s d).images = s.images := rfl
@[simp] theorem putDies_mem (s : State) (d : Dies) : (putDies s d).mem = s.mem := rfl
@[simp] theorem putDies_dirty (s : State) (d : Dies) : (putDies s d).dirty = s.dirty := rfl
@[simp] theorem putDies_poison (s : State) (d : Dies) : (putDies s d).poison = s.poison := rfl
@[simp] theorem putDies_coh (s : State) (d : Dies) : (putDies s d).coh = s.coh := rfl
@[simp] theorem putDies_tlbs (s : State) (d : Dies) : (putDies s d).tlbs = s.tlbs := rfl
@[simp] theorem putDies_scrim (s : State) (d : Dies) : (putDies s d).scrim = s.scrim := rfl
@[simp] theorem putDies_stxs (s : State) (d : Dies) : (putDies s d).stxs = s.stxs := rfl
@[simp] theorem putDies_stxNo (s : State) (d : Dies) : (putDies s d).stxNo = s.stxNo := rfl
@[simp] theorem putDies_reports (s : State) (d : Dies) : (putDies s d).reports = s.reports := rfl
@[simp] theorem putDies_place (s : State) (d : Dies) : (putDies s d).place = s.place := rfl
@[simp] theorem putDies_host (s : State) (d : Dies) : (putDies s d).host = s.host := rfl
@[simp] theorem putDies_plat (s : State) (d : Dies) : (putDies s d).plat = s.plat := rfl
@[simp] theorem putDies_stime (s : State) (d : Dies) : (putDies s d).stime = s.stime := rfl
@[simp] theorem putDies_cycle (s : State) (d : Dies) : (putDies s d).cycle = s.cycle := rfl
@[simp] theorem putDies_curCell (s : State) (d : Dies) : (putDies s d).curCell = s.curCell := rfl
@[simp] theorem putDies_curSlot (s : State) (d : Dies) : (putDies s d).curSlot = s.curSlot := rfl
@[simp] theorem putDies_agenda (s : State) (d : Dies) : (putDies s d).agenda = s.agenda := rfl
@[simp] theorem putDies_turnNo (s : State) (d : Dies) : (putDies s d).turnNo = s.turnNo := rfl
@[simp] theorem putDies_freeNo (s : State) (d : Dies) : (putDies s d).freeNo = s.freeNo := rfl

/-! ## memPut -/

@[simp] theorem memPut_slots (s : State) (a : Nat) (b : Byte) : (memPut s a b).slots = s.slots := rfl
@[simp] theorem memPut_cells (s : State) (a : Nat) (b : Byte) : (memPut s a b).cells = s.cells := rfl
@[simp] theorem memPut_images (s : State) (a : Nat) (b : Byte) : (memPut s a b).images = s.images := rfl
@[simp] theorem memPut_poison (s : State) (a : Nat) (b : Byte) : (memPut s a b).poison = s.poison := rfl
@[simp] theorem memPut_coh (s : State) (a : Nat) (b : Byte) : (memPut s a b).coh = s.coh := rfl
@[simp] theorem memPut_tlbs (s : State) (a : Nat) (b : Byte) : (memPut s a b).tlbs = s.tlbs := rfl
@[simp] theorem memPut_scrim (s : State) (a : Nat) (b : Byte) : (memPut s a b).scrim = s.scrim := rfl
@[simp] theorem memPut_stxs (s : State) (a : Nat) (b : Byte) : (memPut s a b).stxs = s.stxs := rfl
@[simp] theorem memPut_stxNo (s : State) (a : Nat) (b : Byte) : (memPut s a b).stxNo = s.stxNo := rfl
@[simp] theorem memPut_reports (s : State) (a : Nat) (b : Byte) : (memPut s a b).reports = s.reports := rfl
@[simp] theorem memPut_place (s : State) (a : Nat) (b : Byte) : (memPut s a b).place = s.place := rfl
@[simp] theorem memPut_dies (s : State) (a : Nat) (b : Byte) : (memPut s a b).dies = s.dies := rfl
@[simp] theorem memPut_host (s : State) (a : Nat) (b : Byte) : (memPut s a b).host = s.host := rfl
@[simp] theorem memPut_plat (s : State) (a : Nat) (b : Byte) : (memPut s a b).plat = s.plat := rfl
@[simp] theorem memPut_stime (s : State) (a : Nat) (b : Byte) : (memPut s a b).stime = s.stime := rfl
@[simp] theorem memPut_cycle (s : State) (a : Nat) (b : Byte) : (memPut s a b).cycle = s.cycle := rfl
@[simp] theorem memPut_curCell (s : State) (a : Nat) (b : Byte) : (memPut s a b).curCell = s.curCell := rfl
@[simp] theorem memPut_curSlot (s : State) (a : Nat) (b : Byte) : (memPut s a b).curSlot = s.curSlot := rfl
@[simp] theorem memPut_agenda (s : State) (a : Nat) (b : Byte) : (memPut s a b).agenda = s.agenda := rfl
@[simp] theorem memPut_turnNo (s : State) (a : Nat) (b : Byte) : (memPut s a b).turnNo = s.turnNo := rfl
@[simp] theorem memPut_freeNo (s : State) (a : Nat) (b : Byte) : (memPut s a b).freeNo = s.freeNo := rfl

end Sys2Proof.Machine
end

