-- ==== Sys2Proof/Laws/Tab.lean ====
section
/-! SUPPORT. Sparse tables and byte memories: what a read gives after a write, and that every operation keeps the canonical
form. -/

namespace Sys2Proof.Machine

variable {α : Type}

/-! ## Reading after writing -/

theorem tabFind_tabSet (t : Tab α) (i j : Nat) (x : α) :
    tabFind (tabSet t i x) j = if i = j then some x else tabFind t j := by
  induction t with
  | nil => simp [tabSet, tabFind]
  | cons e t ih =>
    obtain ⟨k, y⟩ := e
    simp only [tabSet]
    split
    · simp [tabFind]
    · split
      · subst_vars; by_cases h : k = j <;> simp [tabFind, h]
      · by_cases h : k = j
        · subst h
          have : i ≠ k := by omega
          simp [tabFind, this]
        · simp [tabFind, h, ih]

@[simp] theorem tabFind_tabSet_same (t : Tab α) (i : Nat) (x : α) : tabFind (tabSet t i x) i = some x := by
  simp [tabFind_tabSet]

theorem tabFind_tabSet_other (t : Tab α) (i j : Nat) (x : α) (h : i ≠ j) :
    tabFind (tabSet t i x) j = tabFind t j := by
  simp [tabFind_tabSet, h]

@[simp] theorem tabGet_tabSet_same (d : α) (t : Tab α) (i : Nat) (x : α) : tabGet d (tabSet t i x) i = x := by
  simp [tabGet]

theorem tabGet_tabSet_other (d : α) (t : Tab α) (i j : Nat) (x : α) (h : i ≠ j) :
    tabGet d (tabSet t i x) j = tabGet d t j := by
  simp [tabGet, tabFind_tabSet, h]

theorem tabSet_tabSet (t : Tab α) (i : Nat) (x y : α) : tabSet (tabSet t i x) i y = tabSet t i y := by
  induction t with
  | nil => simp [tabSet]
  | cons e t ih =>
    obtain ⟨k, z⟩ := e
    by_cases h : i < k
    · simp [tabSet, h]
    · by_cases h' : i = k
      · subst h'; simp [tabSet]
      · simp [tabSet, h, h', ih]

theorem tabFind_tabErase (t : Tab α) (i j : Nat) :
    tabFind (tabErase t i) j = if i = j then none else tabFind t j := by
  induction t with
  | nil => simp [tabErase, tabFind]
  | cons e t ih =>
    obtain ⟨k, y⟩ := e
    unfold tabErase at ih ⊢
    by_cases h : k = i
    · subst h
      by_cases hj : k = j
      · subst hj; simpa using ih
      · simpa [tabFind, hj] using ih
    · by_cases hj : k = j
      · subst hj
        have : i ≠ k := fun e => h e.symm
        simp [h, tabFind, this]
      · simp [h, tabFind, hj, ih]

theorem tabGet_tabErase (d : α) (t : Tab α) (i j : Nat) :
    tabGet d (tabErase t i) j = if i = j then d else tabGet d t j := by
  simp only [tabGet, tabFind_tabErase]; split <;> rfl

/-- A byte read after a byte written. -/
theorem memGet_memSet (m : List Host.Cell) (a b : Nat) (x : Byte) :
    memGet (memSet m a x) b = if a = b then x else memGet m b := by
  unfold memSet memGet
  split
  · next h => rw [tabGet_tabErase]; split <;> simp [h]
  · simp only [tabGet, tabFind_tabSet]; split <;> rfl

@[simp] theorem memGet_memSet_same (m : List Host.Cell) (a : Nat) (x : Byte) : memGet (memSet m a x) a = x := by
  simp [memGet_memSet]

theorem memGet_memSet_other (m : List Host.Cell) (a b : Nat) (x : Byte) (h : a ≠ b) :
    memGet (memSet m a x) b = memGet m b := by
  simp [memGet_memSet, h]

/-! ## The canonical form -/

/-- Rising numbers, said of every pair. -/
theorem tabSorted_iff (t : Tab α) : tabSorted t = true ↔ t.Pairwise (fun a b => a.1 < b.1) := by
  induction t with
  | nil => simp [tabSorted]
  | cons a t ih =>
    cases t with
    | nil => simp [tabSorted]
    | cons b t =>
      simp only [tabSorted, Bool.and_eq_true, decide_eq_true_eq, ih, List.pairwise_cons]
      constructor
      · rintro ⟨hab, hb, ht⟩
        refine ⟨fun c hc => ?_, hb, ht⟩
        rcases List.mem_cons.mp hc with rfl | hc
        · exact hab
        · exact Nat.lt_trans hab (hb c hc)
      · rintro ⟨ha, hb, ht⟩
        exact ⟨ha b (by simp), hb, ht⟩

/-- Entries of a table after one was put. -/
theorem mem_tabSet (t : Tab α) (i : Nat) (x : α) (e : Nat × α) (h : e ∈ tabSet t i x) : e = (i, x) ∨ e ∈ t := by
  induction t with
  | nil => simp [tabSet] at h; exact .inl h
  | cons a t ih =>
    obtain ⟨k, y⟩ := a
    simp only [tabSet] at h
    split at h
    · rcases List.mem_cons.mp h with h | h
      · exact .inl h
      · exact .inr h
    · split at h
      · rcases List.mem_cons.mp h with h | h
        · exact .inl h
        · exact .inr (List.mem_cons_of_mem _ h)
      · rcases List.mem_cons.mp h with h | h
        · exact .inr (by simp [h])
        · rcases ih h with h | h
          · exact .inl h
          · exact .inr (List.mem_cons_of_mem _ h)

theorem tabSet_sorted (t : Tab α) (i : Nat) (x : α) (h : tabSorted t = true) : tabSorted (tabSet t i x) = true := by
  rw [tabSorted_iff] at *
  induction t with
  | nil => simp [tabSet]
  | cons a t ih =>
    obtain ⟨k, y⟩ := a
    rw [List.pairwise_cons] at h
    simp only [tabSet]
    split
    · next hk =>
      rw [List.pairwise_cons]
      refine ⟨fun c hc => ?_, List.pairwise_cons.mpr h⟩
      rcases List.mem_cons.mp hc with rfl | hc
      · exact hk
      · exact Nat.lt_trans hk (h.1 c hc)
    · split
      · next hk => subst hk; exact List.pairwise_cons.mpr h
      · next h1 h2 =>
        rw [List.pairwise_cons]
        refine ⟨fun c hc => ?_, ih h.2⟩
        rcases mem_tabSet t i x c hc with rfl | hc
        · simp only; omega
        · exact h.1 c hc

theorem filter_sorted (t : Tab α) (p : Nat × α → Bool) (h : tabSorted t = true) : tabSorted (t.filter p) = true := by
  rw [tabSorted_iff] at *
  exact h.filter p

theorem tabErase_sorted (t : Tab α) (i : Nat) (h : tabSorted t = true) : tabSorted (tabErase t i) = true :=
  filter_sorted t _ h

theorem tabMap_sorted (f : Nat → α → α) (t : Tab α) (h : tabSorted t = true) : tabSorted (tabMap f t) = true := by
  rw [tabSorted_iff] at *
  exact List.pairwise_map.mpr (h.imp (fun h => h))

/-- A byte written keeps the canonical form. -/
theorem memSet_wf (m : List Host.Cell) (a : Nat) (b : Byte) (h : Memory.wf m = true) : Memory.wf (memSet m a b) = true := by
  simp only [Bool.and_eq_true, List.all_eq_true] at *
  unfold memSet
  split
  · exact ⟨tabErase_sorted m a h.1, fun e he => h.2 e (List.mem_filter.mp he).1⟩
  · next hb =>
    refine ⟨tabSet_sorted m a b h.1, fun e he => ?_⟩
    rcases mem_tabSet m a b e he with rfl | he
    · simpa using hb
    · exact h.2 e he

/-- Two memories in canonical form that read the same everywhere are the same list. -/
theorem memory_ext (m n : List Host.Cell) (hm : Memory.wf m = true) (hn : Memory.wf n = true)
    (h : ∀ a, memGet m a = memGet n a) : m = n := by
  induction m generalizing n with
  | nil =>
    cases n with
    | nil => rfl
    | cons e n =>
      have := h e.1
      simp [memGet, tabGet, tabFind] at this
      simp [Memory.wf] at hn
      exact absurd this.symm hn.2.1
  | cons d m ih =>
    obtain ⟨a, x⟩ := d
    simp only [Memory.wf, Bool.and_eq_true, List.all_cons, tabSorted_iff, List.pairwise_cons, bne_iff_ne] at hm
    cases n with
    | nil =>
      have := h a
      simp [memGet, tabGet, tabFind] at this
      exact absurd this hm.2.1
    | cons e n =>
      obtain ⟨b, y⟩ := e
      simp only [Memory.wf, Bool.and_eq_true, List.all_cons, tabSorted_iff, List.pairwise_cons, bne_iff_ne] at hn
      have none_of {t : List Host.Cell} {c : Nat} (ht : ∀ z ∈ t, c < z.1) (k : Nat) (hk : k ≤ c) :
          tabFind t k = none := by
        induction t with
        | nil => rfl
        | cons z t iht =>
          have hz := ht z (by simp)
          obtain ⟨zk, zv⟩ := z
          simp only at hz
          have : zk ≠ k := by omega
          simp only [tabFind, this, if_false]
          exact iht (fun w hw => ht w (List.mem_cons_of_mem _ hw))
      have hab : a = b := by
        by_cases hlt : a < b
        · have := h a
          simp [memGet, tabGet, tabFind, show ¬ b = a by omega, none_of hn.1.1 a (by omega)] at this
          exact absurd this hm.2.1
        · by_cases hgt : b < a
          · have := h b
            simp [memGet, tabGet, tabFind, show ¬ a = b by omega, none_of hm.1.1 b (by omega)] at this
            exact absurd this.symm hn.2.1
          · omega
      subst hab
      have hxy : x = y := by have := h a; simpa [memGet, tabGet, tabFind] using this
      subst hxy
      have : m = n := by
        apply ih
        · simp only [Memory.wf, Bool.and_eq_true, tabSorted_iff]; exact ⟨hm.1.2, hm.2.2⟩
        · simp only [Memory.wf, Bool.and_eq_true, tabSorted_iff]; exact ⟨hn.1.2, hn.2.2⟩
        · intro k
          by_cases hk : a = k
          · subst hk; simp [memGet, tabGet, none_of hm.1.1 a (by omega), none_of hn.1.1 a (by omega)]
          · have := h k; simpa [memGet, tabGet, tabFind, hk] using this
      rw [this]

end Sys2Proof.Machine
end

