-- ==== Sys2Proof/Laws/Slots.lean ====
section
/-! SUPPORT. Slots, registers and cells: what a read gives after a write, and what the named endings of an instruction do to
the running slot. -/

namespace Sys2Proof.Machine

/-! ## Slots -/

theorem slotKey_inj {c c' : Nat} {k k' : Fin 4} (h : slotKey c k = slotKey c' k') : c = c' ∧ k = k' := by
  unfold slotKey at h
  constructor
  · omega
  · apply Fin.ext; omega

theorem slotAt_putSlotAt (s : State) (c c' : Nat) (k k' : Fin 4) (x : Slot) :
    slotAt (putSlotAt s c k x) c' k' = if c = c' ∧ k = k' then x else slotAt s c' k' := by
  unfold slotAt putSlotAt
  simp only [tabGet, tabFind_tabSet]
  by_cases h : c = c' ∧ k = k'
  · rw [h.1, h.2]; simp
  · have : slotKey c k ≠ slotKey c' k' := fun e => h (slotKey_inj e)
    simp [this, h]

@[simp] theorem slotAt_putSlotAt_same (s : State) (c : Nat) (k : Fin 4) (x : Slot) :
    slotAt (putSlotAt s c k x) c k = x := by simp [slotAt_putSlotAt]

theorem slotAt_putSlotAt_other (s : State) (c c' : Nat) (k k' : Fin 4) (x : Slot) (h : ¬(c = c' ∧ k = k')) :
    slotAt (putSlotAt s c k x) c' k' = slotAt s c' k' := by simp only [slotAt_putSlotAt, h, if_false]

@[simp] theorem slotOf_putSlot (s : State) (x : Slot) : slotOf (putSlot s x) = x := by
  simp [slotOf, putSlot]

theorem slotAt_putSlot (s : State) (x : Slot) (c : Nat) (k : Fin 4) :
    slotAt (putSlot s x) c k = if s.curCell = c ∧ s.curSlot = k then x else slotAt s c k := by
  simp [putSlot, slotAt_putSlotAt]

@[simp] theorem putSlot_putSlot (s : State) (x y : Slot) : putSlot (putSlot s x) y = putSlot s y := by
  simp [putSlot, putSlotAt, tabSet_tabSet]

@[simp] theorem slotAt_putCell (s : State) (c c' : Nat) (k : Fin 4) (x : Cell) :
    slotAt (putCell s c x) c' k = slotAt s c' k := rfl

@[simp] theorem slotOf_putCell (s : State) (c : Nat) (x : Cell) : slotOf (putCell s c x) = slotOf s := rfl

@[simp] theorem slotOf_putCc (s : State) (c : Nat) (x : CtxCell) : slotOf (putCc s c x) = slotOf s := rfl

@[simp] theorem slotOf_putCcOf (s : State) (x : CtxCell) : slotOf (putCcOf s x) = slotOf s := rfl

/-! ## Registers of a slot (02 R24) -/

@[simp] theorem readG_slot_zero (x : Slot) : x.readG 0 = 0 := by simp [Slot.readG]

@[simp] theorem readP_slot_zero (x : Slot) : x.readP 0 = true := by simp [Slot.readP]

theorem readG_writeG_slot (x : Slot) (r r' : GReg) (w : Word) :
    (x.writeG r w).readG r' = if r = r' ∧ r ≠ 0 then w else x.readG r' := by
  unfold Slot.readG Slot.writeG
  by_cases h0 : r = 0
  · subst h0; simp
  · by_cases h : r = r'
    · subst h; simp [h0]
    · have hv : r.val ≠ r'.val := fun e => h (Fin.ext e)
      by_cases h0' : r' = 0
      · simp [h0, h0']
      · simp [h0, h, h0', hv]

theorem readP_writeP_slot (x : Slot) (r r' : PReg) (b : Bool) :
    (x.writeP r b).readP r' = if r = r' ∧ r ≠ 0 then b else x.readP r' := by
  unfold Slot.readP Slot.writeP
  by_cases h0 : r = 0
  · subst h0; simp
  · by_cases h : r = r'
    · subst h; simp [h0]
    · have hv : r.val ≠ r'.val := fun e => h (Fin.ext e)
      by_cases h0' : r' = 0
      · simp [h0, h0']
      · simp [h0, h, h0', hv]

/-- g0 reads as zero in every state (R24). -/
@[simp] theorem readG_zero (s : State) : readG s 0 = 0 := by simp [readG]

/-- p0 reads as 1 in every state (R24). -/
@[simp] theorem readP_zero (s : State) : readP s 0 = true := by simp [readP]

theorem readG_writeG (s : State) (r r' : GReg) (w : Word) :
    readG (writeG s r w) r' = if r = r' ∧ r ≠ 0 then w else readG s r' := by
  simp [readG, writeG, readG_writeG_slot]

theorem readP_writeP (s : State) (r r' : PReg) (b : Bool) :
    readP (writeP s r b) r' = if r = r' ∧ r ≠ 0 then b else readP s r' := by
  simp [readP, writeP, readP_writeP_slot]

theorem readV_writeV (s : State) (r r' : VReg) (w : VecWord) :
    readV (writeV s r w) r' = if r = r' then w else readV s r' := by
  by_cases h : r = r'
  · subst h; simp [readV, writeV]
  · have hv : r.val ≠ r'.val := fun e => h (Fin.ext e)
    simp [readV, writeV, h, hv]

theorem readM_writeM (s : State) (r r' : MReg) (w : MaskWord) :
    readM (writeM s r w) r' = if r = r' then w else readM s r' := by
  by_cases h : r = r'
  · subst h; simp [readM, writeM]
  · have hv : r.val ≠ r'.val := fun e => h (Fin.ext e)
    simp [readM, writeM, h, hv]

/-! ## The running slot after an instruction's ending -/

@[simp] theorem slotOf_setIp (s : State) (ip : InstrIx) : slotOf (setIp s ip) = { slotOf s with ip := ip } := by
  simp [setIp]

@[simp] theorem slotOf_advance (s : State) : slotOf (advance s) = { slotOf s with ip := (slotOf s).ip + 1 } := by
  simp [advance, ipOf]

@[simp] theorem slotOf_writeG (s : State) (r : GReg) (w : Word) : slotOf (writeG s r w) = (slotOf s).writeG r w := by
  simp [writeG]

@[simp] theorem slotOf_writeP (s : State) (r : PReg) (b : Bool) : slotOf (writeP s r b) = (slotOf s).writeP r b := by
  simp [writeP]

@[simp] theorem slotOf_writeV (s : State) (r : VReg) (w : VecWord) :
    slotOf (writeV s r w) = { slotOf s with v := (slotOf s).v.set r w } := by
  simp [writeV]

@[simp] theorem slotOf_writeM (s : State) (r : MReg) (w : MaskWord) :
    slotOf (writeM s r w) = { slotOf s with m := (slotOf s).m.set r w } := by
  simp [writeM]

@[simp] theorem writeG_ip (x : Slot) (r : GReg) (w : Word) : (x.writeG r w).ip = x.ip := by
  unfold Slot.writeG; split <;> rfl

@[simp] theorem writeP_ip (x : Slot) (r : PReg) (b : Bool) : (x.writeP r b).ip = x.ip := by
  unfold Slot.writeP; split <;> rfl

/-- All that a result in g[D] does: one put of the running slot. -/
theorem finishG_eq (s : State) (r : GReg) (w : Word) :
    finishG s r w = putSlot s { (slotOf s).writeG r w with ip := (slotOf s).ip + 1 } := by
  simp [finishG, advance, setIp, ipOf, writeG]

/-- All that a result in p[D] does. -/
theorem finishP_eq (s : State) (r : PReg) (b : Bool) :
    finishP s r b = putSlot s { (slotOf s).writeP r b with ip := (slotOf s).ip + 1 } := by
  simp [finishP, advance, setIp, ipOf, writeP]

/-- All that a result in v[D] does. -/
theorem finishV_eq (s : State) (r : VReg) (w : VecWord) :
    finishV s r w = putSlot s { slotOf s with v := (slotOf s).v.set r w, ip := (slotOf s).ip + 1 } := by
  simp [finishV, advance, setIp, ipOf, writeV]

/-- All that a result in m[D] does. -/
theorem finishM_eq (s : State) (r : MReg) (w : MaskWord) :
    finishM s r w = putSlot s { slotOf s with m := (slotOf s).m.set r w, ip := (slotOf s).ip + 1 } := by
  simp [finishM, advance, setIp, ipOf, writeM]

theorem advance_eq (s : State) : advance s = putSlot s { slotOf s with ip := (slotOf s).ip + 1 } := by
  simp [advance, setIp, ipOf]

/-! ## Cells -/

theorem cellAt_putCell (s : State) (c c' : Nat) (x : Cell) :
    cellAt (putCell s c x) c' = if c = c' then x else cellAt s c' := by
  simp only [cellAt, putCell, tabGet, tabFind_tabSet]; split <;> rfl

@[simp] theorem cellAt_putCell_same (s : State) (c : Nat) (x : Cell) : cellAt (putCell s c x) c = x := by
  simp [cellAt_putCell]

theorem cellAt_putCell_other (s : State) (c c' : Nat) (x : Cell) (h : c ≠ c') :
    cellAt (putCell s c x) c' = cellAt s c' := by simp [cellAt_putCell, h]

@[simp] theorem ccAt_putCc_same (s : State) (c : Nat) (x : CtxCell) : ccAt (putCc s c x) c = x := by
  simp [ccAt, putCc]

theorem ccAt_putCc_other (s : State) (c c' : Nat) (x : CtxCell) (h : c ≠ c') : ccAt (putCc s c x) c' = ccAt s c' := by
  simp [ccAt, putCc, cellAt_putCell, h]

@[simp] theorem ccOf_putCcOf (s : State) (x : CtxCell) : ccOf (putCcOf s x) = x := by simp [ccOf, putCcOf]

@[simp] theorem cellAt_putSlot (s : State) (x : Slot) (c : Nat) : cellAt (putSlot s x) c = cellAt s c := rfl

@[simp] theorem cellAt_putSlotAt (s : State) (d : Nat) (k : Fin 4) (x : Slot) (c : Nat) :
    cellAt (putSlotAt s d k x) c = cellAt s c := rfl

@[simp] theorem ccOf_putSlot (s : State) (x : Slot) : ccOf (putSlot s x) = ccOf s := rfl

@[simp] theorem ccAt_putSlot (s : State) (x : Slot) (c : Nat) : ccAt (putSlot s x) c = ccAt s c := rfl

/-- An event in channel 31 leaves the rest of the context as it was (07 R173). -/
theorem ccEvent_frame (x : CtxCell) (n : Nat) (w : Word) :
    (ccEvent x n w).desc = x.desc ∧ (ccEvent x n w).spad = x.spad ∧ (ccEvent x n w).hod = x.hod ∧
      (ccEvent x n w).barriers = x.barriers ∧ (ccEvent x n w).tiles = x.tiles ∧ (ccEvent x n w).mxu = x.mxu := by
  unfold ccEvent
  split
  · unfold chanPush
    split <;> exact ⟨rfl, rfl, rfl, rfl, rfl, rfl⟩
  · exact ⟨rfl, rfl, rfl, rfl, rfl, rfl⟩

end Sys2Proof.Machine
end

