-- ==== Sys2Proof/Laws/Traps.lean ====
section
/-! SUPPORT. Taking a trap, returning from one, ending an activation: all that each does (18 R338, R348, R354, R355). -/

namespace Sys2Proof.Machine

/-- From level 0 a trap enters level 1. -/
theorem takeTrap_level0 (s : State) (cause : Nat) (t : InstrIx) (va info : Word) (h : (slotOf s).level = 0) :
    takeTrap s cause t va info = putSlot s ((slotOf s).enter false (ccOf s).tvec cause t va info) := by
  simp [takeTrap, h]

/-- From level 1 a trap enters level 2. -/
theorem takeTrap_level1 (s : State) (cause : Nat) (t : InstrIx) (va info : Word) (h : (slotOf s).level = 1) :
    takeTrap s cause t va info = putSlot s ((slotOf s).enter true (ccOf s).tvec cause t va info) := by
  simp [takeTrap, h]

/-- At level 2 a trap kills. -/
theorem takeTrap_level2 (s : State) (cause : Nat) (t : InstrIx) (va info : Word) (h : (slotOf s).level = 2) :
    takeTrap s cause t va info = killActivation s cause (ipOf s) := by
  simp [takeTrap, h]

/-- What entering a level keeps: the registers, the header, the budget, the deferred effects, PEND. -/
theorem enter_keeps (x : Slot) (two : Bool) (tvec : Word) (cause : Nat) (t : InstrIx) (va info : Word) :
    (x.enter two tvec cause t va info).g = x.g ∧ (x.enter two tvec cause t va info).v = x.v ∧
      (x.enter two tvec cause t va info).p = x.p ∧ (x.enter two tvec cause t va info).m = x.m ∧
      (x.enter two tvec cause t va info).sframe = x.sframe ∧ (x.enter two tvec cause t va info).sbudget = x.sbudget ∧
      (x.enter two tvec cause t va info).sctl = x.sctl ∧ (x.enter two tvec cause t va info).tarea = x.tarea ∧
      (x.enter two tvec cause t va info).release = x.release ∧ (x.enter two tvec cause t va info).joins = x.joins ∧
      (x.enter two tvec cause t va info).pend = x.pend := by
  simp [Slot.enter]

/-- What entering a level writes: the banks of that level, the level, IP, the limit. -/
theorem enter_writes (x : Slot) (two : Bool) (tvec : Word) (cause : Nat) (t : InstrIx) (va info : Word) :
    (x.enter two tvec cause t va info).tcause = x.tcause.set (bankOf two) (BitVec.ofNat 64 cause) ∧
      (x.enter two tvec cause t va info).tip = x.tip.set (bankOf two) (t.setWidth 64) ∧
      (x.enter two tvec cause t va info).tfva = x.tfva.set (bankOf two) va ∧
      (x.enter two tvec cause t va info).tinfo = x.tinfo.set (bankOf two) info ∧
      (x.enter two tvec cause t va info).limit = x.limit.set (bankOf two) handlerCycles ∧
      (x.enter two tvec cause t va info).level = (if two then 2 else 1) ∧
      (x.enter two tvec cause t va info).ip = handlerEntry tvec two ∧
      (x.enter two tvec cause t va info).run = .run := by
  cases two <;> simp [Slot.enter, bankOf]

/-- A return lowers the level by one, takes IP from the bank of the level it leaves, and changes nothing else. -/
theorem returnTrap_eq (s : State) : returnTrap s = putSlot s
    (if (slotOf s).level = 2 then { slotOf s with ip := ((slotOf s).tip[1]).setWidth 32, level := 1 }
     else { slotOf s with ip := ((slotOf s).tip[0]).setWidth 32, level := 0 }) := by
  unfold returnTrap; dsimp only; split <;> rfl

@[simp] theorem slotOf_freeSlot (s : State) : slotOf (freeSlot s) =
    { slotOf s with run := .free, level := 0, release := [], joins := [], pend := .none, stall := .none } := by
  simp [freeSlot]

theorem lookPreempt_slots (s : State) (c : Nat) : (lookPreempt s c).slots = s.slots := by
  unfold lookPreempt; dsimp only; split <;> rfl

theorem maskChannel_slots (s : State) (back : Bool) : (maskChannel s back).slots = s.slots := by
  unfold maskChannel
  split
  · rfl
  · split <;> rfl

theorem maskChannel_cur (s : State) (back : Bool) :
    (maskChannel s back).curCell = s.curCell ∧ (maskChannel s back).curSlot = s.curSlot := by
  unfold maskChannel
  split
  · exact ⟨rfl, rfl⟩
  · split <;> exact ⟨rfl, rfl⟩

/-- What a trap, a return, an abort or a kill leaves of memory: all of it. -/
theorem takeTrap_mem (s : State) (cause : Nat) (t : InstrIx) (va info : Word) :
    (takeTrap s cause t va info).mem = s.mem ∧ (takeTrap s cause t va info).dirty = s.dirty := by
  have hl (u : State) (c : Nat) : (lookPreempt u c).mem = u.mem ∧ (lookPreempt u c).dirty = u.dirty := by
    unfold lookPreempt; dsimp only; split <;> exact ⟨rfl, rfl⟩
  have hm (b : Bool) : (maskChannel s b).mem = s.mem ∧ (maskChannel s b).dirty = s.dirty := by
    unfold maskChannel
    split
    · exact ⟨rfl, rfl⟩
    · split <;> exact ⟨rfl, rfl⟩
  unfold takeTrap
  split
  · exact ⟨rfl, rfl⟩
  · exact ⟨rfl, rfl⟩
  · unfold killActivation
    constructor
    · rw [(hl _ _).1]; exact (hm false).1
    · rw [(hl _ _).2]; exact (hm false).2

end Sys2Proof.Machine
end

