-- ==== Sys2Proof/Laws/Gives.lean ====
section
/-! SUPPORT. How the shared endings of an instruction meet the frames of Safety: only the slot at hand changes, or only it and
the context of its cell. -/

namespace Sys2Proof.Safety

open Sys2Proof.Machine

theorem onlySlot_putSlot (s : State) (x : Slot) : OnlySlot s (putSlot s x) := by
  refine ⟨rfl, fun c k h => ?_⟩
  rw [slotAt_putSlot, if_neg]
  rintro ⟨rfl, rfl⟩
  exact h ⟨rfl, rfl⟩

/-- An instruction that puts the slot at hand gives it. -/
theorem gives_putSlot {i : Instr} {s : State} {x : Slot} (h : exec i s = .next (putSlot s x)) : Gives i s x :=
  ⟨_, h, slotOf_putSlot s x, onlySlot_putSlot s x⟩

/-- A result in g[D]. -/
theorem gives_finishG {i : Instr} {s : State} {d : GReg} {w : Word} (h : exec i s = .next (finishG s d w)) :
    Gives i s (gResult (slotOf s) d w) := by
  refine gives_putSlot (h.trans (congrArg _ ?_))
  rw [finishG_eq]
  unfold Slot.writeG gResult
  split <;> rfl

/-- A result in p[D]. -/
theorem gives_finishP {i : Instr} {s : State} {d : PReg} {b : Bool} (h : exec i s = .next (finishP s d b)) :
    Gives i s (pResult (slotOf s) d b) := by
  refine gives_putSlot (h.trans (congrArg _ ?_))
  rw [finishP_eq]
  unfold Slot.writeP pResult
  split <;> rfl

/-- A result in v[D]. -/
theorem gives_finishV {i : Instr} {s : State} {d : VReg} {w : VecWord} (h : exec i s = .next (finishV s d w)) :
    Gives i s (vResult (slotOf s) d w) :=
  gives_putSlot (h.trans (congrArg _ (finishV_eq s d w)))

/-- A result in m[D]. -/
theorem gives_finishM {i : Instr} {s : State} {d : MReg} {w : MaskWord} (h : exec i s = .next (finishM s d w)) :
    Gives i s (mResult (slotOf s) d w) :=
  gives_putSlot (h.trans (congrArg _ (finishM_eq s d w)))

/-- IP alone advanced. -/
theorem gives_advance {i : Instr} {s : State} (h : exec i s = .next (advance s)) : Gives i s (nextIp (slotOf s)) :=
  gives_putSlot (h.trans (congrArg _ (advance_eq s)))

theorem onlySlotCc_put (s : State) (x : Slot) (y : CtxCell) : OnlySlotCc s (putCcOf (putSlot s x) y) := by
  refine ⟨rfl, fun c k h => ?_, fun c h => ?_, ?_⟩
  · exact (onlySlot_putSlot s x).2 c k h
  · exact cellAt_putCell_other _ _ _ _ (fun e => h e.symm)
  · show ({ cellAt (putCell (putSlot s x) s.curCell _) s.curCell with cc := ccOf s } : Cell) = _
    rw [cellAt_putCell_same]
    rfl

/-- An instruction that puts the slot at hand and the context of its cell gives both. -/
theorem givesCc_put {i : Instr} {s : State} {x : Slot} {y : CtxCell}
    (h : exec i s = .next (putCcOf (putSlot s x) y)) : GivesCc i s x y :=
  ⟨_, h, by rw [slotOf_putCcOf, slotOf_putSlot], ccOf_putCcOf _ _, onlySlotCc_put s x y⟩

/-- An instruction that takes a trap takes it at every level. -/
theorem traps_takeTrap {i : Instr} {s : State} {cause : Nat} {tip : InstrIx} {va info : Word}
    (h : exec i s = .next (takeTrap s cause tip va info)) : Traps i s cause tip va info := by
  refine ⟨fun l => ?_, fun l => ?_, fun l => ?_⟩
  · rw [takeTrap_level0 s cause tip va info l] at h
    exact gives_putSlot (h.trans rfl)
  · rw [takeTrap_level1 s cause tip va info l] at h
    exact gives_putSlot (h.trans rfl)
  · rw [takeTrap_level2 s cause tip va info l] at h
    exact h

end Sys2Proof.Safety
end

