-- ==== Sys2Proof/Laws/Memory.lean ====
section
/-! SUPPORT. Bytes of the package: what a read gives after a write, what a load or store has done when it is done, and that
every memory operation keeps memory in its canonical form. -/

namespace Sys2Proof.Machine

open Sys2Proof.Safety

/-! ## One byte -/

/-- A coherent read after a coherent write. -/
theorem physByte_physSet (s : State) (a b : Nat) (x : Byte) :
    physByte (physSet s a x) b = if a = b then x else physByte s b := by
  unfold physSet
  by_cases hm : x = memGet s.mem a <;> by_cases hab : a = b
  · subst hab; simp [physByte, hm, tabFind_tabErase]
  · simp [physByte, hm, hab, tabFind_tabErase]
  · subst hab; simp [physByte, hm]
  · simp [physByte, hm, hab, tabFind_tabSet]

/-- A coherent read after a write to memory itself. -/
theorem physByte_memPut (s : State) (a b : Nat) (x : Byte) :
    physByte (memPut s a x) b = if a = b then x else physByte s b := by
  unfold physByte memPut
  by_cases hab : a = b
  · simp [hab, tabFind_tabErase]
  · simp [hab, tabFind_tabErase, memGet_memSet]

@[simp] theorem physByte_putSlot (s : State) (x : Slot) (a : Nat) : physByte (putSlot s x) a = physByte s a := rfl

@[simp] theorem physByte_putCell (s : State) (c : Nat) (x : Cell) (a : Nat) : physByte (putCell s c x) a = physByte s a := rfl

/-- A read after bytes written coherently, outside them. -/
theorem physByte_physWrite_other (bs : List Byte) : ∀ (s : State) (pa a : Nat),
    (a < pa ∨ pa + bs.length ≤ a) → physByte (physWrite s pa bs) a = physByte s a := by
  induction bs with
  | nil => intro s pa a _; rfl
  | cons b bs ih =>
    intro s pa a h
    simp only [List.length_cons] at h
    simp only [physWrite]
    rw [ih _ _ _ (by omega), physByte_physSet]
    simp [show pa ≠ a by omega]

/-- A read after bytes written to memory itself, outside them. -/
theorem physByte_memWrite_other (bs : List Byte) : ∀ (s : State) (pa a : Nat),
    (a < pa ∨ pa + bs.length ≤ a) → physByte (memWrite s pa bs) a = physByte s a := by
  induction bs with
  | nil => intro s pa a _; rfl
  | cons b bs ih =>
    intro s pa a h
    simp only [List.length_cons] at h
    simp only [memWrite]
    rw [ih _ _ _ (by omega), physByte_memPut]
    simp [show pa ≠ a by omega]

/-- A read after bytes written to memory itself, among them. -/
theorem physByte_memWrite_at (bs : List Byte) : ∀ (s : State) (pa i : Nat) (h : i < bs.length),
    physByte (memWrite s pa bs) (pa + i) = bs[i] := by
  induction bs with
  | nil => intro s pa i h; simp at h
  | cons b bs ih =>
    intro s pa i h
    simp only [memWrite]
    cases i with
    | zero => rw [physByte_memWrite_other _ _ _ _ (by omega), physByte_memPut]; simp
    | succ i =>
      have := ih (memPut s pa b) (pa + 1) i (by simpa using h)
      rw [show pa + (i + 1) = pa + 1 + i by omega, this]
      simp

/-! ## A write-back changes no byte that anyone reads -/

theorem physByte_memWrite_self (n : Nat) : ∀ (s : State) (pa a : Nat),
    physByte (memWrite s pa (physBytes s pa n)) a = physByte s a := by
  intro s pa a
  by_cases h : a < pa ∨ pa + n ≤ a
  · exact physByte_memWrite_other _ _ _ _ (by simpa [physBytes] using h)
  · have hi : a - pa < n := by omega
    have := physByte_memWrite_at (physBytes s pa n) s pa (a - pa) (by simpa [physBytes] using hi)
    rw [show pa + (a - pa) = a by omega] at this
    rw [this]
    simp [physBytes, show pa + (a - pa) = a by omega]

/-- Dirty data written back reads as before. -/
@[simp] theorem physByte_writeBack (s : State) (line a : Nat) : physByte (writeBack s line) a = physByte s a :=
  physByte_memWrite_self 128 s (line * 128) a

theorem physByte_coh (s : State) (c : Coh) (a : Nat) : physByte { s with coh := c } a = physByte s a := rfl

/-- What a fold of an operation keeps when the operation keeps it. -/
theorem foldl_keeps {α β γ : Type} (f : β → α → β) (g : β → γ) (h : ∀ b a, g (f b a) = g b) (l : List α) :
    ∀ b, g (l.foldl f b) = g b := by
  induction l with
  | nil => intro b; rfl
  | cons a l ih => intro b; rw [List.foldl_cons, ih, h]

/-- An operation that keeps a property keeps it over a list. -/
theorem foldl_invariant {α β : Type} (f : β → α → β) (P : β → Prop) (h : ∀ b a, P b → P (f b a)) (l : List α) :
    ∀ b, P b → P (l.foldl f b) := by
  induction l with
  | nil => intro b hb; exact hb
  | cons a l ih => intro b hb; exact ih _ (h _ _ hb)

/-! ## The canonical form is kept -/

theorem memOk_of_mem {s t : State} (h : MemOk s) (e : t.mem = s.mem) : MemOk t := by unfold MemOk at *; rw [e]; exact h

theorem memOk_memPut (s : State) (a : Nat) (b : Byte) (h : MemOk s) : MemOk (memPut s a b) :=
  memSet_wf s.mem a b h

theorem memOk_memWrite (bs : List Byte) : ∀ (s : State) (a : Nat), MemOk s → MemOk (memWrite s a bs) := by
  induction bs with
  | nil => intro s a h; exact h
  | cons b bs ih => intro s a h; exact ih _ _ (memOk_memPut s a b h)

theorem memOk_writeBack (s : State) (line : Nat) (h : MemOk s) : MemOk (writeBack s line) := by
  unfold writeBack
  generalize physBytes s (line * 128) 128 = bs
  exact memOk_memWrite bs s _ h

theorem dirtyOk_memWrite (bs : List Byte) : ∀ (s : State) (a : Nat), DirtyOk s → DirtyOk (memWrite s a bs) := by
  induction bs with
  | nil => intro s a h; exact h
  | cons b bs ih => intro s a h; exact ih _ _ (tabErase_sorted s.dirty a h)

theorem dirtyOk_writeBack (s : State) (line : Nat) (h : DirtyOk s) : DirtyOk (writeBack s line) := by
  unfold writeBack
  generalize physBytes s (line * 128) 128 = bs
  exact dirtyOk_memWrite bs s _ h

/-- Bytes written to memory itself leave all else as it was. -/
theorem memWrite_only (bs : List Byte) : ∀ (s : State) (a : Nat), OnlyMemory s (memWrite s a bs) := by
  induction bs with
  | nil => intro s a; rfl
  | cons b bs ih =>
    intro s a
    exact congrArg (fun x : State => { x with mem := s.mem, dirty := s.dirty }) (ih (memPut s a b) (a + 1))

@[simp] theorem physSet_mem (s : State) (a : Nat) (b : Byte) : (physSet s a b).mem = s.mem := by
  unfold physSet; split <;> rfl

@[simp] theorem writeLoc_mem (s : State) (l : Loc) (b : Byte) : (writeLoc s l b).mem = s.mem := by
  unfold writeLoc; split <;> simp

@[simp] theorem writeLocs_mem (ls : List Loc) : ∀ (s : State) (bs : List Byte), (writeLocs s ls bs).mem = s.mem := by
  induction ls with
  | nil => intro s bs; rfl
  | cons l ls ih =>
    intro s bs
    cases bs with
    | nil => rfl
    | cons b bs => simp only [writeLocs]; rw [ih, writeLoc_mem]

@[simp] theorem damagePools_mem (s : State) (ls : List Loc) : (damagePools s ls).mem = s.mem := by
  unfold damagePools; split <;> rfl

@[simp] theorem healLocs_mem (s : State) (ls : List Loc) : (healLocs s ls).mem = s.mem := by
  unfold healLocs; dsimp only; split <;> rfl

end Sys2Proof.Machine
end

