-- ==== Sys2Proof/Laws/Quiet.lean ====
section
/-! SUPPORT. The memory system at work changes no byte and nothing outside itself: one relation, kept by every coherence
operation, by walks, and by the lines got for an access (10 R212-R228). -/

namespace Sys2Proof.Machine

open Sys2Proof.Safety

/-- The memory system has worked: nothing outside it has changed, every byte reads as before, canonical forms are kept. -/
structure Quiet (s t : State) : Prop where
  only : OnlyMemory s t
  bytes : SameBytes s t
  memOk : MemOk s → MemOk t
  dirtyOk : DirtyOk s → DirtyOk t

theorem Quiet.refl (s : State) : Quiet s s := ⟨rfl, fun _ => rfl, id, id⟩

theorem Quiet.trans {s t u : State} (h : Quiet s t) (k : Quiet t u) : Quiet s u := by
  refine ⟨?_, fun a => (k.bytes a).trans (h.bytes a), fun x => k.memOk (h.memOk x), fun x => k.dirtyOk (h.dirtyOk x)⟩
  have hu := k.only
  have ht := h.only
  unfold OnlyMemory at *
  rw [← hu] at ht
  exact ht

theorem Quiet.ite {s t u : State} {p : Prop} [Decidable p] (h : Quiet s t) (k : Quiet s u) :
    Quiet s (if p then t else u) := by split <;> assumption

/-- An operation that is quiet at each element is quiet over a list. -/
theorem Quiet.foldl {α : Type} (f : State → α → State) (h : ∀ s a, Quiet s (f s a)) (l : List α) :
    ∀ s, Quiet s (l.foldl f s) := by
  induction l with
  | nil => exact Quiet.refl
  | cons a l ih => exact fun s => (h s a).trans (ih _)

/-! ## Caches, memory, messages -/

theorem quiet_putCoh (s : State) (c : Coh) : Quiet s (putCoh s c) := ⟨rfl, fun _ => rfl, id, id⟩

theorem quiet_poison (s : State) (l : List Nat) : Quiet s { s with poison := l } := ⟨rfl, fun _ => rfl, id, id⟩

theorem quiet_writeBack (s : State) (line : Nat) : Quiet s (writeBack s line) := by
  refine ⟨?_, physByte_writeBack s line, memOk_writeBack s line, dirtyOk_writeBack s line⟩
  unfold writeBack
  generalize physBytes s (line * 128) 128 = bs
  exact memWrite_only bs s _

theorem quiet_healSectors (s : State) (line : Nat) (good : BitVec 4) : Quiet s (healSectors s line good) := quiet_poison s _

theorem quiet_backFrom (s : State) (d line : Nat) : Quiet s (backFrom s d line) :=
  (quiet_healSectors s line _).trans (quiet_writeBack _ line)

theorem quiet_putStream (s : State) (k : Nat) (x : Stream) : Quiet s (putStream s k x) := ⟨rfl, fun _ => rfl, id, id⟩

theorem quiet_sendFlit (s : State) (l : Fin 8) (k n : Nat) : Quiet s (sendFlit s l k n) := by
  unfold sendFlit
  dsimp only
  split
  · exact ⟨rfl, fun _ => rfl, id, id⟩
  · exact .refl s

theorem quiet_sendKept (s : State) (k n : Nat) : Quiet s (sendKept s k n) := by
  unfold sendKept
  split
  · exact quiet_sendFlit s _ k n
  · exact .refl s

theorem quiet_sendMessage (s : State) (a b : Nat) : Quiet s (sendMessage s a b) := by
  unfold sendMessage
  split
  · exact .refl s
  · exact (quiet_putStream s _ _).trans (quiet_sendKept _ _ _)

/-! ## Evictions and ways -/

theorem quiet_toShare (s : State) (p line : Nat) : Quiet s (toShare s p line) := by
  unfold toShare
  dsimp only
  split
  · exact quiet_putCoh s _
  · exact Quiet.ite (quiet_putCoh s _) (Quiet.ite (quiet_putCoh s _) (quiet_putCoh s _))

theorem quiet_slicePut (s : State) (p line : Nat) : Quiet s (slicePut s p line) := by
  unfold slicePut
  dsimp only
  split
  · exact quiet_putCoh s _
  · exact quiet_putCoh s _
  · exact quiet_toShare s p line
  · exact quiet_toShare s p line
  · exact .refl s

theorem quiet_queueReq (s : State) (r : CohReq) : Quiet s (queueReq s r) := by
  unfold queueReq
  split <;> exact quiet_putCoh s _

theorem quiet_putServe (s : State) (r : CohReq) : Quiet s (putServe s r) := by
  have h : Quiet s (match r.site with
      | .slice _ => slicePut s r.from_ r.line
      | .home => putCoh s (homeSet s.coh r.line (diePut (homeGet s.coh r.line) r.from_))) := by
    split
    · exact quiet_slicePut s _ _
    · exact quiet_putCoh s _
  unfold putServe
  dsimp only
  split
  · exact quiet_queueReq s r
  · split
    · exact h.trans (quiet_putCoh _ _)
    · exact h

theorem quiet_sendReq (s : State) (n : Nat) (r : CohReq) : Quiet s (sendReq s n r) :=
  (quiet_putCoh s _).trans (quiet_sendMessage _ _ _)

theorem quiet_giveUp (s : State) (d line : Nat) : Quiet s (giveUp s d line) := by
  unfold giveUp
  dsimp only
  split
  · exact (quiet_backFrom s d line).trans (quiet_putCoh _ _)
  · exact quiet_putCoh s _

theorem quiet_evictL2 (s : State) (d line : Nat) : Quiet s (evictL2 s d line) := by
  unfold evictL2
  dsimp only
  split
  · exact quiet_giveUp s d line
  · split
    · exact (quiet_giveUp s d line).trans (quiet_putServe _ _)
    · exact (quiet_giveUp s d line).trans (quiet_sendReq _ _ _)

theorem quiet_l1Room {s t : State} {p line : Nat} (h : l1Room s p line = some t) : Quiet s t := by
  unfold l1Room at h
  dsimp only at h
  split at h
  · cases h; exact .refl s
  · obtain ⟨v, -, rfl⟩ := Option.map_eq_some_iff.mp h
    exact quiet_slicePut s p v

theorem quiet_l2Room {s t : State} {d line : Nat} (h : l2Room s d line = some t) : Quiet s t := by
  unfold l2Room at h
  dsimp only at h
  split at h
  · cases h; exact .refl s
  · split at h
    · cases h; exact .refl s
    · obtain ⟨v, -, rfl⟩ := Option.map_eq_some_iff.mp h
      exact quiet_evictL2 s d v

/-! ## Locks, probes, grants -/

theorem quiet_sendProbe (r : CohReq) (stamp : Byte) (s : State) (t : Nat) : Quiet s (sendProbe r stamp s t) := by
  unfold sendProbe
  split
  · exact quiet_putCoh s _
  · exact (quiet_putCoh s _).trans (quiet_sendMessage _ _ _)

theorem quiet_lockFor (s : State) (r : CohReq) (n : Nat) : Quiet s (lockFor s r n) := quiet_putCoh s _

theorem quiet_lockAndProbe (s : State) (r : CohReq) (ts : List Nat) : Quiet s (lockAndProbe s r ts) :=
  ((quiet_putCoh s _).trans (quiet_lockFor _ r _)).trans (Quiet.foldl _ (quiet_sendProbe r _) ts _)

theorem quiet_sliceServe (s : State) (d : Nat) (r : CohReq) : Quiet s (sliceServe s d r) := by
  unfold sliceServe
  split
  · exact quiet_putCoh s _
  · exact quiet_lockAndProbe s r _

theorem quiet_resumeSlice (s : State) (d : Fin 4) (line : Nat) : Quiet s (resumeSlice s d line) := by
  unfold resumeSlice
  split
  · exact (quiet_putCoh s _).trans (quiet_sliceServe _ _ _)
  · exact .refl s

theorem quiet_takeGrant (s : State) (d line : Nat) (st : Moesi) (stamp : Byte) (good : BitVec 4) :
    Quiet s (takeGrant s d line st stamp good) :=
  (quiet_putCoh s _).trans (quiet_resumeSlice _ _ _)

theorem quiet_loseGrant (s : State) (r : CohReq) (h : HomeEntry) (good : BitVec 4) : Quiet s (loseGrant s r h good) :=
  (Quiet.ite ((quiet_healSectors s _ good).trans (quiet_writeBack _ r.line)) (.refl s)).trans (quiet_putCoh _ _)

theorem quiet_homeGrant (s : State) (r : CohReq) (good : BitVec 4) : Quiet s (homeGrant s r good) := by
  unfold homeGrant
  dsimp only
  split
  · exact quiet_loseGrant s r _ good
  · split
    · exact (quiet_putCoh s _).trans (quiet_takeGrant _ _ _ _ _ _)
    · exact (quiet_putCoh s _).trans (quiet_sendMessage _ _ _)

theorem quiet_startEvict (s : State) (line : Nat) : Quiet s (startEvict s line) := by
  unfold startEvict
  dsimp only
  split
  · exact quiet_putCoh s _
  · exact quiet_lockAndProbe s _ _

theorem quiet_needWay (s : State) (r : CohReq) : Quiet s (needWay s r) := by
  unfold needWay
  dsimp only
  split
  · exact quiet_putCoh s _
  · split
    · exact (quiet_putCoh s _).trans (quiet_startEvict _ _)
    · exact quiet_putCoh s _

theorem quiet_atomServe (s : State) (r : CohReq) : Quiet s (atomServe s r) := by
  unfold atomServe
  split
  · exact (quiet_putCoh s _).trans (quiet_lockFor _ r _)
  · exact quiet_lockAndProbe s r _

theorem quiet_grantServe (s : State) (r : CohReq) : Quiet s (grantServe s r) := by
  unfold grantServe
  split
  · exact quiet_needWay s r
  · split
    · exact quiet_homeGrant s r 0
    · exact quiet_lockAndProbe s r _

theorem quiet_homeServe (s : State) (r : CohReq) : Quiet s (homeServe s r) := by
  unfold homeServe
  split
  · exact quiet_queueReq s r
  · split
    · exact quiet_atomServe s r
    · exact quiet_grantServe s r

theorem quiet_refuseReq (s : State) (m : ReqMsg) : Quiet s (refuseReq s m) := by
  unfold refuseReq
  dsimp only
  split
  · exact quiet_putCoh s _
  · exact (quiet_putCoh s _).trans (quiet_sendMessage _ _ _)

theorem quiet_takeReq (s : State) (m : ReqMsg) : Quiet s (takeReq s m) := by
  unfold takeReq
  split
  · exact quiet_refuseReq s m
  · split
    · exact quiet_putServe s m.req
    · exact quiet_homeServe s m.req

theorem quiet_popReq {s t : State} {p : CohReq → Bool} {m : ReqMsg} (h : popReq s p = some (m, t)) : Quiet s t := by
  unfold popReq at h
  obtain ⟨i, -, h⟩ := Option.bind_eq_some_iff.mp h
  obtain ⟨x, -, e⟩ := Option.map_eq_some_iff.mp h
  cases e
  exact quiet_putCoh s _

theorem quiet_routeHome (s : State) (n : Nat) (r : CohReq) : Quiet s (routeHome s n r) := by
  unfold routeHome
  dsimp only
  split
  · exact quiet_putCoh s _
  · split
    · exact .refl s
    · split
      · split
        · next m u e => exact ((quiet_sendReq s n r).trans (quiet_popReq e)).trans (quiet_takeReq u m)
        · exact quiet_sendReq s n r
      · exact quiet_sendReq s n r

/-! ## Requests at their site, and what a lock that goes lets go on -/

theorem quiet_arriveSlice (s : State) (d : Fin 4) (r : CohReq) : Quiet s (arriveSlice s d r) := by
  unfold arriveSlice
  split
  · exact quiet_queueReq s r
  · split
    · exact quiet_sliceServe s d r
    · split
      · exact quiet_putCoh s _
      · next u e => exact ((quiet_l2Room e).trans (quiet_lockFor u r 0)).trans (quiet_routeHome _ _ _)

theorem quiet_serveReq (s : State) (r : CohReq) : Quiet s (serveReq s r) := by
  unfold serveReq
  split
  · exact quiet_putServe s r
  · exact quiet_arriveSlice s _ r
  · exact quiet_homeServe s r

theorem quiet_drainQueue (n : Nat) : ∀ s : State, Quiet s (drainQueue s n) := by
  induction n with
  | zero => exact Quiet.refl
  | succ n ih =>
    intro s
    unfold drainQueue
    split
    · exact .refl s
    · exact ((quiet_putCoh s _).trans (quiet_serveReq _ _)).trans (ih _)

theorem quiet_drain (s : State) : Quiet s (drain s) := by
  unfold drain
  dsimp only
  split
  · exact quiet_drainQueue _ s
  · exact ((quiet_putCoh s _).trans (Quiet.foldl _ quiet_homeServe _ _)).trans (quiet_drainQueue _ _)

/-! ## A line got for an access -/

theorem quiet_levelNow {s t : State} {d line : Nat} {k : CohKind} (h : levelNow s d line k = some t) : Quiet s t := by
  unfold levelNow at h
  dsimp only at h
  split at h
  · cases h; exact .refl s
  · split at h
    · cases h
    · obtain ⟨u, e, rfl⟩ := Option.map_eq_some_iff.mp h
      exact (quiet_l2Room e).trans (quiet_putCoh u _)

theorem quiet_serveNow {s t : State} {d a line : Nat} {k : CohKind} (h : serveNow s d a line k = some t) : Quiet s t := by
  unfold serveNow at h
  obtain ⟨u, e, h⟩ := Option.bind_eq_some_iff.mp h
  obtain ⟨w, e2, rfl⟩ := Option.map_eq_some_iff.mp h
  have hw : Quiet u w := by
    split at e2
    · exact quiet_l1Room e2
    · cases e2; exact .refl u
  exact ((quiet_levelNow e).trans hw).trans (quiet_putCoh w _)

theorem quiet_fromShare (s : State) (p line : Nat) : Quiet s (fromShare s p line) := by
  unfold fromShare
  split
  · exact .refl s
  · split
    · exact .refl s
    · next u e => exact (quiet_l1Room e).trans (quiet_putCoh u _)

theorem quiet_useCopy (s : State) (a : Nat) (write : Bool) (line : Nat) : Quiet s (useCopy s a write line) := by
  unfold useCopy
  split
  · exact quiet_putCoh s _
  · exact .refl s

theorem quiet_lookShare (s : State) (d a line : Nat) : Quiet s (lookShare s d a line) :=
  Quiet.ite (quiet_fromShare s a line) (.refl s)

theorem quiet_acquire {s t : State} {d a : Nat} {write : Bool} {line : Nat} (h : acquire s d a write line = some t) :
    Quiet s t := by
  unfold acquire at h
  dsimp only at h
  have hs := quiet_lookShare s d a line
  generalize lookShare s d a line = u at hs h
  split at h
  · cases h; exact quiet_useCopy s a write line
  · split at h
    · cases h; exact hs.trans (quiet_useCopy u a write line)
    · split at h
      · cases h
      · exact hs.trans (quiet_serveNow h)

theorem quiet_askLine (s : State) (d a : Nat) (write : Bool) (line : Nat) : Quiet s (askLine s d a write line) := by
  unfold askLine
  dsimp only
  have hs := quiet_lookShare s d a line
  generalize lookShare s d a line = v at hs ⊢
  split
  · exact .refl s
  · split
    · exact hs
    · split
      · exact hs
      · next u e =>
        have hu : Quiet v u := by
          split at e
          · exact quiet_l1Room e
          · cases e; exact .refl v
        exact ((hs.trans hu).trans (quiet_arriveSlice u _ _)).trans (quiet_drain _)

/-- The lines of an access got, or asked for: no byte has changed, nor anything outside the memory system. -/
theorem quiet_acquireLines {d a : Nat} {write : Bool} (ls : List Nat) : ∀ {s : State},
    (∀ t, acquireLines s d a write ls = .ok t → Quiet s t) ∧ (∀ w, acquireLines s d a write ls = .error w → Quiet s w) := by
  induction ls with
  | nil => intro s; exact ⟨fun t h => by cases h; exact .refl s, fun w h => by cases h⟩
  | cons l ls ih =>
    intro s
    unfold acquireLines
    split
    · next u e => exact ⟨fun t h => (quiet_acquire e).trans (ih.1 t h), fun w h => (quiet_acquire e).trans (ih.2 w h)⟩
    · exact ⟨fun t h => (by cases h), fun w h => by cases h; exact quiet_askLine s d a write l⟩

/-! ## Walks and checks of an access -/

theorem quiet_tlbs (s : State) (x : Tlbs) : Quiet s { s with tlbs := x } := ⟨rfl, fun _ => rfl, id, id⟩

theorem quiet_useTlbs (s : State) (c : Nat) (x : Descriptor) (va : Nat) : Quiet s (useTlbs s c x va) := by
  unfold useTlbs
  split
  · exact .refl s
  · split
    · exact quiet_tlbs s _
    · split
      · exact quiet_tlbs s _
      · exact .refl s

theorem quiet_holdWalker (s : State) (w : Walker) : Quiet s (holdWalker s w) := Quiet.ite (.refl s) (quiet_tlbs s _)

theorem quiet_freeWalker (s : State) (w : Walker) : Quiet s (freeWalker s w) := Quiet.ite (quiet_tlbs s _) (.refl s)

theorem quiet_walkPage {s : State} {c : Nat} {x : Descriptor} {va : Nat} :
    (∀ t, walkPage s c x va = .ok t → Quiet s t) ∧ (∀ w, walkPage s c x va = .error w → Quiet s w) := by
  have h := quiet_acquireLines (s := s) (d := dieOf (physOf s c)) (a := engineOf (dieOf (physOf s c))) (write := false)
    (walkLines s c x va)
  unfold walkPage
  dsimp only
  split
  · exact ⟨fun t e => by cases e; exact quiet_useTlbs s c x va, fun w e => (by cases e)⟩
  · split
    · exact ⟨fun t e => (by cases e), fun w e => by cases e; exact .refl s⟩
    · split
      · next u e => exact ⟨fun t k => (by cases k), fun w k => by cases k; exact (h.2 u e).trans (quiet_holdWalker u _)⟩
      · next u e =>
        have q := (h.1 u e).trans (quiet_freeWalker u (walkerFor s c x va))
        exact ⟨fun t k => by cases k; exact Quiet.ite q (q.trans (quiet_useTlbs _ c x va)), fun w k => (by cases k)⟩

theorem quiet_walkPages {c : Nat} {x : Descriptor} (ps : List Nat) : ∀ {s : State},
    (∀ t, walkPages s c x ps = .ok t → Quiet s t) ∧ (∀ w, walkPages s c x ps = .error w → Quiet s w) := by
  induction ps with
  | nil => intro s; exact ⟨fun t h => by cases h; exact .refl s, fun w h => by cases h⟩
  | cons p ps ih =>
    intro s
    have hp := quiet_walkPage (s := s) (c := c) (x := x) (va := 65536 * p)
    unfold walkPages
    split
    · next w e => exact ⟨fun t h => (by cases h), fun w h => by cases h; exact hp.2 _ e⟩
    · next u e => exact ⟨fun t h => (hp.1 u e).trans (ih.1 t h), fun w h => (hp.1 u e).trans (ih.2 w h)⟩

/-- The checks of an access: whatever they come to, no byte has changed, nor anything outside the memory system. -/
theorem quiet_checkAccess {s : State} {acc : Access} {first : Word} {as : List Word} :
    (∀ w, checkAccess s acc first as = .wait w → Quiet s w) ∧
      (∀ t e, checkAccess s acc first as = .trap t e → Quiet s t ∧
        (walkUe t t.curCell (ccOf t).desc acc first as = some e ∨
          (walkUe t t.curCell (ccOf t).desc acc first as = none ∧ checkBytes t acc first as = .error e))) ∧
      (∀ t ls, checkAccess s acc first as = .ok t ls → Quiet s t ∧ checkBytes t acc first as = .ok ls) := by
  have h := quiet_walkPages (c := s.curCell) (x := (ccOf s).desc) (pagesOf as) (s := s)
  unfold checkAccess
  split
  · next w e => exact ⟨fun w h' => by cases h'; exact h.2 _ e, fun t e h' => (by cases h'), fun t ls h' => by cases h'⟩
  · next u e =>
    split
    · next x k =>
      exact ⟨fun w h' => (by cases h'), fun t y h' => by cases h'; exact ⟨h.1 u e, .inl k⟩, fun t ls h' => by cases h'⟩
    · next n =>
      split
      · next x k =>
        exact ⟨fun w h' => (by cases h'), fun t y h' => by cases h'; exact ⟨h.1 u e, .inr ⟨n, k⟩⟩, fun t ls h' => by cases h'⟩
      · next ls k =>
        exact ⟨fun w h' => (by cases h'), fun t y h' => (by cases h'), fun t l h' => by cases h'; exact ⟨h.1 u e, k⟩⟩

theorem quiet_getLines {s : State} {write : Bool} {ls : List Loc} :
    (∀ t, getLines s write ls = .ok t → Quiet s t) ∧ (∀ w, getLines s write ls = .error w → Quiet s w) := by
  unfold getLines
  split
  · exact ⟨fun t h => (by cases h), fun w h => by cases h; exact .refl s⟩
  · exact quiet_acquireLines _

theorem quiet_settleLines (s : State) (d : Nat) (lines : List Nat) : Quiet s (settleLines s d lines) :=
  Quiet.foldl _ (fun s l => Quiet.ite (quiet_writeBack s l) (.refl s)) lines s

theorem quiet_markGood (s : State) (d : Nat) (lines : List Nat) : Quiet s (markGood s d lines) :=
  Quiet.foldl _ (fun s _ => Quiet.ite (quiet_putCoh s _) (.refl s)) lines s

theorem quiet_markSectors (s : State) (p : Nat) (write : Bool) (ls : List Loc) : Quiet s (markSectors s p write ls) :=
  quiet_putCoh s _

/-! ## At the home of a line (12 R251) -/

theorem quiet_homeClear {s : State} {d line : Nat} :
    (∀ t, homeClear s d line = .ok t → Quiet s t) ∧ (∀ w, homeClear s d line = .error w → Quiet s w) := by
  unfold homeClear
  dsimp only
  split
  · exact ⟨fun t h => (by cases h), fun w h => by cases h; exact .refl s⟩
  · split
    · exact ⟨fun t h => by cases h; exact .refl s, fun w h => (by cases h)⟩
    · split
      · exact ⟨fun t h => (by cases h), fun w h => by cases h; exact quiet_startEvict s line⟩
      · split
        · exact ⟨fun t h => (by cases h), fun w h => by cases h; exact .refl s⟩
        · exact ⟨fun t h => by cases h; exact (Quiet.ite (quiet_backFrom s _ line) (.refl s)).trans (quiet_putCoh _ _),
            fun w h => (by cases h)⟩

theorem quiet_homeClears {d : Nat} (ls : List Nat) : ∀ {s : State},
    (∀ t, homeClears s d ls = .ok t → Quiet s t) ∧ (∀ w, homeClears s d ls = .error w → Quiet s w) := by
  induction ls with
  | nil => intro s; exact ⟨fun t h => by cases h; exact .refl s, fun w h => (by cases h)⟩
  | cons l ls ih =>
    intro s
    have hl := quiet_homeClear (s := s) (d := d) (line := l)
    unfold homeClears
    split
    · next w e => exact ⟨fun t h => (by cases h), fun w h => by cases h; exact hl.2 _ e⟩
    · next u e => exact ⟨fun t h => (hl.1 u e).trans (ih.1 t h), fun w h => (hl.1 u e).trans (ih.2 w h)⟩

/-! ## Loads and stores that are done -/

/-- All that a load which is done has done: its bytes passed the checks at `t`, its lines were got at `u`, no poison was met; it
returns the bytes that stand there, and the memory system alone has changed. -/
theorem loadBytes_done {s s' : State} {acc : Access} {a : Word} {as : List Word} {bs : List Byte}
    (h : loadBytes s acc a as = .done s' bs) :
    ∃ t u ls, checkAccess s acc a as = .ok t ls ∧ getLines t false ls = .ok u ∧ poisonTrap u acc a as ls = none ∧
      s' = markSectors u (myPhys u) false ls ∧ bs = loadedBytes u ls ∧ Quiet s u ∧ Quiet s s' := by
  unfold loadBytes at h
  split at h
  · cases h
  · cases h
  · next t ls e =>
    split at h
    · cases h
    · next u k =>
      split at h
      · cases h
      · next hp =>
        cases h
        have q := (quiet_checkAccess.2.2 t ls e).1.trans (quiet_getLines.1 u k)
        exact ⟨t, u, ls, e, k, hp, rfl, rfl, q, q.trans (quiet_markSectors u _ _ _)⟩

/-- All that a store which is done has done: from `u`, where its lines were got, its bytes stand at their places. -/
theorem storeBytes_done {s s' : State} {acc : Access} {a : Word} {as : List Word} {bs : List Byte}
    (h : storeBytes s acc a as bs = .done s') :
    ∃ t u ls, checkAccess s acc a as = .ok t ls ∧ getLines t true ls = .ok u ∧ s' = performStore u ls bs ∧ Quiet s u := by
  unfold storeBytes at h
  split at h
  · cases h
  · cases h
  · next t ls e =>
    split at h
    · cases h
    · next u k =>
      cases h
      exact ⟨t, u, ls, e, k, rfl, (quiet_checkAccess.2.2 t ls e).1.trans (quiet_getLines.1 u k)⟩

theorem memOk_performStore (s : State) (ls : List Loc) (bs : List Byte) (h : MemOk s) : MemOk (performStore s ls bs) := by
  unfold performStore
  dsimp only
  refine (quiet_settleLines _ _ _).memOk ?_
  have hm := (quiet_markSectors s (myPhys s) true ls).memOk h
  have hg := (quiet_markGood (healLocs (markSectors s (myPhys s) true ls) ls) (myDie s) (fullLines ls)).memOk
    (memOk_of_mem hm (by simp))
  exact memOk_of_mem hg (by simp)

theorem memOk_loadBytes {s s' : State} {acc : Access} {a : Word} {as : List Word} {bs : List Byte}
    (h : loadBytes s acc a as = .done s' bs) (hs : MemOk s) : MemOk s' := by
  obtain ⟨_, _, _, _, _, _, _, _, _, q⟩ := loadBytes_done h
  exact q.memOk hs

theorem memOk_storeBytes {s s' : State} {acc : Access} {a : Word} {as : List Word} {bs : List Byte}
    (h : storeBytes s acc a as bs = .done s') (hs : MemOk s) : MemOk s' := by
  obtain ⟨_, u, ls, _, _, rfl, q⟩ := storeBytes_done h
  exact memOk_performStore u ls bs (q.memOk hs)

end Sys2Proof.Machine
end

