-- ==== Sys2Proof/Laws/Waits.lean ====
section
/-! SUPPORT. What the operations say by which an instruction waits: for a page walker, for its own earlier copy, for room in the hod,
for a result of another die. -/

namespace Sys2Proof.Machine

/-! ## Walkers (10 R211) -/

/-- A walk that must wait for a walker changes nothing. -/
theorem walkPage_busy (s : State) (c : Nat) (x : Descriptor) (va : Nat) (h : tlbHit s c x.ctxid va = none)
    (hb : walkersBusy s (walkerFor s c x va) = true) : walkPage s c x va = .error s := by
  simp [walkPage, h, hb]

/-- A translation at hand needs no walk. -/
theorem walkPage_hit (s : State) (c : Nat) (x : Descriptor) (va : Nat) (h : (tlbHit s c x.ctxid va).isSome = true) :
    walkPage s c x va = .ok (useTlbs s c x va) := by
  simp [walkPage, h]

@[simp] theorem holdWalker_walkers (s : State) (w : Walker) : w ∈ (holdWalker s w).tlbs.walkers := by
  unfold holdWalker
  split
  · rename_i h
    simpa using h
  · simp

@[simp] theorem freeWalker_walkers (s : State) (w : Walker) : w ∉ (freeWalker s w).tlbs.walkers := by
  unfold freeWalker
  split
  · simp
  · rename_i h
    simpa using h

/-- A walker taken or given back touches nothing but the walkers. -/
theorem holdWalker_rest (s : State) (w : Walker) : { holdWalker s w with tlbs := s.tlbs } = s := by
  unfold holdWalker
  split <;> rfl

theorem freeWalker_rest (s : State) (w : Walker) : { freeWalker s w with tlbs := s.tlbs } = s := by
  unfold freeWalker
  split <;> rfl

/-! ## A slot's own copies (11 R244) -/

/-- With nothing queued in its cell's channels no access waits for a copy. -/
theorem copyPending_idle (s : State) (ls : List Loc) (h : ∀ x ∈ (ccOf s).cch.toList, x.queue = []) : copyPending s ls = false := by
  simp only [copyPending, List.any_eq_false]
  intro x hx
  simp [h x hx]

/-! ## Room in the hod (07 R166) -/

/-- A hod that is not full has room as it stands. -/
theorem pushRoom_room (s : State) (c : Nat) (h : (ccAt s c).hod.length < 64) : pushRoom s c = .ok s := by
  simp [pushRoom, h]

/-- A full hod whose ring takes nothing has none. -/
theorem pushRoom_full (s : State) (c : Nat) (h : 64 ≤ (ccAt s c).hod.length) (hk : ringCap (ccAt s c) ≤ (ccAt s c).ringCount) :
    pushRoom s c = .error s := by
  have : ringCap (ccAt s c) - (ccAt s c).ringCount = 0 := by omega
  simp [pushRoom, this, Nat.not_lt.mpr h]

/-- A push onto a hod that is not full. -/
theorem pushFrame_room (s : State) (c : Nat) (f : Frame) (h : (ccAt s c).hod.length < 64) :
    pushFrame s c f = .ok (pushBottom s c f) := by
  simp [pushFrame, pushRoom_room s c h, Except.map]

/-! ## Results of another die (20 R377) -/

/-- A result of the slot's own die is there at once. -/
theorem replyFrom_near (s : State) (die : Nat) (d : GReg) (v : Word) (h : byLath s die (myDie s) = false) :
    replyFrom s die d v = finishG s d v := by
  simp [replyFrom, h]

/-- One of another die is a message for which the slot waits. -/
theorem replyFrom_far (s : State) (die : Nat) (d : GReg) (v : Word) (h : byLath s die (myDie s) = true) :
    replyFrom s die d v = setStall (sendMessage s die (myDie s)) (.reply d (nextTransit s die (myDie s)) v) := by
  simp [replyFrom, h]

/-- What stays on a die needs no message. -/
@[simp] theorem sendMessage_near (s : State) (a b : Nat) (h : byLath s a b = false) : sendMessage s a b = s := by
  simp [sendMessage, h]

@[simp] theorem nextTransit_near (s : State) (a b : Nat) (h : byLath s a b = false) : nextTransit s a b = none := by
  simp [nextTransit, h]

@[simp] theorem byLath_same (s : State) (d : Nat) : byLath s d d = false := by simp [byLath]

@[simp] theorem arrived_none (s : State) : arrived s none = true := rfl

end Sys2Proof.Machine
end

