-- ==== Sys2Proof/Tests/Slice0.lean ====
section
/-! SUPPORT. Tests of the decoder and of single instructions against the words, tables and worked examples of the spec, and for
every statement with hypotheses a state that meets them. -/

namespace Sys2Proof.Tests

open Sys2Proof Sys2Proof.Machine Sys2Proof.Safety

set_option Elab.async false
set_option linter.unusedVariables false
set_option linter.constructorNameAsVariable false

/-! ## Words of every instruction, written out from the encoding tables of the spec -/

/-- A word decodes to an instruction under guard p0 and hints 0, and the encoder gives the word back. -/
def stands (e : Nat × Instr) : Bool :=
  decodeTableWord 96 e.1 == some e.2 && encode ⟨false, 0, 0, e.2⟩ == some e.1

/-- Words of scalar integer instructions (03 R54, 05 R93). -/
def integerWords : List (Nat × Instr) := [
  (0x000000011529100000000000, .add (some .i8) 1 21 41),
  (0x00200002162A200000000000, .sub (some .i16) 2 22 42),
  (0x00400003172B300000000000, .and (some .i32) 3 23 43),
  (0x00600004182C400000000000, .or (some .i64) 4 24 44),
  (0x00800005192D500000000000, .xor (some .n8) 5 25 45),
  (0x00A000061A2E600000000000, .andn (some .n16) 6 26 46),
  (0x00C000071B2F700000000000, .min (some .n32) 7 27 47),
  (0x00E000081C30800000000000, .max (some .n64) 8 28 48),
  (0x020000091D31100000000000, .mul (some .i8) 9 29 49),
  (0x0400000A1E32200000000000, .shl (some .i16) 10 30 50),
  (0x0420000B1F33300000000000, .shr (some .i32) 11 31 51),
  (0x0440000C2034400000000000, .sar (some .i64) 12 32 52),
  (0x0460000D2135500000000000, .rotl (some .n8) 13 33 53),
  (0x010000050607000000000003, .sel 5 6 7 3),
  (0x0120000506070004FFFFFFF0, .lea 5 6 7 4 0xFFFFFFF0),
  (0x022000050607800000000000, .mulh (some .n64) 5 6 7),
  (0x024000050607200000000000, .div (some .i16) 5 6 7),
  (0x026000050607000000000000, .rem none 5 6 7),
  (0x028000050607300200000000, .madd (some .i32) 5 6 7 8)]

theorem test_words_integer : integerWords.all stands = true := by decide +kernel

/-- Words of immediate forms (03 R45, R56). -/
def immediateWords : List (Nat × Instr) := [
  (0x0010003F0900000000000001, .addImm 63 9 1),
  (0x0030003E0AFFFFFFFFFFFFFF, .subImm 62 10 72057594037927935),
  (0x0050003D0B7FFFFFFFFFFFFF, .andImm 61 11 36028797018963967),
  (0x0070003C0C80000000000000, .orImm 60 12 36028797018963968),
  (0x0090003B0D123456789ABCDE, .xorImm 59 13 5124095576030430),
  (0x00B0003A0E00000000000001, .andnImm 58 14 1),
  (0x00D000390FFFFFFFFFFFFFFF, .minImm 57 15 72057594037927935),
  (0x00F00038107FFFFFFFFFFFFF, .maxImm 56 16 36028797018963967),
  (0x021000371180000000000000, .mulImm 55 17 36028797018963968),
  (0x0410003612123456789ABCDE, .shlImm 54 18 5124095576030430),
  (0x043000351300000000000001, .shrImm 53 19 1),
  (0x0450003414FFFFFFFFFFFFFF, .sarImm 52 20 72057594037927935),
  (0x04700033157FFFFFFFFFFFFF, .rotlImm 51 21 36028797018963967)]

theorem test_words_immediate : immediateWords.all stands = true := by decide +kernel

/-- Words of bit and predicate instructions (05 R93). -/
def bitsWords : List (Nat × Instr) := [
  (0x048000050600500000000000, .clz (some .n8) 5 6),
  (0x04A000050600100000000000, .ctz (some .i8) 5 6),
  (0x04C000050600700000000000, .popc (some .n32) 5 6),
  (0x04E0000506004000000003F0, .bext (some .i64) 5 6 48 15),
  (0x0500000506000000000001F8, .bins 5 6 56 7),
  (0x052000050600600000000000, .bswap (some .n16) 5 6),
  (0x060000850607714000000000, .cmp (some .n32) .ge 5 6 7),
  (0x062000818283000000000002, .pand 1 2 3 true false),
  (0x064000818283000000000001, .por 1 2 3 false true),
  (0x066000878283000000000003, .pxor 7 2 3 true true),
  (0x068000838000000000000002, .pmov (.pp 3 0 true)),
  (0x068000830900000000000000, .pmov (.pg 3 9)),
  (0x068000098300000000000002, .pmov (.gp 9 3 true))]

theorem test_words_bits : bitsWords.all stands = true := by decide +kernel

/-- Words of scalar floating-point instructions (05 R93). -/
def floatingWords : List (Nat × Instr) := [
  (0x0800000C0D0E900000000000, .fadd (some .f16) .rne 12 13 14),
  (0x0820000C0D0EA40000000000, .fsub (some .bf16) .rtz 12 13 14),
  (0x0840000C0D0EB80000000000, .fmul (some .f32) .rup 12 13 14),
  (0x0880000C0D0E9C0000000000, .fdiv (some .f16) .rdn 12 13 14),
  (0x0860000C0D0EB803C0000000, .fma (some .f32) .rup 12 13 14 15),
  (0x08A0000C0D000C0000000000, .fsqrt none .rdn 12 13),
  (0x08C0000C0D0EA00000000000, .fmin (some .bf16) 12 13 14),
  (0x08E0000C0D0EB00000000000, .fmax (some .f32) 12 13 14),
  (0x090000840D0E918000000000, .fcmp (some .f16) .un 4 13 14),
  (0x0920000C0D00000000000000, .fcls none 12 13),
  (0x0A00000C0D00A42000000000, .cvt (.fp .bf16) (.int .n64) .rtz 12 13),
  (0x0A20000C0D00B80000000000, .fround (some .f32) .rup 12 13)]

theorem test_words_floating : floatingWords.all stands = true := by decide +kernel

/-- Words of moves, special registers and control transfers (02 R28, 05 R93). -/
def controlWords : List (Nat × Instr) := [
  (0x0C0000080900300000000000, .mov (some .i32) 8 9),
  (0x0C10000800FFFFFFFFFFFFFE, .movImm 8 72057594037927934),
  (0x0C2000080000000000000047, .mfs 8 (.senacc 7)),
  (0x0C4000000900000000000111, .mts (.tcause false) 9),
  (0x0C4000000900000000000003, .mtsSspill 9),
  (0x0C400000090000000000000D, .mtsScarve 9),
  (0x0C400000090000000000000E, .mtsSvgroup 9),
  (0x0C4000000900000000000002, .mtsSdomain 9),
  (0x0E10000000FFFFFFFFFFFFFD, .br 72057594037927933),
  (0x0E2000000900000000000000, .jmp 9),
  (0x0E4000003F00000000000000, .call 63),
  (0x0E5000000000000000000010, .callImm 0x10),
  (0x0E6000003F00000000000000, .ret 63),
  (0x0E90000400FFFFFFFFFFFFFF, .loop 4 72057594037927935),
  (0x0EA000000000000000000000, .endAct),
  (0x0EC000000000000000000000, .nop)]

theorem test_words_control : controlWords.all stands = true := by decide +kernel

/-- Words of memory, atomic and barrier instructions (05 R93, 12 R245, R247). -/
def memoryWords : List (Nat × Instr) := [
  (0x10000008090A4B80FFFFFFF0, .ld .b4 (.sync .pkg) true 8 ⟨9, 10, 4294967280⟩),
  (0x10200008090A740000000010, .st .b8 (.vol .sys) 8 ⟨9, 10, 16⟩),
  (0x10400000090A000300000040, .pref 3 ⟨9, 10, 64⟩),
  (0x10600008090A200000000005, .stx .b2 8 ⟨9, 10, 5⟩),
  (0x108000000100030300000000, .cwb .pkg 3 ⟨1, 0, 0⟩),
  (0x10A00000090A017F00000000, .cinv .clu 127 ⟨9, 10, 0⟩),
  (0x120000080100438E00000010, .amo .b4 .pkg true .add .ar 8 ⟨1, 0, 16⟩),
  (0x1220000A0200620200000000, .cas .b8 .die false .acq 10 ⟨2, 0, 0⟩),
  (0x140000000000000000000032, .fence .ar .die),
  (0x1420000809000000000000FF, .bset 8 9 255),
  (0x144000080000000000000007, .barr 8 7),
  (0x146000000800000000000007, .bwait 8 7),
  (0x1480000000000000000000C8, .bsync 200),
  (0x14A000000000000000000003, .bxch 3)]

theorem test_words_memory : memoryWords.all stands = true := by decide +kernel

/-- Words of task and system instructions (08 R187, 18 R346, 20 R370). -/
def tasksWords : List (Nat × Instr) := [
  (0x160000001000000000000000, .spawn 16),
  (0x162000001009000000000000, .send 16 9),
  (0x1640000A0910000000000000, .arm 10 9 16),
  (0x166000000100000000000000, .join 1),
  (0x168000000800000000000005, .chset 8 5),
  (0x16A000080900000000000002, .chmsk 8 9 .clr),
  (0x18000000000000000000002A, .trap 0x2A),
  (0x182000000000000000000000, .tret),
  (0x184000080900000000000000, .twait 8 9),
  (0x186000000000000000000000, .tabort),
  (0x188000000900000000000001, .fpostPost 9 .write),
  (0x18800000090A000000000010, .fpostServe 9 10 false),
  (0x18800000090A000000000018, .fpostServe 9 10 true),
  (0x18A000000900000000000000, .tlbinv (.page 9)),
  (0x18A000000000000000000001, .tlbinv .context),
  (0x18A000000000000000000002, .tlbinv .all),
  (0x18C000080900000000000000, .shand 8 9),
  (0x18C000080000000000000001, .shandQuery 8)]

theorem test_words_tasks : tasksWords.all stands = true := by decide +kernel

/-- Words of place instructions (16 R322). -/
def placeWords : List (Nat × Instr) := [
  (0x1A0000083E0A00000000000F, .pnew 8 62 10 15),
  (0x1A2000000900000000000000, .pdel 9),
  (0x1A400008090A000000000000, .pset 8 9 10),
  (0x1A600008090000000000000F, .pld 8 9 15),
  (0x1A8000080900000000000002, .pstw 8 9 2),
  (0x1AA000083D0A000000000001, .pqbox 8 61 10 1),
  (0x1AC000083E0A000000000002, .pqrad 8 62 10 2),
  (0x1AE000080900000000000000, .pqwait 8 9),
  (0x1B0000080900000000000000, .pres 8 9),
  (0x1B2000080900000000000007, .pmap 8 9 7),
  (0x1B4000080900000000000007, .pspcDefine 8 9 7),
  (0x1B4000080900000000000017, .pspcDelete 8 9 7)]

theorem test_words_place : placeWords.all stands = true := by decide +kernel

/-- Words of engine instructions (14 R275). -/
def enginesWords : List (Nat × Instr) := [
  (0x1C0000083C00000000000003, .cpy 8 60 true 1),
  (0x1C2000080000000000000001, .cpwp 8 1),
  (0x1C4000080900000000000001, .cpwait 8 9 1),
  (0x1C600000090000000000FF02, .tgive 9 255 .mxu),
  (0x1C8000000900000000000300, .ttake 9 3),
  (0x1CA000083800000000000000, .mxq 8 56),
  (0x1CC000000900000000000000, .mxwait 9),
  (0x1CE00008100A000000000000, .shdef 8 16 10),
  (0x1D0000000900000000000000, .shkill 9)]

theorem test_words_engines : enginesWords.all stands = true := by decide +kernel

/-- Words of vector integer instructions (06 R124, R125). -/
def vectorIntWords : List (Nat × Instr) := [
  (0x40000041681E100000000000, .vadd (some .i8) 1 40 (.g 30) ⟨none, false⟩),
  (0x40200042695F202600000000, .vsub (some .i16) 2 41 (.v 31) ⟨some 1, true⟩),
  (0x404000436A20302800000000, .vmin (some .i32) 3 42 (.g 32) ⟨some 2, false⟩),
  (0x406000446B61500000000000, .vmax (some .n8) 4 43 (.v 33) ⟨none, false⟩),
  (0x40A000456C22603000000000, .vadds (some .n16) 5 44 (.g 34) ⟨some 4, false⟩),
  (0x40C000466D63703600000000, .vsubs (some .n32) 6 45 (.v 35) ⟨some 5, true⟩),
  (0x420000476E24100000000000, .vmul (some .i8) 7 46 (.g 36) ⟨none, false⟩),
  (0x422000486F65203E00000000, .vmulh (some .i16) 8 47 (.v 37) ⟨some 7, true⟩),
  (0x440000497026302000000000, .vand (some .i32) 9 48 (.g 38) ⟨some 0, false⟩),
  (0x4420004A7167500000000000, .vor (some .n8) 10 49 (.v 39) ⟨none, false⟩),
  (0x4440004B7228602800000000, .vxor (some .n16) 11 50 (.g 40) ⟨some 2, false⟩),
  (0x4460004C7369702E00000000, .vshl (some .n32) 12 51 (.v 41) ⟨some 3, true⟩),
  (0x4480004D742A100000000000, .vshr (some .i8) 13 52 (.g 42) ⟨none, false⟩),
  (0x44A0004E756B203600000000, .vsar (some .i16) 14 53 (.v 43) ⟨some 5, true⟩),
  (0x408000414200003E00000000, .vabs none 1 2 ⟨some 7, true⟩),
  (0x424000414243602844000000, .vmadd (some .n16) 1 2 (.v 3) 4 ⟨some 2, false⟩),
  (0x426000414203500000000000, .vdot4 (some .n8) 1 2 (.g 3) ⟨none, false⟩)]

theorem test_words_vectorInt : vectorIntWords.all stands = true := by decide +kernel

/-- Words of mask instructions (06 R125). -/
def vectorMaskWords : List (Nat × Instr) := [
  (0x46000089424370A200000000, .vcmp (some .n32) .lt 1 2 (.v 3) ⟨some 0, true⟩),
  (0x462000414203903400000000, .vsel (some (.fp .f16)) 1 2 (.g 3) 5),
  (0x464000898A8B000000000002, .mand 1 2 3 true false),
  (0x466000898A8B000000000001, .mor 1 2 3 false true),
  (0x4680008F8A8B000000000003, .mxor 7 2 3 true true),
  (0x46A000018A00500000000000, .mpop (some .n8) 1 2)]

theorem test_words_vectorMask : vectorMaskWords.all stands = true := by decide +kernel

/-- Words of vector floating-point and format instructions (06 R125). -/
def vectorFpWords : List (Nat × Instr) := [
  (0x480000414243902000000000, .vfadd (some .f16) .rne 1 2 (.v 3) ⟨some 0, false⟩),
  (0x482000424344A42400000000, .vfsub (some .bf16) .rtz 2 3 (.v 4) ⟨some 1, false⟩),
  (0x484000434445B82800000000, .vfmul (some .f32) .rup 3 4 (.v 5) ⟨some 2, false⟩),
  (0x48C0004445469C2C00000000, .vfdiv (some .f16) .rdn 4 5 (.v 6) ⟨some 3, false⟩),
  (0x486000414203BC007F000000, .vffma (some .f32) .rdn 1 2 (.g 3) 63 ⟨none, false⟩),
  (0x488000414243000000000000, .vfmin none 1 2 (.v 3) ⟨none, false⟩),
  (0x48A000414243A00000000000, .vfmax (some .bf16) 1 2 (.v 3) ⟨none, false⟩),
  (0x48E000414200B40000000000, .vfsqrt (some .f32) .rtz 1 2 ⟨none, false⟩),
  (0x490000414200980000000000, .vfexp2 (some .f16) .rup 1 2 ⟨none, false⟩),
  (0x492000894243B1C000000000, .vfcmp (some .f32) .ord 1 2 (.v 3) ⟨none, false⟩),
  (0x4A00004142005C30B0060000, .vcvt (.int .n8) (.fp .f32) .rdn 3 1 2 ⟨some 4, false⟩),
  (0x4A20004A4414C0004B440000, .vpkbx .bx8 10 4 20 11 4 2),
  (0x4A4000414203D026000E0000, .vunbx .bx4 1 2 3 7 ⟨some 1, true⟩),
  (0x4A6000414200000000000000, .vtrl 1 2)]

theorem test_words_vectorFp : vectorFpWords.all stands = true := by decide +kernel

/-- Words of permutation, vector memory and geometry instructions (06 R125). -/
def vectorMoveWords : List (Nat × Instr) := [
  (0x4C0000410200A02E00000000, .vbcast (some (.fp .bf16)) 1 2 ⟨some 3, true⟩),
  (0x4C1000430000000000000001, .vbcastImm 3 1),
  (0x4C2000414243100000000000, .vperm (some (.int .i8)) 1 2 3 ⟨none, false⟩),
  (0x4C4000414203600000000000, .vslide (some (.int .n16)) 1 2 3 ⟨none, false⟩),
  (0x4C6000014200B83860000000, .vred (some (.fp .f32)) .rup .fadd 1 2 (some 6)),
  (0x4C8000410203200000000000, .vins (some (.int .i16)) 1 2 3),
  (0x4CA000014203900000000000, .vext (some (.fp .f16)) 1 2 3),
  (0x4E0000410203084C00000004, .vld .b1 (.sync .cell) 1 ⟨2, 3, 4⟩ ⟨some 1, true⟩),
  (0x4E2000410203325000000004, .vst .b2 (.vol .die) 1 ⟨2, 3, 4⟩ (some 2)),
  (0x4E4000410203407800000004, .vlds .b4 .plain 1 ⟨2, 3, 4⟩ ⟨some 7, false⟩),
  (0x4E6000410203400000000004, .vsts .b4 .plain 1 ⟨2, 3, 4⟩ none),
  (0x4E80007E0203000000000004, .vldx .b1 .plain 62 ⟨2, 3, 4⟩ ⟨none, false⟩),
  (0x4EA000420203204000000004, .vstx .b2 .plain 2 ⟨2, 3, 4⟩ (some 0)),
  (0x5000007D7D43300000000000, .vrigid true 61 61 3 ⟨none, false⟩),
  (0x5020007E7D43002000000000, .vdist2 false 62 61 3 ⟨some 0, false⟩)]

theorem test_words_vectorMove : vectorMoveWords.all stands = true := by decide +kernel

/-! ## Small states for the tests -/

def gval (i : Nat) : Word :=
  match i with
  | 1 => 5 | 2 => 3 | 3 => 0xFFFFFFFFFFFFFFFF | 4 => 0x8000000000000000 | 5 => 0x7FFFFFFFFFFFFFFF | 6 => 0x80 | 7 => 0xFFFF8000
  | 8 => 0x100 | 9 => 0x3FC00000 | 10 => 0x7F800000 | 11 => 0xFFC12345 | 12 => 2 | 13 => 64 | 14 => 0xC0490FDB
  | 16 => 0x0 | 17 => 17 | 30 => 0x10000 | 31 => 0x20000 | 32 => 0xFE00000000000100
  | _ => BitVec.ofNat 64 ((i * 0x9E3779B97F4A7C15 + 0x123456789) % 2 ^ 64)
def vval (i : Nat) : VecWord :=
  BitVec.ofNat 1024 (((List.range 16).foldl (fun n j => n * 2 ^ 64 + ((i * 16 + j + 1) * 0x9E3779B97F4A7C15 + i * j * 77777) % 2 ^ 64) 0))
def slot0 : Slot := { Slot.reset with
  run := .run, sbudget := 1000, ip := 7, level := 0
  g := Vector.ofFn (fun i => gval i.val)
  v := Vector.ofFn (fun i => vval i.val)
  m := Vector.ofFn (fun i => BitVec.ofNat 128 (i.val * 0x123456789ABCDEF13579BDF02468ACE + i.val))
  p := Vector.ofFn (fun i => i.val % 3 == 1)
  sframe := 0x0000000410000007
  frame := Vector.ofFn (fun i => BitVec.ofNat 64 (i.val * 1111)) }
def cc0 : CtxCell := { CtxCell.blank with
  desc := ⟨0x8000, 5, false, 0x10000, 0x900000, 0x20000, 16, 0, 0xA00000⟩
  scbase := 0, sclim := 1000, tvec := 0x0000005000000040, scarve := 0x000000000000102
  frameCtr := 100 }
def cell0 : Cell := { Cell.reset with live := true, cc := cc0 }
def pg (va pa : Nat) (r w x : Bool) : TlbEntry := ⟨5, va, 16, pa, r, w, x⟩
def plat0 : Platform :=
  { Platform.reset with cxlUp := 0xFF, ethUp := 0xFF, portUp := 0xF, brought := true, controllers := Vector.replicate 26 ⟨⟨1, 1, 1⟩, ⟨0, 0, 0⟩, .running, none⟩, pkg := 3 }
def st : State := { State.reset with
  slots := [(0, slot0)]
  cells := [(0, cell0)]
  plat := plat0
  stime := 1000
  mem := (List.range 64).map (fun i => (0x100000 + i, BitVec.ofNat 8 (i * 7 + 1)))
  dirty := [(0x100004, 0xEE)]
  host := { HostSide.reset with open_ := true }
  tlbs := ⟨[(0, [pg 0 0x100000 true true true, pg 0x10000 0x200000 true false false, pg 0x20000 0x300000 true true true,
    pg 0x30000 0x400000 false true false])], [], [], []⟩ }
def sys (s : State) : State := putCcOf s { ccOf s with desc := { (ccOf s).desc with sys := true } }
def lvl (s : State) (n : Fin 3) : State := putSlot s { slotOf s with level := n }
def setG (s : State) (r : GReg) (w : Word) : State := putSlot s { slotOf s with g := (slotOf s).g.set r w }
def far (va pa : Nat) : TlbEntry := ⟨5, va, 16, pa, true, true, true⟩
/-- page 0x40000 maps to stack 3 (die 1), page 0x60000 is walked -/
def stF : State := { st with tlbs := ⟨[(0, [far 0x40000 0x3000100000] ++ tabGet [] st.tlbs.l1 0)], [], [], []⟩ }
def chkU (c : Checked) : State := match c with | .ok u _ => u | .trap u _ => u | .wait u => u
def chkL (c : Checked) : List Loc := match c with | .ok _ l => l | _ => []
def exU (x : Except State State) : State := match x with | .ok u => u | .error u => u
def ea (s : State) (m : MemOp) : Word := readG s m.a + readG s m.b + m.disp.signExtend 64
def asOf (s : State) (n : Nat) (m : MemOp) : List Word := (List.range n).map (fun i => ea s m + BitVec.ofNat 64 i)
def C (s : State) (acc : Access) (n : Nat) (m : MemOp) : Checked := checkAccess s acc (ea s m) (asOf s n m)
def CL (s : State) (n : Nat) (m : MemOp) : Checked := C s ⟨1, 0x100, true, false, false, true⟩ n m
def CS (s : State) (n : Nat) (m : MemOp) : Checked := C s ⟨2, 0x102, false, true, false, false⟩ n m
def G (c : Checked) (w : Bool) : State := exU (getLines (chkU c) w (chkL c))
def S (g20 : Word) : State := setG st 20 g20
def upS (f : Slot → Slot) (s : State) : State := putSlot s (f (slotOf s))
def upC (f : CtxCell → CtxCell) (s : State) : State := putCcOf s (f (ccOf s))
def upCell (f : Cell → Cell) (s : State) : State := putCell s s.curCell (f (cellAt s s.curCell))
def fr (k : Nat) : Frame := Vector.ofFn (fun i => BitVec.ofNat 64 (k * 0x9E3779B97F4A7C15 + i.val * 0x12345))
def rel (l : List Release) := upS (fun x => { x with release := l })
def joins (l : List JoinEntry) := upS (fun x => { x with joins := l })
def e17 : JoinEntry := ⟨false, 0x100000, 0x0⟩
def out1 : OutMsg := ⟨3, 1, 5, fr 4, .queued, 32, none⟩
def jm (n : Nat) (s : State) : State :=
  { s with dirty := (bytesOf n 4).zipIdx.map (fun e => (0x100000 + e.2, e.1)), mem := (List.range 64).map (fun i => (0x100040 + i, BitVec.ofNat 8 (i * 7 + 1))) }
def tipd (s : State) : State :=
  upS (fun x => { x with tip := #v[0x1111, 0x2222], tcause := #v[1,2], tinfo := #v[3,4], tfva := #v[5,6], release := [.spawn (fr 1)] }) s
def msg (s : State) : State := upS (fun x => { x with source := .channel 5 }) s
def pd (o : Option Bool) := upS (fun x => { x with pend := some ⟨5, 2, .write, o⟩ })
def wk (s : State) : State :=
  { s with tlbs := ⟨[], [], [], []⟩, mem := (bytesOf (0x20000 + 1) 8).zipIdx.map (fun e => (0x10000 + e.2, e.1)) ++ (bytesOf (0x40000 + 1) 8).zipIdx.map (fun e => (0x20000 + e.2, e.1)) ++ (bytesOf 0x123450039 8).zipIdx.map (fun e => (0x40008 + e.2, e.1)), dirty := [] }
/-! Some hypotheses quantify over a type that has no list of its values; each of these lemmas leaves what can be evaluated. -/

theorem some_of {α : Type} {o : Option α} {P : α → Prop} [∀ x, Decidable (P x)] (h : (o.all fun x => decide (P x)) = true) :
    ∀ x, o = some x → P x := by
  rintro x rfl
  simpa using h

theorem not_some_of {α : Type} {o : Option α} {P : α → Prop} [∀ x, Decidable (P x)] (h : (o.all fun x => decide (¬P x)) = true) :
    ∀ x, ¬(o = some x ∧ P x) := by
  rintro x ⟨rfl, hp⟩
  simp [hp] at h

theorem is_some_of {α : Type} {o : Option α} {P : α → Prop} [∀ x, Decidable (P x)] (h : (o.any fun x => decide (P x)) = true) :
    ∃ x, o = some x ∧ P x := by
  cases o with
  | none => simp at h
  | some x => exact ⟨x, rfl, by simpa using h⟩

theorem earlier_of {α : Type} {l : List α} {n : Nat} {P : Nat → α → Prop} [∀ j x, Decidable (P j x)]
    (h : ∀ j, j < n → (l[j]?.all fun x => decide (P j x)) = true) : ∀ j x, j < n → l[j]? = some x → P j x :=
  fun j x hj hx => some_of (h j hj) x hx

theorem pairs_of {n : Nat} {P : Nat → Nat → Prop} (h : ∀ j, j < n → ∀ i, i < j → P i j) : ∀ i j, i < j → j < n → P i j :=
  fun i j a b => h j b i a

theorem paired_of {α β : Type} [DecidableEq α] {l : List (α × β)} {a : α} {P : β → Prop} [∀ x, Decidable (P x)]
    (h : (l.any fun e => decide (e.1 = a ∧ P e.2)) = true) : ∃ x, (a, x) ∈ l ∧ P x := by
  obtain ⟨e, he, hp⟩ := List.any_eq_true.mp h
  obtain ⟨rfl, hq⟩ := of_decide_eq_true hp
  exact ⟨e.2, he, hq⟩

theorem not_paired_of {α β : Type} [DecidableEq α] {l : List (α × β)} {a : α} {P : β → Prop} [∀ x, Decidable (P x)]
    (h : (l.all fun e => decide (¬(e.1 = a ∧ P e.2))) = true) : ¬∃ x, (a, x) ∈ l ∧ P x := by
  rintro ⟨x, hx, hp⟩
  exact of_decide_eq_true (List.all_eq_true.mp h _ hx) ⟨rfl, hp⟩

theorem not_starting {x : CtrlState} (h : x = .running ∨ x = .off) : ¬∃ n, x = .starting n := by
  rintro ⟨n, rfl⟩
  simp at h

theorem not_claimed {x : Steal} (h : x = .idle) : ∀ v f via, x ≠ .claimed v f via := by
  subst h
  simp

/-- The state an outcome goes on in, or another one where it does not go on. -/
def nextOr (o : Host.Outcome State Fault Refusal) (s : State) : State := match o with | .next t => t | _ => s

theorem next_of {o : Host.Outcome State Fault Refusal} {s : State} (h : (match o with | .next _ => true | _ => false) = true) :
    o = .next (nextOr o s) := by
  cases o with
  | next => rfl
  | fault => exact Bool.noConfusion h
  | refused => exact Bool.noConfusion h

/-- A number that a table does not list. -/
theorem tabFind_unlisted {α : Type} {t : Tab α} {i : Nat} (h : i ∉ t.map (fun e => e.1)) : tabFind t i = none := by
  induction t with
  | nil => rfl
  | cons e t ih =>
    simp only [List.map_cons, List.mem_cons, not_or] at h
    simp only [tabFind, if_neg (Ne.symm h.1)]
    exact ih h.2

/-- What holds of the default and of every entry listed holds of every entry. -/
theorem listed_of {α : Type} {d : α} {t : Tab α} {P : α → Prop} (hd : P d)
    (h : ∀ i ∈ t.map (fun e => e.1), P (tabGet d t i)) : ∀ i, P (tabGet d t i) := by
  intro i
  by_cases hi : i ∈ t.map (fun e => e.1)
  · exact h i hi
  · simpa [tabGet, tabFind_unlisted hi] using hd

theorem no_home {x : Stall} (h : (match x with | .home _ => false | _ => true) = true) : ∀ q, x ≠ .home q := by
  rintro q rfl
  simp at h

theorem none_home {x : Stall} (h : (match x with | .home _ => false | _ => true) = true) : ¬∃ q, x = .home q := by
  rintro ⟨q, rfl⟩
  simp at h

theorem no_reply {x : Stall} (h : (match x with | .reply _ _ _ => false | _ => true) = true) : ∀ g via z, x ≠ .reply g via z := by
  rintro g via z rfl
  simp at h

/-- A space in which no record moves, nothing is queued at a home, and no slot waits with an instruction issued. -/
theorem idle_space {s : State} {sp : Space} (h1 : ∀ m ∈ s.place.moves, ¬(m.ctxid = sp.ctxid ∧ m.num = sp.num))
    (h2 : ∀ e ∈ sp.handles, e.2.queue = []) (h3 : ∀ e ∈ s.slots, e.2.stall = .none) :
    ¬((∃ m ∈ s.place.moves, m.ctxid = sp.ctxid ∧ m.num = sp.num) ∨ (∃ e ∈ sp.handles, e.2.queue ≠ []) ∨
      ∃ e ∈ s.slots, ((∃ d a b, e.2.issued = .pnew d a b sp.num) ∧
        (e.2.stall = .again ∨ e.2.stall = .there ∨ ∃ t, e.2.stall = .trip t)) ∧ (ccAt s (e.1 / 4)).desc.ctxid = sp.ctxid) := by
  rintro (⟨m, hm, h⟩ | ⟨e, he, h⟩ | ⟨e, he, ⟨-, h⟩, -⟩)
  · exact h1 m hm h
  · exact h (h2 e he)
  · simp [h3 e he] at h

/-- What a trapped access reports. -/
def trapOf (r : LoadResult) : TrapInfo := match r with | .trap _ f => f | _ => ⟨0, 0, 0⟩

theorem pnew_waits {s : State} {sp : Space} (h : (s.slots.any fun e => match e.2.issued with
      | .pnew _ _ _ m => decide (m = sp.num ∧ e.2.stall = .again ∧ (ccAt s (e.1 / 4)).desc.ctxid = sp.ctxid)
      | _ => false) = true) :
    ∃ e ∈ s.slots, ((∃ d a b, e.2.issued = .pnew d a b sp.num) ∧
      (e.2.stall = .again ∨ e.2.stall = .there ∨ ∃ t, e.2.stall = .trip t)) ∧ (ccAt s (e.1 / 4)).desc.ctxid = sp.ctxid := by
  obtain ⟨e, he, hp⟩ := List.any_eq_true.mp h
  split at hp
  · rename_i d a b m hi
    obtain ⟨rfl, hs, hc⟩ := of_decide_eq_true hp
    exact ⟨e, he, ⟨⟨d, a, b, hi⟩, Or.inl hs⟩, hc⟩
  · simp at hp

/-! ## Decoding and well-formedness -/

/-- Guard and hints are read beside the instruction (02 R36, R39): `(!p3) mov.i32 g8, g9` with hints 0xA5. -/
theorem test_decode_guard_and_hints :
    decodeBits 0x0C0BA5080900300000000000 = .ok ⟨true, 3, 0xA5, .mov (some .i32) 8 9⟩ ∧
      encode ⟨true, 3, 0xA5, .mov (some .i32) 8 9⟩ = some 0x0C0BA5080900300000000000 := by decide +kernel

/-- The checks of R58 in their order, each with the REASON and POS of R59. -/
theorem test_decode_refuses :
    decodeBits (2 ^ 96 - 1) = .error ⟨0, 0⟩ ∧ decodeBits 0x1E2000000000000000000000 = .error ⟨1, 0⟩ ∧
    decodeBits 0x022000000000000000000000 = .ok ⟨false, 0, 0, .mulh none 0 0 0⟩ ∧
    decodeBits 0x023000000000000000000000 = .error ⟨2, 0⟩ ∧ decodeBits 0x0E0000000000000000000000 = .error ⟨2, 0⟩ ∧
    decodeBits 0x000000450000000000000000 = .error ⟨3, 0⟩ ∧ decodeBits 0x000000004500000000000000 = .error ⟨3, 1⟩ ∧
    decodeBits 0x000000000045000000000000 = .error ⟨3, 2⟩ ∧ decodeBits 0x060000020000000000000000 = .error ⟨3, 0⟩ ∧
    decodeBits 0x00000000000090F000000000 = .error ⟨4, 0⟩ ∧ decodeBits 0x0C2000080000000000000011 = .error ⟨4, 0⟩ ∧
    decodeBits 0 = .ok ⟨false, 0, 0, .add none 0 0 0⟩ := by decide +kernel

/-- Ill-formed terms, one for each check of WellFormed. -/
def illFormed : List Instr := [
  .bext none 1 2 60 4, .bins 1 2 63 1, .cvt (.int .i8) (.int .i16) .rtz 1 2, .mts .scarve 1,
  .cas .b8 .sys false .plain 0 ⟨1, 0, 0⟩, .cas .b8 .sys false .plain 63 ⟨1, 0, 0⟩, .spawn 0, .spawn 57, .send 57 1,
  .arm 1 2 57, .chset 1 30, .pnew 1 63 2 0, .pset 1 2 0, .pstw 1 2 1, .pqbox 1 62 2 0, .pqrad 1 63 2 0, .pmap 1 0 0,
  .cpy 1 61 false 0, .mxq 1 57, .shdef 1 57 2, .vadd none 1 2 (.v 3) ⟨none, true⟩, .vabs none 1 2 ⟨none, true⟩,
  .vcmp none .eq 1 2 (.v 3) ⟨none, true⟩, .vcvt (.int .i8) (.int .i16) .rtz 0 1 2 ⟨none, false⟩,
  .vcvt (.int .i32) (.int .i32) .rne 1 1 2 ⟨none, false⟩, .vcvt (.int .i8) (.int .i16) .rne 2 1 2 ⟨none, false⟩,
  .vcvt (.int .i8) (.int .i32) .rne 0 1 2 ⟨none, true⟩, .vpkbx .bx8 1 2 3 4 0 4, .vpkbx .bx8 1 2 3 1 0 0,
  .vunbx .bx8 1 2 3 4 ⟨none, false⟩, .vunbx .bx4 1 2 3 4 ⟨none, true⟩, .vred (some (.fp .f32)) .rne .add 1 2 none,
  .vred none .rne .fadd 1 2 none, .vred (some (.fp .f16)) .rup .fmin 1 2 none, .vld .b1 .plain 1 ⟨2, 3, 0⟩ ⟨none, true⟩,
  .vldx .b1 .plain 1 ⟨2, 3, 0⟩ ⟨none, false⟩, .vldx .b1 .plain 2 ⟨2, 3, 0⟩ ⟨none, true⟩,
  .vstx .b1 .plain 3 ⟨2, 3, 0⟩ none, .vrigid false 62 2 3 ⟨none, false⟩, .vrigid false 1 62 3 ⟨none, false⟩,
  .vrigid false 1 2 3 ⟨none, true⟩, .vdist2 false 63 2 3 ⟨none, false⟩, .vdist2 false 1 62 3 ⟨none, false⟩,
  .vdist2 false 1 2 3 ⟨none, true⟩, .budget 0 0]

theorem test_wellFormed_refuses : illFormed.all (fun i => !WellFormed i) = true := by decide +kernel

/-! ## One instruction: results that the spec works out -/

/-- The slot after an instruction ran at a small state. -/
def after (i : Instr) (s : State) : Slot :=
  match exec i s with
  | .next t => slotOf t
  | _ => Slot.reset

/-- g8 after an instruction with g1 and g2 set. -/
def g8 (i : Instr) (x y : Word) : Word := (after i (setG (setG st 1 x) 2 y)).g[8]

/-- R71's example of a narrow sum. -/
theorem test_add_narrow :
    g8 (.add (some .i8) 8 1 2) 0x17F 1 = 0xFFFFFFFFFFFFFF80 ∧ g8 (.add (some .n8) 8 1 2) 0x17F 1 = 0x80 := by
  decide +kernel

/-- R98's example of high products. -/
theorem test_mulh_signs :
    g8 (.mulh (some .i64) 8 1 2) (-1) 3 = -1 ∧ g8 (.mulh (some .n64) 8 1 2) (-1) 3 = 2 := by decide +kernel

/-- The divisions of the worked example of 05: -7 by 2 and by 0, and R99's wrap. -/
theorem test_division :
    g8 (.div (some .i32) 8 1 2) (-7) 2 = -3 ∧ g8 (.rem (some .i32) 8 1 2) (-7) 2 = -1 ∧
    g8 (.div (some .i32) 8 1 2) (-7) 0 = 0 ∧ g8 (.rem (some .i32) 8 1 2) (-7) 0 = -7 ∧
    g8 (.div (some .i8) 8 1 2) (-128) (-1) = -128 ∧ g8 (.rem (some .i8) 8 1 2) (-128) (-1) = 0 := by decide +kernel

/-- R95: min.n64 with -1 copies the source; R112: mov.i32 sign-extends. -/
theorem test_min_and_mov :
    g8 (.min (some .n64) 8 1 2) 77 (-1) = 77 ∧ g8 (.mov (some .i32) 8 1) 0x180000000 0 = 0xFFFFFFFF80000000 := by
  decide +kernel

/-- R110's table of conversions. -/
theorem test_cvt_table :
    g8 (.cvt (.int .i32) (.fp .f32) .rne 8 1) 0xC02CCCCD 0 = 0xFFFFFFFFFFFFFFFD ∧
    g8 (.cvt (.int .i32) (.fp .f32) .rtz 8 1) 0xC02CCCCD 0 = 0xFFFFFFFFFFFFFFFE ∧
    g8 (.cvt (.int .n8) (.fp .f32) .rne 8 1) 0x43800000 0 = 0xFF ∧
    g8 (.cvt (.int .i16) (.fp .f32) .rne 8 1) 0x7FC01234 0 = 0 ∧
    g8 (.cvt (.fp .bf16) (.fp .f32) .rne 8 1) 0x3F808000 0 = 0x3F80 ∧
    g8 (.cvt (.fp .f32) (.int .n64) .rne 8 1) 0xFFFFFFFFFFFFFFFF 0 = 0x5F800000 ∧
    g8 (.cvt (.int .i8) (.int .i32) .rne 8 1) 0x180 0 = 0xFFFFFFFFFFFFFF80 := by decide +kernel

/-- R111: 2.5 to 2.0, and -0.25 upwards to -0. -/
theorem test_fround :
    g8 (.fround (some .f32) .rne 8 1) 0x40200000 0 = 0x40000000 ∧
    g8 (.fround (some .f32) .rup 8 1) 0xBE800000 0 = 0x80000000 := by decide +kernel

/-- The NaNs of the example under R78. -/
theorem test_nan_payloads :
    fpMul .f32 .rne (nanTag 37 5) 0 0x7F800000 = 0x7FC25005 ∧ nanCreated .f32 (nanTag 9 3) = 0x7FC09003 ∧
    fpAdd .f32 .rne (nanTag 0 0) 0x7FC25005 0x7FC09003 = 0x7FC09003 ∧
    fpAdd .f32 .rne (nanTag 0 0) 0x7FC09003 0xFF800001 = 0xFFC00001 := by decide +kernel

/-- R86's check value, for the nine bytes "123456789". -/
theorem test_crc32c : crc32c [0x31, 0x32, 0x33, 0x34, 0x35, 0x36, 0x37, 0x38, 0x39] = 0xE3069283 := by decide +kernel

/-- The values of the worked example of 04's BX8 block, as FP32. -/
def bxExample : List FpBits :=
  [0x40C00000, 0xBF400000, 0x3E99999A, 0x3A83126F, 0xBEFAE148, 0xBEFF7CEE, 0x7F800000, 0x7FC00000, 0x80000000] ++
    List.replicate 23 0

/-- The worked example of 04's BX8 block: elements, exponents and the counts of the trailer. -/
theorem test_bx_pack :
    let b := bxPack .bx8 4 bxExample
    let t := trailerAdd .bx8 (trailerOf 0) b
    b.elems.map BxElem.bits = [0x70, 0xC6, 0x26, 0x00, 0xBF, 0xBF, 0x7F, 0x80, 0x00] ++ List.replicate 23 0 ∧
    (b.e0, b.e1) = (0x7D, 0x81) ∧ t.maxmag = 0x40C00000 ∧ t.satcnt = 2 ∧ t.elems = 32 ∧
    trailerBits (trailerFinal t) / 2 ^ 96 % 2 ^ 32 = 0x80000103 ∧
    (trailerFinal t).crc = crc32c ((b.elems.map (fun e => BitVec.ofNat 8 e.bits)) ++ [0x7D, 0x81]) := by decide +kernel

/-- The BX8 elements of a row. -/
def bxRow (e0 e1 : Nat) (els : List Nat) : List MxElem := els.map (fun e => ⟨bxValue .bx8 e0 e1 e, none⟩)

/-- The worked example of 04's accumulation: 0.5 + (2^24 + 1 - 2^24), and the element NaN met by cell 9. -/
theorem test_mx_block :
    let b := bxRow 127 127 (List.replicate 32 0x20)
    mxBlock (nanTag 9 0) 0x3F000000 (bxRow 127 151 ([0x60, 0x20, 0xE0] ++ List.replicate 29 0)) b = 0x3FC00000 ∧
    mxBlock (nanTag 9 0) 0x3F000000 (bxRow 127 151 ([0x60, 0x80, 0xE0] ++ List.replicate 29 0)) b = 0x7FC09000 := by
  decide +kernel

/-- A vector register whose 32-bit lanes begin with a list. -/
def lanes32 (l : List (BitVec 32)) : VecWord := BitVec.ofNat 1024 (l.foldr (fun x n => x.toNat + 2 ^ 32 * n) 0)

/-- A state with a vector register set. -/
def setV (s : State) (r : VReg) (w : VecWord) : State := upS (fun x => { x with v := x.v.set r w }) s

/-- R143's example of a floating-point reduction. -/
theorem test_vred_tree :
    (after (.vred (some (.fp .f32)) .rne .fadd 8 1 none)
      (setV st 1 (lanes32 [0x3F800000, 0x4B800000, 0x3F800000, 0xCB800000]))).g[8] = 0x3F800000 := by decide +kernel

/-- The worked example of vrigid: its four points, moved. -/
theorem test_vrigid :
    let s := setV (setV (setV (setV st 8 (lanes32 [3, 5, -3, -23])) 9 (lanes32 [7, -8, 0x80000000, 0]))
      10 (lanes32 [5, 0x7FFFFFFF, -1, 0])) 16 (lanes32 [0x10000000, 0, 0, 0, 0xE0000000, 0, 0, 0, 0x40000000, 10, 0, 0])
    let x := after (.vrigid false 20 8 16 ⟨none, false⟩) s
    (List.range 4).map (lane 32 x.v[20]) = [12, 12, 8, -2] ∧
    (List.range 4).map (lane 32 x.v[21]) = [-7, 8, 0x7FFFFFFF, 0] ∧
    (List.range 4).map (lane 32 x.v[22]) = [10, 0x7FFFFFFF, -2, 0] := by decide +kernel

/-- The distance that the same example works out: 144 + 49 + 100. -/
theorem test_vdist2 :
    let s := setV (setV (setV (setV st 20 (lanes32 [12])) 21 (lanes32 [-7])) 22 (lanes32 [10])) 30 0
    let x := after (.vdist2 false 24 20 30 ⟨none, false⟩) s
    lane 32 x.v[24] 0 = 293 ∧ lane 32 x.v[24] 1 = 0 := by decide +kernel

/-- The part of the worked example of 01: one cell fused off, physical identifier 29. -/
theorem test_cell_numbers :
    let s : State := { st with plat := { st.plat with absentCells := [29], pkg := 2 } }
    (physOf s 28, physOf s 29, physOf s 255, physOf s 1022) = (28, 30, 256, 1023) ∧ cellCount s = 1023 ∧
    readSpecial { s with curCell := 29 } .scell = 2 * 4096 + 29 ∧
    (readSpecial s .sinv).toNat % 2 ^ 9 = 255 ∧ domainHasOther s 29 = true := by decide +kernel

/-- trap 0x2A at level 0 enters level 1 at tvec's low half, with the return IP, cause and code (18 R338, R347). -/
theorem test_trap_enters :
    let x := after (.trap 0x2A) st
    x.level = 1 ∧ x.ip = 0x40 ∧ x.tip[0] = 8 ∧ x.tinfo[0] = 0x2A ∧ x.tfva[0] = 0 := by decide +kernel

/-- tret at level 1 goes back to tip.1 and level 0 (18 R348). -/
theorem test_tret_returns :
    let x := after .tret (upS (fun x => { x with level := 1, tip := #v[0x1234, 0] }) st)
    x.level = 0 ∧ x.ip = 0x1234 := by decide +kernel

/-- A write to g0 is lost and g0 reads 0 (02 R26). -/
theorem test_g0 : (after (.add none 0 1 2) st).g = (slotOf st).g ∧ g8 (.add none 8 0 1) 7 0 = 7 := by decide +kernel

/-- The address table of the worked example of 02: a 512 KiB scratchpad, and which accesses raise ADDR, at the level
entered. -/
theorem test_address_windows :
    let s := upC (fun x => { x with scarve := 4 }) st
    let load (a : Word) : Fin 3 := (after (.ld .b8 .plain false 8 ⟨1, 0, 0⟩) (setG s 1 a)).level
    let stx (a : Word) : Fin 3 := (after (.stx .b8 8 ⟨1, 0, 0⟩) (setG s 1 a)).level
    load 0xFE0000000007FFF8 = 0 ∧ load 0xFE0000000007FFFC = 1 ∧ stx 0xFE01000000500100 = 0 ∧
    load 0xFE01000000500100 = 1 ∧ stx 0xFE01000040000000 = 1 ∧ load 0xFE02000000000000 = 1 ∧
    load 0x0080000000000000 = 1 := by decide +kernel

/-- Bytes are stored least significant first (00 R3), and a 4-byte load extends its sign when told (05 R118). -/
theorem test_store_then_load :
    let s := setG (setG st 1 0x10) 8 0x80FF7F01
    let t := match exec (.st .b4 .plain 8 ⟨1, 0, 0⟩) s with
      | .next t => t
      | _ => s
    (List.range 4).map (fun i => physByte t (0x100010 + i)) = [0x01, 0x7F, 0xFF, 0x80] ∧
    (after (.ld .b4 .plain true 9 ⟨1, 0, 0⟩) t).g[9] = 0xFFFFFFFF80FF7F01 ∧
    (after (.ld .b2 .plain false 9 ⟨1, 0, 2⟩) t).g[9] = 0x80FF := by decide +kernel

/-- amo.n32 add returns the old value and stores the sum (12 R249). -/
theorem test_amo_add :
    let s := setG (setG st 1 0) 8 2
    let r := match exec (.amo .b4 .sys false .add .ar 8 ⟨1, 0, 0x20⟩) s with
      | .next t => t
      | _ => s
    (slotOf r).g[8] = BitVec.ofNat 64 (natOf ((List.range 4).map (fun i => physByte s (0x100020 + i)))) ∧
    natOf ((List.range 4).map (fun i => physByte r (0x100020 + i))) =
      natOf ((List.range 4).map (fun i => physByte s (0x100020 + i))) + 2 := by decide +kernel

/-! ## Hypotheses that are met together: rounding and the machine as a whole -/

namespace Rounding

/-- The value of 1.0 in FP32 (04 R72). -/
theorem fpVal_one : Safety.fpVal .f32 0x3F800000 = 1 := by
  have h1 : fpNeg .f32 0x3F800000 = false := by decide +kernel
  have h2 : fpSig .f32 0x3F800000 = 8388608 := by decide +kernel
  have h3 : fpExp .f32 0x3F800000 = -23 := by decide +kernel
  rw [Safety.fpVal, h1, h2, h3]
  norm_num

/-- The value of +0 in FP32 (04 R72). -/
theorem fpVal_zero : Safety.fpVal .f32 0 = 0 := by
  have h2 : fpSig .f32 0 = 0 := by decide +kernel
  rw [Safety.fpVal, h2]
  norm_num

/-- 1.0 and +0 are finite. -/
theorem finite_one : Safety.fpFinite .f32 0x3F800000 ∧ Safety.fpFinite .f32 0 := by decide +kernel

/-- The hypotheses of RoundedOnce hold together where a, b and c are 1.0: clauses 1, 3, 4, 5, 6 and 8. -/
theorem witness_roundedOnce_nonzero :
    let a : FpBits := 0x3F800000
    let x := Safety.fpVal .f32 a
    Safety.fpFinite .f32 a ∧ x + x ≠ 0 ∧ x * x ≠ 0 ∧ x * x + x ≠ 0 ∧ x ≠ 0 ∧ 0 < x ∧ x - x = 0 := by
  intro a x
  have h : x = 1 := fpVal_one
  exact ⟨finite_one.1, by rw [h]; norm_num, by rw [h]; norm_num, by rw [h]; norm_num, by rw [h]; norm_num,
    by rw [h]; norm_num, by rw [h]; norm_num⟩

/-- The hypotheses of RoundedOnce hold together where a, b and c are +0: clauses 7, 9 and 10, and where only b is: clause 2. -/
theorem witness_roundedOnce_zero :
    let a : FpBits := 0x3F800000
    let b : FpBits := 0
    let x := Safety.fpVal .f32 a
    let y := Safety.fpVal .f32 b
    Safety.fpFinite .f32 a ∧ Safety.fpFinite .f32 b ∧ y + y = 0 ∧ y * y = 0 ∧ y * y + y = 0 ∧ x - y ≠ 0 := by
  intro a b x y
  have h : x = 1 := fpVal_one
  have k : y = 0 := fpVal_zero
  exact ⟨finite_one.1, finite_one.2, by rw [k]; norm_num, by rw [k]; norm_num, by rw [k]; norm_num,
    by rw [h, k]; norm_num⟩

/-- The hypotheses of ConversionsRound hold together. -/
theorem witness_conversionsRound :
    let a : FpBits := 0x3F800000
    let b : FpBits := 0
    let n : Int := -7
    Safety.fpFinite .f32 a ∧ n ≠ 0 ∧ Safety.fpVal .f32 a ≠ 0 ∧ Safety.fpFinite .f32 b ∧ Safety.fpVal .f32 b = 0 := by
  intro a b n
  exact ⟨finite_one.1, by decide, by rw [show Safety.fpVal .f32 a = 1 from fpVal_one]; norm_num, finite_one.2, fpVal_zero⟩

/-- The hypotheses of PowersOfTwo hold together: clauses 1 and 2 where a is 1.0, clause 3 where it is infinity, clause 4 where it
is a NaN. -/
theorem witness_powersOfTwo :
    let a : FpBits := 0x3F800000
    let b : FpBits := 0xFF800000
    let c : FpBits := 0x7FC00001
    (Safety.fpFinite .f32 a ∧ (∃ z : ℤ, Safety.fpVal .f32 a = z) ∧ |Safety.fpVal .f32 a| < 1024) ∧
      fpMag .f32 b = infMag .f32 ∧ infMag .f32 < fpMag .f32 c := by
  intro a b c
  have h : Safety.fpVal .f32 a = 1 := fpVal_one
  exact ⟨⟨finite_one.1, ⟨1, by rw [h]; norm_num⟩, by rw [h]; norm_num⟩, by decide +kernel, by decide +kernel⟩

end Rounding

namespace Whole

/-- A word placed where the reset machine fetches its first instruction. -/
def placed (w : Nat) : State := State.reset.withFetchWord 96 w

/-- The state in which that instruction runs. -/
def running (s : State) : State := { s with agenda := [], turnNo := s.turnNo + 1, curCell := 0, curSlot := 0 }

/-- The bytes of the instruction. -/
def at0 : List Loc := (List.range 12).map .mem

/-- The byte addresses of the instruction. -/
def fetched (u : State) (j : Nat) : Word := (ccOf u).scbase + BitVec.ofNat 64 (12 * (slotOf u).ip.toNat) + BitVec.ofNat 64 j

/-- The state after the page of the instruction has been walked. -/
def walked (s : State) : State :=
  let u := running s
  exU (walkPages u 0 (ccOf u).desc (pagesOf ((List.range 12).map (fetched u))))

/-- Whether the lines of the instruction are at hand, and the state in which they are. -/
def lined (s : State) : Except State State :=
  acquireLines (walked s) (myDie (running s)) (engineOf (myDie (running s))) false (linesOf at0)

/-- The hypotheses that the clauses of StepRunsDecoded about a slot that fetches share. -/
abbrev Fetches (s : State) : Prop :=
  let u := running s
  let x := slotOf u
  s.agenda = .slot 0 0 :: [] ∧ 0 < cellCount s ∧ x.run = .run ∧ x.stall = .none ∧ budgetDue x = false ∧
    x.ip.toNat < (ccOf u).sclim.toNat % 2 ^ 32

/-- Those that the clauses about an instruction whose page is at hand share. -/
abbrev Walked (s : State) : Prop :=
  let u := running s
  Fetches s ∧ at0.length = 12 ∧ walkPages u 0 (ccOf u).desc (pagesOf ((List.range 12).map (fetched u))) = .ok (walked s) ∧
    poisonedWalk (walked s) 0 (ccOf u).desc ((List.range 12).map (fetched u)) = none ∧
    ∀ j (h : j < at0.length), fetchLocate (walked s) (fetched u j) = .ok at0[j]

/-- Those that the clauses about a fetched instruction share. -/
abbrev Fetched (s : State) : Prop :=
  Walked s ∧ lined s = .ok (exU (lined s)) ∧
    lowestPoison (exU (lined s)) ((List.range 12).map (fetched (running s))) at0 = none

/-- The bytes that a slot fetches. -/
def bytesAt (s : State) : List Byte := at0.map (readLoc (exU (lined s)))

/-- Whether fewer cycles than the word's issue delay have passed since the last issue. -/
abbrev Early (s : State) : Prop := ∃ m, (slotOf (running s)).sinceIssue = some m ∧ m < natOf ((bytesAt s).take 12) / 2 ^ 76 % 16

/-- The first instruction of an activation is never early. -/
theorem not_early_first {s : State} (h : (slotOf (running s)).sinceIssue = none) : ¬Early s := by
  rintro ⟨m, hm, -⟩
  simp [h] at hm

/-- A slot that issued two cycles ago. -/
def issuedBefore (s : State) : State := Machine.putSlot s { slotOf s with sinceIssue := some 2 }

/-- The hypotheses of StepRunsDecoded hold together: an issue delay of 3, two cycles after the last issue. -/
theorem witness_stepRunsDecoded_early :
    let s := issuedBefore (placed 0x0EC030000000000000000000)
    Fetched s ∧ Early s := by
  refine ⟨?_, 2, ?_⟩ <;> decide +kernel

/-- R39: an instruction with issue delay 3 waits two cycles after the last issue. -/
theorem test_issue_delay_waits :
    (match Machine.step (issuedBefore (placed 0x0EC030000000000000000000)) with
      | .next t => ((slotOf t).ip, (slotOf t).sinceIssue) | _ => (1, none)) = (0, some 2) := by decide +kernel

/-- R39: an instruction with issue delay 2 issues then, and starts the count again. -/
theorem test_issue_delay_over :
    (match Machine.step (issuedBefore (placed 0x0EC020000000000000000000)) with
      | .next t => ((slotOf t).ip, (slotOf t).sinceIssue) | _ => (0, none)) = (1, some 0) := by decide +kernel

/-- The hypotheses of StepRunsDecoded hold together: a guard that is true. -/
theorem witness_stepRunsDecoded_runs :
    let s := placed 0x0EC000000000000000000000
    Fetched s ∧ ¬Early s ∧ decode (bytesAt s) = .ok (⟨false, 0, 0, .nop⟩, []) ∧ readP (running s) 0 ≠ false := by
  refine ⟨?_, not_early_first ?_, ?_, ?_⟩ <;> decide +kernel

/-- The hypotheses of StepRunsDecoded hold together: a guard that is false. -/
theorem witness_stepRunsDecoded_passes :
    let s := placed 0x0EC800000000000000000000
    Fetched s ∧ ¬Early s ∧ decode (bytesAt s) = .ok (⟨true, 0, 0, .nop⟩, []) ∧ readP (running s) 0 = true := by
  refine ⟨?_, not_early_first ?_, ?_, ?_⟩ <;> decide +kernel

/-- The hypotheses of StepRunsDecoded hold together: an undefined encoding. -/
theorem witness_stepRunsDecoded_undefined :
    let s := placed 0x0EC000000000000000000001
    Fetched s ∧ ¬Early s ∧ decode (bytesAt s) = .error ⟨4, 0⟩ := by
  refine ⟨?_, not_early_first ?_, ?_⟩ <;> decide +kernel

/-- The hypotheses of StepRunsDecoded hold together: IP at LIM. -/
theorem witness_stepRunsDecoded_limit :
    let s := Machine.putSlot (placed 0) { slotAt (placed 0) 0 0 with ip := 1 }
    let u := running s
    let x := slotOf u
    s.agenda = .slot 0 0 :: [] ∧ 0 < cellCount s ∧ x.run = .run ∧ x.stall = .none ∧ budgetDue x = false ∧
      (ccOf u).sclim.toNat % 2 ^ 32 ≤ x.ip.toNat := by decide +kernel

/-- A stack frozen at every die. -/
def frozen (k : Nat) (s : State) : State :=
  { s with dies := { s.dies with tables := s.dies.tables.map (fun t => { t with freeze := BitVec.ofNat 12 (2 ^ k) }) } }

/-- The hypotheses of StepRunsDecoded hold together: a fetch from a frozen stack. -/
theorem witness_stepRunsDecoded_lines :
    let s := frozen 0 { placed 0 with tlbs := (walked (placed 0)).tlbs, coh := State.reset.coh }
    Walked s ∧ lined s = .error (exU (lined s)) := by decide +kernel

/-- The hypotheses of StepRunsDecoded hold together: a page whose table lies in a frozen stack. -/
theorem witness_stepRunsDecoded_walk :
    let s := frozen 0 { placed 0 with coh := State.reset.coh }
    let u := running s
    Fetches s ∧ walkPages u 0 (ccOf u).desc (pagesOf ((List.range 12).map (fetched u))) = .error (walked s) := by decide +kernel

/-- The hypotheses of StepRunsDecoded hold together: a poisoned entry of a page table. -/
theorem witness_stepRunsDecoded_table :
    let s := { placed 0 with poison := [2048] }
    let u := running s
    let as := (List.range 12).map (fetched u)
    Fetches s ∧ walkPages u 0 (ccOf u).desc (pagesOf as) = .ok (walked s) ∧
      poisonedWalk (walked s) 0 (ccOf u).desc as = some 0 := by decide +kernel

/-- The machine with the page of its first instruction in its TLB, without X. -/
def closed : State := { placed 0 with tlbs := ⟨[(0, [⟨0, 0, 16, 0, true, true, false⟩])], [], [], []⟩ }

/-- The hypotheses of StepRunsDecoded hold together: a page that may not be executed. -/
theorem witness_stepRunsDecoded_page :
    let u := running closed
    let as := (List.range 12).map (fetched u)
    Fetches closed ∧ walkPages u 0 (ccOf u).desc (pagesOf as) = .ok (walked closed) ∧
      poisonedWalk (walked closed) 0 (ccOf u).desc as = none ∧
      (∃ t, translate (walked closed) 0 (ccOf u).desc (fetched u 0).toNat = .ok t ∧ t.x = false) ∧
      ∀ n, n < 12 → (fetched u 0).toNat ≤ (fetched u n).toNat :=
  ⟨by decide +kernel, by decide +kernel, by decide +kernel, ⟨_, rfl, by decide +kernel⟩, by decide +kernel⟩

/-- The hypotheses of StepRunsDecoded hold together: a poisoned instruction word. -/
theorem witness_stepRunsDecoded_word :
    let s := { placed 0 with poison := [0] }
    Walked s ∧ lined s = .ok (exU (lined s)) ∧
      lowestPoison (exU (lined s)) ((List.range 12).map (fetched (running s))) at0 = some 0 := by decide +kernel

/-- A slot that waits so. -/
def stalled (x : Stall) : State := Machine.putSlot (placed 0) { slotAt (placed 0) 0 0 with stall := x, issued := .bxch 3 }

/-- The hypotheses of StepRunsDecoded hold together: an atomic at its home. -/
theorem witness_stepRunsDecoded_home :
    let s := stalled (.home 0)
    let x := slotOf (running s)
    s.agenda = .slot 0 0 :: [] ∧ 0 < cellCount s ∧ x.run = .run ∧ x.stall = .home 0 := by decide +kernel

/-- The hypotheses of StepRunsDecoded hold together: a reply that is under way. -/
theorem witness_stepRunsDecoded_underWay :
    let s := stalled (.reply 1 (some (0, 0)) 7)
    let x := slotOf (running s)
    s.agenda = .slot 0 0 :: [] ∧ 0 < cellCount s ∧ x.run = .run ∧ x.stall = .reply 1 (some (0, 0)) 7 ∧
      arrived (running s) (some (0, 0)) = false := by decide +kernel

/-- The hypotheses of StepRunsDecoded hold together: a reply that is there, and one that says UE. -/
theorem witness_stepRunsDecoded_reply :
    let s := stalled (.reply 1 none 7)
    let t := stalled (.replyUe none 7 8)
    s.agenda = .slot 0 0 :: [] ∧ 0 < cellCount s ∧ (slotOf (running s)).run = .run ∧
      (slotOf (running s)).stall = .reply 1 none 7 ∧ t.agenda = .slot 0 0 :: [] ∧ 0 < cellCount t ∧
      (slotOf (running t)).run = .run ∧ (slotOf (running t)).stall = .replyUe none 7 8 ∧
      arrived (running s) none = true ∧ arrived (running t) none = true := by decide +kernel

/-- The hypotheses of StepRunsDecoded hold together: an instruction that waits where it stands. -/
theorem witness_stepRunsDecoded_again :
    let s := Machine.putSlot (placed 0) { slotAt (placed 0) 0 0 with stall := .again, issued := .bxch 3 }
    let x := slotOf (running s)
    s.agenda = .slot 0 0 :: [] ∧ 0 < cellCount s ∧ x.run = .run ∧ x.stall = .again := by decide +kernel

/-- The hypotheses of StepRunsDecoded hold together: a step of the hardware. -/
theorem witness_stepRunsDecoded_event :
    let s : State := { State.reset with agenda := [.event (.budget 0 0)] }
    s.agenda = .event (.budget 0 0) :: [] ∧
      eventOk { s with agenda := [], turnNo := s.turnNo + 1 } (.budget 0 0) = true := by decide +kernel

/-- The hypothesis of EncodedDecodes holds. -/
theorem witness_encodedDecodes : WellFormed (⟨false, 0, 0, .nop⟩ : Decoded).instr = true := by decide +kernel

/-- The hypothesis of DecodedEncodes holds. -/
theorem witness_decodedEncodes :
    decode [0, 0, 0, 0, 0, 0, 0, 0, 0, 0, 0xC0, 0x0E, 0x55] = .ok (⟨false, 0, 0, .nop⟩, [0x55]) := by decide +kernel

/-- A state whose next turn is a tick of the clock. -/
def ticking : State := { State.reset with agenda := [.tick 0 0] }

/-- The hypotheses of TablesStayCanonical hold together. -/
theorem witness_tablesStayCanonical : Inv ticking ∧ ∃ t, step ticking = .next t := ⟨by decide +kernel, _, rfl⟩

/-- The hypotheses of FreeSlotsStayClean hold together. -/
theorem witness_freeSlotsStayClean : FreeClean ticking ∧ ∃ t, step ticking = .next t :=
  ⟨fun _ _ _ => ⟨rfl, rfl, rfl⟩, _, rfl⟩

/-- The hypotheses of StacksStayInPairs hold together. -/
theorem witness_stacksStayInPairs : PairsOk ticking ∧ (∃ t, step ticking = .next t) ∧ ∃ t, exec .nop ticking = .next t :=
  ⟨⟨by decide +kernel, fun h hh => absurd hh List.not_mem_nil⟩, ⟨_, rfl⟩, _, rfl⟩

end Whole

/-! ## Hypotheses that are met together: the families -/

namespace Scalar

def dz (s : State) : State := putSlot s { slotOf s with sctl := 1 }

/-- The hypotheses of Select hold together. -/
theorem witness_select :
    (let s : State := st
    let p : PReg := 1
    readP s p = true) ∧
   (let s : State := st
    let p : PReg := 2
    readP s p = false) := by
  refine ⟨?_, ?_⟩ <;> decide +kernel

/-- The hypotheses of Division hold together. -/
theorem witness_division :
    (let s : State := st
    let t : Option IntTy := (some .i16)
    let b : GReg := 7
    let T := t.getD .i64
    let y := readInt (intSigned T) (lowBits T (readG s b))
    y ≠ 0) ∧
   (let s : State := st
    let t : Option IntTy := (some .i64)
    let b : GReg := 0
    let T := t.getD .i64
    let y := readInt (intSigned T) (lowBits T (readG s b))
    y = 0 ∧ (slotOf s).sctl.getLsbD 0 = false) := by
  refine ⟨?_, ?_⟩ <;> decide +kernel

/-- The hypotheses of DivideByZeroTrap hold together. -/
theorem witness_divideByZeroTrap :
    let s : State := (dz st)
    let t : Option IntTy := (some .i64)
    let b : GReg := 0
    lowBits (t.getD .i64) (readG s b) = 0 ∧ (slotOf s).sctl.getLsbD 0 = true := by decide +kernel

/-- The hypotheses of BitFields hold together. -/
theorem witness_bitFields :
    let pos : Fin 64 := 5
    let len1 : Fin 64 := 7
    pos.val + len1.val < 64 := by decide +kernel

/-- The hypotheses of PredicateOps hold together. -/
theorem witness_predicateOps :
    (let s : State := st
    let ga : GReg := 0
    readG s ga = 0) ∧
   (let s : State := st
    let ga : GReg := 7
    readG s ga ≠ 0) := by
  refine ⟨?_, ?_⟩ <;> decide +kernel

end Scalar

namespace Registers

def ring1 : CtxCell := { cc0 with sspill := 0x26005, ringPages := [0x300000], ringHead := 31, ringCount := 1 }
def ring2 : CtxCell := { cc0 with sspill := 0x26005, ringPages := [0x300000], ringHead := 31, ringCount := 2 }
def withCc (c : CtxCell) : State := putCcOf st c
def vicS (s : State) : State := { s with coh := { s.coh with vic := [(5, ⟨.s, 1, 15, 0⟩), (2^40+7, ⟨.s, 1, 15, 0⟩)] } }
def rt (s : State) (a : GReg) (pages : List Nat) (n : Nat) : State × State :=
  let w := readG s a
  let z := w.toNat % 32
  let cap := if z = 0 then 0 else 2 ^ z
  let base := w.toNat / 4096 % 2 ^ 43 * 4096
  let vps := if z = 0 then [] else ringVpages base (64 * cap)
  let u := exU (walkPages s 0 (ccOf s).desc (vps.map (fun p => p / 65536)))
  let v := exU (ringLines u 0 false 0 n)
  (u, v)
def rn (s : State) (a : GReg) (pages : List Nat) (n : Nat) : State :=
  let w := readG s a
  let v := (rt s a pages n).2
  exU (ringLines (putCcOf v { ccOf s with sspill := w &&& 0x7FFFFFFFFFF01F, ringPages := pages, ringHead := 0, ringCount := 0 }) 0 true 0 n)
def a1 := setG (sys st) 20 0x26005
def a3 := setG (sys (withCc ring1)) 20 0x22006
def a4 := setG (sys (withCc ring1)) 20 0
def a7 := setG (sys st) 20 0x12006
def a9 : State := { setG (sys (withCc ring2)) 20 0x42006 with tlbs := stF.tlbs }
def a10 : State :=
  { setG (sys (withCc ring2)) 20 0x22006 with cells := [(0, { (cellAt (sys (withCc ring2)) 0) with committing := some 2 })] }
def lk (line : Nat) (s : State) : State := { s with coh := { s.coh with txns := [⟨⟨.slice 0, 3, line, .gets⟩, 1, 0⟩] } }
def a11 := lk 0x200 (setG (sys st) 20 0x42006)
def a12 := lk (0x3067C0 / 128) a3
def a13 := setG (sys st) 20 17
def wk2 (s : State) : State :=
  { s with tlbs := ⟨[], [], [], []⟩, mem := (bytesOf (0x20000 + 1) 8).zipIdx.map (fun e => (0x10000 + e.2, e.1)) ++ (bytesOf (0x40000 + 1) 8).zipIdx.map (fun e => (0x20000 + e.2, e.1)) ++ (bytesOf 0x123450039 8).zipIdx.map (fun e => (0x40008 + e.2, e.1)), dirty := [] }
def a14 := setG (sys (wk2 st)) 20 0x10006
def a15 : State := { a14 with poison := [0x2000] }

/-- The hypotheses of SpecialValues hold together. -/
theorem witness_specialValues :
    (let t : FpTy := .bf16
    let a : FpBits := 0x7F80
    let b : FpBits := 0xFF80
    let c : FpBits := 0x7F80
    let na := fpNeg t a
    let nb := fpNeg t b
    let nc := fpNeg t c
    let isNan (x : FpBits) : Prop := infMag t < fpMag t x
    let isInf (x : FpBits) : Prop := fpMag t x = infMag t
    isInf a ∧ isInf b ∧ na ≠ nb ∧ 0 < fpMag t a ∧ ¬isNan a ∧ 0 < fpMag t b ∧ ¬isNan b ∧ isInf c ∧ nc ≠ (na != nb) ∧ na = false) ∧
   (let t : FpTy := .f16
    let a : FpBits := 0x7E01
    let b : FpBits := 0xFD23
    let c : FpBits := 0x7C00
    let isNan (x : FpBits) : Prop := infMag t < fpMag t x
    (isNan a ∨ isNan b ∨ isNan c) ∧ isNan a ∧ (isNan a ∨ isNan b)) ∧
   (let t : FpTy := .f32
    let a : FpBits := 0x7F800000
    let b : FpBits := 0
    let c : FpBits := 0x3F800000
    let isNan (x : FpBits) : Prop := infMag t < fpMag t x
    let isInf (x : FpBits) : Prop := fpMag t x = infMag t
    isInf a ∧ fpFinite t b ∧ fpMag t b = 0 ∧ ¬isNan c) ∧
   (let t : FpTy := .f32
    let a : FpBits := 0
    let b : FpBits := 0x80000000
    fpMag t a = 0 ∧ fpMag t b = 0) ∧
   (let t : FpTy := .f32
    let a : FpBits := 0xBF800000
    let b : FpBits := 0x0
    let na := fpNeg t a
    let isNan (x : FpBits) : Prop := infMag t < fpMag t x
    fpFinite t a ∧ 0 < fpMag t a ∧ fpMag t b = 0 ∧ ¬isNan a ∧ na = true) ∧
   (let t : FpTy := .f32
    let a : FpBits := 0x7F800000
    let b : FpBits := 0x3F800000
    let c : FpBits := 0
    let na := fpNeg t a
    let nb := fpNeg t b
    let nc := fpNeg t c
    let isNan (x : FpBits) : Prop := infMag t < fpMag t x
    let isInf (x : FpBits) : Prop := fpMag t x = infMag t
    isInf a ∧ 0 < fpMag t b ∧ ¬isNan b ∧ ((fpFinite t c ∨ isInf c ∧ nc = (na != nb)))) ∧
   (let t : FpTy := .f32
    let a : FpBits := 0x80000000
    let b : FpBits := 0x7f800000
    let isInf (x : FpBits) : Prop := fpMag t x = infMag t
    fpFinite t a ∧ isInf b) ∧
   (let t : FpTy := .f32
    let a : FpBits := 0x3F800000
    let b : FpBits := 0x3F800000
    let c : FpBits := 0x7F800000
    let isInf (x : FpBits) : Prop := fpMag t x = infMag t
    fpFinite t a ∧ fpFinite t b ∧ isInf c) ∧
   (let t : FpTy := .f32
    let a : FpBits := 0x7F800000
    let b : FpBits := 0x7F800000
    let na := fpNeg t a
    let nb := fpNeg t b
    let isInf (x : FpBits) : Prop := fpMag t x = infMag t
    isInf a ∧ isInf b ∧ na = nb) := by
  refine ⟨?_, ?_, ?_, ?_, ?_, ?_, ?_, ?_, ?_⟩ <;> decide +kernel

/-- The hypotheses of FloatingPointOrder hold together. -/
theorem witness_floatingPointOrder :
    (let s : State := (setG st 20 0x80000000)
    let u : Option FpTy := none
    let p : GReg := 0
    let q : GReg := 20
    let t := u.getD .f32
    let a : FpBits := BitVec.ofNat 32 ((readG s p).toNat % 2 ^ fpWidth t)
    let b : FpBits := BitVec.ofNat 32 ((readG s q).toNat % 2 ^ fpWidth t)
    let isNan (x : FpBits) : Prop := infMag t < fpMag t x
    fpMag t a = 0 ∧ fpMag t b = 0 ∧ fpNeg t a = false ∧ fpNeg t b = true ∧ ¬isNan a ∧ ¬isNan b) ∧
   (let s : State := st
    let u : Option FpTy := none
    let p : GReg := 11
    let q : GReg := 11
    let t := u.getD .f32
    let a : FpBits := BitVec.ofNat 32 ((readG s p).toNat % 2 ^ fpWidth t)
    let b : FpBits := BitVec.ofNat 32 ((readG s q).toNat % 2 ^ fpWidth t)
    let isNan (x : FpBits) : Prop := infMag t < fpMag t x
    isNan a ∧ isNan b ∧ (isNan a ∨ isNan b)) ∧
   (let s : State := (setG st 20 1)
    let u : Option FpTy := none
    let p : GReg := 20
    let q : GReg := 9
    let t := u.getD .f32
    let a : FpBits := BitVec.ofNat 32 ((readG s p).toNat % 2 ^ fpWidth t)
    let b : FpBits := BitVec.ofNat 32 ((readG s q).toNat % 2 ^ fpWidth t)
    let isNan (x : FpBits) : Prop := infMag t < fpMag t x
    let isInf (x : FpBits) : Prop := fpMag t x = infMag t
    let less (x y : FpBits) : Prop := (fpFinite t x ∧ fpFinite t y ∧ fpVal t x < fpVal t y) ∨
      (isInf x ∧ fpNeg t x = true ∧ ¬(isInf y ∧ fpNeg t y = true)) ∨ (isInf y ∧ fpNeg t y = false ∧ ¬(isInf x ∧ fpNeg t x = false))
    ¬isNan a ∧ ¬isNan b ∧ less a b ∧ 0 < fpMag t a ∧ fpMag t a < 2 ^ fracBits t) ∧
   (let s : State := st
    let u : Option FpTy := none
    let p : GReg := 10
    let q : GReg := 10
    let t := u.getD .f32
    let a : FpBits := BitVec.ofNat 32 ((readG s p).toNat % 2 ^ fpWidth t)
    let b : FpBits := BitVec.ofNat 32 ((readG s q).toNat % 2 ^ fpWidth t)
    let isInf (x : FpBits) : Prop := fpMag t x = infMag t
    let same (x y : FpBits) : Prop := (fpFinite t x ∧ fpFinite t y ∧ fpVal t x = fpVal t y) ∨
      (isInf x ∧ isInf y ∧ fpNeg t x = fpNeg t y)
    same a b ∧ fpNeg t a = fpNeg t b ∧ isInf a) ∧
   (let s : State := st
    let u : Option FpTy := none
    let p : GReg := 9
    let q : GReg := 14
    let t := u.getD .f32
    let a : FpBits := BitVec.ofNat 32 ((readG s p).toNat % 2 ^ fpWidth t)
    let b : FpBits := BitVec.ofNat 32 ((readG s q).toNat % 2 ^ fpWidth t)
    let isNan (x : FpBits) : Prop := infMag t < fpMag t x
    let isInf (x : FpBits) : Prop := fpMag t x = infMag t
    let less (x y : FpBits) : Prop := (fpFinite t x ∧ fpFinite t y ∧ fpVal t x < fpVal t y) ∨
      (isInf x ∧ fpNeg t x = true ∧ ¬(isInf y ∧ fpNeg t y = true)) ∨ (isInf y ∧ fpNeg t y = false ∧ ¬(isInf x ∧ fpNeg t x = false))
    ¬isNan a ∧ ¬isNan b ∧ less b a ∧ fpFinite t a ∧ 2 ^ fracBits t ≤ fpMag t a) ∧
   (let s : State := (setG st 20 0x80000000)
    let u : Option FpTy := none
    let p : GReg := 20
    let q : GReg := 0
    let t := u.getD .f32
    let a : FpBits := BitVec.ofNat 32 ((readG s p).toNat % 2 ^ fpWidth t)
    let b : FpBits := BitVec.ofNat 32 ((readG s q).toNat % 2 ^ fpWidth t)
    fpMag t a = 0 ∧ fpMag t b = 0 ∧ fpNeg t a = true ∧ fpNeg t b = false) ∧
   (let s : State := st
    let u : Option FpTy := none
    let p : GReg := 11
    let q : GReg := 9
    let t := u.getD .f32
    let a : FpBits := BitVec.ofNat 32 ((readG s p).toNat % 2 ^ fpWidth t)
    let b : FpBits := BitVec.ofNat 32 ((readG s q).toNat % 2 ^ fpWidth t)
    let isNan (x : FpBits) : Prop := infMag t < fpMag t x
    isNan a ∧ ¬isNan b) ∧
   (let s : State := st
    let u : Option FpTy := none
    let p : GReg := 9
    let q : GReg := 11
    let t := u.getD .f32
    let a : FpBits := BitVec.ofNat 32 ((readG s p).toNat % 2 ^ fpWidth t)
    let b : FpBits := BitVec.ofNat 32 ((readG s q).toNat % 2 ^ fpWidth t)
    let isNan (x : FpBits) : Prop := infMag t < fpMag t x
    ¬isNan a ∧ isNan b) := by
  refine ⟨?_, ?_, ?_, ?_, ?_, ?_, ?_, ?_⟩ <;> decide +kernel

/-- The hypotheses of ReadSpecial hold together. -/
theorem witness_readSpecial :
    (let s : State := (lvl st 1)
    let r : SReg := (.tarea true)
    let user := UserMode s
    let p := physOf s s.curCell
    let n : Nat := 0
    let x := (ccOf s).mxu
    (sregAccess r ≠ .rwp ∨ ¬user) ∧ p < 1024 ∧ (s.plat.absentCells.Pairwise (fun a b => a < b)) ∧ n < 4 ∧ x.queue.length ≤ 16) ∧
   (let s : State := st
    let r : SReg := (.tvec)
    let user := UserMode s
    sregAccess r = .rwp ∧ user) := by
  refine ⟨?_, ?_⟩ <;> decide +kernel

/-- The hypotheses of WriteSpecial hold together. -/
theorem witness_writeSpecial :
    (let s : State := (lvl st 1)
    let user := UserMode s
    let r : SReg := .stime
    sregAccess r = .ro ∧ ¬user) ∧
   (let r : SReg := .scell
    sregAccess r = .fuse) ∧
   (let s : State := st
    let user := UserMode s
    let r : SReg := .tvec
    user ∧ sregAccess r = .rwp) := by
  refine ⟨?_, ?_, ?_⟩ <;> decide +kernel

/-- The hypotheses of CellRegisters hold together. -/
theorem witness_cellRegisters :
    (let s : State := (setG (sys (withCc { cc0 with tiles := [(70, .mxu)] })) 20 0x0000000000120F02)
    let a : GReg := 20
    let c := ccOf s
    let w := readG s a
    let v : BitVec 2 := w.setWidth 2
    let user := UserMode s
    let spad := w.toNat % 16
    let p := physOf s s.curCell
    v ≠ 3 ∧ c.domain ≤ v ∧ ¬user ∧ logicalOf s p = s.curCell ∧ ((∃ e ∈ c.tiles, spad * 131072 ≤ e.1 * 4096))) ∧
   (let s : State :=
        (setG (vicS (sys (withCc { cc0 with topcoat := true, spad := [(5, 7), (0x3FFFF, 4)], padPoison := [0, 0x1FFF] }))) 20 0x10000020F03)
    let a : GReg := 20
    let c := ccOf s
    let w := readG s a
    let v : BitVec 2 := w.setWidth 2
    let user := UserMode s
    let spad := w.toNat % 16
    let base := w.toNat / 256 % 256
    let len := w.toNat / 65536 % 256
    let fits : Prop := 2 ≤ spad ∧ spad ≤ 8 ∧ len ≤ 128 ∧ base * 4096 + 1024 * len ≤ spad * 131072
    v = 3 ∧ ¬user ∧ fits ∧ c.tiles = []) ∧
   (let s : State := (withCc { cc0 with domain := 2 })
    let a : GReg := 1
    let c := ccOf s
    let w := readG s a
    let v : BitVec 2 := w.setWidth 2
    let user := UserMode s
    v < c.domain ∧ user) ∧
   (let s : State := (vicS (sys st))
    let a : GReg := 3
    let w := readG s a
    let user := UserMode s
    let spad := w.toNat % 16
    let base := w.toNat / 256 % 256
    let len := w.toNat / 65536 % 256
    let fits : Prop := 2 ≤ spad ∧ spad ≤ 8 ∧ len ≤ 128 ∧ base * 4096 + 1024 * len ≤ spad * 131072
    ¬user ∧ ¬fits) := by
  refine ⟨?_, ?_, ?_, ?_⟩ <;> decide +kernel

/-- The hypotheses of SpillRing hold together. -/
theorem witness_spillRing :
    (let s : State := st
    let user := UserMode s
    user) ∧
   (let s : State := a1
    let u : State := (rt a1 20 [] 0).1
    let v : State := (rt a1 20 [] 0).2
    let t1 : State := (rn a1 20 [0x300000] 0)
    let a : GReg := 20
    let pages : List Nat := [0x300000]
    let c := ccOf s
    let w := readG s a
    let z := w.toNat % 32
    let user := UserMode s
    let cap := if z = 0 then 0 else 2 ^ z
    let base := w.toNat / 4096 % 2 ^ 43 * 4096
    let vps := if z = 0 then [] else ringVpages base (64 * cap)
    let fit : Prop := z = 0 ∨ (5 ≤ z ∧ z ≤ 16)
    let checks (p : Nat) := locate u ⟨5, 0x0C4, true, true, false, false⟩ (BitVec.ofNat 64 p)
    let walked := walkPages s s.curCell c.desc (vps.map (fun p => p / 65536))
    let k := s.curSlot
    let poisoned (p : Nat) : Prop := walkPoisoned u s.curCell c.desc p = true
    let first : Prop := (cellAt s s.curCell).spillers = [] ∨ (cellAt s s.curCell).spillers.head? = some k
    let old := ringLines u s.curCell false 0 c.ringCount
    let y := { c with sspill := w &&& 0x7FFFFFFFFFF01F, ringPages := pages, ringHead := 0, ringCount := 0 }
    let new := ringLines (putCcOf v y) s.curCell true 0 c.ringCount
    ¬user ∧ fit ∧ (cellAt s s.curCell).committing = none ∧ first ∧ walked = .ok u ∧ pages.length = vps.length ∧
      ((∀ i, i < vps.length → ¬poisoned (vps.getD i 0) ∧ checks (vps.getD i 0) = .ok (.mem (pages.getD i 0)))) ∧ c.ringCount ≤ cap ∧
       old = .ok v ∧ new = .ok t1 ∧ pages.Nodup ∧ ((∀ p ∈ pages, p % 65536 = 0))) ∧
   (let s : State := a10
    let a : GReg := 20
    let w := readG s a
    let z := w.toNat % 32
    let user := UserMode s
    let fit : Prop := z = 0 ∨ (5 ≤ z ∧ z ≤ 16)
    let k := s.curSlot
    let first : Prop := (cellAt s s.curCell).spillers = [] ∨ (cellAt s s.curCell).spillers.head? = some k
    ¬user ∧ fit ∧ ((cellAt s s.curCell).committing ≠ none ∨ ¬first)) ∧
   (let s : State := a11
    let u : State := (rt a11 20 [] 0).1
    let a : GReg := 20
    let c := ccOf s
    let w := readG s a
    let z := w.toNat % 32
    let user := UserMode s
    let cap := if z = 0 then 0 else 2 ^ z
    let base := w.toNat / 4096 % 2 ^ 43 * 4096
    let vps := if z = 0 then [] else ringVpages base (64 * cap)
    let fit : Prop := z = 0 ∨ (5 ≤ z ∧ z ≤ 16)
    let walked := walkPages s s.curCell c.desc (vps.map (fun p => p / 65536))
    let k := s.curSlot
    let first : Prop := (cellAt s s.curCell).spillers = [] ∨ (cellAt s s.curCell).spillers.head? = some k
    ¬user ∧ fit ∧ (cellAt s s.curCell).committing = none ∧ first ∧ walked = .error u) ∧
   (let s : State := a12
    let u : State := (rt a12 20 [] 1).1
    let v : State := (rt a12 20 [] 1).2
    let a : GReg := 20
    let pages : List Nat := [0x300000]
    let c := ccOf s
    let w := readG s a
    let z := w.toNat % 32
    let user := UserMode s
    let cap := if z = 0 then 0 else 2 ^ z
    let base := w.toNat / 4096 % 2 ^ 43 * 4096
    let vps := if z = 0 then [] else ringVpages base (64 * cap)
    let fit : Prop := z = 0 ∨ (5 ≤ z ∧ z ≤ 16)
    let checks (p : Nat) := locate u ⟨5, 0x0C4, true, true, false, false⟩ (BitVec.ofNat 64 p)
    let walked := walkPages s s.curCell c.desc (vps.map (fun p => p / 65536))
    let k := s.curSlot
    let poisoned (p : Nat) : Prop := walkPoisoned u s.curCell c.desc p = true
    let first : Prop := (cellAt s s.curCell).spillers = [] ∨ (cellAt s s.curCell).spillers.head? = some k
    let old := ringLines u s.curCell false 0 c.ringCount
    ¬user ∧ fit ∧ (cellAt s s.curCell).committing = none ∧ first ∧ walked = .ok u ∧ pages.length = vps.length ∧
      ((∀ i, i < vps.length → ¬poisoned (vps.getD i 0) ∧ checks (vps.getD i 0) = .ok (.mem (pages.getD i 0)))) ∧ c.ringCount ≤ cap ∧
       old = .error v) ∧
   (let s : State := a13
    let a : GReg := 20
    let w := readG s a
    let z := w.toNat % 32
    let user := UserMode s
    ¬user ∧ ((1 ≤ z ∧ z ≤ 4) ∨ 17 ≤ z)) ∧
   (let s : State := a15
    let u : State := (rt a15 20 [] 0).1
    let a : GReg := 20
    let j : Nat := 0
    let c := ccOf s
    let w := readG s a
    let z := w.toNat % 32
    let user := UserMode s
    let cap := if z = 0 then 0 else 2 ^ z
    let base := w.toNat / 4096 % 2 ^ 43 * 4096
    let vps := if z = 0 then [] else ringVpages base (64 * cap)
    let fit : Prop := z = 0 ∨ (5 ≤ z ∧ z ≤ 16)
    let checks (p : Nat) := locate u ⟨5, 0x0C4, true, true, false, false⟩ (BitVec.ofNat 64 p)
    let walked := walkPages s s.curCell c.desc (vps.map (fun p => p / 65536))
    let k := s.curSlot
    let poisoned (p : Nat) : Prop := walkPoisoned u s.curCell c.desc p = true
    let passes (p : Nat) : Prop := ¬poisoned p ∧ ∃ pa, checks p = .ok (.mem pa)
    let first : Prop := (cellAt s s.curCell).spillers = [] ∨ (cellAt s s.curCell).spillers.head? = some k
    ¬user ∧ fit ∧ (cellAt s s.curCell).committing = none ∧ first ∧ walked = .ok u ∧ j < vps.length ∧
      ((∀ i, i < j → passes (vps.getD i 0))) ∧ poisoned (vps.getD j 0)) ∧
   (let s : State := a4
    let u : State := (rt a4 20 [] 1).1
    let a : GReg := 20
    let pages : List Nat := []
    let c := ccOf s
    let w := readG s a
    let z := w.toNat % 32
    let user := UserMode s
    let cap := if z = 0 then 0 else 2 ^ z
    let base := w.toNat / 4096 % 2 ^ 43 * 4096
    let vps := if z = 0 then [] else ringVpages base (64 * cap)
    let fit : Prop := z = 0 ∨ (5 ≤ z ∧ z ≤ 16)
    let checks (p : Nat) := locate u ⟨5, 0x0C4, true, true, false, false⟩ (BitVec.ofNat 64 p)
    let walked := walkPages s s.curCell c.desc (vps.map (fun p => p / 65536))
    let k := s.curSlot
    let poisoned (p : Nat) : Prop := walkPoisoned u s.curCell c.desc p = true
    let first : Prop := (cellAt s s.curCell).spillers = [] ∨ (cellAt s s.curCell).spillers.head? = some k
    ¬user ∧ fit ∧ (cellAt s s.curCell).committing = none ∧ first ∧ walked = .ok u ∧ pages.length = vps.length ∧
      ((∀ i, i < vps.length → ¬poisoned (vps.getD i 0) ∧ checks (vps.getD i 0) = .ok (.mem (pages.getD i 0)))) ∧ cap < c.ringCount) ∧
   (let s : State := a7
    let u : State := (rt a7 20 [] 0).1
    let a : GReg := 20
    let j : Nat := 0
    let b : Bad := .prot
    let c := ccOf s
    let w := readG s a
    let z := w.toNat % 32
    let user := UserMode s
    let cap := if z = 0 then 0 else 2 ^ z
    let base := w.toNat / 4096 % 2 ^ 43 * 4096
    let vps := if z = 0 then [] else ringVpages base (64 * cap)
    let fit : Prop := z = 0 ∨ (5 ≤ z ∧ z ≤ 16)
    let checks (p : Nat) := locate u ⟨5, 0x0C4, true, true, false, false⟩ (BitVec.ofNat 64 p)
    let walked := walkPages s s.curCell c.desc (vps.map (fun p => p / 65536))
    let k := s.curSlot
    let poisoned (p : Nat) : Prop := walkPoisoned u s.curCell c.desc p = true
    let passes (p : Nat) : Prop := ¬poisoned p ∧ ∃ pa, checks p = .ok (.mem pa)
    let first : Prop := (cellAt s s.curCell).spillers = [] ∨ (cellAt s s.curCell).spillers.head? = some k
    ¬user ∧ fit ∧ (cellAt s s.curCell).committing = none ∧ first ∧ walked = .ok u ∧ j < vps.length ∧
      ((∀ i, i < j → passes (vps.getD i 0))) ∧ ¬poisoned (vps.getD j 0) ∧ checks (vps.getD j 0) = .error b) ∧
   (let s : State := a9
    let u : State := (rt a9 20 [] 2).1
    let v : State := (rt a9 20 [] 2).2
    let t1 : State := (rn a9 20 [0x3000100000] 2)
    let a : GReg := 20
    let pages : List Nat := [0x3000100000]
    let c := ccOf s
    let w := readG s a
    let z := w.toNat % 32
    let user := UserMode s
    let cap := if z = 0 then 0 else 2 ^ z
    let base := w.toNat / 4096 % 2 ^ 43 * 4096
    let vps := if z = 0 then [] else ringVpages base (64 * cap)
    let fit : Prop := z = 0 ∨ (5 ≤ z ∧ z ≤ 16)
    let checks (p : Nat) := locate u ⟨5, 0x0C4, true, true, false, false⟩ (BitVec.ofNat 64 p)
    let walked := walkPages s s.curCell c.desc (vps.map (fun p => p / 65536))
    let k := s.curSlot
    let poisoned (p : Nat) : Prop := walkPoisoned u s.curCell c.desc p = true
    let first : Prop := (cellAt s s.curCell).spillers = [] ∨ (cellAt s s.curCell).spillers.head? = some k
    let old := ringLines u s.curCell false 0 c.ringCount
    let y := { c with sspill := w &&& 0x7FFFFFFFFFF01F, ringPages := pages, ringHead := 0, ringCount := 0 }
    let new := ringLines (putCcOf v y) s.curCell true 0 c.ringCount
    ¬user ∧ fit ∧ (cellAt s s.curCell).committing = none ∧ first ∧ walked = .ok u ∧ pages.length = vps.length ∧
      ((∀ i, i < vps.length → ¬poisoned (vps.getD i 0) ∧ checks (vps.getD i 0) = .ok (.mem (pages.getD i 0)))) ∧ c.ringCount ≤ cap ∧
       old = .ok v ∧ new = .error t1) := by
  refine ⟨?_, ?_, ?_, ?_, ?_, ?_, ?_, ?_, ?_, ?_⟩
  · decide +kernel
  · decide +kernel
  · decide +kernel
  · decide +kernel
  · decide +kernel
  · decide +kernel
  · refine ⟨by decide +kernel, by decide +kernel, by decide +kernel, by decide +kernel, by decide +kernel, by decide +kernel, ?_,
    by decide +kernel⟩
    exact fun _ h => absurd h (Nat.not_lt_zero _)
  · decide +kernel
  · refine ⟨by decide +kernel, by decide +kernel, by decide +kernel, by decide +kernel, by decide +kernel, by decide +kernel, ?_,
    by decide +kernel, by decide +kernel⟩
    exact fun _ h => absurd h (Nat.not_lt_zero _)
  · decide +kernel

/-- The hypotheses of ControlTransfers hold together. -/
theorem witness_controlTransfers :
    (let s : State := (setG st 20 1)
    let d : GReg := 20
    let n := readG s d - 1
    d ≠ 0 ∧ n = 0) ∧
   (let s : State := st
    let d : GReg := 1
    let n := readG s d - 1
    d ≠ 0 ∧ n ≠ 0) := by
  refine ⟨?_, ?_⟩ <;> decide +kernel

end Registers

namespace Access

def S (g20 : Word) : State := setG stF 20 g20
def m0 : MemOp := ⟨20, 0, 0⟩
def pz (s : State) : State := { s with poison := [0x100020 / 32] }
def l1 := CL (S 0x10) 4 m0
def l5 := CL (S 0x40010) 4 m0
def l6 := CL (pz (S 0x1E)) 4 m0
def s1 := CS (S 0x10) 4 m0
def s5 := CS (S 0x40010) 4 m0
def wp (s : State) (a : Nat) : State := exU (walkPages s 0 (ccOf s).desc [a / 65536])
def vas (s : State) (n : Nat) (m : MemOp) (k : Option MReg) (form : Fin 3) (d : VReg) : List Word :=
  let act (i : Nat) : Bool := match k with | none => true | some r => (readM s r).getLsbD i
  let e := ea s m
  let at_ (i : Nat) : Word := match form with
    | 0 => e + BitVec.ofNat 64 (i * n)
    | 1 => e + BitVec.ofNat 64 i * readG s m.b
    | 2 => e + BitVec.ofNat 64 ((lane (8 * n) (readV s (d+1)) i).toNat * n)
  ((List.range (128 / n)).filter act).flatMap (fun i => (List.range n).map (fun j => at_ i + BitVec.ofNat 64 j))
def VC (s : State) (st : Bool) (n : Nat) (m : MemOp) (k : Option MReg) (form : Fin 3) (d : VReg) : Checked :=
  let as := vas s n m k form d
  let opc : BitVec 12 := (match form with | 0 => 0x4E0 | 1 => 0x4E4 | 2 => 0x4E8) + (if st then 2 else 0)
  checkAccess s (if st then ⟨2, opc, false, true, false, false⟩ else ⟨1, opc, true, false, false, true⟩) (firstAddr as) as
def v1 := VC (S 0x10) false 1 m0 none 0 22
def v4 := VC (S 0x40010) false 1 m0 none 0 22
def x1 := VC (S 0x10) true 1 m0 none 0 22
def lkr (s : State) : State := { s with coh := { s.coh with txns := [⟨⟨.slice 0, 3, 0x200, .gets⟩, 1, 0⟩] } }
def l8 := CL (lkr (S 0x60010)) 4 m0
def s8 := CS (lkr (S 0x60010)) 4 m0
def v8 := VC (lkr (S 0x60010)) false 1 m0 none 0 22
def x8 := VC (lkr (S 0x60010)) true 1 m0 none 0 22
def x9 := VC (S 0x40010) true 1 m0 none 0 22
def pv (s : State) : State := { s with poison := [0x100040 / 32] }
def v5 := VC (pv (S 0x10)) false 1 m0 none 0 22

/-- The hypotheses of Loads hold together. -/
theorem witness_loads :
    (let s : State := (S 0x10)
    let u : State := (chkU l1)
    let v : State := (G l1 false)
    let sz : Size := .b4
    let m : MemOp := m0
    let ls : List Loc := (chkL l1)
    let n := sizeBytes sz
    let ea := readG s m.a + readG s m.b + m.disp.signExtend 64
    let as := (List.range n).map (fun i => ea + BitVec.ofNat 64 i)
    let checked := checkAccess s ⟨1, 0x100, true, false, false, true⟩ ea as
    checked = .ok u ls ∧ getLines u false ls = .ok v ∧ lowestPoison v as ls = none) ∧
   (let s : State := (S 0x40010)
    let u : State := (chkU l5)
    let w : State := (G l5 false)
    let sz : Size := .b4
    let m : MemOp := m0
    let ls : List Loc := (chkL l5)
    let n := sizeBytes sz
    let ea := readG s m.a + readG s m.b + m.disp.signExtend 64
    let as := (List.range n).map (fun i => ea + BitVec.ofNat 64 i)
    let checked := checkAccess s ⟨1, 0x100, true, false, false, true⟩ ea as
    checked = .ok u ls ∧ getLines u false ls = .error w) ∧
   (let s : State := (lkr (S 0x60010))
    let w : State := (chkU l8)
    let sz : Size := .b4
    let m : MemOp := m0
    let n := sizeBytes sz
    let ea := readG s m.a + readG s m.b + m.disp.signExtend 64
    let as := (List.range n).map (fun i => ea + BitVec.ofNat 64 i)
    let checked := checkAccess s ⟨1, 0x100, true, false, false, true⟩ ea as
    checked = .wait w) ∧
   (let s : State := (pz (S 0x1E))
    let u : State := (chkU l6)
    let v : State := (G l6 false)
    let sz : Size := .b4
    let m : MemOp := m0
    let ls : List Loc := (chkL l6)
    let n := sizeBytes sz
    let ea := readG s m.a + readG s m.b + m.disp.signExtend 64
    let as := (List.range n).map (fun i => ea + BitVec.ofNat 64 i)
    let checked := checkAccess s ⟨1, 0x100, true, false, false, true⟩ ea as
    let a : Word := 0x20
    checked = .ok u ls ∧ getLines u false ls = .ok v ∧ lowestPoison v as ls = some a) := by
  refine ⟨?_, ?_, ?_, ?_⟩ <;> decide +kernel

/-- The hypotheses of ByteOrder hold together. -/
theorem witness_byteOrder :
    let i : Nat := 7
    i < 8 := by decide +kernel

/-- The hypotheses of Stores hold together. -/
theorem witness_stores :
    (let s : State := (S 0x10)
    let u : State := (chkU s1)
    let v : State := (G s1 true)
    let sz : Size := .b4
    let m : MemOp := m0
    let ls : List Loc := (chkL s1)
    let n := sizeBytes sz
    let ea := readG s m.a + readG s m.b + m.disp.signExtend 64
    let as := (List.range n).map (fun i => ea + BitVec.ofNat 64 i)
    let checked := checkAccess s ⟨2, 0x102, false, true, false, false⟩ ea as
    checked = .ok u ls ∧ getLines u true ls = .ok v) ∧
   (let s : State := (S 0x40010)
    let u : State := (chkU s5)
    let w : State := (G s5 true)
    let sz : Size := .b4
    let m : MemOp := m0
    let ls : List Loc := (chkL s5)
    let n := sizeBytes sz
    let ea := readG s m.a + readG s m.b + m.disp.signExtend 64
    let as := (List.range n).map (fun i => ea + BitVec.ofNat 64 i)
    let checked := checkAccess s ⟨2, 0x102, false, true, false, false⟩ ea as
    checked = .ok u ls ∧ getLines u true ls = .error w) ∧
   (let s : State := (lkr (S 0x60010))
    let w : State := (chkU s8)
    let sz : Size := .b4
    let m : MemOp := m0
    let n := sizeBytes sz
    let ea := readG s m.a + readG s m.b + m.disp.signExtend 64
    let as := (List.range n).map (fun i => ea + BitVec.ofNat 64 i)
    let checked := checkAccess s ⟨2, 0x102, false, true, false, false⟩ ea as
    checked = .wait w) := by
  refine ⟨?_, ?_, ?_⟩ <;> decide +kernel

/-- The hypotheses of OwnScratchpad hold together. -/
theorem witness_ownScratchpad :
    let s : State := (S 0xFE00000000000010)
    let sz : Size := .b4
    let m : MemOp := ⟨20, 0, 0⟩
    let n := sizeBytes sz
    let ea := readG s m.a + readG s m.b + m.disp.signExtend 64
    let off := ea.toNat % 2 ^ 48
    let c := ccOf s
    ea.toNat / 2 ^ 48 = 0xFE00 ∧ off + n ≤ padSize c ∧ c.scarve.toNat / 65536 % 256 = 0 ∧ c.tiles = [] ∧
      c.padPoison = [] := by decide +kernel

/-- The hypotheses of AddressTraps hold together. -/
theorem witness_addressTraps :
    (let s : State := (S 0x10010)
    let u : State := (wp (S 0x10010) 0x10010)
    let m : MemOp := m0
    let ea := readG s m.a + readG s m.b + m.disp.signExtend 64
    let line := ea &&& ~~~127
    let high := ea.toNat / 2 ^ 55
    let walks (a : Word) : Prop :=
      walkPages s s.curCell (ccOf s).desc [a.toNat / 65536] = .ok u ∧ poisonedWalk u s.curCell (ccOf s).desc [a] = none
    let walked (a : Word) := translate u s.curCell (ccOf s).desc a.toNat
    let e : TlbEntry := pg 0x10000 0x200000 true false false
    high = 0 ∧ walks ea ∧ walked ea = .ok e ∧ e.w = false ∧ walks line ∧ walked line = .ok e) ∧
   (let s : State := (S 0x30010)
    let u : State := (wp (S 0x30010) 0x30010)
    let m : MemOp := m0
    let ea := readG s m.a + readG s m.b + m.disp.signExtend 64
    let line := ea &&& ~~~127
    let high := ea.toNat / 2 ^ 55
    let walks (a : Word) : Prop :=
      walkPages s s.curCell (ccOf s).desc [a.toNat / 65536] = .ok u ∧ poisonedWalk u s.curCell (ccOf s).desc [a] = none
    let walked (a : Word) := translate u s.curCell (ccOf s).desc a.toNat
    let e : TlbEntry := pg 0x30000 0x400000 false true false
    high = 0 ∧ walks ea ∧ walked ea = .ok e ∧ e.r = false ∧ walks line ∧ walked line = .ok e) ∧
   (let s : State := (S 0x50000)
    let u : State := (wp (S 0x50000) 0x50000)
    let m : MemOp := m0
    let ea := readG s m.a + readG s m.b + m.disp.signExtend 64
    let line := ea &&& ~~~127
    let high := ea.toNat / 2 ^ 55
    let walks (a : Word) : Prop :=
      walkPages s s.curCell (ccOf s).desc [a.toNat / 65536] = .ok u ∧ poisonedWalk u s.curCell (ccOf s).desc [a] = none
    let walked (a : Word) := translate u s.curCell (ccOf s).desc a.toNat
    let l : Nat := 1
    high = 0 ∧ walks ea ∧ walked ea = .error l ∧ walks line ∧ walked line = .error l) ∧
   (let s : State := (S 0x80000000000000)
    let m : MemOp := m0
    let ea := readG s m.a + readG s m.b + m.disp.signExtend 64
    let high := ea.toNat / 2 ^ 55
    ea.toNat / 2 ^ 48 ≠ 0xFE00 ∧ high ≠ 0) ∧
   (let s : State := (S 0xFE00000000040000)
    let m : MemOp := m0
    let ea := readG s m.a + readG s m.b + m.disp.signExtend 64
    ea.toNat / 2 ^ 48 = 0xFE00 ∧ padSize (ccOf s) ≤ ea.toNat % 2 ^ 48) := by
  refine ⟨?_, ?_, ?_, ?_, ?_⟩ <;> decide +kernel

/-- The hypotheses of AccessFaults hold together. -/
theorem witness_accessFaults :
    let s : State := (S 0x30010)
    let sz : Size := .b4
    let m : MemOp := m0
    let b : Bad := .prot
    let ea := readG s m.a + readG s m.b + m.disp.signExtend 64
    ((∀ pa, (slotOf s).stall ≠ .home pa)) ∧ ea.toNat % sizeBytes sz = 0 := by
  refine ⟨?_, by decide +kernel⟩
  exact no_home (by decide +kernel)

/-- The hypotheses of VectorLoads hold together. -/
theorem witness_vectorLoads :
    (let s : State := (S 0x10)
    let u : State := (chkU v1)
    let v : State := (G v1 false)
    let sz : VSize := .b1
    let d : VReg := 22
    let m : MemOp := m0
    let k : MaskSel := ⟨none, false⟩
    let form : Fin 3 := 0
    let ls : List Loc := (chkL v1)
    let n := vsizeBytes sz
    let ea := readG s m.a + readG s m.b + m.disp.signExtend 64
    let ix := readV s (d + 1)
    let act (i : Nat) : Bool := match k.mask with
      | none => true
      | some r => (readM s r).getLsbD i
    let at_ (i : Nat) : Word := match form with
      | 0 => ea + BitVec.ofNat 64 (i * n)
      | 1 => ea + BitVec.ofNat 64 i * readG s m.b
      | 2 => ea + BitVec.ofNat 64 ((lane (8 * n) ix i).toNat * n)
    let lanes := (List.range (128 / n)).filter act
    let as := lanes.flatMap (fun i => (List.range n).map (fun j => at_ i + BitVec.ofNat 64 j))
    let acc : Access := ⟨1, match form with | 0 => 0x4E0 | 1 => 0x4E4 | 2 => 0x4E8, true, false, false, true⟩
    let checked := checkAccess s acc (firstAddr as) as
    checked = .ok u ls ∧ getLines u false ls = .ok v ∧ lowestPoison v as ls = none) ∧
   (let s : State := (S 0x40010)
    let u : State := (chkU v4)
    let w : State := (G v4 false)
    let sz : VSize := .b1
    let d : VReg := 22
    let m : MemOp := m0
    let k : MaskSel := ⟨none, false⟩
    let form : Fin 3 := 0
    let ls : List Loc := (chkL v4)
    let n := vsizeBytes sz
    let ea := readG s m.a + readG s m.b + m.disp.signExtend 64
    let ix := readV s (d + 1)
    let act (i : Nat) : Bool := match k.mask with
      | none => true
      | some r => (readM s r).getLsbD i
    let at_ (i : Nat) : Word := match form with
      | 0 => ea + BitVec.ofNat 64 (i * n)
      | 1 => ea + BitVec.ofNat 64 i * readG s m.b
      | 2 => ea + BitVec.ofNat 64 ((lane (8 * n) ix i).toNat * n)
    let lanes := (List.range (128 / n)).filter act
    let as := lanes.flatMap (fun i => (List.range n).map (fun j => at_ i + BitVec.ofNat 64 j))
    let acc : Access := ⟨1, match form with | 0 => 0x4E0 | 1 => 0x4E4 | 2 => 0x4E8, true, false, false, true⟩
    let checked := checkAccess s acc (firstAddr as) as
    checked = .ok u ls ∧ getLines u false ls = .error w) ∧
   (let s : State := (lkr (S 0x60010))
    let w : State := (chkU v8)
    let sz : VSize := .b1
    let d : VReg := 22
    let m : MemOp := m0
    let k : MaskSel := ⟨none, false⟩
    let form : Fin 3 := 0
    let n := vsizeBytes sz
    let ea := readG s m.a + readG s m.b + m.disp.signExtend 64
    let ix := readV s (d + 1)
    let act (i : Nat) : Bool := match k.mask with
      | none => true
      | some r => (readM s r).getLsbD i
    let at_ (i : Nat) : Word := match form with
      | 0 => ea + BitVec.ofNat 64 (i * n)
      | 1 => ea + BitVec.ofNat 64 i * readG s m.b
      | 2 => ea + BitVec.ofNat 64 ((lane (8 * n) ix i).toNat * n)
    let lanes := (List.range (128 / n)).filter act
    let as := lanes.flatMap (fun i => (List.range n).map (fun j => at_ i + BitVec.ofNat 64 j))
    let acc : Access := ⟨1, match form with | 0 => 0x4E0 | 1 => 0x4E4 | 2 => 0x4E8, true, false, false, true⟩
    let checked := checkAccess s acc (firstAddr as) as
    checked = .wait w) ∧
   (let s : State := (pv (S 0x10))
    let u : State := (chkU v5)
    let v : State := (G v5 false)
    let sz : VSize := .b1
    let d : VReg := 22
    let m : MemOp := m0
    let k : MaskSel := ⟨none, false⟩
    let form : Fin 3 := 0
    let ls : List Loc := (chkL v5)
    let n := vsizeBytes sz
    let ea := readG s m.a + readG s m.b + m.disp.signExtend 64
    let ix := readV s (d + 1)
    let act (i : Nat) : Bool := match k.mask with
      | none => true
      | some r => (readM s r).getLsbD i
    let at_ (i : Nat) : Word := match form with
      | 0 => ea + BitVec.ofNat 64 (i * n)
      | 1 => ea + BitVec.ofNat 64 i * readG s m.b
      | 2 => ea + BitVec.ofNat 64 ((lane (8 * n) ix i).toNat * n)
    let lanes := (List.range (128 / n)).filter act
    let as := lanes.flatMap (fun i => (List.range n).map (fun j => at_ i + BitVec.ofNat 64 j))
    let acc : Access := ⟨1, match form with | 0 => 0x4E0 | 1 => 0x4E4 | 2 => 0x4E8, true, false, false, true⟩
    let checked := checkAccess s acc (firstAddr as) as
    let a : Word := 0x40
    checked = .ok u ls ∧ getLines u false ls = .ok v ∧ lowestPoison v as ls = some a) := by
  refine ⟨?_, ?_, ?_, ?_⟩ <;> decide +kernel

/-- The hypotheses of VectorStores hold together. -/
theorem witness_vectorStores :
    (let s : State := (S 0x10)
    let u : State := (chkU x1)
    let v : State := (G x1 true)
    let sz : VSize := .b1
    let d : VReg := 22
    let m : MemOp := m0
    let k : Option MReg := none
    let form : Fin 3 := 0
    let ls : List Loc := (chkL x1)
    let n := vsizeBytes sz
    let ea := readG s m.a + readG s m.b + m.disp.signExtend 64
    let ix := readV s (d + 1)
    let act (i : Nat) : Bool := match k with
      | none => true
      | some r => (readM s r).getLsbD i
    let at_ (i : Nat) : Word := match form with
      | 0 => ea + BitVec.ofNat 64 (i * n)
      | 1 => ea + BitVec.ofNat 64 i * readG s m.b
      | 2 => ea + BitVec.ofNat 64 ((lane (8 * n) ix i).toNat * n)
    let lanes := (List.range (128 / n)).filter act
    let as := lanes.flatMap (fun i => (List.range n).map (fun j => at_ i + BitVec.ofNat 64 j))
    let acc : Access := ⟨2, match form with | 0 => 0x4E2 | 1 => 0x4E6 | 2 => 0x4EA, false, true, false, false⟩
    let checked := checkAccess s acc (firstAddr as) as
    checked = .ok u ls ∧ getLines u true ls = .ok v) ∧
   (let s : State := (S 0x40010)
    let u : State := (chkU x9)
    let w : State := (G x9 true)
    let sz : VSize := .b1
    let d : VReg := 22
    let m : MemOp := m0
    let k : Option MReg := none
    let form : Fin 3 := 0
    let ls : List Loc := (chkL x9)
    let n := vsizeBytes sz
    let ea := readG s m.a + readG s m.b + m.disp.signExtend 64
    let ix := readV s (d + 1)
    let act (i : Nat) : Bool := match k with
      | none => true
      | some r => (readM s r).getLsbD i
    let at_ (i : Nat) : Word := match form with
      | 0 => ea + BitVec.ofNat 64 (i * n)
      | 1 => ea + BitVec.ofNat 64 i * readG s m.b
      | 2 => ea + BitVec.ofNat 64 ((lane (8 * n) ix i).toNat * n)
    let lanes := (List.range (128 / n)).filter act
    let as := lanes.flatMap (fun i => (List.range n).map (fun j => at_ i + BitVec.ofNat 64 j))
    let acc : Access := ⟨2, match form with | 0 => 0x4E2 | 1 => 0x4E6 | 2 => 0x4EA, false, true, false, false⟩
    let checked := checkAccess s acc (firstAddr as) as
    checked = .ok u ls ∧ getLines u true ls = .error w) ∧
   (let s : State := (lkr (S 0x60010))
    let w : State := (chkU x8)
    let sz : VSize := .b1
    let d : VReg := 22
    let m : MemOp := m0
    let k : Option MReg := none
    let form : Fin 3 := 0
    let n := vsizeBytes sz
    let ea := readG s m.a + readG s m.b + m.disp.signExtend 64
    let ix := readV s (d + 1)
    let act (i : Nat) : Bool := match k with
      | none => true
      | some r => (readM s r).getLsbD i
    let at_ (i : Nat) : Word := match form with
      | 0 => ea + BitVec.ofNat 64 (i * n)
      | 1 => ea + BitVec.ofNat 64 i * readG s m.b
      | 2 => ea + BitVec.ofNat 64 ((lane (8 * n) ix i).toNat * n)
    let lanes := (List.range (128 / n)).filter act
    let as := lanes.flatMap (fun i => (List.range n).map (fun j => at_ i + BitVec.ofNat 64 j))
    let acc : Access := ⟨2, match form with | 0 => 0x4E2 | 1 => 0x4E6 | 2 => 0x4EA, false, true, false, false⟩
    let checked := checkAccess s acc (firstAddr as) as
    checked = .wait w) := by
  refine ⟨?_, ?_, ?_⟩ <;> decide +kernel

/-- The hypotheses of Atomics hold together. -/
theorem witness_atomics :
    (let s : State := (S 0x12)
    let sz : Size := .b4
    let m : MemOp := m0
    let n := sizeBytes sz
    let ea := readG s m.a + readG s m.b + m.disp.signExtend 64
    let asking : Prop := ∃ q, (slotOf s).stall = .home q
    ¬asking ∧ ea.toNat % n ≠ 0) ∧
   (let s : State := (S 0xFE00000000000010)
    let sz : Size := .b4
    let m : MemOp := m0
    let n := sizeBytes sz
    let ea := readG s m.a + readG s m.b + m.disp.signExtend 64
    let asking : Prop := ∃ q, (slotOf s).stall = .home q
    let off := ea.toNat % 2 ^ 48
    let c := ccOf s
    ¬asking ∧ ea.toNat / 2 ^ 48 = 0xFE00 ∧ off % n = 0 ∧ off + n ≤ padSize c ∧ c.scarve.toNat / 65536 % 256 = 0 ∧ c.tiles = [] ∧
      c.padPoison = []) := by
  refine ⟨?_, ?_⟩
  · refine ⟨?_, by decide +kernel⟩
    exact none_home (by decide +kernel)
  · refine ⟨?_, by decide +kernel, by decide +kernel, by decide +kernel, by decide +kernel, by decide +kernel, by decide +kernel⟩
    exact none_home (by decide +kernel)

end Access

namespace Relay

def stx1 : StxMsg := ⟨5, 9, 0, 0, 5, 0x20, [1,2,3,4], none⟩
def X (s : State) (l : List StxMsg) : State := { s with stxs := l }
def carve (s : State) (w : Word) : State := putCcOf s { ccOf s with scarve := w, spad := [(0xF010, 3), (0x20, 9)] }
def lv9 (b : Barrier) (s : State) : State := { s with cells := s.cells ++ [(9, { cell0 with cc := { cc0 with barriers := [(3, b)] } })] }
def L1 (s : State) (st : Moesi) : State :=
  { s with coh := { s.coh with l1 := [(0x100000 / 128, ⟨st, 3, 15, if st = .m then 1 else 0⟩)], dirs := [(0x100000 / 128, ⟨3, st, false, 0, [], 0, .m, 1, 0⟩)], homes := [(0x100000 / 128, ⟨1, .m, 1, 0⟩)] } }
def cw (s : State) (op : BitVec 12) (n : Nat) : Checked := checkAccess s ⟨7, op, op == 0x108, op == 0x10A, false,
  true⟩ (ea s ⟨20,0,0⟩ &&& ~~~127) ((List.range n).map (fun i => (ea s ⟨20,0,0⟩ &&& ~~~127) + BitVec.ofNat 64 (128 * i)))
def cl (s : State) (op : BitVec 12) (n : Nat) := chkL (cw s op n)
def mm : MemOp := ⟨20, 0, 0⟩
def lv (s : State) (m : Moesi) : State := { L1 s m with coh := { (L1 s m).coh with txns := [⟨⟨.home, 1, 0x100000/128, .gets⟩, 1, 0⟩] } }
def pn (s : State) : State := { L1 s .m with coh := { (L1 s .m).coh with pins := [⟨0, 0x100000/128, false⟩] } }
def bar (b : Barrier) (s : State) : State := putCcOf s { ccOf s with barriers := [(3, b)] }
def rep (l : List ReportMsg) (s : State) : State := { s with reports := l }
def w1 (r : SlotRun) (k : Fin 4) (s : State) : State := putSlotAt s 0 k { slot0 with run := r }
def lkr (s : State) : State := { s with coh := { s.coh with txns := [⟨⟨.slice 0, 3, 0x200, .gets⟩, 1, 0⟩] } }

/-- The hypotheses of RelayedStores hold together. -/
theorem witness_relayedStores :
    (let s : State := (X (carve st 0x10F02) [stx1])
    let m : MemOp := ⟨20, 0, 0⟩
    let i : Nat := 0
    let x : StxMsg := stx1
    let ea := readG s m.a + readG s m.b + m.disp.signExtend 64
    let dest := ea.toNat / 2 ^ 20 % 1024
    let ok : Prop := ea.toNat / 2 ^ 48 = 0xFE01 ∧ ea.toNat / 2 ^ 30 % 2 ^ 18 = 0 ∧ ea.toNat / 65536 % 16 = 0 ∧ dest < cellCount s
    let blocked : Prop := ∃ e ∈ s.stxs.take i, e.cell = x.cell ∧ e.slot = x.slot ∧ e.dest = x.dest ∧ e.id ≠ x.id
    ¬ok ∧ s.stxs[i]? = some x ∧ arrived s x.via = true ∧ ¬blocked) ∧
   (let s : State := (S 0xFE0100000070001E)
    let sz : Size := .b4
    let m : MemOp := ⟨20, 0, 0⟩
    let n := sizeBytes sz
    let ea := readG s m.a + readG s m.b + m.disp.signExtend 64
    let off := ea.toNat % 65536
    let dest := ea.toNat / 2 ^ 20 % 1024
    let ok : Prop := ea.toNat / 2 ^ 48 = 0xFE01 ∧ ea.toNat / 2 ^ 30 % 2 ^ 18 = 0 ∧ ea.toNat / 65536 % 16 = 0 ∧ dest < cellCount s
    ok ∧ off + n ≤ 65536) ∧
   (let s : State := (S 0xFE0100000070FFFE)
    let sz : Size := .b4
    let m : MemOp := ⟨20, 0, 0⟩
    let n := sizeBytes sz
    let ea := readG s m.a + readG s m.b + m.disp.signExtend 64
    let off := ea.toNat % 65536
    let dest := ea.toNat / 2 ^ 20 % 1024
    let ok : Prop := ea.toNat / 2 ^ 48 = 0xFE01 ∧ ea.toNat / 2 ^ 30 % 2 ^ 18 = 0 ∧ ea.toNat / 65536 % 16 = 0 ∧ dest < cellCount s
    ok ∧ 65536 < off + n) ∧
   (let s : State := (lv9 ⟨0, 2, 4, 4, 9, true, [], [], [7], false⟩ (X (carve st 0x10F02) [stx1, { stx1 with id := 7 }]))
    let m : MemOp := ⟨20, 0, 0⟩
    let i : Nat := 1
    let x : StxMsg := { stx1 with id := 7 }
    let ea := readG s m.a + readG s m.b + m.disp.signExtend 64
    let dest := ea.toNat / 2 ^ 20 % 1024
    let blocked : Prop := ∃ e ∈ s.stxs.take i, e.cell = x.cell ∧ e.slot = x.slot ∧ e.dest = x.dest ∧ e.id ≠ x.id
    s.stxs[i]? = some x ∧ (arrived s x.via = false ∨ blocked)) := by
  refine ⟨?_, ?_, ?_, ?_⟩ <;> decide +kernel

/-- The hypotheses of CacheMaintenance hold together. -/
theorem witness_cacheMaintenance :
    (let s : State := (lkr (S 0x60010))
    let w : State := (chkU (cw (lkr (S 0x60010)) 0x108 1))
    let n1 : Fin 128 := 0
    let m : MemOp := mm
    let ea := readG s m.a + readG s m.b + m.disp.signExtend 64
    let first := ea &&& ~~~127
    let bases := ((List.range (n1.val + 1)).map (fun i => first + BitVec.ofNat 64 (128 * i))).filter
      (fun a => a.toNat / 2 ^ 48 ≠ 0xFE00)
    let wb := checkAccess s ⟨7, 0x108, true, false, false, true⟩ first bases
    let inv := checkAccess s ⟨7, 0x10A, false, true, false, true⟩ first bases
    wb = .wait w ∧ inv = .wait w) ∧
   (let s : State := (lv (S 0x10) .m)
    let u : State := (chkU (cw (lv (S 0x10) .m) 0x108 1))
    let n1 : Fin 128 := 0
    let m : MemOp := mm
    let ls : List Loc := (cl (lv (S 0x10) .m) 0x108 1)
    let ea := readG s m.a + readG s m.b + m.disp.signExtend 64
    let first := ea &&& ~~~127
    let bases := ((List.range (n1.val + 1)).map (fun i => first + BitVec.ofNat 64 (128 * i))).filter
      (fun a => a.toNat / 2 ^ 48 ≠ 0xFE00)
    let busy : Prop := ∃ line ∈ linesOf ls, lineBusy u line = true
    let wb := checkAccess s ⟨7, 0x108, true, false, false, true⟩ first bases
    let inv := checkAccess s ⟨7, 0x10A, false, true, false, true⟩ first bases
    wb = .ok u ls ∧ busy ∧ inv = .ok u ls) ∧
   (let s : State := (pn (S 0x10))
    let u : State := (chkU (cw (pn (S 0x10)) 0x10A 1))
    let n1 : Fin 128 := 0
    let m : MemOp := mm
    let ls : List Loc := (cl (pn (S 0x10)) 0x10A 1)
    let ea := readG s m.a + readG s m.b + m.disp.signExtend 64
    let first := ea &&& ~~~127
    let bases := ((List.range (n1.val + 1)).map (fun i => first + BitVec.ofNat 64 (128 * i))).filter
      (fun a => a.toNat / 2 ^ 48 ≠ 0xFE00)
    let busy : Prop := ∃ line ∈ linesOf ls, lineBusy u line = true
    let wb := checkAccess s ⟨7, 0x108, true, false, false, true⟩ first bases
    let inv := checkAccess s ⟨7, 0x10A, false, true, false, true⟩ first bases
    wb = .ok u ls ∧ ¬busy ∧ inv = .ok u ls) := by
  refine ⟨?_, ?_, ?_⟩ <;> decide +kernel

/-- The hypotheses of BarrierSetup hold together. -/
theorem witness_barrierSetup :
    (let s : State := (S 0x100000005)
    let a : GReg := 20
    let b : Fin 256 := 3
    let w := readG s a
    let c := ccOf s
    let e := barrierOf c b
    let mask := w.toNat / 2 ^ 32
    let scope := w.toNat / 2 ^ 16 % 8
    let p := physOf s s.curCell
    let valid : Prop := w.toNat / 2 ^ 19 % 2 ^ 13 = 0 ∧ w.toNat % 2 ^ 16 ≠ 0 ∧
      (scope = 0 ∧ mask = 0 ∨ scope = 1 ∧ mask < 256 ∧ mask.testBit (p % 8) = true ∨
        scope = 2 ∧ mask.testBit (p / 8 % 32) = true)
    e.arr = 0 ∧ ¬valid) ∧
   (let s : State := (S 0x100010005)
    let a : GReg := 20
    let b : Fin 256 := 3
    let w := readG s a
    let c := ccOf s
    let e := barrierOf c b
    let mask := w.toNat / 2 ^ 32
    let scope := w.toNat / 2 ^ 16 % 8
    let p := physOf s s.curCell
    let valid : Prop := w.toNat / 2 ^ 19 % 2 ^ 13 = 0 ∧ w.toNat % 2 ^ 16 ≠ 0 ∧
      (scope = 0 ∧ mask = 0 ∨ scope = 1 ∧ mask < 256 ∧ mask.testBit (p % 8) = true ∨
        scope = 2 ∧ mask.testBit (p / 8 % 32) = true)
    e.arr = 0 ∧ valid) ∧
   (let s : State := (bar ⟨1, 1, 4, 2, 9, true, [], [], [], false⟩ (S 0x300010005))
    let b : Fin 256 := 3
    let c := ccOf s
    let e := barrierOf c b
    e.arr ≠ 0) := by
  refine ⟨?_, ?_, ?_⟩ <;> decide +kernel

/-- The hypotheses of Arrivals hold together. -/
theorem witness_arrivals :
    (let s : State := (bar ⟨1, 1, 4, 1, 9, false, [], [], [], false⟩ (X st [⟨8, 0, 0, 1, 5, 0, [1], none⟩]))
    let b : Fin 256 := 3
    let c := ccOf s
    let e := barrierOf c b
    let ids := pendingStxs s s.curCell s.curSlot
    let last : Prop := e.arr + 1 = e.count ∧ e.reported = false ∧ ∀ i ∈ e.stxs ++ ids, ∀ m ∈ s.stxs, m.id ≠ i
    let a : GReg := 1
    let w : BitVec 32 := (readG s a).setWidth 32
    e.count ≠ 0 ∧ e.arr ≠ e.count ∧ ¬last ∧ (e.gen - w).toNat < 2 ^ 31) ∧
   (let s : State := st
    let b : Fin 256 := 3
    let c := ccOf s
    let e := barrierOf c b
    e.count = 0) ∧
   (let s : State := (bar ⟨1, 1, 4, 1, 9, false, [], [], [], false⟩ (X st [⟨8, 0, 0, 1, 5, 0, [1], none⟩]))
    let b : Fin 256 := 3
    let c := ccOf s
    let e := barrierOf c b
    let a : GReg := 13
    let w : BitVec 32 := (readG s a).setWidth 32
    e.count ≠ 0 ∧ 2 ^ 31 ≤ (e.gen - w).toNat) ∧
   (let s : State := (bar ⟨1, 1, 4, 4, 9, true, [], [], [], true⟩ st)
    let b : Fin 256 := 3
    let c := ccOf s
    let e := barrierOf c b
    e.count ≠ 0 ∧ e.arr = e.count) ∧
   (let s : State := (bar ⟨3, 1, 4, 3, 9, false, [], [], [], false⟩ st)
    let b : Fin 256 := 3
    let c := ccOf s
    let e := barrierOf c b
    let ids := pendingStxs s s.curCell s.curSlot
    let last : Prop := e.arr + 1 = e.count ∧ e.reported = false ∧ ∀ i ∈ e.stxs ++ ids, ∀ m ∈ s.stxs, m.id ≠ i
    e.count ≠ 0 ∧ last) := by
  refine ⟨?_, ?_, ?_, ?_, ?_⟩ <;> decide +kernel

/-- The hypotheses of BarrierCompletion hold together. -/
theorem witness_barrierCompletion :
    (let s : State := (rep [⟨0, 1, 5, 3, 10, false⟩] (bar ⟨3, 1, 4, 3, 9, false, [(0, 10)], [], [8],
         false⟩ (w1 (.wait (.token 3 10 true)) 1 (w1 (.wait (.bwait 3 11)) 2 (carve st 0x10F02)))))
    let i : Nat := 0
    let r : ReportMsg := ⟨0, 1, 5, 3, 10, false⟩
    let c : CtxCell := ccAt s r.dest
    s.reports[i]? = some r ∧ ctxFind s r.dest r.ctxid = some c) ∧
   (let s : State := (rep [⟨0, 1, 6, 3, 10, false⟩] (carve st 0x10F02))
    let i : Nat := 0
    let r : ReportMsg := ⟨0, 1, 6, 3, 10, false⟩
    s.reports[i]? = some r ∧ ctxFind s r.dest r.ctxid = none) := by
  refine ⟨?_, ?_⟩ <;> decide +kernel

end Relay

namespace Tasks

def jb (arm : Bool) (s : State) : Checked := checkAccess s (if arm then ⟨4, 0x164, false, true, false, false⟩ else ⟨4, 0x166, true,
  true, false, false⟩) (readG s 20) [readG s 20]
def jf : TrapInfo := ⟨4, 0, 0⟩
def jt (c : Checked) : TrapInfo := match c with | .trap _ t => t | _ => jf
def jv (s : State) : State := exU (getLines (chkU (jb true s)) true (chkL (jb true s)))
def jj := joins (List.replicate 16 e17) (S 0x80)
def SF (w : Word) : State := setG stF 20 w
def lkr (s : State) : State := { s with coh := { s.coh with txns := [⟨⟨.slice 0, 3, 0x200, .gets⟩, 1, 0⟩] } }

/-- The hypotheses of DeferredReleases hold together. -/
theorem witness_deferredReleases :
    (let s : State := (S 0x4A5)
    let b : GReg := 20
    let x := slotOf s
    let d := readG s b
    let chan : Fin 32 := Fin.ofNat 32 d.toNat
    let room := x.release.length < 16
    let ok : Prop := d.toNat < 2 ^ 27 ∧ chan.val < 30
    room ∧ ok) ∧
   (let s : State := (rel (List.replicate 16 (.spawn (fr 1))) (S 0x4A5))
    let b : GReg := 20
    let x := slotOf s
    let d := readG s b
    let chan : Fin 32 := Fin.ofNat 32 d.toNat
    let room := x.release.length < 16
    let ok : Prop := d.toNat < 2 ^ 27 ∧ chan.val < 30
    ¬room ∧ ok) ∧
   (let s : State := (S 0x4BE)
    let b : GReg := 20
    let d := readG s b
    let chan : Fin 32 := Fin.ofNat 32 d.toNat
    d.toNat < 2 ^ 27 ∧ 30 ≤ chan.val) ∧
   (let s : State := (S 0x80000A5)
    let b : GReg := 20
    let d := readG s b
    2 ^ 27 ≤ d.toNat) := by
  refine ⟨?_, ?_, ?_, ?_⟩ <;> decide +kernel

/-- The hypotheses of JoinBlocks hold together. -/
theorem witness_joinBlocks :
    (let s : State := (S 0x80)
    let u : State := (chkU (jb false (S 0x80)))
    let v : State := (jv (S 0x80))
    let a : GReg := 20
    let d : GReg := 0
    let pa : Nat := 0x100080
    let x := slotOf s
    let blk := readG s a
    let n := (readG s d).toInt
    let aligned : Prop := blk.toNat < 2 ^ 55 ∧ blk.toNat % 128 = 0
    let arm := checkAccess s ⟨4, 0x164, false, true, false, false⟩ blk [blk]
    let join := checkAccess s ⟨4, 0x166, true, true, false, false⟩ blk [blk]
    let free : Prop := x.joins.length < 16
    let block : List Loc := (List.range 4).map (fun i => .mem (pa + i)) ++ (List.range 64).map (fun i => .mem (pa + 64 + i))
    aligned ∧ join = .ok u [.mem pa] ∧ free ∧ arm = .ok u [.mem pa] ∧ 0 ≤ n ∧ n < 2 ^ 31 ∧ (n ≠ 0 ∨ free) ∧ getLines u true block = .ok v) ∧
   (let s : State := (lkr (S 0x60000))
    let w : State := (chkU (jb false (lkr (S 0x60000))))
    let a : GReg := 20
    let blk := readG s a
    let aligned : Prop := blk.toNat < 2 ^ 55 ∧ blk.toNat % 128 = 0
    let arm := checkAccess s ⟨4, 0x164, false, true, false, false⟩ blk [blk]
    let join := checkAccess s ⟨4, 0x166, true, true, false, false⟩ blk [blk]
    aligned ∧ arm = .wait w ∧ join = .wait w) ∧
   (let s : State := jj
    let u : State := (chkU (jb true jj))
    let a : GReg := 20
    let d : GReg := 0
    let pa : Nat := 0x100080
    let x := slotOf s
    let blk := readG s a
    let n := (readG s d).toInt
    let aligned : Prop := blk.toNat < 2 ^ 55 ∧ blk.toNat % 128 = 0
    let arm := checkAccess s ⟨4, 0x164, false, true, false, false⟩ blk [blk]
    let join := checkAccess s ⟨4, 0x166, true, true, false, false⟩ blk [blk]
    let free : Prop := x.joins.length < 16
    aligned ∧ join = .ok u [.mem pa] ∧ ¬free ∧ arm = .ok u [.mem pa] ∧ n = 0) ∧
   (let s : State := (S 0x50000)
    let u : State := (chkU (jb false (S 0x50000)))
    let a : GReg := 20
    let f : TrapInfo := (jt (jb false (S 0x50000)))
    let blk := readG s a
    let aligned : Prop := blk.toNat < 2 ^ 55 ∧ blk.toNat % 128 = 0
    let join := checkAccess s ⟨4, 0x166, true, true, false, false⟩ blk [blk]
    aligned ∧ join = .trap u f) ∧
   (let s : State := (S 0x50000)
    let u : State := (chkU (jb true (S 0x50000)))
    let a : GReg := 20
    let f : TrapInfo := (jt (jb true (S 0x50000)))
    let blk := readG s a
    let aligned : Prop := blk.toNat < 2 ^ 55 ∧ blk.toNat % 128 = 0
    let arm := checkAccess s ⟨4, 0x164, false, true, false, false⟩ blk [blk]
    aligned ∧ arm = .trap u f) ∧
   (let s : State := (S 0x80)
    let u : State := (chkU (jb true (S 0x80)))
    let a : GReg := 20
    let d : GReg := 3
    let pa : Nat := 0x100080
    let blk := readG s a
    let n := (readG s d).toInt
    let aligned : Prop := blk.toNat < 2 ^ 55 ∧ blk.toNat % 128 = 0
    let arm := checkAccess s ⟨4, 0x164, false, true, false, false⟩ blk [blk]
    aligned ∧ arm = .ok u [.mem pa] ∧ (n < 0 ∨ 2 ^ 31 ≤ n)) ∧
   (let s : State := (S 0x88)
    let a : GReg := 20
    let blk := readG s a
    let aligned : Prop := blk.toNat < 2 ^ 55 ∧ blk.toNat % 128 = 0
    ¬aligned) ∧
   (let s : State := (SF 0x40080)
    let u : State := (chkU (jb true (SF 0x40080)))
    let w : State := (jv (SF 0x40080))
    let a : GReg := 20
    let d : GReg := 1
    let pa : Nat := 0x3000100080
    let x := slotOf s
    let blk := readG s a
    let n := (readG s d).toInt
    let aligned : Prop := blk.toNat < 2 ^ 55 ∧ blk.toNat % 128 = 0
    let arm := checkAccess s ⟨4, 0x164, false, true, false, false⟩ blk [blk]
    let free : Prop := x.joins.length < 16
    let block : List Loc := (List.range 4).map (fun i => .mem (pa + i)) ++ (List.range 64).map (fun i => .mem (pa + 64 + i))
    aligned ∧ arm = .ok u [.mem pa] ∧ 0 ≤ n ∧ n < 2 ^ 31 ∧ (n ≠ 0 ∨ free) ∧ getLines u true block = .error w) := by
  refine ⟨?_, ?_, ?_, ?_, ?_, ?_, ?_, ?_⟩ <;> decide +kernel

/-- The hypotheses of EventPosting hold together. -/
theorem witness_eventPosting :
    (let c : CtxCell := cc0
    let q := c.chans[31].queue
    let k : Fin 32 := 30
    q.length < 8 ∧ k ≠ 31) ∧
   (let c : CtxCell := { cc0 with chans := cc0.chans.set 31 ⟨0xC, List.replicate 8 (fr 1), 0, 0⟩ }
    let q := c.chans[31].queue
    8 ≤ q.length ∧ c.dropped ≠ BitVec.allOnes 64) ∧
   (let c : CtxCell := { cc0 with dropped := BitVec.allOnes 64, chans := cc0.chans.set 31 ⟨0xC, List.replicate 8 (fr 1), 0, 0⟩ }
    let q := c.chans[31].queue
    8 ≤ q.length ∧ c.dropped = BitVec.allOnes 64) := by
  refine ⟨?_, ?_, ?_⟩ <;> decide +kernel

/-- The hypotheses of TrapAndReturn hold together. -/
theorem witness_trapAndReturn :
    (let s : State := (tipd (lvl st 1))
    let x := slotOf s
    x.level = 1) ∧
   (let s : State := (tipd (lvl st 2))
    let x := slotOf s
    x.level = 2) ∧
   (let s : State := (tipd st)
    let x := slotOf s
    x.level = 0) := by
  refine ⟨?_, ?_, ?_⟩ <;> decide +kernel

/-- The hypotheses of TrapEntry hold together. -/
theorem witness_trapEntry :
    (let s : State := (msg (tipd (lvl st 2)))
    let x := slotOf s
    let c := ccOf s
    let cell := cellAt s s.curCell
    let closes : Prop := cell.live = true ∧ cell.preempt = some c.desc.ctxid ∧
      dispatcherUp s (Fin.ofNat 4 (myDie s)) = true
    let message : Prop := x.sframe.toNat / 2 ^ 28 % 16 = 1
    let ch : Fin 32 := 5
    x.level = 2 ∧ ¬closes ∧ x.source = .channel ch ∧ message) ∧
   (let s : State := (upCell (fun x => { x with preempt := some 5 }) (lvl st 2))
    let x := slotOf s
    let c := ccOf s
    let cell := cellAt s s.curCell
    let closes : Prop := cell.live = true ∧ cell.preempt = some c.desc.ctxid ∧
      dispatcherUp s (Fin.ofNat 4 (myDie s)) = true
    x.level = 2 ∧ closes ∧ x.source = .hod) ∧
   (let s : State := (tipd (lvl st 1))
    let x := slotOf s
    x.level = 1) ∧
   (let s : State := (tipd st)
    let x := slotOf s
    x.level = 0) ∧
   (let s : State := (upS (fun x => { x with source := .channel 5, sframe := 7 }) (lvl st 2))
    let x := slotOf s
    let message : Prop := x.sframe.toNat / 2 ^ 28 % 16 = 1
    let ch : Fin 32 := 5
    x.level = 2 ∧ x.source = .channel ch ∧ ¬message) := by
  refine ⟨?_, ?_, ?_, ?_, ?_⟩ <;> decide +kernel

/-- The hypotheses of Abort hold together. -/
theorem witness_abort :
    (let s : State := (msg (tipd (lvl st 2)))
    let x := slotOf s
    x.level ≠ 0) ∧
   (let s : State := st
    let x := slotOf s
    x.level = 0) := by
  refine ⟨?_, ?_⟩ <;> decide +kernel

/-- The hypotheses of TlbInvalidation hold together. -/
theorem witness_tlbInvalidation :
    (let s : State := (S 0x20010)
    let e : TlbExtent := .all
    let desc := (ccOf s).desc
    let may : Prop := if e = .all then desc.sys = true else ¬UserMode s
    ¬may) ∧
   (let s : State := (lvl (S 0x20010) 1)
    let e : TlbExtent := (.context)
    let desc := (ccOf s).desc
    let may : Prop := if e = .all then desc.sys = true else ¬UserMode s
    may ∧ ((∀ r, e = .page r → (readG s r).toNat < 2 ^ 55))) ∧
   (let s : State := (lvl (S 0x80000000020010) 2)
    let a : GReg := 20
    let w := readG s a
    ¬UserMode s ∧ 2 ^ 55 ≤ w.toNat) := by
  refine ⟨?_, ?_, ?_⟩ <;> decide +kernel

end Tasks

namespace Commits

def jc (n : Nat) : State := jm n (joins [e17] st)
def eF : JoinEntry := { e17 with pa := 0x3000100000 }
def bz (s : State) : State := { s with coh := { s.coh with txns := [⟨⟨.home, 1, 0x100000/128, .gets⟩, 1, 0⟩] } }
def rg (p : Nat) (s : State) : State :=
  rel [.spawn (fr 1)] (upC (fun c => { c with hod := List.replicate 64 (fr 1), sspill := 7, ringPages := [p] }) s)
def rw (s : State) : State := exU (ringLines s 0 true 0 32)
def jr (s : State) (e : JoinEntry) : State := exU (homeReady s e.pa)
def jcn (s : State) (e : JoinEntry) : State :=
  let v := jr s e
  let n := (BitVec.ofNat 32 (physNat s e.pa 4)).toInt
  setStall (homeDone (if 1 ≤ n then memWrite v e.pa (bytesOf (n - 1).toNat 4) else v) (e.pa / 128)) .none
def jl (s : State) (e : JoinEntry) : State := exU (cellLine s 0 false e.pa)
def jw (s : State) (e : JoinEntry) : State := match homeReady s e.pa with | .ok _ => jl (jcn s e) e | .error w => w
def eR : JoinEntry := { e17 with releaseOnly := true }
def sh (i : Instr) (s : State) : State :=
  match i with | .endAct => s | _ => upCell (fun x => { x with committing := some 0 }) (upS (fun x => { x with run := .commit }) s)
def SH : Instr := .sendHandoff 0 0
def rp (v : Transit) (z : Word) (s : State) : State := upS (fun x => { x with stall := .reply 0 v z }) s
def far1 (n : Nat) : State :=
  { (jm 0 (joins [eF] st)) with dirty := [], mem := (bytesOf n 4).zipIdx.map (fun e => (0x3000100000 + e.2, e.1)) }
def cpp : State := upC (fun c => { c with cch := c.cch.set 1 ⟨0, [⟨true, 0, 0, 1, 64, 0, 0, 0⟩], false, false⟩ }) (jc 1)
def hom (n : Nat) : State :=
  let s := setStall (far1 n) (.home 0x3000100000); { s with coh := { s.coh with txns := [⟨atomReq s (0x3000100000/128), 0, 0⟩] } }

/-- The hypotheses of EndCommits hold together. -/
theorem witness_endCommits :
    (let s : State := (lvl st 1)
    let x := slotOf s
    let k : Nat := 15
    let sc : Nat := 7
    let q : Nat := 4194303
    x.level ≠ 0 ∧ k < 16 ∧ sc < 8 ∧ q < 2 ^ 22) ∧
   (let s : State := (rel [.send 0x123 7 (fr 3)] (upCell (fun x => { x with port := [out1] }) st))
    let flat : BitVec 22 := 0x123
    let ch : Fin 32 := 7
    let f : Frame := (fr 3)
    let x := slotOf s
    let cell := cellAt s s.curCell
    let c := cell.cc
    let quiet : Prop := x.level = 0 ∧ cell.committing = none ∧ cell.preempt = none ∧ x.joins = []
    quiet ∧ x.release = [.send flat ch f] ∧ 1 ≤ freeFrames c ∧ cell.port.length < 64) ∧
   (let s : State :=
        (rel [.spawn (fr 1), .spawn (fr 2)] (upC (fun c => { c with hod := List.replicate 62 (fr 1), domain := 2, fails := 3 }) st))
    let fs : List Frame := [fr 1, fr 2]
    let x := slotOf s
    let cell := cellAt s s.curCell
    let c := cell.cc
    let quiet : Prop := x.level = 0 ∧ cell.committing = none ∧ cell.preempt = none ∧ x.joins = []
    quiet ∧ fs ≠ [] ∧ x.release = fs.map .spawn ∧ c.hod.length + fs.length ≤ 64) ∧
   (let s : State := (rel [.spawn (fr 1), .spawn (fr 2)] (upC (fun c => { c with hod := List.replicate 63 (fr 1) }) st))
    let x := slotOf s
    let cell := cellAt s s.curCell
    let c := cell.cc
    let entries := x.release.length + x.joins.length
    x.level = 0 ∧ cell.committing = none ∧ freeFrames c < entries) ∧
   (let s : State := (rg 0x3000200000 st)
    let w : State := (rw (rg 0x3000200000 st))
    let f : Frame := (fr 1)
    let x := slotOf s
    let cell := cellAt s s.curCell
    let c := cell.cc
    let quiet : Prop := x.level = 0 ∧ cell.committing = none ∧ cell.preempt = none ∧ x.joins = []
    quiet ∧ x.release = [.spawn f] ∧ c.hod.length = 64 ∧ c.ringCount < ringCap c ∧
      ringLines s s.curCell true c.ringCount (min 32 (ringCap c - c.ringCount)) = .error w) ∧
   (let s : State := (upCell (fun x => { x with committing := some 1 }) st)
    let x := slotOf s
    let cell := cellAt s s.curCell
    x.level = 0 ∧ cell.committing ≠ none) ∧
   (let s : State := st
    let x := slotOf s
    let cell := cellAt s s.curCell
    let quiet : Prop := x.level = 0 ∧ cell.committing = none ∧ cell.preempt = none ∧ x.joins = []
    quiet ∧ x.release = []) := by
  refine ⟨?_, ?_, ?_, ?_, ?_, ?_, ?_⟩ <;> decide +kernel

/-- The hypotheses of JoinCommits hold together. -/
theorem witness_joinCommits :
    (let s : State := (hom 0)
    let v : State := (jr (hom 0) eF)
    let e : JoinEntry := eF
    let i : Instr := .endAct
    let g : GReg := 0
    let via : Transit := none
    let z : Word := 0
    let x := slotOf s
    let cell := cellAt s s.curCell
    let c := cell.cc
    let line := e.pa / 128
    let n := (BitVec.ofNat 32 (physNat s e.pa 4)).toInt
    let bad : Bool := (List.range 4).any (fun k => sectorBad v ((e.pa + k) / 32))
    let code : Nat := if bad then 6 else if n ≤ 0 then 1 else if n = 1 then 2 else 0
    let counted := setStall (homeDone (if code = 2 ∨ code = 0 then memWrite v e.pa (bytesOf (n - 1).toNat 4) else v) line) .none
    let far := trueHome v line
    let q : Nat := 0
    ((i = .endAct ∧ x.level = 0 ∧ cell.committing = none ∨ i = .sendHandoff s.curCell s.curSlot ∧ x.run = .commit)) ∧
       cell.preempt = none ∧ x.release = [] ∧ x.joins = [e] ∧ c.hod.length < 64 ∧ e.releaseOnly = false ∧
       ((∀ g via z, x.stall ≠ .reply g via z)) ∧ (copyPending s ((List.range 4).map (fun k => .mem (e.pa + k))) = false) ∧
        homeReady s e.pa = .ok v ∧ byLath counted far (myDie s) = true ∧ (q < e.pa ∨ e.pa + 4 ≤ q)) ∧
   (let s : State := (bz (jc 1))
    let w : State := (jw (bz (jc 1)) e17)
    let e : JoinEntry := e17
    let i : Instr := .endAct
    let g : GReg := 0
    let via : Transit := none
    let z : Word := 0
    let x := slotOf s
    let cell := cellAt s s.curCell
    let c := cell.cc
    ((i = .endAct ∧ x.level = 0 ∧ cell.committing = none ∨ i = .sendHandoff s.curCell s.curSlot ∧ x.run = .commit)) ∧
       cell.preempt = none ∧ x.release = [] ∧ x.joins = [e] ∧ c.hod.length < 64 ∧ e.releaseOnly = false ∧
       ((∀ g via z, x.stall ≠ .reply g via z)) ∧ (copyPending s ((List.range 4).map (fun k => .mem (e.pa + k))) = false) ∧
        homeReady s e.pa = .error w) ∧
   (let s : State := (jc 0)
    let v : State := (jr (jc 0) e17)
    let e : JoinEntry := e17
    let i : Instr := .endAct
    let g : GReg := 0
    let via : Transit := none
    let z : Word := 0
    let x := slotOf s
    let cell := cellAt s s.curCell
    let c := cell.cc
    let line := e.pa / 128
    let n := (BitVec.ofNat 32 (physNat s e.pa 4)).toInt
    let bad : Bool := (List.range 4).any (fun k => sectorBad v ((e.pa + k) / 32))
    let code : Nat := if bad then 6 else if n ≤ 0 then 1 else if n = 1 then 2 else 0
    let counted := setStall (homeDone (if code = 2 ∨ code = 0 then memWrite v e.pa (bytesOf (n - 1).toNat 4) else v) line) .none
    let far := trueHome v line
    ((i = .endAct ∧ x.level = 0 ∧ cell.committing = none ∨ i = .sendHandoff s.curCell s.curSlot ∧ x.run = .commit)) ∧
       cell.preempt = none ∧ x.release = [] ∧ x.joins = [e] ∧ c.hod.length < 64 ∧ e.releaseOnly = false ∧
       ((∀ g via z, x.stall ≠ .reply g via z)) ∧ (copyPending s ((List.range 4).map (fun k => .mem (e.pa + k))) = false) ∧
        homeReady s e.pa = .ok v ∧ byLath counted far (myDie s) = false) ∧
   (let s : State := (joins [eR] (jc 1))
    let e : JoinEntry := eR
    let i : Instr := .endAct
    let x := slotOf s
    let cell := cellAt s s.curCell
    let c := cell.cc
    ((i = .endAct ∧ x.level = 0 ∧ cell.committing = none ∨ i = .sendHandoff s.curCell s.curSlot ∧ x.run = .commit)) ∧
       cell.preempt = none ∧ x.release = [] ∧ x.joins = [e] ∧ c.hod.length < 64 ∧ e.releaseOnly = true) ∧
   (let s : State := (rp (some (1, 0)) 0 (sh SH (far1 2)))
    let e : JoinEntry := eF
    let i : Instr := SH
    let g : GReg := 0
    let via : Transit := (some (1, 0))
    let z : Word := 0
    let x := slotOf s
    let cell := cellAt s s.curCell
    let c := cell.cc
    ((i = .endAct ∧ x.level = 0 ∧ cell.committing = none ∨ i = .sendHandoff s.curCell s.curSlot ∧ x.run = .commit)) ∧
       cell.preempt = none ∧ x.release = [] ∧ x.joins = [e] ∧ c.hod.length < 64 ∧ e.releaseOnly = false ∧ x.stall = .reply g via z ∧
       arrived s via = false) ∧
   (let s : State := (rp none 0 (sh SH (far1 2)))
    let e : JoinEntry := eF
    let i : Instr := SH
    let g : GReg := 0
    let via : Transit := none
    let z : Word := 0
    let x := slotOf s
    let cell := cellAt s s.curCell
    let c := cell.cc
    ((i = .endAct ∧ x.level = 0 ∧ cell.committing = none ∨ i = .sendHandoff s.curCell s.curSlot ∧ x.run = .commit)) ∧
       cell.preempt = none ∧ x.release = [] ∧ x.joins = [e] ∧ c.hod.length < 64 ∧ e.releaseOnly = false ∧ x.stall = .reply g via z ∧
       arrived s via = true) ∧
   (let s : State := cpp
    let e : JoinEntry := e17
    let i : Instr := .endAct
    let g : GReg := 0
    let via : Transit := none
    let z : Word := 0
    let x := slotOf s
    let cell := cellAt s s.curCell
    let c := cell.cc
    ((i = .endAct ∧ x.level = 0 ∧ cell.committing = none ∨ i = .sendHandoff s.curCell s.curSlot ∧ x.run = .commit)) ∧
       cell.preempt = none ∧ x.release = [] ∧ x.joins = [e] ∧ c.hod.length < 64 ∧ e.releaseOnly = false ∧
       ((∀ g via z, x.stall ≠ .reply g via z)) ∧ (copyPending s ((List.range 4).map (fun k => .mem (e.pa + k))) = true)) := by
  refine ⟨?_, ?_, ?_, ?_, ?_, ?_, ?_⟩
  · refine ⟨by decide +kernel, by decide +kernel, by decide +kernel, by decide +kernel, by decide +kernel, by decide +kernel, ?_,
    by decide +kernel, by decide +kernel, by decide +kernel, by decide +kernel⟩
    exact no_reply (by decide +kernel)
  · refine ⟨by decide +kernel, by decide +kernel, by decide +kernel, by decide +kernel, by decide +kernel, by decide +kernel, ?_,
    by decide +kernel, by decide +kernel⟩
    exact no_reply (by decide +kernel)
  · refine ⟨by decide +kernel, by decide +kernel, by decide +kernel, by decide +kernel, by decide +kernel, by decide +kernel, ?_,
    by decide +kernel, by decide +kernel, by decide +kernel⟩
    exact no_reply (by decide +kernel)
  · decide +kernel
  · decide +kernel
  · decide +kernel
  · refine ⟨by decide +kernel, by decide +kernel, by decide +kernel, by decide +kernel, by decide +kernel, by decide +kernel, ?_,
    by decide +kernel⟩
    exact no_reply (by decide +kernel)

end Commits

namespace HandOver

def pw (s : State) (va : Nat) : State := exU (acquireLines s 0 2048 false (walkLines s 0 (ccOf s).desc va))
def E1 : TlbEntry := ⟨5, 0x10000, 16, 0x123450000, true, true, true⟩
def wr (s : State) : State := putCcOf (wk s) { ccOf s with desc := { (ccOf s).desc with root := 0x3000010000 } }
def l2s (s : State) : State := { wk s with tlbs := ⟨[], [(0, [E1])], [(0, [⟨5, 2, 0, 0x20000⟩])], []⟩ }
def tb (s : State) (l : List (Nat × Nat)) : State :=
  { s with tlbs := ⟨[], [], [], []⟩, dirty := [], mem := l.flatMap (fun e => (bytesOf e.2 8).zipIdx.map (fun x => (e.1 + x.2, x.1))) }
def G1 : State := tb st [(0x10000, 0x20001), (0x20000, 0x4000000D)]
def G2 (w : Nat) : State := tb st [(0x10000, 0x20001), (0x20000, 0x40001), (0x40000, 0x80001B), (0x40008, w)]
def P2 : State := tb st [(0x10000, 0x20001), (0x20000, 0x40005)]
def MR : Walker := ⟨0, 5, 1⟩
def wb (l : List Walker) (s : State) : State := { s with tlbs := { s.tlbs with walkers := l } }
def full : List Walker := (List.range 64).map (fun i => ⟨0, 5, 100 + i⟩)
def ho : Handover := ⟨4, 1, 3, 0, false, none⟩
def dies (f : Dies → Dies) (s : State) : State := { s with dies := f s.dies }
def there (s : State) : State := upS (fun x => { x with stall := .there }) s
def fenc (d : Fin 4) (s : State) : State := dies (fun x => { x with health := x.health.set d ⟨0, true, false⟩ }) s
def sl (s : State) : State := putSlotAt s 2 1 { slot0 with stall := .shand 5 }
def hs (n : Nat) (fo : Bool) (w : Option (Nat × Fin 4)) (s : State) : State :=
  sl (dies (fun d => { d with handovers := [{ ho with stage := n, forced := fo, waiter := w }] }) s)
def homes (l : List (Nat × HomeEntry)) (s : State) : State := { s with coh := { s.coh with homes := l } }
def hm := homes [(0x80000003, ⟨1, .m, 2, 1⟩), (0x80000004, ⟨1, .i, 2, 1⟩), (0x180000003, ⟨1, .m, 2, 1⟩)]
def H (n : Nat) : Handover := { ho with stage := n, waiter := some (2, 1) }
def HF (n : Nat) : Handover := { ho with stage := n, waiter := none, forced := true }
def gone (s : State) : State := dies (fun d => { d with health := d.health.set 3 ⟨5, true, true⟩ |>.set 1 ⟨5, true, true⟩ }) s
def swp (s : State) : State :=
  { s with plat := { s.plat with controllers := s.plat.controllers.set 10 ⟨⟨1,1,1⟩, ⟨0,0,0⟩, .starting 5, none⟩ } }
def ev (s : State) : State := { s with coh := { s.coh with txns := [⟨⟨.home, 1, 0x80000003, .gets⟩, 1, 0⟩] } }
def fd (n : Nat) (s : State) : State := dies (fun d => { d with active := d.active.set 4 3, health := d.health.set 1 ⟨5, true, true⟩ }) s
def dl (s : State) : State :=
  { s with dirty := [(0x4000000180, 7)], poison := [0x4000000180 / 32], coh := { s.coh with dirs := [(3 * 2^40 + 0x80000003, ⟨1, .i, false, 0, [], 0, .m, 1, 15⟩)] } }
def de (g : BitVec 4) : DirEntry := ⟨1, .m, false, 0, [], 0, .m, 1, g⟩
def sv (g : BitVec 4) (s : State) : State := { s with coh := { s.coh with dirs := [(0x80000003, de g)] } }
def pnd (s : State) : State := { s with coh := { s.coh with pins := [⟨0, 0x80000003, false⟩] } }
def own (o : Fin 4) (s : State) : State :=
  dies (fun x => { x with tables := x.tables.map (fun t => { t with owner := t.owner.set 4 o }) }) s

/-- The hypotheses of PageFaultRequests hold together. -/
theorem witness_pageFaultRequests :
    (let s : State := (lvl (S 0x20010) 1)
    let a : GReg := 20
    let x := slotOf s
    let desc := (ccOf s).desc
    let w := readG s a
    let page : BitVec 39 := BitVec.ofNat 39 (w.toNat / 2 ^ 16)
    desc.sys = false ∧ x.level ≠ 0 ∧ w.toNat < 2 ^ 55 ∧ ((∀ q, x.pend = some q → q.ctxid ≠ desc.ctxid ∨ q.page ≠ page))) ∧
   (let s : State := (sys (S 0x20010))
    let x := slotOf s
    let desc := (ccOf s).desc
    x.level = 0 ∧ desc.sys = true) ∧
   (let s : State := (lvl (S 0x80000000020010) 1)
    let a : GReg := 20
    let x := slotOf s
    let w := readG s a
    x.level ≠ 0 ∧ 2 ^ 55 ≤ w.toNat) ∧
   (let s : State := (pd (some false) (lvl (S 0x20010) 1))
    let a : GReg := 20
    let ok : Bool := false
    let x := slotOf s
    let desc := (ccOf s).desc
    let w := readG s a
    let page : BitVec 39 := BitVec.ofNat 39 (w.toNat / 2 ^ 16)
    let mine (o : Option Bool) : Prop := ∃ kind, x.pend = some ⟨desc.ctxid, page, kind, o⟩
    x.level ≠ 0 ∧ mine (some ok)) ∧
   (let s : State := (pd none (lvl (S 0x20010) 1))
    let a : GReg := 20
    let x := slotOf s
    let desc := (ccOf s).desc
    let w := readG s a
    let page : BitVec 39 := BitVec.ofNat 39 (w.toNat / 2 ^ 16)
    let mine (o : Option Bool) : Prop := ∃ kind, x.pend = some ⟨desc.ctxid, page, kind, o⟩
    x.level ≠ 0 ∧ mine none) := by
  refine ⟨?_, ?_, ?_, ?_, ?_⟩
  · refine ⟨by decide +kernel, by decide +kernel, by decide +kernel, ?_⟩
    refine some_of ?_
    decide +kernel
  · decide +kernel
  · decide +kernel
  · refine ⟨by decide +kernel, ?_⟩
    exact ⟨_, rfl⟩
  · refine ⟨by decide +kernel, ?_⟩
    exact ⟨_, rfl⟩

/-- The hypotheses of PageWalks hold together. -/
theorem witness_pageWalks :
    (let s : State := (G2 1)
    let u : State := (pw (G2 1) 0x1FF10)
    let c : Nat := 0
    let va : Word := 0x1FF10
    let d := (ccAt s c).desc
    let die := physOf s c / 256
    let k := physOf s c / 8
    let v := va.toNat
    let l1 := tabGet [] s.tlbs.l1 c
    let l2 := tabGet [] s.tlbs.l2 k
    let walks := tabGet [] s.tlbs.walks die
    let e1 := physNat s (d.root + 8 * (v / 2 ^ 42 % 2 ^ 13)) 8
    let a1 := e1 / 2 ^ 12 % 2 ^ 33 * 2 ^ 12
    let e2 := physNat s (a1 + 8 * (v / 2 ^ 30 % 2 ^ 12)) 8
    let a2 := e2 / 2 ^ 12 % 2 ^ 33 * 2 ^ 12
    let e3 := physNat s (a2 + 8 * (v / 2 ^ 16 % 2 ^ 14)) 8
    let kind (x : Nat) : Nat := x / 2 % 4
    let named (x size : Nat) : Prop := x % 2 = 1 ∧ x / 2 ^ 45 = 0 ∧ x / 2 ^ 6 % 2 ^ 6 = 0 ∧ x / 2 ^ 12 % 2 ^ 33 * 2 ^ 12 % size = 0 ∧
      memExists s (x / 2 ^ 12 % 2 ^ 33 * 2 ^ 12) = true
    let upper : Prop := memExists s d.root = true ∧ named e1 (2 ^ 15) ∧ kind e1 = 0
    let middle : Prop := upper ∧ named e2 (2 ^ 17) ∧ kind e2 = 0
    let small : Prop := named e3 (2 ^ 16) ∧ kind e3 = 0
    let holds (l : List WalkEntry) (level top : Nat) : Prop := ∃ x ∈ l, x.ctxid = d.ctxid ∧ x.level = level ∧ x.top = top
    let got := acquireLines s die (2048 + die) false (walkLines s c d v)
    let me : Walker := ⟨die, d.ctxid, v / 2 ^ 16⟩
    let busy : Prop := me ∉ s.tlbs.walkers ∧ 64 ≤ (s.tlbs.walkers.filter (fun x => x.die = die)).length
    (cellAt s c).live = true ∧ v < 2 ^ 55 ∧ tlbFind d.ctxid v l1 = none ∧ tlbFind d.ctxid v l2 = none ∧ ¬busy ∧ got = .ok u ∧
       ¬holds walks 3 (v / 2 ^ 30) ∧ ¬holds walks 2 (v / 2 ^ 42) ∧ middle ∧ small) ∧
   (let s : State := st
    let c : Nat := 0
    let va : Word := 0x20
    let e : TlbEntry := (pg 0 0x100000 true true true)
    let d := (ccAt s c).desc
    let v := va.toNat
    let l1 := tabGet [] s.tlbs.l1 c
    let e1 := physNat s (d.root + 8 * (v / 2 ^ 42 % 2 ^ 13)) 8
    let kind (x : Nat) : Nat := x / 2 % 4
    let named (x size : Nat) : Prop := x % 2 = 1 ∧ x / 2 ^ 45 = 0 ∧ x / 2 ^ 6 % 2 ^ 6 = 0 ∧ x / 2 ^ 12 % 2 ^ 33 * 2 ^ 12 % size = 0 ∧
      memExists s (x / 2 ^ 12 % 2 ^ 33 * 2 ^ 12) = true
    let upper : Prop := memExists s d.root = true ∧ named e1 (2 ^ 15) ∧ kind e1 = 0
    (cellAt s c).live = true ∧ v < 2 ^ 55 ∧ tlbFind d.ctxid v l1 = some e ∧ ¬upper) ∧
   (let s : State := (G2 3)
    let c : Nat := 0
    let va : Word := 0x1FF10
    let d := (ccAt s c).desc
    let v := va.toNat
    let e1 := physNat s (d.root + 8 * (v / 2 ^ 42 % 2 ^ 13)) 8
    let a1 := e1 / 2 ^ 12 % 2 ^ 33 * 2 ^ 12
    let e2 := physNat s (a1 + 8 * (v / 2 ^ 30 % 2 ^ 12)) 8
    let a2 := e2 / 2 ^ 12 % 2 ^ 33 * 2 ^ 12
    let e3 := physNat s (a2 + 8 * (v / 2 ^ 16 % 2 ^ 14)) 8
    let e0 := physNat s (a2 + 8 * (32 * (v / 2 ^ 21 % 2 ^ 9))) 8
    let kind (x : Nat) : Nat := x / 2 % 4
    let named (x size : Nat) : Prop := x % 2 = 1 ∧ x / 2 ^ 45 = 0 ∧ x / 2 ^ 6 % 2 ^ 6 = 0 ∧ x / 2 ^ 12 % 2 ^ 33 * 2 ^ 12 % size = 0 ∧
      memExists s (x / 2 ^ 12 % 2 ^ 33 * 2 ^ 12) = true
    let upper : Prop := memExists s d.root = true ∧ named e1 (2 ^ 15) ∧ kind e1 = 0
    let middle : Prop := upper ∧ named e2 (2 ^ 17) ∧ kind e2 = 0
    let group : Prop := e3 % 2 = 1 ∧ kind e3 = 1 ∧ named e0 (2 ^ 21) ∧ kind e0 = 1
    middle ∧ group) ∧
   (let s : State := (l2s st)
    let c : Nat := 0
    let va : Word := 0x1FF10
    let e : TlbEntry := E1
    let d := (ccAt s c).desc
    let k := physOf s c / 8
    let v := va.toNat
    let l1 := tabGet [] s.tlbs.l1 c
    let l2 := tabGet [] s.tlbs.l2 k
    (cellAt s c).live = true ∧ v < 2 ^ 55 ∧ tlbFind d.ctxid v l1 = none ∧ tlbFind d.ctxid v l2 = some e) ∧
   (let s : State := (wb (MR :: full) (wr st))
    let w : State := (pw (wb (MR :: full) (wr st)) 0x1FF10)
    let c : Nat := 0
    let va : Word := 0x1FF10
    let d := (ccAt s c).desc
    let die := physOf s c / 256
    let k := physOf s c / 8
    let v := va.toNat
    let l1 := tabGet [] s.tlbs.l1 c
    let l2 := tabGet [] s.tlbs.l2 k
    let got := acquireLines s die (2048 + die) false (walkLines s c d v)
    let me : Walker := ⟨die, d.ctxid, v / 2 ^ 16⟩
    let busy : Prop := me ∉ s.tlbs.walkers ∧ 64 ≤ (s.tlbs.walkers.filter (fun x => x.die = die)).length
    (cellAt s c).live = true ∧ v < 2 ^ 55 ∧ tlbFind d.ctxid v l1 = none ∧ tlbFind d.ctxid v l2 = none ∧ ¬busy ∧ got = .error w) ∧
   (let s : State := (wb full (wk st))
    let c : Nat := 0
    let va : Word := 0x1FF10
    let d := (ccAt s c).desc
    let die := physOf s c / 256
    let k := physOf s c / 8
    let v := va.toNat
    let l1 := tabGet [] s.tlbs.l1 c
    let l2 := tabGet [] s.tlbs.l2 k
    let me : Walker := ⟨die, d.ctxid, v / 2 ^ 16⟩
    let busy : Prop := me ∉ s.tlbs.walkers ∧ 64 ≤ (s.tlbs.walkers.filter (fun x => x.die = die)).length
    (cellAt s c).live = true ∧ v < 2 ^ 55 ∧ tlbFind d.ctxid v l1 = none ∧ tlbFind d.ctxid v l2 = none ∧ busy) ∧
   (let s : State := (wk st)
    let c : Nat := 0
    let va : Word := 0x2FF10
    let d := (ccAt s c).desc
    let v := va.toNat
    let e1 := physNat s (d.root + 8 * (v / 2 ^ 42 % 2 ^ 13)) 8
    let a1 := e1 / 2 ^ 12 % 2 ^ 33 * 2 ^ 12
    let e2 := physNat s (a1 + 8 * (v / 2 ^ 30 % 2 ^ 12)) 8
    let a2 := e2 / 2 ^ 12 % 2 ^ 33 * 2 ^ 12
    let e3 := physNat s (a2 + 8 * (v / 2 ^ 16 % 2 ^ 14)) 8
    let e0 := physNat s (a2 + 8 * (32 * (v / 2 ^ 21 % 2 ^ 9))) 8
    let kind (x : Nat) : Nat := x / 2 % 4
    let named (x size : Nat) : Prop := x % 2 = 1 ∧ x / 2 ^ 45 = 0 ∧ x / 2 ^ 6 % 2 ^ 6 = 0 ∧ x / 2 ^ 12 % 2 ^ 33 * 2 ^ 12 % size = 0 ∧
      memExists s (x / 2 ^ 12 % 2 ^ 33 * 2 ^ 12) = true
    let upper : Prop := memExists s d.root = true ∧ named e1 (2 ^ 15) ∧ kind e1 = 0
    let middle : Prop := upper ∧ named e2 (2 ^ 17) ∧ kind e2 = 0
    let small : Prop := named e3 (2 ^ 16) ∧ kind e3 = 0
    let group : Prop := e3 % 2 = 1 ∧ kind e3 = 1 ∧ named e0 (2 ^ 21) ∧ kind e0 = 1
    middle ∧ ¬small ∧ ¬group) ∧
   (let s : State := G1
    let c : Nat := 0
    let va : Word := 0x123FF10
    let d := (ccAt s c).desc
    let v := va.toNat
    let e1 := physNat s (d.root + 8 * (v / 2 ^ 42 % 2 ^ 13)) 8
    let a1 := e1 / 2 ^ 12 % 2 ^ 33 * 2 ^ 12
    let e2 := physNat s (a1 + 8 * (v / 2 ^ 30 % 2 ^ 12)) 8
    let kind (x : Nat) : Nat := x / 2 % 4
    let named (x size : Nat) : Prop := x % 2 = 1 ∧ x / 2 ^ 45 = 0 ∧ x / 2 ^ 6 % 2 ^ 6 = 0 ∧ x / 2 ^ 12 % 2 ^ 33 * 2 ^ 12 % size = 0 ∧
      memExists s (x / 2 ^ 12 % 2 ^ 33 * 2 ^ 12) = true
    let upper : Prop := memExists s d.root = true ∧ named e1 (2 ^ 15) ∧ kind e1 = 0
    let large : Prop := named e2 (2 ^ 30) ∧ kind e2 = 2
    upper ∧ large) ∧
   (let s : State := P2
    let c : Nat := 0
    let va : Word := 0x1FF10
    let d := (ccAt s c).desc
    let v := va.toNat
    let e1 := physNat s (d.root + 8 * (v / 2 ^ 42 % 2 ^ 13)) 8
    let a1 := e1 / 2 ^ 12 % 2 ^ 33 * 2 ^ 12
    let e2 := physNat s (a1 + 8 * (v / 2 ^ 30 % 2 ^ 12)) 8
    let kind (x : Nat) : Nat := x / 2 % 4
    let named (x size : Nat) : Prop := x % 2 = 1 ∧ x / 2 ^ 45 = 0 ∧ x / 2 ^ 6 % 2 ^ 6 = 0 ∧ x / 2 ^ 12 % 2 ^ 33 * 2 ^ 12 % size = 0 ∧
      memExists s (x / 2 ^ 12 % 2 ^ 33 * 2 ^ 12) = true
    let upper : Prop := memExists s d.root = true ∧ named e1 (2 ^ 15) ∧ kind e1 = 0
    let middle : Prop := upper ∧ named e2 (2 ^ 17) ∧ kind e2 = 0
    let large : Prop := named e2 (2 ^ 30) ∧ kind e2 = 2
    upper ∧ ¬large ∧ ¬middle) ∧
   (let s : State := { st with cells := [] }
    let c : Nat := 0
    let va : Word := 0x1FF10
    let v := va.toNat
    ((cellAt s c).live = false ∨ 2 ^ 55 ≤ v)) := by
  refine ⟨?_, ?_, ?_, ?_, ?_, ?_, ?_, ?_, ?_, ?_⟩ <;> decide +kernel

/-- The hypotheses of HandRequest hold together. -/
theorem witness_handRequest :
    (let s : State := (S 0x304)
    let sys := (ccOf s).desc.sys = true
    ¬sys) ∧
   (let s : State := (dies (fun d => { d with handovers := [ho] }) (there (sys (S 0x304))))
    let a : GReg := 20
    let k : Fin 12 := 4
    let t : Fin 4 := 3
    let q := readG s a
    let x := slotOf s
    let me := myDie s
    let o := (tableOf s me).owner[k]
    let pr : Fin 4 × Fin 4 := if k.val < 3 then (0, 1) else if k.val < 6 then (1, 3) else if k.val < 9 then (3, 2) else (2, 0)
    let wired : Prop := s.plat.stackBits.getLsbD k.val = true ∧ (t = pr.1 ∨ t = pr.2)
    let fence : Prop := s.dies.health[pr.1].reported = true ∨ s.dies.health[pr.2].reported = true
    let here : Prop := o.val = me ∨ x.stall = .there ∨ s.dies.health[o].reported = true
    let busy : Prop := (tableOf s o.val).busy.getLsbD k.val = true ∨ ∃ h ∈ s.dies.handovers, h.stack = k
    let asks : Prop := q.toNat = 256 * t.val + k.val
    let sys := (ccOf s).desc.sys = true
    sys ∧ asks ∧ here ∧ wired ∧ ¬fence ∧ busy) ∧
   (let s : State := (fenc 1 (sys (S 0x304)))
    let a : GReg := 20
    let k : Fin 12 := 4
    let t : Fin 4 := 3
    let q := readG s a
    let x := slotOf s
    let me := myDie s
    let o := (tableOf s me).owner[k]
    let pr : Fin 4 × Fin 4 := if k.val < 3 then (0, 1) else if k.val < 6 then (1, 3) else if k.val < 9 then (3, 2) else (2, 0)
    let wired : Prop := s.plat.stackBits.getLsbD k.val = true ∧ (t = pr.1 ∨ t = pr.2)
    let fence : Prop := s.dies.health[pr.1].reported = true ∨ s.dies.health[pr.2].reported = true
    let here : Prop := o.val = me ∨ x.stall = .there ∨ s.dies.health[o].reported = true
    let asks : Prop := q.toNat = 256 * t.val + k.val
    let sys := (ccOf s).desc.sys = true
    sys ∧ asks ∧ here ∧ wired ∧ fence) ∧
   (let s : State := (own 0 (sys (S 0x204)))
    let a : GReg := 20
    let k : Fin 12 := 4
    let t : Fin 4 := 2
    let q := readG s a
    let x := slotOf s
    let me := myDie s
    let o := (tableOf s me).owner[k]
    let pr : Fin 4 × Fin 4 := if k.val < 3 then (0, 1) else if k.val < 6 then (1, 3) else if k.val < 9 then (3, 2) else (2, 0)
    let wired : Prop := s.plat.stackBits.getLsbD k.val = true ∧ (t = pr.1 ∨ t = pr.2)
    let here : Prop := o.val = me ∨ x.stall = .there ∨ s.dies.health[o].reported = true
    let asks : Prop := q.toNat = 256 * t.val + k.val
    let sys := (ccOf s).desc.sys = true
    sys ∧ asks ∧ here ∧ ¬wired) ∧
   (let s : State := (own 0 (sys (S 0x304)))
    let a : GReg := 20
    let k : Fin 12 := 4
    let t : Fin 4 := 3
    let q := readG s a
    let x := slotOf s
    let me := myDie s
    let o := (tableOf s me).owner[k]
    let pr : Fin 4 × Fin 4 := if k.val < 3 then (0, 1) else if k.val < 6 then (1, 3) else if k.val < 9 then (3, 2) else (2, 0)
    let wired : Prop := s.plat.stackBits.getLsbD k.val = true ∧ (t = pr.1 ∨ t = pr.2)
    let fence : Prop := s.dies.health[pr.1].reported = true ∨ s.dies.health[pr.2].reported = true
    let here : Prop := o.val = me ∨ x.stall = .there ∨ s.dies.health[o].reported = true
    let busy : Prop := (tableOf s o.val).busy.getLsbD k.val = true ∨ ∃ h ∈ s.dies.handovers, h.stack = k
    let asks : Prop := q.toNat = 256 * t.val + k.val
    let sys := (ccOf s).desc.sys = true
    sys ∧ asks ∧ here ∧ wired ∧ ¬fence ∧ ¬busy ∧ o ≠ t) ∧
   (let s : State := (own 3 (there (sys (S 0x304))))
    let a : GReg := 20
    let k : Fin 12 := 4
    let t : Fin 4 := 3
    let q := readG s a
    let x := slotOf s
    let me := myDie s
    let o := (tableOf s me).owner[k]
    let pr : Fin 4 × Fin 4 := if k.val < 3 then (0, 1) else if k.val < 6 then (1, 3) else if k.val < 9 then (3, 2) else (2, 0)
    let wired : Prop := s.plat.stackBits.getLsbD k.val = true ∧ (t = pr.1 ∨ t = pr.2)
    let fence : Prop := s.dies.health[pr.1].reported = true ∨ s.dies.health[pr.2].reported = true
    let here : Prop := o.val = me ∨ x.stall = .there ∨ s.dies.health[o].reported = true
    let busy : Prop := (tableOf s o.val).busy.getLsbD k.val = true ∨ ∃ h ∈ s.dies.handovers, h.stack = k
    let asks : Prop := q.toNat = 256 * t.val + k.val
    let sys := (ccOf s).desc.sys = true
    sys ∧ asks ∧ here ∧ wired ∧ ¬fence ∧ ¬busy ∧ o = t) ∧
   (let s : State := (sys (S 0x304))
    let a : GReg := 20
    let k : Fin 12 := 4
    let t : Fin 4 := 3
    let q := readG s a
    let x := slotOf s
    let me := myDie s
    let o := (tableOf s me).owner[k]
    let here : Prop := o.val = me ∨ x.stall = .there ∨ s.dies.health[o].reported = true
    let asks : Prop := q.toNat = 256 * t.val + k.val
    let sys := (ccOf s).desc.sys = true
    sys ∧ asks ∧ ¬here) ∧
   (let s : State := (sys (S 0x30C))
    let a : GReg := 20
    let q := readG s a
    let sys := (ccOf s).desc.sys = true
    sys ∧ q.toNat < 1024 ∧ q.toNat / 16 % 16 = 0 ∧ 12 ≤ q.toNat % 16) ∧
   (let s : State := (sys (S 0x344))
    let a : GReg := 20
    let q := readG s a
    let sys := (ccOf s).desc.sys = true
    sys ∧ (1024 ≤ q.toNat ∨ q.toNat / 16 % 16 ≠ 0)) := by
  refine ⟨?_, ?_, ?_, ?_, ?_, ?_, ?_, ?_, ?_⟩ <;> decide +kernel

/-- The hypotheses of HandOverStages hold together. -/
theorem witness_handOverStages :
    (let s : State := (hs 2 false (some (2, 1)) (ev (hm st)))
    let k : Fin 12 := 4
    let h : Handover := (H 2)
    let d := s.dies
    let inK (n : Nat) : Prop := n / 2 ^ 29 = k.val
    let held : Prop := ∃ e ∈ s.coh.homes, inK e.1 ∧ e.2.st ≠ .i
    let gone (n : Fin 4) : Prop := d.health[n].reported = true
    d.handovers = [h] ∧ h.stack = k ∧ h.forced = false ∧ (4 ≤ h.stage ∨ ¬gone h.old ∧ ¬gone h.new) ∧ h.stage = 2 ∧ held ∧
      ((∀ e ∈ s.coh.homes, inK e.1 → e.2.st ≠ .i → siteLocked s .home e.1 = true)) ∧ tabSorted s.coh.homes = true ∧
       ((∀ e ∈ s.coh.homes, inK e.1 → e.2.st ≠ .i → e.2.present ≠ 0))) ∧
   (let s : State := (fd 2 (hs 2 true none (hm st)))
    let k : Fin 12 := 4
    let h : Handover := (HF 2)
    let d := s.dies
    let gone (n : Fin 4) : Prop := d.health[n].reported = true
    d.handovers = [h] ∧ h.stack = k ∧ h.forced = true ∧ ¬gone h.new ∧ (h.stage = 1 ∨ d.active[k] = h.new) ∧ h.stage = 2 ∧ s.images = []) ∧
   (let s : State := (fd 2 (hs 3 true none (dl st)))
    let k : Fin 12 := 4
    let h : Handover := (HF 3)
    let d := s.dies
    let inK (n : Nat) : Prop := n / 2 ^ 29 = k.val
    let gone (n : Fin 4) : Prop := d.health[n].reported = true
    d.handovers = [h] ∧ h.stack = k ∧ h.forced = true ∧ ¬gone h.new ∧ (h.stage = 1 ∨ d.active[k] = h.new) ∧ h.stage = 3 ∧
      ((∀ e : Fin 4, ¬gone e → ∀ n ∈ l2Lines s.coh e.val, inK n → probeWaits s.coh n e.val = false))) ∧
   (let s : State := (fd 2 (hs 3 true none (pnd (sv 15 (hm st)))))
    let k : Fin 12 := 4
    let h : Handover := (HF 3)
    let d := s.dies
    let inK (n : Nat) : Prop := n / 2 ^ 29 = k.val
    let gone (n : Fin 4) : Prop := d.health[n].reported = true
    d.handovers = [h] ∧ h.stack = k ∧ h.forced = true ∧ ¬gone h.new ∧ (h.stage = 1 ∨ d.active[k] = h.new) ∧ h.stage = 3 ∧
      ((∃ e : Fin 4, ¬gone e ∧ ∃ n ∈ l2Lines s.coh e.val, inK n ∧ probeWaits s.coh n e.val = true))) ∧
   (let s : State := (fd 2 (hs 4 true none (hm st)))
    let k : Fin 12 := 4
    let h : Handover := (HF 4)
    let d := s.dies
    let gone (n : Fin 4) : Prop := d.health[n].reported = true
    d.handovers = [h] ∧ h.stack = k ∧ h.forced = true ∧ ¬gone h.new ∧ (h.stage = 1 ∨ d.active[k] = h.new) ∧ h.stage = 4) ∧
   (let s : State := (fd 2 (hs 5 true none (hm st)))
    let k : Fin 12 := 4
    let h : Handover := (HF 5)
    let d := s.dies
    let gone (n : Fin 4) : Prop := d.health[n].reported = true
    d.handovers = [h] ∧ h.stack = k ∧ h.forced = true ∧ ¬gone h.new ∧ (h.stage = 1 ∨ d.active[k] = h.new) ∧ h.stage = 5) ∧
   (let s : State := (fd 2 (hs 6 true none (hm st)))
    let k : Fin 12 := 4
    let h : Handover := (HF 6)
    let d := s.dies
    let inK (n : Nat) : Prop := n / 2 ^ 29 = k.val
    let held : Prop := ∃ e ∈ s.coh.homes, inK e.1 ∧ e.2.st ≠ .i
    let gone (n : Fin 4) : Prop := d.health[n].reported = true
    let quiet : Prop := s.coh.held = [] ∧ s.coh.wayWait = [] ∧ s.coh.conflicts = []
    d.handovers = [h] ∧ h.stack = k ∧ h.forced = true ∧ ¬gone h.new ∧ (h.stage = 1 ∨ d.active[k] = h.new) ∧ h.stage = 6 ∧
      h.waiter = none ∧ quiet) ∧
   (let s : State := (fenc 1 (hs 0 true none (hm st)))
    let k : Fin 12 := 4
    let h : Handover := (HF 0)
    let d := s.dies
    let gone (n : Fin 4) : Prop := d.health[n].reported = true
    d.handovers = [h] ∧ h.stack = k ∧ h.forced = true ∧ h.stage = 0 ∧ gone h.old ∧ d.health[h.old].confirmed = false) ∧
   (let s : State := (fenc 1 (hs 2 false (some (2, 1)) st))
    let k : Fin 12 := 4
    let h : Handover := (H 2)
    let d := s.dies
    let gone (n : Fin 4) : Prop := d.health[n].reported = true
    d.handovers = [h] ∧ h.stack = k ∧ h.forced = false ∧ h.stage < 4 ∧ gone h.old) ∧
   (let s : State := (fenc 3 (hs 2 false (some (2, 1)) st))
    let k : Fin 12 := 4
    let h : Handover := (H 2)
    let d := s.dies
    let gone (n : Fin 4) : Prop := d.health[n].reported = true
    d.handovers = [h] ∧ h.stack = k ∧ h.forced = false ∧ h.stage < 4 ∧ gone h.new ∧ ¬gone h.old) ∧
   (let s : State := (hs 0 false (some (2, 1)) st)
    let k : Fin 12 := 4
    let h : Handover := (H 0)
    let d := s.dies
    let gone (n : Fin 4) : Prop := d.health[n].reported = true
    d.handovers = [h] ∧ h.stack = k ∧ h.forced = false ∧ (4 ≤ h.stage ∨ ¬gone h.old ∧ ¬gone h.new) ∧ h.stage = 0) ∧
   (let s : State := (hs 0 true none (hm st))
    let k : Fin 12 := 4
    let h : Handover := (HF 0)
    let d := s.dies
    let gone (n : Fin 4) : Prop := d.health[n].reported = true
    d.handovers = [h] ∧ h.stack = k ∧ h.forced = true ∧ h.stage = 0 ∧ (¬gone h.old ∨ d.health[h.old].confirmed = true)) ∧
   (let s : State := (hs 1 false (some (2, 1)) st)
    let k : Fin 12 := 4
    let h : Handover := (H 1)
    let d := s.dies
    let inK (n : Nat) : Prop := n / 2 ^ 29 = k.val
    let gone (n : Fin 4) : Prop := d.health[n].reported = true
    let busy : Prop := (∃ t ∈ s.coh.txns, t.req.site = .home ∧ inK t.req.line) ∨
      ∃ r ∈ s.coh.conflicts ++ s.coh.wayWait, r.site = .home ∧ inK r.line
    d.handovers = [h] ∧ h.stack = k ∧ h.forced = false ∧ (4 ≤ h.stage ∨ ¬gone h.old ∧ ¬gone h.new) ∧ h.stage = 1 ∧ ¬busy) ∧
   (let s : State := (hs 1 false (some (2, 1)) { st with coh := { st.coh with conflicts := [⟨.home, 1, 0x80000003, .gets⟩] } })
    let k : Fin 12 := 4
    let h : Handover := (H 1)
    let d := s.dies
    let inK (n : Nat) : Prop := n / 2 ^ 29 = k.val
    let gone (n : Fin 4) : Prop := d.health[n].reported = true
    let busy : Prop := (∃ t ∈ s.coh.txns, t.req.site = .home ∧ inK t.req.line) ∨
      ∃ r ∈ s.coh.conflicts ++ s.coh.wayWait, r.site = .home ∧ inK r.line
    d.handovers = [h] ∧ h.stack = k ∧ h.forced = false ∧ (4 ≤ h.stage ∨ ¬gone h.old ∧ ¬gone h.new) ∧ h.stage = 1 ∧ busy) ∧
   (let s : State := (hs 1 true none (hm st))
    let k : Fin 12 := 4
    let h : Handover := (HF 1)
    let d := s.dies
    let swapping : Prop := ∃ n, (s.plat.controllers[6 + k.val]'(by omega)).state = .starting n
    let gone (n : Fin 4) : Prop := d.health[n].reported = true
    d.handovers = [h] ∧ h.stack = k ∧ h.forced = true ∧ ¬gone h.new ∧ (h.stage = 1 ∨ d.active[k] = h.new) ∧ h.stage = 1 ∧ ¬swapping) ∧
   (let s : State := (hs 1 true none (swp st))
    let k : Fin 12 := 4
    let h : Handover := (HF 1)
    let d := s.dies
    let swapping : Prop := ∃ n, (s.plat.controllers[6 + k.val]'(by omega)).state = .starting n
    let gone (n : Fin 4) : Prop := d.health[n].reported = true
    d.handovers = [h] ∧ h.stack = k ∧ h.forced = true ∧ ¬gone h.new ∧ (h.stage = 1 ∨ d.active[k] = h.new) ∧ h.stage = 1 ∧ swapping) ∧
   (let s : State := (hs 2 false (some (2, 1)) st)
    let k : Fin 12 := 4
    let h : Handover := (H 2)
    let d := s.dies
    let inK (n : Nat) : Prop := n / 2 ^ 29 = k.val
    let held : Prop := ∃ e ∈ s.coh.homes, inK e.1 ∧ e.2.st ≠ .i
    let gone (n : Fin 4) : Prop := d.health[n].reported = true
    d.handovers = [h] ∧ h.stack = k ∧ h.forced = false ∧ (4 ≤ h.stage ∨ ¬gone h.old ∧ ¬gone h.new) ∧ h.stage = 2 ∧ ¬held) ∧
   (let s : State := (hs 2 true none (hm st))
    let k : Fin 12 := 4
    let h : Handover := (HF 2)
    let d := s.dies
    let gone (n : Fin 4) : Prop := d.health[n].reported = true
    d.handovers = [h] ∧ h.stack = k ∧ h.forced = true ∧ 2 ≤ h.stage ∧ ¬gone h.new ∧ d.active[k] ≠ h.new) ∧
   (let s : State := (hs 3 false (some (2, 1)) st)
    let k : Fin 12 := 4
    let h : Handover := (H 3)
    let d := s.dies
    let gone (n : Fin 4) : Prop := d.health[n].reported = true
    d.handovers = [h] ∧ h.stack = k ∧ h.forced = false ∧ (4 ≤ h.stage ∨ ¬gone h.old ∧ ¬gone h.new) ∧ h.stage = 3) ∧
   (let s : State := (hs 3 true none (gone (hm st)))
    let k : Fin 12 := 4
    let h : Handover := (HF 3)
    let d := s.dies
    let gone (n : Fin 4) : Prop := d.health[n].reported = true
    d.handovers = [h] ∧ h.stack = k ∧ h.forced = true ∧ 1 ≤ h.stage ∧ gone h.new ∧ gone h.old) ∧
   (let s : State := (hs 4 false (some (2, 1)) (swp st))
    let k : Fin 12 := 4
    let h : Handover := (H 4)
    let d := s.dies
    let swapping : Prop := ∃ n, (s.plat.controllers[6 + k.val]'(by omega)).state = .starting n
    let gone (n : Fin 4) : Prop := d.health[n].reported = true
    d.handovers = [h] ∧ h.stack = k ∧ h.forced = false ∧ (4 ≤ h.stage ∨ ¬gone h.old ∧ ¬gone h.new) ∧ h.stage = 4 ∧ swapping) ∧
   (let s : State := (hs 4 false (some (2, 1)) st)
    let k : Fin 12 := 4
    let h : Handover := (H 4)
    let d := s.dies
    let swapping : Prop := ∃ n, (s.plat.controllers[6 + k.val]'(by omega)).state = .starting n
    let gone (n : Fin 4) : Prop := d.health[n].reported = true
    d.handovers = [h] ∧ h.stack = k ∧ h.forced = false ∧ (4 ≤ h.stage ∨ ¬gone h.old ∧ ¬gone h.new) ∧ h.stage = 4 ∧ ¬swapping) ∧
   (let s : State := (hs 5 false (some (2, 1)) (hm st))
    let k : Fin 12 := 4
    let h : Handover := (H 5)
    let d := s.dies
    let gone (n : Fin 4) : Prop := d.health[n].reported = true
    d.handovers = [h] ∧ h.stack = k ∧ h.forced = false ∧ (4 ≤ h.stage ∨ ¬gone h.old ∧ ¬gone h.new) ∧ h.stage = 5) ∧
   (let s : State := (hs 6 false (some (2, 1)) (hm st))
    let k : Fin 12 := 4
    let h : Handover := (H 6)
    let d := s.dies
    let gone (n : Fin 4) : Prop := d.health[n].reported = true
    d.handovers = [h] ∧ h.stack = k ∧ h.forced = false ∧ (4 ≤ h.stage ∨ ¬gone h.old ∧ ¬gone h.new) ∧ h.stage = 6 ∧ ¬gone h.new) ∧
   (let s : State := st
    let d := s.dies
    d.handovers = []) := by
  refine ⟨?_, ?_, ?_, ?_, ?_, ?_, ?_, ?_, ?_, ?_, ?_, ?_, ?_, ?_, ?_, ?_, ?_, ?_, ?_, ?_, ?_, ?_, ?_, ?_, ?_⟩
  · decide +kernel
  · decide +kernel
  · decide +kernel
  · decide +kernel
  · decide +kernel
  · decide +kernel
  · decide +kernel
  · decide +kernel
  · decide +kernel
  · decide +kernel
  · decide +kernel
  · decide +kernel
  · decide +kernel
  · decide +kernel
  · refine ⟨by decide +kernel, by decide +kernel, by decide +kernel, by decide +kernel, by decide +kernel, by decide +kernel, ?_⟩
    exact not_starting (by decide +kernel)
  · refine ⟨by decide +kernel, by decide +kernel, by decide +kernel, by decide +kernel, by decide +kernel, by decide +kernel, ?_⟩
    exact ⟨_, rfl⟩
  · decide +kernel
  · decide +kernel
  · decide +kernel
  · decide +kernel
  · refine ⟨by decide +kernel, by decide +kernel, by decide +kernel, by decide +kernel, by decide +kernel, ?_⟩
    exact ⟨_, rfl⟩
  · refine ⟨by decide +kernel, by decide +kernel, by decide +kernel, by decide +kernel, by decide +kernel, ?_⟩
    exact not_starting (by decide +kernel)
  · decide +kernel
  · decide +kernel
  · decide +kernel

end HandOver

namespace Place

def rg (lo hi : Nat) (o : Nat) : Region := ⟨#v[BitVec.ofNat 32 lo, 0x80000000, 0x80000000], #v[BitVec.ofNat 32 hi, 0x7FFFFFFF,
  0x7FFFFFFF], o⟩
def ins (n : Nat) (r o h : Nat) (g : BitVec 20) : Inst := ⟨.live, n, r, Vector.ofFn (fun i => BitVec.ofNat 64 (i.val * 1000 + 5)), o, h, g⟩
def sp0 : Space := ⟨5, 2, 4, 1, 4, 1, [rg 0 0x7FFFFFFF 0, rg 0x80000000 0xFFFFFFFF 6], [(0, 50), (1, 60)], [(placeKey 0 1,
  ins 7 0 0 3 9), (placeKey 6 1, ins 8 1 6 3 9)], [(placeKey 0 3, ⟨9, some (0, 1), false, []⟩)], [], []⟩
def P (sp : Space) (s : State) : State := { s with place := ⟨[sp], [], []⟩ }
def hw (sp home slot gen : Nat) : Word := BitVec.ofNat 64 (sp * 2 ^ 60 + home * 2 ^ 50 + slot * 2 ^ 20 + gen)
def T : State := P sp0 (S (hw 2 0 3 9))
def spH : Space := { sp0 with handles := [(placeKey 300 3, ⟨9, some (0, 1), false, []⟩)] }
def fullH : Space := { sp0 with handles := (List.range 16).map (fun k => (placeKey 0 k, ⟨9, some (0, 1), false, []⟩)) }
def frz (s : State) : State := { s with dies := { s.dies with tables := s.dies.tables.map (fun t => { t with freeze := 1 }) } }
def spP : Space := { sp0 with pools := [(0, 0x100000, 768)] }
def spX : Space := { sp0 with regions := [rg 0 0x7FFFFFFF 300, rg 0x80000000 0xFFFFFFFF 6] }
def again (s : State) : State := upS (fun x => { x with stall := .there }) s
def Tq (q : Nat) (rs : List QueryResult) (s : State) : State := upC (fun c => { c with queries := q, results := rs }) s
def r3 : QueryResult := ⟨3, 1, 77⟩
def te : TrapInfo := ⟨4, 0, 0⟩
def dv : Nat := 0x20100 + 0x20000 * 2 ^ 64 + 4 * 2 ^ 152 + 1 * 2 ^ 160 + 4 * 2 ^ 192
def rv : Nat := 0x7FFFFFFF7FFFFFFF7FFFFFFF800000008000000080000000
def D (v : Nat) : State :=
  { sys (S 0x20040) with dirty := ((bytesOf v 64).zipIdx.map (fun (e : Byte × Nat) => (0x300040 + e.2, e.1)) ++ (bytesOf rv 32).zipIdx.map (fun (e : Byte × Nat) => (0x300100 + e.2, e.1))).filter (fun (e : Nat × Byte) => e.2 ≠ 0) }
def du (s : State) : State := exU (getDefine s (readG s 20).toNat)
def pgs (s : State) (a n : Nat) : List Nat := (agentPages (du s) a n).getD []
def qy (ts ta : List (Nat × Transit)) : Query := ⟨0, 5, 2, 6, 900, .box #v[0x80000000,0x80000000,0x80000000] #v[0x7FFFFFFF, 0x7FFFFFFF,
  0x7FFFFFFF], 0x100, 0, ts, ta, [], [], false⟩
def sc (s : State) : List Nat × List Nat := (pgs s (readG s 20).toNat 64, pgs s (dv % 2^55) 32)
def noPool : State := D (dv - 0x20000 * 2 ^ 64 + 0x50000 * 2 ^ 64)
def noMap : State := D (dv - 0x20100 + 0x50000)
def badMap : State := let s := D dv; { s with dirty := s.dirty.filter (fun e => e.1 < 0x300100) }
def farD : State := { D dv with tlbs := stF.tlbs, slots := [(0, { slot0 with g := slot0.g.set 20 0x40040 })] }
def M (g : MoveStage) : Move := ⟨5, 2, 0, 3, 0, 1, 6, 1, 0x80000005, 7, 9, g, 2, 1, none⟩
def TM (g : MoveStage) (sp : Space) : State :=
  putSlotAt { P sp st with place := ⟨[sp], [M g], []⟩ } 2 1 { slot0 with stall := .place (.pset 1 2 3) 5 8 none }
def spM : Space := { sp0 with handles := [(placeKey 0 3, ⟨9, some (0, 1), true, []⟩)] }
def full : Space :=
  { spM with insts := (List.range 16).map (fun k => (placeKey 0 k, ins k 0 0 3 9)) ++ (List.range 16).map (fun k => (placeKey 6 k, ins k 0 0 3 9)) }
def qd (g : BitVec 20) : QueuedDeref := ⟨2, 1, g, .pld 3, none, none⟩
def spQ (g : BitVec 20) : Space := { sp0 with handles := [(placeKey 0 3, ⟨9, some (0, 1), false, [qd g, qd 4]⟩)] }
def TQ (sp : Space) : State := putSlotAt (P sp st) 2 1 { slot0 with stall := .place (.pld 3) 5 8 none }
def spT (a : Nat) : Space := { sp0 with insts := [(placeKey 0 1, { ins 7 0 0 3 9 with st := .tomb a })] }
def TY (q : Query) (t : Nat) : State := { st with stime := BitVec.ofNat 64 t, place := ⟨[sp0], [], [q]⟩ }
def R (l : List Nat) : List (Nat × Transit) := l.map (fun o => (o, none))
def fnd (r sl h : Nat) : Found := ⟨r, h, sl, 5, Vector.ofFn (fun i => BitVec.ofNat 64 (i.val + 256 * sl))⟩
def qf (cap : Nat) : Query := { qy [] (R [6]) with found := [fnd 1 2 0, fnd 0 3 1, fnd 0 3 0, fnd 0 1 0], cap := cap }
def spE : Space := { sp0 with regions := [rg 0 5 0] }
def q8 (s : State) : State := { s with place := { s.place with queries := List.replicate 8 (qy [] []) } }
def held (q : Query) : State := { frz (TY q 902) with place := ⟨[spP], [], [q]⟩ }
def TMv (m : Move) (sp : Space) : State := { P sp st with place := ⟨[sp], [m], []⟩ }
def mV : Move := { M .marked with via := some (1, 5) }
def spF : Space := { spM with pools := [(6, 0x100000, 768)] }
def spW (o : Nat) : Space :=
  { sp0 with insts := [(placeKey 6 1, ins 8 1 6 3 9), (placeKey 300 1, ins 8 0 300 3 9)], handles := [(placeKey 0 3, ⟨9, some (o, 1), false, []⟩)] }
def spV (o : Nat) (l : List QueuedDeref) : Space := { spW o with handles := [(placeKey 0 3, ⟨9, some (o, 1), false, l⟩)] }
def qo (op : Deref) (v : Transit) (f : Option (Nat × Nat)) : QueuedDeref := ⟨2, 1, 9, op, v, f⟩
def TO (op : Deref) (sp : Space) : State := putSlotAt (P sp st) 2 1 { slot0 with stall := .place op 5 8 none }
def pz (l : List Nat) (s : State) : State := { s with poison := l }
def dz (l : List Nat) : State := pz l (D dv)
def duE (s : State) : TrapInfo := ((defineUe (du s) (readG s 20).toNat).getD te)
def issu (n : Fin 16) (st' : Stall) (s : State) : State := putSlotAt s 3 1 { slot0 with issued := .pnew 1 2 3 n, stall := st' }
def busyP : State :=
  { issu 2 .again (sys (P sp0 (S 3))) with cells := [(0, { cell0 with cc := { cc0 with desc := { cc0.desc with sys := true } } }), (3, cell0)] }

/-- The hypotheses of Dereferences hold together. -/
theorem witness_dereferences :
    (let s : State := (P (spW 300) (S (hw 2 0 3 9)))
    let a : GReg := 20
    let b : GReg := 1
    let n : Fin 16 := 3
    let sp : Space := (spW 300)
    let h : Handle := ⟨9, some (300, 1), false, []⟩
    let owner : Nat := 300
    let rs : Nat := 1
    let x : Inst := (ins 8 0 300 3 9)
    let w := readG s a
    let home := w.toNat / 2 ^ 50 % 1024
    let ix := w.toNat / 2 ^ 20 % 2 ^ 30
    let die (c : Nat) := dieOf (physOf s c)
    let p : Point := ⟨(readG s b).setWidth 32, (readG s b >>> 32).setWidth 32, (readG s (b + 1)).setWidth 32⟩
    let here : Prop := byLath s (myDie s) (die home) = false ∧ derefHeld s sp home ix = false
    Resolves s w sp h owner rs x ∧ here ∧ owner ≠ home ∧ regionOf sp p = x.region ∧ n.val < recWords sp) ∧
   (let s : State := (setG T 1 0x80000000)
    let a : GReg := 20
    let b : GReg := 1
    let n : Fin 16 := 3
    let sp : Space := sp0
    let h : Handle := ⟨9, some (0, 1), false, []⟩
    let owner : Nat := 0
    let rs : Nat := 1
    let x : Inst := (ins 7 0 0 3 9)
    let w := readG s a
    let home := w.toNat / 2 ^ 50 % 1024
    let ix := w.toNat / 2 ^ 20 % 2 ^ 30
    let die (c : Nat) := dieOf (physOf s c)
    let p : Point := ⟨(readG s b).setWidth 32, (readG s b >>> 32).setWidth 32, (readG s (b + 1)).setWidth 32⟩
    let here : Prop := byLath s (myDie s) (die home) = false ∧ derefHeld s sp home ix = false
    Resolves s w sp h owner rs x ∧ here ∧ owner = home ∧ n.val < recWords sp ∧ regionOf sp p ≠ x.region) ∧
   (let s : State := (P spH (S (hw 2 300 3 9)))
    let a : GReg := 20
    let n : Fin 16 := 3
    let sp : Space := spH
    let h : Handle := ⟨9, some (0, 1), false, []⟩
    let owner : Nat := 0
    let rs : Nat := 1
    let x : Inst := (ins 7 0 0 3 9)
    let w := readG s a
    let home := w.toNat / 2 ^ 50 % 1024
    let ix := w.toNat / 2 ^ 20 % 2 ^ 30
    let die (c : Nat) := dieOf (physOf s c)
    let here : Prop := byLath s (myDie s) (die home) = false ∧ derefHeld s sp home ix = false
    Resolves s w sp h owner rs x ∧ ¬here ∧ n.val < recWords sp) ∧
   (let s : State := T
    let a : GReg := 20
    let b : GReg := 1
    let sp : Space := sp0
    let h : Handle := ⟨9, some (0, 1), false, []⟩
    let owner : Nat := 0
    let rs : Nat := 1
    let x : Inst := (ins 7 0 0 3 9)
    let w := readG s a
    let home := w.toNat / 2 ^ 50 % 1024
    let ix := w.toNat / 2 ^ 20 % 2 ^ 30
    let die (c : Nat) := dieOf (physOf s c)
    let p : Point := ⟨(readG s b).setWidth 32, (readG s b >>> 32).setWidth 32, (readG s (b + 1)).setWidth 32⟩
    let here : Prop := byLath s (myDie s) (die home) = false ∧ derefHeld s sp home ix = false
    Resolves s w sp h owner rs x ∧ here ∧ owner = home ∧ regionOf sp p = x.region) := by
  refine ⟨?_, ?_, ?_, ?_⟩
  · refine ⟨?_, by decide +kernel, by decide +kernel, by decide +kernel, by decide +kernel⟩
    constructor <;> decide +kernel
  · refine ⟨?_, by decide +kernel, by decide +kernel, by decide +kernel, by decide +kernel⟩
    constructor <;> decide +kernel
  · refine ⟨?_, by decide +kernel, by decide +kernel⟩
    constructor <;> decide +kernel
  · refine ⟨?_, by decide +kernel, by decide +kernel, by decide +kernel⟩
    constructor <;> decide +kernel

/-- The hypotheses of PlaceTraps hold together. -/
theorem witness_placeTraps :
    (let s : State := (P sp0 (S (hw 2 0 20 9)))
    let a : GReg := 20
    let sp : Space := sp0
    let w := readG s a
    let num : Fin 16 := Fin.ofNat 16 (w.toNat / 2 ^ 60)
    let id := (ccOf s).desc.ctxid
    let home := w.toNat / 2 ^ 50 % 1024
    let ix := w.toNat / 2 ^ 20 % 2 ^ 30
    let inRange : Prop := home < cellCount s ∧ ix < 2 ^ sp.pslots ∧ w.setWidth 20 ≠ 0
    spaceOf s id num = some sp ∧ ¬inRange) ∧
   (let s : State := (P sp0 (S (hw 2 0 3 8)))
    let a : GReg := 20
    let n : Fin 16 := 3
    let sp : Space := sp0
    let w := readG s a
    let num : Fin 16 := Fin.ofNat 16 (w.toNat / 2 ^ 60)
    let id := (ccOf s).desc.ctxid
    let home := w.toNat / 2 ^ 50 % 1024
    let ix := w.toNat / 2 ^ 20 % 2 ^ 30
    let h := handleSlot sp home ix
    let inRange : Prop := home < cellCount s ∧ ix < 2 ^ sp.pslots ∧ w.setWidth 20 ≠ 0
    let here : Prop := byLath s (myDie s) (dieOf (physOf s home)) = false ∧ derefHeld s sp home ix = false
    spaceOf s id num = some sp ∧ inRange ∧ n.val < recWords sp ∧ here ∧ h.moving = false ∧ h.queue = [] ∧ (h.gen ≠ w.setWidth 20 ∨
      h.holds = none)) ∧
   (let s : State := (P sp0 (S (hw 2 0 3 9)))
    let a : GReg := 20
    let n : Fin 16 := 15
    let sp : Space := sp0
    let w := readG s a
    let num : Fin 16 := Fin.ofNat 16 (w.toNat / 2 ^ 60)
    let id := (ccOf s).desc.ctxid
    let home := w.toNat / 2 ^ 50 % 1024
    let ix := w.toNat / 2 ^ 20 % 2 ^ 30
    let inRange : Prop := home < cellCount s ∧ ix < 2 ^ sp.pslots ∧ w.setWidth 20 ≠ 0
    spaceOf s id num = some sp ∧ inRange ∧ recWords sp ≤ n.val) ∧
   (let s : State := (S (hw 2 0 3 9))
    let a : GReg := 20
    let w := readG s a
    let num : Fin 16 := Fin.ofNat 16 (w.toNat / 2 ^ 60)
    let id := (ccOf s).desc.ctxid
    spaceOf s id num = none) := by
  refine ⟨?_, ?_, ?_, ?_⟩ <;> decide +kernel

/-- The hypotheses of RecordCreation hold together. -/
theorem witness_recordCreation :
    (let s : State := (P fullH (S 1))
    let a : GReg := 20
    let num : Fin 16 := 2
    let sp : Space := fullH
    let y := slotOf s
    let id := (ccOf s).desc.ctxid
    let w1 := readG s (a + 1)
    let p : Point := ⟨(readG s a).setWidth 32, (readG s a >>> 32).setWidth 32, w1.setWidth 32⟩
    let r := regionOf sp p
    let c := ownerOf sp r
    let die := dieOf (physOf s c)
    let there : Prop := die = myDie s ∨ y.stall = .there
    let handleUsed (k : Nat) : Prop := (handleSlot sp c k).holds ≠ none
    let recordUsed (k : Nat) : Prop := tabFind sp.insts (placeKey c k) ≠ none
    spaceOf s id num = some sp ∧ there ∧ poolHeld s sp c = false ∧ ((∀ k, k < 2 ^ sp.pslots → handleUsed k) ∨
      (∀ k, k < 2 ^ sp.pslots → recordUsed k))) ∧
   (let s : State := (P spX (S 1))
    let a : GReg := 20
    let num : Fin 16 := 2
    let sp : Space := spX
    let y := slotOf s
    let id := (ccOf s).desc.ctxid
    let w1 := readG s (a + 1)
    let p : Point := ⟨(readG s a).setWidth 32, (readG s a >>> 32).setWidth 32, w1.setWidth 32⟩
    let r := regionOf sp p
    let c := ownerOf sp r
    let die := dieOf (physOf s c)
    let there : Prop := die = myDie s ∨ y.stall = .there
    spaceOf s id num = some sp ∧ ¬there) ∧
   (let s : State := (S 1)
    let num : Fin 16 := 2
    let id := (ccOf s).desc.ctxid
    spaceOf s id num = none) ∧
   (let s : State := (again (P spX (S 1)))
    let a : GReg := 20
    let num : Fin 16 := 2
    let sp : Space := spX
    let n : Nat := 0
    let rs : Nat := 0
    let y := slotOf s
    let id := (ccOf s).desc.ctxid
    let w1 := readG s (a + 1)
    let p : Point := ⟨(readG s a).setWidth 32, (readG s a >>> 32).setWidth 32, w1.setWidth 32⟩
    let r := regionOf sp p
    let c := ownerOf sp r
    let die := dieOf (physOf s c)
    let there : Prop := die = myDie s ∨ y.stall = .there
    let handleUsed (k : Nat) : Prop := (handleSlot sp c k).holds ≠ none
    let recordUsed (k : Nat) : Prop := tabFind sp.insts (placeKey c k) ≠ none
    spaceOf s id num = some sp ∧ there ∧ poolHeld s sp c = false ∧ n < 2 ^ sp.pslots ∧ ¬handleUsed n ∧ ((∀ k, k < n → handleUsed k)) ∧
      rs < 2 ^ sp.pslots ∧ ¬recordUsed rs ∧ ((∀ k, k < rs → recordUsed k))) ∧
   (let s : State := (again (frz (P spP (S 1))))
    let a : GReg := 20
    let num : Fin 16 := 2
    let sp : Space := spP
    let y := slotOf s
    let id := (ccOf s).desc.ctxid
    let w1 := readG s (a + 1)
    let p : Point := ⟨(readG s a).setWidth 32, (readG s a >>> 32).setWidth 32, w1.setWidth 32⟩
    let r := regionOf sp p
    let c := ownerOf sp r
    let die := dieOf (physOf s c)
    let there : Prop := die = myDie s ∨ y.stall = .there
    spaceOf s id num = some sp ∧ there ∧ poolHeld s sp c = true) := by
  refine ⟨?_, ?_, ?_, ?_, ?_⟩ <;> decide +kernel

/-- The hypotheses of SpaceControl hold together. -/
theorem witness_spaceControl_1 :
    (let s : State := (D 7)
    let u : State := (du (D 7))
    let a : GReg := 20
    let num : Fin 16 := 2
    let pg : List Nat := (sc (D 7)).1
    let id := (ccOf s).desc.ctxid
    let v := (readG s a).toNat
    let V := natOf (pagedBytes u pg v 64)
    let F (hi lo : Nat) : Nat := V / 2 ^ lo % 2 ^ (hi + 1 - lo)
    let descOk : Prop := F 511 224 = 0 ∧ F 191 168 = 0 ∧ F 159 157 = 0 ∧ F 151 146 = 0 ∧ F 143 140 = 0 ∧ F 145 144 ≤ 2 ∧
      4 ≤ F 156 152 ∧ F 156 152 ≤ 24 ∧ F 79 64 = 0 ∧ F 127 119 = 0 ∧ F 4 0 = 0 ∧ F 63 55 = 0
    let def_ : Prop := ¬UserMode s ∧ spaceOf s id num = none
    def_ ∧ v % 64 = 0 ∧ getDefine s v = .ok u ∧ defineUe u v = none ∧ agentPages u v 64 = some pg ∧ ¬descOk ∧ ¬UserMode s ∧
      spaceOf s id num = none) ∧
   (let s : State := (dz [0x300040/32])
    let u : State := (du (dz [0x300040/32]))
    let a : GReg := 20
    let num : Fin 16 := 2
    let pg : List Nat := (sc (dz [0x300040/32])).1
    let e : TrapInfo := (duE (dz [0x300040/32]))
    let z : Nat := 0
    let id := (ccOf s).desc.ctxid
    let v := (readG s a).toNat
    let def_ : Prop := ¬UserMode s ∧ spaceOf s id num = none
    let bad (k : Nat) : Prop := readsBad u (myDie s) ((pg.getD 0 0 + v % 65536) / 32 + k) = true
    def_ ∧ v % 64 = 0 ∧ getDefine s v = .ok u ∧ defineUe u v = some e ∧ poisonedWalk u s.curCell (ccOf s).desc [readG s a] = none ∧
      agentPages u v 64 = some pg ∧ z < 2 ∧ bad z ∧ ((z = 1 → ¬bad 0))) ∧
   (let s : State := (sys T)
    let d : GReg := 22
    let a : GReg := 20
    let num : Fin 16 := 2
    let sp : Space := sp0
    let e : TrapInfo := te
    let id := (ccOf s).desc.ctxid
    let pnews (x : Slot) : Prop := (∃ d a b, x.issued = .pnew d a b sp.num) ∧ (x.stall = .again ∨ x.stall = .there ∨ ∃ t, x.stall = .trip t)
    let busy : Prop := (∃ m ∈ s.place.moves, m.ctxid = sp.ctxid ∧ m.num = sp.num) ∨ (∃ e ∈ sp.handles, e.2.queue ≠ []) ∨
      ∃ e ∈ s.slots, pnews e.2 ∧ (ccAt s (e.1 / 4)).desc.ctxid = sp.ctxid
    ¬UserMode s ∧ (spaceOf s id num).isSome ∧ spaceOf s id num = some sp ∧ ¬busy) := by
  refine ⟨?_, ?_, ?_⟩
  · decide +kernel
  · decide +kernel
  · refine ⟨by decide +kernel, by decide +kernel, by decide +kernel, ?_⟩
    exact idle_space (by decide +kernel) (by decide +kernel) (by decide +kernel)

/-- The hypotheses of SpaceControl hold together. -/
theorem witness_spaceControl_2 :
    (let s : State := (D dv)
    let u : State := (du (D dv))
    let a : GReg := 20
    let num : Fin 16 := 2
    let pg : List Nat := (sc (D dv)).1
    let mpg : List Nat := (sc (D dv)).2
    let id := (ccOf s).desc.ctxid
    let v := (readG s a).toNat
    let V := natOf (pagedBytes u pg v 64)
    let F (hi lo : Nat) : Nat := V / 2 ^ lo % 2 ^ (hi + 1 - lo)
    let descOk : Prop := F 511 224 = 0 ∧ F 191 168 = 0 ∧ F 159 157 = 0 ∧ F 151 146 = 0 ∧ F 143 140 = 0 ∧ F 145 144 ≤ 2 ∧
      4 ≤ F 156 152 ∧ F 156 152 ≤ 24 ∧ F 79 64 = 0 ∧ F 127 119 = 0 ∧ F 4 0 = 0 ∧ F 63 55 = 0
    let n := F 139 128 + 1
    let bytes := 2 ^ F 156 152 * (2 ^ (5 + F 145 144) + 16)
    let E (i : Nat) : Nat := natOf (pagedBytes u mpg (F 63 0) (32 * n)) / 2 ^ (256 * i) % 2 ^ 256
    let co (i k : Nat) : BitVec 32 := BitVec.ofNat 32 (E i / 2 ^ (32 * k))
    let owner (i : Nat) : Nat := E i / 2 ^ 192 % 1024
    let mapOk : Prop := (∀ i, i < n → E i / 2 ^ 202 = 0 ∧ owner i < cellCount u ∧ ∀ k, k < 3 → (co i k).toInt ≤ (co i (k + 3)).toInt) ∧
      ∀ k, k < 3 → co (n - 1) k = 0x80000000 ∧ co (n - 1) (k + 3) = 0x7FFFFFFF
    let poolsOk : Prop := ∀ i, i < n → agentPages u (F 127 64 + owner i * bytes) bytes ≠ none
    let def_ : Prop := ¬UserMode s ∧ spaceOf s id num = none
    def_ ∧ v % 64 = 0 ∧ getDefine s v = .ok u ∧ defineUe u v = none ∧ agentPages u v 64 = some pg ∧ descOk ∧
      agentPages u (F 63 0) (32 * n) = some mpg ∧ mapOk ∧ poolsOk) ∧
   (let s : State := (S 3)
    UserMode s) ∧
   (let s : State := (sys (S 0x80000000000000))
    let u : State := (du (sys (S 0x80000000000000)))
    let a : GReg := 20
    let num : Fin 16 := 2
    let id := (ccOf s).desc.ctxid
    let v := (readG s a).toNat
    let def_ : Prop := ¬UserMode s ∧ spaceOf s id num = none
    def_ ∧ v % 64 = 0 ∧ getDefine s v = .ok u ∧ defineUe u v = none ∧ agentPages u v 64 = none) := by
  refine ⟨?_, ?_, ?_⟩
  · decide +kernel
  · decide +kernel
  · decide +kernel

/-- The hypotheses of SpaceControl hold together. -/
theorem witness_spaceControl_3 :
    (let s : State := (sys (S 3))
    let a : GReg := 20
    let num : Fin 16 := 2
    let id := (ccOf s).desc.ctxid
    let v := (readG s a).toNat
    let def_ : Prop := ¬UserMode s ∧ spaceOf s id num = none
    def_ ∧ v % 64 ≠ 0) ∧
   (let s : State := badMap
    let u : State := (du badMap)
    let a : GReg := 20
    let num : Fin 16 := 2
    let pg : List Nat := (sc badMap).1
    let mpg : List Nat := (sc badMap).2
    let id := (ccOf s).desc.ctxid
    let v := (readG s a).toNat
    let V := natOf (pagedBytes u pg v 64)
    let F (hi lo : Nat) : Nat := V / 2 ^ lo % 2 ^ (hi + 1 - lo)
    let descOk : Prop := F 511 224 = 0 ∧ F 191 168 = 0 ∧ F 159 157 = 0 ∧ F 151 146 = 0 ∧ F 143 140 = 0 ∧ F 145 144 ≤ 2 ∧
      4 ≤ F 156 152 ∧ F 156 152 ≤ 24 ∧ F 79 64 = 0 ∧ F 127 119 = 0 ∧ F 4 0 = 0 ∧ F 63 55 = 0
    let n := F 139 128 + 1
    let E (i : Nat) : Nat := natOf (pagedBytes u mpg (F 63 0) (32 * n)) / 2 ^ (256 * i) % 2 ^ 256
    let co (i k : Nat) : BitVec 32 := BitVec.ofNat 32 (E i / 2 ^ (32 * k))
    let owner (i : Nat) : Nat := E i / 2 ^ 192 % 1024
    let mapOk : Prop := (∀ i, i < n → E i / 2 ^ 202 = 0 ∧ owner i < cellCount u ∧ ∀ k, k < 3 → (co i k).toInt ≤ (co i (k + 3)).toInt) ∧
      ∀ k, k < 3 → co (n - 1) k = 0x80000000 ∧ co (n - 1) (k + 3) = 0x7FFFFFFF
    let def_ : Prop := ¬UserMode s ∧ spaceOf s id num = none
    def_ ∧ v % 64 = 0 ∧ getDefine s v = .ok u ∧ defineUe u v = none ∧ agentPages u v 64 = some pg ∧ descOk ∧
      agentPages u (F 63 0) (32 * n) = some mpg ∧ ¬mapOk) ∧
   (let s : State := busyP
    let d : GReg := 22
    let a : GReg := 20
    let num : Fin 16 := 2
    let sp : Space := sp0
    let e : TrapInfo := te
    let id := (ccOf s).desc.ctxid
    let pnews (x : Slot) : Prop := (∃ d a b, x.issued = .pnew d a b sp.num) ∧ (x.stall = .again ∨ x.stall = .there ∨ ∃ t, x.stall = .trip t)
    let busy : Prop := (∃ m ∈ s.place.moves, m.ctxid = sp.ctxid ∧ m.num = sp.num) ∨ (∃ e ∈ sp.handles, e.2.queue ≠ []) ∨
      ∃ e ∈ s.slots, pnews e.2 ∧ (ccAt s (e.1 / 4)).desc.ctxid = sp.ctxid
    ¬UserMode s ∧ spaceOf s id num = some sp ∧ busy) := by
  refine ⟨?_, ?_, ?_⟩
  · decide +kernel
  · decide +kernel
  · refine ⟨by decide +kernel, by decide +kernel, ?_⟩
    exact Or.inr (Or.inr (pnew_waits (by decide +kernel)))

/-- The hypotheses of SpaceControl hold together. -/
theorem witness_spaceControl_4 :
    (let s : State := farD
    let w : State := (du farD)
    let a : GReg := 20
    let num : Fin 16 := 2
    let id := (ccOf s).desc.ctxid
    let v := (readG s a).toNat
    let def_ : Prop := ¬UserMode s ∧ spaceOf s id num = none
    def_ ∧ getDefine s v = .error w) ∧
   (let s : State := noMap
    let u : State := (du noMap)
    let a : GReg := 20
    let num : Fin 16 := 2
    let pg : List Nat := (sc noMap).1
    let id := (ccOf s).desc.ctxid
    let v := (readG s a).toNat
    let V := natOf (pagedBytes u pg v 64)
    let F (hi lo : Nat) : Nat := V / 2 ^ lo % 2 ^ (hi + 1 - lo)
    let descOk : Prop := F 511 224 = 0 ∧ F 191 168 = 0 ∧ F 159 157 = 0 ∧ F 151 146 = 0 ∧ F 143 140 = 0 ∧ F 145 144 ≤ 2 ∧
      4 ≤ F 156 152 ∧ F 156 152 ≤ 24 ∧ F 79 64 = 0 ∧ F 127 119 = 0 ∧ F 4 0 = 0 ∧ F 63 55 = 0
    let n := F 139 128 + 1
    let def_ : Prop := ¬UserMode s ∧ spaceOf s id num = none
    def_ ∧ v % 64 = 0 ∧ getDefine s v = .ok u ∧ defineUe u v = none ∧ agentPages u v 64 = some pg ∧ descOk ∧
      agentPages u (F 63 0) (32 * n) = none) ∧
   (let s : State := noPool
    let u : State := (du noPool)
    let a : GReg := 20
    let num : Fin 16 := 2
    let pg : List Nat := (sc noPool).1
    let mpg : List Nat := (sc noPool).2
    let id := (ccOf s).desc.ctxid
    let v := (readG s a).toNat
    let V := natOf (pagedBytes u pg v 64)
    let F (hi lo : Nat) : Nat := V / 2 ^ lo % 2 ^ (hi + 1 - lo)
    let descOk : Prop := F 511 224 = 0 ∧ F 191 168 = 0 ∧ F 159 157 = 0 ∧ F 151 146 = 0 ∧ F 143 140 = 0 ∧ F 145 144 ≤ 2 ∧
      4 ≤ F 156 152 ∧ F 156 152 ≤ 24 ∧ F 79 64 = 0 ∧ F 127 119 = 0 ∧ F 4 0 = 0 ∧ F 63 55 = 0
    let n := F 139 128 + 1
    let bytes := 2 ^ F 156 152 * (2 ^ (5 + F 145 144) + 16)
    let E (i : Nat) : Nat := natOf (pagedBytes u mpg (F 63 0) (32 * n)) / 2 ^ (256 * i) % 2 ^ 256
    let co (i k : Nat) : BitVec 32 := BitVec.ofNat 32 (E i / 2 ^ (32 * k))
    let owner (i : Nat) : Nat := E i / 2 ^ 192 % 1024
    let mapOk : Prop := (∀ i, i < n → E i / 2 ^ 202 = 0 ∧ owner i < cellCount u ∧ ∀ k, k < 3 → (co i k).toInt ≤ (co i (k + 3)).toInt) ∧
      ∀ k, k < 3 → co (n - 1) k = 0x80000000 ∧ co (n - 1) (k + 3) = 0x7FFFFFFF
    let poolsOk : Prop := ∀ i, i < n → agentPages u (F 127 64 + owner i * bytes) bytes ≠ none
    let def_ : Prop := ¬UserMode s ∧ spaceOf s id num = none
    def_ ∧ v % 64 = 0 ∧ getDefine s v = .ok u ∧ defineUe u v = none ∧ agentPages u v 64 = some pg ∧ descOk ∧
      agentPages u (F 63 0) (32 * n) = some mpg ∧ mapOk ∧ ¬poolsOk) := by
  refine ⟨?_, ?_, ?_⟩
  · decide +kernel
  · decide +kernel
  · decide +kernel

/-- The hypotheses of Queries hold together. -/
theorem witness_queries :
    (let s : State := (setG (P sp0 (S 3)) 1 0x400000100)
    let a : GReg := 20
    let b : GReg := 1
    let num : Fin 16 := 2
    let sp : Space := sp0
    let c := ccOf s
    let buf := readG s b
    let w (i : Fin 64) : Word := readG s (a + i)
    let lo (v : Word) : BitVec 32 := v.setWidth 32
    let hi (v : Word) : BitVec 32 := (v >>> 32).setWidth 32
    let box : QueryShape := .box #v[lo (w 0), hi (w 0), lo (w 1)] #v[hi (w 1), lo (w 2), hi (w 2)]
    let ball : QueryShape := .sphere #v[lo (w 0), hi (w 0), lo (w 1)] (hi (w 1))
    let off := buf.toNat % 2 ^ 20
    let cap := buf.toNat / 2 ^ 32 % 2 ^ 16
    let wordOk : Prop := buf.toNat / 2 ^ 48 = 0 ∧ buf.toNat / 2 ^ 20 % 2 ^ 12 = 0 ∧ buf.toNat % 32 = 0
    let bad (o : Nat) : Prop := padSize c ≤ o ∨ (bankBase c ≤ o ∧ o < bankBase c + 2 * bankLen c) ∨
      tabFind c.tiles (o / 4096) ≠ none
    let room : Prop := ∀ j, j < 32 + 32 * cap → ¬bad (off + j)
    let found := spaceOf s c.desc.ctxid num
    let ticket := (readG s a).toNat
    found = some sp ∧ wordOk ∧ room ∧ (s.place.queries.countP (fun q => q.cell = s.curCell) < 8) ∧ queryOwners sp ball ≠ [] ∧
      (cellAt s s.curCell).live = true ∧ queryOwners sp box = [] ∧ (ticket = 0 ∨ c.queries < ticket)) ∧
   (let s : State := (Tq 12 [] (P sp0 (S 3)))
    let a : GReg := 20
    let b : GReg := 1
    let num : Fin 16 := 2
    let sp : Space := sp0
    let c := ccOf s
    let buf := readG s b
    let wordOk : Prop := buf.toNat / 2 ^ 48 = 0 ∧ buf.toNat / 2 ^ 20 % 2 ^ 12 = 0 ∧ buf.toNat % 32 = 0
    let found := spaceOf s c.desc.ctxid num
    let ticket := (readG s a).toNat
    found = some sp ∧ ¬wordOk ∧ ticket ≠ 0 ∧ ticket + 8 ≤ c.queries) ∧
   (let s : State := (S 3)
    let num : Fin 16 := 2
    let c := ccOf s
    let found := spaceOf s c.desc.ctxid num
    found = none) ∧
   (let s : State := (Tq 5 [] (P sp0 (S 3)))
    let a : GReg := 20
    let c := ccOf s
    let ticket := (readG s a).toNat
    ticket ≠ 0 ∧ ticket ≤ c.queries ∧ c.queries < ticket + 8 ∧ (c.results.find? (fun e => e.ticket = ticket) = none)) ∧
   (let s : State := (Tq 5 [r3] (P sp0 (S 3)))
    let a : GReg := 20
    let r : QueryResult := r3
    let c := ccOf s
    let ticket := (readG s a).toNat
    ticket ≠ 0 ∧ ticket ≤ c.queries ∧ c.queries < ticket + 8 ∧ (c.results.find? (fun e => e.ticket = ticket) = some r)) ∧
   (let s : State := (q8 (setG (P sp0 (S 3)) 1 0x400000100))
    let b : GReg := 1
    let num : Fin 16 := 2
    let sp : Space := sp0
    let c := ccOf s
    let buf := readG s b
    let off := buf.toNat % 2 ^ 20
    let cap := buf.toNat / 2 ^ 32 % 2 ^ 16
    let wordOk : Prop := buf.toNat / 2 ^ 48 = 0 ∧ buf.toNat / 2 ^ 20 % 2 ^ 12 = 0 ∧ buf.toNat % 32 = 0
    let bad (o : Nat) : Prop := padSize c ≤ o ∨ (bankBase c ≤ o ∧ o < bankBase c + 2 * bankLen c) ∨
      tabFind c.tiles (o / 4096) ≠ none
    let room : Prop := ∀ j, j < 32 + 32 * cap → ¬bad (off + j)
    let found := spaceOf s c.desc.ctxid num
    found = some sp ∧ wordOk ∧ room ∧ (8 ≤ s.place.queries.countP (fun q => q.cell = s.curCell))) ∧
   (let s : State := (setG (P sp0 (S 3)) 1 0x400040000)
    let b : GReg := 1
    let num : Fin 16 := 2
    let sp : Space := sp0
    let c := ccOf s
    let buf := readG s b
    let off := buf.toNat % 2 ^ 20
    let cap := buf.toNat / 2 ^ 32 % 2 ^ 16
    let wordOk : Prop := buf.toNat / 2 ^ 48 = 0 ∧ buf.toNat / 2 ^ 20 % 2 ^ 12 = 0 ∧ buf.toNat % 32 = 0
    let bad (o : Nat) : Prop := padSize c ≤ o ∨ (bankBase c ≤ o ∧ o < bankBase c + 2 * bankLen c) ∨
      tabFind c.tiles (o / 4096) ≠ none
    let found := spaceOf s c.desc.ctxid num
    let j : Nat := 0
    found = some sp ∧ wordOk ∧ j < 32 + 32 * cap ∧ bad (off + j) ∧ ((∀ k, k < j → ¬bad (off + k)))) ∧
   (let s : State := (setG (setG (P spE (S 0x7FFFFFFF)) 1 0x400000100) 21 0)
    let a : GReg := 20
    let b : GReg := 1
    let num : Fin 16 := 2
    let sp : Space := spE
    let c := ccOf s
    let buf := readG s b
    let w (i : Fin 64) : Word := readG s (a + i)
    let lo (v : Word) : BitVec 32 := v.setWidth 32
    let hi (v : Word) : BitVec 32 := (v >>> 32).setWidth 32
    let ball : QueryShape := .sphere #v[lo (w 0), hi (w 0), lo (w 1)] (hi (w 1))
    let off := buf.toNat % 2 ^ 20
    let cap := buf.toNat / 2 ^ 32 % 2 ^ 16
    let wordOk : Prop := buf.toNat / 2 ^ 48 = 0 ∧ buf.toNat / 2 ^ 20 % 2 ^ 12 = 0 ∧ buf.toNat % 32 = 0
    let bad (o : Nat) : Prop := padSize c ≤ o ∨ (bankBase c ≤ o ∧ o < bankBase c + 2 * bankLen c) ∨
      tabFind c.tiles (o / 4096) ≠ none
    let room : Prop := ∀ j, j < 32 + 32 * cap → ¬bad (off + j)
    let found := spaceOf s c.desc.ctxid num
    found = some sp ∧ wordOk ∧ room ∧ (s.place.queries.countP (fun q => q.cell = s.curCell) < 8) ∧ (cellAt s s.curCell).live = true ∧
      queryOwners sp ball = []) ∧
   (let s : State := (setG (setG (setG (P sp0 (S 3)) 1 0x400000100) 21 0x7FFFFFFF80000000) 22 0x800000007FFFFFFF)
    let a : GReg := 20
    let b : GReg := 1
    let num : Fin 16 := 2
    let sp : Space := sp0
    let c := ccOf s
    let buf := readG s b
    let w (i : Fin 64) : Word := readG s (a + i)
    let lo (v : Word) : BitVec 32 := v.setWidth 32
    let hi (v : Word) : BitVec 32 := (v >>> 32).setWidth 32
    let box : QueryShape := .box #v[lo (w 0), hi (w 0), lo (w 1)] #v[hi (w 1), lo (w 2), hi (w 2)]
    let off := buf.toNat % 2 ^ 20
    let cap := buf.toNat / 2 ^ 32 % 2 ^ 16
    let wordOk : Prop := buf.toNat / 2 ^ 48 = 0 ∧ buf.toNat / 2 ^ 20 % 2 ^ 12 = 0 ∧ buf.toNat % 32 = 0
    let bad (o : Nat) : Prop := padSize c ≤ o ∨ (bankBase c ≤ o ∧ o < bankBase c + 2 * bankLen c) ∨
      tabFind c.tiles (o / 4096) ≠ none
    let room : Prop := ∀ j, j < 32 + 32 * cap → ¬bad (off + j)
    let found := spaceOf s c.desc.ctxid num
    found = some sp ∧ wordOk ∧ room ∧ (s.place.queries.countP (fun q => q.cell = s.curCell) < 8) ∧ queryOwners sp box ≠ []) := by
  refine ⟨?_, ?_, ?_, ?_, ?_, ?_, ?_, ?_, ?_⟩ <;> decide +kernel

/-- The hypotheses of QueryService hold together. -/
theorem witness_queryService :
    (let s : State := (TY (qf 0) 1000)
    let i : Nat := 0
    let owner : Nat := 6
    let q : Query := (qf 0)
    let c : CtxCell := cc0
    let asked : Prop := ∃ v, (owner, v) ∈ q.toServe ∧ arrived s v = true
    let answered : Prop := (∃ v, (owner, v) ∈ q.toAnswer ∧ arrived s v = true) ∧ ∀ e ∈ q.deferred, e.1 ≠ owner
    let rest := q.toAnswer.filter (fun e => e.1 ≠ owner)
    let n := if q.stale then 0 else q.found.length
    let k := min q.cap n
    s.place.queries[i]? = some q ∧ ¬asked ∧ answered ∧ rest = [] ∧ q.toServe = [] ∧ ctxFind s q.cell q.ctxid = some c ∧
      q.off + 32 + 32 * k ≤ padSize c) ∧
   (let s : State := (TY (qy (R [0, 6]) []) (901 + windowNs sp0))
    let i : Nat := 0
    let owner : Nat := 6
    let q : Query := (qy (R [0, 6]) [])
    let sp : Space := sp0
    let asked : Prop := ∃ v, (owner, v) ∈ q.toServe ∧ arrived s v = true
    let answered : Prop := (∃ v, (owner, v) ∈ q.toAnswer ∧ arrived s v = true) ∧ ∀ e ∈ q.deferred, e.1 ≠ owner
    s.place.queries[i]? = some q ∧ ¬answered ∧ spaceOf s q.ctxid q.num = some sp ∧ asked ∧ poolHeld s sp owner = false ∧
      q.q + windowNs sp < s.stime.toNat) ∧
   (let s : State := (TY (qy (R [0, 6]) []) 902)
    let i : Nat := 0
    let owner : Nat := 0
    let q : Query := (qy (R [0, 6]) [])
    let sp : Space := sp0
    let asked : Prop := ∃ v, (owner, v) ∈ q.toServe ∧ arrived s v = true
    s.place.queries[i]? = some q ∧ spaceOf s q.ctxid q.num = some sp ∧ asked ∧ poolHeld s sp owner = false ∧
      s.stime.toNat ≤ q.q + windowNs sp) ∧
   (let s : State := (TY (qy [] (R [6, 0])) 1000)
    let i : Nat := 0
    let owner : Nat := 6
    let q : Query := (qy [] (R [6,0]))
    let answered : Prop := (∃ v, (owner, v) ∈ q.toAnswer ∧ arrived s v = true) ∧ ∀ e ∈ q.deferred, e.1 ≠ owner
    let rest := q.toAnswer.filter (fun e => e.1 ≠ owner)
    s.place.queries[i]? = some q ∧ answered ∧ (rest ≠ [] ∨ q.toServe ≠ [])) ∧
   (let s : State := (held (qy (R [0, 6]) []))
    let i : Nat := 0
    let owner : Nat := 0
    let q : Query := (qy (R [0, 6]) [])
    let sp : Space := spP
    s.place.queries[i]? = some q ∧ spaceOf s q.ctxid q.num = some sp ∧ poolHeld s sp owner = true) := by
  refine ⟨?_, ?_, ?_, ?_, ?_⟩
  · refine ⟨by decide +kernel, ?_, ?_, by decide +kernel, by decide +kernel, by decide +kernel, by decide +kernel⟩
    · refine not_paired_of ?_
      decide +kernel
    · exact ⟨paired_of (by decide +kernel), by decide +kernel⟩
  · refine ⟨by decide +kernel, ?_, by decide +kernel, ?_, by decide +kernel, by decide +kernel⟩
    · exact fun h => absurd h.1 (not_paired_of (by decide +kernel))
    · refine paired_of ?_
      decide +kernel
  · refine ⟨by decide +kernel, by decide +kernel, ?_, by decide +kernel, by decide +kernel⟩
    refine paired_of ?_
    decide +kernel
  · refine ⟨by decide +kernel, ?_, by decide +kernel⟩
    exact ⟨paired_of (by decide +kernel), by decide +kernel⟩
  · decide +kernel

/-- The hypotheses of RecordMoves hold together. -/
theorem witness_recordMoves :
    (let s : State := (TM (.acked 1234 0) spM)
    let i : Nat := 0
    let m : Move := (M (.acked 1234 0))
    let sp : Space := spM
    let ns : Nat := 0
    let a' : Nat := 1234
    let op : Deref := .pset 1 2 3
    let d : GReg := 5
    let w : Word := 8
    let o : Option (DerefAnswer × Transit) := none
    s.place.moves[i]? = some m ∧ spaceOf s m.ctxid m.num = some sp ∧ arrived s m.via = true ∧
      (slotAt s m.cell m.slot).stall = .place op d w o ∧ m.stage = .acked a' ns) ∧
   (let s : State := (TM (.arrived 1234 0) spM)
    let i : Nat := 0
    let m : Move := (M (.arrived 1234 0))
    let sp : Space := spM
    let x : Inst := (ins 7 0 0 3 9)
    let ns : Nat := 0
    let a' : Nat := 1234
    let src := placeKey m.source m.sslot
    s.place.moves[i]? = some m ∧ spaceOf s m.ctxid m.num = some sp ∧ arrived s m.via = true ∧ tabFind sp.insts src = some x ∧
      m.stage = .arrived a' ns) ∧
   (let s : State := (TM .departed full)
    let i : Nat := 0
    let m : Move := (M .departed)
    let sp : Space := full
    let x : Inst := (ins 1 0 0 3 9)
    let src := placeKey m.source m.sslot
    s.place.moves[i]? = some m ∧ spaceOf s m.ctxid m.num = some sp ∧ arrived s m.via = true ∧ tabFind sp.insts src = some x ∧
      m.stage = .departed ∧ poolHeld s sp m.dest = false ∧ freeRecord sp m.dest = none) ∧
   (let s : State := (TM .departed spM)
    let i : Nat := 0
    let m : Move := (M .departed)
    let sp : Space := spM
    let x : Inst := (ins 7 0 0 3 9)
    let ns : Nat := 0
    let src := placeKey m.source m.sslot
    s.place.moves[i]? = some m ∧ spaceOf s m.ctxid m.num = some sp ∧ arrived s m.via = true ∧ tabFind sp.insts src = some x ∧
      m.stage = .departed ∧ poolHeld s sp m.dest = false ∧ freeRecord sp m.dest = some ns) ∧
   (let s : State := (TM .marked spM)
    let i : Nat := 0
    let m : Move := (M .marked)
    let sp : Space := spM
    let x : Inst := (ins 7 0 0 3 9)
    let src := placeKey m.source m.sslot
    s.place.moves[i]? = some m ∧ spaceOf s m.ctxid m.num = some sp ∧ arrived s m.via = true ∧ tabFind sp.insts src = some x ∧
      m.stage = .marked) ∧
   (let s : State := (TM .refused spM)
    let i : Nat := 0
    let m : Move := (M .refused)
    let sp : Space := spM
    let x : Inst := (ins 7 0 0 3 9)
    let src := placeKey m.source m.sslot
    s.place.moves[i]? = some m ∧ spaceOf s m.ctxid m.num = some sp ∧ arrived s m.via = true ∧ tabFind sp.insts src = some x ∧
      m.stage = .refused) ∧
   (let s : State := (TM .returned spM)
    let i : Nat := 0
    let m : Move := (M .returned)
    let sp : Space := spM
    let op : Deref := .pset 1 2 3
    let d : GReg := 5
    let w : Word := 8
    let o : Option (DerefAnswer × Transit) := none
    s.place.moves[i]? = some m ∧ spaceOf s m.ctxid m.num = some sp ∧ arrived s m.via = true ∧
      (slotAt s m.cell m.slot).stall = .place op d w o ∧ m.stage = .returned) ∧
   (let s : State := (TMv mV spM)
    let i : Nat := 0
    let m : Move := mV
    let sp : Space := spM
    s.place.moves[i]? = some m ∧ spaceOf s m.ctxid m.num = some sp ∧ arrived s m.via = false) ∧
   (let s : State := (frz (TMv (M .departed) spF))
    let i : Nat := 0
    let m : Move := (M .departed)
    let sp : Space := spF
    s.place.moves[i]? = some m ∧ spaceOf s m.ctxid m.num = some sp ∧ poolHeld s sp m.dest = true) := by
  refine ⟨?_, ?_, ?_, ?_, ?_, ?_, ?_, ?_, ?_⟩ <;> decide +kernel

/-- The hypotheses of HomeOrder hold together. -/
theorem witness_homeOrder :
    (let s : State := { TQ (spT 10) with stime := 10 + windowNs sp0 }
    let j : Nat := 0
    let home : Nat := 0
    let ix : Nat := 1
    let sp : Space := (spT 10)
    let q : QueuedDeref := (qd 8)
    let owner : Nat := 0
    let rs : Nat := 1
    let a' : Nat := 10
    let x : Inst := { ins 7 0 0 3 9 with st := .tomb 10 }
    let h := handleSlot sp home ix
    let sent : Prop := h.queue.find? (fun e => e.fwd.isSome) = some q
    let none' : Prop := ∀ e ∈ h.queue, e.fwd = none
    s.place.spaces[j]? = some sp ∧ spaceOf s sp.ctxid sp.num = some sp ∧ (h.moving = true ∨ (∀ e ∈ h.queue, arrived s e.via = false) ∨
      (none' ∧ derefHeld s sp home ix = true) ∨ (sent ∧ (arrived s q.via = false ∨ q.fwd = some (owner, rs) ∧
       poolHeld s sp owner = true))) ∧ tabFind sp.insts (placeKey owner rs) = some x ∧ x.st = .tomb a' ∧ s.stime.toNat ≤ a' + windowNs sp) ∧
   (let s : State := (TO (.pld 3) (spV 300 [qd 4, qo (.pld 3) none none]))
    let j : Nat := 0
    let home : Nat := 0
    let ix : Nat := 3
    let sp : Space := (spV 300 [qd 4, qo (.pld 3) none none])
    let q : QueuedDeref := (qd 4)
    let owner : Nat := 300
    let rs : Nat := 1
    let x : Inst := (ins 8 0 300 3 9)
    let n : Fin 16 := 3
    let d : GReg := 5
    let w : Word := 8
    let h := handleSlot sp home ix
    let none' : Prop := ∀ e ∈ h.queue, e.fwd = none
    let first : Prop := none' ∧ h.queue.find? (fun e => arrived s e.via) = some q
    let waits (op : Deref) : Prop := (slotAt s q.cell q.slot).stall = .place op d w none
    s.place.spaces[j]? = some sp ∧ spaceOf s sp.ctxid sp.num = some sp ∧ first ∧ h.moving = false ∧ derefHeld s sp home ix = false ∧
      h.holds = some (owner, rs) ∧ tabFind sp.insts (placeKey owner rs) = some x ∧ q.op = .pld n ∧ waits (.pld n) ∧ h.gen ≠ q.gen) ∧
   (let s : State := (TO (.pld 3) (spV 300 [qo (.pld 3) none (some (300, 1)), qd 4]))
    let j : Nat := 0
    let home : Nat := 0
    let ix : Nat := 3
    let sp : Space := (spV 300 [qo (.pld 3) none (some (300, 1)), qd 4])
    let q : QueuedDeref := (qo (.pld 3) none (some (300, 1)))
    let owner : Nat := 300
    let rs : Nat := 1
    let x : Inst := (ins 8 0 300 3 9)
    let n : Fin 16 := 3
    let d : GReg := 5
    let w : Word := 8
    let h := handleSlot sp home ix
    let sent : Prop := h.queue.find? (fun e => e.fwd.isSome) = some q
    let waits (op : Deref) : Prop := (slotAt s q.cell q.slot).stall = .place op d w none
    s.place.spaces[j]? = some sp ∧ spaceOf s sp.ctxid sp.num = some sp ∧ sent ∧ q.fwd = some (owner, rs) ∧ arrived s q.via = true ∧
      h.moving = false ∧ poolHeld s sp owner = false ∧ tabFind sp.insts (placeKey owner rs) = some x ∧ q.op = .pld n ∧ waits (.pld n)) ∧
   (let s : State := (TO (.pld 3) (spV 300 [qo (.pld 3) none none, qd 4]))
    let j : Nat := 0
    let home : Nat := 0
    let ix : Nat := 3
    let sp : Space := (spV 300 [qo (.pld 3) none none, qd 4])
    let q : QueuedDeref := (qo (.pld 3) none none)
    let owner : Nat := 300
    let rs : Nat := 1
    let x : Inst := (ins 8 0 300 3 9)
    let n : Fin 16 := 3
    let d : GReg := 5
    let w : Word := 8
    let h := handleSlot sp home ix
    let none' : Prop := ∀ e ∈ h.queue, e.fwd = none
    let first : Prop := none' ∧ h.queue.find? (fun e => arrived s e.via) = some q
    let waits (op : Deref) : Prop := (slotAt s q.cell q.slot).stall = .place op d w none
    s.place.spaces[j]? = some sp ∧ spaceOf s sp.ctxid sp.num = some sp ∧ first ∧ h.moving = false ∧ derefHeld s sp home ix = false ∧
      h.holds = some (owner, rs) ∧ tabFind sp.insts (placeKey owner rs) = some x ∧ q.op = .pld n ∧ waits (.pld n) ∧ h.gen = q.gen ∧
      owner ≠ home) ∧
   (let s : State := (TO .pdel (spV 300 [qo .pdel none (some (300, 1)), qd 4]))
    let j : Nat := 0
    let home : Nat := 0
    let ix : Nat := 3
    let sp : Space := (spV 300 [qo .pdel none (some (300, 1)), qd 4])
    let q : QueuedDeref := (qo .pdel none (some (300, 1)))
    let owner : Nat := 300
    let rs : Nat := 1
    let x : Inst := (ins 8 0 300 3 9)
    let d : GReg := 5
    let w : Word := 8
    let h := handleSlot sp home ix
    let sent : Prop := h.queue.find? (fun e => e.fwd.isSome) = some q
    let waits (op : Deref) : Prop := (slotAt s q.cell q.slot).stall = .place op d w none
    s.place.spaces[j]? = some sp ∧ spaceOf s sp.ctxid sp.num = some sp ∧ sent ∧ q.fwd = some (owner, rs) ∧ arrived s q.via = true ∧
      h.moving = false ∧ poolHeld s sp owner = false ∧ tabFind sp.insts (placeKey owner rs) = some x ∧ q.op = .pdel ∧ waits .pdel) ∧
   (let s : State := (TQ (spQ 9))
    let j : Nat := 0
    let home : Nat := 0
    let ix : Nat := 3
    let sp : Space := (spQ 9)
    let q : QueuedDeref := (qd 9)
    let owner : Nat := 0
    let rs : Nat := 1
    let x : Inst := (ins 7 0 0 3 9)
    let n : Fin 16 := 3
    let d : GReg := 5
    let w : Word := 8
    let h := handleSlot sp home ix
    let none' : Prop := ∀ e ∈ h.queue, e.fwd = none
    let first : Prop := none' ∧ h.queue.find? (fun e => arrived s e.via) = some q
    let waits (op : Deref) : Prop := (slotAt s q.cell q.slot).stall = .place op d w none
    s.place.spaces[j]? = some sp ∧ spaceOf s sp.ctxid sp.num = some sp ∧ first ∧ h.moving = false ∧ derefHeld s sp home ix = false ∧
      h.holds = some (owner, rs) ∧ tabFind sp.insts (placeKey owner rs) = some x ∧ q.op = .pld n ∧ waits (.pld n) ∧ h.gen = q.gen ∧
      owner = home) ∧
   (let s : State := { TQ (spT 10) with stime := 11 + windowNs sp0 }
    let j : Nat := 0
    let sp : Space := (spT 10)
    let owner : Nat := 0
    let rs : Nat := 1
    let a' : Nat := 10
    let x : Inst := { ins 7 0 0 3 9 with st := .tomb 10 }
    s.place.spaces[j]? = some sp ∧ spaceOf s sp.ctxid sp.num = some sp ∧ tabFind sp.insts (placeKey owner rs) = some x ∧
      x.st = .tomb a' ∧ a' + windowNs sp < s.stime.toNat) := by
  refine ⟨?_, ?_, ?_, ?_, ?_, ?_, ?_⟩ <;> decide +kernel

end Place

namespace Engines

def tl (l : List (Nat × Engine)) := upC (fun c => { c with tiles := l })
def bank (s : State) : State := upC (fun c => { c with scarve := 0x40A02 }) s
def cp (m w1 rows rb st : Nat) (s : State) : State :=
  setG (setG (setG (setG s 20 (BitVec.ofNat 64 m)) 21 (BitVec.ofNat 64 w1)) 22 (BitVec.ofNat 64 (rows * 2 ^ 32 + rb))) 23 (BitVec.ofNat 64 st)
def tr (out : Bool) (m o rows rb st base : Nat) : Transfer := ⟨out, BitVec.ofNat 64 m, o, rows, rb, BitVec.ofNat 64 st, base, 0⟩
def chn (q : CopyChan) := upC (fun c => { c with cch := c.cch.set 0 q })
def own0 (s : State) : State := tl [(2, .cch0), (3, .cch0), (15, .cch0), (16, .cch0)] s
def land (t : Transfer) (l : List Transfer) (wp : Nat) (s : State) : State := chn ⟨wp, t :: l, false, false⟩ (own0 s)
def t0 := tr false 0x2 0x2000 3 4 16 100
def t1 := tr true 0x2 0x2000 3 4 16 100
def t2 := tr false 0x50002 0x2000 3 4 16 100
def t3 := tr false 0x30002 0x2000 3 4 16 100
def pad (s : State) : State := upC (fun c => { c with spad := [(0x2002, 9), (0x2005, 7)] }) s
def er (s : State) (va : Nat) : State := match engRead s 0 (BitVec.ofNat 64 va) with | .ok (v, _) => v | .error (v, _) => v
def ew (s : State) (va : Nat) : State := match engWalk s 0 true (BitVec.ofNat 64 va) with | .ok (v, _) => v | .error (v, _) => v
def el (s : State) (va pa : Nat) : State := exU (engineLine (ew s va) 0 true (pa / 128))
def t6 := tr false 0x40002 0x2000 3 4 16 100
def k0 := land t0 [t1] 105 st
def k2 := land t1 [t0] 105 (pad st)
def k4 := land t2 [t0] 100 (pad st)
def k5 := land t3 [t0] 100 (pad st)
def k8 := land t6 [t1] 105 stF
def qmz : MxCmd := ⟨.mzero, 1, 0, false, 3⟩
def mx (f : Mxu → Mxu) := upC (fun c => { c with mxu := f c.mxu })
def accs : Tab (BitVec 32) := [(5, 0x3F800000), (4096, 0x40000000), (4096 + 65, 0xC0000000), (12288, 7)]
def runq (q : MxCmd) (s : State) : State :=
  mx (fun m => { m with queue := [q, qmz], acc := accs, done := 9, tickets := 11, poisoned := #v[false, true, false, false], slots := m.slots.set 2 ⟨4, 32, List.replicate 32 0x31, [127, 128], false⟩ }) (pad (tl [(2, .mxu)] s))
def padA (s : State) : State :=
  upC (fun c => { c with spad := (List.range 40).map (fun i => (0x4000 + 4 * i + 3, BitVec.ofNat 8 (0x40 + i))) }) s
def shp : Shape := ⟨0x20, 0, 0, 64, 64, 10, 2⟩
def shq : Shape := ⟨0x20008, 0, 0, 64, 64, 10, 3⟩
def vsh : Shape := ⟨0x20008, 0, 0, 1, 64, 10, 3⟩
def shF : Shape := ⟨0x40020, 0x40000, 0, 64, 64, 10, 2⟩
def md (s : State) : State :=
  { s with dirty := (List.range 200).map (fun i => (0x100040 + 7 * i, BitVec.ofNat 8 (0x30 + 37 * i % 31))) ++ (List.range 100).map (fun i => (0x300009 + 3 * i, BitVec.ofNat 8 (0x35 + 37 * i % 31))) }
def qa (op : MxOp) (k : Nat) : MxCmd := ⟨op, 0, k, false, 3⟩
def ru (s : State) (stream : Bool) (hs : List Shape) (k n : Nat) : State :=
  match mxReads s 0 stream hs k .none s.coh.pins.length k n with | .ok v => v | .wait w => w | _ => s
def m1 := md (runq (qa (.mma shp shq) 0) st)
def m3 := md (runq (qa (.mmv shp 0x21) 0) st)
def m4 := md (runq (qa (.mvld vsh 5) 0) st)
def m5 := runq (qa (.mma shF shq) 0) { st with tlbs := stF.tlbs }
def al (k : Fin 24) (l : List Pin) (s : State) : State :=
  { s with plat := { s.plat with islands := s.plat.islands.set k { s.plat.islands[0] with alarm := true } }, coh := { s.coh with pins := l, dirs := [(5, ⟨1, .m, false, 0, [], 0, .m, 1, 0⟩)], homes := [(5, ⟨1, .m, 1, 0⟩)] }, dirty := [(645, 7)] }
def mst (op : MxOp) : State := padA (runq { qmz with op := op } st)

/-- The hypotheses of TileHandOver hold together. -/
theorem witness_tileHandOver :
    (let s : State := (S 3)
    let a : GReg := 20
    let n1 : Fin 256 := 1
    let c := ccOf s
    let t0 := (readG s a).toNat
    let n := n1.val + 1
    let count := c.scarve.toNat % 16 * 32
    let bad (t : Nat) : Prop := tileInBanks c t = true ∨ (tabFind c.tiles t).isSome = true
    t0 + n ≤ count ∧ ((∀ t, t0 ≤ t → t < t0 + n → ¬bad t)) ∧ ((∀ t, t0 ≤ t → t < t0 + n → tabFind c.tiles t = none))) ∧
   (let s : State := (tl [(20, .cch0)] (S 13))
    let a : GReg := 20
    let n1 : Fin 256 := 9
    let f : Nat := 20
    let c := ccOf s
    let t0 := (readG s a).toNat
    let n := n1.val + 1
    let count := c.scarve.toNat % 16 * 32
    t0 + n ≤ count ∧ ((∀ t, t0 ≤ t → t < t0 + n → tileInBanks c t = false)) ∧ t0 ≤ f ∧ f < t0 + n ∧
      (tabFind c.tiles f).isSome = true ∧ ((∀ t, t0 ≤ t → t < f → tabFind c.tiles t = none))) ∧
   (let s : State := (S 100)
    let a : GReg := 20
    let n1 : Fin 256 := 1
    let c := ccOf s
    let t0 := (readG s a).toNat
    let n := n1.val + 1
    let count := c.scarve.toNat % 16 * 32
    count < t0 + n) ∧
   (let s : State := (bank (S 9))
    let a : GReg := 20
    let n1 : Fin 256 := 3
    let f : Nat := 10
    let c := ccOf s
    let t0 := (readG s a).toNat
    let n := n1.val + 1
    let count := c.scarve.toNat % 16 * 32
    t0 + n ≤ count ∧ t0 ≤ f ∧ f < t0 + n ∧ tileInBanks c f = true ∧ ((∀ t, t0 ≤ t → t < f → tileInBanks c t = false))) := by
  refine ⟨?_, ?_, ?_, ?_⟩ <;> decide +kernel

/-- The hypotheses of CopyRequests hold together. -/
theorem witness_copyRequests :
    (let s : State := (chn ⟨100, List.replicate 3 (tr false 0 0 1 1 0 100), false, false⟩ (own0 (cp 0x20 0x2000 4 32 64 st)))
    let a : GReg := 20
    let ch : Fin 2 := 0
    let c := ccOf s
    let q := c.cch[ch]
    let m := readG s a
    let w1 := (readG s (a + 1)).toNat
    let w2 := (readG s (a + 2)).toNat
    let rows := w2 / 2 ^ 32
    let rb := w2 % 2 ^ 32
    let len := rows * rb
    let o := w1 % 2 ^ 20
    let shaped : Prop := rows ≠ 0 ∧ rb ≠ 0 ∧ len ≤ 2 ^ 20 ∧ w1 < 2 ^ 20
    let mine : Prop := ∀ t, o / 4096 ≤ t → t ≤ (o + len - 1) / 4096 →
      t < c.scarve.toNat % 16 * 32 ∧ tileInBanks c t = false ∧ tabFind c.tiles t = some (if ch = 0 then .cch0 else .cch1)
    let target := (readG s a).toNat % 2 ^ 63
    shaped ∧ m.toNat < 2 ^ 55 ∧ mine ∧ q.queue.length < 4 ∧ (q.error = true ∨ target ≤ q.wp)) ∧
   (let s : State := (own0 (cp 0x20 0x2000 4 0 64 st))
    let a : GReg := 20
    let ch : Fin 2 := 0
    let c := ccOf s
    let q := c.cch[ch]
    let w1 := (readG s (a + 1)).toNat
    let w2 := (readG s (a + 2)).toNat
    let rows := w2 / 2 ^ 32
    let rb := w2 % 2 ^ 32
    let len := rows * rb
    let shaped : Prop := rows ≠ 0 ∧ rb ≠ 0 ∧ len ≤ 2 ^ 20 ∧ w1 < 2 ^ 20
    let target := (readG s a).toNat % 2 ^ 63
    ¬shaped ∧ q.error = false ∧ q.wp < target) ∧
   (let s : State := (chn ⟨100, List.replicate 4 (tr false 0 0 1 1 0 100), false, false⟩ (own0 (cp 0x20 0x2000 4 32 64 st)))
    let a : GReg := 20
    let ch : Fin 2 := 0
    let c := ccOf s
    let q := c.cch[ch]
    let m := readG s a
    let w1 := (readG s (a + 1)).toNat
    let w2 := (readG s (a + 2)).toNat
    let rows := w2 / 2 ^ 32
    let rb := w2 % 2 ^ 32
    let len := rows * rb
    let o := w1 % 2 ^ 20
    let shaped : Prop := rows ≠ 0 ∧ rb ≠ 0 ∧ len ≤ 2 ^ 20 ∧ w1 < 2 ^ 20
    let mine : Prop := ∀ t, o / 4096 ≤ t → t ≤ (o + len - 1) / 4096 →
      t < c.scarve.toNat % 16 * 32 ∧ tileInBanks c t = false ∧ tabFind c.tiles t = some (if ch = 0 then .cch0 else .cch1)
    shaped ∧ m.toNat < 2 ^ 55 ∧ mine ∧ 4 ≤ q.queue.length) ∧
   (let s : State := (own0 (cp 0x20 0x2FFF 4 2000 64 st))
    let a : GReg := 20
    let ch : Fin 2 := 0
    let c := ccOf s
    let m := readG s a
    let w1 := (readG s (a + 1)).toNat
    let w2 := (readG s (a + 2)).toNat
    let rows := w2 / 2 ^ 32
    let rb := w2 % 2 ^ 32
    let len := rows * rb
    let o := w1 % 2 ^ 20
    let shaped : Prop := rows ≠ 0 ∧ rb ≠ 0 ∧ len ≤ 2 ^ 20 ∧ w1 < 2 ^ 20
    let f : Nat := 0x4000
    shaped ∧ m.toNat < 2 ^ 55 ∧ notOwned c (if ch = 0 then .cch0 else .cch1) o len = some f) ∧
   (let s : State := (own0 (cp 0x80000000000020 0x2000 4 32 64 st))
    let a : GReg := 20
    let m := readG s a
    let w1 := (readG s (a + 1)).toNat
    let w2 := (readG s (a + 2)).toNat
    let rows := w2 / 2 ^ 32
    let rb := w2 % 2 ^ 32
    let len := rows * rb
    let shaped : Prop := rows ≠ 0 ∧ rb ≠ 0 ∧ len ≤ 2 ^ 20 ∧ w1 < 2 ^ 20
    shaped ∧ 2 ^ 55 ≤ m.toNat) := by
  refine ⟨?_, ?_, ?_, ?_, ?_⟩ <;> decide +kernel

/-- The hypotheses of CopyLanding hold together. -/
theorem witness_copyLanding :
    (let s : State := k0
    let v : State := (er k0 0x13)
    let c : Nat := 0
    let ch : Fin 2 := 0
    let t : Transfer := t0
    let l : List Transfer := [t1]
    let pa : Nat := 0x100013
    let x := ccAt s c
    let q := x.cch[ch]
    let j := q.wp - t.base
    let va := t.m + BitVec.ofNat 64 (j / t.rb) * t.st + BitVec.ofNat 64 (j % t.rb)
    (cellAt s c).live = true ∧ q.queue = t :: l ∧ q.paused = false ∧ q.error = false ∧ t.base ≤ q.wp ∧ j < t.rows * t.rb ∧
       t.out = false ∧ engRead s c va = .ok (v, pa)) ∧
   (let s : State := k2
    let v : State := (el k2 0x13 0x100013)
    let w : State := (ew k2 0x13)
    let c : Nat := 0
    let ch : Fin 2 := 0
    let t : Transfer := t1
    let l : List Transfer := [t0]
    let pa : Nat := 0x100013
    let x := ccAt s c
    let q := x.cch[ch]
    let j := q.wp - t.base
    let va := t.m + BitVec.ofNat 64 (j / t.rb) * t.st + BitVec.ofNat 64 (j % t.rb)
    (cellAt s c).live = true ∧ q.queue = t :: l ∧ q.paused = false ∧ q.error = false ∧ t.base ≤ q.wp ∧ j < t.rows * t.rb ∧
       t.out = true ∧ engWalk s c true va = .ok (w, pa) ∧ x.padPoison.contains ((t.o + j) / 32) = false ∧
       engineLine w c true (pa / 128) = .ok v) ∧
   (let s : State := k4
    let w : State := (er k4 0x50002)
    let c : Nat := 0
    let ch : Fin 2 := 0
    let t : Transfer := t2
    let l : List Transfer := [t0]
    let x := ccAt s c
    let q := x.cch[ch]
    let j := q.wp - t.base
    let va := t.m + BitVec.ofNat 64 (j / t.rb) * t.st + BitVec.ofNat 64 (j % t.rb)
    let page : BitVec 39 := 5
    (cellAt s c).live = true ∧ q.queue = t :: l ∧ q.paused = false ∧ q.error = false ∧ t.base ≤ q.wp ∧ j < t.rows * t.rb ∧
       t.out = false ∧ engRead s c va = .error (w, .xlate page)) ∧
   (let s : State := k5
    let w : State := (er k5 0x30002)
    let c : Nat := 0
    let ch : Fin 2 := 0
    let t : Transfer := t3
    let l : List Transfer := [t0]
    let x := ccAt s c
    let q := x.cch[ch]
    let j := q.wp - t.base
    let va := t.m + BitVec.ofNat 64 (j / t.rb) * t.st + BitVec.ofNat 64 (j % t.rb)
    let b : EngBad := .prot
    let cause : Nat := 2
    (cellAt s c).live = true ∧ q.queue = t :: l ∧ q.paused = false ∧ q.error = false ∧ t.base ≤ q.wp ∧ j < t.rows * t.rb ∧
       (b, cause) ∈ [(EngBad.prot, 2), (.addr, 3), (.ue, 4)] ∧ t.out = false ∧ engRead s c va = .error (w, b) ∧ tabSorted x.tiles = true) ∧
   (let s : State := k8
    let w : State := (er k8 0x40013)
    let c : Nat := 0
    let ch : Fin 2 := 0
    let t : Transfer := t6
    let l : List Transfer := [t1]
    let x := ccAt s c
    let q := x.cch[ch]
    let j := q.wp - t.base
    let va := t.m + BitVec.ofNat 64 (j / t.rb) * t.st + BitVec.ofNat 64 (j % t.rb)
    (cellAt s c).live = true ∧ q.queue = t :: l ∧ q.paused = false ∧ q.error = false ∧ t.base ≤ q.wp ∧ j < t.rows * t.rb ∧
       t.out = false ∧ engRead s c va = .error (w, .wait)) := by
  refine ⟨?_, ?_, ?_, ?_, ?_⟩ <;> decide +kernel

/-- The hypotheses of MatrixCommands hold together. -/
theorem witness_matrixCommands :
    (let s : State := (mst (.macst 0x4000 0 10))
    let c : Nat := 0
    let q : MxCmd := { qmz with op := .macst 0x4000 0 10 }
    let l : List MxCmd := [qmz]
    let x := (ccAt s c).mxu
    let off : Nat := 0x4000
    let d : Nat := 0
    (cellAt s c).live = true ∧ x.paused = none ∧ x.queue = q :: l ∧ q.op = .macst off d 10 ∧ off + 8192 ≤ padSize (ccAt s c)) ∧
   (let s : State := (mst (.macst 0x4000 0 12))
    let c : Nat := 0
    let q : MxCmd := { qmz with op := .macst 0x4000 0 12 }
    let l : List MxCmd := [qmz]
    let x := (ccAt s c).mxu
    let f : BxTy := .bx8
    let off : Nat := 0x4000
    let d : Nat := 0
    let size : Nat := if f = .bx8 then 32 else 16
    (cellAt s c).live = true ∧ x.paused = none ∧ x.queue = q :: l ∧ q.op = .macst off d (if f = .bx8 then 12 else 13) ∧
       off + 128 * size + 288 ≤ padSize (ccAt s c)) ∧
   (let s : State := (padA (runq { qmz with op := .macld 0x4000 } st))
    let c : Nat := 0
    let q : MxCmd := { qmz with op := .macld 0x4000 }
    let l : List MxCmd := [qmz]
    let x := (ccAt s c).mxu
    let off : Nat := 0x4000
    (cellAt s c).live = true ∧ x.paused = none ∧ x.queue = q :: l ∧ q.op = .macld off ∧ padBad (ccAt s c) off 16384 = false) ∧
   (let s : State := (padA (runq { qmz with op := .macst 0x4000 0 11 } st))
    let c : Nat := 0
    let q : MxCmd := { qmz with op := .macst 0x4000 0 11 }
    let l : List MxCmd := [qmz]
    let x := (ccAt s c).mxu
    let off : Nat := 0x4000
    let d : Nat := 0
    (cellAt s c).live = true ∧ x.paused = none ∧ x.queue = q :: l ∧ q.op = .macst off d 11 ∧ off + 16384 ≤ padSize (ccAt s c)) ∧
   (let s : State := (runq qmz st)
    let c : Nat := 0
    let q : MxCmd := qmz
    let l : List MxCmd := [qmz]
    let x := (ccAt s c).mxu
    (cellAt s c).live = true ∧ x.paused = none ∧ x.queue = q :: l ∧ q.op = .mzero) ∧
   (let s : State := m1
    let v : State := (ru m1 false [shp, shq] 0 2)
    let c : Nat := 0
    let q : MxCmd := (qa (.mma shp shq) 0)
    let l : List MxCmd := [qmz]
    let x := (ccAt s c).mxu
    let runs : Prop := x.poisoned[q.acc] = false ∨ q.res = true
    let reads (stream : Bool) (hs : List Shape) (k n : Nat) : MxRun := mxReads s c stream hs k .none s.coh.pins.length k n
    let h : Shape := shp
    let g : Shape := shq
    (cellAt s c).live = true ∧ x.paused = none ∧ x.queue = q :: l ∧ q.op = .mma h g ∧ runs ∧
       reads false [h, g] q.startK (h.cols / 32 - q.startK) = .ok v ∧ trailerFailure v c false [(0, h), (1, g)] = none) ∧
   (let s : State := m3
    let v : State := (ru m3 true [shp] 0 2)
    let c : Nat := 0
    let q : MxCmd := (qa (.mmv shp 0x21) 0)
    let l : List MxCmd := [qmz]
    let x := (ccAt s c).mxu
    let runs : Prop := x.poisoned[q.acc] = false ∨ q.res = true
    let reads (stream : Bool) (hs : List Shape) (k n : Nat) : MxRun := mxReads s c stream hs k .none s.coh.pins.length k n
    let h : Shape := shp
    let vset : Byte := 0x21
    (cellAt s c).live = true ∧ x.paused = none ∧ x.queue = q :: l ∧ q.op = .mmv h vset ∧ runs ∧
       ((∀ v : Fin 8, vset.getLsbD v.val = true → x.slots[v].bad = false)) ∧
        reads true [h] q.startK (h.cols / 32 - q.startK) = .ok v ∧ trailerFailure v c true [(0, h)] = none) ∧
   (let s : State := m4
    let v : State := (ru m4 false [vsh] 0 2)
    let c : Nat := 0
    let q : MxCmd := (qa (.mvld vsh 5) 0)
    let l : List MxCmd := [qmz]
    let x := (ccAt s c).mxu
    let reads (stream : Bool) (hs : List Shape) (k n : Nat) : MxRun := mxReads s c stream hs k .none s.coh.pins.length k n
    let h : Shape := vsh
    let n : Fin 8 := 5
    (cellAt s c).live = true ∧ x.paused = none ∧ x.queue = q :: l ∧ q.op = .mvld h n ∧ reads false [h] 0 (h.cols / 32) = .ok v ∧
       trailerFailure v c false [(2, h)] = none) ∧
   (let s : State := m5
    let w : State := (ru m5 false [shF, shq] 0 2)
    let c : Nat := 0
    let q : MxCmd := (qa (.mma shF shq) 0)
    let l : List MxCmd := [qmz]
    let x := (ccAt s c).mxu
    let runs : Prop := x.poisoned[q.acc] = false ∨ q.res = true
    let reads (stream : Bool) (hs : List Shape) (k n : Nat) : MxRun := mxReads s c stream hs k .none s.coh.pins.length k n
    let h : Shape := shF
    let g : Shape := shq
    (cellAt s c).live = true ∧ x.paused = none ∧ x.queue = q :: l ∧ q.op = .mma h g ∧ runs ∧
       reads false [h, g] q.startK (h.cols / 32 - q.startK) = .wait w) := by
  refine ⟨?_, ?_, ?_, ?_, ?_, ?_, ?_, ?_, ?_⟩ <;> decide +kernel

/-- The hypotheses of NarrowingAndPins hold together. -/
theorem witness_narrowingAndPins :
    (let s : State := (al 0 [⟨0, 5, false⟩, ⟨1, 5, false⟩, ⟨0, 5, false⟩] st)
    let c : Nat := 0
    let d : Fin 4 := 0
    let line : Nat := 5
    let i : Nat := 0
    let alarm : Prop := s.plat.islands[islandOf s c].alarm = true ∨ s.plat.islands[uncoreOf s c].alarm = true
    let here (p : Pin) : Prop := p.die = d.val ∧ p.line = line
    let first : Prop := (∃ p, s.coh.pins[i]? = some p ∧ here p) ∧ ∀ j p, j < i → s.coh.pins[j]? = some p → ¬here p
    let drops : Prop := ∃ p ∈ s.coh.pins, here p ∧ p.drop = true
    alarm ∧ first ∧ ¬drops) ∧
   (let s : State := st
    let c : Nat := 0
    let d : Fin 4 := 0
    let line : Nat := 5
    let alarm : Prop := s.plat.islands[islandOf s c].alarm = true ∨ s.plat.islands[uncoreOf s c].alarm = true
    let here (p : Pin) : Prop := p.die = d.val ∧ p.line = line
    ¬alarm ∧ ((∀ p ∈ s.coh.pins, ¬here p))) ∧
   (let s : State := (al 4 [⟨0, 5, true⟩, ⟨1, 5, false⟩, ⟨0, 5, false⟩] st)
    let d : Fin 4 := 0
    let line : Nat := 5
    let i : Nat := 0
    let here (p : Pin) : Prop := p.die = d.val ∧ p.line = line
    let first : Prop := (∃ p, s.coh.pins[i]? = some p ∧ here p) ∧ ∀ j p, j < i → s.coh.pins[j]? = some p → ¬here p
    let drops : Prop := ∃ p ∈ s.coh.pins, here p ∧ p.drop = true
    let more : Prop := ∃ p ∈ s.coh.pins.eraseIdx i, here p
    first ∧ drops ∧ more) ∧
   (let s : State := (al 4 [⟨0, 5, true⟩, ⟨1, 5, false⟩] st)
    let d : Fin 4 := 0
    let line : Nat := 5
    let i : Nat := 0
    let here (p : Pin) : Prop := p.die = d.val ∧ p.line = line
    let first : Prop := (∃ p, s.coh.pins[i]? = some p ∧ here p) ∧ ∀ j p, j < i → s.coh.pins[j]? = some p → ¬here p
    let drops : Prop := ∃ p ∈ s.coh.pins, here p ∧ p.drop = true
    let more : Prop := ∃ p ∈ s.coh.pins.eraseIdx i, here p
    first ∧ drops ∧ ¬more ∧ line < 2 ^ 40) := by
  refine ⟨?_, ?_, ?_, ?_⟩
  · refine ⟨by decide +kernel, ?_, by decide +kernel⟩
    exact ⟨is_some_of (by decide +kernel), earlier_of (by decide +kernel)⟩
  · decide +kernel
  · refine ⟨?_, by decide +kernel, by decide +kernel⟩
    exact ⟨is_some_of (by decide +kernel), earlier_of (by decide +kernel)⟩
  · refine ⟨?_, by decide +kernel, by decide +kernel, by decide +kernel⟩
    exact ⟨is_some_of (by decide +kernel), earlier_of (by decide +kernel)⟩

end Engines

namespace MatrixFaults

def tl (l : List (Nat × Engine)) := upC (fun c => { c with tiles := l })
def pad (s : State) : State := upC (fun c => { c with spad := [(0x2002, 9), (0x2005, 7)] }) s
def qmz : MxCmd := ⟨.mzero, 1, 0, false, 3⟩
def mx (f : Mxu → Mxu) := upC (fun c => { c with mxu := f c.mxu })
def accs : Tab (BitVec 32) := [(5, 0x3F800000), (4096, 0x40000000), (4096 + 65, 0xC0000000), (12288, 7)]
def runq (q : MxCmd) (s : State) : State :=
  mx (fun m => { m with queue := [q, qmz], acc := accs, done := 9, tickets := 11, poisoned := #v[false, true, false, false], slots := m.slots.set 2 ⟨4, 32, List.replicate 32 0x31, [127, 128], false⟩ }) (pad (tl [(2, .mxu)] s))
def padA (s : State) : State :=
  upC (fun c => { c with spad := (List.range 40).map (fun i => (0x4000 + 4 * i + 3, BitVec.ofNat 8 (0x40 + i))) }) s
def shp : Shape := ⟨0x20, 0, 0, 64, 64, 10, 2⟩
def shq : Shape := ⟨0x20008, 0, 0, 64, 64, 10, 3⟩
def vsh : Shape := ⟨0x20008, 0, 0, 1, 64, 10, 3⟩
def md (s : State) : State :=
  { s with dirty := (List.range 200).map (fun i => (0x100040 + 7 * i, BitVec.ofNat 8 (0x30 + 37 * i % 31))) ++ (List.range 100).map (fun i => (0x300009 + 3 * i, BitVec.ofNat 8 (0x35 + 37 * i % 31))) }
def trl (t : Word) (h : Shape) : Shape := { h with trailer := t }
def shX : Shape := { shp with base := 0x50020 }
def shR : Shape := { shp with base := 0x30020 }
def shT : Shape := { trl 0x28000 shp with fmt := 12, eplane := 0x24000 }
def vT : Shape := { trl 0x28000 vsh with fmt := 12, eplane := 0x24000, base := 0x20000 }
def qb (op : MxOp) (acc : Fin 4) : MxCmd := ⟨op, acc, 0, false, 3⟩
def rr (q : MxCmd) (stream : Bool) (hs : List Shape) (e : EngineUpset) (s : State) : MxRun :=
  mxReads s 0 stream hs q.startK e s.coh.pins.length q.startK ((hs.headD shp).cols / 32 - q.startK)
def rs (m : MxRun) : State := match m with | .ok v => v | .wait w => w | .stop v _ _ => v | .pause v _ => v
def rk (m : MxRun) : Nat × Nat := match m with | .stop _ k c => (k, c) | _ => (0, 0)
def pgo (m : MxRun) : BitVec 39 := match m with | .pause _ p => p | _ => 5
def failed (p : BitVec 39) (s : State) : State := mx (fun m => { m with failed := some p }) s
def go (q : MxCmd) (s0 : State) : State := md (runq q s0)
def qA := qb (.mma shp shq) 1
def A1 := go qA st
def qV := qb (.mmv shp 0x21) 1
def V1 := go qV st
def qX := qb (.mma shX shq) 0
def X1 := go qX st
def qP := qb (.mma shp shq) 0
def qT := qb (.mma shT shq) 0
def T1 := go qT st
def qVR := qb (.mmv shR 0x21) 0
def qVT := qb (.mmv shT 0x21) 0
def qVb := qb (.mmv shp 0x04) 0
def badSlot (s : State) : State := mx (fun m => { m with slots := m.slots.set 2 { m.slots[2] with bad := true } }) s
def qLR := qb (.mvld { vsh with base := 0x30000 } 5) 0
def qLT := qb (.mvld vT 5) 0

/-- The hypotheses of MatrixErrors hold together. -/
theorem witness_matrixErrors :
    (let s : State := (badSlot (go qVb st))
    let v : State := (rs (rr qVb true [shp] .none (badSlot (go qVb st))))
    let c : Nat := 0
    let q : MxCmd := qVb
    let l : List MxCmd := [qmz]
    let k : Nat := 0
    let e : EngineUpset := .none
    let x := (ccAt s c).mxu
    let blocks (n : Nat) (v : FpBits) (as bs : Nat → List MxElem) : FpBits :=
      (List.range (n - q.startK)).foldl (fun v k => mxBlock (nanTag c (q.startK + k)) v (as (q.startK + k)) (bs (q.startK + k))) v
    let mmv (v : State) (h : Shape) (vset : BitVec 8) (n i j : Nat) : FpBits :=
      if hj : j < 8 then
        if vset.getLsbD j then blocks n (accGet x q.acc.val i j) (blockRow v c true h i) (blockSlot x.slots[j])
        else accGet x q.acc.val i j
      else accGet x q.acc.val i j
    let runs : Prop := x.poisoned[q.acc] = false ∨ q.res = true
    let reads (stream : Bool) (hs : List Shape) (e : EngineUpset) (k n : Nat) : MxRun := mxReads s c stream hs k e s.coh.pins.length k n
    let h : Shape := shp
    let vset : BitVec 8 := 0x04
    (cellAt s c).live = true ∧ x.paused = none ∧ x.queue = q :: l ∧ q.op = .mmv h vset ∧ runs ∧
       reads true [h] e q.startK (h.cols / 32 - q.startK) = .ok v ∧ trailerFailure v c true [(0, h)] = none) ∧
   (let s : State := (failed 0 (go qP st))
    let v : State := (failed 0 (go qP st))
    let c : Nat := 0
    let q : MxCmd := qP
    let l : List MxCmd := [qmz]
    let k : Nat := 0
    let cause : Nat := 2
    let e : EngineUpset := .none
    let x := (ccAt s c).mxu
    let blocks (n : Nat) (v : FpBits) (as bs : Nat → List MxElem) : FpBits :=
      (List.range (n - q.startK)).foldl (fun v k => mxBlock (nanTag c (q.startK + k)) v (as (q.startK + k)) (bs (q.startK + k))) v
    let mma (v : State) (h g : Shape) (n i j : Nat) : FpBits :=
      blocks n (accGet x q.acc.val i j) (blockRow v c false h i) (blockRow v c false g j)
    let runs : Prop := x.poisoned[q.acc] = false ∨ q.res = true
    let reads (stream : Bool) (hs : List Shape) (e : EngineUpset) (k n : Nat) : MxRun := mxReads s c stream hs k e s.coh.pins.length k n
    let h : Shape := shp
    let g : Shape := shq
    (cellAt s c).live = true ∧ x.paused = none ∧ x.queue = q :: l ∧ q.op = .mma h g ∧ runs ∧
       reads false [h, g] e q.startK (h.cols / 32 - q.startK) = .stop v k cause) ∧
   (let s : State := (failed 0 (go qP st))
    let c : Nat := 0
    let q : MxCmd := qP
    let l : List MxCmd := [qmz]
    let page : BitVec 39 := 0
    let x := (ccAt s c).mxu
    let hs : List Shape := [shp, shq]
    let a : Word := ((blockAddrs hs q.startK q.startK).head?).getD 0
    (cellAt s c).live = true ∧ x.paused = none ∧ x.queue = q :: l ∧ x.failed = some page ∧
       (blockAddrs hs q.startK q.startK).head? = some a ∧ a.toNat / 65536 % 2 ^ 39 = page.toNat) ∧
   (let s : State := (go qLR st)
    let v : State := (rs (rr qLR false [{ vsh with base := 0x30000 }] .none (go qLR st)))
    let c : Nat := 0
    let q : MxCmd := qLR
    let l : List MxCmd := [qmz]
    let k : Nat := (rk (rr qLR false [{ vsh with base := 0x30000 }] .none (go qLR st))).1
    let cause : Nat := (rk (rr qLR false [{ vsh with base := 0x30000 }] .none (go qLR st))).2
    let e : EngineUpset := .none
    let x := (ccAt s c).mxu
    let reads (stream : Bool) (hs : List Shape) (e : EngineUpset) (k n : Nat) : MxRun := mxReads s c stream hs k e s.coh.pins.length k n
    let h : Shape := { vsh with base := 0x30000 }
    let n : Fin 8 := 5
    (cellAt s c).live = true ∧ x.paused = none ∧ x.queue = q :: l ∧ q.op = .mvld h n ∧
       reads false [h] .none 0 (h.cols / 32) = .stop v k cause) ∧
   (let s : State := (go qLT st)
    let v : State := (rs (rr qLT false [vT] .none (go qLT st)))
    let c : Nat := 0
    let q : MxCmd := qLT
    let l : List MxCmd := [qmz]
    let k : Nat := 0
    let e : EngineUpset := .none
    let x := (ccAt s c).mxu
    let reads (stream : Bool) (hs : List Shape) (e : EngineUpset) (k n : Nat) : MxRun := mxReads s c stream hs k e s.coh.pins.length k n
    let h : Shape := vT
    let n : Fin 8 := 5
    let f : BitVec 2 × Word := (trailerFailure v c false [(2, h)]).getD (0, 0)
    (cellAt s c).live = true ∧ x.paused = none ∧ x.queue = q :: l ∧ q.op = .mvld h n ∧ reads false [h] .none 0 (h.cols / 32) = .ok v ∧
       e = .none ∧ trailerFailure v c false [(2, h)] = some f) ∧
   (let s : State := (go qVR st)
    let v : State := (rs (rr qVR true [shR] .none (go qVR st)))
    let c : Nat := 0
    let q : MxCmd := qVR
    let l : List MxCmd := [qmz]
    let k : Nat := (rk (rr qVR true [shR] .none (go qVR st))).1
    let cause : Nat := (rk (rr qVR true [shR] .none (go qVR st))).2
    let e : EngineUpset := .none
    let x := (ccAt s c).mxu
    let blocks (n : Nat) (v : FpBits) (as bs : Nat → List MxElem) : FpBits :=
      (List.range (n - q.startK)).foldl (fun v k => mxBlock (nanTag c (q.startK + k)) v (as (q.startK + k)) (bs (q.startK + k))) v
    let mmv (v : State) (h : Shape) (vset : BitVec 8) (n i j : Nat) : FpBits :=
      if hj : j < 8 then
        if vset.getLsbD j then blocks n (accGet x q.acc.val i j) (blockRow v c true h i) (blockSlot x.slots[j])
        else accGet x q.acc.val i j
      else accGet x q.acc.val i j
    let runs : Prop := x.poisoned[q.acc] = false ∨ q.res = true
    let reads (stream : Bool) (hs : List Shape) (e : EngineUpset) (k n : Nat) : MxRun := mxReads s c stream hs k e s.coh.pins.length k n
    let h : Shape := shR
    let vset : BitVec 8 := 0x21
    (cellAt s c).live = true ∧ x.paused = none ∧ x.queue = q :: l ∧ q.op = .mmv h vset ∧ runs ∧
       reads true [h] e q.startK (h.cols / 32 - q.startK) = .stop v k cause) ∧
   (let s : State := (go qVT st)
    let v : State := (rs (rr qVT true [shT] .none (go qVT st)))
    let c : Nat := 0
    let q : MxCmd := qVT
    let l : List MxCmd := [qmz]
    let k : Nat := 0
    let e : EngineUpset := .none
    let x := (ccAt s c).mxu
    let blocks (n : Nat) (v : FpBits) (as bs : Nat → List MxElem) : FpBits :=
      (List.range (n - q.startK)).foldl (fun v k => mxBlock (nanTag c (q.startK + k)) v (as (q.startK + k)) (bs (q.startK + k))) v
    let mmv (v : State) (h : Shape) (vset : BitVec 8) (n i j : Nat) : FpBits :=
      if hj : j < 8 then
        if vset.getLsbD j then blocks n (accGet x q.acc.val i j) (blockRow v c true h i) (blockSlot x.slots[j])
        else accGet x q.acc.val i j
      else accGet x q.acc.val i j
    let runs : Prop := x.poisoned[q.acc] = false ∨ q.res = true
    let reads (stream : Bool) (hs : List Shape) (e : EngineUpset) (k n : Nat) : MxRun := mxReads s c stream hs k e s.coh.pins.length k n
    let h : Shape := shT
    let vset : BitVec 8 := 0x21
    let f : BitVec 2 × Word := (trailerFailure v c true [(0, h)]).getD (0, 0)
    (cellAt s c).live = true ∧ x.paused = none ∧ x.queue = q :: l ∧ q.op = .mmv h vset ∧ runs ∧
       reads true [h] e q.startK (h.cols / 32 - q.startK) = .ok v ∧ trailerFailure v c true [(0, h)] = some f) ∧
   (let s : State := (padA (runq { qmz with op := .macld 0x4000 } st))
    let c : Nat := 0
    let q : MxCmd := { qmz with op := .macld 0x4000 }
    let l : List MxCmd := [qmz]
    let e : EngineUpset := (.ue 0)
    let x := (ccAt s c).mxu
    let off : Nat := 0x4000
    (cellAt s c).live = true ∧ x.paused = none ∧ x.queue = q :: l ∧ q.op = .macld off ∧ (e ≠ .none ∨ padBad (ccAt s c) off 16384 = true)) ∧
   (let s : State := (padA (runq { qmz with op := .macst 0x4000 0 11 } st))
    let c : Nat := 0
    let q : MxCmd := { qmz with op := .macst 0x4000 0 11 }
    let l : List MxCmd := [qmz]
    let e : EngineUpset := (.ue 0)
    let x := (ccAt s c).mxu
    let off : Nat := 0x4000
    let d : Nat := 0
    let fmt : Nat := 11
    (cellAt s c).live = true ∧ x.paused = none ∧ x.queue = q :: l ∧ q.op = .macst off d fmt ∧ e ≠ .none) ∧
   (let s : State := A1
    let v : State := st
    let c : Nat := 0
    let q : MxCmd := qA
    let l : List MxCmd := [qmz]
    let k : Nat := 0
    let x := (ccAt s c).mxu
    let blocks (n : Nat) (v : FpBits) (as bs : Nat → List MxElem) : FpBits :=
      (List.range (n - q.startK)).foldl (fun v k => mxBlock (nanTag c (q.startK + k)) v (as (q.startK + k)) (bs (q.startK + k))) v
    let mma (v : State) (h g : Shape) (n i j : Nat) : FpBits :=
      blocks n (accGet x q.acc.val i j) (blockRow v c false h i) (blockRow v c false g j)
    let runs : Prop := x.poisoned[q.acc] = false ∨ q.res = true
    let h : Shape := shp
    let g : Shape := shq
    (cellAt s c).live = true ∧ x.paused = none ∧ x.queue = q :: l ∧ ¬runs ∧ q.op = .mma h g) ∧
   (let s : State := T1
    let v : State := (rs (rr qT false [shT, shq] .none T1))
    let c : Nat := 0
    let q : MxCmd := qT
    let l : List MxCmd := [qmz]
    let k : Nat := 0
    let e : EngineUpset := .none
    let x := (ccAt s c).mxu
    let blocks (n : Nat) (v : FpBits) (as bs : Nat → List MxElem) : FpBits :=
      (List.range (n - q.startK)).foldl (fun v k => mxBlock (nanTag c (q.startK + k)) v (as (q.startK + k)) (bs (q.startK + k))) v
    let mma (v : State) (h g : Shape) (n i j : Nat) : FpBits :=
      blocks n (accGet x q.acc.val i j) (blockRow v c false h i) (blockRow v c false g j)
    let runs : Prop := x.poisoned[q.acc] = false ∨ q.res = true
    let reads (stream : Bool) (hs : List Shape) (e : EngineUpset) (k n : Nat) : MxRun := mxReads s c stream hs k e s.coh.pins.length k n
    let h : Shape := shT
    let g : Shape := shq
    let f : BitVec 2 × Word := (trailerFailure v c false [(0, h), (1, g)]).getD (0, 0)
    (cellAt s c).live = true ∧ x.paused = none ∧ x.queue = q :: l ∧ q.op = .mma h g ∧ runs ∧
       reads false [h, g] e q.startK (h.cols / 32 - q.startK) = .ok v ∧ trailerFailure v c false [(0, h), (1, g)] = some f) ∧
   (let s : State := V1
    let v : State := st
    let c : Nat := 0
    let q : MxCmd := qV
    let l : List MxCmd := [qmz]
    let k : Nat := 0
    let x := (ccAt s c).mxu
    let blocks (n : Nat) (v : FpBits) (as bs : Nat → List MxElem) : FpBits :=
      (List.range (n - q.startK)).foldl (fun v k => mxBlock (nanTag c (q.startK + k)) v (as (q.startK + k)) (bs (q.startK + k))) v
    let mmv (v : State) (h : Shape) (vset : BitVec 8) (n i j : Nat) : FpBits :=
      if hj : j < 8 then
        if vset.getLsbD j then blocks n (accGet x q.acc.val i j) (blockRow v c true h i) (blockSlot x.slots[j])
        else accGet x q.acc.val i j
      else accGet x q.acc.val i j
    let runs : Prop := x.poisoned[q.acc] = false ∨ q.res = true
    let h : Shape := shp
    let vset : BitVec 8 := 0x21
    (cellAt s c).live = true ∧ x.paused = none ∧ x.queue = q :: l ∧ ¬runs ∧ q.op = .mmv h vset) ∧
   (let s : State := X1
    let v : State := (rs (rr qX false [shX, shq] .none X1))
    let c : Nat := 0
    let q : MxCmd := qX
    let l : List MxCmd := [qmz]
    let k : Nat := 0
    let e : EngineUpset := .none
    let page : BitVec 39 := (pgo (rr qX false [shX, shq] .none X1))
    let x := (ccAt s c).mxu
    let blocks (n : Nat) (v : FpBits) (as bs : Nat → List MxElem) : FpBits :=
      (List.range (n - q.startK)).foldl (fun v k => mxBlock (nanTag c (q.startK + k)) v (as (q.startK + k)) (bs (q.startK + k))) v
    let mma (v : State) (h g : Shape) (n i j : Nat) : FpBits :=
      blocks n (accGet x q.acc.val i j) (blockRow v c false h i) (blockRow v c false g j)
    let runs : Prop := x.poisoned[q.acc] = false ∨ q.res = true
    let reads (stream : Bool) (hs : List Shape) (e : EngineUpset) (k n : Nat) : MxRun := mxReads s c stream hs k e s.coh.pins.length k n
    let h : Shape := shX
    let g : Shape := shq
    (cellAt s c).live = true ∧ x.paused = none ∧ x.queue = q :: l ∧ q.op = .mma h g ∧ runs ∧
       reads false [h, g] e q.startK (h.cols / 32 - q.startK) = .pause v page) := by
  refine ⟨?_, ?_, ?_, ?_, ?_, ?_, ?_, ?_, ?_, ?_, ?_, ?_, ?_⟩ <;> decide +kernel

end MatrixFaults

namespace Shapes

def ws (a : Nat) (l : List Nat) (s : State) : State := (l.zipIdx).foldl (fun s e => setG s (Fin.ofNat 64 (a + e.2)) (BitVec.ofNat 64 e.1)) s
def entW (base ep tr rows cols fmt valid gen stride : Nat) : List Nat := [base, ep, tr,
  rows + cols * 65536 + fmt * 2^44 + valid * 2^48 + gen * 2^52, stride, 0, 0, 0]
def entN (l : List Nat) : Nat := (l.zipIdx).foldl (fun n e => n + e.1 * 2 ^ (64 * e.2)) 0
def putE (sl : Nat) (l : List Nat) (s : State) : State :=
  { s with mem := s.mem ++ ((bytesOf (entN l) 64).zipIdx.map (fun e => (0x300000 + 64 * sl + e.2, e.1))).filter (fun c => c.2 ≠ 0) }
def good := entW 0x100 0 0 5 16 9 0 0 32
def bad := entW 0x100 0 0 5 17 9 0 0 32
def rdS (opc : Nat) (sl : Nat) (s : State) : State :=
  match readEntry s 9 (BitVec.ofNat 12 opc) sl with | .done s1 _ => s1 | .wait w => w | .trap s _ => s
def rdB (opc : Nat) (sl : Nat) (s : State) : List Byte := match readEntry s 9 (BitVec.ofNat 12 opc) sl with | .done _ b => b | _ => []
def st2 (opc sl off : Nat) (bs : List Byte) (s : State) : State :=
  match storeEntry s (BitVec.ofNat 12 opc) sl off bs with | .done s1 => s1 | .wait w => w | .trap s _ => s
def A1 (l : List Nat) (e : List Nat) (sl : Nat) : State := setG (ws 40 l (putE sl e st)) 20 (BitVec.ofNat 64 sl)
def newPut (s : State) (sl : Nat) : Nat :=
  let e : BitVec 512 := BitVec.ofNat 512 (natOf (rdB 0x1CE sl s)); (entryMark (entryMark (entryRegs s 40) 0 false) (e.toNat / 2 ^ 244 % 4096) true).toNat
def D (s : State) (sl : Nat) : State := st2 0x1CE sl 0 (bytesOf (newPut s sl) 64) (rdS 0x1CE sl s)
def K (s : State) (sl : Nat) : State :=
  let e : BitVec 512 := BitVec.ofNat 512 (natOf (rdB 0x1D0 sl s)); st2 0x1D0 sl 30 (bytesOf ((entryMark e ((e.toNat / 2 ^ 244 % 4096) + 1) false).toNat / 2 ^ 240 % 2 ^ 16) 2) (rdS 0x1D0 sl s)
def dead := entW 0x2000 0 0 9 9 9 0 7 64
def live := entW 0x2000 0 0 9 9 9 1 7 64
def q1 := A1 good dead 3
def q2 := A1 good live 3
def q3 := A1 bad dead 3
def k1 := setG (putE 3 live st) 40 0x700003
def k2 := setG (putE 3 live st) 40 0x600003
def cu (s : State) (opc : BitVec 12) (sl off n : Nat) : State := let s1 := rdS opc.toNat sl s; chkU (checkAccess s1 ⟨9, opc, false,
  true, false, false⟩ (entryAddr s1 sl + BitVec.ofNat 64 off) (addrsFrom (entryAddr s1 sl + BitVec.ofNat 64 off) n))
def farT (s : State) : State := putCcOf { s with tlbs := stF.tlbs } { ccOf s with desc := { (ccOf s).desc with shapes := 0x40000 } }
def q5 := farT q1
def k6 := farT k1
def unm (s : State) : State := putCcOf s { ccOf s with desc := { (ccOf s).desc with shapes := 0x50000 } }
def q8 := unm q1
def k8 := unm k1
def shA := entW 0x20 0 0 64 64 10 1 1 128
def shB := entW 0x20 0 0 64 64 10 1 2 128
def cmdS (w0 w1 w2 w3 w4 : Nat) (s : State) : State := ws 40 [w0, w1, w2, w3, w4, 0, 0, 0] (putE 0 shA (putE 1 shB s))
def mxx (f : Mxu → Mxu) := upC (fun c => { c with mxu := f c.mxu })
def pe : PendTrailer := ⟨4, 2, 0x123⟩
def RH (s : State) : HandleResult := readHandles s 0 (commandHandles ((readG s 40).toNat % 256) (readG s 41))
def R1 (s : State) : State := match RH s with | .done a _ => a | _ => s
def R2 (s : State) : List Shape := match RH s with | .done _ l => l | _ => []
def R3 (s : State) : Nat := match RH s with | .shape a _ _ => a | _ => 0
def R4 (s : State) : Nat := match RH s with | .shape _ a _ => a | _ => 0
def R5 (s : State) : Nat := match RH s with | .shape _ _ a => a | _ => 0
def c1 := cmdS 1 0x0020000100100000 0 0 0 st
def c2 := cmdS 1 0x0010000100100000 0 0 0 st
def c3 := cmdS 3 0x00100000 2 0 0 (mxx (fun m => { m with tickets := 6 }) st)
def c5 := cmdS 0 0 0 0 0 st
def c7 := cmdS 0x205 0x2000 0 0 0 st
def w1 := S 0
def w2 := mxx (fun m => { m with done := 3, pend := some pe }) (S 2)
def w3 := mxx (fun m => { m with done := 5, pend := some pe }) (S 5)
def c13 := farT c1
def rw (s : State) : State := match RH s with | .wait w => w | _ => s
def shared (line : Nat) (s : State) : State := { s with coh := { s.coh with homes := [(line, ⟨1, .s, 2, 0⟩)] } }
def q6 := shared 0x6001 q1
def k7 := shared 0x6001 k1

/-- The hypotheses of ShapeTable hold together. -/
theorem witness_shapeTable_1 :
    (let s : State := k1
    let a : GReg := 40
    let b : GReg := 20
    let s1 : State := (rdS 0x1D0 3 k1)
    let s2 : State := (K k1 3)
    let u : State := (cu k1 0x1D0 3 30 2)
    let bs : List Byte := (rdB 0x1D0 3 k1)
    let pa : Nat := 0x3000DE
    let count := (ccOf s).desc.shcnt
    let e : BitVec 512 := BitVec.ofNat 512 (natOf bs)
    let gen := e.toNat / 2 ^ 244 % 4096
    let sl := (readG s b).toNat
    let k := (readG s a).toNat % 2 ^ 32
    let ks := k % 2 ^ 20
    let stale : Prop := e.getLsbD 240 = false ∨ gen ≠ k / 2 ^ 20
    let mark := (entryMark e (gen + 1) false).toNat / 2 ^ 240 % 2 ^ 16
    let i : Nat := 511
    count ≤ sl ∧ ks < count ∧ readEntry s 9 0x1D0 ks = .done s1 bs ∧ ¬stale ∧ storeEntry s1 0x1D0 ks 30 (bytesOf mark 2) = .done s2 ∧
      checkAccess s1 ⟨9, 0x1D0, false, true, false,
      false⟩ (entryAddr s1 ks + 30) (addrsFrom (entryAddr s1 ks + 30) 2) = .ok u (memLocs pa 2) ∧ i < 512) ∧
   (let s : State := q1
    let a : GReg := 40
    let b : GReg := 20
    let s1 : State := (rdS 0x1CE 3 q1)
    let s2 : State := (D q1 3)
    let u : State := (cu q1 0x1CE 3 0 64)
    let bs : List Byte := (rdB 0x1CE 3 q1)
    let pa : Nat := 0x3000C0
    let count := (ccOf s).desc.shcnt
    let e : BitVec 512 := BitVec.ofNat 512 (natOf bs)
    let gen := e.toNat / 2 ^ 244 % 4096
    let sl := (readG s b).toNat
    let new : BitVec 512 := entryMark (entryRegs s a) 0 false
    let put := entryMark new gen true
    let k := (readG s a).toNat % 2 ^ 32
    let ks := k % 2 ^ 20
    count ≤ ks ∧ sl < count ∧ readEntry s 9 0x1CE sl = .done s1 bs ∧ e.getLsbD 240 = false ∧ entryOk new = true ∧
      storeEntry s1 0x1CE sl 0 (bytesOf put.toNat 64) = .done s2 ∧
      checkAccess s1 ⟨9, 0x1CE, false, true, false,
      false⟩ (entryAddr s1 sl + 0) (addrsFrom (entryAddr s1 sl + 0) 64) = .ok u (memLocs pa 64)) ∧
   (let s : State := k2
    let a : GReg := 40
    let s1 : State := (rdS 0x1D0 3 k2)
    let bs : List Byte := (rdB 0x1D0 3 k2)
    let count := (ccOf s).desc.shcnt
    let e : BitVec 512 := BitVec.ofNat 512 (natOf bs)
    let gen := e.toNat / 2 ^ 244 % 4096
    let k := (readG s a).toNat % 2 ^ 32
    let ks := k % 2 ^ 20
    let stale : Prop := e.getLsbD 240 = false ∨ gen ≠ k / 2 ^ 20
    ks < count ∧ readEntry s 9 0x1D0 ks = .done s1 bs ∧ stale) := by
  refine ⟨?_, ?_, ?_⟩ <;> decide +kernel

/-- The hypotheses of ShapeTable hold together. -/
theorem witness_shapeTable_2 :
    (let s : State := k6
    let a : GReg := 40
    let w : State := (rdS 0x1D0 3 k6)
    let count := (ccOf s).desc.shcnt
    let k := (readG s a).toNat % 2 ^ 32
    let ks := k % 2 ^ 20
    ks < count ∧ readEntry s 9 0x1D0 ks = .wait w) ∧
   (let s : State := k7
    let a : GReg := 40
    let s1 : State := (rdS 0x1D0 3 k7)
    let w : State := (K k7 3)
    let bs : List Byte := (rdB 0x1D0 3 k7)
    let count := (ccOf s).desc.shcnt
    let e : BitVec 512 := BitVec.ofNat 512 (natOf bs)
    let gen := e.toNat / 2 ^ 244 % 4096
    let k := (readG s a).toNat % 2 ^ 32
    let ks := k % 2 ^ 20
    let stale : Prop := e.getLsbD 240 = false ∨ gen ≠ k / 2 ^ 20
    let mark := (entryMark e (gen + 1) false).toNat / 2 ^ 240 % 2 ^ 16
    ks < count ∧ readEntry s 9 0x1D0 ks = .done s1 bs ∧ ¬stale ∧ storeEntry s1 0x1D0 ks 30 (bytesOf mark 2) = .wait w) ∧
   (let s : State := k8
    let a : GReg := 40
    let u : State := (rdS 0x1D0 3 k8)
    let count := (ccOf s).desc.shcnt
    let k := (readG s a).toNat % 2 ^ 32
    let ks := k % 2 ^ 20
    let f : TrapInfo := trapOf (readEntry s 9 0x1D0 ks)
    ks < count ∧ readEntry s 9 0x1D0 ks = .trap u f) := by
  refine ⟨?_, ?_, ?_⟩ <;> decide +kernel

/-- The hypotheses of ShapeTable hold together. -/
theorem witness_shapeTable_3 :
    (let s : State := q2
    let b : GReg := 20
    let s1 : State := (rdS 0x1CE 3 q2)
    let bs : List Byte := (rdB 0x1CE 3 q2)
    let count := (ccOf s).desc.shcnt
    let e : BitVec 512 := BitVec.ofNat 512 (natOf bs)
    let sl := (readG s b).toNat
    sl < count ∧ readEntry s 9 0x1CE sl = .done s1 bs ∧ e.getLsbD 240 = true) ∧
   (let s : State := q3
    let a : GReg := 40
    let b : GReg := 20
    let s1 : State := (rdS 0x1CE 3 q3)
    let bs : List Byte := (rdB 0x1CE 3 q3)
    let count := (ccOf s).desc.shcnt
    let e : BitVec 512 := BitVec.ofNat 512 (natOf bs)
    let sl := (readG s b).toNat
    let new : BitVec 512 := entryMark (entryRegs s a) 0 false
    sl < count ∧ readEntry s 9 0x1CE sl = .done s1 bs ∧ e.getLsbD 240 = false ∧ entryOk new = false) ∧
   (let s : State := q5
    let b : GReg := 20
    let w : State := (rdS 0x1CE 3 q5)
    let count := (ccOf s).desc.shcnt
    let sl := (readG s b).toNat
    sl < count ∧ readEntry s 9 0x1CE sl = .wait w) := by
  refine ⟨?_, ?_, ?_⟩ <;> decide +kernel

/-- The hypotheses of ShapeTable hold together. -/
theorem witness_shapeTable_4 :
    (let s : State := q6
    let a : GReg := 40
    let b : GReg := 20
    let s1 : State := (rdS 0x1CE 3 q6)
    let w : State := (D q6 3)
    let bs : List Byte := (rdB 0x1CE 3 q6)
    let count := (ccOf s).desc.shcnt
    let e : BitVec 512 := BitVec.ofNat 512 (natOf bs)
    let gen := e.toNat / 2 ^ 244 % 4096
    let sl := (readG s b).toNat
    let new : BitVec 512 := entryMark (entryRegs s a) 0 false
    let put := entryMark new gen true
    sl < count ∧ readEntry s 9 0x1CE sl = .done s1 bs ∧ e.getLsbD 240 = false ∧ entryOk new = true ∧
      storeEntry s1 0x1CE sl 0 (bytesOf put.toNat 64) = .wait w) ∧
   (let s : State := q8
    let b : GReg := 20
    let u : State := (rdS 0x1CE 3 q8)
    let count := (ccOf s).desc.shcnt
    let sl := (readG s b).toNat
    let f : TrapInfo := trapOf (readEntry s 9 0x1CE sl)
    sl < count ∧ readEntry s 9 0x1CE sl = .trap u f) := by
  refine ⟨?_, ?_⟩ <;> decide +kernel

/-- The hypotheses of CommandQueue hold together. -/
theorem witness_commandQueue :
    (let s : State := c1
    let a : GReg := 40
    let s1 : State := (R1 c1)
    let shapes : List Shape := (R2 c1)
    let c := ccOf s
    let w (i : Fin 8) : Word := readG s (regAt a i.val)
    let f (i : Fin 8) (hi lo : Nat) : Nat := (w i).toNat / 2 ^ lo % 2 ^ (hi + 1 - lo)
    let code := (w 0).toNat % 256
    let reserved : Prop := f 0 63 32 ≠ 0 ∨ f 0 15 11 ≠ 0 ∨ (∃ i : Fin 8, 3 ≤ i.val ∧ w i ≠ 0) ∨ (code = 1 ∧ w 2 ≠ 0) ∨
      (code = 2 ∧ (f 1 63 32 ≠ 0 ∨ f 2 63 8 ≠ 0 ∨ f 2 7 0 = 0)) ∨
      (code = 3 ∧ (f 0 31 16 ≠ 0 ∨ f 0 10 8 ≠ 0 ∨ f 1 63 32 ≠ 0 ∨ f 2 63 3 ≠ 0)) ∨
      (4 ≤ code ∧ (f 0 31 16 ≠ 0 ∨ f 0 10 10 ≠ 0)) ∨ (code = 4 ∧ (w 1 ≠ 0 ∨ w 2 ≠ 0)) ∨
      (5 ≤ code ∧ (f 1 63 20 ≠ 0 ∨ f 1 11 0 ≠ 0)) ∨ (code = 5 ∧ w 2 ≠ 0) ∨
      (code = 6 ∧ (f 2 63 12 ≠ 0 ∨ f 2 7 4 ≠ 0 ∨ f 2 3 0 < 10 ∨ 13 < f 2 3 0 ∨ (f 2 3 0 < 12 ∧ f 2 11 8 ≠ 0)))
    let ok : Prop := 1 ≤ code ∧ code ≤ 6 ∧ ¬reserved
    let op := commandOp code w shapes
    let k := (w 0).toNat / 2 ^ 16 % 2 ^ 16
    let read := readHandles s 0 (commandHandles code (w 1))
    let target := (readG s a).toNat
    let reached : Prop := target ≤ c.mxu.done.toNat
    ok ∧ read = .done s1 shapes ∧ commandFits c.mxu op k = true ∧ notOwned c .mxu (commandRange op).1 (commandRange op).2 = none ∧
      ¬reached) ∧
   (let s : State := c5
    let a : GReg := 40
    let c := ccOf s
    let w (i : Fin 8) : Word := readG s (regAt a i.val)
    let code := (w 0).toNat % 256
    let target := (readG s a).toNat
    let reached : Prop := target ≤ c.mxu.done.toNat
    (code = 0 ∨ 7 ≤ code) ∧ reached ∧ c.mxu.pend = none) ∧
   (let s : State := w2
    let a : GReg := 20
    let p : PendTrailer := pe
    let c := ccOf s
    let w (i : Fin 8) : Word := readG s (regAt a i.val)
    let f (i : Fin 8) (hi lo : Nat) : Nat := (w i).toNat / 2 ^ lo % 2 ^ (hi + 1 - lo)
    let code := (w 0).toNat % 256
    let reserved : Prop := f 0 63 32 ≠ 0 ∨ f 0 15 11 ≠ 0 ∨ (∃ i : Fin 8, 3 ≤ i.val ∧ w i ≠ 0) ∨ (code = 1 ∧ w 2 ≠ 0) ∨
      (code = 2 ∧ (f 1 63 32 ≠ 0 ∨ f 2 63 8 ≠ 0 ∨ f 2 7 0 = 0)) ∨
      (code = 3 ∧ (f 0 31 16 ≠ 0 ∨ f 0 10 8 ≠ 0 ∨ f 1 63 32 ≠ 0 ∨ f 2 63 3 ≠ 0)) ∨
      (4 ≤ code ∧ (f 0 31 16 ≠ 0 ∨ f 0 10 10 ≠ 0)) ∨ (code = 4 ∧ (w 1 ≠ 0 ∨ w 2 ≠ 0)) ∨
      (5 ≤ code ∧ (f 1 63 20 ≠ 0 ∨ f 1 11 0 ≠ 0)) ∨ (code = 5 ∧ w 2 ≠ 0) ∨
      (code = 6 ∧ (f 2 63 12 ≠ 0 ∨ f 2 7 4 ≠ 0 ∨ f 2 3 0 < 10 ∨ 13 < f 2 3 0 ∨ (f 2 3 0 < 12 ∧ f 2 11 8 ≠ 0)))
    let target := (readG s a).toNat
    let reached : Prop := target ≤ c.mxu.done.toNat
    1 ≤ code ∧ code ≤ 6 ∧ reserved ∧ reached ∧ c.mxu.pend = some p ∧ target < p.ticket) ∧
   (let s : State := c13
    let a : GReg := 40
    let w' : State := (rw c13)
    let w (i : Fin 8) : Word := readG s (regAt a i.val)
    let f (i : Fin 8) (hi lo : Nat) : Nat := (w i).toNat / 2 ^ lo % 2 ^ (hi + 1 - lo)
    let code := (w 0).toNat % 256
    let reserved : Prop := f 0 63 32 ≠ 0 ∨ f 0 15 11 ≠ 0 ∨ (∃ i : Fin 8, 3 ≤ i.val ∧ w i ≠ 0) ∨ (code = 1 ∧ w 2 ≠ 0) ∨
      (code = 2 ∧ (f 1 63 32 ≠ 0 ∨ f 2 63 8 ≠ 0 ∨ f 2 7 0 = 0)) ∨
      (code = 3 ∧ (f 0 31 16 ≠ 0 ∨ f 0 10 8 ≠ 0 ∨ f 1 63 32 ≠ 0 ∨ f 2 63 3 ≠ 0)) ∨
      (4 ≤ code ∧ (f 0 31 16 ≠ 0 ∨ f 0 10 10 ≠ 0)) ∨ (code = 4 ∧ (w 1 ≠ 0 ∨ w 2 ≠ 0)) ∨
      (5 ≤ code ∧ (f 1 63 20 ≠ 0 ∨ f 1 11 0 ≠ 0)) ∨ (code = 5 ∧ w 2 ≠ 0) ∨
      (code = 6 ∧ (f 2 63 12 ≠ 0 ∨ f 2 7 4 ≠ 0 ∨ f 2 3 0 < 10 ∨ 13 < f 2 3 0 ∨ (f 2 3 0 < 12 ∧ f 2 11 8 ≠ 0)))
    let ok : Prop := 1 ≤ code ∧ code ≤ 6 ∧ ¬reserved
    let read := readHandles s 0 (commandHandles code (w 1))
    ok ∧ read = .wait w') ∧
   (let s : State := c2
    let a : GReg := 40
    let hd : Nat := (R3 c2)
    let rs : Nat := (R4 c2)
    let od : Nat := (R5 c2)
    let w (i : Fin 8) : Word := readG s (regAt a i.val)
    let f (i : Fin 8) (hi lo : Nat) : Nat := (w i).toNat / 2 ^ lo % 2 ^ (hi + 1 - lo)
    let code := (w 0).toNat % 256
    let reserved : Prop := f 0 63 32 ≠ 0 ∨ f 0 15 11 ≠ 0 ∨ (∃ i : Fin 8, 3 ≤ i.val ∧ w i ≠ 0) ∨ (code = 1 ∧ w 2 ≠ 0) ∨
      (code = 2 ∧ (f 1 63 32 ≠ 0 ∨ f 2 63 8 ≠ 0 ∨ f 2 7 0 = 0)) ∨
      (code = 3 ∧ (f 0 31 16 ≠ 0 ∨ f 0 10 8 ≠ 0 ∨ f 1 63 32 ≠ 0 ∨ f 2 63 3 ≠ 0)) ∨
      (4 ≤ code ∧ (f 0 31 16 ≠ 0 ∨ f 0 10 10 ≠ 0)) ∨ (code = 4 ∧ (w 1 ≠ 0 ∨ w 2 ≠ 0)) ∨
      (5 ≤ code ∧ (f 1 63 20 ≠ 0 ∨ f 1 11 0 ≠ 0)) ∨ (code = 5 ∧ w 2 ≠ 0) ∨
      (code = 6 ∧ (f 2 63 12 ≠ 0 ∨ f 2 7 4 ≠ 0 ∨ f 2 3 0 < 10 ∨ 13 < f 2 3 0 ∨ (f 2 3 0 < 12 ∧ f 2 11 8 ≠ 0)))
    let ok : Prop := 1 ≤ code ∧ code ≤ 6 ∧ ¬reserved
    let read := readHandles s 0 (commandHandles code (w 1))
    ok ∧ read = .shape hd rs od) ∧
   (let s : State := c3
    let a : GReg := 40
    let s1 : State := (R1 c3)
    let shapes : List Shape := (R2 c3)
    let c := ccOf s
    let w (i : Fin 8) : Word := readG s (regAt a i.val)
    let f (i : Fin 8) (hi lo : Nat) : Nat := (w i).toNat / 2 ^ lo % 2 ^ (hi + 1 - lo)
    let code := (w 0).toNat % 256
    let reserved : Prop := f 0 63 32 ≠ 0 ∨ f 0 15 11 ≠ 0 ∨ (∃ i : Fin 8, 3 ≤ i.val ∧ w i ≠ 0) ∨ (code = 1 ∧ w 2 ≠ 0) ∨
      (code = 2 ∧ (f 1 63 32 ≠ 0 ∨ f 2 63 8 ≠ 0 ∨ f 2 7 0 = 0)) ∨
      (code = 3 ∧ (f 0 31 16 ≠ 0 ∨ f 0 10 8 ≠ 0 ∨ f 1 63 32 ≠ 0 ∨ f 2 63 3 ≠ 0)) ∨
      (4 ≤ code ∧ (f 0 31 16 ≠ 0 ∨ f 0 10 10 ≠ 0)) ∨ (code = 4 ∧ (w 1 ≠ 0 ∨ w 2 ≠ 0)) ∨
      (5 ≤ code ∧ (f 1 63 20 ≠ 0 ∨ f 1 11 0 ≠ 0)) ∨ (code = 5 ∧ w 2 ≠ 0) ∨
      (code = 6 ∧ (f 2 63 12 ≠ 0 ∨ f 2 7 4 ≠ 0 ∨ f 2 3 0 < 10 ∨ 13 < f 2 3 0 ∨ (f 2 3 0 < 12 ∧ f 2 11 8 ≠ 0)))
    let ok : Prop := 1 ≤ code ∧ code ≤ 6 ∧ ¬reserved
    let op := commandOp code w shapes
    let k := (w 0).toNat / 2 ^ 16 % 2 ^ 16
    let read := readHandles s 0 (commandHandles code (w 1))
    ok ∧ read = .done s1 shapes ∧ commandFits c.mxu op k = false) ∧
   (let s : State := c7
    let a : GReg := 40
    let s1 : State := (R1 c7)
    let shapes : List Shape := (R2 c7)
    let c := ccOf s
    let w (i : Fin 8) : Word := readG s (regAt a i.val)
    let f (i : Fin 8) (hi lo : Nat) : Nat := (w i).toNat / 2 ^ lo % 2 ^ (hi + 1 - lo)
    let code := (w 0).toNat % 256
    let reserved : Prop := f 0 63 32 ≠ 0 ∨ f 0 15 11 ≠ 0 ∨ (∃ i : Fin 8, 3 ≤ i.val ∧ w i ≠ 0) ∨ (code = 1 ∧ w 2 ≠ 0) ∨
      (code = 2 ∧ (f 1 63 32 ≠ 0 ∨ f 2 63 8 ≠ 0 ∨ f 2 7 0 = 0)) ∨
      (code = 3 ∧ (f 0 31 16 ≠ 0 ∨ f 0 10 8 ≠ 0 ∨ f 1 63 32 ≠ 0 ∨ f 2 63 3 ≠ 0)) ∨
      (4 ≤ code ∧ (f 0 31 16 ≠ 0 ∨ f 0 10 10 ≠ 0)) ∨ (code = 4 ∧ (w 1 ≠ 0 ∨ w 2 ≠ 0)) ∨
      (5 ≤ code ∧ (f 1 63 20 ≠ 0 ∨ f 1 11 0 ≠ 0)) ∨ (code = 5 ∧ w 2 ≠ 0) ∨
      (code = 6 ∧ (f 2 63 12 ≠ 0 ∨ f 2 7 4 ≠ 0 ∨ f 2 3 0 < 10 ∨ 13 < f 2 3 0 ∨ (f 2 3 0 < 12 ∧ f 2 11 8 ≠ 0)))
    let ok : Prop := 1 ≤ code ∧ code ≤ 6 ∧ ¬reserved
    let op := commandOp code w shapes
    let k := (w 0).toNat / 2 ^ 16 % 2 ^ 16
    let read := readHandles s 0 (commandHandles code (w 1))
    let f : Nat := 0x2000
    ok ∧ read = .done s1 shapes ∧ commandFits c.mxu op k = true ∧ notOwned c .mxu (commandRange op).1 (commandRange op).2 = some f) ∧
   (let s : State := w3
    let a : GReg := 20
    let p : PendTrailer := pe
    let c := ccOf s
    let target := (readG s a).toNat
    let reached : Prop := target ≤ c.mxu.done.toNat
    reached ∧ c.mxu.pend = some p ∧ p.ticket ≤ target) := by
  refine ⟨?_, ?_, ?_, ?_, ?_, ?_, ?_, ?_⟩ <;> decide +kernel

end Shapes

namespace Vector

/-- The hypotheses of VectorFloatingPoint hold together. -/
theorem witness_vectorFloatingPoint :
    (let dt : LaneTy := (.int .i32)
    let st : LaneTy := (.fp .f32)
    let part : Fin 4 := 0
    let wd := laneWidth dt
    let ws := laneWidth st
    ws = wd ∧ part = 0) ∧
   (let dt : LaneTy := (.fp .f16)
    let st : LaneTy := (.fp .f32)
    let wd := laneWidth dt
    let ws := laneWidth st
    wd < ws) ∧
   (let dt : LaneTy := (.fp .f32)
    let st : LaneTy := (.int .i8)
    let wd := laneWidth dt
    let ws := laneWidth st
    ws < wd) := by
  refine ⟨?_, ?_, ?_⟩ <;> decide +kernel

/-- The hypotheses of BlockFormats hold together. -/
theorem witness_blockFormats :
    let f : BxTy := .bx4
    let d : VReg := 10
    let c : VReg := 12
    let blk : Fin 8 := 7
    let size : Nat := if f = .bx8 then 32 else 16
    size * (blk.val + 1) ≤ 128 ∧ d ≠ c := by decide +kernel

/-- The hypotheses of BlockValues hold together. -/
theorem witness_blockValues :
    (let e0 : Nat := 3
    let e1 : Nat := 254
    let x : FpBits := 0xFF800000
    e0 ≤ e1 ∧ e1 < 255 ∧ fpMag .f32 x = infMag .f32) ∧
   (let e0 : Nat := 3
    let e1 : Nat := 254
    let x : FpBits := 0x7FC00001
    e0 ≤ e1 ∧ e1 < 255 ∧ infMag .f32 < fpMag .f32 x) ∧
   (let e0 : Nat := 3
    let e1 : Nat := 5
    let x : FpBits := 0x3F800000
    e0 ≤ e1 ∧ e1 < 255 ∧ fpFinite .f32 x) := by
  refine ⟨?_, ?_, ?_⟩ <;> decide +kernel

/-- The hypotheses of Reductions hold together. -/
theorem witness_reductions :
    (let op : RedOp := .add
    op = .add) ∧
   (let op : RedOp := .and
    op = .and) ∧
   (let op : RedOp := .fadd
    (op = .fadd ∨ op = .fmin ∨ op = .fmax)) ∧
   (let op : RedOp := .max
    op = .max) ∧
   (let op : RedOp := .min
    op = .min) ∧
   (let op : RedOp := .or
    op = .or) ∧
   (let op : RedOp := .xor
    op = .xor) := by
  refine ⟨?_, ?_, ?_, ?_, ?_, ?_, ?_⟩ <;> decide +kernel

/-- The hypotheses of Geometry hold together. -/
theorem witness_geometry :
    let d : VReg := 10
    let a : VReg := 20
    a.val + 2 < 64 ∧ d.val + 2 < 64 ∧ d.val + 1 < 64 := by decide +kernel

end Vector

namespace Sched

def act (l : Fin 3) (b : BitVec 32) (r : SlotRun) (lim : Vector Nat 2) (k : Fin 4) (s : State) : State :=
  { s with slots := tabSet s.slots k.val { slot0 with level := l, sbudget := b, run := r, limit := lim, ip := 99 } }
def fh (p : Nat) (k : Nat) : Frame := (fr k).set 0 (BitVec.ofNat 64 ((17 + k) * 2^32 + 1 * 2^28 + p * 2^26 + 12345 + k))
def free0 (s : State) : State := { s with slots := [] }
def chan (c : Fin 32) (e : Nat) (q : List Frame) (p r : Nat) :=
  upC (fun x => { x with chans := x.chans.set c ⟨BitVec.ofNat 64 e, q, p, r⟩ })
def hd (l : List Frame) (p r : Nat) := upC (fun x => { x with hod := l, hodPass := p, hodRaised := r, sstk := #v[1,2,3,4], budget := 50 })
def c1 := chan 7 (0x1234500000000 + 8 + 2) [fh 1 1, fh 2 2] 3 0 (hd [fh 1 3, fh 2 4] 63 0 (free0 st))
def c3 := chan 7 (0x1234500000000 + 8 + 1) [fh 1 1, fh 2 2] 63 0 (chan 9 (0x333300000000 + 8 + 4) [fh 1 5] 63 1 (hd [fh 1 3,
  fh 2 4] 5 1 (free0 st)))
def c6 := free0 st
def cl (n : Nat) (f : Cell → Cell) (s : State) : State := putCell s n (f (cellAt s n))
def th (d w : BitVec 2) (f : BitVec 4) (z : Steal) : Cell → Cell :=
  fun x => { x with live := true, cc := { cc0 with domain := d, widest := w, fails := f, hod := [] }, steal := z }
def vic (l : List Frame) (id : BitVec 16) : Cell → Cell :=
  fun x => { x with live := true, cc := { cc0 with desc := { cc0.desc with ctxid := id }, hod := l } }
def b0 := cl 4 (th 0 0 0 .idle) (cl 5 (vic [fh 1 1, fh 2 4] 5) (free0 st))
def b2 := cl 4 (th 2 2 0 (.asked 300 2 none)) (cl 300 (vic [fh 1 1, fh 2 4] 5) (free0 st))
def b3 := cl 4 (th 2 2 0 (.asked 300 2 none)) (cl 300 (vic [] 5) (free0 st))
def b9 := cl 4 (th 1 2 3 (.claimed 300 (fh 1 1) none)) (free0 st)
def b10 := cl 4 (fun x => { x with installs := [fh 1 1, fh 2 4] }) b9
def vr := fun (x : CtxCell) => { x with sspill := 0x20003, ringPages := [0x500000], ringHead := 7, ringCount := 2 }
def b13 := cl 300 (fun x => { x with cc := vr x.cc }) b2
def b14 := cl 4 (th 0 0 14 (.empty 0 none)) (free0 st)
def tailU (s : State) (c : Nat) : State := let x := ccAt s c; let n := min 32 x.ringCount; exU (ringLines s c false (x.ringCount - n) n)
def rng (pa h n : Nat) := upC (fun x => { x with sspill := 0x20003, ringPages := [pa], ringHead := h, ringCount := n })
def c8 := rng 0x500000 7 2 (hd [] 5 1 (free0 st))
def c9 := rng 0x3000500000 7 2 (hd [] 5 1 (free0 st))
def tf (s : State) (i : Nat) : Frame :=
  let u := tailU s 0; let x := ccAt s 0; let n := min 32 x.ringCount; physFrame u 0 (ringAddr x ((x.ringHead + (x.ringCount - n) + i) % ringCap x))
def old (s : State) (b : Nat) : State := exU (ringLines s b false 0 1)
def mvd (s : State) (a : Nat) : State :=
  let x := ccAt s a; exU (ringLines (setSteal s a .idle) a true x.ringCount (min 32 (ringCap x - x.ringCount)))
def b17 := cl 4 (fun x => { x with cc := { x.cc with hod := (List.range 64).map (fun i => fh 1 (i % 8)) } }) b9
def b18 := cl 4 (fun x => { x with cc := { x.cc with sspill := 0x20003, ringPages := [0x500000], ringHead := 1020, ringCount := 3 } }) b17
def b19 :=
  cl 4 (fun x => { x with cc := { x.cc with sspill := 0x20003, ringPages := [0x3000500000], ringHead := 1020, ringCount := 3 } }) b17
def b20 := cl 4 (fun x => { x with steal := .asked 300 2 (some (1, 0)) }) b2
def b23 := cl 300 (fun x => { x with cc := { vr x.cc with ringPages := [0x3000500000] } }) b2
def b24 := cl 5 (fun x => { x with live := true, cc := vr x.cc }) (cl 4 (th 2 2 0 (.asked 5 2 none)) (free0 st))

/-- The hypotheses of Budgets hold together. -/
theorem witness_budgets :
    (let s : State := (act 0 0 (.wait (.arrive 3 .bsync)) #v[1,1] 2 st)
    let c : Nat := 0
    let k : Fin 4 := 2
    let w : Wait := (.arrive 3 .bsync)
    let x := slotAt s c k
    x.level = 0 ∧ x.sbudget = 0 ∧ x.run = .wait w ∧ (x.level = 0 ∨ x.level = 1 ∧ x.limit[0] ≠ 0 ∨ x.level = 2 ∧ x.limit[1] ≠ 0)) ∧
   (let s : State := (act 1 1 .run #v[0,1] 2 st)
    let c : Nat := 0
    let k : Fin 4 := 2
    let x := slotAt s c k
    (x.level ≠ 0 ∨ x.sbudget ≠ 0) ∧ x.level = 1 ∧ x.limit[0] = 0 ∧ x.run = .run ∧ x.stall = .none) ∧
   (let s : State := (act 0 0 .run #v[1,1] 0 st)
    let c : Nat := 0
    let k : Fin 4 := 0
    let x := slotAt s c k
    x.level = 0 ∧ x.sbudget = 0 ∧ x.run = .run ∧ x.stall = .none) ∧
   (let s : State := (act 2 1 .run #v[0,0] 2 st)
    let c : Nat := 0
    let k : Fin 4 := 2
    let x := slotAt s c k
    x.level = 2 ∧ x.limit[1] = 0 ∧ x.run = .run ∧ x.stall = .none) := by
  refine ⟨?_, ?_, ?_, ?_⟩ <;> decide +kernel

/-- The hypotheses of Steals hold together. -/
theorem witness_steals :
    (let s : State := (cl 4 (fun x => { x with stealWait := 5 }) b0)
    let a : Nat := 4
    let b : Nat := 5
    let A := cellAt s a
    let x := A.cc
    let p := physOf s a
    let q := physOf s b
    let near : Prop := x.domain = 0 ∧ p / 8 = q / 8 ∨ x.domain = 1 ∧ p / 256 = q / 256 ∨ 2 ≤ x.domain.toNat
    let idle := setSteal s a .idle
    let i : Fin 8 := 7
    A.steal = .idle ∧ mayStealNow s a = true ∧ domainHasOther s a = true ∧ b < cellCount s ∧ b ≠ a ∧ near ∧ (A.installs = [] ∨
      A.committing ≠ none) ∧ i ≠ 0) ∧
   (let s : State := b10
    let a : Nat := 4
    let b : Nat := 300
    let f : Frame := (fh 1 1)
    let l : List Frame := [fh 2 4]
    let via : Transit := none
    let A := cellAt s a
    let x := A.cc
    A.steal = .claimed b f via ∧ arrived s via = true ∧ (A.committing ≠ none ∨ A.installs ≠ []) ∧ A.installs = f :: l ∧
      A.committing = none ∧ x.hod.length < 64) ∧
   (let s : State :=
        (let s := cl 0 (th 0 1 1 .idle) { (free0 st) with cells := [] }; { s with plat := { s.plat with absentCells := [0,1,2,3,5,6,7] } })
    let a : Nat := 0
    let A := cellAt s a
    let idle := setSteal s a .idle
    A.steal = .idle ∧ mayStealNow s a = true ∧ domainHasOther s a = false) ∧
   (let s : State := b13
    let w : State := (old b13 300)
    let a : Nat := 4
    let b : Nat := 300
    let d : BitVec 2 := 2
    let via : Transit := none
    let A := cellAt s a
    let B := cellAt s b
    let x := A.cc
    let oldest := ringLines s b false 0 1
    b ≠ a ∧ A.steal = .asked b d via ∧ arrived s via = true ∧ B.live = true ∧ B.cc.desc.ctxid = x.desc.ctxid ∧ B.cc.ringCount ≠ 0 ∧
      oldest = .error w) ∧
   (let s : State := b14
    let a : Nat := 4
    let b : Nat := 5
    let d : BitVec 2 := 0
    let via : Transit := none
    let A := cellAt s a
    let p := physOf s a
    let q := physOf s b
    let back (v : State) : Transit := nextTransit v (q / 256) (p / 256)
    let empty : Prop := ∃ t, exec (.stealClaim a) s = .next t ∧ cellAt t a = { A with steal := .empty d (back s) } ∧
      OtherCells a s t ∧ { t with cells := s.cells } = sendMessage s (q / 256) (p / 256)
    A.steal = .empty d via ∧ arrived s via = true) ∧
   (let s : State := b17
    let a : Nat := 4
    let b : Nat := 300
    let f : Frame := (fh 1 1)
    let via : Transit := none
    let A := cellAt s a
    let x := A.cc
    let k := min 32 (ringCap x - x.ringCount)
    A.steal = .claimed b f via ∧ arrived s via = true ∧ A.committing = none ∧ A.installs = [] ∧ 64 ≤ x.hod.length ∧ k = 0) ∧
   (let s : State := b18
    let u : State := (mvd b18 4)
    let a : Nat := 4
    let b : Nat := 300
    let f : Frame := (fh 1 1)
    let via : Transit := none
    let A := cellAt s a
    let x := A.cc
    let idle := setSteal s a .idle
    let k := min 32 (ringCap x - x.ringCount)
    let place (i : Nat) := ringAddr x ((x.ringHead + x.ringCount + i) % ringCap x)
    let moved := ringLines idle a true x.ringCount k
    let placed : Prop := ∀ i j, i < j → j < k → place i + 64 ≤ place j ∨ place j + 64 ≤ place i
    A.steal = .claimed b f via ∧ arrived s via = true ∧ A.committing = none ∧ A.installs = [] ∧ 64 ≤ x.hod.length ∧ k ≠ 0 ∧
      moved = .ok u ∧ placed) ∧
   (let s : State := b19
    let w : State := (mvd b19 4)
    let a : Nat := 4
    let b : Nat := 300
    let f : Frame := (fh 1 1)
    let via : Transit := none
    let A := cellAt s a
    let x := A.cc
    let idle := setSteal s a .idle
    let k := min 32 (ringCap x - x.ringCount)
    let moved := ringLines idle a true x.ringCount k
    A.steal = .claimed b f via ∧ arrived s via = true ∧ A.committing = none ∧ A.installs = [] ∧ 64 ≤ x.hod.length ∧ k ≠ 0 ∧
      moved = .error w) ∧
   (let s : State := b2
    let a : Nat := 4
    let b : Nat := 300
    let d : BitVec 2 := 2
    let f : Frame := (fh 1 1)
    let l : List Frame := [fh 2 4]
    let via : Transit := none
    let A := cellAt s a
    let B := cellAt s b
    let x := A.cc
    b ≠ a ∧ A.steal = .asked b d via ∧ arrived s via = true ∧ B.live = true ∧ B.cc.desc.ctxid = x.desc.ctxid ∧ B.cc.ringCount = 0 ∧
      B.cc.hod = f :: l) ∧
   (let s : State := b20
    let a : Nat := 4
    let b : Nat := 300
    let d : BitVec 2 := 2
    let f : Frame := (fh 1 1)
    let via : Transit := (some (1, 0))
    let A := cellAt s a
    let p := physOf s a
    let q := physOf s b
    let back (v : State) : Transit := nextTransit v (q / 256) (p / 256)
    let empty : Prop := ∃ t, exec (.stealClaim a) s = .next t ∧ cellAt t a = { A with steal := .empty d (back s) } ∧
      OtherCells a s t ∧ { t with cells := s.cells } = sendMessage s (q / 256) (p / 256)
    (A.steal = .asked b d via ∨ A.steal = .empty d via ∨ A.steal = .claimed b f via) ∧ arrived s via = false) ∧
   (let s : State := b23
    let u : State := (old b23 300)
    let a : Nat := 4
    let b : Nat := 300
    let d : BitVec 2 := 2
    let via : Transit := none
    let A := cellAt s a
    let B := cellAt s b
    let x := A.cc
    let oldest := ringLines s b false 0 1
    b ≠ a ∧ A.steal = .asked b d via ∧ arrived s via = true ∧ B.live = true ∧ B.cc.desc.ctxid = x.desc.ctxid ∧ B.cc.ringCount ≠ 0 ∧
      oldest = .ok u) ∧
   (let s : State := b24
    let a : Nat := 4
    let b : Nat := 5
    let d : BitVec 2 := 2
    let via : Transit := none
    let A := cellAt s a
    let B := cellAt s b
    let x := A.cc
    A.steal = .asked b d via ∧ arrived s via = true ∧ (B.live = false ∨ B.cc.desc.ctxid ≠ x.desc.ctxid)) ∧
   (let s : State := b3
    let a : Nat := 4
    let b : Nat := 300
    let d : BitVec 2 := 2
    let via : Transit := none
    let A := cellAt s a
    let B := cellAt s b
    let x := A.cc
    b ≠ a ∧ A.steal = .asked b d via ∧ arrived s via = true ∧ B.live = true ∧ B.cc.desc.ctxid = x.desc.ctxid ∧ B.cc.ringCount = 0 ∧
      B.cc.hod = []) ∧
   (let s : State := b9
    let a : Nat := 4
    let b : Nat := 300
    let f : Frame := (fh 1 1)
    let via : Transit := none
    let A := cellAt s a
    let x := A.cc
    A.steal = .claimed b f via ∧ arrived s via = true ∧ A.committing = none ∧ A.installs = [] ∧ x.hod.length < 64) := by
  refine ⟨?_, ?_, ?_, ?_, ?_, ?_, ?_, ?_, ?_, ?_, ?_, ?_, ?_, ?_⟩
  · decide +kernel
  · decide +kernel
  · decide +kernel
  · decide +kernel
  · decide +kernel
  · decide +kernel
  · refine ⟨by decide +kernel, by decide +kernel, by decide +kernel, by decide +kernel, by decide +kernel, by decide +kernel,
    by decide +kernel, ?_⟩
    refine pairs_of ?_
    decide +kernel
  · decide +kernel
  · decide +kernel
  · decide +kernel
  · decide +kernel
  · decide +kernel
  · decide +kernel
  · decide +kernel

/-- The hypotheses of Selection hold together: clause 1. -/
theorem witness_selection_clause1 :
    let s : State := c1
    let u : State := st
    let c : Nat := 0
    let k : Fin 4 := 0
    let ch : Fin 32 := 7
    let f : Frame := (fh 1 1)
    let l : List Frame := [fh 2 2]
    let x := ccAt s c
    let busy (e : Fin 32) : Prop := ∃ j, (slotAt s c j).run ≠ .free ∧ (slotAt s c j).source = .channel e
    let runs (e : Fin 32) : Prop := x.chans[e].entry.getLsbD 3 = true ∧ x.chans[e].entry.getLsbD 2 = false ∧
      x.chans[e].queue ≠ [] ∧ ¬busy e
    let prio (e : Fin 32) : Nat := min 3 (x.chans[e].entry.toNat % 4 + x.chans[e].raised)
    let hodTop := peekFrame s c
    let hodPrio (g : Frame) : Nat := min 3 (g[0].toNat / 2 ^ 26 % 4 + x.hodRaised)
    let n := min 32 x.ringCount
    let tail := ringLines s c false (x.ringCount - n) n
    (cellAt s c).live = true ∧ (cellAt s c).closed = false ∧ (slotAt s c k).run = .free ∧
       ((∀ j, j < k → (slotAt s c j).run ≠ .free)) ∧ runs ch ∧ x.chans[ch].queue = f :: l ∧
        ((∀ g, hodTop = some g → hodPrio g ≤ prio ch)) ∧ ((∀ e, runs e → e ≠ ch → prio e < prio ch ∨ prio e = prio ch ∧
         (ch - (x.lastChan + 1)).val < (e - (x.lastChan + 1)).val)) ∧ (x.hod ≠ [] ∨ x.ringCount = 0 ∨ tail = .ok u) := by
  refine ⟨by decide +kernel, by decide +kernel, by decide +kernel, by decide +kernel, by decide +kernel, by decide +kernel, ?_,
    by decide +kernel, by decide +kernel⟩
  refine some_of ?_
  decide +kernel

/-- The hypotheses of Selection hold together: clause 2. -/
theorem witness_selection_clause2 :
    let s : State := c3
    let c : Nat := 0
    let k : Fin 4 := 0
    let f : Frame := (fh 2 4)
    let l : List Frame := [fh 1 3]
    let x := ccAt s c
    (cellAt s c).live = true ∧ (cellAt s c).closed = false ∧ (slotAt s c k).run = .free ∧
       ((∀ j, j < k → (slotAt s c j).run ≠ .free)) ∧ x.hod = l ++ [f] := by
  refine ⟨by decide +kernel, by decide +kernel, by decide +kernel, by decide +kernel, by decide +kernel⟩

/-- The hypotheses of Selection hold together: clause 6. -/
theorem witness_selection_clause6 :
    let s : State := c6
    let c : Nat := 0
    let k : Fin 4 := 0
    let x := ccAt s c
    let busy (e : Fin 32) : Prop := ∃ j, (slotAt s c j).run ≠ .free ∧ (slotAt s c j).source = .channel e
    let runs (e : Fin 32) : Prop := x.chans[e].entry.getLsbD 3 = true ∧ x.chans[e].entry.getLsbD 2 = false ∧
      x.chans[e].queue ≠ [] ∧ ¬busy e
    (cellAt s c).live = true ∧ (cellAt s c).closed = false ∧ (slotAt s c k).run = .free ∧
       ((∀ j, j < k → (slotAt s c j).run ≠ .free)) ∧ x.hod = [] ∧ x.ringCount = 0 ∧ ((∀ e, ¬runs e)) := by
  refine ⟨by decide +kernel, by decide +kernel, by decide +kernel, by decide +kernel, by decide +kernel, by decide +kernel,
    by decide +kernel⟩

/-- The hypotheses of Steals hold together: clause 3. -/
theorem witness_steals_clause3 :
    let s : State := (cl 4 (fun x => { x with live := false }) b0)
    let a : Nat := 4
    let A := cellAt s a
    let idle := setSteal s a .idle
    A.steal = .idle ∧ mayStealNow s a = false := by
  decide +kernel

/-- The hypotheses of Selection hold together: clause 3. -/
theorem witness_selection_clause3 :
    let s : State := c8
    let u : State := (tailU c8 0)
    let c : Nat := 0
    let k : Fin 4 := 0
    let f : Frame := (tf c8 1)
    let l : List Frame := [tf c8 0]
    let x := ccAt s c
    let n := min 32 x.ringCount
    let tail := ringLines s c false (x.ringCount - n) n
    (cellAt s c).live = true ∧ (cellAt s c).closed = false ∧ (slotAt s c k).run = .free ∧
       ((∀ j, j < k → (slotAt s c j).run ≠ .free)) ∧ x.hod = [] ∧ x.ringCount ≠ 0 ∧ tail = .ok u ∧
        ((List.range n).map (fun i => physFrame u (physOf s c / 256) (ringAddr x ((x.ringHead + (x.ringCount - n) + i) % ringCap x))) = l ++ [f]) := by
  decide +kernel

/-- The hypotheses of Selection hold together: clause 5. -/
theorem witness_selection_clause5 :
    let s : State := c9
    let w : State := (tailU c9 0)
    let c : Nat := 0
    let k : Fin 4 := 0
    let x := ccAt s c
    let n := min 32 x.ringCount
    let tail := ringLines s c false (x.ringCount - n) n
    (cellAt s c).live = true ∧ (cellAt s c).closed = false ∧ (slotAt s c k).run = .free ∧
       ((∀ j, j < k → (slotAt s c j).run ≠ .free)) ∧ x.hod = [] ∧ x.ringCount ≠ 0 ∧ tail = .error w := by
  decide +kernel

end Sched

namespace Frames

def scr (f : Scrim → Scrim) (s : State) : State := { s with scrim := f s.scrim }
def po (r : Nat) (ch : ScrimChild) (k : AccessKind) (w : Option Nat) (b : Nat) : PostMsg := ⟨r, ch, 5, 2, k, w, b, 0x85⟩
def en (k : BitVec 3) (c : List ScrimChild) : ScrimEntry := ⟨5, 2, k, c⟩
def ag : ScrimChild := .agent (.slot 0 0)
def fp (s : State) : State := upS (fun x => { x with stall := .fpost false }) s
def many : List ScrimEntry := (List.range 64).map (fun i => ⟨6, BitVec.ofNat 39 i, 1, []⟩)
def wk1 : WakeMsg := ⟨34, 5, 2, true, none, none⟩
def z1 : AgentWake := ⟨.slot 0 0, 5, 2, true⟩

/-- The hypotheses of PostsAndWakes hold together. -/
theorem witness_postsAndWakes :
    (let s : State := (fp (scr (fun x => { x with posts := [po 0 ag .exec none 32], routers := [(0, [en 1 [.cluster 3]])] }) st))
    let i : Nat := 0
    let m : PostMsg := (po 0 ag .exec none 32)
    let e : ScrimEntry := (en 1 [.cluster 3])
    let l := tabGet [] s.scrim.routers m.router
    let key (x : ScrimEntry) : Prop := x.ctxid = m.ctxid ∧ x.page = m.page
    let root : Prop := m.router % 33 = 32
    let bit : BitVec 3 := (match m.kind with
      | .read => 1
      | .write => 2
      | .exec => 4)
    let posts := s.scrim.posts.eraseIdx i
    s.scrim.posts[i]? = some m ∧ m.wait = none ∧ (l.find? (fun x => key x) = some e) ∧ e.kinds &&& bit = 0 ∧ ¬root ∧ l = [e]) ∧
   (let s : State := (fp (scr (fun x => { x with posts := [po 0 ag .write (some 0) 32], routers := [(0, many)] }) st))
    let i : Nat := 0
    let m : PostMsg := (po 0 ag .write (some 0) 32)
    let posts := s.scrim.posts.eraseIdx i
    s.scrim.posts[i]? = some m ∧ m.wait = some 0) ∧
   (let s : State := (fp (scr (fun x => { x with posts := [po 0 ag .write none 32], routers := [(0, many)] }) st))
    let i : Nat := 0
    let m : PostMsg := (po 0 ag .write none 32)
    let l := tabGet [] s.scrim.routers m.router
    let key (x : ScrimEntry) : Prop := x.ctxid = m.ctxid ∧ x.page = m.page
    let posts := s.scrim.posts.eraseIdx i
    s.scrim.posts[i]? = some m ∧ m.wait = none ∧ ((∀ x ∈ l, ¬key x)) ∧ 64 ≤ l.length) ∧
   (let s : State := (fp (scr (fun x => { x with posts := [po 0 ag .write none 32], routers := [(1, [en 1 [ag]])] }) st))
    let i : Nat := 0
    let m : PostMsg := (po 0 ag .write none 32)
    let l := tabGet [] s.scrim.routers m.router
    let key (x : ScrimEntry) : Prop := x.ctxid = m.ctxid ∧ x.page = m.page
    let root : Prop := m.router % 33 = 32
    let posts := s.scrim.posts.eraseIdx i
    s.scrim.posts[i]? = some m ∧ m.wait = none ∧ ((∀ x ∈ l, ¬key x)) ∧ l.length < 64 ∧ ¬root) ∧
   (let s : State :=
        (fp (scr (fun x => { x with posts := [po 3 (.cluster 2) .read none 32, po 0 ag .write none 32], routers := [(0, [en 2 [ag]])] }) st))
    let i : Nat := 1
    let m : PostMsg := (po 0 ag .write none 32)
    let e : ScrimEntry := (en 2 [ag])
    let l := tabGet [] s.scrim.routers m.router
    let key (x : ScrimEntry) : Prop := x.ctxid = m.ctxid ∧ x.page = m.page
    let root : Prop := m.router % 33 = 32
    let bit : BitVec 3 := (match m.kind with
      | .read => 1
      | .write => 2
      | .exec => 4)
    let posts := s.scrim.posts.eraseIdx i
    s.scrim.posts[i]? = some m ∧ m.wait = none ∧ (l.find? (fun x => key x) = some e) ∧ (e.kinds &&& bit ≠ 0 ∨ root)) ∧
   (let s : State :=
        (fp (scr (fun x => { x with posts := [po 65 (.cluster 3) .write none 32, po 0 ag .write none 32], routers := [(1, [en 1 [ag]])] }) st))
    let i : Nat := 0
    let m : PostMsg := (po 65 (.cluster 3) .write none 32)
    let l := tabGet [] s.scrim.routers m.router
    let key (x : ScrimEntry) : Prop := x.ctxid = m.ctxid ∧ x.page = m.page
    let root : Prop := m.router % 33 = 32
    let posts := s.scrim.posts.eraseIdx i
    s.scrim.posts[i]? = some m ∧ m.wait = none ∧ ((∀ x ∈ l, ¬key x)) ∧ l.length < 64 ∧ root) ∧
   (let s : State :=
        (fp (scr (fun x => { x with wakes := [wk1], routers := [(34, ⟨5, 1, 1, []⟩ :: en 1 [ag, .agent (.cch 0 1), .agent (.tfu 3)] :: [])] }) st))
    let i : Nat := 0
    let w : WakeMsg := wk1
    let k := tabGet [] s.scrim.routers w.router
    let cs : List ScrimChild := [.agent (.slot 0 0), .agent (.cch 0 1), .agent (.tfu 3)]
    s.scrim.wakes[i]? = some w ∧ arrived s w.via = true ∧ (((k.find? (fun x => x.ctxid = w.ctxid ∧
      x.page = w.page)).map (fun x => x.children)).getD [] = cs)) ∧
   (let s : State := (fp (scr (fun x => { x with wakes := [{ wk1 with via := some (1, 0) }], routers := [(34, en 1 [ag] :: [])] }) st))
    let i : Nat := 0
    let w : WakeMsg := { wk1 with via := some (1, 0) }
    s.scrim.wakes[i]? = some w ∧ arrived s w.via = false) ∧
   (let s : State := (pd (some false) (scr (fun x => { x with out := [z1] }) st))
    let i : Nat := 0
    let z : AgentWake := z1
    s.scrim.out[i]? = some z) := by
  refine ⟨?_, ?_, ?_, ?_, ?_, ?_, ?_, ?_, ?_⟩ <;> decide +kernel

end Frames

namespace Slices

def lc (st : Moesi) (n : Byte) : LineCopy := ⟨st, n, 3, 1⟩
def coh (f : Coh → Coh) (s : State) : State := { s with coh := f s.coh }
def base : State := { st with slots := [] }
def L := 0x2000
def l1s (p : Nat) (m : Moesi) (n : Byte) := coh (fun c => { c with l1 := tabSet c.l1 (2^40 * p + L) (lc m n) })
def vis (p : Nat) (m : Moesi) (n : Byte) := coh (fun c => { c with vic := tabSet c.vic (2^40 * p + L) (lc m n) })
def ds (d : Nat) (e : DirEntry) := coh (fun c => { c with dirs := tabSet c.dirs (2^40 * d + L) e })
def de (q : Byte) (m : Moesi) (cv : Bool) (o : Nat) (l : List Nat) (v : BitVec 32) (lv : Moesi) (hst : Byte) (g : Bool) : DirEntry :=
  ⟨q, m, cv, o, l, v, lv, hst, if g then 15 else 0⟩
def tx (l : List Txn) := coh (fun c => { c with txns := l })
def rq (st : Site) (p : Nat) (k : CohKind) : CohReq := ⟨st, p, L, k⟩
def fz (d : Fin 4) (s : State) : State :=
  { s with dies := { s.dies with tables := s.dies.tables.set d { s.dies.tables[d] with freeze := 0xFFF } } }
def pm (m : Site) (t : Nat) (lv : Moesi) (st : Byte) : ProbeMsg := ⟨m, L, t, if lv = .i then .getm else .gets, st, none⟩
def pb (l : List ProbeMsg) := coh (fun c => { c with probes := l })
def cq (l : List CohReq) := coh (fun c => { c with conflicts := l })
def noShare (p : Nat) (s : State) : State := putCell s p { cellAt s p with cc := { (cellAt s p).cc with scarve := 8 } }
def e0 (l : Moesi) := de 5 .i false 0 [] 0 l 7 false
def askd (p : Nat) := coh (fun c => { c with retries := [⟨⟨.slice 0, p, L, .gets⟩, 4, 16⟩] })
def full (s : State) : State := coh (fun c => { c with txns := (List.range 16).map (fun i => ⟨⟨.slice 0, 9, L + 1 + i, .gets⟩, 0, 0⟩) }) s
def hold (s : State) : State := { s with dies := { s.dies with handovers := [⟨0, 0, 1, 1, false, none⟩] } }

/-- The hypotheses of SliceRequests hold together. -/
theorem witness_sliceRequests :
    (let s : State := (askd 3 (l1s 3 .e 3 base))
    let d : Fin 4 := 0
    let p : Nat := 3
    let line : Nat := L
    let a : Site := .slice d
    let c := s.coh
    let e := dirGet c d.val line
    let x := l1Get c p line
    let r (k : CohKind) : CohReq := ⟨a, p, line, k⟩
    let locked : Prop := ∃ t ∈ c.txns, t.req.site = a ∧ t.req.line = line
    let there : Prop := p < 1024 ∧ p ∉ s.plat.absentCells ∧ p / 256 = d.val ∧ s.dies.health[d].reported = false
    let quiet : Prop := c.wayWait = [] ∧ ∀ y ∈ c.conflicts, ∃ t ∈ c.txns, t.req.site = y.site ∧ t.req.line = y.line
    let alone : Prop := shareOf s p line = none
    let Dir (u : Coh) (y : DirEntry) : Prop := dirGet u d.val line = y ∧
      ∀ z n, n < 2 ^ 40 → ¬(z = d.val ∧ n = line) → dirGet u z n = dirGet c z n
    let probes (k : CohKind) (l : List Nat) (u : Coh) : Prop :=
      u.txns = c.txns ++ [⟨r k, l.length, 0⟩] ∧ Dir u { e with seq := e.seq + 1 } ∧
      u.probes = c.probes ++ l.map (fun z => ⟨a, line, agentAt d.val z, k, e.seq + 1, none⟩) ∧
      { u with txns := c.txns, probes := c.probes, dirs := c.dirs } = c
    let crosses : Prop := ∃ m ∈ c.probes, m.site = a ∧ m.line = line ∧ m.target = p
    there ∧ memExists s (line * 128) = true ∧ quiet ∧ x.st ≠ .i ∧ (x.st = .m ∨ x.st = .e) ∧ (x.st = .e ∨ x.st = .s) ∧ ¬locked ∧
      ¬crosses ∧ alone ∧ (shareHeld c p).length < shareLines s p) ∧
   (let s : State := (ds 0 (de 255 .s false 0 [4, 5, 6, 70] 0 .m 1 false) (l1s 4 .s 3 base))
    let d : Fin 4 := 0
    let p : Nat := 3
    let line : Nat := L
    let a : Site := .slice d
    let c := s.coh
    let e := dirGet c d.val line
    let x := l1Get c p line
    let q := p % 256
    let locked : Prop := ∃ t ∈ c.txns, t.req.site = a ∧ t.req.line = line
    let there : Prop := p < 1024 ∧ p ∉ s.plat.absentCells ∧ p / 256 = d.val ∧ s.dies.health[d].reported = false
    let quiet : Prop := c.wayWait = [] ∧ ∀ y ∈ c.conflicts, ∃ t ∈ c.txns, t.req.site = y.site ∧ t.req.line = y.line
    let ready : Prop := line ∉ askedLines s p ∧ l1Room s p line = some s
    let alone : Prop := shareOf s p line = none
    let others := ((holders s d.val e).filter (fun z => z ≠ q)).eraseDups
    there ∧ memExists s (line * 128) = true ∧ quiet ∧ x.st = .i ∧ ready ∧ alone ∧ ¬locked ∧ e.lvl ≠ .i ∧ e.st = .s ∧ x.st ≠ .m ∧
      x.st ≠ .e ∧ (x.st ≠ .i ∨ alone) ∧ (e.lvl = .m ∨ e.lvl = .e) ∧ others ≠ []) ∧
   (let s : State := (ds 0 (e0 .e) base)
    let d : Fin 4 := 0
    let p : Nat := 3
    let line : Nat := L
    let a : Site := .slice d
    let c := s.coh
    let e := dirGet c d.val line
    let x := l1Get c p line
    let q := p % 256
    let locked : Prop := ∃ t ∈ c.txns, t.req.site = a ∧ t.req.line = line
    let there : Prop := p < 1024 ∧ p ∉ s.plat.absentCells ∧ p / 256 = d.val ∧ s.dies.health[d].reported = false
    let quiet : Prop := c.wayWait = [] ∧ ∀ y ∈ c.conflicts, ∃ t ∈ c.txns, t.req.site = y.site ∧ t.req.line = y.line
    let ready : Prop := line ∉ askedLines s p ∧ l1Room s p line = some s
    let alone : Prop := shareOf s p line = none
    let others := ((holders s d.val e).filter (fun z => z ≠ q)).eraseDups
    there ∧ memExists s (line * 128) = true ∧ quiet ∧ x.st = .i ∧ ready ∧ alone ∧ ¬locked ∧ e.lvl ≠ .i ∧ e.st = .i ∧ x.st ≠ .m ∧
      x.st ≠ .e ∧ (x.st ≠ .i ∨ alone) ∧ (e.lvl = .m ∨ e.lvl = .e) ∧ others = []) ∧
   (let s : State := (tx [⟨rq (.slice 0) 7 .getm, 1, 0⟩] (cq (List.replicate 16 (rq (.slice 0) 8 .gets)) (l1s 3 .s 3 base)))
    let d : Fin 4 := 0
    let p : Nat := 3
    let line : Nat := L
    let a : Site := .slice d
    let c := s.coh
    let e := dirGet c d.val line
    let x := l1Get c p line
    let r (k : CohKind) : CohReq := ⟨a, p, line, k⟩
    let locked : Prop := ∃ t ∈ c.txns, t.req.site = a ∧ t.req.line = line
    let there : Prop := p < 1024 ∧ p ∉ s.plat.absentCells ∧ p / 256 = d.val ∧ s.dies.health[d].reported = false
    let quiet : Prop := c.wayWait = [] ∧ ∀ y ∈ c.conflicts, ∃ t ∈ c.txns, t.req.site = y.site ∧ t.req.line = y.line
    let ready : Prop := line ∉ askedLines s p ∧ l1Room s p line = some s
    let alone : Prop := shareOf s p line = none
    let Dir (u : Coh) (y : DirEntry) : Prop := dirGet u d.val line = y ∧
      ∀ z n, n < 2 ^ 40 → ¬(z = d.val ∧ n = line) → dirGet u z n = dirGet c z n
    let probes (k : CohKind) (l : List Nat) (u : Coh) : Prop :=
      u.txns = c.txns ++ [⟨r k, l.length, 0⟩] ∧ Dir u { e with seq := e.seq + 1 } ∧
      u.probes = c.probes ++ l.map (fun z => ⟨a, line, agentAt d.val z, k, e.seq + 1, none⟩) ∧
      { u with txns := c.txns, probes := c.probes, dirs := c.dirs } = c
    let crosses : Prop := ∃ m ∈ c.probes, m.site = a ∧ m.line = line ∧ m.target = p
    there ∧ memExists s (line * 128) = true ∧ quiet ∧ x.st ≠ .m ∧ x.st ≠ .e ∧ ready ∧ (x.st ≠ .i ∨ alone) ∧ locked ∧ x.st ≠ .i ∧ ¬crosses) ∧
   (let s : State := (askd 3 (vis 3 .s 6 base))
    let d : Fin 4 := 0
    let p : Nat := 3
    let line : Nat := L
    let c := s.coh
    let x := l1Get c p line
    let there : Prop := p < 1024 ∧ p ∉ s.plat.absentCells ∧ p / 256 = d.val ∧ s.dies.health[d].reported = false
    let quiet : Prop := c.wayWait = [] ∧ ∀ y ∈ c.conflicts, ∃ t ∈ c.txns, t.req.site = y.site ∧ t.req.line = y.line
    there ∧ memExists s (line * 128) = true ∧ quiet ∧ x.st = .i ∧ line ∈ askedLines s p) ∧
   (let s : State := (ds 0 (de 5 .e false 4 [] 0 .e 1 false) (l1s 4 .e 3 base))
    let d : Fin 4 := 0
    let p : Nat := 3
    let line : Nat := L
    let a : Site := .slice d
    let c := s.coh
    let e := dirGet c d.val line
    let x := l1Get c p line
    let q := p % 256
    let locked : Prop := ∃ t ∈ c.txns, t.req.site = a ∧ t.req.line = line
    let there : Prop := p < 1024 ∧ p ∉ s.plat.absentCells ∧ p / 256 = d.val ∧ s.dies.health[d].reported = false
    let quiet : Prop := c.wayWait = [] ∧ ∀ y ∈ c.conflicts, ∃ t ∈ c.txns, t.req.site = y.site ∧ t.req.line = y.line
    let ready : Prop := line ∉ askedLines s p ∧ l1Room s p line = some s
    let alone : Prop := shareOf s p line = none
    there ∧ memExists s (line * 128) = true ∧ quiet ∧ x.st = .i ∧ ready ∧ alone ∧ ¬locked ∧ e.lvl ≠ .i ∧ (e.st = .e ∨ e.st = .o ∨
      e.st = .m) ∧ e.owner ≠ q) ∧
   (let s : State := (ds 0 (de 5 .m false 3 [] 0 .m 1 false) (l1s 3 .m 3 base))
    let d : Fin 4 := 0
    let p : Nat := 3
    let line : Nat := L
    let a : Site := .slice d
    let c := s.coh
    let e := dirGet c d.val line
    let x := l1Get c p line
    let r (k : CohKind) : CohReq := ⟨a, p, line, k⟩
    let locked : Prop := ∃ t ∈ c.txns, t.req.site = a ∧ t.req.line = line
    let there : Prop := p < 1024 ∧ p ∉ s.plat.absentCells ∧ p / 256 = d.val ∧ s.dies.health[d].reported = false
    let quiet : Prop := c.wayWait = [] ∧ ∀ y ∈ c.conflicts, ∃ t ∈ c.txns, t.req.site = y.site ∧ t.req.line = y.line
    let Dir (u : Coh) (y : DirEntry) : Prop := dirGet u d.val line = y ∧
      ∀ z n, n < 2 ^ 40 → ¬(z = d.val ∧ n = line) → dirGet u z n = dirGet c z n
    let probes (k : CohKind) (l : List Nat) (u : Coh) : Prop :=
      u.txns = c.txns ++ [⟨r k, l.length, 0⟩] ∧ Dir u { e with seq := e.seq + 1 } ∧
      u.probes = c.probes ++ l.map (fun z => ⟨a, line, agentAt d.val z, k, e.seq + 1, none⟩) ∧
      { u with txns := c.txns, probes := c.probes, dirs := c.dirs } = c
    let crosses : Prop := ∃ m ∈ c.probes, m.site = a ∧ m.line = line ∧ m.target = p
    there ∧ memExists s (line * 128) = true ∧ quiet ∧ (x.st = .m ∨ x.st = .o) ∧ ¬locked ∧ ¬crosses) ∧
   (let s : State := (fz 0 base)
    let d : Fin 4 := 0
    let p : Nat := 3
    let line : Nat := L
    let a : Site := .slice d
    let c := s.coh
    let e := dirGet c d.val line
    let x := l1Get c p line
    let locked : Prop := ∃ t ∈ c.txns, t.req.site = a ∧ t.req.line = line
    let there : Prop := p < 1024 ∧ p ∉ s.plat.absentCells ∧ p / 256 = d.val ∧ s.dies.health[d].reported = false
    let quiet : Prop := c.wayWait = [] ∧ ∀ y ∈ c.conflicts, ∃ t ∈ c.txns, t.req.site = y.site ∧ t.req.line = y.line
    let ready : Prop := line ∉ askedLines s p ∧ l1Room s p line = some s
    let alone : Prop := shareOf s p line = none
    there ∧ memExists s (line * 128) = true ∧ quiet ∧ x.st = .i ∧ ready ∧ alone ∧ ¬locked ∧ e.lvl = .i ∧
      l2Room s d.val line = some s ∧ lineHeld s d.val line = true) ∧
   (let s : State := (noShare 3 (ds 0 (de 5 .e false 3 [] 0 .e 1 false) (l1s 3 .e 3 base)))
    let d : Fin 4 := 0
    let p : Nat := 3
    let line : Nat := L
    let a : Site := .slice d
    let c := s.coh
    let e := dirGet c d.val line
    let x := l1Get c p line
    let r (k : CohKind) : CohReq := ⟨a, p, line, k⟩
    let locked : Prop := ∃ t ∈ c.txns, t.req.site = a ∧ t.req.line = line
    let there : Prop := p < 1024 ∧ p ∉ s.plat.absentCells ∧ p / 256 = d.val ∧ s.dies.health[d].reported = false
    let quiet : Prop := c.wayWait = [] ∧ ∀ y ∈ c.conflicts, ∃ t ∈ c.txns, t.req.site = y.site ∧ t.req.line = y.line
    let Dir (u : Coh) (y : DirEntry) : Prop := dirGet u d.val line = y ∧
      ∀ z n, n < 2 ^ 40 → ¬(z = d.val ∧ n = line) → dirGet u z n = dirGet c z n
    let probes (k : CohKind) (l : List Nat) (u : Coh) : Prop :=
      u.txns = c.txns ++ [⟨r k, l.length, 0⟩] ∧ Dir u { e with seq := e.seq + 1 } ∧
      u.probes = c.probes ++ l.map (fun z => ⟨a, line, agentAt d.val z, k, e.seq + 1, none⟩) ∧
      { u with txns := c.txns, probes := c.probes, dirs := c.dirs } = c
    let crosses : Prop := ∃ m ∈ c.probes, m.site = a ∧ m.line = line ∧ m.target = p
    there ∧ memExists s (line * 128) = true ∧ quiet ∧ (x.st = .e ∨ x.st = .s) ∧ ¬locked ∧ ¬crosses ∧ shareLines s p = 0) ∧
   (let s : State := (tx [⟨rq (.slice 0) 7 .getm, 1,
        0⟩] (pb [pm (.slice 0) 3 .i 5] (ds 0 (de 5 .e false 3 [] 0 .e 1 false) (l1s 3 .e 3 base))))
    let d : Fin 4 := 0
    let p : Nat := 3
    let line : Nat := L
    let a : Site := .slice d
    let c := s.coh
    let e := dirGet c d.val line
    let x := l1Get c p line
    let r (k : CohKind) : CohReq := ⟨a, p, line, k⟩
    let there : Prop := p < 1024 ∧ p ∉ s.plat.absentCells ∧ p / 256 = d.val ∧ s.dies.health[d].reported = false
    let quiet : Prop := c.wayWait = [] ∧ ∀ y ∈ c.conflicts, ∃ t ∈ c.txns, t.req.site = y.site ∧ t.req.line = y.line
    let Dir (u : Coh) (y : DirEntry) : Prop := dirGet u d.val line = y ∧
      ∀ z n, n < 2 ^ 40 → ¬(z = d.val ∧ n = line) → dirGet u z n = dirGet c z n
    let probes (k : CohKind) (l : List Nat) (u : Coh) : Prop :=
      u.txns = c.txns ++ [⟨r k, l.length, 0⟩] ∧ Dir u { e with seq := e.seq + 1 } ∧
      u.probes = c.probes ++ l.map (fun z => ⟨a, line, agentAt d.val z, k, e.seq + 1, none⟩) ∧
      { u with txns := c.txns, probes := c.probes, dirs := c.dirs } = c
    let crosses : Prop := ∃ m ∈ c.probes, m.site = a ∧ m.line = line ∧ m.target = p
    there ∧ memExists s (line * 128) = true ∧ quiet ∧ x.st ≠ .i ∧ crosses) ∧
   (let s : State := (tx [⟨rq (.slice 0) 7 .gets, 1,
        0⟩] (coh (fun c => { c with conflicts := List.replicate 16 (rq (.slice 0) 8 .gets)}) base))
    let d : Fin 4 := 0
    let p : Nat := 3
    let line : Nat := L
    let a : Site := .slice d
    let c := s.coh
    let x := l1Get c p line
    let locked : Prop := ∃ t ∈ c.txns, t.req.site = a ∧ t.req.line = line
    let there : Prop := p < 1024 ∧ p ∉ s.plat.absentCells ∧ p / 256 = d.val ∧ s.dies.health[d].reported = false
    let quiet : Prop := c.wayWait = [] ∧ ∀ y ∈ c.conflicts, ∃ t ∈ c.txns, t.req.site = y.site ∧ t.req.line = y.line
    let ready : Prop := line ∉ askedLines s p ∧ l1Room s p line = some s
    let alone : Prop := shareOf s p line = none
    there ∧ memExists s (line * 128) = true ∧ quiet ∧ x.st = .i ∧ ready ∧ alone ∧ locked) ∧
   (let s : State := (vis 3 .e 6 (l1s 5 .s 2 base))
    let d : Fin 4 := 0
    let p : Nat := 3
    let line : Nat := L
    let c := s.coh
    let x := l1Get c p line
    let there : Prop := p < 1024 ∧ p ∉ s.plat.absentCells ∧ p / 256 = d.val ∧ s.dies.health[d].reported = false
    let quiet : Prop := c.wayWait = [] ∧ ∀ y ∈ c.conflicts, ∃ t ∈ c.txns, t.req.site = y.site ∧ t.req.line = y.line
    let ready : Prop := line ∉ askedLines s p ∧ l1Room s p line = some s
    there ∧ memExists s (line * 128) = true ∧ quiet ∧ x.st = .i ∧ ready ∧ isPooled s p = false ∧ (vicGet c p line).st ≠ .i) ∧
   (let s : State := (vis 3 .s 5 (ds 0 (de 5 .s false 0 [3] 0 .m 1 false) (l1s 3 .s 3 base)))
    let d : Fin 4 := 0
    let p : Nat := 3
    let line : Nat := L
    let a : Site := .slice d
    let c := s.coh
    let e := dirGet c d.val line
    let x := l1Get c p line
    let r (k : CohKind) : CohReq := ⟨a, p, line, k⟩
    let locked : Prop := ∃ t ∈ c.txns, t.req.site = a ∧ t.req.line = line
    let there : Prop := p < 1024 ∧ p ∉ s.plat.absentCells ∧ p / 256 = d.val ∧ s.dies.health[d].reported = false
    let quiet : Prop := c.wayWait = [] ∧ ∀ y ∈ c.conflicts, ∃ t ∈ c.txns, t.req.site = y.site ∧ t.req.line = y.line
    let alone : Prop := shareOf s p line = none
    let Dir (u : Coh) (y : DirEntry) : Prop := dirGet u d.val line = y ∧
      ∀ z n, n < 2 ^ 40 → ¬(z = d.val ∧ n = line) → dirGet u z n = dirGet c z n
    let probes (k : CohKind) (l : List Nat) (u : Coh) : Prop :=
      u.txns = c.txns ++ [⟨r k, l.length, 0⟩] ∧ Dir u { e with seq := e.seq + 1 } ∧
      u.probes = c.probes ++ l.map (fun z => ⟨a, line, agentAt d.val z, k, e.seq + 1, none⟩) ∧
      { u with txns := c.txns, probes := c.probes, dirs := c.dirs } = c
    let crosses : Prop := ∃ m ∈ c.probes, m.site = a ∧ m.line = line ∧ m.target = p
    there ∧ memExists s (line * 128) = true ∧ quiet ∧ (x.st = .e ∨ x.st = .s) ∧ ¬locked ∧ ¬crosses ∧ shareLines s p ≠ 0 ∧ ¬alone) ∧
   (let s : State := base
    let d : Fin 4 := 0
    let p : Nat := 3
    let line : Nat := L
    let a : Site := .slice d
    let c := s.coh
    let e := dirGet c d.val line
    let h := homeGet c line
    let x := l1Get c p line
    let home := homeDie s d.val line
    let locked : Prop := ∃ t ∈ c.txns, t.req.site = a ∧ t.req.line = line
    let there : Prop := p < 1024 ∧ p ∉ s.plat.absentCells ∧ p / 256 = d.val ∧ s.dies.health[d].reported = false
    let quiet : Prop := c.wayWait = [] ∧ ∀ y ∈ c.conflicts, ∃ t ∈ c.txns, t.req.site = y.site ∧ t.req.line = y.line
    let ready : Prop := line ∉ askedLines s p ∧ l1Room s p line = some s
    let alone : Prop := shareOf s p line = none
    there ∧ memExists s (line * 128) = true ∧ quiet ∧ x.st = .i ∧ ready ∧ alone ∧ ¬locked ∧ e.lvl = .i ∧
      l2Room s d.val line = some s ∧ lineHeld s d.val line = false ∧ home = d.val ∧ trueHome s line = d.val ∧ c.reqs = [] ∧
      s.dies.handovers = [] ∧ siteLocked s .home line = false ∧ homeRoom s line = true ∧ h.st = .i ∧ e.st = .i) ∧
   (let s : State := base
    let d : Fin 4 := 1
    let p : Nat := 259
    let line : Nat := 0x20002000
    let a : Site := .slice d
    let c := s.coh
    let e := dirGet c d.val line
    let x := l1Get c p line
    let home := homeDie s d.val line
    let locked : Prop := ∃ t ∈ c.txns, t.req.site = a ∧ t.req.line = line
    let there : Prop := p < 1024 ∧ p ∉ s.plat.absentCells ∧ p / 256 = d.val ∧ s.dies.health[d].reported = false
    let quiet : Prop := c.wayWait = [] ∧ ∀ y ∈ c.conflicts, ∃ t ∈ c.txns, t.req.site = y.site ∧ t.req.line = y.line
    let ready : Prop := line ∉ askedLines s p ∧ l1Room s p line = some s
    let alone : Prop := shareOf s p line = none
    there ∧ memExists s (line * 128) = true ∧ quiet ∧ x.st = .i ∧ ready ∧ alone ∧ ¬locked ∧ e.lvl = .i ∧
      l2Room s d.val line = some s ∧ lineHeld s d.val line = false ∧ home ≠ d.val) := by
  refine ⟨?_, ?_, ?_, ?_, ?_, ?_, ?_, ?_, ?_, ?_, ?_, ?_, ?_, ?_, ?_⟩
  · decide +kernel
  · decide +kernel
  · decide +kernel
  · decide +kernel
  · decide +kernel
  · decide +kernel
  · decide +kernel
  · decide +kernel
  · decide +kernel
  · decide +kernel
  · decide +kernel
  · decide +kernel
  · decide +kernel
  · decide +kernel
  · decide +kernel

/-- The hypotheses of SliceRequests hold together: clause 7. -/
theorem witness_sliceRequests_clause7 (hash : ∀ x, Config.lineHash x = 0):
    let s : State := (full base)
    let d : Fin 4 := 0
    let p : Nat := 3
    let line : Nat := L
    let a : Site := .slice d
    let c := s.coh
    let e := dirGet c d.val line
    let x := l1Get c p line
    let locked : Prop := ∃ t ∈ c.txns, t.req.site = a ∧ t.req.line = line
    let there : Prop := p < 1024 ∧ p ∉ s.plat.absentCells ∧ p / 256 = d.val ∧ s.dies.health[d].reported = false
    let quiet : Prop := c.wayWait = [] ∧ ∀ y ∈ c.conflicts, ∃ t ∈ c.txns, t.req.site = y.site ∧ t.req.line = y.line
    let ready : Prop := line ∉ askedLines s p ∧ l1Room s p line = some s
    let alone : Prop := shareOf s p line = none
    there ∧ memExists s (line * 128) = true ∧ quiet ∧ x.st = .i ∧ ready ∧ alone ∧ ¬locked ∧ e.lvl = .i ∧ l2Room s d.val line = none := by
  refine ⟨by decide +kernel, by decide +kernel, by decide +kernel, by decide +kernel, by decide +kernel, by decide +kernel,
    by decide +kernel, ?_⟩
  simp only [l2Room, l2Rivals, l2Ways, way15Taken, l2Set, sliceOf, hash]
  decide +kernel

end Slices

namespace Homes

def lc (st : Moesi) (n : Byte) : LineCopy := ⟨st, n, 3, 1⟩
def coh (f : Coh → Coh) (s : State) : State := { s with coh := f s.coh }
def base : State := { st with slots := [] }
def L := 0x2000
def l1s (p : Nat) (m : Moesi) (n : Byte) := coh (fun c => { c with l1 := tabSet c.l1 (2^40 * p + L) (lc m n) })
def vis (p : Nat) (m : Moesi) (n : Byte) := coh (fun c => { c with vic := tabSet c.vic (2^40 * p + L) (lc m n) })
def ds (d : Nat) (e : DirEntry) := coh (fun c => { c with dirs := tabSet c.dirs (2^40 * d + L) e })
def hs (h : HomeEntry) := coh (fun c => { c with homes := tabSet c.homes L h })
def hsn (n : Nat) (h : HomeEntry) := coh (fun c => { c with homes := tabSet c.homes n h })
def de (q : Byte) (m : Moesi) (cv : Bool) (o : Nat) (l : List Nat) (v : BitVec 32) (lv : Moesi) (hst : Byte) (g : Bool) : DirEntry :=
  ⟨q, m, cv, o, l, v, lv, hst, if g then 15 else 0⟩
def he (q : Byte) (m : Moesi) (p : BitVec 4) (o : BitVec 2) : HomeEntry := ⟨q, m, p, o⟩
def tx (l : List Txn) := coh (fun c => { c with txns := l })
def fz (d : Fin 4) (s : State) : State :=
  { s with dies := { s.dies with tables := s.dies.tables.set d { s.dies.tables[d] with freeze := 0xFFF } } }
def ac (s : State) : State := { s with dies := { s.dies with active := Vector.replicate 12 3 } }
def msgR (k : CohKind) (v : Transit) (inc : Byte) : ReqMsg := ⟨⟨.home, 2, L, k⟩, inc, 32, v⟩
def rs (l : List ReqMsg) := coh (fun c => { c with reqs := l })
def fullH (s : State) : State := (List.range 16).foldl (fun s i => hsn (L + 1 + i) (he 3 .e 5 2) s) s
def x0 (w b : Nat) (d : Nat) : Retry := ⟨⟨.home, d, L, .gets⟩, w, b⟩
def no (l : List Retry) := coh (fun c => { c with notowner := l })
def gg := msgR .gets none 0
def gm := msgR .getm none 0
def gp := msgR .put none 0
def H (d : Nat) (k : CohKind) : ReqMsg := ⟨⟨.home, d, L, k⟩, 0, 32, none⟩
def both (m : ReqMsg) (h : HomeEntry) (s : State) : State := rs [m] (hs h s)
def dd (d : Nat) (l : Moesi) (g : Bool) (s : State) : State :=
  ds d (de 5 .m false 3 [] 0 l 3 g) (l1s (256 * d + 3) .m 3 (vis (256 * d + 4) .s 3 s))

/-- The hypotheses of HomeRequests hold together. -/
theorem witness_homeRequests :
    (let s : State := (both (H 0 .getm) (he 4 .s 1 0) base)
    let d : Fin 4 := 0
    let line : Nat := L
    let i : Nat := 0
    let m : ReqMsg := (H 0 .getm)
    let ms : List ReqMsg := []
    let ns : List ReqMsg := []
    let c := s.coh
    let h := homeGet c line
    let e := dirGet c d.val line
    let r (k : CohKind) : CohReq := ⟨.home, d.val, line, k⟩
    let home := trueHome s line
    let up : Prop := s.dies.health[d].reported = false
    let turn (v : Transit) : Prop := (∀ q ∈ c.reqs, sentBefore q.via v = false) ∧ ∀ q ∈ c.answers, sentBefore q.via v = false
    let came (k : CohKind) : Prop := c.reqs = ms ++ m :: ns ∧ m.req = r k ∧ arrived s m.via = true ∧ turn m.via ∧
      ∀ q ∈ ms, ¬(q.req = r k ∧ arrived s q.via = true ∧ turn q.via)
    let locked : Prop := ∃ t ∈ c.txns, t.req.site = .home ∧ t.req.line = line
    let quiet : Prop := c.wayWait = [] ∧ ∀ y ∈ c.conflicts, ∃ t ∈ c.txns, t.req.site = y.site ∧ t.req.line = y.line
    let current (k : CohKind) : Prop := notOwner s (r k) m.inc = false
    let rest := (List.range 4).filter (fun z => h.present.getLsbD z ∧ z ≠ d.val)
    let put : Instr := .put .home d.val line
    up ∧ ((∀ q ∈ c.reqs, ¬(q.req = r .gets ∧ arrived s q.via = true ∧ turn q.via))) ∧ memExists s (line * 128) = true ∧ quiet ∧
      came .getm ∧ current .getm ∧ ¬locked ∧ homeRoom s line = true ∧ rest = [] ∧ ((∀ q ∈ c.reqs, ¬(q.req = r .put ∧
      arrived s q.via = true))) ∧ (e.lvl = .i ∨ isPinned c d.val line = true ∨ lineLocked s d.val line = true)) ∧
   (let s : State := (ac (both gg (he 3 .s 4 1) base))
    let d : Fin 4 := 2
    let line : Nat := L
    let m : ReqMsg := gg
    let ms : List ReqMsg := []
    let ns : List ReqMsg := []
    let c := s.coh
    let r (k : CohKind) : CohReq := ⟨.home, d.val, line, k⟩
    let home := trueHome s line
    let up : Prop := s.dies.health[d].reported = false
    let turn (v : Transit) : Prop := (∀ q ∈ c.reqs, sentBefore q.via v = false) ∧ ∀ q ∈ c.answers, sentBefore q.via v = false
    let came (k : CohKind) : Prop := c.reqs = ms ++ m :: ns ∧ m.req = r k ∧ arrived s m.via = true ∧ turn m.via ∧
      ∀ q ∈ ms, ¬(q.req = r k ∧ arrived s q.via = true ∧ turn q.via)
    let quiet : Prop := c.wayWait = [] ∧ ∀ y ∈ c.conflicts, ∃ t ∈ c.txns, t.req.site = y.site ∧ t.req.line = y.line
    let current (k : CohKind) : Prop := notOwner s (r k) m.inc = false
    up ∧ memExists s (line * 128) = true ∧ quiet ∧ came .gets ∧ ¬current .gets ∧ home ≠ d.val) ∧
   (let s : State := (ac (rs [H 3 .gets] base))
    let d : Fin 4 := 3
    let line : Nat := L
    let m : ReqMsg := (H 3 .gets)
    let ms : List ReqMsg := []
    let ns : List ReqMsg := []
    let c := s.coh
    let r (k : CohKind) : CohReq := ⟨.home, d.val, line, k⟩
    let home := trueHome s line
    let up : Prop := s.dies.health[d].reported = false
    let turn (v : Transit) : Prop := (∀ q ∈ c.reqs, sentBefore q.via v = false) ∧ ∀ q ∈ c.answers, sentBefore q.via v = false
    let came (k : CohKind) : Prop := c.reqs = ms ++ m :: ns ∧ m.req = r k ∧ arrived s m.via = true ∧ turn m.via ∧
      ∀ q ∈ ms, ¬(q.req = r k ∧ arrived s q.via = true ∧ turn q.via)
    let quiet : Prop := c.wayWait = [] ∧ ∀ y ∈ c.conflicts, ∃ t ∈ c.txns, t.req.site = y.site ∧ t.req.line = y.line
    let current (k : CohKind) : Prop := notOwner s (r k) m.inc = false
    up ∧ memExists s (line * 128) = true ∧ quiet ∧ came .gets ∧ ¬current .gets ∧ home = d.val) ∧
   (let s : State := (both (H 0 .gets) (he 4 .o 3 0) base)
    let d : Fin 4 := 0
    let line : Nat := L
    let m : ReqMsg := (H 0 .gets)
    let ms : List ReqMsg := []
    let ns : List ReqMsg := []
    let c := s.coh
    let h := homeGet c line
    let r (k : CohKind) : CohReq := ⟨.home, d.val, line, k⟩
    let home := trueHome s line
    let up : Prop := s.dies.health[d].reported = false
    let turn (v : Transit) : Prop := (∀ q ∈ c.reqs, sentBefore q.via v = false) ∧ ∀ q ∈ c.answers, sentBefore q.via v = false
    let came (k : CohKind) : Prop := c.reqs = ms ++ m :: ns ∧ m.req = r k ∧ arrived s m.via = true ∧ turn m.via ∧
      ∀ q ∈ ms, ¬(q.req = r k ∧ arrived s q.via = true ∧ turn q.via)
    let locked : Prop := ∃ t ∈ c.txns, t.req.site = .home ∧ t.req.line = line
    let quiet : Prop := c.wayWait = [] ∧ ∀ y ∈ c.conflicts, ∃ t ∈ c.txns, t.req.site = y.site ∧ t.req.line = y.line
    let current (k : CohKind) : Prop := notOwner s (r k) m.inc = false
    let owns : Prop := hasOwner h.st = true ∧ h.owner.toNat = d.val
    up ∧ memExists s (line * 128) = true ∧ quiet ∧ came .gets ∧ current .gets ∧ ¬locked ∧ homeRoom s line = true ∧ owns) ∧
   (let s : State := (both (H 0 .gets) (he 4 .s 2 0) base)
    let d : Fin 4 := 0
    let line : Nat := L
    let m : ReqMsg := (H 0 .gets)
    let ms : List ReqMsg := []
    let ns : List ReqMsg := []
    let c := s.coh
    let h := homeGet c line
    let r (k : CohKind) : CohReq := ⟨.home, d.val, line, k⟩
    let home := trueHome s line
    let up : Prop := s.dies.health[d].reported = false
    let turn (v : Transit) : Prop := (∀ q ∈ c.reqs, sentBefore q.via v = false) ∧ ∀ q ∈ c.answers, sentBefore q.via v = false
    let came (k : CohKind) : Prop := c.reqs = ms ++ m :: ns ∧ m.req = r k ∧ arrived s m.via = true ∧ turn m.via ∧
      ∀ q ∈ ms, ¬(q.req = r k ∧ arrived s q.via = true ∧ turn q.via)
    let locked : Prop := ∃ t ∈ c.txns, t.req.site = .home ∧ t.req.line = line
    let quiet : Prop := c.wayWait = [] ∧ ∀ y ∈ c.conflicts, ∃ t ∈ c.txns, t.req.site = y.site ∧ t.req.line = y.line
    let current (k : CohKind) : Prop := notOwner s (r k) m.inc = false
    up ∧ memExists s (line * 128) = true ∧ quiet ∧ came .gets ∧ current .gets ∧ ¬locked ∧ homeRoom s line = true ∧ h.st = .s) ∧
   (let s : State := (both (msgR .put none 1) (he 3 .m 4 2) base)
    let d : Fin 4 := 2
    let line : Nat := L
    let m : ReqMsg := (msgR .put none 1)
    let ms : List ReqMsg := []
    let ns : List ReqMsg := []
    let c := s.coh
    let r (k : CohKind) : CohReq := ⟨.home, d.val, line, k⟩
    let home := trueHome s line
    let up : Prop := s.dies.health[d].reported = false
    let turn (v : Transit) : Prop := (∀ q ∈ c.reqs, sentBefore q.via v = false) ∧ ∀ q ∈ c.answers, sentBefore q.via v = false
    let came (k : CohKind) : Prop := c.reqs = ms ++ m :: ns ∧ m.req = r k ∧ arrived s m.via = true ∧ turn m.via ∧
      ∀ q ∈ ms, ¬(q.req = r k ∧ arrived s q.via = true ∧ turn q.via)
    let quiet : Prop := c.wayWait = [] ∧ ∀ y ∈ c.conflicts, ∃ t ∈ c.txns, t.req.site = y.site ∧ t.req.line = y.line
    let current (k : CohKind) : Prop := notOwner s (r k) m.inc = false
    let put : Instr := .put .home d.val line
    up ∧ came .put ∧ ¬current .put ∧ quiet ∧ home ≠ d.val) ∧
   (let s : State := (both gg (he 3 .e 2 1) base)
    let d : Fin 4 := 2
    let line : Nat := L
    let m : ReqMsg := gg
    let ms : List ReqMsg := []
    let ns : List ReqMsg := []
    let c := s.coh
    let h := homeGet c line
    let r (k : CohKind) : CohReq := ⟨.home, d.val, line, k⟩
    let home := trueHome s line
    let up : Prop := s.dies.health[d].reported = false
    let turn (v : Transit) : Prop := (∀ q ∈ c.reqs, sentBefore q.via v = false) ∧ ∀ q ∈ c.answers, sentBefore q.via v = false
    let came (k : CohKind) : Prop := c.reqs = ms ++ m :: ns ∧ m.req = r k ∧ arrived s m.via = true ∧ turn m.via ∧
      ∀ q ∈ ms, ¬(q.req = r k ∧ arrived s q.via = true ∧ turn q.via)
    let locked : Prop := ∃ t ∈ c.txns, t.req.site = .home ∧ t.req.line = line
    let quiet : Prop := c.wayWait = [] ∧ ∀ y ∈ c.conflicts, ∃ t ∈ c.txns, t.req.site = y.site ∧ t.req.line = y.line
    let current (k : CohKind) : Prop := notOwner s (r k) m.inc = false
    let owns : Prop := hasOwner h.st = true ∧ h.owner.toNat = d.val
    up ∧ memExists s (line * 128) = true ∧ quiet ∧ came .gets ∧ current .gets ∧ ¬locked ∧ homeRoom s line = true ∧
      hasOwner h.st = true ∧ ¬owns) ∧
   (let s : State := (both gm (he 3 .o 10 1) base)
    let d : Fin 4 := 2
    let line : Nat := L
    let m : ReqMsg := gm
    let ms : List ReqMsg := []
    let ns : List ReqMsg := []
    let c := s.coh
    let h := homeGet c line
    let r (k : CohKind) : CohReq := ⟨.home, d.val, line, k⟩
    let home := trueHome s line
    let up : Prop := s.dies.health[d].reported = false
    let turn (v : Transit) : Prop := (∀ q ∈ c.reqs, sentBefore q.via v = false) ∧ ∀ q ∈ c.answers, sentBefore q.via v = false
    let came (k : CohKind) : Prop := c.reqs = ms ++ m :: ns ∧ m.req = r k ∧ arrived s m.via = true ∧ turn m.via ∧
      ∀ q ∈ ms, ¬(q.req = r k ∧ arrived s q.via = true ∧ turn q.via)
    let locked : Prop := ∃ t ∈ c.txns, t.req.site = .home ∧ t.req.line = line
    let quiet : Prop := c.wayWait = [] ∧ ∀ y ∈ c.conflicts, ∃ t ∈ c.txns, t.req.site = y.site ∧ t.req.line = y.line
    let current (k : CohKind) : Prop := notOwner s (r k) m.inc = false
    let rest := (List.range 4).filter (fun z => h.present.getLsbD z ∧ z ≠ d.val)
    up ∧ memExists s (line * 128) = true ∧ quiet ∧ came .getm ∧ current .getm ∧ ¬locked ∧ homeRoom s line = true ∧ rest ≠ []) ∧
   (let s : State := (both gp (he 3 .m 4 2) base)
    let d : Fin 4 := 2
    let line : Nat := L
    let m : ReqMsg := gp
    let ms : List ReqMsg := []
    let ns : List ReqMsg := []
    let c := s.coh
    let r (k : CohKind) : CohReq := ⟨.home, d.val, line, k⟩
    let home := trueHome s line
    let up : Prop := s.dies.health[d].reported = false
    let turn (v : Transit) : Prop := (∀ q ∈ c.reqs, sentBefore q.via v = false) ∧ ∀ q ∈ c.answers, sentBefore q.via v = false
    let came (k : CohKind) : Prop := c.reqs = ms ++ m :: ns ∧ m.req = r k ∧ arrived s m.via = true ∧ turn m.via ∧
      ∀ q ∈ ms, ¬(q.req = r k ∧ arrived s q.via = true ∧ turn q.via)
    let locked : Prop := ∃ t ∈ c.txns, t.req.site = .home ∧ t.req.line = line
    let quiet : Prop := c.wayWait = [] ∧ ∀ y ∈ c.conflicts, ∃ t ∈ c.txns, t.req.site = y.site ∧ t.req.line = y.line
    let current (k : CohKind) : Prop := notOwner s (r k) m.inc = false
    let calm : Prop := ∀ q ∈ c.probes, ¬(q.site = .home ∧ q.line = line ∧ q.target = d.val)
    let put : Instr := .put .home d.val line
    up ∧ quiet ∧ came .put ∧ current .put ∧ ¬locked ∧ calm) ∧
   (let s : State := (dd 0 .m false base)
    let d : Fin 4 := 0
    let line : Nat := L
    let i : Nat := 0
    let c := s.coh
    let e := dirGet c d.val line
    let r (k : CohKind) : CohReq := ⟨.home, d.val, line, k⟩
    let home := trueHome s line
    let up : Prop := s.dies.health[d].reported = false
    let put : Instr := .put .home d.val line
    up ∧ ((∀ q ∈ c.reqs, ¬(q.req = r .put ∧ arrived s q.via = true))) ∧ e.lvl ≠ .i ∧ isPinned c d.val line = false ∧
      lineLocked s d.val line = false ∧ line < 2 ^ 40) ∧
   (let s : State := (no [x0 0 64 2] (ac base))
    let line : Nat := L
    let i : Nat := 0
    let x : Retry := (x0 0 64 2)
    let c := s.coh
    let quiet : Prop := c.wayWait = [] ∧ ∀ y ∈ c.conflicts, ∃ t ∈ c.txns, t.req.site = y.site ∧ t.req.line = y.line
    c.notowner[i]? = some x ∧ quiet ∧ x.wait = 0 ∧ x.req.kind ≠ .stream ∧ lineHeld s x.req.from_ x.req.line = false ∧
      homeDie s x.req.from_ x.req.line ≠ x.req.from_) ∧
   (let s : State := (no [x0 0 64 2] (fz 2 base))
    let d : Fin 4 := 2
    let line : Nat := L
    let i : Nat := 0
    let x : Retry := (x0 0 64 2)
    let c := s.coh
    let home := trueHome s line
    let quiet : Prop := c.wayWait = [] ∧ ∀ y ∈ c.conflicts, ∃ t ∈ c.txns, t.req.site = y.site ∧ t.req.line = y.line
    let put : Instr := .put .home d.val line
    c.notowner[i]? = some x ∧ quiet ∧ x.wait = 0 ∧ x.req.kind ≠ .put ∧ lineHeld s x.req.from_ x.req.line = true) ∧
   (let s : State := (no [x0 4 64 2] base)
    let i : Nat := 0
    let x : Retry := (x0 4 64 2)
    let c := s.coh
    c.notowner[i]? = some x ∧ x.wait ≠ 0) ∧
   (let s : State := (rs [H 0 .gets] base)
    let d : Fin 4 := 0
    let line : Nat := L
    let i : Nat := 0
    let m : ReqMsg := (H 0 .gets)
    let ms : List ReqMsg := []
    let ns : List ReqMsg := []
    let c := s.coh
    let h := homeGet c line
    let r (k : CohKind) : CohReq := ⟨.home, d.val, line, k⟩
    let home := trueHome s line
    let up : Prop := s.dies.health[d].reported = false
    let turn (v : Transit) : Prop := (∀ q ∈ c.reqs, sentBefore q.via v = false) ∧ ∀ q ∈ c.answers, sentBefore q.via v = false
    let came (k : CohKind) : Prop := c.reqs = ms ++ m :: ns ∧ m.req = r k ∧ arrived s m.via = true ∧ turn m.via ∧
      ∀ q ∈ ms, ¬(q.req = r k ∧ arrived s q.via = true ∧ turn q.via)
    let locked : Prop := ∃ t ∈ c.txns, t.req.site = .home ∧ t.req.line = line
    let quiet : Prop := c.wayWait = [] ∧ ∀ y ∈ c.conflicts, ∃ t ∈ c.txns, t.req.site = y.site ∧ t.req.line = y.line
    let current (k : CohKind) : Prop := notOwner s (r k) m.inc = false
    up ∧ memExists s (line * 128) = true ∧ quiet ∧ came .gets ∧ current .gets ∧ ¬locked ∧ homeRoom s line = true ∧ h.st = .i) ∧
   (let s : State := (tx [⟨⟨.home, 1, L, .gets⟩, 1, 0⟩] (both gg (he 3 .s 4 1) base))
    let d : Fin 4 := 2
    let line : Nat := L
    let m : ReqMsg := gg
    let ms : List ReqMsg := []
    let ns : List ReqMsg := []
    let c := s.coh
    let r (k : CohKind) : CohReq := ⟨.home, d.val, line, k⟩
    let home := trueHome s line
    let up : Prop := s.dies.health[d].reported = false
    let turn (v : Transit) : Prop := (∀ q ∈ c.reqs, sentBefore q.via v = false) ∧ ∀ q ∈ c.answers, sentBefore q.via v = false
    let came (k : CohKind) : Prop := c.reqs = ms ++ m :: ns ∧ m.req = r k ∧ arrived s m.via = true ∧ turn m.via ∧
      ∀ q ∈ ms, ¬(q.req = r k ∧ arrived s q.via = true ∧ turn q.via)
    let locked : Prop := ∃ t ∈ c.txns, t.req.site = .home ∧ t.req.line = line
    let quiet : Prop := c.wayWait = [] ∧ ∀ y ∈ c.conflicts, ∃ t ∈ c.txns, t.req.site = y.site ∧ t.req.line = y.line
    let current (k : CohKind) : Prop := notOwner s (r k) m.inc = false
    up ∧ memExists s (line * 128) = true ∧ quiet ∧ came .gets ∧ current .gets ∧ locked) := by
  refine ⟨?_, ?_, ?_, ?_, ?_, ?_, ?_, ?_, ?_, ?_, ?_, ?_, ?_, ?_, ?_⟩
  · decide +kernel
  · decide +kernel
  · decide +kernel
  · decide +kernel
  · decide +kernel
  · decide +kernel
  · decide +kernel
  · decide +kernel
  · decide +kernel
  · decide +kernel
  · decide +kernel
  · decide +kernel
  · decide +kernel
  · decide +kernel
  · decide +kernel

/-- The hypotheses of HomeRequests hold together: clause 9. -/
theorem witness_homeRequests_clause9 (hash : ∀ x, Config.snoopSet x = 0):
    let s : State := (rs [gg] (fullH base))
    let d : Fin 4 := 2
    let line : Nat := L
    let m : ReqMsg := gg
    let ms : List ReqMsg := []
    let ns : List ReqMsg := []
    let c := s.coh
    let r (k : CohKind) : CohReq := ⟨.home, d.val, line, k⟩
    let home := trueHome s line
    let up : Prop := s.dies.health[d].reported = false
    let turn (v : Transit) : Prop := (∀ q ∈ c.reqs, sentBefore q.via v = false) ∧ ∀ q ∈ c.answers, sentBefore q.via v = false
    let came (k : CohKind) : Prop := c.reqs = ms ++ m :: ns ∧ m.req = r k ∧ arrived s m.via = true ∧ turn m.via ∧
      ∀ q ∈ ms, ¬(q.req = r k ∧ arrived s q.via = true ∧ turn q.via)
    let locked : Prop := ∃ t ∈ c.txns, t.req.site = .home ∧ t.req.line = line
    let quiet : Prop := c.wayWait = [] ∧ ∀ y ∈ c.conflicts, ∃ t ∈ c.txns, t.req.site = y.site ∧ t.req.line = y.line
    let current (k : CohKind) : Prop := notOwner s (r k) m.inc = false
    let rivals := homeRivals s line
    up ∧ memExists s (line * 128) = true ∧ quiet ∧ came .gets ∧ current .gets ∧ ¬locked ∧ homeRoom s line = false ∧
      ((∀ v ∈ rivals, siteLocked s .home v = false ∧ (homeGet c v).present ≠ 0)) := by
  refine ⟨by decide +kernel, by decide +kernel, by decide +kernel, by decide +kernel, by decide +kernel, by decide +kernel, ?_, ?_⟩
  · simp only [homeRoom, homeRivals, sameHomeSet, hash]
    decide +kernel
  · simp only [homeRivals, sameHomeSet, hash]
    decide +kernel

end Homes

namespace Probes

def lc (st : Moesi) (n : Byte) : LineCopy := ⟨st, n, 3, 1⟩
def coh (f : Coh → Coh) (s : State) : State := { s with coh := f s.coh }
def base : State := { st with slots := [] }
def L := 0x2000
def l1s (p : Nat) (m : Moesi) (n : Byte) := coh (fun c => { c with l1 := tabSet c.l1 (2^40 * p + L) (lc m n) })
def vis (p : Nat) (m : Moesi) (n : Byte) := coh (fun c => { c with vic := tabSet c.vic (2^40 * p + L) (lc m n) })
def ds (d : Nat) (e : DirEntry) := coh (fun c => { c with dirs := tabSet c.dirs (2^40 * d + L) e })
def hs (h : HomeEntry) := coh (fun c => { c with homes := tabSet c.homes L h })
def de (q : Byte) (m : Moesi) (cv : Bool) (o : Nat) (l : List Nat) (v : BitVec 32) (lv : Moesi) (hst : Byte) (g : Bool) : DirEntry :=
  ⟨q, m, cv, o, l, v, lv, hst, if g then 15 else 0⟩
def he (q : Byte) (m : Moesi) (p : BitVec 4) (o : BitVec 2) : HomeEntry := ⟨q, m, p, o⟩
def tx (l : List Txn) := coh (fun c => { c with txns := l })
def rq (st : Site) (p : Nat) (k : CohKind) : CohReq := ⟨st, p, L, k⟩
def pm (m : Site) (t : Nat) (lv : Moesi) (st : Byte) : ProbeMsg := ⟨m, L, t, if lv = .i then .getm else .gets, st, none⟩
def pb (l : List ProbeMsg) := coh (fun c => { c with probes := l })
def an (l : List ProbeAns) := coh (fun c => { c with answers := l })
def rt (l : List Retry) := coh (fun c => { c with retries := l })
def a0 : ProbeAns := ⟨.slice 0, L, 3, 0, none⟩
def ah : ProbeAns := ⟨.home, L, 2, 5, none⟩
def t0 : Txn := ⟨rq (.slice 0) 7 .getm, 1, 0⟩
def t2 : Txn := ⟨rq (.slice 0) 7 .getm, 2, 0⟩
def te : Txn := ⟨⟨.home, 0, L, .evict⟩, 1, 0⟩
def r0 : Retry := ⟨rq (.slice 0) 9 .gets, 0, 32⟩
def r1 : Retry := ⟨rq (.slice 0) 9 .gets, 3, 32⟩
def P (m : ProbeMsg) (s : State) : State := pb [pm .home 1 .i 1, m] s
def dd (d : Nat) (l : Moesi) (hst : Byte) (g : Bool) (s : State) : State :=
  { (ds d (de 5 .m false 3 [] 0 l hst g) (l1s (256 * d + 3) .m 3 (vis (256 * d + 4) .s 3 s))) with dirty := [(L * 128 + 3, 9)] }
def pk (k : CohKind) : ProbeMsg := ⟨.home, L, 2, k, 5, none⟩

/-- The hypotheses of ProbesAndAnswers hold together. -/
theorem witness_probesAndAnswers :
    (let s : State := (P (pm (.slice 0) 1024 .i 5) (vis 3 .s 4 (vis 5 .s 9 (vis 9 .s 3 (l1s 3 .e 4 base)))))
    let i : Nat := 1
    let m : ProbeMsg := (pm (.slice 0) 1024 .i 5)
    let e : Fin 4 := 0
    let c := s.coh
    let y := l1Get c m.target m.line
    let v := vicGet c m.target m.line
    let since (stamp : Byte) : Prop := 1 ≤ (stamp - m.stamp).toNat ∧ (stamp - m.stamp).toNat ≤ 127
    let older : Prop := m.target < 1024 ∧ (y.st ≠ .i ∧ since y.stamp ∨ y.st = .i ∧ v.st ≠ .i ∧ since v.stamp)
    c.probes[i]? = some m ∧ arrived s m.via = true ∧ m.site = .slice e ∧ m.line < 2 ^ 40 ∧ ¬older) ∧
   (let s : State := (P (pm (.slice 0) 3 .i 5) (vis 3 .s 6 base))
    let i : Nat := 1
    let m : ProbeMsg := (pm (.slice 0) 3 .i 5)
    let e : Fin 4 := 0
    let c := s.coh
    let y := l1Get c m.target m.line
    let v := vicGet c m.target m.line
    let since (stamp : Byte) : Prop := 1 ≤ (stamp - m.stamp).toNat ∧ (stamp - m.stamp).toNat ≤ 127
    let older : Prop := m.target < 1024 ∧ (y.st ≠ .i ∧ since y.stamp ∨ y.st = .i ∧ v.st ≠ .i ∧ since v.stamp)
    c.probes[i]? = some m ∧ arrived s m.via = true ∧ m.site = .slice e ∧ m.line < 2 ^ 40 ∧ older) ∧
   (let s : State := (P (pm .home 0 .i 5) (dd 0 .m 5 false base))
    let i : Nat := 1
    let m : ProbeMsg := (pm .home 0 .i 5)
    let c := s.coh
    let g := dirGet c m.target m.line
    let since (stamp : Byte) : Prop := 1 ≤ (stamp - m.stamp).toNat ∧ (stamp - m.stamp).toNat ≤ 127
    let home := trueHome s m.line
    c.probes[i]? = some m ∧ arrived s m.via = true ∧ m.site = .home ∧ probeWaits c m.line m.target = false ∧
      s.dies.health[Fin.ofNat 4 m.target].reported = false ∧ (g.lvl = .i ∨ ¬since g.hstamp) ∧ m.line < 2 ^ 40 ∧ m.kind ≠ .put ∧
      m.kind ≠ .stream) ∧
   (let s : State := (P (pm .home 2 .i 5) (dd 2 .o 6 false base))
    let i : Nat := 1
    let m : ProbeMsg := (pm .home 2 .i 5)
    let c := s.coh
    let g := dirGet c m.target m.line
    let since (stamp : Byte) : Prop := 1 ≤ (stamp - m.stamp).toNat ∧ (stamp - m.stamp).toNat ≤ 127
    let home := trueHome s m.line
    c.probes[i]? = some m ∧ arrived s m.via = true ∧ m.site = .home ∧ probeWaits c m.line m.target = false ∧
      s.dies.health[Fin.ofNat 4 m.target].reported = false ∧ g.lvl ≠ .i ∧ since g.hstamp) ∧
   (let s : State := (P { pm .home 2 .o 5 with via := some (2, 0) } (dd 2 .m 4 false base))
    let i : Nat := 1
    let m : ProbeMsg := { pm .home 2 .o 5 with via := some (2, 0) }
    let c := s.coh
    c.probes[i]? = some m ∧ arrived s m.via = false) ∧
   (let s : State := (an [a0] (tx [] base))
    let i : Nat := 0
    let m : ProbeMsg := (pm .home 2 .s 5)
    let n : ProbeAns := a0
    let t : Txn := t0
    let c := s.coh
    let y := l1Get c m.target m.line
    let v := vicGet c m.target m.line
    let quiet : Prop := c.wayWait = [] ∧ ∀ y ∈ c.conflicts, ∃ t ∈ c.txns, t.req.site = y.site ∧ t.req.line = y.line
    let turn (v : Transit) : Prop := (∀ q ∈ c.reqs, sentBefore q.via v = false) ∧ ∀ q ∈ c.answers, sentBefore q.via v = false
    let answers := c.answers.eraseIdx i
    c.answers[i]? = some n ∧ arrived s n.via = true ∧ turn n.via ∧ quiet ∧ ((∀ t ∈ c.txns, ¬(t.req.site = n.site ∧ t.req.line = n.line)))) ∧
   (let s : State := (an [a0] (tx [t0] (ds 0 (de 5 .s false 0 [3] 0 .m 1 false) base)))
    let i : Nat := 0
    let m : ProbeMsg := (pm .home 2 .s 5)
    let n : ProbeAns := a0
    let t : Txn := t0
    let e : Fin 4 := 0
    let c := s.coh
    let y := l1Get c m.target m.line
    let v := vicGet c m.target m.line
    let quiet : Prop := c.wayWait = [] ∧ ∀ y ∈ c.conflicts, ∃ t ∈ c.txns, t.req.site = y.site ∧ t.req.line = y.line
    let turn (v : Transit) : Prop := (∀ q ∈ c.reqs, sentBefore q.via v = false) ∧ ∀ q ∈ c.answers, sentBefore q.via v = false
    let answers := c.answers.eraseIdx i
    c.answers[i]? = some n ∧ arrived s n.via = true ∧ turn n.via ∧ quiet ∧ c.txns = [t] ∧ t.req.site = n.site ∧ t.req.line = n.line ∧
      t.left = 1 ∧ n.site = .slice e ∧ t.req.kind = .getm ∧ t.req.from_ < 1024 ∧ c.conflicts = [] ∧ n.line < 2 ^ 40) ∧
   (let s : State := (an [a0] (tx [t2] base))
    let i : Nat := 0
    let m : ProbeMsg := (pm .home 2 .s 5)
    let n : ProbeAns := a0
    let t : Txn := t2
    let c := s.coh
    let y := l1Get c m.target m.line
    let v := vicGet c m.target m.line
    let quiet : Prop := c.wayWait = [] ∧ ∀ y ∈ c.conflicts, ∃ t ∈ c.txns, t.req.site = y.site ∧ t.req.line = y.line
    let turn (v : Transit) : Prop := (∀ q ∈ c.reqs, sentBefore q.via v = false) ∧ ∀ q ∈ c.answers, sentBefore q.via v = false
    let answers := c.answers.eraseIdx i
    c.answers[i]? = some n ∧ arrived s n.via = true ∧ turn n.via ∧ quiet ∧ c.txns = [t] ∧ t.req.site = n.site ∧ t.req.line = n.line ∧
      2 ≤ t.left) ∧
   (let s : State := (an [ah, { ah with via := some (2, 4) }] (tx [te] base))
    let i : Nat := 1
    let m : ProbeMsg := (pk .gets)
    let n : ProbeAns := { ah with via := some (2, 4) }
    let c := s.coh
    let v := vicGet c m.target m.line
    let turn (v : Transit) : Prop := (∀ q ∈ c.reqs, sentBefore q.via v = false) ∧ ∀ q ∈ c.answers, sentBefore q.via v = false
    let answers := c.answers.eraseIdx i
    c.answers[i]? = some n ∧ (arrived s n.via = false ∨ ¬turn n.via)) ∧
   (let s : State := (an [ah] (tx [te] (hs (he 3 .s 4 0) base)))
    let i : Nat := 0
    let m : ProbeMsg := (pm .home 2 .s 5)
    let n : ProbeAns := ah
    let t : Txn := te
    let c := s.coh
    let y := l1Get c m.target m.line
    let v := vicGet c m.target m.line
    let home := trueHome s m.line
    let quiet : Prop := c.wayWait = [] ∧ ∀ y ∈ c.conflicts, ∃ t ∈ c.txns, t.req.site = y.site ∧ t.req.line = y.line
    let turn (v : Transit) : Prop := (∀ q ∈ c.reqs, sentBefore q.via v = false) ∧ ∀ q ∈ c.answers, sentBefore q.via v = false
    let answers := c.answers.eraseIdx i
    c.answers[i]? = some n ∧ arrived s n.via = true ∧ turn n.via ∧ quiet ∧ c.txns = [t] ∧ t.req.site = n.site ∧ t.req.line = n.line ∧
      t.left = 1 ∧ n.site = .home ∧ t.req.kind = .evict ∧ c.conflicts = []) ∧
   (let s : State := (coh (fun c => { c with conflicts := List.replicate 16 (rq (.slice 0) 8 .gets)}) (tx [t0] (rt [r1, r0] base)))
    let i : Nat := 1
    let m : ProbeMsg := (pm .home 2 .s 5)
    let t : Txn := t0
    let x : Retry := r0
    let e : Fin 4 := 0
    let c := s.coh
    let y := l1Get c m.target m.line
    let quiet : Prop := c.wayWait = [] ∧ ∀ y ∈ c.conflicts, ∃ t ∈ c.txns, t.req.site = y.site ∧ t.req.line = y.line
    c.retries[i]? = some x ∧ x.wait = 0 ∧ quiet ∧ x.req.site = .slice e ∧ x.req.kind ≠ .put ∧ t ∈ c.txns ∧ t.req.site = x.req.site ∧
      t.req.line = x.req.line) ∧
   (let s : State := (coh (fun c => { c with pins := [⟨2, L, false⟩] }) (P (pm .home 2 .i 5) (dd 2 .m 5 false base)))
    let i : Nat := 1
    let m : ProbeMsg := (pm .home 2 .i 5)
    let c := s.coh
    let home := trueHome s m.line
    c.probes[i]? = some m ∧ arrived s m.via = true ∧ m.site = .home ∧ (probeWaits c m.line m.target = true ∨
      s.dies.health[Fin.ofNat 4 m.target].reported = true)) ∧
   (let s : State := (rt [r1, r0] base)
    let i : Nat := 0
    let x : Retry := r1
    let c := s.coh
    c.retries[i]? = some x ∧ x.wait ≠ 0) := by
  refine ⟨?_, ?_, ?_, ?_, ?_, ?_, ?_, ?_, ?_, ?_, ?_, ?_, ?_⟩ <;> decide +kernel

end Probes

namespace Dies

def coh (f : Coh → Coh) (s : State) : State := { s with coh := f s.coh }
def base : State := { st with slots := [] }
def L := 0x2000
def hs (h : HomeEntry) := coh (fun c => { c with homes := tabSet c.homes L h })
def hsn (n : Nat) (h : HomeEntry) := coh (fun c => { c with homes := tabSet c.homes n h })
def he (q : Byte) (m : Moesi) (p : BitVec 4) (o : BitVec 2) : HomeEntry := ⟨q, m, p, o⟩
def tx (l : List Txn) := coh (fun c => { c with txns := l })
def pb (l : List ProbeMsg) := coh (fun c => { c with probes := l })
def cl (n : Nat) (f : Cell → Cell) (s : State) : State := putCell s n (f (cellAt s n))
def plt (f : Platform → Platform) (s : State) : State := { s with plat := f s.plat }
def dz (f : Dies → Dies) (s : State) : State := { s with dies := f s.dies }
def hh (d : Fin 4) (x : DieHealth) := dz (fun y => { y with health := y.health.set d x })
def cutI (n : Fin 24) := plt (fun p => { p with islands := p.islands.set n { p.islands[n] with cut := true } })
def sk (b : BitVec 12) := plt (fun p => { p with stackBits := b })
def pop (s : State) : State :=
  { (cl 259 (fun x => { x with live := true, cc := cc0, steal := .claimed 4 (fr 1) (some (1, 3)) }) (cl 515 (fun x => { x with live := true, cc := cc0, steal := .claimed 600 (fr 1) (some (9, 3)), port := [⟨3, 1, 5, fr 4, .queued, 32, some (4, 0)⟩, ⟨3, 1, 5, fr 4, .queued, 32, some (6, 0)⟩] }) (cl 302 (fun x => { x with steal := .asked 5 1 (some (4, 3)) }) (cl 4 (fun x => { x with live := true, cc := cc0, installs := [fr 1] }) s)))) with slots := [(1, slot0), (1037, slot0), (1038, { slot0 with stall := .trip (some (4, 2)) }), (1039, { slot0 with stall := .trip (some (6, 2)) }), (1040, { slot0 with stall := .reply 3 (some (4, 1)) 7 }), (1041, { slot0 with stall := .replyUe (some (4, 1)) 7 8 }), (1042, { slot0 with stall := .place .pdel 3 9 (some (.done 0, some (4, 2))) })], tlbs := ⟨[(0, [pg 0 0x100000 true true true]), (300, [pg 0 0x100000 true true true])], [], [], [⟨0, 5, 3⟩, ⟨1, 5, 4⟩]⟩ }
def q0 : ProbeMsg := ⟨.home, L, 2, .getm, 4, none⟩
def qg : ProbeMsg := ⟨.home, L, 2, .gets, 4, none⟩
def x0 : Txn := ⟨⟨.home, 1, L, .getm⟩, 1, 0⟩
def xg : Txn := ⟨⟨.home, 1, L, .gets⟩, 1, 0⟩
def fen (d : Fin 4) (s : State) : State :=
  dz (fun y => { y with tables := y.tables.map (fun t => { t with fenced := t.fenced ||| (1#4 <<< d.val) }) }) s
def up12 (s : State) : State :=
  dz (fun y => { y with active := #v[1,1,1,1,1,1,3,3,3,2,2,2], tables := y.tables.map (fun t => { t with owner := #v[1,1,1,1,1,1,3,3,3,2,2,2] }) }) s
def lk (l : Fin 8) (f : Link → Link) := dz (fun d => { d with links := d.links.set l (f d.links[l]) })
def fl (q : BitVec 12) (inc : Byte) (ack : BitVec 12) (sm n : Nat) : Flit := ⟨q, inc, ack, sm, n⟩
def we (q : BitVec 12) (r : Bool) : WindowEntry := ⟨fl q 0 0 1 q.toNat, r⟩
def win : List WindowEntry := [we 5 false, we 6 false, we 7 true, we 8 false]
def F1 := fl 3 0 6 0 0
def lw (l : Fin 8) (f : Flit) (s : State) : State :=
  lk l (fun y => { y with wire := [f, F1], expect := 3, window := win }) (lk (linkBack l) (fun y => { y with window := win }) s)
def sst (s : Fin 8 → CtrlState) :=
  plt (fun p => { p with controllers := p.controllers.mapFinIdx (fun i c h => if h : 18 ≤ i then { c with state := s (Fin.ofNat 8 (i - 18)) } else c) })
def str (k : Nat) (x : Stream) := dz (fun d => { d with streams := tabSet d.streams k x })
def g0 : GrantMsg := ⟨2, L, .m, 7, 4, some (2, 0)⟩
def rr0 : ReqMsg := ⟨⟨.home, 2, L, .gets⟩, 0, 64, some (2, 0)⟩
def gr (s : State) : State := coh (fun c => { c with grants := [g0] }) s
def rf (s : State) : State := coh (fun c => { c with refusals := [rr0] }) s

/-- The hypotheses of FencedDies hold together. -/
theorem witness_fencedDies :
    (let s : State := (coh (fun c => { c with pins := [⟨1, 12 * 2 ^ 29 + 32, false⟩] }) (hsn (12 * 2 ^ 29) (he 3 .s 2 0) (hh 0 ⟨5,
         true, true⟩ (fen 0 (up12 (pop st))))))
    let d : Fin 4 := 0
    let q : ProbeMsg := q0
    let h := s.dies.health[d]
    let cut : Prop := ∃ q : Fin 5, (s.plat.islands[5 * d.val + q.val]'(by omega)).cut = true
    let due : Prop := 1000000 ≤ h.silent ∨ cut ∨
      ∃ y ∈ s.dies.streams, y.1 % 4 = d.val ∧ ∃ n ∈ y.2.kept, 1000000 ≤ n.2
    let pinned : Prop := ∃ y ∈ s.coh.homes, 12 * 2 ^ 29 ≤ y.1 ∧ y.1 / 32 % 4 = d.val ∧ y.2.st ≠ .i ∧
      ∃ f : Fin 4, s.dies.health[f].reported = false ∧ isPinned s.coh f.val y.1 = true
    let stuck : Prop := ∃ k : Fin 12, s.plat.stackBits.getLsbD k.val = true ∧ (d = (pairOf k).1 ∨ d = (pairOf k).2) ∧
      s.dies.health[otherOf k d].reported = false ∧
      (s.dies.tables[d].owner[k] = d ∨ s.dies.active[k] = d ∨ ∃ y ∈ s.dies.handovers, y.stack = k)
    (h.reported = true ∨ ¬due) ∧ (h.reported = false ∨ h.confirmed = true) ∧ h.confirmed = true ∧ ¬cut ∧ ¬stuck ∧ ¬pinned ∧
       s.coh.conflicts = [] ∧ s.coh.wayWait = [] ∧ s.coh.held = []) ∧
   (let s : State := (cutI 6 (pop st))
    let d : Fin 4 := 1
    let q : ProbeMsg := q0
    let h := s.dies.health[d]
    let cut : Prop := ∃ q : Fin 5, (s.plat.islands[5 * d.val + q.val]'(by omega)).cut = true
    let due : Prop := 1000000 ≤ h.silent ∨ cut ∨
      ∃ y ∈ s.dies.streams, y.1 % 4 = d.val ∧ ∃ n ∈ y.2.kept, 1000000 ≤ n.2
    let pinned : Prop := ∃ y ∈ s.coh.homes, 12 * 2 ^ 29 ≤ y.1 ∧ y.1 / 32 % 4 = d.val ∧ y.2.st ≠ .i ∧
      ∃ f : Fin 4, s.dies.health[f].reported = false ∧ isPinned s.coh f.val y.1 = true
    let stuck : Prop := ∃ k : Fin 12, s.plat.stackBits.getLsbD k.val = true ∧ (d = (pairOf k).1 ∨ d = (pairOf k).2) ∧
      s.dies.health[otherOf k d].reported = false ∧
      (s.dies.tables[d].owner[k] = d ∨ s.dies.active[k] = d ∨ ∃ y ∈ s.dies.handovers, y.stack = k)
    h.reported = false ∧ due ∧ (h.confirmed = false ∨ cut ∨ stuck ∨ pinned)) ∧
   (let s : State := (hh 0 ⟨1000000, true, false⟩ (sk 0xFFF (hs (he 3 .o 6 2) base)))
    let d : Fin 4 := 0
    let h := s.dies.health[d]
    let quiet : Prop := s.coh.conflicts = [] ∧ s.coh.wayWait = [] ∧ s.coh.held = [] ∧ s.dies.handovers = [] ∧ s.images = []
    h.reported = true ∧ h.confirmed = false ∧ s.coh.txns = [] ∧ s.coh.probes = [] ∧ quiet) ∧
   (let s : State := (hh 2 ⟨1000000, true, false⟩ (tx [x0] (pb [q0] (hs (he 3 .m 4 2) base))))
    let d : Fin 4 := 2
    let e : Fin 4 := 1
    let q : ProbeMsg := q0
    let x : Txn := x0
    let h := s.dies.health[d]
    let quiet : Prop := s.coh.conflicts = [] ∧ s.coh.wayWait = [] ∧ s.coh.held = [] ∧ s.dies.handovers = [] ∧ s.images = []
    let one (k : CohKind) : Prop := s.coh.probes = [q] ∧ q.site = .home ∧ q.target = d.val ∧ trueHome s q.line ≠ d.val ∧
      s.coh.txns = [x] ∧ x.req = ⟨.home, e.val, q.line, k⟩ ∧ x.left = 1 ∧ e ≠ d ∧ s.dies.health[e].reported = false ∧
      trueHome s q.line ≠ e.val
    h.reported = true ∧ h.confirmed = false ∧ quiet ∧ one .getm) ∧
   (let s : State := (hh 2 ⟨1000000, true, false⟩ (tx [xg] (pb [qg] (hs (he 3 .m 4 2) base))))
    let d : Fin 4 := 2
    let e : Fin 4 := 1
    let q : ProbeMsg := qg
    let x : Txn := xg
    let h := s.dies.health[d]
    let quiet : Prop := s.coh.conflicts = [] ∧ s.coh.wayWait = [] ∧ s.coh.held = [] ∧ s.dies.handovers = [] ∧ s.images = []
    let one (k : CohKind) : Prop := s.coh.probes = [q] ∧ q.site = .home ∧ q.target = d.val ∧ trueHome s q.line ≠ d.val ∧
      s.coh.txns = [x] ∧ x.req = ⟨.home, e.val, q.line, k⟩ ∧ x.left = 1 ∧ e ≠ d ∧ s.dies.health[e].reported = false ∧
      trueHome s q.line ≠ e.val
    h.reported = true ∧ h.confirmed = false ∧ quiet ∧ one .gets ∧ (homeGet s.coh q.line).st = .m ∧
      (homeGet s.coh q.line).owner.toNat = d.val ∧ (homeGet s.coh q.line).present = 1#4 <<< d.val) := by
  refine ⟨?_, ?_, ?_, ?_, ?_⟩ <;> decide +kernel

/-- The hypotheses of LathFlits hold together. -/
theorem witness_lathFlits :
    (let s : State := (lk 0 (fun y => { y with retraining := true, next := 9 }) base)
    let l : Fin 8 := 0
    let n : Fin 8 := 0
    let src : Fin 4 := 0
    let dst : Fin 4 := 1
    let lath : Fin 4 := 0
    let x := s.dies.links[l]
    let live : Prop := x.up = true ∧ x.retraining = false
    let still : Prop := s.coh.grants = [] ∧ s.coh.refusals = []
    let idle : Prop := x.up = false ∨ x.retraining = true ∨ x.window = [] ∨ x.stalled < 256
    let nextDie (d : Fin 4) : Fin 4 := (match d with
      | 0 => 1
      | 1 => 3
      | 3 => 2
      | 2 => 0)
    let short := if nextDie dst = src then ringPath false src dst 3 else ringPath true src dst 3
    let allUp (p : List (Fin 8)) : Prop := ∀ m ∈ p, s.dies.links[m].up = true
    src ≠ dst ∧ s.dies.health[src].reported = false ∧ s.dies.health[dst].reported = false ∧ nextLink s src dst = some n ∧
      s.dies.links[n].up = true ∧ s.dies.links[n].window.length < 2048 ∧ allUp short ∧ still ∧ ¬live ∧ idle ∧
      (s.dies.links[2 * lath.val]'(by omega)).retraining = true) ∧
   (let s : State := (lk 2 (fun y => { y with window := win, stalled := 256, replays := 2 }) base)
    let l : Fin 8 := 2
    let src : Fin 4 := 0
    let dst : Fin 4 := 0
    let intact : Bool := true
    let lath : Fin 4 := 0
    let x := s.dies.links[l]
    let table := s.dies.tables[linkTo l]
    let live : Prop := x.up = true ∧ x.retraining = false
    let still : Prop := s.coh.grants = [] ∧ s.coh.refusals = []
    let noKept : Prop := ∀ e ∈ s.dies.streams, e.2.kept = []
    let idle : Prop := x.up = false ∨ x.retraining = true ∨ x.window = [] ∨ x.stalled < 256
    (src = dst ∨ s.dies.health[src].reported = true ∨ s.dies.health[dst].reported = true) ∧ still ∧ live ∧ x.wire = [] ∧ noKept ∧
       intact = true ∧ table.fenced.getLsbD (linkFrom l).val = false ∧ ¬idle ∧ x.replays < 8 ∧
       (s.dies.links[2 * lath.val]'(by omega)).retraining = false) ∧
   (let s : State := (lk 0 (fun y => { y with up := false }) base)
    let src : Fin 4 := 0
    let dst : Fin 4 := 3
    let nextDie (d : Fin 4) : Fin 4 := (match d with
      | 0 => 1
      | 1 => 3
      | 3 => 2
      | 2 => 0)
    let short := if nextDie dst = src then ringPath false src dst 3 else ringPath true src dst 3
    let long := if nextDie dst = src then ringPath true src dst 3 else ringPath false src dst 3
    let allUp (p : List (Fin 8)) : Prop := ∀ m ∈ p, s.dies.links[m].up = true
    src ≠ dst ∧ ¬allUp short ∧ allUp long) ∧
   (let s : State := (lk 2 (fun y => { y with retraining := true }) (str 2 ⟨1, 1, []⟩ (gr base)))
    let l : Fin 8 := 2
    let g : GrantMsg := g0
    let x := s.dies.links[l]
    let live : Prop := x.up = true ∧ x.retraining = false
    s.coh.grants = [g] ∧ s.coh.refusals = [] ∧ ¬live ∧ arrived s g.via = true ∧ s.coh.conflicts = [] ∧ s.coh.wayWait = [] ∧
      ((∀ t ∈ s.coh.txns, t.req.line ≠ g.line))) ∧
   (let s : State := (lk 2 (fun y => { y with retraining := true }) (str 2 ⟨1, 1, []⟩ (rf base)))
    let l : Fin 8 := 2
    let r : ReqMsg := rr0
    let x := s.dies.links[l]
    let live : Prop := x.up = true ∧ x.retraining = false
    s.coh.grants = [] ∧ s.coh.refusals = [r] ∧ ¬live ∧ arrived s r.via = true) ∧
   (let s : State := (lk 2 (fun y => { y with window := win, expect := 7 }) (hh 1 ⟨9, false, false⟩ base))
    let l : Fin 8 := 2
    let intact : Bool := false
    let x := s.dies.links[l]
    let table := s.dies.tables[linkTo l]
    let live : Prop := x.up = true ∧ x.retraining = false
    let still : Prop := s.coh.grants = [] ∧ s.coh.refusals = []
    still ∧ live ∧ x.wire = [] ∧ (intact = false ∨ table.fenced.getLsbD (linkFrom l).val = true)) ∧
   (let s : State := (lk 2 (fun y => { y with window := win, stalled := 256, replays := 8 }) base)
    let l : Fin 8 := 2
    let n : Fin 8 := 0
    let x := s.dies.links[l]
    let b := linkBack l
    let swap (m : Fin 8) : Prop := ∃ n, (s.plat.controllers[18 + m.val]'(by omega)).state = .starting n
    let idle : Prop := x.up = false ∨ x.retraining = true ∨ x.window = [] ∨ x.stalled < 256
    ¬idle ∧ 8 ≤ x.replays ∧ ¬swap l ∧ ¬swap b) ∧
   (let s : State := (lk 7 (fun y => { y with up := false }) (lk 0 (fun y => { y with up := false }) base))
    let src : Fin 4 := 0
    let dst : Fin 4 := 3
    let nextDie (d : Fin 4) : Fin 4 := (match d with
      | 0 => 1
      | 1 => 3
      | 3 => 2
      | 2 => 0)
    let short := if nextDie dst = src then ringPath false src dst 3 else ringPath true src dst 3
    let long := if nextDie dst = src then ringPath true src dst 3 else ringPath false src dst 3
    let allUp (p : List (Fin 8)) : Prop := ∀ m ∈ p, s.dies.links[m].up = true
    src ≠ dst ∧ ¬allUp short ∧ ¬allUp long) ∧
   (let s : State := (lw 2 (fl 3 0 6 6 5) base)
    let l : Fin 8 := 2
    let n : Fin 8 := 4
    let intact : Bool := true
    let f : Flit := (fl 3 0 6 6 5)
    let w : List Flit := [F1]
    let x := s.dies.links[l]
    let b := linkBack l
    let table := s.dies.tables[linkTo l]
    let bad : Prop := intact = false ∨ f.seq ≠ x.expect ∨ f.inc ≠ table.incs[linkFrom l] ∨ table.fenced.getLsbD (linkFrom l).val = true
    let live : Prop := x.up = true ∧ x.retraining = false
    let still : Prop := s.coh.grants = [] ∧ s.coh.refusals = []
    let noKept : Prop := ∀ e ∈ s.dies.streams, e.2.kept = []
    still ∧ live ∧ x.wire = f :: w ∧ ¬bad ∧ Fin.ofNat 4 f.stream ≠ linkTo l ∧ noKept ∧
      nextLink s (linkTo l) (Fin.ofNat 4 f.stream) = some n ∧ n ≠ b ∧ s.dies.links[n].up = true ∧ s.dies.links[n].window.length < 2048) ∧
   (let s : State := (lw 2 (fl 3 1 6 7 0) base)
    let l : Fin 8 := 2
    let intact : Bool := true
    let f : Flit := (fl 3 1 6 7 0)
    let w : List Flit := [F1]
    let x := s.dies.links[l]
    let table := s.dies.tables[linkTo l]
    let bad : Prop := intact = false ∨ f.seq ≠ x.expect ∨ f.inc ≠ table.incs[linkFrom l] ∨ table.fenced.getLsbD (linkFrom l).val = true
    let live : Prop := x.up = true ∧ x.retraining = false
    let still : Prop := s.coh.grants = [] ∧ s.coh.refusals = []
    still ∧ live ∧ x.wire = f :: w ∧ bad) ∧
   (let s : State :=
        (sst (fun i => if i = 3 then .starting 5 else .running) (lk 2 (fun y => { y with window := win, stalled := 256, replays := 8 }) base))
    let l : Fin 8 := 2
    let n : Fin 8 := 0
    let x := s.dies.links[l]
    let b := linkBack l
    let swap (m : Fin 8) : Prop := ∃ n, (s.plat.controllers[18 + m.val]'(by omega)).state = .starting n
    let idle : Prop := x.up = false ∨ x.retraining = true ∨ x.window = [] ∨ x.stalled < 256
    ¬idle ∧ 8 ≤ x.replays ∧ (swap l ∨ swap b)) ∧
   (let s : State := (str 7 ⟨1, 0, [(0, 88)]⟩ (lw 2 (fl 3 0 6 7 0) base))
    let l : Fin 8 := 2
    let n : Fin 8 := 0
    let intact : Bool := true
    let f : Flit := (fl 3 0 6 7 0)
    let w : List Flit := [F1]
    let x := s.dies.links[l]
    let table := s.dies.tables[linkTo l]
    let bad : Prop := intact = false ∨ f.seq ≠ x.expect ∨ f.inc ≠ table.incs[linkFrom l] ∨ table.fenced.getLsbD (linkFrom l).val = true
    let st := streamAt s f.stream
    let live : Prop := x.up = true ∧ x.retraining = false
    let still : Prop := s.coh.grants = [] ∧ s.coh.refusals = []
    still ∧ live ∧ x.wire = f :: w ∧ ¬bad ∧ Fin.ofNat 4 f.stream = linkTo l ∧ ((∀ e ∈ s.dies.streams, e.1 = f.stream ∨
      e.2.kept = [])) ∧ ((∀ n ∈ st.kept, n.1 = f.number)) ∧ tabSorted s.dies.streams = true ∧ f.number = st.deliver) ∧
   (let s : State := (str 7 ⟨4, 0, []⟩ (lw 2 (fl 3 0 99 7 2) base))
    let l : Fin 8 := 2
    let intact : Bool := true
    let f : Flit := (fl 3 0 99 7 2)
    let w : List Flit := [F1]
    let x := s.dies.links[l]
    let table := s.dies.tables[linkTo l]
    let bad : Prop := intact = false ∨ f.seq ≠ x.expect ∨ f.inc ≠ table.incs[linkFrom l] ∨ table.fenced.getLsbD (linkFrom l).val = true
    let st := streamAt s f.stream
    let live : Prop := x.up = true ∧ x.retraining = false
    let still : Prop := s.coh.grants = [] ∧ s.coh.refusals = []
    let noKept : Prop := ∀ e ∈ s.dies.streams, e.2.kept = []
    still ∧ live ∧ x.wire = f :: w ∧ ¬bad ∧ Fin.ofNat 4 f.stream = linkTo l ∧ noKept ∧ f.number ≠ st.deliver) := by
  refine ⟨?_, ?_, ?_, ?_, ?_, ?_, ?_, ?_, ?_, ?_, ?_, ?_, ?_⟩
  · decide +kernel
  · decide +kernel
  · decide +kernel
  · decide +kernel
  · decide +kernel
  · decide +kernel
  · refine ⟨by decide +kernel, by decide +kernel, ?_, ?_⟩
    · exact not_starting (by decide +kernel)
    · exact not_starting (by decide +kernel)
  · decide +kernel
  · decide +kernel
  · decide +kernel
  · refine ⟨by decide +kernel, by decide +kernel, ?_⟩
    exact Or.inr ⟨_, rfl⟩
  · decide +kernel
  · decide +kernel

end Dies

namespace Remote

def ho (f : HostSide → HostSide) (s : State) : State := { s with host := f s.host }
def plt (f : Platform → Platform) (s : State) : State := { s with plat := f s.plat }
def base := { st with slots := [] }
def rec0 : Vector Word 16 := #v[0x8000, 0x30000, 0x10000000000 + 0x20, (3 * 2^32 + 3072 + 4),
  BitVec.ofNat 64 (0x1234 + 1 * 2^32 + 2 * 2^36 + 2 * 2^44 + 4 * 2^48 + 3 * 2^56), 0x700000, 0x20000 + 9 * 2^48, 1, 2, 3, 4, 5, 6, 500,
  0x9000, 77 * 2^32]
def descW (sys : Bool) : Nat :=
  0x10000 + 0x800000 * 2^64 + 5 * 2^160 + (if sys then 2^128 else 0) + 0x85 * 2^197 + 16 * 2^224 + 0x20000 * 2^256 + 0xA00000 * 2^320 + 1 * 2^384 + 0x5000000400 * 2^448
def putB (a n k : Nat) (s : State) : State :=
  { s with mem := s.mem.filter (fun c => c.1 < a) ++ ((bytesOf n k).zipIdx.map (fun e => (a + e.2, e.1))).filter (fun c => c.2 ≠ 0) ++ s.mem.filter (fun c => a + k ≤ c.1) }
def withDesc (s : State) : State := putB 0x8000 (descW false) 64 s
def ep (s : State) : State := ho (fun h => { h with endpoints := [(9, (0x99, 0x66))], open_ := true }) s
def par (l : List Part) := ho (fun h => { h with parts := l })
def wins (n : Nat) (w : WinSlot) := ho (fun h => { h with slots := [(n, w)] })
def pk (r : Vector Word 16) : WinSlot := ⟨.parsed, some 5, r, 4, []⟩
def P (z : PartStage) (wk : List Nat) : Part := ⟨3, 7, rec0, 4, some 5, z, wk, 2, (1, 2, 3), (7, 8, 9)⟩
def Pr (z : PartStage) (wk : List Nat) : Part := ⟨4, 7, rec0, 3, some 5, z, wk, 2, (0, 2, 3), (0, 0, 1)⟩
def free4 (s : State) : State := { s with cells := [], slots := [] }
def hlist : Nat := (List.range 32).foldl (fun n i => n + ((0x11110000 + i) * 2^32 + 8 + i % 4 + 0x1230) * 2^(64 * i)) 0
def tabs (s : State) : State :=
  putB 0x10000 (0x40000 + 1) 8 (putB 0x40000 (0x80000 + 1) 8 (putB (0x80000 + 8 * 3) (0x400000 + 0x39) 8 (putB 0x400C00 hlist 256 s)))
def hole (s : State) : State := { s with plat := { s.plat with stackBits := 0xFFE } }
def reg (k a n : Nat) := ho (fun h => { h with regions := [(k, a, n)], open_ := true })
def hc (s : State) (a n : Nat) : State := exU (hostClears s (physLines a n))
def homeAt (d : BitVec 2) (l : Nat) (s : State) : State :=
  { s with coh := { s.coh with homes := [(l, ⟨3, .m, 1#4 <<< d.toNat, d⟩)], dirs := [(d.toNat * 2^40 + l, ⟨1, .m, false, 0, [], 0, .m, 1, 0⟩)], l1 := [((d.toNat * 256) * 2^40 + l, ⟨.m, 1, 3, 1⟩)] } }
def r1 := reg 4 0x100000 64 base
def r3 := homeAt 1 (0x100000/128) r1
def r4 : State := { r3 with coh := { r3.coh with txns := [⟨⟨.home, 1, 0x100000/128, .gets⟩, 1, 0⟩] } }
def dat := [1, 2, 3, 4]
def win (s : State) : State := ho (fun h => { h with window := [(5, 7), (127, 9)] , seals := 11}) s
def wfree (q : BitVec 32) (s : State) : State := ho (fun h => { h with slots := [(1, ⟨.free, some q, rec0, 2, []⟩)] }) s
def one := List.replicate 128 (0x11 : Byte)
def recB (j : Nat) (w : Word) : Vector Word 16 := rec0.setIfInBounds j w
def good := withDesc (tabs (ep (free4 base)))
def wp (r : Vector Word 16) (s : State) : State := wins 7 (pk r) s
def rFar := recB 3 (4 * 2^32 + 2048 + 4)
def frzA (s : State) : State := { s with dies := { s.dies with tables := s.dies.tables.map (fun t => { t with freeze := 1 }) } }
def dark (s : State) : State := plt (fun p => { p with portUp := 0 }) s

/-- The hypotheses of RemoteAccess hold together. -/
theorem witness_remoteAccess :
    (let s : State := (wfree 0x11111112 (win base))
    let key : Nat := 0
    let addr : Nat := 128
    let n : Nat := 3
    let i : Nat := 1
    let data : List Byte := one
    let reach : Prop := ∃ p : Fin 4, s.plat.portUp.getLsbD p.val = true ∧ s.plat.ethUp.toNat / 16 ^ (p.val % 2) % 16 ≠ 0
    let open_ (n : Nat) : Prop := ∃ r ∈ s.host.regions, r.1 = key ∧ r.2.1 ≤ addr ∧ addr + n ≤ r.2.1 + r.2.2
    let window (n : Nat) : Prop := s.host.open_ = true ∧ addr + n ≤ 65536
    let x := tabGet WinSlot.fresh s.host.slots i
    let byte (t : State) (a : Nat) : Byte := memGet t.host.window a
    let word (t : State) (j : Nat) : Word := BitVec.ofNat 64 (natOf ((List.range 8).map (fun b => byte t (128 * i + 8 * j + b))))
    let a : Nat := addr
    let t : State := nextOr (exec (.rdmaWrite key addr data) s) s
    ((∃ d, d < 4 ∧ readsBad s d (a / 32) = false)) ∧ reach ∧ key = 0 ∧ window n ∧ window data.length ∧ i < 512 ∧
       addr ≤ 128 * i + 127 ∧ 128 * i + 127 < addr + data.length ∧ x.st = .free ∧ exec (.rdmaWrite key addr data) s = .next t ∧
       x.lastSeq ≠ some ((word t 15 >>> 32).setWidth 32)) ∧
   (let s : State := (ho (fun h => { h with open_ := false }) base)
    let key : Nat := 0
    let addr : Nat := 5
    let n : Nat := 3
    let data : List Byte := dat
    let reach : Prop := ∃ p : Fin 4, s.plat.portUp.getLsbD p.val = true ∧ s.plat.ethUp.toNat / 16 ^ (p.val % 2) % 16 ≠ 0
    let open_ (n : Nat) : Prop := ∃ r ∈ s.host.regions, r.1 = key ∧ r.2.1 ≤ addr ∧ addr + n ≤ r.2.1 + r.2.2
    let window (n : Nat) : Prop := s.host.open_ = true ∧ addr + n ≤ 65536
    reach ∧ key = 0 ∧ ¬window n ∧ ¬window data.length) ∧
   (let s : State := (hole r1)
    let key : Nat := 4
    let addr : Nat := 0x100008
    let n : Nat := 4
    let data : List Byte := dat
    let reach : Prop := ∃ p : Fin 4, s.plat.portUp.getLsbD p.val = true ∧ s.plat.ethUp.toNat / 16 ^ (p.val % 2) % 16 ≠ 0
    let open_ (n : Nat) : Prop := ∃ r ∈ s.host.regions, r.1 = key ∧ r.2.1 ≤ addr ∧ addr + n ≤ r.2.1 + r.2.2
    let there (n : Nat) : Prop := memExists s addr = true ∧ memExists s (addr + n - 1) = true
    reach ∧ key ≠ 0 ∧ ¬(open_ n ∧ there n) ∧ ¬(open_ data.length ∧ there data.length)) ∧
   (let s : State := (plt (fun p => { p with ethUp := 0xF0, portUp := 2 }) r1)
    let u : State := (hc (plt (fun p => { p with ethUp := 0xF0, portUp := 2 }) r1) 0x100008 4)
    let key : Nat := 4
    let addr : Nat := 0x100008
    let n : Nat := 4
    let data : List Byte := dat
    let reach : Prop := ∃ p : Fin 4, s.plat.portUp.getLsbD p.val = true ∧ s.plat.ethUp.toNat / 16 ^ (p.val % 2) % 16 ≠ 0
    let open_ (n : Nat) : Prop := ∃ r ∈ s.host.regions, r.1 = key ∧ r.2.1 ≤ addr ∧ addr + n ≤ r.2.1 + r.2.2
    let there (n : Nat) : Prop := memExists s addr = true ∧ memExists s (addr + n - 1) = true
    let busy (n : Nat) : Prop := ∃ l ∈ physLines addr n, homeBusy s l = true
    let clears := hostClears s (physLines addr data.length)
    reach ∧ key ≠ 0 ∧ open_ n ∧ there n ∧ ¬busy n ∧ open_ data.length ∧ there data.length ∧ clears = .ok u) ∧
   (let s : State := r4
    let w : State := (hc r4 0x100008 4)
    let key : Nat := 4
    let addr : Nat := 0x100008
    let n : Nat := 4
    let data : List Byte := dat
    let reach : Prop := ∃ p : Fin 4, s.plat.portUp.getLsbD p.val = true ∧ s.plat.ethUp.toNat / 16 ^ (p.val % 2) % 16 ≠ 0
    let open_ (n : Nat) : Prop := ∃ r ∈ s.host.regions, r.1 = key ∧ r.2.1 ≤ addr ∧ addr + n ≤ r.2.1 + r.2.2
    let there (n : Nat) : Prop := memExists s addr = true ∧ memExists s (addr + n - 1) = true
    let busy (n : Nat) : Prop := ∃ l ∈ physLines addr n, homeBusy s l = true
    let clears := hostClears s (physLines addr data.length)
    reach ∧ key ≠ 0 ∧ open_ n ∧ there n ∧ busy n ∧ open_ data.length ∧ there data.length ∧ clears = .error w) ∧
   (let s : State := (dark r1)
    let reach : Prop := ∃ p : Fin 4, s.plat.portUp.getLsbD p.val = true ∧ s.plat.ethUp.toNat / 16 ^ (p.val % 2) % 16 ≠ 0
    ¬reach) := by
  refine ⟨?_, ?_, ?_, ?_, ?_, ?_⟩
  · refine ⟨by decide +kernel, by decide +kernel, by decide +kernel, by decide +kernel, by decide +kernel, by decide +kernel,
    by decide +kernel, by decide +kernel, by decide +kernel, ?_, by decide +kernel⟩
    refine next_of ?_
    decide +kernel
  · decide +kernel
  · decide +kernel
  · decide +kernel
  · decide +kernel
  · decide +kernel

/-- The hypotheses of LaunchChecks hold together. -/
theorem witness_launchChecks :
    (let s : State := (dark (par [Pr .running [], P .latched []] (wp rFar good)))
    let n : Fin 512 := 7
    let pkg : Nat := 2
    let q : Vector Word 16 := rFar
    let reach : Prop := ∃ p : Fin 4, s.plat.portUp.getLsbD p.val = true ∧ s.plat.ethUp.toNat / 16 ^ (p.val % 2) % 16 ≠ 0
    let x := tabGet WinSlot.fresh s.host.slots n.val
    let r := x.record
    let me := s.plat.pkg.toNat
    let w (j : Fin 16) : Nat := r[j].toNat
    let reserved : Prop := 2 ^ 45 ≤ w 0 ∨ w 0 % 2 ^ 6 ≠ 0 ∨ 2 ^ 55 ≤ w 1 ∨ w 1 % 2 ^ 16 ≠ 0 ∨ 2 ^ 55 ≤ w 3 ∨ w 3 / 2 ^ 22 % 2 ^ 10 ≠ 0 ∨
      w 4 / 2 ^ 39 % 2 ^ 5 ≠ 0 ∨ w 4 / 2 ^ 34 % 2 ^ 2 ≠ 0 ∨ 2 ^ 55 ≤ w 5 ∨ w 5 % 2 ^ 4 ≠ 0 ∨ w 6 / 2 ^ 32 % 2 ^ 16 ≠ 0 ∨ w 15 % 2 ^ 32 ≠ 0
    let first := w 3 % 2 ^ 22
    let count := w 3 / 2 ^ 32 % 2 ^ 23
    let last := (first + count - 1) / 1024
    let endpoint := tabFind s.host.endpoints (w 6 / 2 ^ 48)
    let bad : Prop := reserved ∨ count = 0 ∨ 4194304 < first + count ∨ 5 ≤ w 4 / 2 ^ 36 % 2 ^ 3 ∨ w 4 / 2 ^ 32 % 2 ^ 2 = 3 ∨
      carveBad (LaunchRec.carve r) = true ∨ w 2 / 2 ^ 32 ≤ w 2 % 2 ^ 32 ∨ endpoint = none
    let v : BitVec 512 := (partDescriptor s q).getD 0
    x.st = .parsed ∧ ¬reach ∧ (bad ∨ first / 1024 ≠ me ∨ last ≠ me) ∧ (s.plat.brought = false ∨ ¬reach ∨ pkg = me ∨
      LaunchRec.hasPart q me = false ∨ partHeld s q = true) ∧ ((∀ c ∈ LaunchRec.cells q me, c < cellCount s)) ∧
      partDescriptor s q = some v ∧ (readList s v q).isSome = true) ∧
   (let s : State := (plt (fun p => { p with absentCells := [9] }) good)
    let n : Fin 512 := 7
    let pkg : Nat := 2
    let q : Vector Word 16 := (recB 3 (2 * 2^32 + 3072 + 1022))
    let reach : Prop := ∃ p : Fin 4, s.plat.portUp.getLsbD p.val = true ∧ s.plat.ethUp.toNat / 16 ^ (p.val % 2) % 16 ≠ 0
    let x := tabGet WinSlot.fresh s.host.slots n.val
    let me := s.plat.pkg.toNat
    let up : Prop := ∃ d : Fin 4, (s.plat.controllers[2 + d.val]'(by omega)).state = .running
    (x.st ≠ .parsed ∨ ¬up) ∧ s.plat.brought = true ∧ reach ∧ pkg ≠ me ∧ LaunchRec.hasPart q me = true ∧ partHeld s q = false ∧
       ((∃ c ∈ LaunchRec.cells q me, cellCount s ≤ c))) ∧
   (let s : State := (wp rec0 (ep (free4 base)))
    let n : Fin 512 := 7
    let pkg : Nat := 3
    let q : Vector Word 16 := rec0
    let x := tabGet WinSlot.fresh s.host.slots n.val
    let r := x.record
    let me := s.plat.pkg.toNat
    let w (j : Fin 16) : Nat := r[j].toNat
    let reserved : Prop := 2 ^ 45 ≤ w 0 ∨ w 0 % 2 ^ 6 ≠ 0 ∨ 2 ^ 55 ≤ w 1 ∨ w 1 % 2 ^ 16 ≠ 0 ∨ 2 ^ 55 ≤ w 3 ∨ w 3 / 2 ^ 22 % 2 ^ 10 ≠ 0 ∨
      w 4 / 2 ^ 39 % 2 ^ 5 ≠ 0 ∨ w 4 / 2 ^ 34 % 2 ^ 2 ≠ 0 ∨ 2 ^ 55 ≤ w 5 ∨ w 5 % 2 ^ 4 ≠ 0 ∨ w 6 / 2 ^ 32 % 2 ^ 16 ≠ 0 ∨ w 15 % 2 ^ 32 ≠ 0
    let first := w 3 % 2 ^ 22
    let count := w 3 / 2 ^ 32 % 2 ^ 23
    let last := (first + count - 1) / 1024
    let endpoint := tabFind s.host.endpoints (w 6 / 2 ^ 48)
    let bad : Prop := reserved ∨ count = 0 ∨ 4194304 < first + count ∨ 5 ≤ w 4 / 2 ^ 36 % 2 ^ 3 ∨ w 4 / 2 ^ 32 % 2 ^ 2 = 3 ∨
      carveBad (LaunchRec.carve r) = true ∨ w 2 / 2 ^ 32 ≤ w 2 % 2 ^ 32 ∨ endpoint = none
    let up : Prop := ∃ d : Fin 4, (s.plat.controllers[2 + d.val]'(by omega)).state = .running
    let v : BitVec 512 := (partDescriptor s q).getD 0
    x.st = .parsed ∧ up ∧ ¬bad ∧ first / 1024 = me ∧ last = me ∧ partHeld s r = false ∧
      ((∀ c ∈ LaunchRec.cells q me, c < cellCount s)) ∧ partDescriptor s q = some v ∧ readList s v q = none) ∧
   (let s : State := (frzA (wp rec0 good))
    let n : Fin 512 := 7
    let pkg : Nat := 2
    let x := tabGet WinSlot.fresh s.host.slots n.val
    let r := x.record
    let me := s.plat.pkg.toNat
    let w (j : Fin 16) : Nat := r[j].toNat
    let reserved : Prop := 2 ^ 45 ≤ w 0 ∨ w 0 % 2 ^ 6 ≠ 0 ∨ 2 ^ 55 ≤ w 1 ∨ w 1 % 2 ^ 16 ≠ 0 ∨ 2 ^ 55 ≤ w 3 ∨ w 3 / 2 ^ 22 % 2 ^ 10 ≠ 0 ∨
      w 4 / 2 ^ 39 % 2 ^ 5 ≠ 0 ∨ w 4 / 2 ^ 34 % 2 ^ 2 ≠ 0 ∨ 2 ^ 55 ≤ w 5 ∨ w 5 % 2 ^ 4 ≠ 0 ∨ w 6 / 2 ^ 32 % 2 ^ 16 ≠ 0 ∨ w 15 % 2 ^ 32 ≠ 0
    let first := w 3 % 2 ^ 22
    let count := w 3 / 2 ^ 32 % 2 ^ 23
    let endpoint := tabFind s.host.endpoints (w 6 / 2 ^ 48)
    let bad : Prop := reserved ∨ count = 0 ∨ 4194304 < first + count ∨ 5 ≤ w 4 / 2 ^ 36 % 2 ^ 3 ∨ w 4 / 2 ^ 32 % 2 ^ 2 = 3 ∨
      carveBad (LaunchRec.carve r) = true ∨ w 2 / 2 ^ 32 ≤ w 2 % 2 ^ 32 ∨ endpoint = none
    let up : Prop := ∃ d : Fin 4, (s.plat.controllers[2 + d.val]'(by omega)).state = .running
    x.st = .parsed ∧ up ∧ ¬bad ∧ LaunchRec.hasPart r me = true ∧ partHeld s r = true) ∧
   (let s : State := (par [Pr .running [], P .latched []] (wp rFar good))
    let n : Fin 512 := 7
    let pkg : Nat := 2
    let reach : Prop := ∃ p : Fin 4, s.plat.portUp.getLsbD p.val = true ∧ s.plat.ethUp.toNat / 16 ^ (p.val % 2) % 16 ≠ 0
    let x := tabGet WinSlot.fresh s.host.slots n.val
    let r := x.record
    let me := s.plat.pkg.toNat
    let w (j : Fin 16) : Nat := r[j].toNat
    let reserved : Prop := 2 ^ 45 ≤ w 0 ∨ w 0 % 2 ^ 6 ≠ 0 ∨ 2 ^ 55 ≤ w 1 ∨ w 1 % 2 ^ 16 ≠ 0 ∨ 2 ^ 55 ≤ w 3 ∨ w 3 / 2 ^ 22 % 2 ^ 10 ≠ 0 ∨
      w 4 / 2 ^ 39 % 2 ^ 5 ≠ 0 ∨ w 4 / 2 ^ 34 % 2 ^ 2 ≠ 0 ∨ 2 ^ 55 ≤ w 5 ∨ w 5 % 2 ^ 4 ≠ 0 ∨ w 6 / 2 ^ 32 % 2 ^ 16 ≠ 0 ∨ w 15 % 2 ^ 32 ≠ 0
    let first := w 3 % 2 ^ 22
    let count := w 3 / 2 ^ 32 % 2 ^ 23
    let last := (first + count - 1) / 1024
    let endpoint := tabFind s.host.endpoints (w 6 / 2 ^ 48)
    let bad : Prop := reserved ∨ count = 0 ∨ 4194304 < first + count ∨ 5 ≤ w 4 / 2 ^ 36 % 2 ^ 3 ∨ w 4 / 2 ^ 32 % 2 ^ 2 = 3 ∨
      carveBad (LaunchRec.carve r) = true ∨ w 2 / 2 ^ 32 ≤ w 2 % 2 ^ 32 ∨ endpoint = none
    let up : Prop := ∃ d : Fin 4, (s.plat.controllers[2 + d.val]'(by omega)).state = .running
    x.st = .parsed ∧ up ∧ reach ∧ ¬bad ∧ first / 1024 = pkg ∧ last = pkg ∧ pkg ≠ me) ∧
   (let s : State := (wp (recB 0 0x8001) good)
    let n : Fin 512 := 7
    let reach : Prop := ∃ p : Fin 4, s.plat.portUp.getLsbD p.val = true ∧ s.plat.ethUp.toNat / 16 ^ (p.val % 2) % 16 ≠ 0
    let x := tabGet WinSlot.fresh s.host.slots n.val
    let r := x.record
    let w (j : Fin 16) : Nat := r[j].toNat
    let reserved : Prop := 2 ^ 45 ≤ w 0 ∨ w 0 % 2 ^ 6 ≠ 0 ∨ 2 ^ 55 ≤ w 1 ∨ w 1 % 2 ^ 16 ≠ 0 ∨ 2 ^ 55 ≤ w 3 ∨ w 3 / 2 ^ 22 % 2 ^ 10 ≠ 0 ∨
      w 4 / 2 ^ 39 % 2 ^ 5 ≠ 0 ∨ w 4 / 2 ^ 34 % 2 ^ 2 ≠ 0 ∨ 2 ^ 55 ≤ w 5 ∨ w 5 % 2 ^ 4 ≠ 0 ∨ w 6 / 2 ^ 32 % 2 ^ 16 ≠ 0 ∨ w 15 % 2 ^ 32 ≠ 0
    let first := w 3 % 2 ^ 22
    let count := w 3 / 2 ^ 32 % 2 ^ 23
    let endpoint := tabFind s.host.endpoints (w 6 / 2 ^ 48)
    let bad : Prop := reserved ∨ count = 0 ∨ 4194304 < first + count ∨ 5 ≤ w 4 / 2 ^ 36 % 2 ^ 3 ∨ w 4 / 2 ^ 32 % 2 ^ 2 = 3 ∨
      carveBad (LaunchRec.carve r) = true ∨ w 2 / 2 ^ 32 ≤ w 2 % 2 ^ 32 ∨ endpoint = none
    let up : Prop := ∃ d : Fin 4, (s.plat.controllers[2 + d.val]'(by omega)).state = .running
    x.st = .parsed ∧ up ∧ reach ∧ bad) ∧
   (let s : State := (wp rec0 (putB 0x8000 (2^512-1) 64 (ep (free4 base))))
    let pkg : Nat := 3
    let q : Vector Word 16 := rec0
    let me := s.plat.pkg.toNat
    ((∀ c ∈ LaunchRec.cells q me, c < cellCount s)) ∧ partDescriptor s q = none) := by
  refine ⟨?_, ?_, ?_, ?_, ?_, ?_, ?_⟩ <;> decide +kernel

end Remote

namespace Launch

def ho (f : HostSide → HostSide) (s : State) : State := { s with host := f s.host }
def cl (n : Nat) (f : Cell → Cell) (s : State) : State := putCell s n (f (cellAt s n))
def plt (f : Platform → Platform) (s : State) : State := { s with plat := f s.plat }
def base := { st with slots := [] }
def rec0 : Vector Word 16 := #v[0x8000, 0x30000, 0x10000000000 + 0x20, (3 * 2^32 + 3072 + 4),
  BitVec.ofNat 64 (0x1234 + 1 * 2^32 + 2 * 2^36 + 2 * 2^44 + 4 * 2^48 + 3 * 2^56), 0x700000, 0x20000 + 9 * 2^48, 1, 2, 3, 4, 5, 6, 500,
  0x9000, 77 * 2^32]
def descW (sys : Bool) : Nat :=
  0x10000 + 0x800000 * 2^64 + 5 * 2^160 + (if sys then 2^128 else 0) + 0x85 * 2^197 + 16 * 2^224 + 0x20000 * 2^256 + 0xA00000 * 2^320 + 1 * 2^384 + 0x5000000400 * 2^448
def putB (a n k : Nat) (s : State) : State :=
  { s with mem := s.mem.filter (fun c => c.1 < a) ++ ((bytesOf n k).zipIdx.map (fun e => (a + e.2, e.1))).filter (fun c => c.2 ≠ 0) ++ s.mem.filter (fun c => a + k ≤ c.1) }
def withDesc (s : State) : State := putB 0x8000 (descW false) 64 s
def ep (s : State) : State := ho (fun h => { h with endpoints := [(9, (0x99, 0x66))], open_ := true }) s
def par (l : List Part) := ho (fun h => { h with parts := l })
def wins (n : Nat) (w : WinSlot) := ho (fun h => { h with slots := [(n, w)] })
def pk (r : Vector Word 16) : WinSlot := ⟨.parsed, some 5, r, 4, []⟩
def P (z : PartStage) (wk : List Nat) : Part := ⟨3, 7, rec0, 4, some 5, z, wk, 2, (1, 2, 3), (7, 8, 9)⟩
def Pl : Part := ⟨3, 7, rec0, 4, none, .latched, [], 0, (0, 0, 0), (0, 0, 0)⟩
def Pr (z : PartStage) (wk : List Nat) : Part := ⟨4, 7, rec0, 3, some 5, z, wk, 2, (0, 2, 3), (0, 0, 1)⟩
def warm (m : BitVec 32) :=
  plt (fun p => { p with islands := p.islands.map (fun i => { i with mw := m, uj := 90, readings := [(2000, 50), (1000, 40)] }) })
def free4 (s : State) : State := { s with cells := [], slots := [] }
def hlist : Nat := (List.range 32).foldl (fun n i => n + ((0x11110000 + i) * 2^32 + 8 + i % 4 + 0x1230) * 2^(64 * i)) 0
def tabs (s : State) : State :=
  putB 0x10000 (0x40000 + 1) 8 (putB 0x40000 (0x80000 + 1) 8 (putB (0x80000 + 8 * 3) (0x400000 + 0x39) 8 (putB 0x400C00 hlist 256 s)))
def W : BitVec 512 := BitVec.ofNat 512 (descW false)
def HL : Vector Word 32 := (readList (tabs (withDesc (free4 base))) W rec0).getD (Vector.replicate 32 0)
def adm (m : BitVec 32) (l : List Part) (s : State) : State := par l (warm m (tabs (withDesc (free4 s))))
def recB (j : Nat) (w : Word) : Vector Word 16 := rec0.setIfInBounds j w
def offC (s : State) : State := plt (fun p => { p with controllers := p.controllers.map (fun c => { c with state := .off }) }) s
def imA (ph : Nat) : Image := ⟨ph, { cc0 with frameCtr := 8, widest := 2, domain := 2, fails := 3 }, false⟩
def imgs (l : List Image) (s : State) : State := { s with images := l }
def av (s : State) (c : Nat) (im : Image) : State := match tryRestore s c im with | .ok v => v | .error v => v
def rec1 := recB 3 (1 * 2^32 + 3072 + 5)
def Pl1 : Part := { Pl with record := rec1 }
def A1 := imgs [imA 5, imA 9] (adm 1000 [Pl1] base)
def xe (e : Word) (q : List Frame) (l : List Wake) : CtxCell :=
  { cc0 with chans := cc0.chans.set 30 ⟨e, q, 0, 0⟩, domain := 2, fails := 3, wakes := l }
def wkd (wk : List Nat) (x : CtxCell) (s : State) : State := wins 7 { pk rec0 with st := .held } (par [Pl,
  P .admitted wk] (cl 5 (fun c => { c with live := true, cc := x }) (free4 s)))
def w0 : Wake := ⟨5, fr 1⟩
def w2 : Wake := ⟨500000, fr 2⟩
def imW (l : List Wake) (e : Word) : Image := ⟨5, xe e [] l, false⟩
def gone5 (s : State) : State := cl 5 (fun c => { c with live := false, cc := CtxCell.blank }) s
def lw (l : List Wake) (e : Word) (s : State) : State := cl 5 (fun x => { x with live := true, cc := xe e [] l }) s
def run (x : CtxCell) (s : State) : State := par [Pl, P .running [],
  Pr .running []] (cl 5 (fun c => { c with live := true, cc := x }) (free4 (ep s)))
def quietC : CtxCell := { cc0 with hod := [], aborts := 20, kills := 30, undeliv := 40 }
def cmq (l : List Part) (w : WinSlot) : State := wins 7 w (run quietC base) |> par l
def wr : WinSlot := ⟨.run, some 5, rec0, 4, []⟩
def pcs : Part := { P (.complete 77 (10, 20, 30)) [] with base := (1, 2, 3), carried := (5, 6, 7), lost := 3 }
def frz3 (s : State) : State := { s with dies := { s.dies with tables := s.dies.tables.map (fun t => { t with freeze := 8 }) } }
def im3 : Image := { imA 5 with spilled := true, cc := { (imA 5).cc with desc := { cc0.desc with spill := 0x3000000000 } } }
def dark (s : State) : State := plt (fun p => { p with portUp := 0 }) s

/-- The hypotheses of Admission hold together. -/
theorem witness_admission :
    (let s : State := (adm 0 [Pl] base)
    let i : Nat := 0
    let p : Part := Pl
    let w : BitVec 512 := W
    let c : Nat := 5
    let r := p.record
    let id : BitVec 16 := BitVec.ofNat 16 (w.toNat / 2 ^ 160 % 2 ^ 16)
    let cells := partCells s p
    let die (c : Nat) : Fin 4 := Fin.ofNat 4 (physOf s c / 256)
    let fits : Prop := ∀ c ∈ cells, ((cellAt s c).live = false ∨ (ccAt s c).desc.ctxid = id) ∧
      s.dies.health[die c].reported = false ∧ (s.plat.controllers[2 + (die c).val]'(by omega)).state = .running
    let cool (k : Fin 24) : Prop := s.plat.islands[k].mw ≠ 0 ∧ 10 * powerOf s k ≤ 9 * s.plat.islands[k].mw.toNat
    let energy : Prop := (∀ c ∈ cells, cool (islandOf s c) ∧ cool (uncoreOf s c)) ∧ cool 20 ∧ cool 21 ∧ cool 22 ∧ cool 23
    let earliest : Prop := (∀ q ∈ s.host.parts, q.stage = .latched → p.order ≤ q.order) ∧
      ∀ e ∈ s.host.slots, e.2.st = .parsed → p.order ≤ e.2.order
    let turn : Prop := s.host.parts[i]? = some p ∧ p.stage = .latched ∧ earliest
    turn ∧ partDescriptor s r = some w ∧ ¬(fits ∧ energy ∧ partHeld s r = false)) ∧
   (let s : State := (adm 1000 [P .running []] base)
    let i : Nat := 0
    let p : Part := (P .running [])
    let earliest : Prop := (∀ q ∈ s.host.parts, q.stage = .latched → p.order ≤ q.order) ∧
      ∀ e ∈ s.host.slots, e.2.st = .parsed → p.order ≤ e.2.order
    s.host.parts[i]? = some p ∧ (p.stage ≠ .latched ∨ ¬earliest)) ∧
   (let s : State := (adm 1000 [Pl] base)
    let i : Nat := 0
    let p : Part := Pl
    let w : BitVec 512 := W
    let hl : Vector Word 32 := HL
    let c : Nat := 9
    let r := p.record
    let id : BitVec 16 := BitVec.ofNat 16 (w.toNat / 2 ^ 160 % 2 ^ 16)
    let cells := partCells s p
    let die (c : Nat) : Fin 4 := Fin.ofNat 4 (physOf s c / 256)
    let fits : Prop := ∀ c ∈ cells, ((cellAt s c).live = false ∨ (ccAt s c).desc.ctxid = id) ∧
      s.dies.health[die c].reported = false ∧ (s.plat.controllers[2 + (die c).val]'(by omega)).state = .running
    let cool (k : Fin 24) : Prop := s.plat.islands[k].mw ≠ 0 ∧ 10 * powerOf s k ≤ 9 * s.plat.islands[k].mw.toNat
    let energy : Prop := (∀ c ∈ cells, cool (islandOf s c) ∧ cool (uncoreOf s c)) ∧ cool 20 ∧ cool 21 ∧ cool 22 ∧ cool 23
    let earliest : Prop := (∀ q ∈ s.host.parts, q.stage = .latched → p.order ≤ q.order) ∧
      ∀ e ∈ s.host.slots, e.2.st = .parsed → p.order ≤ e.2.order
    let turn : Prop := s.host.parts[i]? = some p ∧ p.stage = .latched ∧ earliest
    let saved (c : Nat) : Prop := ∃ y ∈ s.images, y.phys = physOf s c ∧ y.cc.desc.ctxid = id
    let ready : Prop := turn ∧ partDescriptor s r = some w ∧ fits ∧ energy ∧ partHeld s r = false
    ready ∧ readList s w r = some hl ∧ ((∀ e ∈ cells, (cellAt s e).live = false → ¬saved e))) ∧
   (let s : State := (par [Pl] (warm 1000 (withDesc (free4 base))))
    let i : Nat := 0
    let p : Part := Pl
    let w : BitVec 512 := W
    let c : Nat := 5
    let r := p.record
    let id : BitVec 16 := BitVec.ofNat 16 (w.toNat / 2 ^ 160 % 2 ^ 16)
    let cells := partCells s p
    let die (c : Nat) : Fin 4 := Fin.ofNat 4 (physOf s c / 256)
    let fits : Prop := ∀ c ∈ cells, ((cellAt s c).live = false ∨ (ccAt s c).desc.ctxid = id) ∧
      s.dies.health[die c].reported = false ∧ (s.plat.controllers[2 + (die c).val]'(by omega)).state = .running
    let cool (k : Fin 24) : Prop := s.plat.islands[k].mw ≠ 0 ∧ 10 * powerOf s k ≤ 9 * s.plat.islands[k].mw.toNat
    let energy : Prop := (∀ c ∈ cells, cool (islandOf s c) ∧ cool (uncoreOf s c)) ∧ cool 20 ∧ cool 21 ∧ cool 22 ∧ cool 23
    let earliest : Prop := (∀ q ∈ s.host.parts, q.stage = .latched → p.order ≤ q.order) ∧
      ∀ e ∈ s.host.slots, e.2.st = .parsed → p.order ≤ e.2.order
    let turn : Prop := s.host.parts[i]? = some p ∧ p.stage = .latched ∧ earliest
    let ready : Prop := turn ∧ partDescriptor s r = some w ∧ fits ∧ energy ∧ partHeld s r = false
    ready ∧ restoresHeld s id cells = false ∧ readList s w r = none) ∧
   (let s : State := A1
    let i : Nat := 0
    let p : Part := Pl1
    let w : BitVec 512 := W
    let hl : Vector Word 32 := HL
    let c : Nat := 5
    let im : Image := (imA 5)
    let v : State := (av A1 5 (imA 5))
    let r := p.record
    let id : BitVec 16 := BitVec.ofNat 16 (w.toNat / 2 ^ 160 % 2 ^ 16)
    let cells := partCells s p
    let die (c : Nat) : Fin 4 := Fin.ofNat 4 (physOf s c / 256)
    let fits : Prop := ∀ c ∈ cells, ((cellAt s c).live = false ∨ (ccAt s c).desc.ctxid = id) ∧
      s.dies.health[die c].reported = false ∧ (s.plat.controllers[2 + (die c).val]'(by omega)).state = .running
    let cool (k : Fin 24) : Prop := s.plat.islands[k].mw ≠ 0 ∧ 10 * powerOf s k ≤ 9 * s.plat.islands[k].mw.toNat
    let energy : Prop := (∀ c ∈ cells, cool (islandOf s c) ∧ cool (uncoreOf s c)) ∧ cool 20 ∧ cool 21 ∧ cool 22 ∧ cool 23
    let earliest : Prop := (∀ q ∈ s.host.parts, q.stage = .latched → p.order ≤ q.order) ∧
      ∀ e ∈ s.host.slots, e.2.st = .parsed → p.order ≤ e.2.order
    let turn : Prop := s.host.parts[i]? = some p ∧ p.stage = .latched ∧ earliest
    let ready : Prop := turn ∧ partDescriptor s r = some w ∧ fits ∧ energy ∧ partHeld s r = false
    ready ∧ restoresHeld s id cells = false ∧ readList s w r = some hl ∧ cells = [c] ∧ (cellAt s c).live = false ∧
      ownImage s c id = some im ∧ tryRestore s c im = .ok v) ∧
   (let s : State := base
    let i : Nat := 3
    s.host.parts[i]? = none) := by
  refine ⟨?_, ?_, ?_, ?_, ?_, ?_⟩ <;> decide +kernel

/-- The hypotheses of LaunchWakes hold together. -/
theorem witness_launchWakes :
    (let s : State := (gone5 (wkd [] (xe 0xB [] []) base))
    let c : Nat := 5
    let i : Nat := 1
    let p : Part := (P .admitted [])
    let id : BitVec 16 := 5
    let A := cellAt s c
    let x := A.cc
    let d : Fin 4 := Fin.ofNat 4 (physOf s c / 256)
    let floods : Prop := (s.plat.controllers[2 + d.val]'(by omega)).state = .running ∨ s.dies.health[d].reported = true
    let due : Prop := s.host.parts[i]? = some p ∧ p.stage = .admitted ∧ c ∉ p.waked ∧ inPart s p c = true ∧ floods
    let resident : Prop := A.live = true ∧ x.desc.ctxid = id
    let savedAs (y : Image) : Prop := y.phys = physOf s c ∧ y.cc.desc.ctxid = id
    due ∧ (p.ctxid = none ∨ p.ctxid = some id ∧ ¬resident ∧ (∀ y ∈ s.images, ¬savedAs y)) ∧
      ((∀ z ∈ x.wakes, s.stime.toNat < z.start.toNat))) ∧
   (let s : State := (lw [w2, w0, w0] 0x3 base)
    let c : Nat := 5
    let i : Nat := 1
    let w : Wake := w0
    let l1 : List Wake := [w2]
    let l2 : List Wake := [w0]
    let A := cellAt s c
    let x := A.cc
    s.host.parts[i]? = none ∧ x.wakes = l1 ++ w :: l2 ∧ ((∀ z ∈ l1, s.stime.toNat < z.start.toNat)) ∧ w.start.toNat ≤ s.stime.toNat ∧
      A.live = true) ∧
   (let s : State := (imgs [imA 9, imW [] 0xB] (gone5 (wkd [4, 6] (xe 0xB [] []) base)))
    let c : Nat := 5
    let i : Nat := 1
    let p : Part := (P .admitted [4, 6])
    let id : BitVec 16 := 5
    let i1 : List Image := [imA 9]
    let i2 : List Image := []
    let im : Image := (imW [] 0xB)
    let A := cellAt s c
    let x := A.cc
    let d : Fin 4 := Fin.ofNat 4 (physOf s c / 256)
    let floods : Prop := (s.plat.controllers[2 + d.val]'(by omega)).state = .running ∨ s.dies.health[d].reported = true
    let due : Prop := s.host.parts[i]? = some p ∧ p.stage = .admitted ∧ c ∉ p.waked ∧ inPart s p c = true ∧ floods
    let resident : Prop := A.live = true ∧ x.desc.ctxid = id
    let savedAs (y : Image) : Prop := y.phys = physOf s c ∧ y.cc.desc.ctxid = id
    let full (y : CtxCell) : Prop := 8 ≤ y.chans[30].queue.length + y.wakes.length
    due ∧ p.ctxid = some id ∧ ¬resident ∧ s.images = i1 ++ im :: i2 ∧ savedAs im ∧ ((∀ y ∈ i1, ¬savedAs y)) ∧ ¬full im.cc) ∧
   (let s : State := (imgs [imW (List.replicate 8 w0) 0xB] (gone5 (wkd [4, 6] (xe 0xB [] []) base)))
    let c : Nat := 5
    let i : Nat := 1
    let p : Part := (P .admitted [4, 6])
    let id : BitVec 16 := 5
    let i1 : List Image := []
    let i2 : List Image := []
    let im : Image := (imW (List.replicate 8 w0) 0xB)
    let A := cellAt s c
    let x := A.cc
    let d : Fin 4 := Fin.ofNat 4 (physOf s c / 256)
    let floods : Prop := (s.plat.controllers[2 + d.val]'(by omega)).state = .running ∨ s.dies.health[d].reported = true
    let due : Prop := s.host.parts[i]? = some p ∧ p.stage = .admitted ∧ c ∉ p.waked ∧ inPart s p c = true ∧ floods
    let resident : Prop := A.live = true ∧ x.desc.ctxid = id
    let savedAs (y : Image) : Prop := y.phys = physOf s c ∧ y.cc.desc.ctxid = id
    let full (y : CtxCell) : Prop := 8 ≤ y.chans[30].queue.length + y.wakes.length
    due ∧ p.ctxid = some id ∧ ¬resident ∧ s.images = i1 ++ im :: i2 ∧ savedAs im ∧ ((∀ y ∈ i1, ¬savedAs y)) ∧ full im.cc) ∧
   (let s : State := (offC (wkd [] (xe 0xB [] []) base))
    let c : Nat := 5
    let i : Nat := 1
    let p : Part := (P .admitted [])
    let d : Fin 4 := Fin.ofNat 4 (physOf s c / 256)
    let floods : Prop := (s.plat.controllers[2 + d.val]'(by omega)).state = .running ∨ s.dies.health[d].reported = true
    s.host.parts[i]? = some p ∧ (p.stage ≠ .admitted ∨ c ∈ p.waked ∨ inPart s p c = false ∨ ¬floods)) ∧
   (let s : State := (wkd [4, 6] (xe 0xF [] []) base)
    let c : Nat := 5
    let i : Nat := 1
    let p : Part := (P .admitted [4, 6])
    let id : BitVec 16 := 5
    let A := cellAt s c
    let x := A.cc
    let d : Fin 4 := Fin.ofNat 4 (physOf s c / 256)
    let floods : Prop := (s.plat.controllers[2 + d.val]'(by omega)).state = .running ∨ s.dies.health[d].reported = true
    let due : Prop := s.host.parts[i]? = some p ∧ p.stage = .admitted ∧ c ∉ p.waked ∧ inPart s p c = true ∧ floods
    let resident : Prop := A.live = true ∧ x.desc.ctxid = id
    let full (y : CtxCell) : Prop := 8 ≤ y.chans[30].queue.length + y.wakes.length
    due ∧ p.ctxid = some id ∧ resident ∧ ¬full x) ∧
   (let s : State := (wkd [] (xe 0xB [fr 3, fr 3] (List.replicate 6 w0)) base)
    let c : Nat := 5
    let i : Nat := 1
    let p : Part := (P .admitted [])
    let id : BitVec 16 := 5
    let A := cellAt s c
    let x := A.cc
    let d : Fin 4 := Fin.ofNat 4 (physOf s c / 256)
    let floods : Prop := (s.plat.controllers[2 + d.val]'(by omega)).state = .running ∨ s.dies.health[d].reported = true
    let due : Prop := s.host.parts[i]? = some p ∧ p.stage = .admitted ∧ c ∉ p.waked ∧ inPart s p c = true ∧ floods
    let resident : Prop := A.live = true ∧ x.desc.ctxid = id
    let full (y : CtxCell) : Prop := 8 ≤ y.chans[30].queue.length + y.wakes.length
    due ∧ p.ctxid = some id ∧ resident ∧ full x) := by
  refine ⟨?_, ?_, ?_, ?_, ?_, ?_, ?_⟩ <;> decide +kernel

/-- The hypotheses of Completion hold together. -/
theorem witness_completion :
    (let s : State := (cl 40 (fun c => { c with live := true, cc := cc0, steal := .claimed 5 (fr 1) none }) (run quietC base))
    let i : Nat := 1
    let p : Part := (P .running [])
    let reach : Prop := ∃ p : Fin 4, s.plat.portUp.getLsbD p.val = true ∧ s.plat.ethUp.toNat / 16 ^ (p.val % 2) % 16 ≠ 0
    s.host.parts[i]? = some p ∧ (p.stage = .latched ∨ p.stage = .admitted ∨ p.stage = .running) ∧ reach) ∧
   (let s : State := (cmq [Pl, pcs] wr)
    let i : Nat := 1
    let p : Part := pcs
    let e : Word := 77
    let m : Nat × Nat × Nat := (10, 20, 30)
    let reach : Prop := ∃ p : Fin 4, s.plat.portUp.getLsbD p.val = true ∧ s.plat.ethUp.toNat / 16 ^ (p.val % 2) % 16 ≠ 0
    reach ∧ s.host.parts[i]? = some p ∧ p.stage = .complete e m) ∧
   (let s : State := (cmq [] { wr with notices := [2] })
    let i : Nat := 0
    s.host.parts[i]? = none) ∧
   (let s : State := (cmq [{ pcs with stage := .rejected 2 44 }] wr)
    let i : Nat := 0
    let p : Part := { pcs with stage := .rejected 2 44 }
    let e : Word := 44
    let st : BitVec 8 := 2
    let reach : Prop := ∃ p : Fin 4, s.plat.portUp.getLsbD p.val = true ∧ s.plat.ethUp.toNat / 16 ^ (p.val % 2) % 16 ≠ 0
    reach ∧ s.host.parts[i]? = some p ∧ p.stage = .rejected st e) ∧
   (let s : State := (dark (cmq [pcs] wr))
    let p : Part := pcs
    let reach : Prop := ∃ p : Fin 4, s.plat.portUp.getLsbD p.val = true ∧ s.plat.ethUp.toNat / 16 ^ (p.val % 2) % 16 ≠ 0
    ¬reach) := by
  refine ⟨?_, ?_, ?_, ?_, ?_⟩ <;> decide +kernel

/-- The hypotheses of Admission hold together: clause 3. -/
theorem witness_admission_clause3 :
    let s : State := (par [Pl] (warm 1000 (tabs (putB 0x8000 1 1 (free4 base)))))
    let i : Nat := 0
    let p : Part := Pl
    let r := p.record
    let earliest : Prop := (∀ q ∈ s.host.parts, q.stage = .latched → p.order ≤ q.order) ∧
      ∀ e ∈ s.host.slots, e.2.st = .parsed → p.order ≤ e.2.order
    let turn : Prop := s.host.parts[i]? = some p ∧ p.stage = .latched ∧ earliest
    turn ∧ partDescriptor s r = none := by
  decide +kernel

/-- The hypotheses of Admission hold together: clause 5. -/
theorem witness_admission_clause5 :
    let s : State := (frz3 (imgs [im3] (adm 1000 [Pl1] base)))
    let i : Nat := 0
    let p : Part := Pl1
    let w : BitVec 512 := W
    let c : Nat := 5
    let r := p.record
    let id : BitVec 16 := BitVec.ofNat 16 (w.toNat / 2 ^ 160 % 2 ^ 16)
    let cells := partCells s p
    let die (c : Nat) : Fin 4 := Fin.ofNat 4 (physOf s c / 256)
    let fits : Prop := ∀ c ∈ cells, ((cellAt s c).live = false ∨ (ccAt s c).desc.ctxid = id) ∧
      s.dies.health[die c].reported = false ∧ (s.plat.controllers[2 + (die c).val]'(by omega)).state = .running
    let cool (k : Fin 24) : Prop := s.plat.islands[k].mw ≠ 0 ∧ 10 * powerOf s k ≤ 9 * s.plat.islands[k].mw.toNat
    let energy : Prop := (∀ c ∈ cells, cool (islandOf s c) ∧ cool (uncoreOf s c)) ∧ cool 20 ∧ cool 21 ∧ cool 22 ∧ cool 23
    let earliest : Prop := (∀ q ∈ s.host.parts, q.stage = .latched → p.order ≤ q.order) ∧
      ∀ e ∈ s.host.slots, e.2.st = .parsed → p.order ≤ e.2.order
    let turn : Prop := s.host.parts[i]? = some p ∧ p.stage = .latched ∧ earliest
    let ready : Prop := turn ∧ partDescriptor s r = some w ∧ fits ∧ energy ∧ partHeld s r = false
    ready ∧ restoresHeld s id cells = true := by
  decide +kernel

/-- The hypotheses of Completion hold together: clause 1. -/
theorem witness_completion_clause1 :
    let s : State := (run quietC base)
    let i : Nat := 1
    let p : Part := (P .running [])
    let id : BitVec 16 := 5
    let m : Nat × Nat × Nat := (0, 0, 0)
    let quiet (y : CtxCell) : Prop := y.hod = [] ∧ y.ringCount = 0 ∧ y.wakes = [] ∧ (∀ k : Fin 32, k ≠ 31 → y.chans[k].queue = []) ∧
      (∀ k : Fin 2, y.cch[k].queue = []) ∧ y.mxu.queue = []
    let still (q : Part) : Prop := ∀ c ∈ partCells s q,
      ((cellAt s c).live = true → (ccAt s c).desc.ctxid = id → (∀ k, (slotAt s c k).run = .free) ∧ (cellAt s c).installs = [] ∧
        (∀ v f via, (cellAt s c).steal ≠ .claimed v f via) ∧ quiet (ccAt s c) ∧ inFlight s c = 0) ∧
      ∀ im ∈ s.images, im.phys = physOf s c → im.cc.desc.ctxid = id → quiet im.cc
    let silent : Prop :=
      (∀ q ∈ s.host.parts, q.stage = .admitted ∨ q.stage = .running → q.ctxid = some id → q.stage = .running ∧ still q) ∧
      (∀ y ∈ s.cells, (∀ m ∈ y.2.port, m.ctxid ≠ id) ∧
        (y.2.live = true → y.2.cc.desc.ctxid = id → y.2.installs = [] ∧ ∀ v f via, y.2.steal ≠ .claimed v f via))
    s.host.parts[i]? = some p ∧ p.stage = .running ∧ p.ctxid = some id ∧ silent := by
  refine ⟨by decide +kernel, by decide +kernel, by decide +kernel, ?_, ?_⟩
  · refine List.forall_mem_cons.mpr ⟨fun h => absurd h (by decide +kernel), List.forall_mem_cons.mpr ⟨fun _ _ =>
      ⟨by decide +kernel, ?_⟩, List.forall_mem_cons.mpr ⟨fun _ _ => ⟨by decide +kernel, ?_⟩, fun _ h => (nomatch h)⟩⟩⟩
    all_goals
      refine List.forall_mem_cons.mpr ⟨?_, List.forall_mem_cons.mpr ⟨?_, List.forall_mem_cons.mpr ⟨?_, fun _ h => (nomatch h)⟩⟩⟩
      all_goals exact ⟨fun _ _ => ⟨by decide +kernel, by decide +kernel, not_claimed (by decide +kernel), by decide +kernel,
        by decide +kernel⟩, fun _ h => (nomatch h)⟩
  · exact List.forall_mem_cons.mpr ⟨⟨fun _ h => (nomatch h), fun _ _ => ⟨by decide +kernel, not_claimed (by decide +kernel)⟩⟩,
      fun _ h => (nomatch h)⟩

/-- The hypotheses of Completion hold together: clause 2. -/
theorem witness_completion_clause2 :
    let s : State := (par [P .admitted [], P .latched []] (run quietC base))
    let i : Nat := 1
    let p : Part := (P .latched [])
    let id : BitVec 16 := 5
    let m : Nat × Nat × Nat := (0, 0, 0)
    let quiet (y : CtxCell) : Prop := y.hod = [] ∧ y.ringCount = 0 ∧ y.wakes = [] ∧ (∀ k : Fin 32, k ≠ 31 → y.chans[k].queue = []) ∧
      (∀ k : Fin 2, y.cch[k].queue = []) ∧ y.mxu.queue = []
    let still (q : Part) : Prop := ∀ c ∈ partCells s q,
      ((cellAt s c).live = true → (ccAt s c).desc.ctxid = id → (∀ k, (slotAt s c k).run = .free) ∧ (cellAt s c).installs = [] ∧
        (∀ v f via, (cellAt s c).steal ≠ .claimed v f via) ∧ quiet (ccAt s c) ∧ inFlight s c = 0) ∧
      ∀ im ∈ s.images, im.phys = physOf s c → im.cc.desc.ctxid = id → quiet im.cc
    let silent : Prop :=
      (∀ q ∈ s.host.parts, q.stage = .admitted ∨ q.stage = .running → q.ctxid = some id → q.stage = .running ∧ still q) ∧
      (∀ y ∈ s.cells, (∀ m ∈ y.2.port, m.ctxid ≠ id) ∧
        (y.2.live = true → y.2.cc.desc.ctxid = id → y.2.installs = [] ∧ ∀ v f via, y.2.steal ≠ .claimed v f via))
    s.host.parts[i]? = some p ∧ (p.stage ≠ .running ∨ p.ctxid = none ∨ p.ctxid = some id ∧
      ¬silent) := ⟨by decide +kernel, Or.inl (by decide +kernel)⟩

end Launch

namespace Platform

def cl (n : Nat) (f : Cell → Cell) (s : State) : State := putCell s n (f (cellAt s n))
def plt (f : Platform → Platform) (s : State) : State := { s with plat := f s.plat }
def hh (d : Fin 4) (x : DieHealth) (s : State) : State := { s with dies := { s.dies with health := s.dies.health.set d x } }
def base := { st with slots := [], stime := 5000000 }
def isl (n : Fin 24) (f : Island → Island) := plt (fun p => { p with islands := p.islands.set n (f p.islands[n]) })
def P0 (a : Bool) (b : Option Nat) (mw : BitVec 32) (uj : Word) : Island → Island :=
  fun i => { i with alarm := a, below := b, mw := mw, uj := uj, readings := [(4500000, 100), (3900000, 50), (10, 5)] }
def mxr (q : List MxCmd) (nr : Bool) (s : State) : State :=
  cl 0 (fun x => { x with live := true, cc := { cc0 with mxu := { cc0.mxu with queue := q, narrow := nr } } }) s
def im (t k : BitVec 8) (v h m : BitVec 32) : SignedImage := ⟨t, k, v, 5, h, m, 0, 0, []⟩
def rs : State := State.reset
def tg (s : State) : State := plt (fun p => { p with tierGiB := #v[1, 384, 0, 0, 0, 0, 0, 2] }) s
def bu (a b : SignedImage) (bud : BitVec 32) : BringUp := ⟨[5, 7, 5, 3000, 6], #v[1, 3, 7, 0xFFFFFFFFFFFFFFFF], 0xFFF, 2, #v[3, 0, 0,
  0], a, b, Vector.ofFn (fun i => (BitVec.ofNat 32 i.val, 1, 2)), 9, Vector.replicate 24 bud, [(4, 40), (5000, 3), (4, 41)], [(9, 1,
  2), (70000, 5, 6)], [(1, 0, 64)], #v[1, 384, 400, 0, 0, 0, 0, 1], 777⟩
def okI := im 1 0 5 1 1
def cv (v h m : BitVec 32) : ImageVer := ⟨v, h, m⟩
def ctl (c : Fin 26) (f : Controller → Controller) := plt (fun p => { p with controllers := p.controllers.set c (f p.controllers[c]) })
def upd (u : Update) := plt (fun p => { p with update := some u })
def rpu (d : Fin 4) (s : State) : State := hh d ⟨0, true, false⟩ s
def U (t : CtrlType) (n : Option (Fin 26)) (l : List (Fin 26)) (d : Nat) (sk : Bool) : Update := ⟨t, cv 8 2 1, n, l, d, sk⟩
def I8 (t : BitVec 8) := im t 0 8 2 1
def sn (c : Fin 26) (n : Nat) (r : Option HandRecord) := ctl c (fun x => { x with state := .starting n, record := r })
def rq1 (l : List DispatchReq) (s : State) : State := { s with host := { s.host with requests := l } }
def liv (s : State) : State := cl 4 (fun x => { x with live := true, cc := { x.cc with desc := { x.cc.desc with ctxid := 5 } } }) s
def hb (n : Nat) (s : State) : State := plt (fun p => { p with heartbeat := n }) s
def A (s : State) (img : SignedImage) (u : Update) (c f : Fin 26) (n : Nat) (ty : CtrlType) (v : BitVec 32) (pre rest : List (Fin 26)) (d : Fin 4) := 0
def PY : Cell := { cell0 with live := true, preempt := some 5, cc := { cc0 with desc := { cc0.desc with ctxid := 5 } } }
def PRE : State := { base with cells := [(4, PY)], host := { base.host with requests := [] } }

/-- The hypotheses of EnergyAndTime hold together. -/
theorem witness_energyAndTime :
    (let s : State := (hh 1 ⟨0, true, false⟩ base)
    let i : Fin 24 := 6
    let n : Nat := 115
    let ns : Word := 0
    let d : Fin 4 := 1
    let r1 : List (Nat × Nat) := []
    let r2 : List (Nat × Nat) := []
    let e : Nat × Nat := (0, 0)
    let x := s.plat.islands[i]
    let now := s.stime.toNat
    let hot : Prop := x.mw.toNat < powerOf s i ∨ 105 ≤ n
    let cut := s.plat.islands.set i { x with cut := true }
    (s.plat.ethUp = 0 ∨ ns.toNat < now) ∧ x.readings = r1 ++ e :: r2 ∧ ((∀ y ∈ r1, now < y.1 + 1000000)) ∧ e.1 + 1000000 ≤ now ∧
       x.cut = false ∧ hot ∧ x.alarm = false ∧ 115 ≤ n ∧ i.val / 5 = d.val ∧ s.dies.health[d].reported = true) ∧
   (let s : State := (isl 0 (P0 true (some 4000001) 100 145) base)
    let i : Fin 24 := 0
    let n : Nat := 100
    let x := s.plat.islands[i]
    let hot : Prop := x.mw.toNat < powerOf s i ∨ 105 ≤ n
    let cool : Prop := 100 * powerOf s i ≤ 95 * x.mw.toNat ∧ n < 100
    ¬hot ∧ x.alarm = true ∧ ¬cool ∧ n < 115) ∧
   (let s : State := (isl 0 (P0 true (some 4000001) 100 145) base)
    let i : Fin 24 := 0
    let n : Nat := 99
    let t : Nat := 4000001
    let x := s.plat.islands[i]
    let now := s.stime.toNat
    let cool : Prop := 100 * powerOf s i ≤ 95 * x.mw.toNat ∧ n < 100
    x.alarm = true ∧ cool ∧ x.below = some t ∧ now < t + 1000000) ∧
   (let s : State := (isl 0 (P0 true none 100 145) base)
    let i : Fin 24 := 0
    let n : Nat := 99
    let x := s.plat.islands[i]
    let cool : Prop := 100 * powerOf s i ≤ 95 * x.mw.toNat ∧ n < 100
    x.alarm = true ∧ cool ∧ x.below = none) ∧
   (let s : State := (isl 6 (fun i => { i with cut := true }) base)
    let i : Fin 24 := 6
    let x := s.plat.islands[i]
    let cut := s.plat.islands.set i { x with cut := true }
    x.cut = true) ∧
   (let s : State := (isl 6 (fun i => { i with readings := [(4500000, 100), (4400000, 7)], uj := 200 }) base)
    let i : Fin 24 := 6
    let r1 : List (Nat × Nat) := [(4500000, 100)]
    let e : Nat × Nat := (4400000, 7)
    let x := s.plat.islands[i]
    let now := s.stime.toNat
    x.readings = r1 ++ [e] ∧ ((∀ y ∈ r1 ++ [e], now < y.1 + 1000000))) ∧
   (let s : State := (mxr [] true (isl 0 (P0 true (some 4000000) 100 145) base))
    let i : Fin 24 := 0
    let n : Nat := 99
    let t : Nat := 4000000
    let x := s.plat.islands[i]
    let now := s.stime.toNat
    let cool : Prop := 100 * powerOf s i ≤ 95 * x.mw.toNat ∧ n < 100
    x.alarm = true ∧ cool ∧ x.below = some t ∧ t + 1000000 ≤ now) ∧
   (let i : Fin 24 := 20
    let n : Nat := 118
    115 ≤ n ∧ (i.val = 20 ∨ i.val = 22)) ∧
   (let i : Fin 24 := 21
    let n : Nat := 118
    115 ≤ n ∧ (i.val = 21 ∨ i.val = 23)) ∧
   (let s : State := base
    let ns : Word := 5000001
    let now := s.stime.toNat
    s.plat.ethUp ≠ 0 ∧ now ≤ ns.toNat) ∧
   (let s : State := base
    let i : Fin 24 := 3
    let n : Nat := 115
    let d : Fin 4 := 0
    115 ≤ n ∧ i.val / 5 = d.val ∧ s.dies.health[d].reported = false) := by
  refine ⟨?_, ?_, ?_, ?_, ?_, ?_, ?_, ?_, ?_, ?_, ?_⟩ <;> decide +kernel

/-- The hypotheses of PowerUp hold together. -/
theorem witness_powerUp :
    (let s : State := (tg base)
    let b : Sys2Proof.BringUp := (bu okI okI 150000)
    let n : Nat := 0x3FFFFFFF
    let p := s.plat
    let passes (img : SignedImage) : Prop := img.type = 1 ∧ img.key.toNat < 4 ∧ b.revoked.getLsbD img.key.toNat = false ∧
      Config.signatureOk img = true ∧ b.floors[0].toNat ≤ img.version.toNat ∧ img.reserved = 0
    let power : Prop := (b.budgets.toList.map BitVec.toNat).sum ≤ 3600000
    (p.brought = true ∨ (¬passes b.imageA ∧ ¬passes b.imageB) ∨ ¬power) ∧ n < 0x6000000000) ∧
   (let n : Nat := (8 * 0x6000000000)
    0x6000000000 * 8 ≤ n) := by
  refine ⟨?_, ?_⟩ <;> decide +kernel

/-- The hypotheses of Firmware hold together. -/
theorem witness_firmware :
    (let s : State := (ctl 0 (fun x => { x with image := cv 9 9 9 }) (sn 1 5000000 none (upd (U .coronaip (some 1) [0] 0 false) base)))
    let img : SignedImage := (I8 1)
    let u : Update := (U .coronaip (some 1) [0] 0 false)
    let c : Fin 26 := 1
    let n : Nat := 5000000
    let ty : CtrlType := .coronaip
    let a : Nat := 4
    let p := s.plat
    let no (t : CtrlType) : Nat := (match t with
      | .coronaip => 1 | .dispatcher => 2 | .baseDie => 3 | .lath => 4)
    let ix (t : CtrlType) : Fin 4 := (match t with
      | .coronaip => 0 | .dispatcher => 1 | .baseDie => 2 | .lath => 3)
    let sound (t : CtrlType) : Prop := img.key.toNat < 4 ∧ p.revoked.getLsbD img.key.toNat = false ∧ Config.signatureOk img = true ∧
      p.floors[ix t].toNat ≤ img.version.toNat ∧ img.reserved = 0
    let x := p.controllers[c]
    let calm : Prop := ∀ e, (cellAt s e).preempt = none
    let a := p.activeCoronaip
    let b : Fin 2 := a + 1
    let B : Fin 26 := Fin.ofNat 26 b.val
    (p.brought = false ∨ p.update ≠ none ∨ (∀ t, img.type.toNat = no t → ¬sound t)) ∧ p.update = some u ∧ u.next = some c ∧
       x.state = .starting n ∧ n ≤ s.stime.toNat ∧ s.stime.toNat ≤ n ∧ s.host.requests = [] ∧ calm ∧ (p.controllers[B].state = .off ∨
       p.heartbeat < 3000000) ∧ p.updated[ix ty] = none) ∧
   (let s : State := (liv (rq1 [.preempt 4 5] base))
    let u : Update := (U .coronaip none [] 0 false)
    let a : Nat := 4
    let id : BitVec 16 := 5
    let p := s.plat
    let calm : Prop := ∀ e, (cellAt s e).preempt = none
    let up : Prop := (p.controllers[2 + (Fin.ofNat 4 (physOf s a / 256)).val]).state = .running
    (p.update.bind (fun u => u.next) = none) ∧ s.host.requests = [.preempt a id] ∧ calm ∧ up) ∧
   (let s : State := (rpu 1 (upd (U .dispatcher (some 2) [3, 4] 0 false) base))
    let u : Update := (U .dispatcher (some 2) [3, 4] 0 false)
    let c : Fin 26 := 2
    let d : Fin 4 := 1
    let p := s.plat
    let x := p.controllers[c]
    p.update = some u ∧ u.next = some c ∧ (x.state = .running ∨ x.state = .off) ∧ s.dies.health[d].reported = true ∧
      s.dies.health[d].confirmed = false ∧ u.next ≠ none) ∧
   (let s : State := (hb 3000000 (upd (U .coronaip (some 0) [] 1 false) base))
    let a : Nat := 4
    let p := s.plat
    let a := p.activeCoronaip
    let b : Fin 2 := a + 1
    let B : Fin 26 := Fin.ofNat 26 b.val
    p.controllers[B].state ≠ .off ∧ 3000000 ≤ p.heartbeat) ∧
   (let s : State := (liv (rq1 [.preempt 4 5, .restore 4 5 4] (sn 2 5000001 none (upd (U .dispatcher (some 2) [3] 0 false) base))))
    let u : Update := (U .dispatcher (some 2) [3] 0 false)
    let c : Fin 26 := 2
    let n : Nat := 5000001
    let p := s.plat
    let x := p.controllers[c]
    p.update = some u ∧ u.next = some c ∧ x.state = .starting n ∧ s.stime.toNat < n) ∧
   (let s : State := (plt (fun p => { p with updated := #v[none, some 5, some 2, none], floors := #v[1, 2, 3, 4] }) base)
    let ty : CtrlType := .baseDie
    let v : BitVec 32 := 2
    let p := s.plat
    let ix (t : CtrlType) : Fin 4 := (match t with
      | .coronaip => 0 | .dispatcher => 1 | .baseDie => 2 | .lath => 3)
    p.updated[ix ty] = some v) ∧
   (let s : State := (rpu 1 (upd (U .dispatcher none [3, 4] 0 false) base))
    let u : Update := (U .dispatcher none [3, 4] 0 false)
    let d : Fin 4 := 1
    let p := s.plat
    s.dies.health[d].reported = true ∧ s.dies.health[d].confirmed = false ∧ p.update = some u ∧ u.next = none) ∧
   (let s : State := (rq1 [.restore 4 5 4] base)
    let a : Nat := 4
    let ph : Nat := 4
    let id : BitVec 16 := 5
    let p := s.plat
    let calm : Prop := ∀ e, (cellAt s e).preempt = none
    let up : Prop := (p.controllers[2 + (Fin.ofNat 4 (physOf s a / 256)).val]).state = .running
    s.host.requests = [.restore a id ph] ∧ calm ∧ up) ∧
   (let s : State := (sn 1 4999999 none (upd (U .coronaip (some 1) [0] 0 false) base))
    let u : Update := (U .coronaip (some 1) [0] 0 false)
    let c : Fin 26 := 1
    let n : Nat := 4999999
    let p := s.plat
    let x := p.controllers[c]
    p.update = some u ∧ u.next = some c ∧ x.state = .starting n ∧ n < s.stime.toNat) ∧
   (let s : State := (sn 2 5000001 none (rq1 [.restore 4 5 4] base))
    let a : Nat := 4
    let ph : Nat := 4
    let id : BitVec 16 := 5
    let p := s.plat
    let calm : Prop := ∀ e, (cellAt s e).preempt = none
    let up : Prop := (p.controllers[2 + (Fin.ofNat 4 (physOf s a / 256)).val]).state = .running
    s.host.requests = [.restore a id ph] ∧ calm ∧ ¬up) ∧
   (let s : State := PRE
    let a : Nat := 4
    let id : BitVec 16 := 5
    let y : Cell := PY
    let p := s.plat
    let up : Prop := (p.controllers[2 + (Fin.ofNat 4 (physOf s a / 256)).val]).state = .running
    s.host.requests = [] ∧ s.cells = [(a, y)] ∧ y.preempt = some id ∧ y.live = true ∧ y.cc.desc.ctxid = id ∧
      ((∀ k, (slotAt s a k).run = .free)) ∧ up) ∧
   (let s : State := { (hb 2999999 base) with agenda := [.heartbeat, .heartbeat] }
    let a : Nat := 4
    let l : List Turn := [.heartbeat]
    let p := s.plat
    let a := p.activeCoronaip
    let A : Fin 26 := Fin.ofNat 26 a.val
    s.agenda = .heartbeat :: l ∧ p.controllers[A].state = .running) := by
  refine ⟨?_, ?_, ?_, ?_, ?_, ?_, ?_, ?_, ?_, ?_, ?_, ?_⟩
  · refine ⟨?_, by decide +kernel, by decide +kernel, by decide +kernel, by decide +kernel, by decide +kernel, by decide +kernel, ?_,
    by decide +kernel, by decide +kernel⟩
    · exact Or.inr (Or.inl (by decide +kernel))
    · exact listed_of (P := fun (x : Cell) => x.preempt = none) rfl (by decide +kernel)
  · refine ⟨by decide +kernel, by decide +kernel, ?_, by decide +kernel⟩
    exact listed_of (P := fun (x : Cell) => x.preempt = none) rfl (by decide +kernel)
  · decide +kernel
  · decide +kernel
  · decide +kernel
  · decide +kernel
  · decide +kernel
  · refine ⟨by decide +kernel, ?_, by decide +kernel⟩
    exact listed_of (P := fun (x : Cell) => x.preempt = none) rfl (by decide +kernel)
  · decide +kernel
  · refine ⟨by decide +kernel, ?_, by decide +kernel⟩
    exact listed_of (P := fun (x : Cell) => x.preempt = none) rfl (by decide +kernel)
  · decide +kernel
  · decide +kernel

/-- The hypotheses of Firmware hold together: clause 2. -/
theorem witness_firmware_clause2 (hs : Config.signatureOk (I8 1) = true):
    let s : State := base
    let img : SignedImage := (I8 1)
    let ty : CtrlType := .coronaip
    let p := s.plat
    let no (t : CtrlType) : Nat := (match t with
      | .coronaip => 1 | .dispatcher => 2 | .baseDie => 3 | .lath => 4)
    let ix (t : CtrlType) : Fin 4 := (match t with
      | .coronaip => 0 | .dispatcher => 1 | .baseDie => 2 | .lath => 3)
    let sound (t : CtrlType) : Prop := img.key.toNat < 4 ∧ p.revoked.getLsbD img.key.toNat = false ∧ Config.signatureOk img = true ∧
      p.floors[ix t].toNat ≤ img.version.toNat ∧ img.reserved = 0
    p.brought = true ∧ p.update = none ∧ img.type.toNat = no ty ∧
      sound ty := ⟨by decide +kernel, by decide +kernel, by decide +kernel, by decide +kernel, by decide +kernel, hs,
      by decide +kernel, by decide +kernel⟩

/-- The hypotheses of Firmware hold together: clause 12. -/
theorem witness_firmware_clause12 :
    let s : State := (sn 2 5000001 none (rq1 [.preempt 4 5] base))
    let a : Nat := 4
    let id : BitVec 16 := 5
    let p := s.plat
    let calm : Prop := ∀ e, (cellAt s e).preempt = none
    let up : Prop := (p.controllers[2 + (Fin.ofNat 4 (physOf s a / 256)).val]).state = .running
    s.host.requests = [.preempt a id] ∧ calm ∧ ¬up := by
  refine ⟨by decide +kernel, ?_, by decide +kernel⟩
  exact listed_of (P := fun (x : Cell) => x.preempt = none) rfl (by decide +kernel)

/-- The hypotheses of PowerUp hold together: clause 2. -/
theorem witness_powerUp_clause2 (hs : Config.signatureOk okI = true):
    let s : State := rs
    let b : Sys2Proof.BringUp := (bu okI okI 150000)
    let p := s.plat
    let passes (img : SignedImage) : Prop := img.type = 1 ∧ img.key.toNat < 4 ∧ b.revoked.getLsbD img.key.toNat = false ∧
      Config.signatureOk img = true ∧ b.floors[0].toNat ≤ img.version.toNat ∧ img.reserved = 0
    let power : Prop := (b.budgets.toList.map BitVec.toNat).sum ≤ 3600000
    p.brought = false ∧ (passes b.imageA ∨ passes b.imageB) ∧ power := ⟨by decide +kernel, Or.inl ⟨by decide +kernel,
      by decide +kernel, by decide +kernel, hs, by decide +kernel, by decide +kernel⟩, by decide +kernel⟩

end Platform

namespace Messages

def act (l : Fin 3) (b : BitVec 32) (r : SlotRun) (lim : Vector Nat 2) (k : Fin 4) (s : State) : State :=
  { s with slots := tabSet s.slots k.val { slot0 with level := l, sbudget := b, run := r, limit := lim, ip := 99 } }
def fh (p : Nat) (k : Nat) : Frame := (fr k).set 0 (BitVec.ofNat 64 ((17 + k) * 2^32 + 1 * 2^28 + p * 2^26 + 12345 + k))
def free0 (s : State) : State := { s with slots := [] }
def chan (c : Fin 32) (e : Nat) (q : List Frame) (p r : Nat) :=
  upC (fun x => { x with chans := x.chans.set c ⟨BitVec.ofNat 64 e, q, p, r⟩ })
def cl (n : Nat) (f : Cell → Cell) (s : State) : State := putCell s n (f (cellAt s n))
def prt (l : List OutMsg) (s : State) : State := cl 4 (fun x => { x with live := true, cc := cc0, port := l }) s
def dst (n : Nat) (q : List Frame) (e : Nat) (s : State) : State :=
  cl n (fun x => { x with live := true, cc := { cc0 with fails := 3, chans := cc0.chans.set 7 ⟨BitVec.ofNat 64 e, q, 1, 0⟩ } }) s
def base := free0 st
def pm (l : List OutMsg) := prt l (dst 5 [fh 1 1] 0x500000008 base)
def ps (l : List PsvcMsg) (s : State) : State := { s with scrim := { s.scrim with psvcs := l } }
def rc (n : Nat) (f : Cell → Cell) (s : State) : State := cl n (fun x => f { x with live := true, cc := { cc0 with domain := 1 } }) s
def img (ph : Nat) (sy : Bool) (sp : Bool) : Image := ⟨ph,
  { cc0 with frameCtr := 8, desc := { cc0.desc with sys := sy }, barriers := [], mxu := { cc0.mxu with paused := some 2 }, cch := cc0.cch.set 1 ⟨4, [], true, false⟩ }, sp⟩
def pres : State := { (free0 st) with cells := [] }
def ims (l : List Image) (s : State) : State := { s with images := l }
def om2 (fl : Nat) (c : Fin 32) (id : BitVec 16) (z : PortState) (b : Nat) (v : Transit) : OutMsg := ⟨BitVec.ofNat 22 fl, c, id,
  fh 1 4, z, b, v⟩
def y0 : Image := img 4 false false
def yi (ph : Nat) (id : BitVec 16) (q : List Frame) : Image := ⟨ph,
  { cc0 with desc := { cc0.desc with ctxid := id }, chans := cc0.chans.set 7 ⟨8, q, 1, 0⟩ }, false⟩
def e5 := 3 * 1024 + 5
def m0 := om2 e5 7 5 .queued 32 none
def m6 := om2 e5 7 6 .queued 32 none
def ctx6 (c : Nat) (s : State) : State :=
  cl c (fun x => { x with live := true, cc := { x.cc with desc := { x.cc.desc with ctxid := 6 } } }) s
def far (s : State) : State := cl 300 (fun x => { x with live := true, cc := cc0 }) s
def mF := om2 (3 * 1024 + 300) 7 5 .queued 32 none
def mN := om2 (2 * 1024 + 5) 7 5 .queued 32 none
def peer (u : BitVec 4) (e : BitVec 8) (s : State) : State :=
  { s with host := { s.host with peers := [(2, 0x77)] }, plat := { s.plat with portUp := u, ethUp := e } }
def w1 : PsvcMsg := ⟨1, 5, 7, 5, fh 1 2, .queued, 32, none⟩
def w2 : PsvcMsg := ⟨1, 5, 7, 5, fh 1 2, .waiting 0, 64, none⟩
def w4 : PsvcMsg := ⟨1, 5, 7, 9, fh 1 2, .queued, 32, none⟩
def cm2 (s : State) : State :=
  cl 4 (fun x => { x with live := true, committing := some 2, cc := { cc0 with frameCtr := 0x3FFFFF } }) { s with slots := [(18, { slot0 with run := .commit, release := [.send (BitVec.ofNat 22 (3 * 1024 + 300)) 7 (fh 1 4)], source := .channel 3, level := 0 })] }
def frz3 (s : State) : State := { s with dies := { s.dies with tables := s.dies.tables.map (fun t => { t with freeze := 8 }) } }
def far3 : Image := { img 4 false true with cc := { (img 4 false true).cc with desc := { cc0.desc with spill := 0x3000000000 } } }
def ring3 : Image :=
  { img 4 false false with cc := { (img 4 false false).cc with sspill := 0x20005, desc := { cc0.desc with sys := true, root := 0x3000010000 } } }
def jam3 : Image :=
  { img 4 false false with cc := { (img 4 false false).cc with desc := { cc0.desc with ctxid := 9, spill := 0x3000000000 } } }

/-- The hypotheses of MessageDelivery hold together. -/
theorem witness_messageDelivery :
    (let s : State := (peer 1 0x10 (pm [mN]))
    let a : Nat := 4
    let e : Nat := 2053
    let i : Nat := 0
    let ch : Fin 32 := 7
    let m : OutMsg := mN
    let fabric : Word := 0x77
    let A := cellAt s a
    let here := physOf s a / 256
    let h0 := Fin.ofNat 4 here
    let way (p : Fin 4) : Bool := s.plat.portUp.getLsbD p.val && s.plat.ethUp.toNat / 16 ^ (p.val % 2) % 16 != 0
    let aside (b : Bool) : Bool := s.dies.links[linkOut h0 b].up && way (linkTo (linkOut h0 b))
    let local_ : Prop := e / 1024 = s.plat.pkg.toNat
    let first : Prop := A.port[i]? = some m ∧ m.flat.toNat = e ∧ m.chan = ch ∧
      ∀ j m', j < i → A.port[j]? = some m' → ¬(m'.flat.toNat = e ∧ m'.chan = ch)
    let queued (x : CtxCell) (ch : Fin 32) (f : Frame) : CtxCell :=
      { x with chans := x.chans.set ch { x.chans[ch] with queue := x.chans[ch].queue ++ [f] } }
    let reaches : Prop := way h0 = true ∨ aside true = true ∨ aside false = true
    let heard : Prop := ∃ p, way p = true
    first ∧ m.state = .queued ∧ ¬local_ ∧ tabFind s.host.peers (e / 1024) = some fabric ∧ (arrived s m.via = false ∨ ¬reaches) ∧ ¬heard) ∧
   (let s : State :=
        (cl 300 (fun x => { x with live := true, cc := { cc0 with chans := cc0.chans.set 7 ⟨8, List.replicate 8 (fh 1 1), 1, 0⟩ } }) (pm [mF]))
    let a : Nat := 4
    let e : Nat := 3372
    let i : Nat := 0
    let ch : Fin 32 := 7
    let m : OutMsg := mF
    let y : Image := y0
    let xs : List Image := []
    let zs : List Image := []
    let A := cellAt s a
    let d := e % 1024
    let way (p : Fin 4) : Bool := s.plat.portUp.getLsbD p.val && s.plat.ethUp.toNat / 16 ^ (p.val % 2) % 16 != 0
    let local_ : Prop := e / 1024 = s.plat.pkg.toNat
    let first : Prop := A.port[i]? = some m ∧ m.flat.toNat = e ∧ m.chan = ch ∧
      ∀ j m', j < i → A.port[j]? = some m' → ¬(m'.flat.toNat = e ∧ m'.chan = ch)
    let up (c : Nat) : Prop := c < cellCount s ∧ dieGone s (physOf s c / 256) = false
    let resident (c : Nat) (id : BitVec 16) : Prop := (cellAt s c).live = true ∧ (ccAt s c).desc.ctxid = id
    let imageOf (c : Nat) (id : BitVec 16) (z : Image) : Prop := z.phys = physOf s c ∧ z.cc.desc.ctxid = id
    let saved (c : Nat) (id : BitVec 16) : Prop := ¬resident c id ∧ s.images = xs ++ y :: zs ∧ imageOf c id y ∧ ∀ z ∈ xs, ¬imageOf c id z
    let nowhere (c : Nat) (id : BitVec 16) : Prop := cellCount s ≤ c ∨ up c ∧ ¬resident c id ∧ ∀ z ∈ s.images, ¬imageOf c id z
    let queued (x : CtxCell) (ch : Fin 32) (f : Frame) : CtxCell :=
      { x with chans := x.chans.set ch { x.chans[ch] with queue := x.chans[ch].queue ++ [f] } }
    let room (x : CtxCell) (ch : Fin 32) : Prop := x.chans[ch].queue.length < 8
    let refuses : Prop := d < cellCount s ∧
      (dieGone s (physOf s d / 256) = true ∨ resident d m.ctxid ∧ ¬room (ccAt s d) ch ∨ saved d m.ctxid ∧ ¬room y.cc ch)
    let heard : Prop := ∃ p, way p = true
    first ∧ m.state = .queued ∧ local_ ∧ arrived s m.via = true ∧ refuses ∧ heard ∧ ch.val < 30 ∧ (refuses ∨ nowhere d m.ctxid)) ∧
   (let s : State := (far (pm [om2 (3072 + 300) 7 5 .queued 32 (some (1, 0))]))
    let a : Nat := 4
    let e : Nat := 3372
    let i : Nat := 0
    let ch : Fin 32 := 7
    let m : OutMsg := (om2 (3072 + 300) 7 5 .queued 32 (some (1, 0)))
    let A := cellAt s a
    let d := e % 1024
    let way (p : Fin 4) : Bool := s.plat.portUp.getLsbD p.val && s.plat.ethUp.toNat / 16 ^ (p.val % 2) % 16 != 0
    let local_ : Prop := e / 1024 = s.plat.pkg.toNat
    let first : Prop := A.port[i]? = some m ∧ m.flat.toNat = e ∧ m.chan = ch ∧
      ∀ j m', j < i → A.port[j]? = some m' → ¬(m'.flat.toNat = e ∧ m'.chan = ch)
    let up (c : Nat) : Prop := c < cellCount s ∧ dieGone s (physOf s c / 256) = false
    let resident (c : Nat) (id : BitVec 16) : Prop := (cellAt s c).live = true ∧ (ccAt s c).desc.ctxid = id
    let queued (x : CtxCell) (ch : Fin 32) (f : Frame) : CtxCell :=
      { x with chans := x.chans.set ch { x.chans[ch] with queue := x.chans[ch].queue ++ [f] } }
    let room (x : CtxCell) (ch : Fin 32) : Prop := x.chans[ch].queue.length < 8
    let heard : Prop := ∃ p, way p = true
    first ∧ m.state = .queued ∧ local_ ∧ arrived s m.via = false ∧ heard ∧ ch.val < 30 ∧ up d ∧ resident d m.ctxid ∧ room (ccAt s d) ch) ∧
   (let s : State := (ims [yi 40 6 [], yi 5 6 [fh 1 1]] (pm [m6]))
    let a : Nat := 4
    let e : Nat := e5
    let i : Nat := 0
    let ch : Fin 32 := 7
    let m : OutMsg := m6
    let y : Image := (yi 5 6 [fh 1 1])
    let xs : List Image := [yi 40 6 []]
    let zs : List Image := []
    let A := cellAt s a
    let d := e % 1024
    let way (p : Fin 4) : Bool := s.plat.portUp.getLsbD p.val && s.plat.ethUp.toNat / 16 ^ (p.val % 2) % 16 != 0
    let local_ : Prop := e / 1024 = s.plat.pkg.toNat
    let first : Prop := A.port[i]? = some m ∧ m.flat.toNat = e ∧ m.chan = ch ∧
      ∀ j m', j < i → A.port[j]? = some m' → ¬(m'.flat.toNat = e ∧ m'.chan = ch)
    let up (c : Nat) : Prop := c < cellCount s ∧ dieGone s (physOf s c / 256) = false
    let resident (c : Nat) (id : BitVec 16) : Prop := (cellAt s c).live = true ∧ (ccAt s c).desc.ctxid = id
    let imageOf (c : Nat) (id : BitVec 16) (z : Image) : Prop := z.phys = physOf s c ∧ z.cc.desc.ctxid = id
    let saved (c : Nat) (id : BitVec 16) : Prop := ¬resident c id ∧ s.images = xs ++ y :: zs ∧ imageOf c id y ∧ ∀ z ∈ xs, ¬imageOf c id z
    let queued (x : CtxCell) (ch : Fin 32) (f : Frame) : CtxCell :=
      { x with chans := x.chans.set ch { x.chans[ch] with queue := x.chans[ch].queue ++ [f] } }
    let room (x : CtxCell) (ch : Fin 32) : Prop := x.chans[ch].queue.length < 8
    let heard : Prop := ∃ p, way p = true
    first ∧ m.state = .queued ∧ local_ ∧ arrived s m.via = true ∧ up d ∧ saved d m.ctxid ∧ room y.cc ch ∧ heard ∧ ch.val < 30) ∧
   (let s : State := (cm2 base)
    let a : Nat := 4
    let e : Nat := (3 * 1024 + 300)
    let ch : Fin 32 := 7
    let m : OutMsg := (om2 (3072 + 300) 7 5 .queued 32 none)
    let k : Fin 4 := 2
    let A := cellAt s a
    let x := slotAt s a k
    let f := m.frame
    m.flat.toNat = e ∧ x.run = .commit ∧ x.joins = [] ∧ x.release = [.send m.flat ch f] ∧ A.preempt = none ∧ A.port.length < 64) ∧
   (let s : State := (ctx6 4 (pm [m6]))
    let a : Nat := 4
    let e : Nat := e5
    let i : Nat := 0
    let ch : Fin 32 := 7
    let m : OutMsg := m6
    let A := cellAt s a
    let d := e % 1024
    let local_ : Prop := e / 1024 = s.plat.pkg.toNat
    let first : Prop := A.port[i]? = some m ∧ m.flat.toNat = e ∧ m.chan = ch ∧
      ∀ j m', j < i → A.port[j]? = some m' → ¬(m'.flat.toNat = e ∧ m'.chan = ch)
    let up (c : Nat) : Prop := c < cellCount s ∧ dieGone s (physOf s c / 256) = false
    let resident (c : Nat) (id : BitVec 16) : Prop := (cellAt s c).live = true ∧ (ccAt s c).desc.ctxid = id
    let imageOf (c : Nat) (id : BitVec 16) (z : Image) : Prop := z.phys = physOf s c ∧ z.cc.desc.ctxid = id
    let nowhere (c : Nat) (id : BitVec 16) : Prop := cellCount s ≤ c ∨ up c ∧ ¬resident c id ∧ ∀ z ∈ s.images, ¬imageOf c id z
    let queued (x : CtxCell) (ch : Fin 32) (f : Frame) : CtxCell :=
      { x with chans := x.chans.set ch { x.chans[ch] with queue := x.chans[ch].queue ++ [f] } }
    first ∧ m.state = .queued ∧ local_ ∧ arrived s m.via = true ∧ nowhere d m.ctxid) ∧
   (let s : State := (far (pm [om2 3372 7 5 (.waiting 0) 2048 none]))
    let a : Nat := 4
    let e : Nat := 3372
    let i : Nat := 0
    let ch : Fin 32 := 7
    let m : OutMsg := (om2 3372 7 5 (.waiting 0) 2048 none)
    let A := cellAt s a
    let first : Prop := A.port[i]? = some m ∧ m.flat.toNat = e ∧ m.chan = ch ∧
      ∀ j m', j < i → A.port[j]? = some m' → ¬(m'.flat.toNat = e ∧ m'.chan = ch)
    first ∧ m.state = .waiting 0) ∧
   (let s : State := (peer 1 1 (pm [mN]))
    let a : Nat := 4
    let e : Nat := 2053
    let i : Nat := 0
    let ch : Fin 32 := 7
    let m : OutMsg := mN
    let fabric : Word := 0x77
    let A := cellAt s a
    let here := physOf s a / 256
    let h0 := Fin.ofNat 4 here
    let way (p : Fin 4) : Bool := s.plat.portUp.getLsbD p.val && s.plat.ethUp.toNat / 16 ^ (p.val % 2) % 16 != 0
    let aside (b : Bool) : Bool := s.dies.links[linkOut h0 b].up && way (linkTo (linkOut h0 b))
    let local_ : Prop := e / 1024 = s.plat.pkg.toNat
    let first : Prop := A.port[i]? = some m ∧ m.flat.toNat = e ∧ m.chan = ch ∧
      ∀ j m', j < i → A.port[j]? = some m' → ¬(m'.flat.toNat = e ∧ m'.chan = ch)
    let queued (x : CtxCell) (ch : Fin 32) (f : Frame) : CtxCell :=
      { x with chans := x.chans.set ch { x.chans[ch] with queue := x.chans[ch].queue ++ [f] } }
    let reaches : Prop := way h0 = true ∨ aside true = true ∨ aside false = true
    first ∧ m.state = .queued ∧ ¬local_ ∧ tabFind s.host.peers (e / 1024) = some fabric ∧ arrived s m.via = true ∧ reaches) ∧
   (let s : State := (pm [m0])
    let a : Nat := 4
    let e : Nat := e5
    let i : Nat := 0
    let ch : Fin 32 := 7
    let m : OutMsg := m0
    let A := cellAt s a
    let d := e % 1024
    let local_ : Prop := e / 1024 = s.plat.pkg.toNat
    let first : Prop := A.port[i]? = some m ∧ m.flat.toNat = e ∧ m.chan = ch ∧
      ∀ j m', j < i → A.port[j]? = some m' → ¬(m'.flat.toNat = e ∧ m'.chan = ch)
    let up (c : Nat) : Prop := c < cellCount s ∧ dieGone s (physOf s c / 256) = false
    let resident (c : Nat) (id : BitVec 16) : Prop := (cellAt s c).live = true ∧ (ccAt s c).desc.ctxid = id
    let queued (x : CtxCell) (ch : Fin 32) (f : Frame) : CtxCell :=
      { x with chans := x.chans.set ch { x.chans[ch] with queue := x.chans[ch].queue ++ [f] } }
    let room (x : CtxCell) (ch : Fin 32) : Prop := x.chans[ch].queue.length < 8
    first ∧ m.state = .queued ∧ local_ ∧ arrived s m.via = true ∧ up d ∧ resident d m.ctxid ∧ room (ccAt s d) ch) ∧
   (let s : State := (pm [mN])
    let a : Nat := 4
    let e : Nat := 2053
    let i : Nat := 0
    let ch : Fin 32 := 7
    let m : OutMsg := mN
    let A := cellAt s a
    let local_ : Prop := e / 1024 = s.plat.pkg.toNat
    let first : Prop := A.port[i]? = some m ∧ m.flat.toNat = e ∧ m.chan = ch ∧
      ∀ j m', j < i → A.port[j]? = some m' → ¬(m'.flat.toNat = e ∧ m'.chan = ch)
    let queued (x : CtxCell) (ch : Fin 32) (f : Frame) : CtxCell :=
      { x with chans := x.chans.set ch { x.chans[ch] with queue := x.chans[ch].queue ++ [f] } }
    first ∧ m.state = .queued ∧ ¬local_ ∧ tabFind s.host.peers (e / 1024) = none) ∧
   (let s : State := (pm [om2 e5 7 5 (.waiting 1) 128 none])
    let a : Nat := 4
    let e : Nat := e5
    let i : Nat := 0
    let n : Nat := 0
    let ch : Fin 32 := 7
    let m : OutMsg := (om2 e5 7 5 (.waiting 1) 128 none)
    let A := cellAt s a
    let first : Prop := A.port[i]? = some m ∧ m.flat.toNat = e ∧ m.chan = ch ∧
      ∀ j m', j < i → A.port[j]? = some m' → ¬(m'.flat.toNat = e ∧ m'.chan = ch)
    first ∧ ((∃ n, m.state = .waiting (n + 1)))) ∧
   (let s : State := (pm [om2 e5 7 5 .refused 128 (some (4, 0))])
    let a : Nat := 4
    let e : Nat := e5
    let i : Nat := 0
    let ch : Fin 32 := 7
    let m : OutMsg := (om2 e5 7 5 .refused 128 (some (4, 0)))
    let A := cellAt s a
    let first : Prop := A.port[i]? = some m ∧ m.flat.toNat = e ∧ m.chan = ch ∧
      ∀ j m', j < i → A.port[j]? = some m' → ¬(m'.flat.toNat = e ∧ m'.chan = ch)
    first ∧ m.state = .refused ∧ arrived s m.via = false) ∧
   (let s : State := (pm [om2 e5 7 5 .refused 128 none])
    let a : Nat := 4
    let e : Nat := e5
    let i : Nat := 0
    let ch : Fin 32 := 7
    let m : OutMsg := (om2 e5 7 5 .refused 128 none)
    let A := cellAt s a
    let first : Prop := A.port[i]? = some m ∧ m.flat.toNat = e ∧ m.chan = ch ∧
      ∀ j m', j < i → A.port[j]? = some m' → ¬(m'.flat.toNat = e ∧ m'.chan = ch)
    first ∧ m.state = .refused ∧ arrived s m.via = true) ∧
   (let s : State := (ps [w1, w2] (dst 5 [] 0x500000008 base))
    let i : Nat := 1
    let n : Nat := 0
    let ch : Fin 32 := 7
    let w : PsvcMsg := w2
    let queued (x : CtxCell) (ch : Fin 32) (f : Frame) : CtxCell :=
      { x with chans := x.chans.set ch { x.chans[ch] with queue := x.chans[ch].queue ++ [f] } }
    let pfirst : Prop := s.scrim.psvcs[i]? = some w ∧
      ∀ j w', j < i → s.scrim.psvcs[j]? = some w' → ¬(w'.die = w.die ∧ w'.cell = w.cell ∧ w'.chan = w.chan)
    s.scrim.psvcs[i]? = some w ∧ (¬pfirst ∨ w.state = .waiting (n + 1) ∨ w.state = .queued ∧ arrived s w.via = false)) ∧
   (let s : State := (ps [w1] (dst 5 [fh 1 1] 0x500000008 base))
    let i : Nat := 0
    let ch : Fin 32 := 7
    let w : PsvcMsg := w1
    let up (c : Nat) : Prop := c < cellCount s ∧ dieGone s (physOf s c / 256) = false
    let resident (c : Nat) (id : BitVec 16) : Prop := (cellAt s c).live = true ∧ (ccAt s c).desc.ctxid = id
    let queued (x : CtxCell) (ch : Fin 32) (f : Frame) : CtxCell :=
      { x with chans := x.chans.set ch { x.chans[ch] with queue := x.chans[ch].queue ++ [f] } }
    let room (x : CtxCell) (ch : Fin 32) : Prop := x.chans[ch].queue.length < 8
    let pfirst : Prop := s.scrim.psvcs[i]? = some w ∧
      ∀ j w', j < i → s.scrim.psvcs[j]? = some w' → ¬(w'.die = w.die ∧ w'.cell = w.cell ∧ w'.chan = w.chan)
    pfirst ∧ w.state = .queued ∧ arrived s w.via = true ∧ up w.cell ∧ resident w.cell w.ctxid ∧ room (ccAt s w.cell) w.chan) ∧
   (let s : State := (ps [w2] (dst 5 [] 0x500000008 base))
    let i : Nat := 0
    let w : PsvcMsg := w2
    let pfirst : Prop := s.scrim.psvcs[i]? = some w ∧
      ∀ j w', j < i → s.scrim.psvcs[j]? = some w' → ¬(w'.die = w.die ∧ w'.cell = w.cell ∧ w'.chan = w.chan)
    pfirst ∧ w.state = .waiting 0) ∧
   (let s : State := (ps [w4] (dst 5 [] 0x500000008 base))
    let i : Nat := 0
    let ch : Fin 32 := 7
    let w : PsvcMsg := w4
    let up (c : Nat) : Prop := c < cellCount s ∧ dieGone s (physOf s c / 256) = false
    let resident (c : Nat) (id : BitVec 16) : Prop := (cellAt s c).live = true ∧ (ccAt s c).desc.ctxid = id
    let imageOf (c : Nat) (id : BitVec 16) (z : Image) : Prop := z.phys = physOf s c ∧ z.cc.desc.ctxid = id
    let nowhere (c : Nat) (id : BitVec 16) : Prop := cellCount s ≤ c ∨ up c ∧ ¬resident c id ∧ ∀ z ∈ s.images, ¬imageOf c id z
    let queued (x : CtxCell) (ch : Fin 32) (f : Frame) : CtxCell :=
      { x with chans := x.chans.set ch { x.chans[ch] with queue := x.chans[ch].queue ++ [f] } }
    let pfirst : Prop := s.scrim.psvcs[i]? = some w ∧
      ∀ j w', j < i → s.scrim.psvcs[j]? = some w' → ¬(w'.die = w.die ∧ w'.cell = w.cell ∧ w'.chan = w.chan)
    pfirst ∧ w.state = .queued ∧ arrived s w.via = true ∧ nowhere w.cell w.ctxid) ∧
   (let s : State := (ps [{ w1 with die := 2 }, w1] (dst 5 (List.replicate 8 (fh 1 1)) 0x500000008 base))
    let i : Nat := 1
    let ch : Fin 32 := 7
    let w : PsvcMsg := w1
    let up (c : Nat) : Prop := c < cellCount s ∧ dieGone s (physOf s c / 256) = false
    let resident (c : Nat) (id : BitVec 16) : Prop := (cellAt s c).live = true ∧ (ccAt s c).desc.ctxid = id
    let queued (x : CtxCell) (ch : Fin 32) (f : Frame) : CtxCell :=
      { x with chans := x.chans.set ch { x.chans[ch] with queue := x.chans[ch].queue ++ [f] } }
    let room (x : CtxCell) (ch : Fin 32) : Prop := x.chans[ch].queue.length < 8
    let pfirst : Prop := s.scrim.psvcs[i]? = some w ∧
      ∀ j w', j < i → s.scrim.psvcs[j]? = some w' → ¬(w'.die = w.die ∧ w'.cell = w.cell ∧ w'.chan = w.chan)
    pfirst ∧ w.state = .queued ∧ arrived s w.via = true ∧ up w.cell ∧ resident w.cell w.ctxid ∧ ¬room (ccAt s w.cell) w.chan) := by
  refine ⟨?_, ?_, ?_, ?_, ?_, ?_, ?_, ?_, ?_, ?_, ?_, ?_, ?_, ?_, ?_, ?_, ?_, ?_⟩
  · refine ⟨?_, by decide +kernel, by decide +kernel, by decide +kernel, by decide +kernel, by decide +kernel⟩
    exact ⟨by decide +kernel, by decide +kernel, by decide +kernel, earlier_of (by decide +kernel)⟩
  · refine ⟨?_, by decide +kernel, by decide +kernel, by decide +kernel, by decide +kernel, by decide +kernel, by decide +kernel,
    by decide +kernel⟩
    exact ⟨by decide +kernel, by decide +kernel, by decide +kernel, earlier_of (by decide +kernel)⟩
  · refine ⟨?_, by decide +kernel, by decide +kernel, by decide +kernel, by decide +kernel, by decide +kernel, by decide +kernel,
    by decide +kernel, by decide +kernel⟩
    exact ⟨by decide +kernel, by decide +kernel, by decide +kernel, earlier_of (by decide +kernel)⟩
  · refine ⟨?_, by decide +kernel, by decide +kernel, by decide +kernel, by decide +kernel, by decide +kernel, by decide +kernel,
    by decide +kernel, by decide +kernel⟩
    exact ⟨by decide +kernel, by decide +kernel, by decide +kernel, earlier_of (by decide +kernel)⟩
  · decide +kernel
  · refine ⟨?_, by decide +kernel, by decide +kernel, by decide +kernel, by decide +kernel⟩
    exact ⟨by decide +kernel, by decide +kernel, by decide +kernel, earlier_of (by decide +kernel)⟩
  · refine ⟨?_, by decide +kernel⟩
    exact ⟨by decide +kernel, by decide +kernel, by decide +kernel, earlier_of (by decide +kernel)⟩
  · refine ⟨?_, by decide +kernel, by decide +kernel, by decide +kernel, by decide +kernel, by decide +kernel⟩
    exact ⟨by decide +kernel, by decide +kernel, by decide +kernel, earlier_of (by decide +kernel)⟩
  · refine ⟨?_, by decide +kernel, by decide +kernel, by decide +kernel, by decide +kernel, by decide +kernel, by decide +kernel⟩
    exact ⟨by decide +kernel, by decide +kernel, by decide +kernel, earlier_of (by decide +kernel)⟩
  · refine ⟨?_, by decide +kernel, by decide +kernel, by decide +kernel⟩
    exact ⟨by decide +kernel, by decide +kernel, by decide +kernel, earlier_of (by decide +kernel)⟩
  · refine ⟨?_, ?_⟩
    · exact ⟨by decide +kernel, by decide +kernel, by decide +kernel, earlier_of (by decide +kernel)⟩
    · exact ⟨_, rfl⟩
  · refine ⟨?_, by decide +kernel, by decide +kernel⟩
    exact ⟨by decide +kernel, by decide +kernel, by decide +kernel, earlier_of (by decide +kernel)⟩
  · refine ⟨?_, by decide +kernel, by decide +kernel⟩
    exact ⟨by decide +kernel, by decide +kernel, by decide +kernel, earlier_of (by decide +kernel)⟩
  · refine ⟨by decide +kernel, ?_⟩
    exact Or.inl fun h => h.2 0 _ Nat.zero_lt_one rfl (by decide +kernel)
  · refine ⟨?_, by decide +kernel, by decide +kernel, by decide +kernel, by decide +kernel, by decide +kernel⟩
    exact ⟨by decide +kernel, earlier_of (by decide +kernel)⟩
  · refine ⟨?_, by decide +kernel⟩
    exact ⟨by decide +kernel, earlier_of (by decide +kernel)⟩
  · refine ⟨?_, by decide +kernel, by decide +kernel, by decide +kernel⟩
    exact ⟨by decide +kernel, earlier_of (by decide +kernel)⟩
  · refine ⟨?_, by decide +kernel, by decide +kernel, by decide +kernel, by decide +kernel, by decide +kernel⟩
    exact ⟨by decide +kernel, earlier_of (by decide +kernel)⟩

/-- The hypotheses of SavesAndRestores hold together: clause 1. -/
theorem witness_savesAndRestores_clause1 :
    let s : State := (rc 4 id pres)
    let c : Nat := 4
    let id : BitVec 16 := 5
    let A := cellAt s c
    let die := physOf s c / 256
    let ready : Prop := (s.plat.controllers[2 + (Fin.ofNat 4 die).val]).state = .running
    let resident : Prop := A.live = true ∧ A.cc.desc.ctxid = id
    ready ∧ resident ∧ ((∀ k, (slotAt s c k).run = .free)) := by
  decide +kernel

/-- The hypotheses of SavesAndRestores hold together: clause 2. -/
theorem witness_savesAndRestores_clause2 :
    let s : State := (act 0 1 .run #v[1,1] 0 (rc 0 id pres))
    let c : Nat := 0
    let id : BitVec 16 := 5
    let A := cellAt s c
    let die := physOf s c / 256
    let ready : Prop := (s.plat.controllers[2 + (Fin.ofNat 4 die).val]).state = .running
    let resident : Prop := A.live = true ∧ A.cc.desc.ctxid = id
    ready ∧ resident ∧ ((∃ k, (slotAt s c k).run ≠ .free)) := by
  decide +kernel

/-- The hypotheses of SavesAndRestores hold together: clause 3. -/
theorem witness_savesAndRestores_clause3 :
    let s : State := (ims [img 4 false false] pres)
    let c : Nat := 4
    let id : BitVec 16 := 5
    let A := cellAt s c
    let die := physOf s c / 256
    let ready : Prop := (s.plat.controllers[2 + (Fin.ofNat 4 die).val]).state = .running
    let resident : Prop := A.live = true ∧ A.cc.desc.ctxid = id
    let blocked : Prop := A.live = false ∨ A.closed = false ∨ (∃ k, (slotAt s c k).run ≠ .free) ∨ A.installs ≠ [] ∨
      A.committing ≠ none ∨ (∃ v f via, A.steal = .claimed v f via) ∨ A.cc.mxu.queue ≠ [] ∨ inFlight s c ≠ 0 ∨ (∃ m ∈ s.stxs, m.cell = c) ∨
      ∃ ch : Fin 2, A.cc.cch[ch].queue ≠ [] ∧ A.cc.cch[ch].error = false ∧ (A.cc.cch[ch].paused = false ∨ A.cc.desc.sys = true)
    ready ∧ ¬resident ∧ blocked := by
  refine ⟨by decide +kernel, by decide +kernel, ?_⟩
  constructor <;> decide +kernel

/-- The hypotheses of SavesAndRestores hold together: clause 4. -/
theorem witness_savesAndRestores_clause4 :
    let s : State := ({ pres with plat := Platform.reset })
    let c : Nat := 4
    let die := physOf s c / 256
    let ready : Prop := (s.plat.controllers[2 + (Fin.ofNat 4 die).val]).state = .running
    ¬ready := by
  decide +kernel

/-- The hypotheses of SavesAndRestores hold together: clause 7. -/
theorem witness_savesAndRestores_clause7 :
    let s : State := (rc 4 (fun x => { x with closed := true, preempt := some 5 }) pres)
    let u : State := (rc 4 (fun x => { x with closed := true, preempt := some 5 }) pres)
    let c : Nat := 4
    let held : List Nat := []
    let A := cellAt s c
    let die := physOf s c / 256
    let blocked : Prop := A.live = false ∨ A.closed = false ∨ (∃ k, (slotAt s c k).run ≠ .free) ∨ A.installs ≠ [] ∨
      A.committing ≠ none ∨ (∃ v f via, A.steal = .claimed v f via) ∨ A.cc.mxu.queue ≠ [] ∨ inFlight s c ≠ 0 ∨ (∃ m ∈ s.stxs, m.cell = c) ∨
      ∃ ch : Fin 2, A.cc.cch[ch].queue ≠ [] ∧ A.cc.cch[ch].error = false ∧ (A.cc.cch[ch].paused = false ∨ A.cc.desc.sys = true)
    let mine : Image := ⟨physOf s c, A.cc, false⟩
    ¬blocked ∧ roomForImage s die mine held = some u := by
  refine ⟨fun h => ?_, ?_⟩
  · rcases h with h | h | h | h | h | ⟨v, f, w, h⟩ | h | h | h | h
    all_goals first | exact absurd h (by decide +kernel) | exact absurd h (not_claimed (by decide +kernel) v f w)
  · decide +kernel

/-- The hypotheses of SavesAndRestores hold together: clause 8. -/
theorem witness_savesAndRestores_clause8 :
    let s : State := (ims [img 4 false false] pres)
    let c : Nat := 4
    let ph : Nat := 4
    let id : BitVec 16 := 5
    let r : RestoreReq := ⟨5, 4⟩
    let im : Image := (img 4 false false)
    let A := cellAt s c
    let die := physOf s c / 256
    let ready : Prop := (s.plat.controllers[2 + (Fin.ofNat 4 die).val]).state = .running
    let fits (r : RestoreReq) (im : Image) : Prop := s.images.find? (fun x => x.phys = r.image ∧ x.cc.desc.ctxid = r.ctxid) = some im ∧
      (im.cc.desc.sys = true ∨ im.phys = physOf s c) ∧ ¬(A.live = true ∧ A.cc.desc.ctxid = r.ctxid)
    ready ∧ fits ⟨id, ph⟩ im := by
  decide +kernel

/-- The hypotheses of SavesAndRestores hold together: clause 9. -/
theorem witness_savesAndRestores_clause9 :
    let s : State := pres
    let c : Nat := 4
    let ph : Nat := 4
    let id : BitVec 16 := 5
    let r : RestoreReq := ⟨5, 4⟩
    let im : Image := (img 4 false false)
    let A := cellAt s c
    let die := physOf s c / 256
    let ready : Prop := (s.plat.controllers[2 + (Fin.ofNat 4 die).val]).state = .running
    let fits (r : RestoreReq) (im : Image) : Prop := s.images.find? (fun x => x.phys = r.image ∧ x.cc.desc.ctxid = r.ctxid) = some im ∧
      (im.cc.desc.sys = true ∨ im.phys = physOf s c) ∧ ¬(A.live = true ∧ A.cc.desc.ctxid = r.ctxid)
    ready ∧ ((∀ im, ¬fits ⟨id, ph⟩ im)) := by
  refine ⟨by decide +kernel, ?_⟩
  refine not_some_of ?_
  decide +kernel

/-- The hypotheses of SavesAndRestores hold together: clause 10. -/
theorem witness_savesAndRestores_clause10 :
    let s : State := (cl 4 (fun x => { x with live := true, cc := cc0, restores := [⟨5,4⟩] }) pres)
    let c : Nat := 4
    let r : RestoreReq := ⟨5, 4⟩
    let l : List RestoreReq := []
    let A := cellAt s c
    let die := physOf s c / 256
    let ready : Prop := (s.plat.controllers[2 + (Fin.ofNat 4 die).val]).state = .running
    A.restores = r :: l ∧ (A.live = true ∨ dieGone s die = true ∨ ¬ready) := by
  decide +kernel

/-- The hypotheses of SavesAndRestores hold together: clause 11. -/
theorem witness_savesAndRestores_clause11 :
    let s : State := (cl 4 (fun x => { x with restores := [⟨5,4⟩] }) pres)
    let c : Nat := 4
    let r : RestoreReq := ⟨5, 4⟩
    let l : List RestoreReq := []
    let im : Image := (img 4 false false)
    let A := cellAt s c
    let die := physOf s c / 256
    let ready : Prop := (s.plat.controllers[2 + (Fin.ofNat 4 die).val]).state = .running
    let fits (r : RestoreReq) (im : Image) : Prop := s.images.find? (fun x => x.phys = r.image ∧ x.cc.desc.ctxid = r.ctxid) = some im ∧
      (im.cc.desc.sys = true ∨ im.phys = physOf s c) ∧ ¬(A.live = true ∧ A.cc.desc.ctxid = r.ctxid)
    A.restores = r :: l ∧ A.live = false ∧ dieGone s die = false ∧ ready ∧ ((∀ im, ¬fits r im)) := by
  refine ⟨by decide +kernel, by decide +kernel, by decide +kernel, by decide +kernel, ?_⟩
  refine not_some_of ?_
  decide +kernel

/-- The hypotheses of SavesAndRestores hold together: clause 12. -/
theorem witness_savesAndRestores_clause12 :
    let s : State := (cl 4 (fun x => { x with restores := [⟨5,4⟩] }) (frz3 (ims [far3] pres)))
    let c : Nat := 4
    let r : RestoreReq := ⟨5, 4⟩
    let l : List RestoreReq := []
    let im : Image := far3
    let A := cellAt s c
    let die := physOf s c / 256
    let ready : Prop := (s.plat.controllers[2 + (Fin.ofNat 4 die).val]).state = .running
    let fits (r : RestoreReq) (im : Image) : Prop := s.images.find? (fun x => x.phys = r.image ∧ x.cc.desc.ctxid = r.ctxid) = some im ∧
      (im.cc.desc.sys = true ∨ im.phys = physOf s c) ∧ ¬(A.live = true ∧ A.cc.desc.ctxid = r.ctxid)
    let place (x : Image) : Nat := x.cc.desc.spill + 2 ^ 21 * x.phys
    let moved (x : Image) : Prop := x.spilled = true ∨ x.phys ≠ physOf s c
    let away (d line : Nat) : Prop := trueHome s line ≠ d ∧ nextLink s (Fin.ofNat 4 d) (Fin.ofNat 4 (trueHome s line)) = none
    let shut (d : Nat) (im : Image) : Prop := lineHeld s d (place im / 128) = true ∨ away d (place im / 128)
    let waits (im : Image) : Prop := moved im ∧ (shut die im ∨ im.spilled = false ∧ shut (im.phys / 256) im)
    A.restores = r :: l ∧ A.live = false ∧ dieGone s die = false ∧ ready ∧ fits r im ∧ waits im := by
  decide +kernel

/-- The hypotheses of SavesAndRestores hold together: clause 13. -/
theorem witness_savesAndRestores_clause13 :
    let s : State := (cl 4 (fun x => { x with restores := [⟨5,4⟩] }) (frz3 (ims [ring3] pres)))
    let u : State := (exU (walkRing (cl 4 (fun x => { x with restores := [⟨5,4⟩] }) (frz3 (ims [ring3] pres))) 4 ring3))
    let c : Nat := 4
    let r : RestoreReq := ⟨5, 4⟩
    let l : List RestoreReq := []
    let im : Image := ring3
    let A := cellAt s c
    let die := physOf s c / 256
    let ready : Prop := (s.plat.controllers[2 + (Fin.ofNat 4 die).val]).state = .running
    let fits (r : RestoreReq) (im : Image) : Prop := s.images.find? (fun x => x.phys = r.image ∧ x.cc.desc.ctxid = r.ctxid) = some im ∧
      (im.cc.desc.sys = true ∨ im.phys = physOf s c) ∧ ¬(A.live = true ∧ A.cc.desc.ctxid = r.ctxid)
    let place (x : Image) : Nat := x.cc.desc.spill + 2 ^ 21 * x.phys
    let moved (x : Image) : Prop := x.spilled = true ∨ x.phys ≠ physOf s c
    let away (d line : Nat) : Prop := trueHome s line ≠ d ∧ nextLink s (Fin.ofNat 4 d) (Fin.ofNat 4 (trueHome s line)) = none
    let shut (d : Nat) (im : Image) : Prop := lineHeld s d (place im / 128) = true ∨ away d (place im / 128)
    let waits (im : Image) : Prop := moved im ∧ (shut die im ∨ im.spilled = false ∧ shut (im.phys / 256) im)
    A.restores = r :: l ∧ A.live = false ∧ dieGone s die = false ∧ ready ∧ fits r im ∧ ¬waits im ∧ walkRing s c im = .error u := by
  decide +kernel

/-- The hypotheses of SavesAndRestores hold together: clause 14. -/
theorem witness_savesAndRestores_clause14 :
    let s : State := (cl 4 (fun x => { x with restores := [⟨5,4⟩] }) (ims [img 4 false false] pres))
    let u : State := (exU (walkRing (cl 4 (fun x => { x with restores := [⟨5,4⟩] }) (ims [img 4 false false] pres)) 4 (img 4 false false)))
    let c : Nat := 4
    let r : RestoreReq := ⟨5, 4⟩
    let l : List RestoreReq := []
    let im : Image := (img 4 false false)
    let A := cellAt s c
    let die := physOf s c / 256
    let ready : Prop := (s.plat.controllers[2 + (Fin.ofNat 4 die).val]).state = .running
    let fits (r : RestoreReq) (im : Image) : Prop := s.images.find? (fun x => x.phys = r.image ∧ x.cc.desc.ctxid = r.ctxid) = some im ∧
      (im.cc.desc.sys = true ∨ im.phys = physOf s c) ∧ ¬(A.live = true ∧ A.cc.desc.ctxid = r.ctxid)
    let place (x : Image) : Nat := x.cc.desc.spill + 2 ^ 21 * x.phys
    let moved (x : Image) : Prop := x.spilled = true ∨ x.phys ≠ physOf s c
    let away (d line : Nat) : Prop := trueHome s line ≠ d ∧ nextLink s (Fin.ofNat 4 d) (Fin.ofNat 4 (trueHome s line)) = none
    let shut (d : Nat) (im : Image) : Prop := lineHeld s d (place im / 128) = true ∨ away d (place im / 128)
    let waits (im : Image) : Prop := moved im ∧ (shut die im ∨ im.spilled = false ∧ shut (im.phys / 256) im)
    A.restores = r :: l ∧ A.live = false ∧ dieGone s die = false ∧ ready ∧ fits r im ∧ ¬waits im ∧ walkRing s c im = .ok u := by
  decide +kernel

/-- The hypotheses of SavesAndRestores hold together: clause 6. -/
theorem witness_savesAndRestores_clause6 (hash : ∀ x, Config.lineHash x = 0):
    let s : State :=
        (rc 4 (fun x => { x with closed := true, preempt := some 5, cc := { x.cc with desc := jam3.cc.desc } }) (frz3 (ims [jam3] pres)))
    let c : Nat := 4
    let held : List Nat := []
    let A := cellAt s c
    let die := physOf s c / 256
    let blocked : Prop := A.live = false ∨ A.closed = false ∨ (∃ k, (slotAt s c k).run ≠ .free) ∨ A.installs ≠ [] ∨
      A.committing ≠ none ∨ (∃ v f via, A.steal = .claimed v f via) ∨ A.cc.mxu.queue ≠ [] ∨ inFlight s c ≠ 0 ∨ (∃ m ∈ s.stxs, m.cell = c) ∨
      ∃ ch : Fin 2, A.cc.cch[ch].queue ≠ [] ∧ A.cc.cch[ch].error = false ∧ (A.cc.cch[ch].paused = false ∨ A.cc.desc.sys = true)
    let mine : Image := ⟨physOf s c, A.cc, false⟩
    ¬blocked ∧ roomForImage s die mine held = none := by
  refine ⟨fun h => ?_, ?_⟩
  · rcases h with h | h | h | h | h | ⟨v, f, w, h⟩ | h | h | h | h
    all_goals first | exact absurd h (by decide +kernel) | exact absurd h (not_claimed (by decide +kernel) v f w)
  · change Option.bind (makeWay15 _ _ _ (0 + 1)) _ = none
    simp only [makeWay15]
    delta waysClash
    simp only [l2Set, sliceOf, hash]
    decide +kernel

end Messages

end Sys2Proof.Tests
end

section
/-! Proofs about special registers, loads and stores: the endings of instructions that they share, the registers field by field,
bytes of numbers, what a load and a store come to, and what each leaves of the package. -/

namespace Sys2Proof.Safety

open Sys2Proof.Machine

/-! ## Endings that put the slot at hand, or the context of its cell -/

theorem givesFrom_putSlot {i : Instr} {s u : State} {x : Slot} (h : exec i s = .next (putSlot u x)) : GivesFrom i s u x :=
  ⟨_, h, slotOf_putSlot u x, onlySlot_putSlot u x⟩

/-- An instruction that takes a trap in a state to which its walks have led takes it there at every level. -/
theorem trapsFrom_takeTrap {i : Instr} {s u : State} {cause : Nat} {tip : InstrIx} {va info : Word}
    (h : exec i s = .next (takeTrap u cause tip va info)) : TrapsFrom i s u cause tip va info := by
  refine ⟨fun l => ?_, fun l => ?_, fun l => ?_⟩
  · rw [takeTrap_level0 u cause tip va info l] at h
    exact givesFrom_putSlot (h.trans rfl)
  · rw [takeTrap_level1 u cause tip va info l] at h
    exact givesFrom_putSlot (h.trans rfl)
  · rw [takeTrap_level2 u cause tip va info l] at h
    exact h

theorem givesCc_advance_putCcOf {i : Instr} {s : State} {y : CtxCell} (h : exec i s = .next (advance (putCcOf s y))) :
    GivesCc i s (nextIp (slotOf s)) y :=
  givesCc_put (h.trans (congrArg _ (advance_eq (putCcOf s y))))

theorem gives_advance_putSlot {i : Instr} {s : State} {x : Slot} (h : exec i s = .next (advance (putSlot s x))) :
    Gives i s (nextIp x) := by
  refine gives_putSlot (h.trans (congrArg _ ?_))
  rw [advance_eq, slotOf_putSlot, putSlot_putSlot]
  rfl

/-- A slot put in a state whose slots are those of another leaves the others of that one. -/
theorem otherSlots_putSlot {s t : State} (hc : t.curCell = s.curCell) (hk : t.curSlot = s.curSlot)
    (h : SameSlots s t) (x : Slot) : OtherSlots s (putSlot t x) := by
  intro c k hne
  rw [slotAt_putSlot, hc, hk, if_neg fun e => hne ⟨e.1.symm, e.2.symm⟩, h]

/-! ## Privilege (00 R5; 18 R358) -/

theorem privileged_iff_not_userMode (s : State) : privileged s = true ↔ ¬UserMode s := by
  simp [privileged, UserMode, imp_iff_not_or]

theorem privileged_of_userMode {s : State} (h : UserMode s) : privileged s = false := by
  rw [Bool.eq_false_iff, Ne, privileged_iff_not_userMode]
  exact not_not_intro h

/-- PRIV with a register's number is a trap here, with tinfo as 18 R345 lays it out. -/
theorem trapsHere_trapSpecial {i : Instr} {s : State} {r : SReg} {opc : BitVec 12}
    (h : exec i s = .next (trapSpecial s r opc)) : TrapsHere i s 2 0 (65536 * sregNumber r + opc.toNat) := by
  refine traps_takeTrap (h.trans (congrArg _ ?_))
  unfold trapSpecial trapHere infoArg
  rw [Nat.zero_mul, Nat.zero_add, Nat.mul_comm]
  rfl

/-! ## A result in g[D], and UE of an access (18 R344, R345) -/

theorem finishG_eq_putSlot_gResult (s : State) (d : GReg) (w : Word) :
    finishG s d w = putSlot s (gResult (slotOf s) d w) := by
  rw [finishG_eq]
  unfold Slot.writeG gResult
  split <;> rfl

theorem keepBits_sector (a : Word) : keepBits a 63 5 = a &&& ~~~31 := rfl

theorem toNat_decide_mul (p : Prop) [Decidable p] (k : Nat) : (decide p).toNat * k = if p then k else 0 := by
  by_cases h : p <;> simp [h]

/-- UE of an access is a trap with tfva at the sector and KIND and OPC in tinfo (18 R344, R345). -/
theorem trapsHereFrom_ueTrap {i : Instr} {s u : State} {acc : Access} {first a : Word}
    {n : Nat} (h : exec i s = .next (takeInfo u (ueTrap acc first a))) (hn : acc.kind * 2 ^ 12 + acc.opc.toNat = n) :
    TrapsHereFrom i s u 13 (a &&& ~~~31)
      ((if first.toNat / 65536 < (a &&& ~~~31).toNat / 65536 then 2 ^ 21 else 0) + n) := by
  have hi : (ueTrap acc first a).info =
      infoAccess 0 (decide (first.toNat / 65536 < (a &&& ~~~31).toNat / 65536)) acc.kind acc.opc := by
    rw [← keepBits_sector]
    rfl
  rw [takeInfo, hi, infoAccess, toNat_decide_mul, Nat.zero_mul, Nat.zero_add, Nat.add_assoc, hn] at h
  exact trapsFrom_takeTrap h

end Sys2Proof.Safety

namespace Sys2Proof.Machine

open Sys2Proof.Safety

/-! ## mfs and mts, by the access of the register (05 R113) -/

theorem exec_mfs_permitted {s : State} {d : GReg} {r : SReg} (h : sregAccess r ≠ .rwp ∨ ¬UserMode s) :
    exec (.mfs d r) s = .next (finishG s d (readSpecial s r)) := by
  refine if_neg ?_
  rw [Bool.and_eq_true, Bool.not_eq_true', decide_eq_true_eq, not_and, Bool.not_eq_false]
  exact fun e => (privileged_iff_not_userMode s).mpr (h.resolve_left (not_not_intro e))

theorem exec_mfs_denied {s : State} {d : GReg} {r : SReg} (h : sregAccess r = .rwp) (hu : UserMode s) :
    exec (.mfs d r) s = .next (trapSpecial s r 0x0C2) := by
  refine if_pos ?_
  rw [h, privileged_of_userMode hu]
  rfl

theorem exec_mts (r : SReg) (a : GReg) (s : State) : exec (.mts r a) s = execMts r a s := rfl

theorem exec_mts_ro {s : State} {r : SReg} (a : GReg) (h : sregAccess r = .ro) : exec (.mts r a) s = .next (advance s) := by
  rw [exec_mts, execMts, h]

theorem exec_mts_rw {s : State} {r : SReg} (a : GReg) (h : sregAccess r = .rw) :
    exec (.mts r a) s = .next (advance (writeSpecial s r (readG s a))) := by
  rw [exec_mts, execMts, h]

theorem exec_mts_fuse {s : State} {r : SReg} (a : GReg) (h : sregAccess r = .fuse) :
    exec (.mts r a) s = .next (trapSpecial s r 0x0C4) := by
  rw [exec_mts, execMts, h]

theorem exec_mts_rwp {s : State} {r : SReg} (a : GReg) (h : sregAccess r = .rwp) (hu : ¬UserMode s) :
    exec (.mts r a) s = .next (advance (writeSpecial s r (readG s a))) := by
  rw [exec_mts, execMts, h]
  exact if_pos ((privileged_iff_not_userMode s).mpr hu)

theorem exec_mts_rwp_denied {s : State} {r : SReg} (a : GReg) (h : sregAccess r = .rwp) (hu : UserMode s) :
    exec (.mts r a) s = .next (trapSpecial s r 0x0C4) := by
  rw [exec_mts, execMts, h]
  exact if_neg (by rw [privileged_of_userMode hu]; exact Bool.false_ne_true)

theorem sregAccess_eq_rwp_iff (r : SReg) : sregAccess r = .rwp ↔
    r ∈ [SReg.sspill, .sdctl, .scarve, .svgroup, .tvec, .tcause false, .tcause true, .tip false, .tip true,
      .tfva false, .tfva true, .tinfo false, .tinfo true, .tarea false, .tarea true] := by
  cases r
  case tcause l => cases l <;> decide
  case tip l => cases l <;> decide
  case tfva l => cases l <;> decide
  case tinfo l => cases l <;> decide
  case tarea l => cases l <;> decide
  all_goals simp [sregAccess]

/-! ## Physical identifiers (01 R18) -/

theorem le_physFrom (as : List Nat) : ∀ n, n ≤ physFrom as n := by
  induction as with
  | nil => exact fun n => n.le_refl
  | cons a as ih =>
    intro n
    unfold physFrom
    split
    · exact (Nat.le_succ n).trans (ih (n + 1))
    · exact ih n

/-- A number below every absent identifier is its own physical identifier. -/
theorem physFrom_of_lt_all (as : List Nat) (n : Nat) (h : ∀ a ∈ as, n < a) : physFrom as n = n := by
  induction as with
  | nil => rfl
  | cons a as ih =>
    unfold physFrom
    rw [if_neg (Nat.not_le.mpr (h a List.mem_cons_self))]
    exact ih fun b hb => h b (List.mem_cons_of_mem a hb)

/-- With the absent identifiers in rising order, logical number n has the identifier that is present and stands n above the absent
ones below it. -/
theorem physFrom_spec (as : List Nat) : ∀ n, as.Pairwise (fun a b => a < b) →
    physFrom as n ∉ as ∧ physFrom as n = n + as.countP (fun a => a < physFrom as n) := by
  induction as with
  | nil => exact fun n _ => ⟨List.not_mem_nil, rfl⟩
  | cons a as ih =>
    intro n h
    obtain ⟨ha, has⟩ := List.pairwise_cons.mp h
    by_cases hn : a ≤ n
    · have e : physFrom (a :: as) n = physFrom as (n + 1) := by rw [physFrom, if_pos hn]
      obtain ⟨hmem, hcount⟩ := ih (n + 1) has
      have hlt : a < physFrom as (n + 1) := Nat.lt_of_lt_of_le (Nat.lt_succ_of_le hn) (le_physFrom as (n + 1))
      rw [e, List.countP_cons_of_pos (by simpa using hlt)]
      exact ⟨fun hm => (List.mem_cons.mp hm).elim hlt.ne' hmem, by omega⟩
    · have hall : ∀ b ∈ a :: as, n < b := by
        intro b hb
        rcases List.mem_cons.mp hb with rfl | hb
        · omega
        · have := ha b hb; omega
      rw [physFrom_of_lt_all _ n hall]
      refine ⟨fun hm => (hall n hm).ne rfl, ?_⟩
      rw [List.countP_eq_zero.mpr]
      · rfl
      · intro b hb
        have := hall b hb
        simp only [decide_eq_true_eq]
        omega

/-! ## Registers that pack several fields (01 R19; 08 R202; 14 R301) -/

theorem sdomainWord_fields (x : CtxCell) : (sdomainWord x).toNat % 16 = x.widest.toNat ∧
    (sdomainWord x).toNat / 16 % 16 = x.domain.toNat ∧ (sdomainWord x).toNat / 256 = x.fails.toNat := by
  have hw := x.widest.isLt
  have hd := x.domain.isLt
  have hf := x.fails.isLt
  rw [sdomainWord, BitVec.toNat_ofNat]
  omega

theorem dieCells_le (s : State) (d : Nat) : dieCells s d ≤ 256 := Nat.sub_le _ _

theorem sinvWord_fields (s : State) : (sinvWord s).toNat / 2 ^ 36 = s.plat.stackBits.toNat ∧
    ∀ n, n < 4 → (sinvWord s).toNat / 2 ^ (9 * n) % 512 = dieCells s n := by
  have h0 := dieCells_le s 0
  have h1 := dieCells_le s 1
  have h2 := dieCells_le s 2
  have h3 := dieCells_le s 3
  have hb := s.plat.stackBits.isLt
  rw [sinvWord, BitVec.toNat_ofNat]
  refine ⟨by omega, fun n hn => ?_⟩
  match n, hn with
  | 0, _ => omega
  | 1, _ => omega
  | 2, _ => omega
  | 3, _ => omega

/-- Four flags packed into a number are its lowest four bits. -/
theorem testBit_pack4 : ∀ (b0 b1 b2 b3 : Bool) (i : Fin 4),
    (b0.toNat + 2 * b1.toNat + 4 * b2.toNat + 8 * b3.toNat).testBit i.val = #v[b0, b1, b2, b3][i] := by decide

theorem mxstatWord_fields (x : Mxu) (hq : x.queue.length ≤ 16) :
    (mxstatWord x).toNat % 4096 = x.queue.length ∧
    (mxstatWord x).toNat / 2 ^ 12 % 16 = (if x.pend = none then 0 else 1) ∧
    (mxstatWord x).toNat / 2 ^ 16 % 256 = (if x.narrow then 1 else 0) ∧
    (mxstatWord x).toNat / 2 ^ 24 % 16 = x.err.toNat ∧ (mxstatWord x).toNat / 2 ^ 32 % 65536 = x.k.toNat ∧
    (mxstatWord x).toNat / 2 ^ 48 = x.errtk.toNat ∧
    ∀ i : Fin 4, ((mxstatWord x).toNat / 2 ^ 28).testBit i.val = x.poisoned[i] := by
  have he := x.err.isLt
  have hk := x.k.isLt
  have ht := x.errtk.isLt
  have h0 := x.poisoned[0].toNat_le
  have h1 := x.poisoned[1].toNat_le
  have h2 := x.poisoned[2].toNat_le
  have h3 := x.poisoned[3].toNat_le
  have hn : x.narrow.toNat = if x.narrow then 1 else 0 := by cases x.narrow <;> rfl
  have hp : x.pend.isSome.toNat = if x.pend = none then 0 else 1 := by cases x.pend <;> rfl
  have hn1 := x.narrow.toNat_le
  have hp1 := x.pend.isSome.toNat_le
  rw [← hn, ← hp, mxstatWord, BitVec.toNat_ofNat]
  refine ⟨by omega, by omega, by omega, by omega, by omega, by omega, fun i => ?_⟩
  have hv : x.poisoned[i] = #v[x.poisoned[0], x.poisoned[1], x.poisoned[2], x.poisoned[3]][i] := by
    match i with
    | 0 => rfl
    | 1 => rfl
    | 2 => rfl
    | 3 => rfl
  rw [hv, ← testBit_pack4, ← Bool.true_and (Nat.testBit _ _), ← decide_eq_true i.isLt, ← Nat.testBit_mod_two_pow]
  exact congrArg (fun m : Nat => m.testBit i.val) (by omega)

/-! ## Bytes of a number (00 R3) -/

@[simp] theorem length_bytesOf (k : Nat) : ∀ x, (bytesOf x k).length = k := by
  induction k with
  | zero => exact fun _ => rfl
  | succ k ih => exact fun x => congrArg (· + 1) (ih (x / 256))

theorem getElem_bytesOf (k : Nat) : ∀ (x i : Nat) (h : i < (bytesOf x k).length),
    (bytesOf x k)[i] = BitVec.ofNat 8 (x / 256 ^ i) := by
  induction k with
  | zero => exact fun x i h => absurd h (Nat.not_lt_zero i)
  | succ k ih =>
    intro x i h
    cases i with
    | zero => simp [bytesOf]
    | succ i =>
      simp only [bytesOf, List.getElem_cons_succ, ih, Nat.div_div_eq_div_mul]
      rw [Nat.pow_succ']

theorem natOf_append (as bs : List Byte) : natOf (as ++ bs) = natOf as + 256 ^ as.length * natOf bs := by
  induction as with
  | nil => simp [natOf]
  | cons a as ih =>
    simp only [List.cons_append, natOf, ih, List.length_cons]
    ring

theorem natOf_div_mod (bs : List Byte) : ∀ (i : Nat) (h : i < bs.length), natOf bs / 256 ^ i % 256 = bs[i].toNat := by
  induction bs with
  | nil => exact fun i h => absurd h (Nat.not_lt_zero i)
  | cons b bs ih =>
    intro i h
    have hb := b.isLt
    cases i with
    | zero => simp only [natOf, List.getElem_cons_zero]; omega
    | succ i =>
      have hd : natOf (b :: bs) / 256 = natOf bs := by simp only [natOf]; omega
      rw [Nat.pow_succ', ← Nat.div_div_eq_div_mul, hd]
      exact ih i (Nat.lt_of_succ_lt_succ h)

theorem ofNat_div_eq_extractLsb' {m : Nat} (w : BitVec m) (i : Nat) :
    BitVec.ofNat 8 (w.toNat / 256 ^ i) = w.extractLsb' (8 * i) 8 := by
  apply BitVec.eq_of_toNat_eq
  rw [BitVec.toNat_ofNat, BitVec.extractLsb'_toNat, Nat.shiftRight_eq_div_pow, Nat.pow_mul]

theorem getElem_bytesOf_toNat {m : Nat} (w : BitVec m) {k i : Nat} (h : i < (bytesOf w.toNat k).length) :
    (bytesOf w.toNat k)[i] = w.extractLsb' (8 * i) 8 :=
  (getElem_bytesOf k w.toNat i h).trans (ofNat_div_eq_extractLsb' w i)

theorem extractLsb'_ofNat_natOf (bs : List Byte) {n i : Nat} (hn : i < n) (h : i < bs.length) :
    (BitVec.ofNat (8 * n) (natOf bs)).extractLsb' (8 * i) 8 = bs[i] := by
  have hsplit : 2 ^ (8 * n) = 2 ^ (8 * i) * 2 ^ (8 * (n - i)) := by rw [← Nat.pow_add]; congr 1; omega
  have hdvd : 2 ^ 8 ∣ 2 ^ (8 * (n - i)) := Nat.pow_dvd_pow 2 (by omega)
  apply BitVec.eq_of_toNat_eq
  rw [BitVec.extractLsb'_toNat, BitVec.toNat_ofNat, Nat.shiftRight_eq_div_pow, hsplit, Nat.mod_mul_right_div_self,
    Nat.mod_mod_of_dvd _ hdvd, Nat.pow_mul]
  exact natOf_div_mod bs i h

theorem physNat_succ (s : State) (pa n : Nat) :
    physNat s pa (n + 1) = physNat s pa n + 256 ^ n * (physByte s (pa + n)).toNat := by
  unfold physNat physBytes
  rw [List.range_succ, List.map_append, natOf_append]
  simp [natOf]

/-! ## What the memory system at work leaves as it was -/

section
variable {s t : State} (h : Quiet s t)
include h

theorem Quiet.curCell : t.curCell = s.curCell := (congrArg State.curCell h.only :)

theorem Quiet.curSlot : t.curSlot = s.curSlot := (congrArg State.curSlot h.only :)

theorem Quiet.slots : t.slots = s.slots := (congrArg State.slots h.only :)

theorem Quiet.cells : t.cells = s.cells := (congrArg State.cells h.only :)

theorem Quiet.place : t.place = s.place := (congrArg State.place h.only :)

theorem Quiet.images : t.images = s.images := (congrArg State.images h.only :)

theorem Quiet.turnNo : t.turnNo = s.turnNo := (congrArg State.turnNo h.only :)

theorem Quiet.slotAt (c : Nat) (k : Fin 4) : slotAt t c k = slotAt s c k := by
  unfold Machine.slotAt
  rw [h.slots]

theorem Quiet.slotOf : slotOf t = slotOf s := by
  unfold Machine.slotOf
  rw [h.curCell, h.curSlot, h.slotAt]

theorem Quiet.cellAt (c : Nat) : cellAt t c = cellAt s c := by
  unfold Machine.cellAt
  rw [h.cells]

theorem Quiet.ccAt (c : Nat) : ccAt t c = ccAt s c := congrArg Cell.cc (h.cellAt c)

theorem Quiet.ccOf : ccOf t = ccOf s := by
  unfold Machine.ccOf
  rw [h.curCell, h.ccAt]

theorem Quiet.readLoc (l : Loc) : readLoc t l = readLoc s l := by
  cases l with
  | mem pa => simp only [Machine.readLoc, softByte, h.place, h.images, h.turnNo, h.bytes pa]
  | pad o => simp only [Machine.readLoc, h.ccOf]

theorem Quiet.loadedBytes (ls : List Loc) : loadedBytes t ls = loadedBytes s ls :=
  List.map_congr_left fun l _ => h.readLoc l

/-- A slot put after the memory system has worked: the memory system and that slot alone have changed. -/
theorem Quiet.putSlot_frame (x : Slot) : SameBytes s (putSlot t x) ∧ OtherSlots s (putSlot t x) ∧
    OnlyMemory s { putSlot t x with slots := s.slots } :=
  ⟨h.bytes, otherSlots_putSlot h.curCell h.curSlot h.slotAt x,
    (congrArg (fun z : State => { z with slots := s.slots }) h.only :)⟩

end

/-! ## The checks of an access -/

theorem lowestBad_error_ne_none (a : Word) (b : Bad) (l : List (Word × Except Bad Loc)) :
    lowestBad ((a, .error b) :: l) ≠ none := by
  cases hl : lowestBad l with
  | none => simp [lowestBad, hl]
  | some e =>
    simp only [lowestBad, hl]
    split <;> exact Option.some_ne_none _

/-- With no failing byte every byte has its place. -/
theorem length_locsOf {l : List (Word × Except Bad Loc)} (h : lowestBad l = none) : (locsOf l).length = l.length := by
  induction l with
  | nil => rfl
  | cons e l ih =>
    obtain ⟨a, r⟩ := e
    cases r with
    | ok x => exact congrArg (· + 1) (ih h)
    | error b => exact absurd h (lowestBad_error_ne_none a b l)

theorem length_of_checkBytes {s : State} {acc : Access} {first : Word} {as : List Word} {ls : List Loc}
    (h : checkBytes s acc first as = .ok ls) : ls.length = as.length := by
  unfold checkBytes at h
  dsimp only at h
  split at h
  · cases h
  · next hn =>
    cases h
    rw [length_locsOf hn, List.length_map]

theorem length_of_checkAccess {s t : State} {acc : Access} {first : Word} {as : List Word} {ls : List Loc}
    (h : checkAccess s acc first as = .ok t ls) : ls.length = as.length :=
  length_of_checkBytes (quiet_checkAccess.2.2 t ls h).2

/-- An access whose bytes passed their checks and whose lines have been got: only the memory system has worked. -/
theorem quiet_of_lines {s u v : State} {acc : Access} {first : Word} {as : List Word} {ls : List Loc} {write : Bool}
    (h : checkAccess s acc first as = .ok u ls) (hl : getLines u write ls = .ok v) : Quiet s v :=
  (quiet_checkAccess.2.2 u ls h).1.trans (quiet_getLines.1 v hl)

@[simp] theorem length_addrsFrom (a : Word) (n : Nat) : (addrsFrom a n).length = n := by simp [addrsFrom]

/-! ## Loads and stores, by what their checks and lines come to -/

section
variable {s u w : State} {acc : Access} {first : Word} {as : List Word} {ls : List Loc}

theorem loadBytes_of_check_wait (h : checkAccess s acc first as = .wait w) :
    loadBytes s acc first as = .wait (waitHere w) := by
  rw [loadBytes, h]

theorem loadBytes_of_lines_wait (h : checkAccess s acc first as = .ok u ls) (hl : getLines u false ls = .error w) :
    loadBytes s acc first as = .wait (waitHere w) := by
  simp only [loadBytes, h, hl]

theorem loadBytes_of_poison {v : State} {a : Word} (h : checkAccess s acc first as = .ok u ls)
    (hl : getLines u false ls = .ok v) (hp : lowestPoison v as ls = some a) :
    loadBytes s acc first as = .trap v (ueTrap acc first a) := by
  simp only [loadBytes, h, hl, poisonTrap, hp, Option.map_some]

theorem loadBytes_of_lines {v : State} (h : checkAccess s acc first as = .ok u ls) (hl : getLines u false ls = .ok v)
    (hp : lowestPoison v as ls = none) :
    loadBytes s acc first as = .done (markSectors v (myPhys v) false ls) (loadedBytes v ls) := by
  simp only [loadBytes, h, hl, poisonTrap, hp, Option.map_none]

theorem storeBytes_of_check_wait {bs : List Byte} (h : checkAccess s acc first as = .wait w) :
    storeBytes s acc first as bs = .wait (waitHere w) := by
  rw [storeBytes, h]

theorem storeBytes_of_lines_wait {bs : List Byte} (h : checkAccess s acc first as = .ok u ls)
    (hl : getLines u true ls = .error w) : storeBytes s acc first as bs = .wait (waitHere w) := by
  simp only [storeBytes, h, hl]

theorem storeBytes_of_lines {v : State} {bs : List Byte} (h : checkAccess s acc first as = .ok u ls)
    (hl : getLines u true ls = .ok v) : storeBytes s acc first as bs = .done (performStore v ls bs) := by
  simp only [storeBytes, h, hl]

end

/-! ## ld and st, by what their access comes to (05 R118, R119) -/

section
variable {s t : State} {sz : Size} {o : MemOrder} {sign : Bool} {d : GReg} {m : MemOp}

theorem exec_ld : exec (.ld sz o sign d m) s = execLd sz o sign d m s := rfl

theorem exec_st : exec (.st sz o d m) s = execSt sz o d m s := rfl

theorem exec_ld_wait (h : loadBytes s (loadAccess 0x100) (effAddr s m) (addrsFrom (effAddr s m) (sizeBytes sz)) = .wait t) :
    exec (.ld sz o sign d m) s = .next t := by
  simp only [exec_ld, execLd, h]

theorem exec_ld_trap {e : TrapInfo}
    (h : loadBytes s (loadAccess 0x100) (effAddr s m) (addrsFrom (effAddr s m) (sizeBytes sz)) = .trap t e) :
    exec (.ld sz o sign d m) s = .next (takeInfo t e) := by
  simp only [exec_ld, execLd, h]

theorem exec_ld_done {bs : List Byte}
    (h : loadBytes s (loadAccess 0x100) (effAddr s m) (addrsFrom (effAddr s m) (sizeBytes sz)) = .done t bs) :
    exec (.ld sz o sign d m) s = .next (finishG t d (loadValue sign (sizeBytes sz) (natOf bs))) := by
  simp only [exec_ld, execLd, h]

theorem exec_st_wait
    (h : storeBytes s (storeAccess 0x102) (effAddr s m) (addrsFrom (effAddr s m) (sizeBytes sz))
      (bytesOf (readG s d).toNat (sizeBytes sz)) = .wait t) :
    exec (.st sz o d m) s = .next t := by
  simp only [exec_st, execSt, readN, h]

theorem exec_st_done
    (h : storeBytes s (storeAccess 0x102) (effAddr s m) (addrsFrom (effAddr s m) (sizeBytes sz))
      (bytesOf (readG s d).toNat (sizeBytes sz)) = .done t) :
    exec (.st sz o d m) s = .next (advance t) := by
  simp only [exec_st, execSt, readN, h]

end

/-! ## The byte at a place, before and after writes -/

/-- The byte that stands at a place of an access. -/
def placeByte (s : State) : Loc → Byte
  | .mem pa => physByte s pa
  | .pad p => memGet (ccOf s).spad p

theorem Quiet.placeByte {s t : State} (h : Quiet s t) (l : Loc) : placeByte t l = placeByte s l := by
  cases l with
  | mem pa => exact h.bytes pa
  | pad p => simp only [Machine.placeByte, h.ccOf]

/-- A byte written coherently touches nothing but the dirty bytes of caches. -/
theorem exists_physSet_eq (s : State) (pa : Nat) (b : Byte) : ∃ d, physSet s pa b = { s with dirty := d } := by
  unfold physSet
  split
  · exact ⟨_, rfl⟩
  · exact ⟨_, rfl⟩

theorem ccOf_physSet (s : State) (pa : Nat) (b : Byte) : ccOf (physSet s pa b) = ccOf s := by
  obtain ⟨d, e⟩ := exists_physSet_eq s pa b
  rw [e]
  rfl

theorem placeByte_writeLoc (s : State) (l l' : Loc) (b : Byte) :
    placeByte (writeLoc s l b) l' = if l = l' then b else placeByte s l' := by
  cases l with
  | mem pa =>
    cases l' with
    | mem pa' =>
      simp only [Loc.mem.injEq]
      exact physByte_physSet s pa pa' b
    | pad p' => simp [placeByte, writeLoc, ccOf_physSet]
  | pad p =>
    cases l' with
    | mem pa' => rfl
    | pad p' => simpa [placeByte, writeLoc] using memGet_memSet (ccOf s).spad p p' b

theorem placeByte_writeLocs_of_notMem (ls : List Loc) : ∀ (s : State) (bs : List Byte) (l : Loc), l ∉ ls →
    placeByte (writeLocs s ls bs) l = placeByte s l := by
  induction ls with
  | nil => exact fun s bs l _ => rfl
  | cons l' ls ih =>
    intro s bs l h
    cases bs with
    | nil => rfl
    | cons b bs =>
      rw [writeLocs, ih _ bs l fun hm => h (List.mem_cons_of_mem l' hm), placeByte_writeLoc,
        if_neg fun e : l' = l => h (e ▸ List.mem_cons_self)]

/-- The last byte written to a place stands there. -/
theorem placeByte_writeLocs (ls : List Loc) : ∀ (s : State) (bs : List Byte) (i : Nat) (h : i < ls.length)
    (hb : i < bs.length), ls[i] ∉ ls.drop (i + 1) → placeByte (writeLocs s ls bs) ls[i] = bs[i] := by
  induction ls with
  | nil => exact fun s bs i h => absurd h (Nat.not_lt_zero i)
  | cons l ls ih =>
    intro s bs i h hb hlast
    obtain ⟨b, bs, rfl⟩ := List.exists_cons_of_length_pos (Nat.lt_of_le_of_lt (Nat.zero_le i) hb)
    rw [writeLocs]
    cases i with
    | zero =>
      refine (placeByte_writeLocs_of_notMem ls _ bs l (by simpa using hlast)).trans ?_
      rw [placeByte_writeLoc, if_pos rfl]
      rfl
    | succ i => exact ih _ bs i (Nat.lt_of_succ_lt_succ h) (Nat.lt_of_succ_lt_succ hb) hlast

/-! ## What a store leaves as it was -/

/-- A store to the places `ls` has been performed: nothing has changed but what the memory system holds, the bytes at `ls`, the
poison of the scratchpad at hand, and the place store where a pool is hit. -/
structure StoresAt (ls : List Loc) (s t : State) : Prop where
  only : OnlyMemory s { t with cells := s.cells, place := s.place }
  others : OtherCells s.curCell s t
  cell : { cellAt t s.curCell with
    cc := { ccAt t s.curCell with spad := (ccOf s).spad, padPoison := (ccOf s).padPoison } } = cellAt s s.curCell
  place : (∀ sp ∈ s.place.spaces, hitsPool sp ls = false) → t.place = s.place
  bytes : ∀ l, l ∉ ls → placeByte t l = placeByte s l

namespace StoresAt

variable {ls : List Loc} {s t u : State}

theorem of_quiet (h : Quiet s t) : StoresAt ls s t where
  only := (congrArg (fun z : State => { z with cells := s.cells, place := s.place }) h.only :)
  others c _ := h.cellAt c
  cell := by rw [h.cellAt, h.ccAt]; rfl
  place _ := h.place
  bytes l _ := h.placeByte l

theorem curCell (h : StoresAt ls s t) : t.curCell = s.curCell := (congrArg State.curCell h.only :)

theorem curSlot (h : StoresAt ls s t) : t.curSlot = s.curSlot := (congrArg State.curSlot h.only :)

theorem slots (h : StoresAt ls s t) : t.slots = s.slots := (congrArg State.slots h.only :)

theorem slotAt (h : StoresAt ls s t) (c : Nat) (k : Fin 4) : slotAt t c k = slotAt s c k := by
  unfold Machine.slotAt
  rw [h.slots]

theorem slotOf (h : StoresAt ls s t) : slotOf t = slotOf s := by
  unfold Machine.slotOf
  rw [h.curCell, h.curSlot, h.slotAt]

theorem ccOf_eq (h : StoresAt ls s t) :
    { ccOf t with spad := (ccOf s).spad, padPoison := (ccOf s).padPoison } = ccOf s := by
  rw [ccOf, h.curCell]
  exact congrArg Cell.cc h.cell

theorem trans (h : StoresAt ls s t) (k : StoresAt ls t u) : StoresAt ls s u where
  only := by
    have hu : OnlyMemory s { u with cells := s.cells, place := s.place } := by
      have ht := h.only
      have hk := k.only
      unfold OnlyMemory at *
      rw [← hk] at ht
      exact ht
    exact hu
  others c hc := (k.others c (h.curCell ▸ hc)).trans (h.others c hc)
  cell := by
    have hk := k.cell
    rw [h.curCell] at hk
    have ht := h.cell
    rw [ccAt, ← hk] at ht
    exact ht
  place hp := by
    have ht := h.place hp
    exact (k.place (ht ▸ hp)).trans ht
  bytes l hl := (k.bytes l hl).trans (h.bytes l hl)

theorem padsOutside (h : StoresAt ls s t) : PadsOutside ls s t := by
  intro c o hc
  by_cases hcur : c = s.curCell
  · have := h.bytes (.pad o) (hc hcur)
    simp only [placeByte, ccOf, h.curCell] at this
    rw [hcur, this]
  · rw [ccAt, h.others c hcur, ccAt]

end StoresAt

theorem storesAt_writeLoc {ls : List Loc} (s : State) {l : Loc} (b : Byte) (h : l ∈ ls) : StoresAt ls s (writeLoc s l b) := by
  have hbytes : ∀ l', l' ∉ ls → placeByte (writeLoc s l b) l' = placeByte s l' := fun l' hl => by
    rw [placeByte_writeLoc, if_neg fun e : l = l' => hl (e ▸ h)]
  cases l with
  | mem pa =>
    obtain ⟨d, e⟩ := exists_physSet_eq s pa b
    rw [writeLoc, e] at hbytes ⊢
    exact ⟨rfl, fun _ _ => rfl, rfl, fun _ => rfl, hbytes⟩
  | pad p =>
    refine ⟨rfl, fun c hc => cellAt_putCell_other _ _ _ _ hc.symm, ?_, fun _ => rfl, hbytes⟩
    simp [writeLoc, putCcOf, putCc, ccAt, ccOf]

theorem storesAt_writeLocs {ls : List Loc} (ms : List Loc) : ∀ (s : State) (bs : List Byte), (∀ l ∈ ms, l ∈ ls) →
    StoresAt ls s (writeLocs s ms bs) := by
  induction ms with
  | nil => exact fun s _ _ => .of_quiet (.refl s)
  | cons l ms ih =>
    intro s bs h
    cases bs with
    | nil => exact .of_quiet (.refl s)
    | cons b bs =>
      exact (storesAt_writeLoc s b (h l List.mem_cons_self)).trans (ih _ bs fun m hm => h m (List.mem_cons_of_mem l hm))

/-- Poison of the scratchpad at hand replaced. -/
theorem storesAt_putPadPoison (ls : List Loc) (s : State) (l : List Nat) :
    StoresAt ls s (putCcOf s { ccOf s with padPoison := l }) where
  only := rfl
  others c hc := cellAt_putCell_other _ _ _ _ hc.symm
  cell := by simp [putCcOf, putCc, ccAt, ccOf]
  place _ := rfl
  bytes l _ := by cases l <;> simp [placeByte, putCcOf, putCc, ccAt, ccOf]

theorem storesAt_healLocs (s : State) (ls : List Loc) : StoresAt ls s (healLocs s ls) := by
  unfold healLocs
  dsimp only
  split
  · exact .of_quiet (quiet_poison s _)
  · exact (StoresAt.of_quiet (quiet_poison s _)).trans (storesAt_putPadPoison ls _ _)

theorem storesAt_damagePools (s : State) (ls : List Loc) : StoresAt ls s (damagePools s ls) := by
  unfold damagePools
  split
  · next h =>
    refine ⟨rfl, fun _ _ => rfl, rfl, fun hp => ?_, fun l _ => by cases l <;> rfl⟩
    obtain ⟨sp, hsp, hit⟩ := List.any_eq_true.mp h
    exact absurd hit (by rw [hp sp hsp]; exact Bool.false_ne_true)
  · exact .of_quiet (.refl s)

theorem storesAt_performStore (s : State) (ls : List Loc) (bs : List Byte) : StoresAt ls s (performStore s ls bs) :=
  (StoresAt.of_quiet (quiet_markSectors s _ _ _)).trans <|
    (storesAt_healLocs _ ls).trans <| (StoresAt.of_quiet (quiet_markGood _ _ _)).trans <|
      (storesAt_damagePools _ ls).trans <| (storesAt_writeLocs ls _ bs fun _ h => h).trans <|
        .of_quiet (quiet_settleLines _ _ _)

theorem placeByte_performStore (s : State) (ls : List Loc) (bs : List Byte) {i : Nat} (h : i < ls.length)
    (hb : i < bs.length) (hlast : ls[i] ∉ ls.drop (i + 1)) : placeByte (performStore s ls bs) ls[i] = bs[i] :=
  ((quiet_settleLines _ _ _).placeByte _).trans (placeByte_writeLocs ls _ bs i h hb hlast)

/-! ## An access that lies in the scratchpad alone (02 R41; 10 R213) -/

@[simp] theorem linesOf_pads (os : List Nat) : linesOf (os.map .pad) = [] := by
  simp [linesOf, List.filterMap_map]

@[simp] theorem contains_mem_pads (os : List Nat) (pa : Nat) : (os.map Loc.pad).contains (.mem pa) = false := by
  simp

@[simp] theorem copyPending_pads (s : State) (os : List Nat) : copyPending s (os.map .pad) = false := by
  simp only [copyPending, List.any_eq_false]
  intro x _ h
  obtain ⟨t, -, ht⟩ := List.any_eq_true.mp h
  unfold willWrite at ht
  obtain ⟨-, h⟩ := (Bool.and_eq_true _ _).mp ht
  obtain ⟨i, -, hi⟩ := List.any_eq_true.mp h
  dsimp only at hi
  split at hi
  · rw [contains_mem_pads, Bool.and_false] at hi
    exact Bool.false_ne_true hi
  · exact Bool.false_ne_true hi

@[simp] theorem getLines_pads (s : State) (write : Bool) (os : List Nat) : getLines s write (os.map .pad) = .ok s := by
  rw [getLines, copyPending_pads, linesOf_pads]
  rfl

@[simp] theorem markSectors_pads (s : State) (p : Nat) (write : Bool) (os : List Nat) :
    markSectors s p write (os.map .pad) = s := by
  rw [markSectors, linesOf_pads]
  rfl

@[simp] theorem fullLines_pads (os : List Nat) : fullLines (os.map .pad) = [] := by
  rw [fullLines, linesOf_pads]
  rfl

theorem healLocs_pads {s : State} (os : List Nat) (h : (ccOf s).padPoison = []) : healLocs s (os.map .pad) = s := by
  have hp : { s with poison := s.poison.filter (fun x => !([] : List Nat).contains (x / 4)) } = s := by simp
  unfold healLocs
  dsimp only
  rw [fullLines_pads, hp, h]
  rfl

@[simp] theorem damagePools_pads (s : State) (os : List Nat) : damagePools s (os.map .pad) = s := by
  refine if_neg ?_
  simp [hitsPool]

/-- A store to the scratchpad writes its bytes and nothing else. -/
theorem performStore_pads {s : State} (os : List Nat) (bs : List Byte) (h : (ccOf s).padPoison = []) :
    performStore s (os.map .pad) bs = writeLocs s (os.map .pad) bs := by
  unfold performStore
  dsimp only
  rw [markSectors_pads, healLocs_pads os h, fullLines_pads, linesOf_pads]
  exact congrArg (fun z => writeLocs z _ bs) (damagePools_pads s os)

theorem lowestPoison_pads {s : State} (h : (ccOf s).padPoison = []) (os : List Nat) :
    ∀ as, lowestPoison s as (os.map .pad) = none := by
  induction os with
  | nil => exact fun as => by cases as <;> rfl
  | cons o os ih =>
    intro as
    cases as with
    | nil => rfl
    | cons a as =>
      rw [List.map_cons, lowestPoison, h]
      exact ih as

theorem writeLocs_pads_rest (os : List Nat) : ∀ (s : State) (bs : List Byte),
    { writeLocs s (os.map .pad) bs with cells := s.cells } = s := by
  induction os with
  | nil => exact fun _ _ => rfl
  | cons o os ih =>
    intro s bs
    cases bs with
    | nil => rfl
    | cons b bs => exact congrArg (fun z : State => { z with cells := s.cells }) (ih (writeLoc s (.pad o) b) bs)

theorem padPoison_writeLocs (ls : List Loc) : ∀ (s : State) (bs : List Byte),
    (ccOf (writeLocs s ls bs)).padPoison = (ccOf s).padPoison := by
  induction ls with
  | nil => exact fun _ _ => rfl
  | cons l ls ih =>
    intro s bs
    cases bs with
    | nil => rfl
    | cons b bs =>
      refine (ih (writeLoc s l b) bs).trans ?_
      cases l with
      | mem pa => rw [writeLoc, ccOf_physSet]
      | pad p => rw [writeLoc, ccOf_putCcOf]

/-! ## Checks of an access outside the global range -/

theorem checkBytes_of_locate {s : State} {acc : Access} (first : Word) (f : Word → Loc) {as : List Word}
    (h : ∀ a ∈ as, locate s acc a = .ok (f a)) : checkBytes s acc first as = .ok (as.map f) := by
  have hr : as.map (fun a => (a, locate s acc a)) = as.map (fun a => (a, .ok (f a))) :=
    List.map_congr_left fun a ha => congrArg (Prod.mk a) (h a ha)
  have hbad : ∀ l : List Word, lowestBad (l.map (fun a => (a, .ok (f a)))) = none := by
    intro l
    induction l with
    | nil => rfl
    | cons a l ih => exact ih
  have hloc : ∀ l : List Word, locsOf (l.map (fun a => (a, .ok (f a)))) = l.map f := by
    intro l
    induction l with
    | nil => rfl
    | cons a l ih => exact congrArg (f a :: ·) ih
  simp only [checkBytes, hr, hbad, hloc]

/-- An access without a byte in the global range walks nothing. -/
theorem checkAccess_of_local {s : State} {acc : Access} {first : Word} {as : List Word} {ls : List Loc}
    (h : ∀ a ∈ as, bitsOf a 63 55 ≠ 0) (hc : checkBytes s acc first as = .ok ls) :
    checkAccess s acc first as = .ok s ls := by
  have hpages : pagesOf as = [] := by
    rw [pagesOf, List.filter_eq_nil_iff.mpr (fun a ha => by simpa using h a ha)]
    rfl
  have hue : walkUe s s.curCell (ccOf s).desc acc first as = none := by
    rw [walkUe, poisonedWalk, List.find?_eq_none.mpr (fun a ha => by simp [h a ha])]
    rfl
  simp only [checkAccess, hpages, walkPages, hue, hc]

theorem padLocate_plain {x : CtxCell} {o : Nat} (load : Bool) (h : o < padSize x) (hb : bankLen x = 0) (ht : x.tiles = []) :
    padLocate x load o = some o := by
  have hbanks : inBanks x o = false := by
    simp only [inBanks, hb, Bool.and_eq_false_iff, decide_eq_false_iff_not]
    omega
  have hown : tileOwner x (o / 4096) = none := by rw [tileOwner, ht]; rfl
  simp [padLocate, Nat.not_le.mpr h, hbanks, hown]

/-- A byte of the own-scratchpad window lies in the scratchpad, untranslated (02 R41). -/
theorem locate_ownPad {s : State} {acc : Access} {a : Word} (hw : a.toNat / 2 ^ 48 = 0xFE00)
    (h : a.toNat % 2 ^ 48 < padSize (ccOf s)) (hb : bankLen (ccOf s) = 0) (ht : (ccOf s).tiles = []) :
    bitsOf a 63 55 ≠ 0 ∧ locate s acc a = .ok (.pad (a.toNat % 2 ^ 48)) := by
  have hlt := a.isLt
  have hglobal : bitsOf a 63 55 ≠ 0 := by rw [bitsOf]; omega
  have hwin : bitsOf a 63 48 = 0xFE00 := by rw [bitsOf]; omega
  have hoff : bitsOf a 47 0 = a.toNat % 2 ^ 48 := by rw [bitsOf]; omega
  refine ⟨hglobal, ?_⟩
  simp only [locate, hglobal, hwin, hoff, padLocate_plain acc.load h hb ht, if_true, if_false]

/-- The places of n bytes of a scratchpad from an offset on. -/
def padLocs (off n : Nat) : List Loc := ((List.range n).map (fun i => off + i)).map .pad

@[simp] theorem length_padLocs (off n : Nat) : (padLocs off n).length = n := by simp [padLocs]

theorem getElem_padLocs (off n i : Nat) (h : i < (padLocs off n).length) : (padLocs off n)[i] = .pad (off + i) := by
  simp [padLocs]

theorem mem_padLocs {off n p : Nat} : Loc.pad p ∈ padLocs off n ↔ off ≤ p ∧ p < off + n := by
  simp only [padLocs, List.mem_map, List.mem_range, Loc.pad.injEq, exists_exists_and_eq_and]
  constructor
  · rintro ⟨i, hi, rfl⟩
    omega
  · exact fun h => ⟨p - off, by omega, by omega⟩

/-- Bytes at rising offsets are each written once. -/
theorem getElem_padLocs_notMem_drop (off n i : Nat) (h : i < (padLocs off n).length) :
    (padLocs off n)[i] ∉ (padLocs off n).drop (i + 1) := by
  intro hm
  obtain ⟨j, hj, e⟩ := List.mem_drop_iff_getElem.mp hm
  rw [getElem_padLocs, getElem_padLocs, Loc.pad.injEq] at e
  omega

/-- The addresses of an access inside the own-scratchpad window do not leave it. -/
theorem toNat_add_in_window {ea : Word} {n i : Nat} (hw : ea.toNat / 2 ^ 48 = 0xFE00) (hn : ea.toNat % 2 ^ 48 + n ≤ 2 ^ 48)
    (hi : i < n) : (ea + BitVec.ofNat 64 i).toNat = ea.toNat + i := by
  rw [BitVec.toNat_add, BitVec.toNat_ofNat]
  omega

/-- Bytes of the own scratchpad that no engine and no bank has pass their checks, without a walk (02 R41; 10 R213). -/
theorem checkAccess_ownPad {s : State} (acc : Access) {ea : Word} {n : Nat} (hw : ea.toNat / 2 ^ 48 = 0xFE00)
    (hn : ea.toNat % 2 ^ 48 + n ≤ padSize (ccOf s)) (hb : bankLen (ccOf s) = 0) (ht : (ccOf s).tiles = []) :
    checkAccess s acc ea (addrsFrom ea n) = .ok s (padLocs (ea.toNat % 2 ^ 48) n) := by
  have hsize : padSize (ccOf s) ≤ 2 ^ 48 := by rw [padSize, bitsOf]; omega
  have hto {i : Nat} (hi : i < n) := toNat_add_in_window hw (hn.trans hsize) hi
  have hloc : ∀ a ∈ addrsFrom ea n, bitsOf a 63 55 ≠ 0 ∧ locate s acc a = .ok (.pad (a.toNat % 2 ^ 48)) := by
    intro a ha
    obtain ⟨i, hi, rfl⟩ := List.mem_map.mp ha
    have e := hto (List.mem_range.mp hi)
    have hlt := List.mem_range.mp hi
    exact locate_ownPad (by rw [e]; omega) (by rw [e]; omega) hb ht
  refine checkAccess_of_local (fun a ha => (hloc a ha).1) ?_
  rw [checkBytes_of_locate ea (fun a => .pad (a.toNat % 2 ^ 48)) fun a ha => (hloc a ha).2, addrsFrom, padLocs,
    List.map_map, List.map_map]
  refine congrArg Except.ok (List.map_congr_left fun i hi => congrArg Loc.pad ?_)
  have hi := List.mem_range.mp hi
  change (ea + BitVec.ofNat 64 i).toNat % 2 ^ 48 = ea.toNat % 2 ^ 48 + i
  rw [hto hi]
  omega

/-- What a store to the scratchpad alone leaves of the package. -/
theorem StoresAt.onlySlotCc {ls : List Loc} {s t : State} (h : StoresAt ls s t) (hrest : { t with cells := s.cells } = s)
    (x : Slot) : OnlySlotCc s (putSlot t x) :=
  ⟨congrArg (fun z : State => { z with slots := s.slots }) hrest, otherSlots_putSlot h.curCell h.curSlot h.slotAt x, h.others,
    congrArg (fun z : Cell => { z with cc := ccOf s }) h.cell⟩

theorem ccOf_writeLocs (s : State) (ls : List Loc) (bs : List Byte) :
    { ccOf (writeLocs s ls bs) with spad := (ccOf s).spad } = ccOf s := by
  have h := (storesAt_writeLocs (ls := ls) ls s bs fun _ hl => hl).ccOf_eq
  rw [← padPoison_writeLocs ls s bs] at h
  exact h

end Sys2Proof.Machine

namespace Sys2Proof

open Sys2Proof.Machine Sys2Proof.Safety

/-! ## Every special register read and written (05 R113) -/

theorem readSpecial_claim : Claims.ReadSpecial := by
  intro s d r
  refine ⟨fun h => gives_finishG (exec_mfs_permitted h), fun h hu => trapsHere_trapSpecial (exec_mfs_denied h hu),
    sregAccess_eq_rwp_iff r, ?_, rfl, rfl, rfl, rfl, rfl, fun _ => rfl, fun _ => ⟨rfl, rfl, rfl, rfl⟩, rfl, rfl, rfl, rfl, rfl,
    rfl, rfl, rfl, fun i => ⟨rfl, ?_⟩, sdomainWord_fields (ccOf s), ⟨fun hp => ?_, fun h => physFrom_spec _ s.curCell h⟩,
    sinvWord_fields s, fun hq => mxstatWord_fields (ccOf s).mxu hq⟩
  · rw [Nat.mul_comm]
    rfl
  · exact BitVec.toNat_setWidth_of_le (by decide)
  · exact (BitVec.toNat_ofNat _ _).trans (Nat.mod_eq_of_lt (by omega))

theorem writeSpecial_claim : Claims.WriteSpecial := by
  intro s a
  refine ⟨gives_advance_putSlot (exec_mts_rw a rfl), givesCc_advance_putCcOf (exec_mts_rw a rfl),
    fun r h => gives_advance (exec_mts_ro a h), fun r h => trapsHere_trapSpecial (exec_mts_fuse a h),
    fun hu r h => trapsHere_trapSpecial (exec_mts_rwp_denied a h hu), fun hu => ?_⟩
  have slot {r : SReg} {x : Slot} (hr : sregAccess r = .rwp) (e : writeSpecial s r (readG s a) = putSlot s x) :
      Gives (.mts r a) s (nextIp x) :=
    gives_advance_putSlot (by rw [exec_mts_rwp a hr hu, e])
  exact ⟨givesCc_advance_putCcOf (exec_mts_rwp a rfl hu), givesCc_advance_putCcOf (exec_mts_rwp a rfl hu),
    fun l => ⟨slot rfl rfl, slot rfl rfl, slot rfl rfl, slot rfl rfl, slot rfl rfl⟩⟩

/-- Settles O16: mfs and mts each have one arm per class of access; the packed registers are read field by field. -/
theorem specialRegisters : Obligations.SpecialRegisters := ⟨readSpecial_claim, writeSpecial_claim⟩

/-! ## Loads and the order of bytes (05 R118; 00 R3) -/

theorem loads_claim : Claims.Loads := by
  intro s u v w sz o sign d m ls
  refine ⟨fun hc => exec_ld_wait (loadBytes_of_check_wait hc),
    fun hc hl => exec_ld_wait (loadBytes_of_lines_wait hc hl), fun hc hl => ⟨fun a hp => ?_, fun hp => ?_⟩⟩
  · exact trapsHereFrom_ueTrap (exec_ld_trap (loadBytes_of_poison hc hl hp)) rfl
  · have hv : Quiet s v := quiet_of_lines hc hl
    have hq : Quiet s (markSectors v (myPhys v) false ls) := hv.trans (quiet_markSectors v _ _ _)
    have hlen : ls.length = sizeBytes sz := (length_of_checkAccess hc).trans (length_addrsFrom _ _)
    refine ⟨_, BitVec.ofNat _ (natOf (loadedBytes s ls)), ?_, fun i hi => ?_, hlen, slotOf_putSlot _ _, hq.putSlot_frame _⟩
    · rw [exec_ld_done (loadBytes_of_lines hc hl hp), finishG_eq_putSlot_gResult, hq.slotOf, hv.loadedBytes]
      rfl
    · rw [extractLsb'_ofNat_natOf _ (hlen ▸ hi) (by simpa [loadedBytes] using hi)]
      exact List.getElem_map _

theorem byteOrder_claim : Claims.ByteOrder := by
  refine fun s pa n => ⟨rfl, physNat_succ s pa n, fun w i hi => ?_⟩
  have h : i < (bytesOf w.toNat 8).length := by rw [length_bytesOf]; exact hi
  rw [List.getElem?_eq_getElem h, getElem_bytesOf_toNat]

/-- Settles O19: the memory system at work is quiet, so the bytes read where the lines were got are those of the state before. -/
theorem loadedValues : Obligations.LoadedValues := ⟨loads_claim, byteOrder_claim⟩

/-! ## Stores, and the own scratchpad (05 R119; 02 R41; 10 R213) -/

theorem stores_claim : Claims.Stores := by
  intro s u v w sz o d m ls
  refine ⟨fun hc => exec_st_wait (storeBytes_of_check_wait hc),
    fun hc hl => exec_st_wait (storeBytes_of_lines_wait hc hl), fun hc hl => ?_⟩
  have hlen : ls.length = sizeBytes sz := (length_of_checkAccess hc).trans (length_addrsFrom _ _)
  have hf : StoresAt ls s (performStore v ls (bytesOf (readG s d).toNat (sizeBytes sz))) :=
    (StoresAt.of_quiet (quiet_of_lines hc hl)).trans (storesAt_performStore v ls _)
  refine ⟨_, (exec_st_done (storeBytes_of_lines hc hl)).trans (congrArg _ (advance_eq _)), ?_, hlen, fun i hi hlast => ?_,
    fun a ha => hf.bytes (.mem a) ha, hf.padsOutside,
    otherSlots_putSlot hf.curCell hf.curSlot hf.slotAt _, hf.others, hf.ccOf_eq, hf.place, ?_⟩
  · rw [slotOf_putSlot, hf.slotOf]
    rfl
  · have hb : i < (bytesOf (readG s d).toNat (sizeBytes sz)).length := by rw [length_bytesOf, ← hlen]; exact hi
    have e := (placeByte_performStore v ls _ hi hb hlast).trans (getElem_bytesOf_toNat _ hb)
    rw [← e]
    cases ls[i] <;> rfl
  · exact (congrArg (fun z : State => { z with slots := s.slots }) hf.only :)

theorem ownScratchpad_claim : Claims.OwnScratchpad := by
  intro s sz o sign d m n ea off c hw hn hbank ht hp
  have hb : bankLen (ccOf s) = 0 := by
    rw [bankLen, bitsOf, show (ccOf s).scarve.toNat / 2 ^ 16 % 2 ^ (23 + 1 - 16) = 0 from hbank, Nat.zero_mul]
  have hc (acc : Access) : checkAccess s acc ea (addrsFrom ea n) = .ok s (padLocs off n) :=
    checkAccess_ownPad acc hw hn hb ht
  constructor
  · have hload := loadBytes_of_lines (hc (loadAccess 0x100)) (getLines_pads s false _) (lowestPoison_pads hp _ _)
    rw [padLocs, markSectors_pads, ← padLocs] at hload
    refine ⟨BitVec.ofNat _ (natOf (loadedBytes s (padLocs off n))), fun i hi => ?_, gives_finishG (exec_ld_done hload)⟩
    have hlen : i < (loadedBytes s (padLocs off n)).length := by simpa [loadedBytes] using hi
    rw [extractLsb'_ofNat_natOf _ hi hlen]
    simp only [loadedBytes, List.getElem_map, getElem_padLocs]
    rfl
  · let bs := bytesOf (readG s d).toNat n
    let t := writeLocs s (padLocs off n) bs
    have hstore := storeBytes_of_lines (bs := bs) (hc (storeAccess 0x102)) (getLines_pads s true _)
    have hperf : performStore s (padLocs off n) bs = t := performStore_pads _ bs hp
    have hf : StoresAt (padLocs off n) s t := storesAt_writeLocs _ s bs fun _ h => h
    rw [hperf] at hstore
    refine ⟨ccOf t, ⟨_, (exec_st_done hstore).trans (congrArg _ (advance_eq _)), ?_, rfl,
      hf.onlySlotCc (writeLocs_pads_rest _ s bs) _⟩, ccOf_writeLocs s _ bs, fun p => ?_⟩
    · rw [slotOf_putSlot, hf.slotOf]
      rfl
    · split
      · next hin =>
        have hi : p - off < (padLocs off n).length := by rw [length_padLocs]; omega
        have hib : p - off < bs.length := by rw [length_bytesOf]; omega
        have h := placeByte_writeLocs (padLocs off n) s bs (p - off) hi hib (getElem_padLocs_notMem_drop off n _ hi)
        rw [getElem_padLocs, getElem_bytesOf_toNat, show off + (p - off) = p by omega] at h
        exact h
      · next hout =>
        exact placeByte_writeLocs_of_notMem _ s bs (.pad p) fun h => hout (mem_padLocs.mp h)

/-- Settles O20: a store changes the bytes at its places only; in the own scratchpad its places are the offsets themselves. -/
theorem storedBytes : Obligations.StoredBytes := ⟨stores_claim, ownScratchpad_claim⟩

end Sys2Proof
end

section
/-! Proofs about the package after reset: what each table holds. -/

namespace Sys2Proof.Safety

open Sys2Proof.Machine

/-! ## The machine after reset (01 R14; 20 R366; 22 R392; 23 R416) -/

@[simp] theorem slotAt_reset (c : Nat) (k : Fin 4) : slotAt State.reset c k = Slot.reset := rfl

@[simp] theorem cellAt_reset (c : Nat) : cellAt State.reset c = Cell.reset := rfl

@[simp] theorem physByte_reset (a : Nat) : physByte State.reset a = 0 := rfl

theorem inv_reset : Inv State.reset := ⟨rfl, rfl, rfl, rfl⟩

theorem freeClean_reset : FreeClean State.reset := fun _ _ _ => ⟨rfl, rfl, rfl⟩

theorem inPair_defaultOwner (k : Fin 12) : InPair k (defaultOwner k) := by
  revert k
  decide

theorem owner_reset (d : Fin 4) (k : Fin 12) : (State.reset.dies.tables[d]).owner[k] = defaultOwner k := by
  simp [State.reset, Dies.reset, DieTable.reset]

theorem active_reset (k : Fin 12) : State.reset.dies.active[k] = defaultOwner k := by simp [State.reset, Dies.reset]

theorem pairsOk_reset : PairsOk State.reset := by
  refine ⟨fun d k => ?_, fun h hh => absurd hh List.not_mem_nil⟩
  rw [owner_reset, active_reset]
  exact ⟨inPair_defaultOwner k, inPair_defaultOwner k⟩

theorem registers_reset : (∀ n : Fin 64, Slot.reset.g[n] = 0 ∧ Slot.reset.v[n] = 0) ∧
    ∀ n : Fin 8, Slot.reset.p[n] = false ∧ Slot.reset.m[n] = 0 := by
  simp [Slot.reset]

theorem stackBits_reset (d : Fin 4) : (State.reset.dies.tables[d]).freeze = 0 ∧ (State.reset.dies.tables[d]).busy = 0 ∧
    (State.reset.dies.tables[d]).fenced = 0 := by
  simp [State.reset, Dies.reset, DieTable.reset]

end Sys2Proof.Safety

namespace Sys2Proof

open Sys2Proof.Machine Sys2Proof.Safety

/-- Settles O1, table by table. -/
theorem afterReset : Obligations.AfterReset :=
  ⟨inv_reset, freeClean_reset, pairsOk_reset, fun _ _ => ⟨rfl, rfl⟩, fun _ _ => registers_reset, fun _ => rfl,
    fun d k => ⟨owner_reset d k, (active_reset k).trans (owner_reset d k).symm⟩, stackBits_reset, rfl, fun _ => ⟨rfl, rfl⟩,
    physByte_reset⟩

end Sys2Proof
end

section
/-! A refutation about the owners of stacks: a forced hand-over gives its stack back to its old owner where the heir is fenced, and no
clause of PairsOk says that the old owner is of the pair. -/

namespace Sys2Proof.Safety

open Sys2Proof.Machine

/-- A forced hand-over of stack 0 at its second step, whose old owner is die 2, not of the pair (0, 1). -/
def strayHandover : Handover := ⟨0, 2, 0, 1, true, none⟩

/-- The machine after reset, but for that hand-over, a fence of its heir, die 0, and the turn of its next stage. -/
def strayState : State :=
  { State.reset with
    dies := { Dies.reset with
      handovers := [strayHandover]
      health := Dies.reset.health.set 0 ⟨0, true, true⟩ }
    agenda := [.event (.handoverStage 0)] }

/-- What the stage makes of it: the stack passes on to the old owner, as the one die of the two that is not fenced. -/
def strayResult : State :=
  let s := dropTurn strayState
  stageDone (setActive s 0 2) 0 { strayHandover with new := 2, old := 0 }

theorem pairsOk_strayState : PairsOk strayState := by
  unfold PairsOk
  decide +kernel

theorem step_strayState : step strayState = .next strayResult := by rfl

theorem active_strayResult : strayResult.dies.active[(0 : Fin 12)] = 2 := by decide +kernel

end Sys2Proof.Safety

namespace Sys2Proof

open Sys2Proof.Machine Sys2Proof.Safety

/-- Refutes O6: PairsOk holds of a state in which a forced hand-over of stack 0 names die 2 as its old owner and its heir is fenced; its next
stage makes die 2 the active port of the stack. -/
theorem not_stacksStayInPairs : ¬ Obligations.StacksStayInPairs := by
  unfold Obligations.StacksStayInPairs
  rintro ⟨hstep, -⟩
  obtain ⟨hpairs, -⟩ := hstep strayState strayResult pairsOk_strayState step_strayState
  obtain ⟨-, hactive⟩ := hpairs 0 0
  rw [active_strayResult] at hactive
  exact absurd hactive (by decide)

end Sys2Proof
end

section
/-! A refutation about hand-overs: the recall of a forced one does not end where the tags of a die list a line twice. -/

namespace Sys2Proof.Safety

open Sys2Proof.Machine

/-- A forced hand-over of stack 0 from die 1 to die 0 at the step that recalls what surviving dies still hold. -/
def recallingHandover : Handover := ⟨0, 1, 0, 3, true, none⟩

/-- The machine after reset, but for that hand-over and a table of slice tags in which line 0 of die 0 stands twice: first as held by
nobody, then in S. A read finds the first entry alone, and the list of the lines that a die holds counts the second. -/
def twiceListed : State :=
  { State.reset with
    dies := { Dies.reset with handovers := [recallingHandover] }
    coh := { State.reset.coh with dirs := [(0, DirEntry.none), (0, { DirEntry.none with lvl := .s })] } }

/-- The recall empties no line, so that the hand-over stays where it is. -/
theorem recall_twiceListed (t : State) (h : exec (.handoverStage 0) twiceListed = .next t) :
    t.dies.handovers = [recallingHandover] := by
  have hs : exec (.handoverStage 0) twiceListed = .next (forcedRecall twiceListed 0 recallingHandover) := rfl
  obtain rfl : forcedRecall twiceListed 0 recallingHandover = t := by simpa [hs] using h
  decide +kernel

end Sys2Proof.Safety

namespace Sys2Proof

open Sys2Proof.Machine Sys2Proof.Safety

theorem not_handOverStages : ¬ Claims.HandOverStages := by
  unfold Claims.HandOverStages
  intro h
  obtain ⟨-, -, -, -, hforced⟩ := h twiceListed 0 recallingHandover 0 0 0
  obtain ⟨-, -, -, -, hclear, -⟩ := hforced rfl rfl rfl (by decide) (.inr rfl)
  obtain ⟨t, ht, hdies, -⟩ := hclear rfl (fun _ _ _ _ _ => rfl)
  have := (recall_twiceListed t ht).symm.trans (congrArg Dies.handovers hdies)
  exact absurd this (by decide)

/-- Refutes O33: the last recall of a forced hand-over is said to end once nothing holds a line back, also where the table of tags is not in
its canonical form, as its third stage asks of the table of homes. -/
theorem not_handOvers : ¬ Obligations.HandOvers := by
  unfold Obligations.HandOvers
  rintro ⟨-, -, hstages⟩
  exact not_handOverStages hstages

end Sys2Proof
end

section
/-! The host side, operation by operation: when hosts and peers reach the package, the slots of the launch window, what is sent out, and
when nothing of a context is left on the cells of a part (01 R13; 22 R389-R400). -/

namespace Sys2Proof.Machine

/-! ## The way in and out of the package (01 R13) -/

theorem etherUp_iff (s : State) (p : Fin 4) : etherUp s p.val = true ↔ s.plat.ethUp.toNat / 16 ^ (p.val % 2) % 16 ≠ 0 := by
  have h : ∀ (x : BitVec 8) (q : Fin 2), (x &&& (0xF#8 <<< (4 * q.val)) != 0) = true ↔ x.toNat / 16 ^ q.val % 16 ≠ 0 := by decide
  exact h s.plat.ethUp ⟨p.val % 2, Nat.mod_lt _ (by decide)⟩

theorem hostReach_iff (s : State) : hostReach s = true ↔
    ∃ p : Fin 4, s.plat.portUp.getLsbD p.val = true ∧ s.plat.ethUp.toNat / 16 ^ (p.val % 2) % 16 ≠ 0 := by
  simp only [hostReach, List.any_eq_true, List.mem_range, portOpen, Bool.and_eq_true]
  constructor
  · rintro ⟨p, hp, hport, heth⟩
    exact ⟨⟨p, hp⟩, hport, (etherUp_iff s ⟨p, hp⟩).mp heth⟩
  · rintro ⟨p, hport, heth⟩
    exact ⟨p.val, p.isLt, hport, (etherUp_iff s p).mpr heth⟩

theorem hostReach_eq_false_iff (s : State) : hostReach s = false ↔
    ¬∃ p : Fin 4, s.plat.portUp.getLsbD p.val = true ∧ s.plat.ethUp.toNat / 16 ^ (p.val % 2) % 16 ≠ 0 := by
  rw [← hostReach_iff, Bool.not_eq_true]

/-! ## The slots of the launch window (22 R391, R399) -/

theorem winSlot_putWin (s : State) (n k : Nat) (x : WinSlot) :
    tabGet WinSlot.fresh (putWin s n x).host.slots k = if k = n then x else tabGet WinSlot.fresh s.host.slots k := by
  by_cases h : k = n
  · simp [putWin, putHost, h]
  · simp [putWin, putHost, h, tabGet_tabSet_other _ _ _ _ _ (Ne.symm h)]

/-- Whether a window slot that owes nothing more becomes FREE (22 R399). -/
def WinDone (s : State) (n : Nat) : Prop :=
  (winSlot s n).st ≠ .parsed ∧ (winSlot s n).notices = [] ∧ ∀ q ∈ s.host.parts, ¬(q.accepting = myPkg s ∧ q.slot.val = n)

theorem ownPart_eq_false_iff (s : State) (n : Nat) :
    ownPart s n = false ↔ ∀ q ∈ s.host.parts, ¬(q.accepting = myPkg s ∧ q.slot.val = n) := by
  simp [ownPart]

theorem freeWin_of_done {s : State} {n : Nat} (h : WinDone s n) (hst : (winSlot s n).st ≠ .free) :
    freeWin s n = putWin s n { winSlot s n with st := .free } := by
  obtain ⟨hparsed, hnotices, hparts⟩ := h
  simp [freeWin, hst, hparsed, hnotices, (ownPart_eq_false_iff s n).mpr hparts]

theorem freeWin_of_not_done {s : State} {n : Nat} (h : ¬WinDone s n) : freeWin s n = s := by
  have hc : ¬((winSlot s n).st != .free && (winSlot s n).st != .parsed && !ownPart s n && (winSlot s n).notices.isEmpty) = true := by
    simp only [Bool.and_eq_true, bne_iff_ne, ne_eq, Bool.not_eq_true', ownPart_eq_false_iff, List.isEmpty_iff]
    exact fun hc => h ⟨hc.1.1.2, hc.2, hc.1.2⟩
  exact if_neg hc

theorem freeWin_of_free {s : State} {n : Nat} (h : (winSlot s n).st = .free) : freeWin s n = s := by simp [freeWin, h]

theorem winSlot_freeWin_of_done {s : State} {n : Nat} (h : WinDone s n) :
    tabGet WinSlot.fresh (freeWin s n).host.slots n = { winSlot s n with st := .free } := by
  by_cases hst : (winSlot s n).st = .free
  · rw [freeWin_of_free hst, ← hst]
    rfl
  · simp [freeWin_of_done h hst, winSlot_putWin]

theorem winSlot_freeWin_other (s : State) {n k : Nat} (h : k ≠ n) :
    tabGet WinSlot.fresh (freeWin s n).host.slots k = tabGet WinSlot.fresh s.host.slots k := by
  unfold freeWin
  dsimp only
  split
  · simp [winSlot_putWin, h]
  · rfl

theorem freeWin_eq_self_or_putWin (s : State) (n : Nat) : freeWin s n = s ∨ ∃ x, freeWin s n = putWin s n x := by
  unfold freeWin
  dsimp only
  split
  · exact .inr ⟨_, rfl⟩
  · exact .inl rfl

theorem freeWin_rest (s : State) (n : Nat) : { freeWin s n with host := { (freeWin s n).host with slots := s.host.slots } } = s := by
  obtain h | ⟨x, h⟩ := freeWin_eq_self_or_putWin s n
  · rw [h]
  · rw [h]
    rfl

theorem freeWin_host (s : State) (n : Nat) : { (freeWin s n).host with slots := s.host.slots } = s.host :=
  congrArg State.host (freeWin_rest s n)

/-! ## What leaves the package (22 R389, R399) -/

/-- The state in which more has left the package. -/
def sentOut (s : State) (l : List Outgoing) : State := { s with host := { s.host with sent := s.host.sent ++ l } }

theorem sentOut_nil (s : State) : sentOut s [] = s := by simp [sentOut]

theorem sendOut_eq_sentOut (s : State) (o : Outgoing) : sendOut s o = sentOut s [o] := rfl

/-- What writing a completion record sends. -/
def completionSent (s : State) (r : LaunchRec) (j : Nat) (w : Vector Word 4) : List Outgoing :=
  match tabFind s.host.endpoints (LaunchRec.cep r) with
  | some (fabric, key) => [.completion fabric key (r[14] + BitVec.ofNat 64 (32 * j)) w]
  | none => []

theorem writeCompletion_eq (s : State) (r : LaunchRec) (j : Nat) (w : Vector Word 4) :
    writeCompletion s r j w = sentOut s (completionSent s r j w) := by
  unfold writeCompletion completionSent endpointOf
  cases h : tabFind s.host.endpoints (LaunchRec.cep r) with
  | none => exact (sentOut_nil s).symm
  | some e => rfl

theorem seq_toNat (r : LaunchRec) : (LaunchRec.seq r).toNat = r[15].toNat / 2 ^ 32 := by
  have := r[15].isLt
  simp only [LaunchRec.seq, bitsOf, BitVec.toNat_ofNat]
  omega

theorem cep_eq (r : LaunchRec) : LaunchRec.cep r = r[6].toNat / 2 ^ 48 := by
  have := r[6].isLt
  simp only [LaunchRec.cep, bitsOf]
  omega

/-! ## A context of which nothing is left (22 R398) -/

theorem isResident_iff (s : State) (c : Nat) (id : BitVec 16) :
    isResident s c id = true ↔ (cellAt s c).live = true ∧ (ccAt s c).desc.ctxid = id := by
  simp [isResident]

theorem busySlots_eq_nil_iff (s : State) (c : Nat) : busySlots s c = [] ↔ ∀ k, (slotAt s c k).run = .free := by
  simp [busySlots, slotBusy]

theorem claimedFrames_eq_zero_iff (x : Steal) : claimedFrames x = 0 ↔ ∀ v f via, x ≠ .claimed v f via := by
  cases x <;> simp [claimedFrames]

/-- A context whose frames are all gone, channel 31 aside, and whose engines are idle (22 R398). -/
def QuietCtx (x : CtxCell) : Prop := x.hod = [] ∧ x.ringCount = 0 ∧ x.wakes = [] ∧
  (∀ k : Fin 32, k ≠ 31 → x.chans[k].queue = []) ∧ (∀ k : Fin 2, x.cch[k].queue = []) ∧ x.mxu.queue = []

theorem ctxCell_quiet_iff (x : CtxCell) : x.quiet = true ↔ QuietCtx x := by
  have hchans : (∀ k : Fin 31, x.chans[k.castSucc].queue = []) ↔ ∀ k : Fin 32, k ≠ 31 → x.chans[k].queue = [] := by
    constructor
    · intro h k hk
      have hlt : k.val < 31 := by
        have : k.val ≠ 31 := fun e => hk (Fin.ext e)
        omega
      exact h ⟨k.val, hlt⟩
    · exact fun h k => h k.castSucc (fun e => absurd (congrArg Fin.val e) (Nat.ne_of_lt k.isLt))
  simp only [QuietCtx, CtxCell.quiet, dequeLen, Bool.and_eq_true, decide_eq_true_eq, List.all_eq_true, List.mem_finRange, forall_const,
    List.isEmpty_iff, hchans, Nat.add_eq_zero_iff, List.length_eq_zero_iff, and_assoc]

/-- Nothing of a context is left on a cell, resident or saved (22 R398). -/
def CellStill (s : State) (id : BitVec 16) (c : Nat) : Prop :=
  ((cellAt s c).live = true → (ccAt s c).desc.ctxid = id → (∀ k, (slotAt s c k).run = .free) ∧ (cellAt s c).installs = [] ∧
    (∀ v f via, (cellAt s c).steal ≠ .claimed v f via) ∧ QuietCtx (ccAt s c) ∧ inFlight s c = 0) ∧
  ∀ im ∈ s.images, im.phys = physOf s c → im.cc.desc.ctxid = id → QuietCtx im.cc

theorem cellQuiet_iff (s : State) (id : BitVec 16) (c : Nat) : cellQuiet s id c = true ↔ CellStill s id c := by
  have himages : s.images.all (fun im => !isImageOf s c id im || im.cc.quiet) = true ↔
      ∀ im ∈ s.images, im.phys = physOf s c → im.cc.desc.ctxid = id → QuietCtx im.cc := by
    simp only [List.all_eq_true, isImageOf, Bool.or_eq_true, Bool.not_eq_true', Bool.eq_false_iff, ne_eq, Bool.and_eq_true,
      decide_eq_true_eq, ← imp_iff_not_or, and_imp, ctxCell_quiet_iff]
  unfold cellQuiet CellStill
  rw [Bool.and_eq_true, himages]
  refine and_congr_left' ?_
  rw [Bool.or_eq_true, Bool.not_eq_true', Bool.eq_false_iff, ne_eq, isResident_iff, ← imp_iff_not_or, and_imp]
  refine imp_congr_right fun _ => imp_congr_right fun _ => ?_
  simp only [Bool.and_eq_true, decide_eq_true_eq, List.isEmpty_iff, and_assoc]
  rw [busySlots_eq_nil_iff, claimedFrames_eq_zero_iff, ctxCell_quiet_iff]
  rfl

theorem portsQuiet_iff (s : State) (id : BitVec 16) : portsQuiet s id = true ↔ ∀ y ∈ s.cells, ∀ m ∈ y.2.port, m.ctxid ≠ id := by
  simp [portsQuiet]

theorem claimsQuiet_iff (s : State) (id : BitVec 16) : claimsQuiet s id = true ↔ ∀ y ∈ s.cells,
    y.2.live = true → y.2.cc.desc.ctxid = id → y.2.installs = [] ∧ ∀ v f via, y.2.steal ≠ .claimed v f via := by
  rw [claimsQuiet, List.all_eq_true]
  refine forall₂_congr fun y _ => ?_
  rw [Bool.or_eq_true, Bool.not_eq_true', Bool.eq_false_iff, ne_eq, Bool.and_eq_true, decide_eq_true_eq, ← imp_iff_not_or, and_imp]
  cases y.2.steal <;> simp

theorem isOpen_iff (p : Part) : isOpen p = true ↔ p.stage = .admitted ∨ p.stage = .running := by
  cases h : p.stage <;> simp [isOpen, h]

theorem sharesContext_iff (id : BitVec 16) (p : Part) :
    sharesContext id p = true ↔ (p.stage = .admitted ∨ p.stage = .running) ∧ p.ctxid = some id := by
  simp [sharesContext, isOpen_iff]

/-- Nothing of a context is left on the cells of its open parts or on its way, and each of these parts runs (22 R398). -/
def CtxStill (s : State) (id : BitVec 16) : Prop :=
  (∀ q ∈ s.host.parts, q.stage = .admitted ∨ q.stage = .running → q.ctxid = some id →
    q.stage = .running ∧ ∀ c ∈ partCells s q, CellStill s id c) ∧
  ∀ y ∈ s.cells, (∀ m ∈ y.2.port, m.ctxid ≠ id) ∧
    (y.2.live = true → y.2.cc.desc.ctxid = id → y.2.installs = [] ∧ ∀ v f via, y.2.steal ≠ .claimed v f via)

theorem partsQuiet_iff (s : State) (id : BitVec 16) : partsQuiet s id = true ↔ CtxStill s id := by
  simp only [partsQuiet, CtxStill, Bool.and_eq_true, portsQuiet_iff, claimsQuiet_iff, List.all_eq_true, Bool.or_eq_true,
    Bool.not_eq_true', Bool.eq_false_iff, ne_eq, sharesContext_iff, ← imp_iff_not_or, and_imp, decide_eq_true_eq, cellQuiet_iff,
    and_assoc, forall_and]

end Sys2Proof.Machine
end

section
/-! Proofs about the completion of a launch (22 R398-R400). -/

namespace Sys2Proof.Machine

/-! ## Completion detected (22 R398) -/

/-- A part once its context is found quiescent (22 R398, R399). -/
def completed (s : State) (id : BitVec 16) (q : Part) : Part := { q with stage := .complete s.stime (partCounts s id q) }

theorem exec_completionDetect_still {s : State} {i : Nat} {p : Part} {id : BitVec 16} (hp : s.host.parts[i]? = some p)
    (hstage : p.stage = .running) (hid : p.ctxid = some id) (h : CtxStill s id) : exec (.completionDetect i) s =
      .next (putParts s (s.host.parts.map (fun q => if q.stage = .running ∧ q.ctxid = some id then completed s id q else q))) := by
  have hmap : s.host.parts.map (fun q => if sharesContext id q then completed s id q else q) =
      s.host.parts.map (fun q => if q.stage = .running ∧ q.ctxid = some id then completed s id q else q) := by
    refine List.map_congr_left fun q hq => if_congr ?_ rfl rfl
    rw [sharesContext_iff]
    exact ⟨fun hs => ⟨(h.1 q hq hs.1 hs.2).1, hs.2⟩, fun hs => ⟨.inr hs.1, hs.2⟩⟩
  rw [← hmap]
  show execCompletionDetect i s = _
  simp only [execCompletionDetect, hp, hstage, hid, (partsQuiet_iff s id).mpr h, if_true]
  rfl

theorem exec_completionDetect_waits {s : State} {i : Nat} {p : Part} {id : BitVec 16} (hp : s.host.parts[i]? = some p)
    (h : p.stage ≠ .running ∨ p.ctxid = none ∨ p.ctxid = some id ∧ ¬CtxStill s id) : exec (.completionDetect i) s = .next s := by
  show execCompletionDetect i s = _
  unfold execCompletionDetect
  rw [hp]
  dsimp only
  split
  · rename_i j hstage hj
    obtain hne | hnone | ⟨hid, hstill⟩ := h
    · exact absurd hstage hne
    · rw [hj] at hnone
      cases hnone
    · obtain rfl : j = id := by simpa [hj] using hid
      rw [if_neg (fun hq => hstill ((partsQuiet_iff s j).mp hq))]
  · rfl

/-! ## Records written (22 R399) -/

/-- What a part that is gone sends to the package that accepted its launch. -/
def noticeSent (s : State) (p : Part) : List Outgoing :=
  match tabFind s.host.peers p.accepting with
  | some fabric => [.notice fabric p.accepting p.slot]
  | none => []

theorem partDone_away {s : State} {i : Nat} {p : Part} (h : p.accepting ≠ myPkg s) :
    partDone s i p = sentOut (putParts s (s.host.parts.eraseIdx i)) (noticeSent s p) := by
  unfold partDone noticeSent peerOf
  rw [if_neg h]
  cases tabFind s.host.peers p.accepting with
  | none => exact (sentOut_nil _).symm
  | some fabric => rfl

theorem partDone_here {s : State} {i : Nat} {p : Part} (h : p.accepting = myPkg s) :
    partDone s i p = freeWin (putParts s (s.host.parts.eraseIdx i)) p.slot.val := by
  simp [partDone, h, listDrop]

/-- The words of a completion record (22 R399). -/
def recordWords (s : State) (p : Part) (status : Nat) (end_ : Word) (w2 w3 : Word) : Vector Word 4 :=
  #v[BitVec.ofNat 64 (p.record[15].toNat / 2 ^ 32 * 2 ^ 32 + p.slot.val * 2 ^ 23 + s.plat.pkg.toNat * 2 ^ 8 + status), end_, w2, w3]

theorem completionWords_eq (s : State) (p : Part) (status : BitVec 8) (end_ : Word) (cells aborts kills undeliv : Nat) :
    completionWords status (myPkg s) p.slot (LaunchRec.seq p.record) end_ cells aborts kills undeliv =
      recordWords s p status.toNat end_ (BitVec.ofNat 64 (sat32 aborts * 2 ^ 32 + sat32 kills))
        (BitVec.ofNat 64 (sat32 undeliv * 2 ^ 32 + sat32 cells)) :=
  congrArg (fun n => #v[BitVec.ofNat 64 (n * 2 ^ 32 + p.slot.val * 2 ^ 23 + myPkg s * 2 ^ 8 + status.toNat), end_,
    BitVec.ofNat 64 (sat32 aborts * 2 ^ 32 + sat32 kills), BitVec.ofNat 64 (sat32 undeliv * 2 ^ 32 + sat32 cells)]) (seq_toNat p.record)

/-- What the record of a part sends. -/
def recordSent (s : State) (p : Part) (w : Vector Word 4) : List Outgoing :=
  match tabFind s.host.endpoints (p.record[6].toNat / 2 ^ 48) with
  | some (fabric, key) => [.completion fabric key (p.record[14] + BitVec.ofNat 64 (32 * (myPkg s - p.record[3].toNat % 2 ^ 22 / 1024))) w]
  | none => []

theorem firstPkg_eq (r : LaunchRec) : LaunchRec.firstPkg r = r[3].toNat % 2 ^ 22 / 1024 :=
  congrArg (fun n => n % 2 ^ 22 / 1024) (Nat.div_one r[3].toNat)

theorem completionSent_eq_recordSent (s : State) (p : Part) (w : Vector Word 4) :
    completionSent s p.record (myPkg s - LaunchRec.firstPkg p.record) w = recordSent s p w := by
  rw [completionSent, cep_eq, firstPkg_eq, recordSent] <;> rfl

/-- The record of a part written, and the part gone: its notice sent, or its window slot free when nothing else is owed (22 R399). -/
def PartWritten (s : State) (i : Nat) (p : Part) (w : Vector Word 4) (t : State) : Prop :=
  let record := recordSent s p w
  { t with host := { t.host with parts := s.host.parts, slots := s.host.slots, sent := s.host.sent } } = s ∧
  t.host.parts = s.host.parts.eraseIdx i ∧
  (p.accepting ≠ myPkg s → t.host.slots = s.host.slots ∧ t.host.sent = s.host.sent ++ record ++ noticeSent s p) ∧
  (p.accepting = myPkg s → t.host.sent = s.host.sent ++ record ∧
    ∀ k, tabGet WinSlot.fresh t.host.slots k =
      let y := tabGet WinSlot.fresh s.host.slots k
      if k = p.slot.val ∧ y.st ≠ .parsed ∧ y.notices = [] ∧ ∀ q ∈ s.host.parts.eraseIdx i, ¬(q.accepting = myPkg s ∧ q.slot = p.slot) then
        { y with st := .free } else y)

/-- The host's side once a part is gone and more has left the package. -/
def hostAfter (x : HostSide) (i : Nat) (l : List Outgoing) : HostSide := { x with parts := x.parts.eraseIdx i, sent := x.sent ++ l }

theorem partDone_sentOut_away {s : State} {i : Nat} {p : Part} {record : List Outgoing} (h : p.accepting ≠ myPkg s) :
    partDone (sentOut s record) i p = { s with host := hostAfter s.host i (record ++ noticeSent s p) } := by
  rw [partDone_away (s := sentOut s record) h, hostAfter, ← List.append_assoc]
  rfl

theorem hostAfter_rest (x : HostSide) (i : Nat) (l : List Outgoing) :
    { hostAfter x i l with parts := x.parts, slots := x.slots, sent := x.sent } = x := rfl

theorem partWritten_partDone (s : State) (i : Nat) (p : Part) (w : Vector Word 4) :
    PartWritten s i p w (partDone (writeCompletion s p.record (myPkg s - LaunchRec.firstPkg p.record) w) i p) := by
  rw [writeCompletion_eq, completionSent_eq_recordSent]
  generalize hrec : recordSent s p w = record
  by_cases h : p.accepting = myPkg s
  · have hpart : partDone (sentOut s record) i p = freeWin (putParts (sentOut s record) (s.host.parts.eraseIdx i)) p.slot.val :=
      partDone_here h
    rw [hpart]
    have hhost := freeWin_host (putParts (sentOut s record) (s.host.parts.eraseIdx i)) p.slot.val
    have hdone : WinDone (putParts (sentOut s record) (s.host.parts.eraseIdx i)) p.slot.val ↔
        (winSlot s p.slot.val).st ≠ .parsed ∧ (winSlot s p.slot.val).notices = [] ∧
          ∀ q ∈ s.host.parts.eraseIdx i, ¬(q.accepting = myPkg s ∧ q.slot = p.slot) := by
      simp only [Fin.ext_iff]
      rfl
    unfold PartWritten
    rw [hrec]
    refine ⟨?_, (congrArg HostSide.parts hhost :), fun hc => absurd h hc, fun _ => ⟨(congrArg HostSide.sent hhost :), fun k => ?_⟩⟩
    · obtain hf | ⟨x, hf⟩ := freeWin_eq_self_or_putWin (putParts (sentOut s record) (s.host.parts.eraseIdx i)) p.slot.val
      · exact (by rw [hf]; rfl)
      · exact (by rw [hf]; rfl)
    · by_cases hk : k = p.slot.val
      · subst hk
        by_cases hd : WinDone (putParts (sentOut s record) (s.host.parts.eraseIdx i)) p.slot.val
        · exact (winSlot_freeWin_of_done hd).trans (if_pos ⟨rfl, hdone.mp hd⟩).symm
        · rw [freeWin_of_not_done hd]
          exact (if_neg (fun hc => hd (hdone.mpr hc.2))).symm
      · exact (winSlot_freeWin_other _ hk).trans (if_neg (fun hc => hk hc.1)).symm
  · rw [partDone_sentOut_away h]
    unfold PartWritten
    rw [hrec]
    refine ⟨congrArg (fun x => { s with host := x }) (hostAfter_rest s.host i _), rfl, fun _ => ⟨rfl, ?_⟩, fun hc => absurd hc h⟩
    exact (List.append_assoc ..).symm

theorem exec_completionWrite_complete {s : State} {i : Nat} {p : Part} {e : Word} {m : Nat × Nat × Nat} (hr : hostReach s = true)
    (hp : s.host.parts[i]? = some p) (hstage : p.stage = .complete e m) : ∃ t, exec (.completionWrite i) s = .next t ∧
      PartWritten s i p (recordWords s p 0 e (BitVec.ofNat 64 (sat32 m.1 * 2 ^ 32 + sat32 (m.2.1 + p.lost)))
        (BitVec.ofNat 64 (sat32 m.2.2 * 2 ^ 32 + sat32 (partCells s p).length))) t := by
  refine ⟨_, ?_, partWritten_partDone s i p _⟩
  show execCompletionWrite i s = _
  simp only [execCompletionWrite, hp, hr, hstage, completionWords_eq, Bool.not_true, Bool.false_eq_true, if_false]
  rfl

theorem exec_completionWrite_rejected {s : State} {i : Nat} {p : Part} {e : Word} {st : BitVec 8} (hr : hostReach s = true)
    (hp : s.host.parts[i]? = some p) (hstage : p.stage = .rejected st e) : ∃ t, exec (.completionWrite i) s = .next t ∧
      PartWritten s i p (recordWords s p st.toNat e 0 0) t := by
  refine ⟨_, ?_, partWritten_partDone s i p _⟩
  show execCompletionWrite i s = _
  simp only [execCompletionWrite, hp, hr, hstage, completionWords_eq, Bool.not_true, Bool.false_eq_true, if_false]
  rfl

theorem exec_completionWrite_open {s : State} {i : Nat} {p : Part} (hp : s.host.parts[i]? = some p)
    (h : p.stage = .latched ∨ p.stage = .admitted ∨ p.stage = .running) : exec (.completionWrite i) s = .next s := by
  show execCompletionWrite i s = _
  obtain h | h | h := h <;> simp [execCompletionWrite, hp, h]

theorem exec_completionWrite_unreached {s : State} {i : Nat} (h : hostReach s = false) : exec (.completionWrite i) s = .next s := by
  show execCompletionWrite i s = _
  unfold execCompletionWrite
  split
  · rfl
  · simp [h]

/-- A window slot once another package's record is written (22 R399). -/
def noticed (s : State) (n : Fin 512) (pkg : Nat) : WinSlot :=
  { winSlot s n.val with notices := (winSlot s n.val).notices.filter (fun q => q ≠ pkg) }

theorem exec_completionNotice_reached {s : State} (n : Fin 512) (pkg : Nat) (h : hostReach s = true) :
    exec (.completionNotice n pkg) s = .next (freeWin (putWin s n.val (noticed s n pkg)) n.val) := by
  have hfilter : (fun q : Nat => q != pkg) = fun q => decide (q ≠ pkg) := funext fun q => by simp [bne, BEq.beq]
  show execCompletionNotice n pkg s = _
  simp only [execCompletionNotice, h, hfilter, noticed, Bool.not_true, Bool.false_eq_true, if_false]

theorem exec_completionNotice_unreached {s : State} (n : Fin 512) (pkg : Nat) (h : hostReach s = false) :
    exec (.completionNotice n pkg) s = .next s := by
  show execCompletionNotice n pkg s = _
  simp [execCompletionNotice, h]

theorem freeWin_putWin_rest (s : State) (n : Nat) (x : WinSlot) :
    { freeWin (putWin s n x) n with host := { (freeWin (putWin s n x) n).host with slots := s.host.slots } } = s := by
  obtain h | ⟨y, h⟩ := freeWin_eq_self_or_putWin (putWin s n x) n
  · rw [h]
    rfl
  · rw [h]
    rfl

theorem winSlot_freeWin_noticed (s : State) (n : Fin 512) (pkg k : Nat) :
    tabGet WinSlot.fresh (freeWin (putWin s n.val (noticed s n pkg)) n.val).host.slots k = if k = n.val then
        if (winSlot s n.val).st ≠ .parsed ∧ (noticed s n pkg).notices = [] ∧ ∀ q ∈ s.host.parts, ¬(q.accepting = myPkg s ∧ q.slot = n)
        then { noticed s n pkg with st := .free } else noticed s n pkg
      else tabGet WinSlot.fresh s.host.slots k := by
  have hput : winSlot (putWin s n.val (noticed s n pkg)) n.val = noticed s n pkg := (winSlot_putWin s n.val n.val _).trans (if_pos rfl)
  have hdone : WinDone (putWin s n.val (noticed s n pkg)) n.val ↔
      (winSlot s n.val).st ≠ .parsed ∧ (noticed s n pkg).notices = [] ∧ ∀ q ∈ s.host.parts, ¬(q.accepting = myPkg s ∧ q.slot = n) := by
    simp only [WinDone, hput, Fin.ext_iff]
    rfl
  by_cases hk : k = n.val
  · subst hk
    rw [if_pos rfl]
    by_cases hd : WinDone (putWin s n.val (noticed s n pkg)) n.val
    · rw [if_pos (hdone.mp hd), winSlot_freeWin_of_done hd, hput]
    · rw [if_neg (fun hc => hd (hdone.mpr hc)), freeWin_of_not_done hd]
      exact hput
  · rw [if_neg hk, winSlot_freeWin_other _ hk, winSlot_putWin, if_neg hk]

/-- Settles O58: a context is complete when nothing of it is left, and its records are written once a port is reached. -/
theorem completion : Obligations.Completion := by
  intro s i p id e st n pkg m
  refine ⟨fun hp hstage hid h => exec_completionDetect_still hp hstage hid h, fun hp h => exec_completionDetect_waits hp h,
    fun hp => ?_, fun h => ?_, fun h hp hstage => ?_, fun h hp hstage => ?_, fun hp h => exec_completionWrite_open hp h, fun h => ?_⟩
  · exact ⟨by simp [exec, execCompletionDetect, hp], by simp [exec, execCompletionWrite, hp]⟩
  · have hr := (hostReach_eq_false_iff s).mpr h
    exact ⟨exec_completionWrite_unreached hr, exec_completionNotice_unreached n pkg hr⟩
  · exact exec_completionWrite_complete ((hostReach_iff s).mpr h) hp hstage
  · exact exec_completionWrite_rejected ((hostReach_iff s).mpr h) hp hstage
  · exact ⟨_, exec_completionNotice_reached n pkg ((hostReach_iff s).mpr h), freeWin_putWin_rest s n.val _,
      fun k => winSlot_freeWin_noticed s n pkg k⟩

end Sys2Proof.Machine
end

section
/-! What the platform keeps while a fence is confirmed (20 R376, R383-R385). -/

namespace Sys2Proof.Machine

theorem Quiet.plat {s t : State} (h : Quiet s t) : t.plat = s.plat := (congrArg State.plat h.only :)

theorem quiet_finishTxn (s : State) (t : Txn) : Quiet s (finishTxn s t) := by
  have hunlock : Quiet s (unlock s t.req.site t.req.line) := quiet_putCoh s _
  unfold finishTxn
  dsimp only
  split
  · exact hunlock.trans (quiet_putCoh _ _)
  · exact hunlock.trans (quiet_putCoh _ _)
  · split
    · exact hunlock.trans (quiet_putCoh _ _)
    · exact quiet_putCoh s _
  · exact hunlock.trans (quiet_homeGrant _ _ _)

theorem quiet_takeAnswer (s : State) (a : Site) (line : Nat) (good : BitVec 4) : Quiet s (takeAnswer s a line good) := by
  have hcount : Quiet s (countAnswer s a line good) := quiet_putCoh s _
  unfold takeAnswer
  dsimp only
  split
  · split
    · exact hcount.trans (quiet_finishTxn _ _)
    · exact hcount
  · exact .refl s

theorem quiet_replayHeld (s : State) (p : CohReq → Bool) : Quiet s (replayHeld s p) :=
  ((quiet_putCoh s _).trans (Quiet.foldl _ (fun s r => quiet_routeHome s 32 r) _ _)).trans (quiet_drain _)

theorem answerShand_plat (s : State) (src : Fin 4) (w : Option (Nat × Fin 4)) (r : BitVec 3) : (answerShand s src w r).plat = s.plat := by
  unfold answerShand
  split
  · rfl
  · dsimp only
    split
    · exact (quiet_sendMessage s _ _).plat
    · rfl

theorem endHandover_plat (s : State) (i : Nat) (h : Handover) (d : Fin 4) (r : BitVec 3) : (endHandover s i h d r).plat = s.plat :=
  (quiet_replayHeld _ _).plat.trans (answerShand_plat _ _ _ _)

theorem fenceHandover_plat (s : State) (d : Fin 4) (k : Fin 12) : (fenceHandover s d k).plat = s.plat := by
  unfold fenceHandover
  split
  · rfl
  · split
    · rfl
    · split
      · exact endHandover_plat ..
      · split
        · exact answerShand_plat ..
        · rfl

theorem loseLine_plat (s : State) (line : Nat) : (loseLine s line).plat = s.plat := rfl

theorem loseOwned_plat (s : State) (line : Nat) : (loseOwned s line).plat = s.plat := by
  unfold loseOwned
  dsimp only
  split <;> rfl

theorem loseImages_plat (s : State) (p : Image → Bool) : (loseImages s p).plat = s.plat :=
  foldl_keeps loseImage State.plat (fun _ _ => rfl) _ s

theorem losePoisoned_plat (s : State) : (losePoisoned s).plat = s.plat := by
  unfold losePoisoned
  split
  · rfl
  · exact loseImages_plat ..

theorem poisonLost_plat (s : State) (d : Fin 4) : (poisonLost s d).plat = s.plat :=
  (losePoisoned_plat _).trans (foldl_keeps loseOwned State.plat loseOwned_plat _ s)

theorem quiet_synthesise (s : State) (d : Fin 4) : Quiet s (synthesise s d) :=
  (quiet_putCoh s _).trans (Quiet.foldl _ (fun s (m : ProbeMsg) => quiet_takeAnswer s .home m.line 0) _ _)

theorem quiet_dropPresence (s : State) (d : Fin 4) : Quiet s (dropPresence s d) := quiet_putCoh s _

theorem quiet_reholdRequests (s : State) (d : Fin 4) : Quiet s (reholdRequests s d) := quiet_putCoh s _

theorem quiet_completeWaiting (s : State) (d : Fin 4) : Quiet s (drain (reholdRequests (dropPresence (synthesise s d) d) d)) :=
  (((quiet_synthesise s d).trans (quiet_dropPresence _ d)).trans (quiet_reholdRequests _ d)).trans (quiet_drain _)

theorem forceStacks_plat (s : State) (d : Fin 4) : (forceStacks s d).plat = s.plat := rfl

theorem fenceHandovers_plat (s : State) (d : Fin 4) (l : List (Fin 12)) :
    (l.foldl (fun s k => fenceHandover s d k) s).plat = s.plat :=
  foldl_keeps _ State.plat (fun s k => fenceHandover_plat s d k) l s

theorem confirmFence_plat (s : State) (d : Fin 4) : (confirmFence s d).plat = s.plat := by
  unfold confirmFence
  dsimp only
  rw [releaseHeld, (quiet_replayHeld _ _).plat, forceStacks_plat, fenceHandovers_plat, (quiet_completeWaiting _ d).plat,
    poisonLost_plat]
  rfl

end Sys2Proof.Machine
end

section
/-! Proofs about images, updates and controllers (23 R403-R409). -/

namespace Sys2Proof.Machine

/-! ## The next controller of an update (23 R406, R409) -/

/-- A controller that an update skips: it is on a fenced die, or its island is cut from power. -/
def Skips (v : State) (c : Fin 26) : Prop := (∃ d : Fin 4, v.dies.health[d].reported = true ∧
    (c.val = 2 + d.val ∨ 18 ≤ c.val ∧ linkFrom (Fin.ofNat 8 (c.val - 18)) = d)) ∨
  c.val < 2 ∧ (v.plat.islands[Fin.ofNat 24 (21 + 2 * c.val)]).cut = true

theorem controllerDie_eq_some_iff (c : Fin 26) (d : Fin 4) :
    controllerDie c = some d ↔ c.val = 2 + d.val ∨ 18 ≤ c.val ∧ linkFrom (Fin.ofNat 8 (c.val - 18)) = d := by
  revert c d
  decide

theorem controllerDie_eq_none (c : Fin 26) (h : c.val < 2) : controllerDie c = none := by
  revert c
  decide

theorem skipController_iff (v : State) (c : Fin 26) : skipController v c = true ↔ Skips v c := by
  unfold skipController Skips
  simp only [← controllerDie_eq_some_iff]
  cases hd : controllerDie c with
  | some d =>
    have hc : ¬c.val < 2 := fun h => by simp [controllerDie_eq_none c h] at hd
    simp [isFenced, hc]
  | none =>
    by_cases hc : c.val < 2
    · have hix : (21 + 2 * c.val) % 24 = 21 + 2 * c.val := Nat.mod_eq_of_lt (by omega)
      simp [hc, hix]
    · simp [hc]

/-- A fence that is not confirmed pauses an update. -/
def Paused (v : State) : Prop := ∃ d : Fin 4, v.dies.health[d].reported = true ∧ v.dies.health[d].confirmed = false

theorem fencePending_iff (v : State) : fencePending v = true ↔ Paused v := by
  simp [fencePending, Paused, isFenced]

/-- The formats of a new image that read and write what the running one writes. -/
def Fits (x y : ImageVer) : Prop := y.minver.toNat ≤ x.hover.toNat ∧ x.hover.toNat ≤ y.hover.toNat

theorem formatsOk_iff (x y : ImageVer) : formatsOk x y = true ↔ Fits x y := by
  simp [formatsOk, Fits]

theorem nextController_paused {v : State} {q : Update} (h : Paused v) :
    nextController v q = putPlat v { v.plat with update := some { q with next := none } } := by
  simp [nextController, (fencePending_iff v).mpr h, putUpdate]

theorem dropWhile_append_of_skips {v : State} {pre rest : List (Fin 26)} {f : Fin 26} (hpre : ∀ g ∈ pre, Skips v g) (hf : ¬Skips v f) :
    (pre ++ f :: rest).dropWhile (skipController v) = f :: rest := by
  rw [List.dropWhile_append_of_pos (fun g hg => (skipController_iff v g).mpr (hpre g hg)),
    List.dropWhile_cons_of_neg (fun h => hf ((skipController_iff v f).mp h))]

theorem head_skipped {v : State} {pre rest : List (Fin 26)} {f : Fin 26} (hpre : ∀ g ∈ pre, Skips v g) (hf : ¬Skips v f) :
    ((pre ++ f :: rest).head?.map (skipController v)).getD false = !pre.isEmpty := by
  cases pre with
  | nil => simp [Bool.eq_false_iff.mpr (fun h => hf ((skipController_iff v f).mp h))]
  | cons g l => simp [(skipController_iff v g).mpr (hpre g List.mem_cons_self)]

theorem watchdogNs_eq (t : CtrlType) : watchdogNs t = if t = .dispatcher then 2000000 else 200000000 := by
  cases t <;> rfl

/-- The platform with the next controller of an update started. -/
def startedPlat (v : State) (q : Update) (f : Fin 26) (skipped : Bool) (rest : List (Fin 26)) : Platform :=
  { v.plat with
    controllers := v.plat.controllers.set f { v.plat.controllers[f] with
      record := some (recordOf v f), state := .starting (v.stime.toNat + (if q.type = .dispatcher then 2000000 else 200000000)) }
    update := some { q with next := some f, left := rest, skipped := skipped } }

theorem nextController_fits {v : State} {q : Update} {pre rest : List (Fin 26)} {f : Fin 26} (h : ¬Paused v)
    (hleft : q.left = pre ++ f :: rest) (hpre : ∀ g ∈ pre, Skips v g) (hf : ¬Skips v f)
    (hfits : Fits v.plat.controllers[f].image q.image) :
    nextController v q = putPlat v (startedPlat v q f (q.skipped || !pre.isEmpty) rest) := by
  unfold nextController
  rw [if_neg (fun hp => h ((fencePending_iff v).mp hp)), hleft]
  simp only [dropWhile_append_of_skips hpre hf, head_skipped hpre hf, (formatsOk_iff _ _).mpr hfits, if_true, startImage, watchdogNs_eq]
  rfl

theorem nextController_misfits {v : State} {q : Update} {pre rest : List (Fin 26)} {f : Fin 26} (h : ¬Paused v)
    (hleft : q.left = pre ++ f :: rest) (hpre : ∀ g ∈ pre, Skips v g) (hf : ¬Skips v f)
    (hfits : ¬Fits v.plat.controllers[f].image q.image) : nextController v q = putPlat v { v.plat with update := none } := by
  unfold nextController
  rw [if_neg (fun hp => h ((fencePending_iff v).mp hp)), hleft]
  simp only [dropWhile_append_of_skips hpre hf, if_neg (fun hk => hfits ((formatsOk_iff _ _).mp hk))]
  rfl

theorem nextController_ends {v : State} {q : Update} (h : ¬Paused v) (hall : ∀ g ∈ q.left, Skips v g) :
    nextController v q = putPlat v { v.plat with
      update := none
      updated := if q.skipped = false ∧ q.left = [] then v.plat.updated.set (typeIndex q.type) (some q.image.version)
        else v.plat.updated } := by
  have hdrop : q.left.dropWhile (skipController v) = [] :=
    List.dropWhile_eq_nil_iff.mpr (fun g hg => (skipController_iff v g).mpr (hall g hg))
  unfold nextController
  rw [if_neg (fun hp => h ((fencePending_iff v).mp hp)), hdrop]
  cases hl : q.left with
  | nil => cases hs : q.skipped <;> simp [endUpdate]
  | cons g l =>
    have hg : skipController v g = true := (skipController_iff v g).mpr (hall g (by simp [hl]))
    simp [endUpdate, hg]

/-- What an update does when it goes on with the controllers it has left. -/
def UpdateGoes (pre : List (Fin 26)) (f : Fin 26) (rest : List (Fin 26)) (v : State) (q : Update) (o : Res) : Prop :=
  (Paused v → o = .next (putPlat v { v.plat with update := some { q with next := none } })) ∧
  (¬Paused v → q.left = pre ++ f :: rest → (∀ g ∈ pre, Skips v g) → ¬Skips v f →
    (Fits v.plat.controllers[f].image q.image → o = .next (putPlat v (startedPlat v q f (q.skipped || !pre.isEmpty) rest))) ∧
    (¬Fits v.plat.controllers[f].image q.image → o = .next (putPlat v { v.plat with update := none }))) ∧
  (¬Paused v → (∀ g ∈ q.left, Skips v g) → o = .next (putPlat v { v.plat with
    update := none
    updated := if q.skipped = false ∧ q.left = [] then v.plat.updated.set (typeIndex q.type) (some q.image.version)
      else v.plat.updated }))

theorem updateGoes_nextController (pre : List (Fin 26)) (f : Fin 26) (rest : List (Fin 26)) (v : State) (q : Update) :
    UpdateGoes pre f rest v q (.next (nextController v q)) :=
  ⟨fun h => congrArg _ (nextController_paused h), fun h hleft hpre hf =>
    ⟨fun hfits => congrArg _ (nextController_fits h hleft hpre hf hfits),
      fun hfits => congrArg _ (nextController_misfits h hleft hpre hf hfits)⟩,
    fun h hall => congrArg _ (nextController_ends h hall)⟩

/-! ## Images accepted (23 R405) -/

/-- An image that the active Coronaip accepts for a TYPE. -/
def Sound (p : Platform) (img : SignedImage) (t : CtrlType) : Prop := img.key.toNat < 4 ∧ p.revoked.getLsbD img.key.toNat = false ∧
  Config.signatureOk img = true ∧ p.floors[typeIndex t].toNat ≤ img.version.toNat ∧ img.reserved = 0

theorem imageOk_iff (p : Platform) (img : SignedImage) (t : CtrlType) : imageOk p.revoked p.floors img t = true ↔ Sound p img t := by
  simp only [imageOk, Sound, Bool.and_eq_true, decide_eq_true_eq, Bool.not_eq_true', and_assoc]

theorem typeOf_typeNumber (t : CtrlType) : typeOf (typeNumber t) = some t := by
  cases t <;> rfl

theorem typeOf_eq_some_iff (n : BitVec 8) (t : CtrlType) : typeOf n = some t ↔ n = typeNumber t := by
  refine ⟨fun h => ?_, fun h => h ▸ typeOf_typeNumber t⟩
  have := List.find?_some h
  simpa using Eq.symm (of_decide_eq_true this)

theorem eq_typeNumber_iff (n : BitVec 8) (t : CtrlType) : n = typeNumber t ↔ n.toNat = (typeNumber t).toNat :=
  ⟨congrArg BitVec.toNat, BitVec.eq_of_toNat_eq⟩

theorem exec_imageUpdate_refused {s : State} {img : SignedImage}
    (h : s.plat.brought = false ∨ s.plat.update ≠ none ∨ ∀ t, img.type = typeNumber t → ¬Sound s.plat img t) :
    exec (.imageUpdate img) s = .next s := by
  show execImageUpdate img s = _
  unfold execImageUpdate
  split
  · rfl
  · rename_i t ht
    refine if_pos ?_
    obtain hb | hu | hn := h
    · simp [hb]
    · simp [Option.isSome_iff_ne_none.mpr hu]
    · have := hn t ((typeOf_eq_some_iff _ _).mp ht)
      rw [← imageOk_iff] at this
      simp [this]

theorem exec_imageUpdate_accepted {s : State} {img : SignedImage} {t : CtrlType} (hb : s.plat.brought = true) (hu : s.plat.update = none)
    (ht : img.type = typeNumber t) (h : Sound s.plat img t) : exec (.imageUpdate img) s =
      .next (nextController s ⟨t, imageVer img, none, updateOrder s.plat.activeCoronaip t, 0, false⟩) := by
  show execImageUpdate img s = _
  simp [execImageUpdate, (typeOf_eq_some_iff _ _).mpr ht, hb, hu, (imageOk_iff _ _ _).mpr h]

/-! ## Controllers that check in or are brought back (23 R406, R408) -/

/-- The platform once a controller has taken up its record. -/
def takenPlat (s : State) (c : Fin 26) (y : Controller) : Platform := { s.plat with
  controllers := s.plat.controllers.set c y
  baseWork := (match s.plat.controllers[c].record with
    | some (.baseDie w _) =>
      s.plat.baseWork.set (Fin.ofNat 12 (c.val - 6)) { w with refresh := s.plat.baseWork[Fin.ofNat 12 (c.val - 6)].refresh }
    | _ => s.plat.baseWork)
  lathWork := (match s.plat.controllers[c].record with
    | some (.lath w _) => s.plat.lathWork.set (Fin.ofNat 8 (c.val - 18)) w
    | _ => s.plat.lathWork) }

theorem takeUp_putController (s : State) (c : Fin 26) (y : Controller) (h : y.record = s.plat.controllers[c].record) :
    takeUp (putController s c y) c = putPlat s (takenPlat s c y) := by
  have hrec : (putController s c y).plat.controllers[c].record = s.plat.controllers[c].record := by
    simp [putController, putPlat, h]
  unfold takeUp takenPlat
  rw [hrec]
  cases s.plat.controllers[c].record with
  | none => rfl
  | some r => cases r <;> rfl

/-- The platform once the new image of a controller has checked in, a Coronaip updated as standby being the active one then. -/
def checkedPlat (s : State) (u : Update) (c : Fin 26) : Platform :=
  let p := takenPlat s c { s.plat.controllers[c] with image := u.image, retained := s.plat.controllers[c].image, state := .running }
  if u.type = .coronaip ∧ u.done = 0 then { p with activeCoronaip := Fin.ofNat 2 c.val, heartbeat := 0 } else p

theorem switchCoronaip_checkIn (s : State) (u : Update) (c : Fin 26) :
    switchCoronaip (checkIn s u c) u c = putPlat s (checkedPlat s u c) := by
  have htaken : checkIn s u c = putPlat s (takenPlat s c
      { s.plat.controllers[c] with image := u.image, retained := s.plat.controllers[c].image, state := .running }) :=
    takeUp_putController s c _ rfl
  rw [htaken]
  by_cases h : u.type = .coronaip ∧ u.done = 0
  · simp [switchCoronaip, checkedPlat, h, putPlat]
  · have hb : (decide (u.type = .coronaip) && decide (u.done = 0)) = false := by simpa using h
    simp [switchCoronaip, checkedPlat, h, hb]

theorem exec_checkIn_of_none {s : State} (h : s.plat.update.bind (fun u => u.next) = none) :
    exec .controllerCheckIn s = .next s ∧ exec .updateWatchdog s = .next s := by
  constructor
  · show execControllerCheckIn s = _
    unfold execControllerCheckIn
    cases hu : s.plat.update with
    | none => rfl
    | some u =>
      have hn : u.next = none := by simpa [hu] using h
      simp [hn]
  · show execUpdateWatchdog s = _
    simp [execUpdateWatchdog, h]

section AtHand

variable {s : State} {u : Update} {c : Fin 26} (hu : s.plat.update = some u) (hc : u.next = some c)

include hu hc

theorem exec_controllerCheckIn_starting {n : Nat} (hx : s.plat.controllers[c].state = .starting n) :
    exec .controllerCheckIn s = .next (if n < s.stime.toNat then s
      else nextController (serveRequests (putPlat s (checkedPlat s u c))) { u with done := u.done + 1 }) := by
  show execControllerCheckIn s = _
  unfold execControllerCheckIn
  simp only [hu, hc, Option.bind_some, Option.map_some, hx, switchCoronaip_checkIn]
  split <;> rfl

theorem exec_updateWatchdog_starting {n : Nat} (hx : s.plat.controllers[c].state = .starting n) :
    exec .updateWatchdog s = .next (if n ≤ s.stime.toNat then
      putUpdate (serveRequests (putPlat s (takenPlat s c { s.plat.controllers[c] with state := .running }))) none else s) := by
  show execUpdateWatchdog s = _
  unfold execUpdateWatchdog
  simp only [hu, hc, Option.bind_some, hx, takeUp_putController s c { s.plat.controllers[c] with state := .running } rfl]
  split <;> rfl

theorem exec_checkIn_of_not_starting (hx : s.plat.controllers[c].state = .running ∨ s.plat.controllers[c].state = .off) :
    exec .controllerCheckIn s = .next s ∧ exec .updateWatchdog s = .next s := by
  constructor
  · show execControllerCheckIn s = _
    unfold execControllerCheckIn
    simp only [hu, hc, Option.bind_some, Option.map_some]
    obtain hx | hx := hx <;> rw [hx]
  · show execUpdateWatchdog s = _
    unfold execUpdateWatchdog
    simp only [hu, hc, Option.bind_some]
    obtain hx | hx := hx <;> rw [hx]

end AtHand

/-! ## Requests for dispatchers (07 R182; 18 R363; 23 R408) -/

theorem lookAgain_calm {s : State} {c : Nat} (h : (cellAt s c).preempt = none) : lookAgain s c = s := by
  simp [lookAgain, h]

theorem lookAgain_foldl_of_fixed {s : State} (h : ∀ c, lookAgain s c = s) (l : List Nat) : l.foldl lookAgain s = s := by
  induction l with
  | nil => rfl
  | cons c l ih => rw [List.foldl_cons, h c, ih]

theorem serveRequests_eq_foldl_lookAgain {s : State} (hr : s.host.requests = []) :
    serveRequests s = (knownCells s).foldl lookAgain s := by
  have hs : ({ s with host := { s.host with requests := [] } } : State) = s := by rw [← hr]
  simp only [serveRequests, hr, List.filter_nil, List.foldl_nil, hs]

theorem serveRequests_none {s : State} (hr : s.host.requests = []) (h : ∀ c, (cellAt s c).preempt = none) : serveRequests s = s := by
  rw [serveRequests_eq_foldl_lookAgain hr]
  exact lookAgain_foldl_of_fixed (fun c => lookAgain_calm (h c)) _

theorem lookPreempt_putCell {s : State} {c : Nat} {x : Cell} (hp : x.preempt = some x.cc.desc.ctxid) (hl : x.live = true)
    (hd : dispatcherUp s (Fin.ofNat 4 (dieOf (physOf s c))) = true) :
    lookPreempt (putCell s c x) c = putCell s c { x with closed := true } := by
  have hcell : cellAt (putCell s c x) c = x := cellAt_putCell_same s c x
  have hup : dispatcherUp (putCell s c x) (Fin.ofNat 4 (dieOf (physOf (putCell s c x) c))) = true := hd
  unfold lookPreempt
  simp only [hcell, hp, hl, hup, decide_true, Bool.and_self, if_true]
  simp [putCell, tabSet_tabSet]

theorem lookPreempt_of_due {s : State} {c : Nat} (hp : (cellAt s c).preempt = some (cellAt s c).cc.desc.ctxid)
    (hl : (cellAt s c).live = true) (hd : dispatcherUp s (Fin.ofNat 4 (dieOf (physOf s c))) = true) :
    lookPreempt s c = putCell s c { cellAt s c with closed := true } :=
  if_pos (by simp only [hp, hl, hd, decide_true, Bool.and_self])

theorem lookPreempt_eq_self_or (s : State) (c : Nat) : lookPreempt s c = s ∨
    (lookPreempt s c = putCell s c { cellAt s c with closed := true } ∧ lookPreempt (lookPreempt s c) c = lookPreempt s c) := by
  by_cases h : (cellAt s c).preempt = some (cellAt s c).cc.desc.ctxid ∧ (cellAt s c).live = true ∧
      dispatcherUp s (Fin.ofNat 4 (dieOf (physOf s c))) = true
  · obtain ⟨hp, hl, hd⟩ := h
    have hlook := lookPreempt_of_due hp hl hd
    refine .inr ⟨hlook, ?_⟩
    rw [hlook]
    exact lookPreempt_putCell (x := { cellAt s c with closed := true }) hp hl hd
  · refine .inl (if_neg fun hc => h ?_)
    simpa only [Bool.and_eq_true, decide_eq_true_eq, and_assoc] using hc

theorem lookPreempt_idem (s : State) (c : Nat) : lookPreempt (lookPreempt s c) c = lookPreempt s c := by
  obtain h | ⟨-, h⟩ := lookPreempt_eq_self_or s c
  · rw [h, h]
  · exact h

theorem cellAt_lookPreempt_other (s : State) {c e : Nat} (h : e ≠ c) : cellAt (lookPreempt s c) e = cellAt s e := by
  obtain hl | ⟨hl, -⟩ := lookPreempt_eq_self_or s c
  · rw [hl]
  · rw [hl, cellAt_putCell_other s c e _ (Ne.symm h)]

theorem lookAgain_eq_self_of_calm_or_looked {s : State} {a : Nat} (h : ∀ c, c ≠ a → (cellAt s c).preempt = none)
    (ha : lookAgain s a = s) (c : Nat) : lookAgain s c = s := by
  by_cases hc : c = a
  · rw [hc, ha]
  · exact lookAgain_calm (h c hc)

theorem takePreempt_calm {s : State} {a c : Nat} {id : BitVec 16} (h : ∀ e, (cellAt s e).preempt = none) (hc : c ≠ a) :
    (cellAt (takePreempt s a id) c).preempt = none := by
  have hput : (cellAt (putCell s a { cellAt s a with preempt := some id }) c).preempt = none := by
    rw [cellAt_putCell_other s a c _ (Ne.symm hc)]
    exact h c
  unfold takePreempt
  dsimp only
  split
  · exact h c
  · split
    · rw [cellAt_lookPreempt_other _ hc]
      exact hput
    · exact hput

theorem busySlots_lookPreempt (s : State) (c : Nat) : busySlots (lookPreempt s c) c = busySlots s c := by
  obtain hl | ⟨hl, -⟩ := lookPreempt_eq_self_or s c
  · rw [hl]
  · rw [hl]
    rfl

theorem lookAgain_takePreempt {s : State} {a : Nat} {id : BitVec 16} (h : ∀ e, (cellAt s e).preempt = none) :
    lookAgain (takePreempt s a id) a = takePreempt s a id := by
  unfold takePreempt
  dsimp only
  split
  · exact lookAgain_calm (h a)
  · split
    · rename_i hb
      unfold lookAgain
      rw [lookPreempt_idem]
      exact ite_self _
    · rename_i hb
      exact if_neg (by simp [hb])

theorem takeRestore_calm {s : State} {a : Nat} {r : RestoreReq} (h : ∀ e, (cellAt s e).preempt = none) (c : Nat) :
    (cellAt (takeRestore s a r) c).preempt = none := by
  unfold takeRestore
  split
  · exact h c
  · rw [cellAt_putCell]
    split
    · exact h a
    · exact h c

/-- The package without the requests that wait for dispatchers. -/
def withoutRequests (s : State) : State := { s with host := { s.host with requests := [] } }

theorem serveRequests_one {s : State} {r : DispatchReq} (hr : s.host.requests = [r]) (hready : requestReady s r = true)
    (h : ∀ c, lookAgain (takeRequest (withoutRequests s) r) c = takeRequest (withoutRequests s) r) :
    serveRequests s = takeRequest (withoutRequests s) r := by
  simp only [serveRequests, hr, List.filter_cons, List.filter_nil, hready, Bool.not_true, Bool.false_eq_true, if_false, if_true,
    List.foldl_cons, List.foldl_nil]
  exact lookAgain_foldl_of_fixed h _

theorem serveRequests_kept {s : State} {r : DispatchReq} (hr : s.host.requests = [r]) (hready : requestReady s r = false)
    (h : ∀ c, (cellAt s c).preempt = none) : serveRequests s = s := by
  have hs : ({ s with host := { s.host with requests := [r] } } : State) = s := by rw [← hr]
  simp only [serveRequests, hr, List.filter_cons, List.filter_nil, hready, Bool.not_false, Bool.false_eq_true, if_false, if_true,
    List.foldl_nil, hs]
  exact lookAgain_foldl_of_fixed (fun c => lookAgain_calm (h c)) _

/-- The dispatcher of a cell's die has checked in. -/
def CellDispatcherUp (s : State) (a : Nat) : Prop := (s.plat.controllers[2 + (Fin.ofNat 4 (physOf s a / 256)).val]).state = .running

theorem dispatcherUp_iff (s : State) (a : Nat) :
    dispatcherUp s (Fin.ofNat 4 (dieOf (physOf s a))) = true ↔ CellDispatcherUp s a := decide_eq_true_iff

theorem serveRequests_preempt {s : State} {a : Nat} {id : BitVec 16} (hr : s.host.requests = [.preempt a id])
    (h : ∀ c, (cellAt s c).preempt = none) :
    (CellDispatcherUp s a → exec (.preemptRequest a id) (withoutRequests s) = .next (serveRequests s)) ∧
    (¬CellDispatcherUp s a → serveRequests s = s) := by
  refine ⟨fun hup => ?_, fun hup => serveRequests_kept hr ?_ h⟩
  · have hready : requestReady s (.preempt a id) = true := (dispatcherUp_iff s a).mpr hup
    rw [serveRequests_one hr hready (lookAgain_eq_self_of_calm_or_looked (a := a)
      (fun c hc => takePreempt_calm (s := withoutRequests s) h hc) (lookAgain_takePreempt (s := withoutRequests s) h))]
    exact congrArg Host.Outcome.next (if_pos hready)
  · exact Bool.eq_false_iff.mpr (fun hc => hup ((dispatcherUp_iff s a).mp hc))

theorem serveRequests_restore {s : State} {a ph : Nat} {id : BitVec 16} (hr : s.host.requests = [.restore a id ph])
    (h : ∀ c, (cellAt s c).preempt = none) :
    (CellDispatcherUp s a → exec (.restoreRequest a id ph) (withoutRequests s) = .next (serveRequests s)) ∧
    (¬CellDispatcherUp s a → serveRequests s = s) := by
  refine ⟨fun hup => ?_, fun hup => serveRequests_kept hr ?_ h⟩
  · have hready : requestReady s (.restore a id ph) = true := (dispatcherUp_iff s a).mpr hup
    rw [serveRequests_one hr hready (fun c => lookAgain_calm (takeRestore_calm (s := withoutRequests s) h c))]
    exact congrArg Host.Outcome.next (if_pos hready)
  · exact Bool.eq_false_iff.mpr (fun hc => hup ((dispatcherUp_iff s a).mp hc))

theorem serveRequests_standing {s : State} {a : Nat} {y : Cell} {id : BitVec 16} (hr : s.host.requests = []) (hcells : s.cells = [(a, y)])
    (hp : y.preempt = some id) (hl : y.live = true) (hid : y.cc.desc.ctxid = id) (hfree : ∀ k, (slotAt s a k).run = .free)
    (hup : CellDispatcherUp s a) : serveRequests s = { s with cells := [(a, { y with closed := true })] } := by
  have hknown : knownCells s = [a] := by simp [knownCells, hcells]
  have hcell : cellAt s a = y := by simp [cellAt, hcells, tabGet, tabFind]
  have hbusy : (busySlots s a).isEmpty = true := by rw [(busySlots_eq_nil_iff s a).mpr hfree]; rfl
  have hagain : lookAgain s a = lookPreempt s a := if_pos (by rw [hcell, hp, hbusy]; rfl)
  have hdue : lookPreempt s a = putCell s a { cellAt s a with closed := true } :=
    lookPreempt_of_due (by rw [hcell, hp, hid]) (by rw [hcell, hl]) ((dispatcherUp_iff s a).mpr hup)
  rw [serveRequests_eq_foldl_lookAgain hr, hknown]
  refine hagain.trans (hdue.trans ?_)
  rw [hcell]
  simp [putCell, hcells, tabSet]

/-! ## An update that a fence paused (23 R409) -/

theorem exec_fenceConfirm {s : State} {d : Fin 4} (hr : s.dies.health[d].reported = true) (hc : s.dies.health[d].confirmed = false) :
    exec (.fenceConfirm d) s = .next (resumeUpdate (confirmFence s d)) := by
  show execFenceConfirm d s = _
  unfold execFenceConfirm
  simp only [hr, hc, Bool.not_true, Bool.or_self, Bool.false_eq_true, if_false]

theorem resumeUpdate_paused {s : State} {u : Update} (hu : s.plat.update = some u) (hn : u.next = none) :
    resumeUpdate s = nextController s u := by
  simp [resumeUpdate, hu, hn]

theorem resumeUpdate_at_hand {s : State} {u : Update} (hu : s.plat.update = some u) (hn : u.next ≠ none) : resumeUpdate s = s := by
  simp [resumeUpdate, hu, hn]

/-! ## Coronaips and the floors (23 R404, R405) -/

theorem exec_coronaipFailover_stands {s : State}
    (h : s.plat.controllers[coronaipNo (s.plat.activeCoronaip + 1)].state = .off ∨ s.plat.heartbeat < 3000000) :
    exec .coronaipFailover s = .next s := by
  show execCoronaipFailover s = _
  unfold execCoronaipFailover
  exact if_pos (by simpa using h)

theorem coronaipNo_ne (a : Fin 2) : coronaipNo (a + 1) ≠ coronaipNo a := by
  revert a
  decide

/-- The platform once the standby Coronaip has taken over. -/
def failedOver (p : Platform) : Platform := { p with
  controllers := (p.controllers.set (coronaipNo p.activeCoronaip) { p.controllers[coronaipNo p.activeCoronaip] with state := .off }).set
    (coronaipNo (p.activeCoronaip + 1)) { p.controllers[coronaipNo (p.activeCoronaip + 1)] with state := .running }
  activeCoronaip := p.activeCoronaip + 1
  heartbeat := 0
  update := if p.update.any (fun u => u.type = .coronaip) then none else p.update }

theorem stopCoronaipUpdate_eq (s : State) : stopCoronaipUpdate s =
    putUpdate s (if s.plat.update.any (fun u => u.type = .coronaip) then none else s.plat.update) := by
  unfold stopCoronaipUpdate
  by_cases h : s.plat.update.any (fun u => u.type = .coronaip) = true
  · obtain ⟨u, hu, hc⟩ := (Option.any_eq_true _ _).mp h
    rw [if_pos h, hu]
    exact if_pos (of_decide_eq_true hc)
  · rw [if_neg h]
    split
    · rename_i u hu
      refine if_neg fun hc => h ?_
      simp [hu, hc]
    · rfl

theorem exec_coronaipFailover_takes_over {s : State}
    (hoff : s.plat.controllers[coronaipNo (s.plat.activeCoronaip + 1)].state ≠ .off) (hbeat : 3000000 ≤ s.plat.heartbeat) :
    exec .coronaipFailover s = .next (putPlat s (failedOver s.plat)) := by
  show execCoronaipFailover s = _
  unfold execCoronaipFailover
  dsimp only
  rw [if_neg, stopCoronaipUpdate_eq]
  · simp only [failedOver, putUpdate, putController, putPlat]
    rfl
  · rw [Bool.or_eq_true, decide_eq_true_eq, decide_eq_true_eq, not_or, not_lt]
    exact ⟨hoff, hbeat⟩

theorem step_heartbeat {s : State} {l : List Turn} (hl : s.agenda = .heartbeat :: l)
    (hrun : s.plat.controllers[coronaipNo s.plat.activeCoronaip].state = .running) :
    step s = .next { s with agenda := l, turnNo := s.turnNo + 1, plat := { s.plat with heartbeat := 0 } } := by
  have hdrop : dropTurn s = { s with agenda := l, turnNo := s.turnNo + 1 } := by simp [dropTurn, hl]
  have hbeat : heartbeat (dropTurn s) = { dropTurn s with plat := { (dropTurn s).plat with heartbeat := 0 } } := if_pos hrun
  simp only [step, nextReady, nextTurn, hl, List.headD_cons, takeTurn, finish, hbeat]
  rw [hdrop]

theorem exec_versionFloorRaise_none {s : State} {t : CtrlType} (h : s.plat.updated[typeIndex t] = none) :
    exec (.versionFloorRaise t) s = .next s := by
  show execVersionFloorRaise t s = _
  unfold execVersionFloorRaise
  dsimp only
  rw [h]

/-- The platform once the floor of a TYPE is raised to a version. -/
def floorRaised (p : Platform) (i : Fin 4) (v : BitVec 32) : Platform := { p with
  floors := p.floors.set i (if p.floors[i].toNat ≤ v.toNat then v else p.floors[i])
  updated := p.updated.set i none }

theorem exec_versionFloorRaise_some {s : State} {t : CtrlType} {v : BitVec 32} (h : s.plat.updated[typeIndex t] = some v) :
    exec (.versionFloorRaise t) s = .next (putPlat s (floorRaised s.plat (typeIndex t) v)) := by
  show execVersionFloorRaise t s = _
  unfold execVersionFloorRaise
  dsimp only
  rw [h]
  rfl

/-- The controllers of a TYPE in the order of an update. -/
def turnsOf (p : Platform) : CtrlType → List (Fin 26)
  | .coronaip => if p.activeCoronaip = 0 then [1, 0] else [0, 1]
  | .dispatcher => (List.range 4).map (fun k => Fin.ofNat 26 (2 + k))
  | .baseDie => (List.range 12).map (fun k => Fin.ofNat 26 (6 + k))
  | .lath => (List.range 8).map (fun k => Fin.ofNat 26 (18 + k))

theorem updateOrder_eq_turnsOf (p : Platform) (t : CtrlType) : updateOrder p.activeCoronaip t = turnsOf p t := by
  cases t <;> rfl

theorem numberOf_typeNumber (t : CtrlType) : (typeNumber t).toNat = (match t with
    | .coronaip => 1 | .dispatcher => 2 | .baseDie => 3 | .lath => 4) := by
  cases t <;> rfl

/-- Settles O60: an update goes from controller to controller, and each case of the claim is one lemma about its step. -/
theorem firmware : Obligations.Firmware := by
  intro s img u c f n ty v pre rest d a ph id l y p no ix floor sound fits turnOrder skips paused To Goes x taken checked switched
  have hswitched : putPlat s (checkedPlat s u c) = { s with plat := switched } := rfl
  have hgoes : ∀ w q, Goes w q (.next (nextController w q)) := updateGoes_nextController pre f rest
  have htype : ∀ t, img.type = typeNumber t ↔ img.type.toNat = (match t with
    | .coronaip => 1 | .dispatcher => 2 | .baseDie => 3 | .lath => 4) := fun t => by
      rw [eq_typeNumber_iff, numberOf_typeNumber]
  refine ⟨fun h => exec_imageUpdate_refused (h.imp_right fun h => h.imp_right fun h t ht => h t ((htype t).mp ht)),
    fun hb hu ht h => ?_, exec_checkIn_of_none, fun hu hc hx => exec_checkIn_of_not_starting hu hc hx, fun hu hc hx => ?_,
    serveRequests_none, serveRequests_standing, serveRequests_preempt, serveRequests_restore, fun hr hc hu => ?_,
    ⟨exec_coronaipFailover_stands, exec_coronaipFailover_takes_over, step_heartbeat⟩, exec_versionFloorRaise_none,
    exec_versionFloorRaise_some⟩
  · rw [exec_imageUpdate_accepted hb hu ((htype ty).mpr ht) h, updateOrder_eq_turnsOf]
    exact hgoes _ _
  · have hcheck := exec_controllerCheckIn_starting hu hc hx
    have hdog := exec_updateWatchdog_starting hu hc hx
    refine ⟨fun h => hcheck.trans (congrArg _ (if_pos h)), fun h => hdog.trans (congrArg _ (if_neg (Nat.not_le.mpr h))),
      fun h => hdog.trans (congrArg _ (if_pos h)), fun h => ?_⟩
    rw [hcheck, if_neg (Nat.not_lt.mpr h), hswitched]
    exact hgoes _ _
  · rw [exec_fenceConfirm hr hc]
    have hplat : (confirmFence s d).plat.update = some u := by rw [confirmFence_plat, hu]
    refine ⟨fun hn => ?_, fun hn => congrArg _ (resumeUpdate_at_hand hplat hn)⟩
    rw [resumeUpdate_paused hplat hn]
    exact hgoes _ _

end Sys2Proof.Machine
end

section
/-! Messages between dies, operation by operation: what sending changes (20 R377-R379). -/

namespace Sys2Proof.Machine

open Sys2Proof.Safety

theorem onlyLaths_refl (s : State) : OnlyLaths s s := rfl

theorem onlyLaths_trans {s t u : State} (h : OnlyLaths s t) (k : OnlyLaths t u) : OnlyLaths s u := by
  unfold OnlyLaths at *
  rw [← k] at h
  exact h

theorem onlyLaths_foldl {α : Type} (f : State → α → State) (h : ∀ s a, OnlyLaths s (f s a)) (l : List α) :
    ∀ s, OnlyLaths s (l.foldl f s) := by
  induction l with
  | nil => exact onlyLaths_refl
  | cons a l ih => exact fun s => onlyLaths_trans (h s a) (ih (f s a))

theorem onlyLaths_putStream (s : State) (k : Nat) (x : Stream) : OnlyLaths s (putStream s k x) := rfl

/-- Nothing has changed but links. -/
def OnlyLinks (s t : State) : Prop := { t with dies := { t.dies with links := s.dies.links } } = s

theorem OnlyLinks.trans {s t u : State} (h : OnlyLinks s t) (k : OnlyLinks t u) : OnlyLinks s u := by
  unfold OnlyLinks at *
  rw [← k] at h
  exact h

theorem OnlyLinks.foldl {α : Type} (f : State → α → State) (h : ∀ s a, OnlyLinks s (f s a)) (l : List α) :
    ∀ s, OnlyLinks s (l.foldl f s) := by
  induction l with
  | nil => exact fun s => rfl
  | cons a l ih => exact fun s => (h s a).trans (ih (f s a))

theorem OnlyLinks.onlyLaths {s t : State} (h : OnlyLinks s t) : OnlyLaths s t :=
  (congrArg (fun u : State => { u with dies := { u.dies with streams := s.dies.streams } }) h :)

theorem onlyLinks_putLink (s : State) (l : Fin 8) (x : Link) : OnlyLinks s (putLink s l x) := rfl

theorem onlyLinks_sendFlit (s : State) (l : Fin 8) (k n : Nat) : OnlyLinks s (sendFlit s l k n) := by
  unfold sendFlit
  dsimp only
  split <;> rfl

theorem onlyLinks_sendKept (s : State) (k n : Nat) : OnlyLinks s (sendKept s k n) := by
  unfold sendKept
  split
  · exact onlyLinks_sendFlit ..
  · rfl

theorem onlyLaths_sendKept (s : State) (k n : Nat) : OnlyLaths s (sendKept s k n) := (onlyLinks_sendKept s k n).onlyLaths

theorem onlyLaths_sendMessage (s : State) (a b : Nat) : OnlyLaths s (sendMessage s a b) := by
  unfold sendMessage
  split
  · rfl
  · exact onlyLaths_trans (onlyLaths_putStream ..) (onlyLaths_sendKept ..)

theorem onlyLinks_resendKept (s : State) : OnlyLinks s (resendKept s) := by
  have hkept : ∀ (k : Nat) (l : List (Nat × Nat)) (s : State),
      OnlyLinks s (l.foldl (fun s n => if inWindow s k n.1 then s else sendKept s k n.1) s) := fun k =>
    OnlyLinks.foldl _ (fun s n => by
      split
      · rfl
      · exact onlyLinks_sendKept ..)
  exact OnlyLinks.foldl _ (fun s (e : Nat × Stream) => hkept e.1 e.2.kept s) s.dies.streams s

theorem onlyLaths_resendKept (s : State) : OnlyLaths s (resendKept s) := (onlyLinks_resendKept s).onlyLaths

/-! ## Links that have taken flits -/

/-- A link that may have taken flits, if it is up. -/
def LinkFed (x y : Link) : Prop := ∃ n w v, y = { x with next := n, window := w, wire := v } ∧ (x.up = false → y = x)

theorem LinkFed.refl (x : Link) : LinkFed x x := ⟨x.next, x.window, x.wire, rfl, fun _ => rfl⟩

theorem LinkFed.trans {x y z : Link} (h : LinkFed x y) (k : LinkFed y z) : LinkFed x z := by
  obtain ⟨n, w, v, rfl, hx⟩ := h
  obtain ⟨n', w', v', rfl, hy⟩ := k
  exact ⟨n', w', v', rfl, fun hup => (hy hup).trans (hx hup)⟩

/-- Links that may have taken flits. -/
def LinksFed (s t : State) : Prop := ∀ l : Fin 8, LinkFed s.dies.links[l] t.dies.links[l]

theorem LinksFed.refl (s : State) : LinksFed s s := fun _ => .refl _

theorem LinksFed.trans {s t u : State} (h : LinksFed s t) (k : LinksFed t u) : LinksFed s u := fun l => (h l).trans (k l)

theorem LinksFed.foldl {α : Type} (f : State → α → State) (h : ∀ s a, LinksFed s (f s a)) (l : List α) :
    ∀ s, LinksFed s (l.foldl f s) := by
  induction l with
  | nil => exact LinksFed.refl
  | cons a l ih => exact fun s => (h s a).trans (ih (f s a))

theorem link_putLink_same (s : State) (l : Fin 8) (x : Link) : (putLink s l x).dies.links[l] = x := by simp [putLink, putDies]

theorem link_putLink_other (s : State) {l j : Fin 8} (h : j ≠ l) (x : Link) : (putLink s l x).dies.links[j] = s.dies.links[j] := by
  have hval : l.val ≠ j.val := fun hv => h (Fin.ext hv.symm)
  simp [putLink, putDies, hval]

theorem linksFed_sendFlit (s : State) (l : Fin 8) (k n : Nat) : LinksFed s (sendFlit s l k n) := by
  intro j
  unfold sendFlit
  dsimp only
  split
  · rename_i hup
    have hup : s.dies.links[l].up = true := by simp_all
    by_cases hj : j = l
    · subst hj
      rw [link_putLink_same]
      exact ⟨_, _, _, rfl, fun hd => absurd (hd.symm.trans hup) Bool.false_ne_true⟩
    · rw [link_putLink_other s hj]
      exact .refl _
  · exact .refl _

theorem linksFed_sendKept (s : State) (k n : Nat) : LinksFed s (sendKept s k n) := by
  unfold sendKept
  split
  · exact linksFed_sendFlit s _ k n
  · exact .refl _

theorem linksFed_resendKept (s : State) : LinksFed s (resendKept s) := by
  have hkept : ∀ (k : Nat) (l : List (Nat × Nat)) (s : State),
      LinksFed s (l.foldl (fun s n => if inWindow s k n.1 then s else sendKept s k n.1) s) := fun k =>
    LinksFed.foldl _ (fun s n => by
      split
      · exact .refl _
      · exact linksFed_sendKept s k n.1)
  exact LinksFed.foldl _ (fun s (e : Nat × Stream) => hkept e.1 e.2.kept s) s.dies.streams s

theorem resendKept_of_none_kept {s : State} (h : ∀ y ∈ s.dies.streams, y.2.kept = []) : resendKept s = s := by
  have hfold : ∀ l : Tab Stream, (∀ y ∈ l, y.2.kept = []) → l.foldl (fun s e =>
      e.2.kept.foldl (fun s n => if inWindow s e.1 n.1 then s else sendKept s e.1 n.1) s) s = s := by
    intro l hl
    induction l with
    | nil => rfl
    | cons e l ih =>
      rw [List.foldl_cons, hl e List.mem_cons_self]
      exact ih (fun y hy => hl y (List.mem_cons_of_mem _ hy))
  exact hfold s.dies.streams h

end Sys2Proof.Machine
end

section
/-! What stays good in caches when memory goes out of reach (22 R402), and what a fence leaves of the package (20 R382, R386). -/

namespace Sys2Proof.Machine

open Sys2Proof.Safety

/-! ## Tables and bits -/

theorem tabFind_tabMap {α : Type} (f : Nat → α → α) (t : Tab α) (i : Nat) : tabFind (tabMap f t) i = (tabFind t i).map (f i) := by
  induction t with
  | nil => rfl
  | cons e t ih =>
    obtain ⟨k, y⟩ := e
    by_cases h : k = i
    · subst h
      simp [tabMap, tabFind]
    · have htail : tabFind (t.map (fun e => (e.1, f e.1 e.2))) i = (tabFind t i).map (f i) := ih
      simp [tabMap, tabFind, h, htail]

theorem tabGet_tabMap {α : Type} (f : Nat → α → α) (x : α) (t : Tab α) (i : Nat) (h : f i x = x) :
    tabGet x (tabMap f t) i = f i (tabGet x t i) := by
  unfold tabGet
  rw [tabFind_tabMap]
  cases tabFind t i with
  | none => exact h.symm
  | some y => rfl

theorem tabFind_filter {α : Type} (p : Nat → Bool) (t : Tab α) (i : Nat) :
    tabFind (t.filter (fun e => p e.1)) i = if p i then tabFind t i else none := by
  induction t with
  | nil => simp [tabFind]
  | cons e t ih =>
    obtain ⟨k, y⟩ := e
    by_cases hk : k = i
    · subst hk
      cases hp : p k <;> simp [tabFind, hp, ih]
    · cases hp : p k <;> simp [tabFind, hp, ih, hk]

theorem tabGet_filter {α : Type} (x : α) (p : Nat → Bool) (t : Tab α) (i : Nat) :
    tabGet x (t.filter (fun e => p e.1)) i = if p i then tabGet x t i else x := by
  unfold tabGet
  rw [tabFind_filter]
  split <;> rfl

theorem getLsbD_putBit {n : Nat} (x : BitVec n) (i k : Nat) (b : Bool) (h : k < n) :
    (putBit x i b).getLsbD k = if k = i then b else x.getLsbD k := by
  have hone : (1#n <<< i).getLsbD k = decide (k = i) := by
    by_cases hk : k = i
    · simp [hk, show i < n from hk ▸ h]
    · simp only [BitVec.getLsbD_shiftLeft, h, decide_true, Bool.true_and, BitVec.getLsbD_one, hk, decide_false]
      by_cases hlt : k < i
      · simp [hlt]
      · simp [hlt]
        omega
  cases b
  · rw [putBit, if_neg Bool.false_ne_true, BitVec.getLsbD_and, BitVec.getLsbD_not, hone]
    by_cases hk : k = i <;> simp [hk, h]
  · rw [putBit, if_pos rfl, BitVec.getLsbD_or, hone]
    by_cases hk : k = i <;> simp [hk]

/-! ## Memory out of reach (22 R402) -/

theorem getLsbD_four (f : Nat → Bool) (i : Nat) (h : i < 4) :
    ((List.range 4).foldl (fun m i => if f i then m ||| (1#4 <<< i) else m) 0).getLsbD i = f i := by
  have hbits : ∀ (b0 b1 b2 b3 : Bool) (i : Fin 4),
      (let m0 := if b0 then 0#4 ||| (1#4 <<< 0) else 0#4
       let m1 := if b1 then m0 ||| (1#4 <<< 1) else m0
       let m2 := if b2 then m1 ||| (1#4 <<< 2) else m1
       let m3 := if b3 then m2 ||| (1#4 <<< 3) else m2
       m3.getLsbD i.val) = [b0, b1, b2, b3][i] := by decide
  refine (hbits (f 0) (f 1) (f 2) (f 3) ⟨i, h⟩).trans ?_
  match i, h with
  | 0, _ => rfl
  | 1, _ => rfl
  | 2, _ => rfl
  | 3, _ => rfl

theorem getLsbD_losing (s : State) (p : Nat → Bool) (line i : Nat) (h : i < 4) :
    (losing s p line).getLsbD i = (p (4 * line + i) && !sectorBad s (4 * line + i)) :=
  getLsbD_four (fun i => p (4 * line + i) && !sectorBad s (4 * line + i)) i h

theorem dirGet_keepGood (s : State) (p : Nat → Bool) (d line : Nat) (h : line < 2 ^ 40) : dirGet (keepGood s p).coh d line =
    (let y := dirGet s.coh d line
     if y.lvl = .i then y else { y with good := y.good ||| losing s p line }) := by
  have hline : lineKey d line % 2 ^ 40 = line := by
    unfold lineKey
    omega
  unfold dirGet keepGood
  rw [putCoh, tabGet_tabMap _ _ _ _ rfl, hline]

/-- What caches hold of memory that is out of reach now stays good (22 R402). -/
def KeepsGood (s t : State) : Prop := { t.coh with dirs := s.coh.dirs } = s.coh ∧ ∀ x m, m < 2 ^ 40 →
  let y := dirGet s.coh x m
  ∃ b, dirGet t.coh x m = { y with good := b } ∧ ∀ i, i < 4 → b.getLsbD i =
    (y.good.getLsbD i || (decide (y.lvl ≠ .i) && sectorBad t (4 * m + i) && !sectorBad s (4 * m + i)))

theorem keepsGood_of_keepGood {s t : State} {p : Nat → Bool} (hcoh : t.coh = (keepGood s p).coh)
    (hbad : ∀ k, sectorBad t k = p k) : KeepsGood s t := by
  refine ⟨by rw [hcoh]; rfl, fun x m hm => ?_⟩
  rw [hcoh, dirGet_keepGood s p x m hm]
  by_cases hl : (dirGet s.coh x m).lvl = .i
  · exact ⟨(dirGet s.coh x m).good, if_pos hl, by simp [hl]⟩
  · exact ⟨(dirGet s.coh x m).good ||| losing s p m, by simp [hl], fun i hi => by simp [hl, hbad, getLsbD_losing s p m i hi]⟩

theorem sectorBad_congr {s t : State} (hp : t.poison = s.poison) (hc : t.plat.cxlUp = s.plat.cxlUp) (hu : t.plat.portUp = s.plat.portUp)
    (k : Nat) : sectorBad t k = sectorBad s k := by
  unfold sectorBad cxlReached
  rw [hp, hc, hu]

theorem losing_congr {s t : State} {p q : Nat → Bool} (h : ∀ k, sectorBad t k = sectorBad s k) (hpq : p = q) : losing t p = losing s q := by
  subst hpq
  funext line
  simp only [losing, h]

/-! ## A fence, field by field (20 R382, R386) -/

/-- Nothing has changed but slots, cells, images and the host's side. -/
def OnlyLosses (s t : State) : Prop := { t with slots := s.slots, cells := s.cells, images := s.images, host := s.host } = s

theorem onlyLosses_trans {s t u : State} (h : OnlyLosses s t) (k : OnlyLosses t u) : OnlyLosses s u := by
  unfold OnlyLosses at *
  rw [← k] at h
  exact h

theorem onlyLosses_foldl {α : Type} (f : State → α → State) (h : ∀ s a, OnlyLosses s (f s a)) (l : List α) :
    ∀ s, OnlyLosses s (l.foldl f s) := by
  induction l with
  | nil => exact fun s => rfl
  | cons a l ih => exact fun s => onlyLosses_trans (h s a) (ih (f s a))

theorem onlyLosses_loseCell (s : State) (c : Nat) : OnlyLosses s (loseCell s c) := by
  have hport : ∀ t, OnlyLosses t ((cellAt s c).port.foldl (fun s m => addLoss s c m.ctxid 1) t) :=
    onlyLosses_foldl (fun s (m : OutMsg) => addLoss s c m.ctxid 1) (fun _ _ => rfl) _
  refine onlyLosses_trans ?_ (hport _)
  split <;> rfl

theorem onlyLosses_loseClaim (s : State) (d c : Nat) : OnlyLosses s (loseClaim s d c) := by
  unfold loseClaim
  dsimp only
  split
  · split <;> rfl
  · rfl

theorem onlyLosses_loseImages (s : State) (p : Image → Bool) : OnlyLosses s (loseImages s p) := by
  have himages : OnlyLosses s ((s.images.filter p).foldl loseImage s) := onlyLosses_foldl loseImage (fun _ _ => rfl) _ s
  exact onlyLosses_trans himages rfl

/-- The package with what is lost on the cells of a die counted. -/
def cellsCounted (s : State) (d : Nat) : State := ((knownCells s).filter (cellOnDie s d)).foldl loseCell s

/-- The package with the images of a die lost as well. -/
def imagesGone (s : State) (d : Nat) : State := loseImages (cellsCounted s d) (imageLost s d)

/-- The package with the claims that thieves elsewhere had on its cells lost as well. -/
def claimsGone (s : State) (d : Nat) : State := (knownCells (imagesGone s d)).foldl (fun s c => loseClaim s d c) (imagesGone s d)

theorem loseCells_eq (s : State) (d : Nat) : loseCells s d = { claimsGone s d with
    cells := (claimsGone s d).cells.filter (fun e => !cellOnDie s d e.1)
    slots := (claimsGone s d).slots.filter (fun e => !cellOnDie s d (e.1 / 4)) } := rfl

theorem onlyLosses_claimsGone (s : State) (d : Nat) : OnlyLosses s (claimsGone s d) := by
  have hcells : OnlyLosses s (cellsCounted s d) := onlyLosses_foldl loseCell onlyLosses_loseCell _ s
  have himages : OnlyLosses (cellsCounted s d) (imagesGone s d) := onlyLosses_loseImages _ _
  exact onlyLosses_trans (onlyLosses_trans hcells himages) (onlyLosses_foldl _ (fun s c => onlyLosses_loseClaim s d c) _ _)

theorem onlyLosses_loseCells (s : State) (d : Nat) : OnlyLosses s (loseCells s d) :=
  onlyLosses_trans (onlyLosses_claimsGone s d) rfl

/-- A fence recorded, before the laths go down: what the die held and had on its way is gone, and the others' tables name it. -/
def fenceRecorded (s : State) (d : Fin 4) : State :=
  let s1 := cutCoh (loseMessages (loseCells s d.val) d.val) d.val
  let s2 := putDies s1 { s1.dies with health := s1.dies.health.set d { s1.dies.health[d] with reported := true } }
  mapTables s2 (fun x t => if x = d then t else { t with fenced := putBit t.fenced d.val true })

theorem fenceDie_eq (s : State) (d : Fin 4) : fenceDie s d = flushDie (dropLaths (fenceRecorded s d) d) d.val := rfl

theorem fenceRecorded_plat (s : State) (d : Fin 4) : (fenceRecorded s d).plat = s.plat :=
  (congrArg State.plat (onlyLosses_loseCells s d.val) :)

theorem fenceRecorded_memory (s : State) (d : Fin 4) : (fenceRecorded s d).mem = s.mem ∧ (fenceRecorded s d).dirty = s.dirty ∧
    (fenceRecorded s d).poison = s.poison :=
  ⟨(congrArg State.mem (onlyLosses_loseCells s d.val) :), (congrArg State.dirty (onlyLosses_loseCells s d.val) :),
    (congrArg State.poison (onlyLosses_loseCells s d.val) :)⟩

theorem loseCells_dies (s : State) (d : Nat) : (loseCells s d).dies = s.dies := (congrArg State.dies (onlyLosses_loseCells s d) :)

theorem fenceRecorded_dies (s : State) (d : Fin 4) : (fenceRecorded s d).dies = { s.dies with
    tables := Vector.ofFn (fun x => if x = d then s.dies.tables[x] else
      { s.dies.tables[x] with fenced := putBit s.dies.tables[x].fenced d.val true })
    health := s.dies.health.set d { s.dies.health[d] with reported := true } } := by
  have h : (cutCoh (loseMessages (loseCells s d.val) d.val) d.val).dies = s.dies := loseCells_dies s d.val
  simp only [fenceRecorded, mapTables, putDies, h]

/-- The package once a die's laths are down and its streams and port link gone, before what was kept is sent the other way. -/
def lathsCut (s : State) (d : Fin 4) : State :=
  setPortLink (dropStreams (mapLinks s (linkTouches d) (fun l => { l with up := false, wire := [], window := [], retraining := false }))
    d.val) d.val false

theorem dropLaths_eq (s : State) (d : Fin 4) : dropLaths s d = resendKept (lathsCut s d) := rfl

theorem lathsCut_plat (s : State) (d : Fin 4) : (lathsCut s d).plat = { s.plat with portUp := putBit s.plat.portUp d.val false } := rfl

theorem dropLaths_plat (s : State) (d : Fin 4) : (dropLaths s d).plat = { s.plat with portUp := putBit s.plat.portUp d.val false } :=
  (congrArg State.plat (onlyLaths_resendKept (lathsCut s d)) :)

theorem fenceDie_plat (s : State) (d : Fin 4) :
    (fenceDie s d).plat = { s.plat with portUp := putBit s.plat.portUp d.val false } := by
  have h : (fenceDie s d).plat = (dropLaths (fenceRecorded s d) d).plat := rfl
  rw [h, dropLaths_plat, fenceRecorded_plat]

theorem fenceDie_mem (s : State) (d : Fin 4) : (fenceDie s d).mem = s.mem :=
  (congrArg State.mem (onlyLaths_resendKept (lathsCut (fenceRecorded s d) d)) :).trans (fenceRecorded_memory s d).1

theorem fenceDie_dirty (s : State) (d : Fin 4) : (fenceDie s d).dirty = s.dirty :=
  (congrArg State.dirty (onlyLaths_resendKept (lathsCut (fenceRecorded s d) d)) :).trans (fenceRecorded_memory s d).2.1

theorem fenceDie_poison (s : State) (d : Fin 4) : (fenceDie s d).poison = s.poison :=
  (congrArg State.poison (onlyLaths_resendKept (lathsCut (fenceRecorded s d) d)) :).trans (fenceRecorded_memory s d).2.2

theorem fenceDie_health (s : State) (d : Fin 4) :
    (fenceDie s d).dies.health = s.dies.health.set d { s.dies.health[d] with reported := true } := by
  have h : (fenceDie s d).dies.health = (fenceRecorded s d).dies.health :=
    (congrArg (fun t : State => t.dies.health) (onlyLaths_resendKept (lathsCut (fenceRecorded s d) d)) :)
  rw [h, fenceRecorded_dies]

end Sys2Proof.Machine
end

section
/-! Proofs about time, energy, alarms and bring-up (01 R13; 02 R30; 14 R299; 22 R402; 23 R410-R416). -/

namespace Sys2Proof.Machine

/-! ## Time and the energy counters (02 R30; 23 R410) -/

theorem exec_ptpMessage_later {s : State} {ns : Word} (hup : s.plat.ethUp ≠ 0) (h : s.stime.toNat ≤ ns.toNat) :
    exec (.ptpMessage ns) s = .next { s with stime := ns } := by
  have hc : (s.plat.ethUp != 0 && decide (s.stime.toNat ≤ ns.toNat)) = true := by
    rw [Bool.and_eq_true, bne_iff_ne]
    exact ⟨hup, decide_eq_true h⟩
  exact congrArg Host.Outcome.next (if_pos hc)

theorem exec_ptpMessage_stands {s : State} {ns : Word} (h : s.plat.ethUp = 0 ∨ ns.toNat < s.stime.toNat) :
    exec (.ptpMessage ns) s = .next s := by
  show execPtpMessage ns s = _
  obtain h | h := h
  · simp [execPtpMessage, h]
  · simp [execPtpMessage, Nat.not_le.mpr h]

theorem powerOf_of_old {s : State} {i : Fin 24} {r1 r2 : List (Nat × Nat)} {e : Nat × Nat}
    (h : s.plat.islands[i].readings = r1 ++ e :: r2) (hr : ∀ y ∈ r1, s.stime.toNat < y.1 + 1000000)
    (he : e.1 + 1000000 ≤ s.stime.toNat) : powerOf s i = s.plat.islands[i].uj.toNat - e.2 := by
  have hfind : s.plat.islands[i].readings.find? (fun r => r.1 + 1000000 ≤ s.stime.toNat) = some e := by
    rw [h, List.find?_append, List.find?_eq_none.mpr (fun y hy => by simpa using hr y hy)]
    simp [he]
  unfold powerOf
  dsimp only
  rw [hfind]

theorem powerOf_of_recent {s : State} {i : Fin 24} {r1 : List (Nat × Nat)} {e : Nat × Nat}
    (h : s.plat.islands[i].readings = r1 ++ [e]) (hr : ∀ y ∈ r1 ++ [e], s.stime.toNat < y.1 + 1000000) :
    powerOf s i = s.plat.islands[i].uj.toNat - e.2 := by
  have hfind : s.plat.islands[i].readings.find? (fun r => r.1 + 1000000 ≤ s.stime.toNat) = none := by
    rw [h, List.find?_eq_none]
    exact fun y hy => by simpa using hr y hy
  unfold powerOf
  dsimp only
  rw [hfind, h, List.getLast?_concat]

theorem powerOf_putIsland (s : State) (i : Fin 24) (x : Island) (hu : x.uj = s.plat.islands[i].uj)
    (hr : x.readings = s.plat.islands[i].readings) : powerOf (putIsland s i x) i = powerOf s i := by
  have hx : (putIsland s i x).plat.islands[i] = x := by simp [putIsland, putPlat]
  have ht : (putIsland s i x).stime = s.stime := rfl
  unfold powerOf
  dsimp only
  rw [hx, hu, hr, ht]

theorem head?_trimReadings (now : Nat) (r : Nat × Nat) (l : List (Nat × Nat)) : (trimReadings now (r :: l)).head? = some r := by
  unfold trimReadings
  split <;> rfl

theorem putIsland_putIsland (s : State) (i : Fin 24) (x y : Island) : putIsland (putIsland s i x) i y = putIsland s i y := by
  simp [putIsland, putPlat]

theorem island_putIsland (s : State) (i : Fin 24) (x : Island) : (putIsland s i x).plat.islands[i] = x := by simp [putIsland, putPlat]

theorem exec_energyCounterUpdate_cut {s : State} {i : Fin 24} {n : Nat} (h : s.plat.islands[i].cut = true) :
    exec (.energyCounterUpdate i n) s = .next s := if_pos h

/-- The counter of an island after a rise (23 R410). -/
def risenBy (s : State) (i : Fin 24) (n : Nat) : Nat := min (2 ^ 64 - 1) (s.plat.islands[i].uj.toNat + n)

/-- An island after its counter has risen (23 R410). -/
def counted (s : State) (i : Fin 24) (n : Nat) (below : Option Nat) : Island := { s.plat.islands[i] with
  uj := BitVec.ofNat 64 (risenBy s i n)
  readings := trimReadings s.stime.toNat ((s.stime.toNat, risenBy s i n) :: s.plat.islands[i].readings)
  below := below }

theorem countEnergy_eq (s : State) (i : Fin 24) (n : Nat) :
    countEnergy s i n = putIsland s i (counted s i n s.plat.islands[i].below) := rfl

theorem powerOf_counted (s : State) (i : Fin 24) (n : Nat) (b b' : Option Nat) :
    powerOf (putIsland s i (counted s i n b)) i = powerOf (putIsland s i (counted s i n b')) i := by
  have h := island_putIsland s i (counted s i n b)
  have hpower : powerOf (putIsland (putIsland s i (counted s i n b)) i (counted s i n b')) i = _ :=
    powerOf_putIsland _ i _ (by rw [h]; rfl) (by rw [h]; rfl)
  rw [← hpower, putIsland_putIsland]

theorem powerBelow_iff (s : State) (i : Fin 24) : powerBelow s i = true ↔ 100 * powerOf s i ≤ 95 * s.plat.islands[i].mw.toNat :=
  decide_eq_true_iff

theorem exec_energyCounterUpdate_counts {s : State} {i : Fin 24} (n : Nat) (h : s.plat.islands[i].cut = false) :
    ∃ b, exec (.energyCounterUpdate i n) s = .next (putIsland s i (counted s i n b)) ∧
      b = if 100 * powerOf (putIsland s i (counted s i n b)) i ≤ 95 * s.plat.islands[i].mw.toNat then s.plat.islands[i].below else none := by
  have hmw : (putIsland s i (counted s i n s.plat.islands[i].below)).plat.islands[i].mw = s.plat.islands[i].mw := by
    rw [island_putIsland]
    rfl
  have hexec : exec (.energyCounterUpdate i n) s = .next (if powerBelow (countEnergy s i n) i then countEnergy s i n
      else putIsland (countEnergy s i n) i { (countEnergy s i n).plat.islands[i] with below := none }) :=
    if_neg (by rw [h]; exact Bool.false_ne_true)
  by_cases hb : powerBelow (countEnergy s i n) i = true
  · refine ⟨s.plat.islands[i].below, by rw [hexec, if_pos hb]; rfl, (if_pos ?_).symm⟩
    rw [countEnergy_eq, powerBelow_iff, hmw] at hb
    exact hb
  · refine ⟨none, ?_, (if_neg ?_).symm⟩
    · rw [hexec, if_neg hb, countEnergy_eq, island_putIsland, putIsland_putIsland]
      rfl
    · rw [countEnergy_eq, powerBelow_iff, hmw] at hb
      rwa [powerOf_counted s i n none s.plat.islands[i].below]

/-! ## Alarms (23 R412; 14 R299) -/

/-- One known cell narrowed or widened, when its sequencer stands idle. -/
def narrowStep (s : State) (c : Nat) : State :=
  if (cellAt s c).live && (ccAt s c).mxu.queue.isEmpty then setNarrow s c (cellAlarm s c) else s

theorem narrowIdle_eq (s : State) : narrowIdle s = (knownCells s).foldl narrowStep s := rfl

/-- A cell whose sequencer is in or out of narrowed mode. -/
def cellNarrow (x : Cell) (b : Bool) : Cell := { x with cc := { x.cc with mxu := { x.cc.mxu with narrow := b } } }

/-- Only the modes of idle sequencers have changed, each to what the alarms of its cell say. -/
def OnlyNarrow (s t : State) : Prop := { t with cells := s.cells } = s ∧ ∀ e, ∃ b, cellAt t e = cellNarrow (cellAt s e) b ∧
  (b = (ccAt s e).mxu.narrow ∨ (ccAt s e).mxu.queue = [] ∧ b = cellAlarm s e)

theorem onlyNarrow_refl (s : State) : OnlyNarrow s s := ⟨rfl, fun e => ⟨(ccAt s e).mxu.narrow, rfl, .inl rfl⟩⟩

theorem OnlyNarrow.cellAlarm {s t : State} (h : OnlyNarrow s t) (e : Nat) : cellAlarm t e = cellAlarm s e := by
  have hplat : t.plat = s.plat := (congrArg State.plat h.1 :)
  simp only [Machine.cellAlarm, islandOf, uncoreOf, physOf, hplat]

theorem OnlyNarrow.trans {s t u : State} (h : OnlyNarrow s t) (k : OnlyNarrow t u) : OnlyNarrow s u := by
  refine ⟨?_, fun e => ?_⟩
  · have hs := h.1
    rw [← k.1] at hs
    exact hs
  · obtain ⟨b, hb, hbe⟩ := h.2 e
    obtain ⟨b', hb', hbe'⟩ := k.2 e
    have hcc : ccAt t e = (cellNarrow (cellAt s e) b).cc := congrArg Cell.cc hb
    refine ⟨b', by rw [hb', hb]; rfl, ?_⟩
    rw [hcc, h.cellAlarm e] at hbe'
    obtain hold | ⟨hq, hb'⟩ := hbe'
    · exact hold ▸ hbe
    · exact .inr ⟨hq, hb'⟩

theorem onlyNarrow_narrowStep (s : State) (c : Nat) : OnlyNarrow s (narrowStep s c) := by
  unfold narrowStep
  split
  · rename_i h
    have hq : (ccAt s c).mxu.queue = [] := by simp_all
    refine ⟨rfl, fun e => ?_⟩
    by_cases he : e = c
    · subst he
      exact ⟨Machine.cellAlarm s e, cellAt_putCell_same s e _, .inr ⟨hq, rfl⟩⟩
    · exact ⟨(ccAt s e).mxu.narrow, cellAt_putCell_other s c e _ (Ne.symm he), .inl rfl⟩
  · exact onlyNarrow_refl s

theorem onlyNarrow_foldl (l : List Nat) : ∀ s, OnlyNarrow s (l.foldl narrowStep s) := by
  induction l with
  | nil => exact onlyNarrow_refl
  | cons c l ih => exact fun s => (onlyNarrow_narrowStep s c).trans (ih _)

theorem narrow_narrowStep {s : State} {c : Nat} (hl : (cellAt s c).live = true) (hq : (ccAt s c).mxu.queue = []) :
    (ccAt (narrowStep s c) c).mxu.narrow = cellAlarm s c := by
  have hstep : narrowStep s c = setNarrow s c (Machine.cellAlarm s c) := if_pos (by simp [hl, hq])
  rw [hstep]
  exact congrArg (fun x : CtxCell => x.mxu.narrow) (ccAt_putCc_same s c _)

theorem narrow_foldl_of_mem {c : Nat} (l : List Nat) : ∀ {s : State}, c ∈ l → (cellAt s c).live = true → (ccAt s c).mxu.queue = [] →
    (ccAt (l.foldl narrowStep s) c).mxu.narrow = cellAlarm s c := by
  induction l with
  | nil => exact fun h => absurd h List.not_mem_nil
  | cons a l ih =>
    intro s hc hl hq
    have hstep := onlyNarrow_narrowStep s a
    obtain ⟨b, hb, -⟩ := hstep.2 c
    rw [List.foldl_cons, ← hstep.cellAlarm c]
    by_cases hmem : c ∈ l
    · exact ih hmem (by rw [hb]; exact hl) (by rw [ccAt, hb]; exact hq)
    · obtain rfl : c = a := by simpa [hmem] using hc
      obtain ⟨b', hb', hbe⟩ := (onlyNarrow_foldl l (narrowStep s c)).2 c
      have hset : b' = cellAlarm (narrowStep s c) c := by
        obtain h | h := hbe
        · rw [h, narrow_narrowStep hl hq, hstep.cellAlarm]
        · exact h.2
      exact (congrArg (fun x : Cell => x.cc.mxu.narrow) hb').trans hset

/-- An island's alarm raised or cleared, the idle sequencers of its cells following. -/
def Alarmed (s : State) (i : Fin 24) (c : Nat) (y : Island) (u : State) : Prop :=
  { u with plat := s.plat, cells := s.cells } = s ∧ u.plat = { s.plat with islands := s.plat.islands.set i y } ∧
  (∀ e, { ccAt u e with mxu := (ccAt s e).mxu } = ccAt s e ∧
    { (ccAt u e).mxu with narrow := (ccAt s e).mxu.narrow } = (ccAt s e).mxu) ∧
  (c ∈ s.cells.map (fun e => e.1) → (cellAt s c).live = true → (ccAt s c).mxu.queue = [] →
    (ccAt u c).mxu.narrow = Machine.cellAlarm u c) ∧
  ((ccAt s c).mxu.queue ≠ [] → (ccAt u c).mxu.narrow = (ccAt s c).mxu.narrow)

theorem alarmed_narrowIdle (s : State) (i : Fin 24) (c : Nat) (y : Island) : Alarmed s i c y (narrowIdle (putIsland s i y)) := by
  have hfold : OnlyNarrow (putIsland s i y) (narrowIdle (putIsland s i y)) := onlyNarrow_foldl _ _
  have hcc : ∀ e, ∃ b, ccAt (narrowIdle (putIsland s i y)) e = (cellNarrow (cellAt s e) b).cc ∧
      (b = (ccAt s e).mxu.narrow ∨ (ccAt s e).mxu.queue = [] ∧ b = Machine.cellAlarm (putIsland s i y) e) := fun e => by
    obtain ⟨b, hb, hbe⟩ := hfold.2 e
    exact ⟨b, congrArg Cell.cc hb, hbe⟩
  refine ⟨?_, (congrArg State.plat hfold.1 :), fun e => ?_, fun hc hl hq => ?_, fun hq => ?_⟩
  · exact (congrArg (fun t : State => { t with plat := s.plat }) hfold.1 :)
  · obtain ⟨b, hb, -⟩ := hcc e
    rw [hb]
    exact ⟨rfl, rfl⟩
  · rw [hfold.cellAlarm]
    exact narrow_foldl_of_mem (s := putIsland s i y) _ hc hl hq
  · obtain ⟨b, hb, hbe⟩ := hcc c
    rw [hb]
    exact hbe.resolve_right (fun h => hq h.1)

theorem exec_powerAlarm_hot {s : State} {i : Fin 24} {n : Nat} (h : s.plat.islands[i].mw.toNat < powerOf s i ∨ 105 ≤ n) :
    exec (.powerAlarm i n) s = .next (narrowIdle (putIsland s i { s.plat.islands[i] with alarm := true, below := none })) :=
  if_pos (by rwa [Bool.or_eq_true, decide_eq_true_eq, decide_eq_true_eq])

theorem exec_powerAlarm_cold {s : State} {i : Fin 24} {n : Nat} (h : ¬(s.plat.islands[i].mw.toNat < powerOf s i ∨ 105 ≤ n)) :
    exec (.powerAlarm i n) s = .next s :=
  if_neg (by rwa [Bool.or_eq_true, decide_eq_true_eq, decide_eq_true_eq])

/-- A reading below the thresholds that clear an alarm (23 R412). -/
def Cool (s : State) (i : Fin 24) (n : Nat) : Prop := 100 * powerOf s i ≤ 95 * s.plat.islands[i].mw.toNat ∧ n < 100

theorem alarmBelow_iff (s : State) (i : Fin 24) (n : Nat) : alarmBelow s i n = true ↔ Cool s i n := by
  rw [alarmBelow, Bool.and_eq_true, powerBelow_iff, decide_eq_true_eq, Cool]

theorem exec_alarmClear_of_no_alarm {s : State} {i : Fin 24} {n : Nat} (h : s.plat.islands[i].alarm = false) :
    exec (.alarmClear i n) s = .next s := if_pos (by rw [h]; rfl)

theorem exec_alarmClear_warm {s : State} {i : Fin 24} {n : Nat} (ha : s.plat.islands[i].alarm = true) (h : ¬Cool s i n) :
    exec (.alarmClear i n) s = .next (putIsland s i { s.plat.islands[i] with below := none }) := by
  have hb : alarmBelow s i n = false := Bool.eq_false_iff.mpr (fun hc => h ((alarmBelow_iff s i n).mp hc))
  exact (if_neg (by rw [ha]; exact Bool.false_ne_true)).trans (if_pos (by rw [hb]; rfl))

theorem exec_alarmClear_cool {s : State} {i : Fin 24} {n : Nat} (ha : s.plat.islands[i].alarm = true) (h : Cool s i n) :
    exec (.alarmClear i n) s = (match s.plat.islands[i].below with
      | none => .next (putIsland s i { s.plat.islands[i] with below := some s.stime.toNat })
      | some t => if t + 1000000 ≤ s.stime.toNat then
          .next (narrowIdle (putIsland s i { s.plat.islands[i] with alarm := false, below := none })) else .next s) := by
  have hb := (alarmBelow_iff s i n).mpr h
  refine (if_neg (by rw [ha]; exact Bool.false_ne_true)).trans ((if_neg (by rw [hb]; exact Bool.false_ne_true)).trans ?_)
  cases s.plat.islands[i].below <;> rfl

theorem exec_alarmClear_begins {s : State} {i : Fin 24} {n : Nat} (ha : s.plat.islands[i].alarm = true) (h : Cool s i n)
    (hb : s.plat.islands[i].below = none) :
    exec (.alarmClear i n) s = .next (putIsland s i { s.plat.islands[i] with below := some s.stime.toNat }) := by
  rw [exec_alarmClear_cool ha h, hb]

theorem exec_alarmClear_waits {s : State} {i : Fin 24} {n t : Nat} (ha : s.plat.islands[i].alarm = true) (h : Cool s i n)
    (hb : s.plat.islands[i].below = some t) (ht : s.stime.toNat < t + 1000000) : exec (.alarmClear i n) s = .next s := by
  rw [exec_alarmClear_cool ha h, hb]
  exact if_neg (Nat.not_le.mpr ht)

theorem exec_alarmClear_clears {s : State} {i : Fin 24} {n t : Nat} (ha : s.plat.islands[i].alarm = true) (h : Cool s i n)
    (hb : s.plat.islands[i].below = some t) (ht : t + 1000000 ≤ s.stime.toNat) : exec (.alarmClear i n) s =
      .next (narrowIdle (putIsland s i { s.plat.islands[i] with alarm := false, below := none })) := by
  rw [exec_alarmClear_cool ha h, hb]
  exact if_pos ht

/-! ## Islands cut from power (01 R15; 23 R412) -/

theorem exec_thermalCutoff_cool {s : State} {i : Fin 24} {n : Nat} (h : n < 115) : exec (.thermalCutoff i n) s = .next s := if_pos h

/-- The package with an island cut. -/
def islandCut (s : State) (i : Fin 24) : State := putIsland s i { s.plat.islands[i] with cut := true }

theorem exec_thermalCutoff_hot {s : State} {i : Fin 24} {n : Nat} (h : 115 ≤ n) : exec (.thermalCutoff i n) s =
    .next (match islandDie i with
      | some d => if isFenced (islandCut s i) d then islandCut s i else fenceDie (islandCut s i) d
      | none => cutPort (islandCut s i) i) := by
  refine (if_neg (Nat.not_lt.mpr h)).trans ?_
  show (match islandDie i with | some d => _ | none => _) = _
  cases islandDie i <;> rfl

theorem islandDie_of_die {i : Fin 24} {d : Fin 4} (h : i.val / 5 = d.val) : islandDie i = some d := by
  unfold islandDie
  rw [dif_pos (by omega)]
  exact congrArg some (Fin.ext h)

theorem islandDie_of_port {i : Fin 24} (h : 20 ≤ i.val) : islandDie i = none := dif_neg (by omega)

/-- The side of a port die's island: 0 for port die A, 1 for B. -/
def sideOf (i : Fin 24) : Fin 2 := if i.val < 22 then 0 else 1

theorem getLsbD_four_of_side (x : BitVec 8) (p : Fin 2) (k : Nat) (hk : k < 8) :
    (x &&& ~~~(0xF#8 <<< (4 * p.val))).getLsbD k = true ↔ x.getLsbD k = true ∧ k / 4 ≠ p.val := by
  have h : ∀ (p : Fin 2) (k : Fin 8), (~~~(0xF#8 <<< (4 * p.val))).getLsbD k.val = decide (k.val / 4 ≠ p.val) := by decide
  rw [BitVec.getLsbD_and, h p ⟨k, hk⟩, Bool.and_eq_true, decide_eq_true_eq]

theorem getLsbD_two_of_side (x : BitVec 4) (p : Fin 2) (k : Nat) (hk : k < 4) :
    (x &&& ~~~(0x5#4 <<< p.val)).getLsbD k = true ↔ x.getLsbD k = true ∧ k % 2 ≠ p.val := by
  have h : ∀ (p : Fin 2) (k : Fin 4), (~~~(0x5#4 <<< p.val)).getLsbD k.val = decide (k.val % 2 ≠ p.val) := by decide
  rw [BitVec.getLsbD_and, h p ⟨k, hk⟩, Bool.and_eq_true, decide_eq_true_eq]

theorem keepsGood_putReach_putIsland (s : State) (i : Fin 24) (x : Island) (p : Platform) :
    KeepsGood s (putReach (putIsland s i x) p) := keepsGood_of_keepGood (p := sectorBad { s with plat := p }) rfl (fun _ => rfl)

/-- The ports and port links of a side gone with its island. -/
def portsCut (s : State) (i : Fin 24) : Platform := { (islandCut s i).plat with
  ethUp := s.plat.ethUp &&& ~~~(0xF#8 <<< (4 * (sideOf i).val)), portUp := s.plat.portUp &&& ~~~(0x5#4 <<< (sideOf i).val) }

theorem cutPort_ports {s : State} {i : Fin 24} (h : i.val = 20 ∨ i.val = 22) :
    cutPort (islandCut s i) i = putReach (islandCut s i) (portsCut s i) := by
  obtain rfl | rfl : i = 20 ∨ i = 22 := h.imp Fin.ext Fin.ext <;> rfl

/-- The expanders of a side gone with its island. -/
def expandersCut (s : State) (i : Fin 24) : Platform :=
  { (islandCut s i).plat with cxlUp := s.plat.cxlUp &&& ~~~(0xF#8 <<< (4 * (sideOf i).val)) }

/-- The package with the expanders of a side gone, its Coronaip off and an update of Coronaips stopped. -/
def expandersDown (s : State) (i : Fin 24) : State := putPlat (putReach (islandCut s i) (expandersCut s i)) { expandersCut s i with
  controllers := s.plat.controllers.set (Fin.ofNat 26 (sideOf i).val)
    { s.plat.controllers[Fin.ofNat 26 (sideOf i).val] with state := .off }
  update := if s.plat.update.any (fun u => u.type = .coronaip) then none else s.plat.update }

theorem cutPort_expanders {s : State} {i : Fin 24} (h : i.val = 21 ∨ i.val = 23) : cutPort (islandCut s i) i = expandersDown s i := by
  obtain rfl | rfl : i = 21 ∨ i = 23 := h.imp Fin.ext Fin.ext
  · exact (stopCoronaipUpdate_eq _).trans rfl
  · exact (stopCoronaipUpdate_eq _).trans rfl

theorem fenceDie_islandCut {s : State} {i : Fin 24} (d : Fin 4) :
    { (fenceDie (islandCut s i) d).plat with portUp := s.plat.portUp } = (islandCut s i).plat ∧
    (∀ k, k < 4 → ((fenceDie (islandCut s i) d).plat.portUp.getLsbD k = true ↔ s.plat.portUp.getLsbD k = true ∧ k ≠ d.val)) ∧
    (fenceDie (islandCut s i) d).dies.health[d].reported = true ∧ (fenceDie (islandCut s i) d).mem = s.mem := by
  rw [fenceDie_plat, fenceDie_health, fenceDie_mem]
  refine ⟨rfl, fun k hk => ?_, by simp, rfl⟩
  show (putBit s.plat.portUp d.val false).getLsbD k = true ↔ _
  rw [getLsbD_putBit _ _ _ _ hk]
  by_cases h : k = d.val <;> simp [h]

theorem putReach_frame (s : State) (p : Platform) (c : Coh) : { putReach s p with coh := c } = { s with plat := p, coh := c } := by
  simp only [putReach, keepGood, putCoh]

theorem portsCut_frame (s : State) (i : Fin 24) : { putReach (islandCut s i) (portsCut s i) with coh := s.coh } =
    { s with plat := portsCut s i } := by
  rw [putReach_frame]
  simp only [islandCut, putIsland, putPlat]

theorem expandersDown_frame (s : State) (i : Fin 24) : { expandersDown s i with coh := s.coh } =
    { s with plat := (expandersDown s i).plat } := by
  simp only [expandersDown, putReach, keepGood, putCoh, islandCut, putIsland, putPlat]

theorem exec_thermalCutoff_ports {s : State} {i : Fin 24} {n : Nat} (h : 115 ≤ n) (hi : i.val = 20 ∨ i.val = 22) :
    exec (.thermalCutoff i n) s = .next (putReach (islandCut s i) (portsCut s i)) := by
  rw [exec_thermalCutoff_hot h, islandDie_of_port (by omega)]
  exact congrArg _ (cutPort_ports hi)

theorem exec_thermalCutoff_expanders {s : State} {i : Fin 24} {n : Nat} (h : 115 ≤ n) (hi : i.val = 21 ∨ i.val = 23) :
    exec (.thermalCutoff i n) s = .next (expandersDown s i) := by
  rw [exec_thermalCutoff_hot h, islandDie_of_port (by omega)]
  exact congrArg _ (cutPort_expanders hi)

theorem exec_thermalCutoff_fenced {s : State} {i : Fin 24} {n : Nat} {d : Fin 4} (h : 115 ≤ n) (hd : i.val / 5 = d.val)
    (hf : s.dies.health[d].reported = true) : exec (.thermalCutoff i n) s = .next (islandCut s i) := by
  rw [exec_thermalCutoff_hot h, islandDie_of_die hd]
  exact congrArg _ (if_pos hf)

theorem exec_thermalCutoff_fences {s : State} {i : Fin 24} {n : Nat} {d : Fin 4} (h : 115 ≤ n) (hd : i.val / 5 = d.val)
    (hf : s.dies.health[d].reported = false) : exec (.thermalCutoff i n) s = .next (fenceDie (islandCut s i) d) := by
  rw [exec_thermalCutoff_hot h, islandDie_of_die hd]
  exact congrArg _ (if_neg (by rw [Bool.not_eq_true]; exact hf))

theorem energyAndTime : Claims.EnergyAndTime := by
  intro s i n t ns d c r1 r2 e
  refine ⟨exec_ptpMessage_later, exec_ptpMessage_stands, powerOf_of_old, powerOf_of_recent, exec_energyCounterUpdate_cut, fun h => ?_,
    fun h => ⟨_, exec_powerAlarm_hot h, alarmed_narrowIdle s i c _⟩, exec_powerAlarm_cold, exec_alarmClear_of_no_alarm,
    exec_alarmClear_warm, exec_alarmClear_begins, exec_alarmClear_waits,
    fun ha h hb ht => ⟨_, exec_alarmClear_clears ha h hb ht, alarmed_narrowIdle s i c _⟩, exec_thermalCutoff_cool,
    fun h hi => ⟨_, _, _, exec_thermalCutoff_ports h hi, keepsGood_putReach_putIsland s i _ (portsCut s i), portsCut_frame s i,
      getLsbD_four_of_side s.plat.ethUp (sideOf i), getLsbD_two_of_side s.plat.portUp (sideOf i)⟩,
    fun h hi => ⟨expandersDown s i, _, exec_thermalCutoff_expanders h hi, keepsGood_putReach_putIsland s i _ (expandersCut s i),
      expandersDown_frame s i,
      getLsbD_four_of_side s.plat.cxlUp (sideOf i)⟩,
    exec_thermalCutoff_fenced, fun h hd hf => ⟨_, exec_thermalCutoff_fences h hd hf, fenceDie_islandCut d⟩⟩
  obtain ⟨b, hexec, hb⟩ := exec_energyCounterUpdate_counts n h
  exact ⟨_, _, b, hexec, rfl, head?_trimReadings .., hb⟩

/-! ## Bring-up (22 R389; 23 R416) -/

theorem tabFind_foldl_tabSet {α : Type} {q : Nat} {l : List (Nat × α)} (h : ∀ e ∈ l, e.1 ≠ q) :
    ∀ t : Tab α, tabFind (l.foldl (fun t e => tabSet t e.1 e.2) t) q = tabFind t q := by
  induction l with
  | nil => exact fun _ => rfl
  | cons e l ih =>
    intro t
    rw [List.foldl_cons, ih (fun e he => h e (List.mem_cons_of_mem _ he)), tabFind_tabSet_other t e.1 q e.2 (h e List.mem_cons_self)]

theorem tabFind_tableFrom_last {α : Type} {n q : Nat} {a : α} {l l1 l2 : List (Nat × α)} (hq : q < n) (hl : l = l1 ++ (q, a) :: l2)
    (h : ∀ e ∈ l2, e.1 ≠ q) : tabFind (tableFrom n l) q = some a := by
  have hrest : ∀ e ∈ l2.filter (fun e => e.1 < n), e.1 ≠ q := fun e he => h e (List.mem_of_mem_filter he)
  rw [tableFrom, hl, List.filter_append, List.filter_cons_of_pos (by simpa using hq), List.foldl_append, List.foldl_cons,
    tabFind_foldl_tabSet hrest, tabFind_tabSet_same]

theorem tabFind_tableFrom_none {α : Type} {n q : Nat} {l : List (Nat × α)} (h : n ≤ q ∨ ∀ e ∈ l, e.1 ≠ q) :
    tabFind (tableFrom n l) q = none := by
  refine (tabFind_foldl_tabSet (fun e he => ?_) []).trans rfl
  obtain ⟨hmem, hlt⟩ := List.mem_filter.mp he
  obtain h | h := h
  · exact Nat.ne_of_lt (Nat.lt_of_lt_of_le (of_decide_eq_true hlt) h)
  · exact h e hmem

/-- A Coronaip image from the flash that passes (23 R405, R416). -/
def Passes (b : Sys2Proof.BringUp) (img : SignedImage) : Prop := img.type = 1 ∧ img.key.toNat < 4 ∧
  b.revoked.getLsbD img.key.toNat = false ∧ Config.signatureOk img = true ∧ b.floors[0].toNat ≤ img.version.toNat ∧ img.reserved = 0

theorem bootOk_iff (b : Sys2Proof.BringUp) (img : SignedImage) : bootOk b img = true ↔ Passes b img := by
  simp only [bootOk, imageOk, Passes, Bool.and_eq_true, decide_eq_true_eq, Bool.not_eq_true', and_assoc]
  rfl

theorem foldl_add_eq_sum (l : List (BitVec 32)) : ∀ n, l.foldl (fun n x => n + x.toNat) n = n + (l.map BitVec.toNat).sum := by
  induction l with
  | nil => exact fun n => rfl
  | cons x l ih =>
    intro n
    rw [List.foldl_cons, ih, List.map_cons, List.sum_cons, Nat.add_assoc]

theorem budgetsOk_iff (b : Sys2Proof.BringUp) : budgetsOk b = true ↔ (b.budgets.toList.map BitVec.toNat).sum ≤ 3600000 := by
  rw [budgetsOk, decide_eq_true_eq, foldl_add_eq_sum, Nat.zero_add]

theorem exec_powerOn_refused {s : State} {b : Sys2Proof.BringUp} (h : s.plat.brought = true ∨
    (¬Passes b b.imageA ∧ ¬Passes b b.imageB) ∨ ¬(b.budgets.toList.map BitVec.toNat).sum ≤ 3600000) :
    exec (.powerOn b) s = .next s := by
  refine if_pos ?_
  rw [← bootOk_iff, ← bootOk_iff, ← budgetsOk_iff] at h
  simp only [Bool.or_eq_true, Bool.not_eq_true', Bool.or_eq_false_iff]
  obtain h | ⟨ha, hb⟩ | h := h
  · exact .inl (.inl h)
  · exact .inl (.inr ⟨Bool.eq_false_iff.mpr ha, Bool.eq_false_iff.mpr hb⟩)
  · exact .inr (Bool.eq_false_iff.mpr h)

/-- The host's side after bring-up: the window open, the tables filled. -/
def bootHost (s : State) (b : Sys2Proof.BringUp) : HostSide := { s.host with
  open_ := true
  peers := tableFrom 4096 b.peers
  endpoints := tableFrom 65536 b.endpoints
  regions := b.regions
  slots := [] }

/-- The package after bring-up. -/
def booted (s : State) (b : Sys2Proof.BringUp) : State :=
  { s with plat := bootPlat s b (bootOk b b.imageA) (bootOk b b.imageB), host := bootHost s b, stime := b.timeBase, freeNo := s.freeNo + 20 }

theorem exec_powerOn_boots {s : State} {b : Sys2Proof.BringUp} (hb : s.plat.brought = false)
    (hi : Passes b b.imageA ∨ Passes b b.imageB) (hp : (b.budgets.toList.map BitVec.toNat).sum ≤ 3600000) :
    exec (.powerOn b) s = .next (booted s b) := by
  refine if_neg ?_
  rw [← bootOk_iff, ← bootOk_iff] at hi
  rw [hb, (budgetsOk_iff b).mpr hp, Bool.false_or, Bool.not_true, Bool.or_false, Bool.not_eq_true', Bool.or_eq_false_iff]
  rintro ⟨ha, hb⟩
  obtain h | h := hi
  · exact Bool.false_ne_true (ha.symm.trans h)
  · exact Bool.false_ne_true (hb.symm.trans h)

theorem mem_absentList (l : List Nat) (q : Nat) : q ∈ absentList l ↔ q < 1024 ∧ q ∈ l := by
  simp [absentList, List.mem_filter]

theorem pairwise_absentList (l : List Nat) : (absentList l).Pairwise (· < ·) := List.pairwise_lt_range.filter _

theorem absentCells_booted (s : State) (b : Sys2Proof.BringUp) : (booted s b).plat.absentCells = absentList b.absentCells := by
  simp only [booted, bootPlat]

theorem update_booted (s : State) (b : Sys2Proof.BringUp) :
    (booted s b).plat.update = s.plat.update ∧ (booted s b).plat.updated = s.plat.updated := by
  simp only [booted, bootPlat, and_self]

theorem island_booted (s : State) (b : Sys2Proof.BringUp) (i : Fin 24) :
    (booted s b).plat.islands[i] = { s.plat.islands[i] with mw := b.budgets[i] } := by simp [booted, bootPlat]

theorem tier_booted (s : State) (b : Sys2Proof.BringUp) (i : Fin 8) : (booted s b).plat.tierGiB[i] = min 384 b.tierGiB[i] := by
  simp [booted, bootPlat]

theorem controllers_booted (s : State) (b : Sys2Proof.BringUp) :
    (booted s b).plat.controllers = bootControllers b (bootOk b b.imageA) (bootOk b b.imageB) := rfl

theorem coronaip_booted (b : Sys2Proof.BringUp) (okA okB : Bool) :
    (bootControllers b okA okB)[0].image = imageVer b.imageA ∧ (bootControllers b okA okB)[1].image = imageVer b.imageB ∧
    (bootControllers b okA okB)[0].state = (if okA then .running else .off) ∧
    (bootControllers b okA okB)[1].state = (if okB then .running else .off) := by
  simp [bootControllers]

theorem controller_booted (b : Sys2Proof.BringUp) (okA okB : Bool) (c : Fin 26) (hc : 2 ≤ c.val) :
    (bootControllers b okA okB)[c].state = .running ∧ (bootControllers b okA okB)[c].record = none ∧
    (bootControllers b okA okB)[c].image = versionOf b.images[Fin.ofNat 24 (c.val - 2)] := by
  have h0 : c ≠ 0 := by
    rintro rfl
    simp at hc
  have h1 : c.val ≠ 1 := by omega
  simp [bootControllers, h0, h1]

/-! ## The second tier (22 R402) -/

theorem memExists_tier (s : State) (port : Fin 8) {n : Nat} (h : n < tierWindow) :
    memExists s (tierBase + tierWindow * port.val + n) = true ↔ n < s.plat.tierGiB[port] * 2 ^ 30 := by
  have hport := port.isLt
  have hdiv : (tierBase + tierWindow * port.val + n - tierBase) / tierWindow = port.val := by
    unfold tierWindow at h ⊢
    unfold tierBase
    omega
  have hmod : (tierBase + tierWindow * port.val + n - tierBase) % tierWindow = n := by
    unfold tierWindow at h ⊢
    unfold tierBase
    omega
  unfold memExists
  rw [if_neg (by unfold tierBase tierWindow; omega), hdiv, hmod, Bool.and_eq_true, inPortWindow, dif_pos hport, decide_eq_true_eq,
    decide_eq_true_eq]
  exact and_iff_right (by omega)

theorem memExists_beyond (s : State) {n : Nat} (h : tierWindow * 8 ≤ n) : memExists s (tierBase + n) = false := by
  have hdiv : ¬(tierBase + n - tierBase) / tierWindow < 8 := by
    unfold tierWindow at h ⊢
    omega
  unfold memExists
  rw [if_neg (by unfold tierBase; omega), inPortWindow, dif_neg hdiv, Bool.and_false]

/-- The package once the link of a CXL port is down. -/
def linkDown (s : State) (port : Fin 8) : State := putReach s { s.plat with cxlUp := putBit s.plat.cxlUp port.val false }

theorem keepsGood_linkDown (s : State) (port : Fin 8) : KeepsGood s (linkDown s port) :=
  keepsGood_of_keepGood (p := sectorBad { s with plat := { s.plat with cxlUp := putBit s.plat.cxlUp port.val false } }) rfl
    (fun _ => rfl)

theorem sectorBad_linkDown (s : State) (port : Fin 8) {n : Nat} (hn : tierBase / 32 ≤ n)
    (hport : (n - tierBase / 32) / (tierWindow / 32) = port.val) : sectorBad (linkDown s port) n = true := by
  have hreach : cxlReached (linkDown s port) port.val = false := by
    have hbit : (putBit s.plat.cxlUp port.val false).getLsbD port.val = false := by
      rw [getLsbD_putBit _ _ _ _ port.isLt, if_pos rfl]
    unfold cxlReached
    exact Bool.and_eq_false_imp.mpr (fun h => absurd (hbit.symm.trans h) Bool.false_ne_true)
  unfold sectorBad
  rw [hport, hreach, decide_eq_true hn]
  exact Bool.or_true _

theorem powerUp : Claims.PowerUp := by
  intro s b k port n q a a' l1 l2 m1 m2
  refine ⟨exec_powerOn_refused, fun hb hi hp => ⟨booted s b, exec_powerOn_boots hb hi hp, ?_⟩, rfl, rfl, memExists_tier s port,
    memExists_beyond s, linkDown s port, rfl, rfl, keepsGood_linkDown s port, fun i hi => getLsbD_putBit _ _ _ _ hi,
    sectorBad_linkDown s port⟩
  obtain ⟨himA, himB, hstA, hstB⟩ := coronaip_booted b (bootOk b b.imageA) (bootOk b b.imageB)
  have hrun : ∀ img, Passes b img → (if bootOk b img then CtrlState.running else .off) = .running :=
    fun img h => if_pos ((bootOk_iff b img).mpr h)
  have hoff : ∀ img, ¬Passes b img → (if bootOk b img then CtrlState.running else .off) = .off :=
    fun img h => if_neg (fun hc => h ((bootOk_iff b img).mp hc))
  rw [absentCells_booted]
  refine ⟨rfl, rfl, mem_absentList b.absentCells, pairwise_absentList b.absentCells, rfl, rfl, rfl, rfl, rfl, island_booted s b,
    tier_booted s b, rfl, rfl, rfl, rfl, (update_booted s b).1, (update_booted s b).2, fun h => ⟨if_pos ((bootOk_iff b _).mpr h), hstA.trans (hrun _ h)⟩,
    fun h => ⟨if_neg (fun hc => h ((bootOk_iff b _).mp hc)), hstA.trans (hoff _ h)⟩, fun h => hstB.trans (hrun _ h),
    fun h => hstB.trans (hoff _ h), himA, himB, fun c hc => controller_booted b _ _ c hc, rfl, rfl, rfl, tabFind_tableFrom_last,
    tabFind_tableFrom_none, tabFind_tableFrom_last, tabFind_tableFrom_none, rfl, rfl, rfl⟩

/-- Settles O59: the energy accounts, the alarms and what a cut takes along, then bring-up and the second tier. -/
theorem powerAndTime : Obligations.PowerAndTime := ⟨energyAndTime, powerUp⟩

end Sys2Proof.Machine
end

section
/-! Proofs about flits, replay and retraining (20 R377-R380). -/

namespace Sys2Proof.Machine

open Sys2Proof.Safety

/-! ## The ring (20 R377) -/

theorem linkBack_ne (l : Fin 8) : linkBack l ≠ l := by
  revert l
  decide

theorem linkFrom_ne_linkTo (l : Fin 8) : linkFrom l ≠ linkTo l := by
  revert l
  decide

/-- The next die the way of the ring. -/
def nextOnRing : Fin 4 → Fin 4
  | 0 => 1
  | 1 => 3
  | 3 => 2
  | 2 => 0

/-- The way that a message takes when every lath is up: directly to a neighbour, the way of the ring to the diagonal. -/
def shortWay (src dst : Fin 4) : List (Fin 8) :=
  if nextOnRing dst = src then ringPath false src dst 3 else ringPath true src dst 3

/-- The other way round. -/
def longWay (src dst : Fin 4) : List (Fin 8) :=
  if nextOnRing dst = src then ringPath true src dst 3 else ringPath false src dst 3

theorem ways_eq {src dst : Fin 4} (h : src ≠ dst) :
    (if (ringPath false src dst 3).length < (ringPath true src dst 3).length then ringPath false src dst 3
      else ringPath true src dst 3) = shortWay src dst ∧
    (if (ringPath false src dst 3).length < (ringPath true src dst 3).length then ringPath true src dst 3
      else ringPath false src dst 3) = longWay src dst := by
  revert src dst
  decide

theorem nextLink_eq {src dst : Fin 4} (s : State) (h : src ≠ dst) : nextLink s src dst =
    if pathUp s (shortWay src dst) then (shortWay src dst).head? else if pathUp s (longWay src dst) then (longWay src dst).head?
    else none := by
  obtain ⟨hshort, hlong⟩ := ways_eq h
  rw [← hshort, ← hlong]
  rfl

theorem pathUp_iff (s : State) (p : List (Fin 8)) : pathUp s p = true ↔ ∀ m ∈ p, s.dies.links[m].up = true := by
  simp [pathUp]

theorem head_ways (src dst : Fin 4) : (∀ n ∈ (shortWay src dst).head?, linkFrom n = src) ∧ ∀ n ∈ (longWay src dst).head?, linkFrom n = src := by
  revert src dst
  decide

theorem linkFrom_of_nextLink {s : State} {src dst : Fin 4} {n : Fin 8} (h : src ≠ dst) (hn : nextLink s src dst = some n) :
    linkFrom n = src := by
  obtain ⟨hshort, hlong⟩ := head_ways src dst
  rw [nextLink_eq s h] at hn
  split at hn
  · exact hshort n hn
  · split at hn
    · exact hlong n hn
    · cases hn

theorem nextLink_congr {s t : State} (h : ∀ l : Fin 8, t.dies.links[l].up = s.dies.links[l].up) (src dst : Fin 4) :
    nextLink t src dst = nextLink s src dst := by
  have hpath : pathUp t = pathUp s := funext fun p => by simp only [pathUp, h]
  unfold nextLink
  rw [hpath]

/-! ## Messages sent (20 R378) -/

theorem streamKey_src (src dst : Fin 4) : Fin.ofNat 4 ((4 * src.val + dst.val) / 4) = src := by
  revert src dst
  decide

theorem streamKey_dst (src dst : Fin 4) : Fin.ofNat 4 (4 * src.val + dst.val) = dst := by
  revert src dst
  decide

theorem fin4_ofNat_val (d : Fin 4) : Fin.ofNat 4 d.val = d := by
  revert d
  decide

theorem byLath_iff (s : State) (src dst : Fin 4) : byLath s src.val dst.val = true ↔
    src ≠ dst ∧ s.dies.health[src].reported = false ∧ s.dies.health[dst].reported = false := by
  have hmod : (src.val % 4 != dst.val % 4) = true ↔ src ≠ dst := by
    rw [bne_iff_ne, Nat.mod_eq_of_lt src.isLt, Nat.mod_eq_of_lt dst.isLt]
    exact not_congr Fin.ext_iff.symm
  unfold byLath
  rw [fin4_ofNat_val, fin4_ofNat_val, Bool.and_eq_true, Bool.and_eq_true, hmod, Bool.not_eq_true', Bool.not_eq_true', and_assoc]
  rfl

theorem sendMessage_none {s : State} {src dst : Fin 4}
    (h : src = dst ∨ s.dies.health[src].reported = true ∨ s.dies.health[dst].reported = true) :
    sendMessage s src.val dst.val = s ∧ nextTransit s src.val dst.val = none := by
  have hfar : byLath s src.val dst.val = false := by
    refine Bool.eq_false_iff.mpr (fun hc => ?_)
    obtain ⟨hne, hs, hd⟩ := (byLath_iff s src dst).mp hc
    obtain h | h | h := h
    · exact hne h
    · exact Bool.false_ne_true (hs.symm.trans h)
    · exact Bool.false_ne_true (hd.symm.trans h)
  exact ⟨sendMessage_near s _ _ hfar, nextTransit_near s _ _ hfar⟩

/-- The stream from one die to another with one more message kept. -/
def keptOneMore (x : Stream) : Stream := { x with next := x.next + 1, kept := x.kept ++ [(x.next, 0)] }

/-- The package with a message kept in its stream, before a flit carries it. -/
def messageKept (s : State) (key : Nat) : State := putStream s key (keptOneMore (streamAt s key))

theorem sendMessage_eq {s : State} {src dst : Fin 4} (h : byLath s src.val dst.val = true) : sendMessage s src.val dst.val =
    sendKept (messageKept s (4 * src.val + dst.val)) (4 * src.val + dst.val) (streamAt s (4 * src.val + dst.val)).next := by
  unfold sendMessage
  rw [h, fin4_ofNat_val, fin4_ofNat_val]
  rfl

theorem nextTransit_eq {s : State} {src dst : Fin 4} (h : byLath s src.val dst.val = true) : nextTransit s src.val dst.val =
    some (4 * src.val + dst.val, (streamAt s (4 * src.val + dst.val)).next) := by
  unfold nextTransit
  rw [h, fin4_ofNat_val, fin4_ofNat_val]
  rfl

theorem streamAt_sendKept (s : State) (k n j : Nat) : streamAt (sendKept s k n) j = streamAt s j :=
  (congrArg (fun t : State => streamAt t j) (onlyLinks_sendKept s k n) :)

theorem streamAt_sendMessage {s : State} {src dst : Fin 4} (h : byLath s src.val dst.val = true) :
    streamAt (sendMessage s src.val dst.val) (4 * src.val + dst.val) = keptOneMore (streamAt s (4 * src.val + dst.val)) := by
  rw [sendMessage_eq h, streamAt_sendKept]
  exact tabGet_tabSet_same _ _ _ _

/-- A link that has taken a flit. -/
def fedWith (s : State) (l : Fin 8) (stream number : Nat) : Link :=
  let x := s.dies.links[l]
  let f : Flit := ⟨x.next, s.dies.tables[linkFrom l].incs[linkFrom l], s.dies.links[linkBack l].expect - 1, stream, number⟩
  { x with
    next := x.next + 1
    window := x.window ++ [⟨f, false⟩]
    wire := if x.retraining = true then x.wire else x.wire ++ [f] }

theorem sendFlit_fed {s : State} {l : Fin 8} (hup : s.dies.links[l].up = true) (hroom : s.dies.links[l].window.length < 2048) (k n : Nat) :
    sendFlit s l k n = putLink s l (fedWith s l k n) := by
  unfold sendFlit
  dsimp only
  rw [if_pos (by rw [hup, decide_eq_true hroom]; rfl)]
  rfl

theorem links_sendMessage {s : State} {src dst : Fin 4} {n : Fin 8} (h : byLath s src.val dst.val = true)
    (hn : nextLink s src dst = some n) (hup : s.dies.links[n].up = true) (hroom : s.dies.links[n].window.length < 2048) :
    (sendMessage s src.val dst.val).dies.links =
      s.dies.links.set n (fedWith s n (4 * src.val + dst.val) (streamAt s (4 * src.val + dst.val)).next) := by
  have hnext : nextLink (messageKept s (4 * src.val + dst.val)) (Fin.ofNat 4 ((4 * src.val + dst.val) / 4))
      (Fin.ofNat 4 (4 * src.val + dst.val)) = some n := by
    rw [streamKey_src, streamKey_dst]
    exact (nextLink_congr (s := s) (t := messageKept s (4 * src.val + dst.val)) (fun l => rfl) src dst).trans hn
  rw [sendMessage_eq h]
  unfold sendKept
  rw [hnext]
  exact congrArg (fun t : State => t.dies.links) (sendFlit_fed (s := messageKept s (4 * src.val + dst.val)) hup hroom _ _)

/-! ## Flits on port links (01 R13) -/

theorem exec_flitReceive_port (s : State) (port : Fin 4) (intact : Bool) :
    exec (.flitReceive (Fin.ofNat 12 (8 + port.val)) intact) s = .next (receivePort port intact s) := by
  have hval : (Fin.ofNat 12 (8 + port.val)).val = 8 + port.val := Nat.mod_eq_of_lt (by omega)
  refine (dif_neg (by rw [hval]; omega)).trans ?_
  refine congrArg (fun d => Host.Outcome.next (receivePort d intact s)) (Fin.ext ?_)
  show (Fin.ofNat 12 (8 + port.val)).val - 8 = port.val
  omega

theorem receivePort_eq (s : State) (port : Fin 4) (intact : Bool) : receivePort port intact s =
    if intact = true ∧ s.plat.portUp.getLsbD port.val = true ∧ s.dies.health[port].reported = false then heardFrom s port else s := by
  refine if_congr ?_ rfl rfl
  rw [Bool.and_eq_true, Bool.and_eq_true, Bool.not_eq_true', and_assoc]
  rfl

/-! ## Flits on laths (20 R379) -/

theorem exec_flitReceive_lath (s : State) (l : Fin 8) (intact : Bool) :
    exec (.flitReceive (Fin.ofNat 12 l.val) intact) s = .next (landGrants (receiveLath l intact s)) := by
  have hval : (Fin.ofNat 12 l.val).val = l.val := Nat.mod_eq_of_lt (by omega)
  refine (dif_pos (by rw [hval]; exact l.isLt)).trans ?_
  exact congrArg (fun m => Host.Outcome.next (landGrants (receiveLath m intact s))) (Fin.ext hval)

/-- No grant and no refusal is on its way. -/
def NoneOnWay (s : State) : Prop := s.coh.grants = [] ∧ s.coh.refusals = []

theorem landGrants_of_none {s : State} (h : NoneOnWay s) : landGrants s = s := by
  obtain ⟨hg, hr⟩ := h
  simp [landGrants, hg, hr]

/-- A link that takes flits: it is up and does not retrain. -/
def Live (x : Link) : Prop := x.up = true ∧ x.retraining = false

theorem receiveLath_dead {s : State} {l : Fin 8} (h : ¬Live s.dies.links[l]) (intact : Bool) : receiveLath l intact s = s := by
  refine if_pos ?_
  rw [Bool.or_eq_true, Bool.not_eq_true']
  by_cases hup : s.dies.links[l].up = true
  · exact .inr (Bool.not_eq_false _ |>.mp fun hr => h ⟨hup, hr⟩)
  · exact .inl (Bool.not_eq_true _ |>.mp hup)

/-- A flit that is discarded: damaged, out of sequence, of an old incarnation, or from a fenced die. -/
def Discarded (s : State) (l : Fin 8) (intact : Bool) (f : Flit) : Prop :=
  intact = false ∨ f.seq ≠ s.dies.links[l].expect ∨ f.inc ≠ s.dies.tables[linkTo l].incs[linkFrom l] ∨
    s.dies.tables[linkTo l].fenced.getLsbD (linkFrom l).val = true

theorem flitBad_iff (s : State) (l : Fin 8) (f : Flit) (intact : Bool) : flitBad s l f intact = true ↔ Discarded s l intact f := by
  simp only [flitBad, Discarded, Bool.or_eq_true, Bool.not_eq_true', bne_iff_ne, or_assoc]

section Live

variable {s : State} {l : Fin 8} {intact : Bool} (h : Live s.dies.links[l])

include h

theorem receiveLath_eq : receiveLath l intact s = (match s.dies.links[l].wire with
    | [] => if !intact || (s.dies.tables[linkTo l]).fenced.getLsbD (linkFrom l).val then s else idleFlit s l
    | f :: w => if flitBad s l f intact then putLink s l { s.dies.links[l] with wire := w }
      else acceptFlit (putLink s l { s.dies.links[l] with wire := w }) l f) :=
  if_neg (by rw [h.1, h.2]; exact Bool.false_ne_true)

theorem receiveLath_idle (hw : s.dies.links[l].wire = []) (hi : intact = true)
    (hf : s.dies.tables[linkTo l].fenced.getLsbD (linkFrom l).val = false) : receiveLath l intact s = idleFlit s l := by
  rw [receiveLath_eq h, hw]
  exact if_neg (by rw [hi, hf]; exact Bool.false_ne_true)

theorem receiveLath_idle_lost (hw : s.dies.links[l].wire = [])
    (hi : intact = false ∨ s.dies.tables[linkTo l].fenced.getLsbD (linkFrom l).val = true) : receiveLath l intact s = s := by
  rw [receiveLath_eq h, hw]
  refine if_pos ?_
  rw [Bool.or_eq_true, Bool.not_eq_true']
  exact hi

variable {f : Flit} {w : List Flit} (hw : s.dies.links[l].wire = f :: w)

include hw

theorem receiveLath_discarded (hb : Discarded s l intact f) : receiveLath l intact s = putLink s l { s.dies.links[l] with wire := w } := by
  rw [receiveLath_eq h, hw]
  exact if_pos ((flitBad_iff s l f intact).mpr hb)

theorem receiveLath_accepted (hb : ¬Discarded s l intact f) :
    receiveLath l intact s = acceptFlit (putLink s l { s.dies.links[l] with wire := w }) l f := by
  rw [receiveLath_eq h, hw]
  exact if_neg (fun hc => hb ((flitBad_iff s l f intact).mp hc))

end Live

/-! ## Acknowledgements (20 R379) -/

theorem window_ackLink (a : BitVec 12) (x : Link) : (ackLink a x).window = ackWindow a x.window := by
  unfold ackLink
  dsimp only
  split
  · rfl
  · rename_i h
    unfold ackWindow at h ⊢
    split at h
    · rename_i i hi
      have hlen := (List.findIdx?_eq_some_iff_findIdx_eq.mp hi).1
      rw [List.length_drop] at h
      omega
    · rfl

theorem up_ackLink (a : BitVec 12) (x : Link) : (ackLink a x).up = x.up := by
  unfold ackLink
  dsimp only
  split <;> rfl

/-- The window of a link after an acknowledgement: what follows the acknowledged SEQ, if that stands in it. -/
def windowAfter (y : Link) (a : BitVec 12) : List WindowEntry :=
  match y.window.findIdx? (fun e => e.flit.seq = a) with
  | some i => y.window.drop (i + 1)
  | none => y.window

theorem ackWindow_eq (y : Link) (a : BitVec 12) : ackWindow a y.window = windowAfter y a := by
  unfold ackWindow windowAfter
  cases y.window.findIdx? (fun e => e.flit.seq = a) <;> rfl

/-- The package once the sending die of a link is heard from and its acknowledgement is taken. -/
def heardAndAcked (s : State) (l : Fin 8) (a : BitVec 12) : State := takeAck (heardFrom s (linkFrom l)) l a

theorem dies_heardAndAcked (s : State) (l : Fin 8) (a : BitVec 12) : (heardAndAcked s l a).dies = { s.dies with
    links := s.dies.links.set (linkBack l) (ackLink a s.dies.links[linkBack l])
    health := s.dies.health.set (linkFrom l) { s.dies.health[linkFrom l] with silent := 0 } } := rfl

theorem link_heardAndAcked_back (s : State) (l : Fin 8) (a : BitVec 12) :
    (heardAndAcked s l a).dies.links[linkBack l] = ackLink a s.dies.links[linkBack l] := link_putLink_same _ _ _

theorem link_heardAndAcked_other (s : State) {l m : Fin 8} (h : m ≠ linkBack l) (a : BitVec 12) :
    (heardAndAcked s l a).dies.links[m] = s.dies.links[m] := link_putLink_other (heardFrom s (linkFrom l)) h _

theorem up_heardAndAcked (s : State) (l : Fin 8) (a : BitVec 12) (m : Fin 8) :
    (heardAndAcked s l a).dies.links[m].up = s.dies.links[m].up := by
  by_cases h : m = linkBack l
  · rw [h, link_heardAndAcked_back, up_ackLink]
  · rw [link_heardAndAcked_other s h]

theorem health_heardAndAcked (s : State) (l : Fin 8) (a : BitVec 12) :
    (heardAndAcked s l a).dies.health[linkFrom l] = { s.dies.health[linkFrom l] with silent := 0 } := by
  simp [dies_heardAndAcked]

theorem idleFlit_of_none_kept {s : State} (l : Fin 8) (h : ∀ e ∈ s.dies.streams, e.2.kept = []) :
    idleFlit s l = heardAndAcked s l (s.dies.links[linkBack l].expect - 1) := resendKept_of_none_kept h

/-! ## Flits accepted (20 R377-R379) -/

/-- The package with a flit taken off a link that expects the next one. -/
def advanced (s : State) (l : Fin 8) (w : List Flit) : State :=
  putLink s l { s.dies.links[l] with wire := w, expect := s.dies.links[l].expect + 1 }

/-- The package once an accepted flit is acknowledged, before its message goes on. -/
def taken (s : State) (l : Fin 8) (f : Flit) (w : List Flit) : State := heardAndAcked (advanced s l w) l f.ack

/-- The message of an accepted flit delivered or forwarded. -/
def passedOn (s : State) (l : Fin 8) (f : Flit) : State :=
  if Fin.ofNat 4 f.stream = linkTo l then deliverMessage s f.stream f.number
  else match nextLink s (linkTo l) (Fin.ofNat 4 f.stream) with
    | some n => sendFlit s n f.stream f.number
    | none => s

theorem putLink_putLink (s : State) (l : Fin 8) (x y : Link) : putLink (putLink s l x) l y = putLink s l y := by simp [putLink, putDies]

theorem acceptFlit_putLink (s : State) (l : Fin 8) (f : Flit) (w : List Flit) :
    acceptFlit (putLink s l { s.dies.links[l] with wire := w }) l f = resendKept (passedOn (taken s l f w) l f) := by
  have hadv : putLink (putLink s l { s.dies.links[l] with wire := w }) l
      { (putLink s l { s.dies.links[l] with wire := w }).dies.links[l] with
        expect := (putLink s l { s.dies.links[l] with wire := w }).dies.links[l].expect + 1 } = advanced s l w := by
    rw [putLink_putLink, link_putLink_same]
    rfl
  unfold acceptFlit
  dsimp only
  rw [hadv]
  unfold passedOn taken heardAndAcked
  split <;> rfl

theorem link_taken_same (s : State) (l : Fin 8) (f : Flit) (w : List Flit) :
    (taken s l f w).dies.links[l] = { s.dies.links[l] with wire := w, expect := s.dies.links[l].expect + 1 } := by
  rw [taken, link_heardAndAcked_other _ (linkBack_ne l).symm, advanced, link_putLink_same]

theorem link_taken_back (s : State) (l : Fin 8) (f : Flit) (w : List Flit) :
    (taken s l f w).dies.links[linkBack l] = ackLink f.ack s.dies.links[linkBack l] := by
  rw [taken, link_heardAndAcked_back, advanced, link_putLink_other s (linkBack_ne l)]

theorem link_taken_other (s : State) {l m : Fin 8} (hl : m ≠ l) (hb : m ≠ linkBack l) (f : Flit) (w : List Flit) :
    (taken s l f w).dies.links[m] = s.dies.links[m] := by
  rw [taken, link_heardAndAcked_other _ hb, advanced, link_putLink_other s hl]

theorem up_taken (s : State) (l : Fin 8) (f : Flit) (w : List Flit) (m : Fin 8) :
    (taken s l f w).dies.links[m].up = s.dies.links[m].up := by
  rw [taken, up_heardAndAcked]
  by_cases h : m = l
  · rw [h, advanced, link_putLink_same]
  · rw [advanced, link_putLink_other s h]

theorem taken_rest (s : State) (l : Fin 8) (f : Flit) (w : List Flit) :
    { (taken s l f w) with dies := { (taken s l f w).dies with links := s.dies.links, health := s.dies.health } } = s := by
  simp only [taken, heardAndAcked, takeAck, heardFrom, advanced, putLink, putDies]

theorem streams_taken (s : State) (l : Fin 8) (f : Flit) (w : List Flit) : (taken s l f w).dies.streams = s.dies.streams := rfl

theorem health_taken (s : State) (l : Fin 8) (f : Flit) (w : List Flit) :
    (taken s l f w).dies.health[linkFrom l] = { s.dies.health[linkFrom l] with silent := 0 } :=
  health_heardAndAcked (advanced s l w) l f.ack

theorem tabFind_of_mem_sorted {α : Type} {t : Tab α} (h : tabSorted t = true) {e : Nat × α} (he : e ∈ t) : tabFind t e.1 = some e.2 := by
  rw [tabSorted_iff] at h
  induction t with
  | nil => cases he
  | cons a t ih =>
    obtain ⟨hlt, hsorted⟩ := List.pairwise_cons.mp h
    obtain rfl | hmem := List.mem_cons.mp he
    · exact if_pos rfl
    · exact (if_neg (Nat.ne_of_lt (hlt e hmem))).trans (ih hsorted hmem)

theorem mem_tabSet_of_sorted {α : Type} {t : Tab α} (h : tabSorted t = true) {i : Nat} {x : α} {e : Nat × α} (he : e ∈ tabSet t i x) :
    e = (i, x) ∨ e ∈ t ∧ e.1 ≠ i := by
  by_cases hi : e.1 = i
  · have hfind := tabFind_of_mem_sorted (tabSet_sorted t i x h) he
    rw [hi, tabFind_tabSet_same] at hfind
    exact .inl (Prod.ext hi (Option.some.inj hfind).symm)
  · obtain rfl | hmem := mem_tabSet t i x e he
    · exact absurd rfl hi
    · exact .inr ⟨hmem, hi⟩

theorem deliverMessage_next {s : State} {k n : Nat} (h : n = (streamAt s k).deliver) (hk : ∀ m ∈ (streamAt s k).kept, m.1 = n) :
    deliverMessage s k n = putStream s k { streamAt s k with deliver := (streamAt s k).deliver + 1, kept := [] } := by
  have hkept : (streamAt s k).kept.filter (fun m => m.1 != n) = [] :=
    List.filter_eq_nil_iff.mpr (fun m hm => by rw [hk m hm]; simp)
  unfold deliverMessage
  dsimp only
  rw [if_pos h, hkept]

theorem passedOn_next {s : State} {l : Fin 8} {f : Flit} {w : List Flit} (hdst : Fin.ofNat 4 f.stream = linkTo l)
    (hn : f.number = (streamAt s f.stream).deliver) (hk : ∀ m ∈ (streamAt s f.stream).kept, m.1 = f.number) :
    passedOn (taken s l f w) l f = putStream (taken s l f w) f.stream
      { streamAt s f.stream with deliver := (streamAt s f.stream).deliver + 1, kept := [] } :=
  (if_pos hdst).trans (deliverMessage_next (s := taken s l f w) hn hk)

theorem passedOn_again {s : State} {l : Fin 8} {f : Flit} {w : List Flit} (hdst : Fin.ofNat 4 f.stream = linkTo l)
    (hn : f.number ≠ (streamAt s f.stream).deliver) : passedOn (taken s l f w) l f = taken s l f w :=
  (if_pos hdst).trans (if_neg hn)

theorem passedOn_forward {s : State} {l n : Fin 8} {f : Flit} {w : List Flit} (hdst : Fin.ofNat 4 f.stream ≠ linkTo l)
    (hnext : nextLink s (linkTo l) (Fin.ofNat 4 f.stream) = some n) (hb : n ≠ linkBack l) (hup : s.dies.links[n].up = true)
    (hroom : s.dies.links[n].window.length < 2048) :
    passedOn (taken s l f w) l f = putLink (taken s l f w) n (fedWith (taken s l f w) n f.stream f.number) ∧ n ≠ l ∧
      (taken s l f w).dies.links[n] = s.dies.links[n] := by
  have hl : n ≠ l := fun h =>
    linkFrom_ne_linkTo l ((congrArg linkFrom h).symm.trans (linkFrom_of_nextLink (Ne.symm hdst) hnext))
  have hlink := link_taken_other s hl hb f w
  refine ⟨?_, hl, hlink⟩
  have hthen : nextLink (taken s l f w) (linkTo l) (Fin.ofNat 4 f.stream) = some n :=
    (nextLink_congr (up_taken s l f w) _ _).trans hnext
  unfold passedOn
  rw [if_neg hdst, hthen]
  exact sendFlit_fed (by rw [hlink, hup]) (by rw [hlink]; exact hroom) _ _

/-! ## Grants and refusals that a flit has brought (20 R368, R378) -/

theorem landGrants_refusal {s : State} {r : ReqMsg} (hg : s.coh.grants = []) (hr : s.coh.refusals = [r]) (ha : arrived s r.via = true) :
    landGrants s = { s with coh := { s.coh with
      refusals := [], notowner := s.coh.notowner ++ [⟨r.req, r.backoff, min 2048 (2 * r.backoff)⟩] } } := by
  unfold landGrants
  simp only [hr, List.isEmpty_cons, Bool.false_eq_true, if_false, takeRefusals, List.filter_cons, List.filter_nil, ha, Bool.not_true,
    if_true, putCoh, hg, List.isEmpty_nil, List.map_cons, List.map_nil, refused]

theorem drain_of_none_waiting {s : State} (hc : s.coh.conflicts = []) (hw : s.coh.wayWait = []) : drain s = s := by
  simp [drain, hw, hc, drainQueue]

/-- The package once a grant that was alone on its way has set the level of its die. -/
def granted (s : State) (g : GrantMsg) : State :=
  putCoh s (takeLevel { s.coh with grants := [] } g.die g.line g.st g.stamp g.good)

theorem takeGrant_unawaited {s : State} {g : GrantMsg} (h : ∀ t ∈ s.coh.txns, t.req.line ≠ g.line) :
    takeGrant (putCoh s { s.coh with grants := [] }) g.die g.line g.st g.stamp g.good = granted s g := by
  have hwaits : waitsHome (granted s g) (Fin.ofNat 4 g.die) g.line = none := by
    refine List.find?_eq_none.mpr (fun t ht hc => ?_)
    have hne : t.req.line ≠ g.line := h t ht
    simp only [Bool.and_eq_true, atSite, decide_eq_true_eq] at hc
    exact hne hc.1.2.symm
  show resumeSlice (granted s g) (Fin.ofNat 4 g.die) g.line = _
  unfold resumeSlice
  rw [hwaits]

theorem landGrants_grant {s : State} {g : GrantMsg} (hg : s.coh.grants = [g]) (hr : s.coh.refusals = []) (ha : arrived s g.via = true)
    (hc : s.coh.conflicts = []) (hw : s.coh.wayWait = []) (h : ∀ t ∈ s.coh.txns, t.req.line ≠ g.line) : landGrants s = granted s g := by
  have htake : takeGrants s 1 = granted s g := by
    unfold takeGrants
    simp only [hg, List.findIdx?_cons, ha, if_true, List.getElem?_cons_zero, listDrop, List.eraseIdx_cons_zero]
    exact takeGrant_unawaited h
  unfold landGrants
  simp only [hr, List.isEmpty_nil, if_true, hg, List.isEmpty_cons, Bool.false_eq_true, if_false, List.length_cons, List.length_nil,
    Nat.zero_add, htake]
  exact drain_of_none_waiting hc hw

theorem dirGet_granted (s : State) (g : GrantMsg) : dirGet (granted s g).coh g.die g.line = { dirGet s.coh g.die g.line with
    lvl := g.st, hstamp := g.stamp, good := (dirGet s.coh g.die g.line).good ||| g.good } := tabGet_tabSet_same _ _ _ _

/-! ## Replay, retraining and the audit (20 R379, R380; 23 R407, R408) -/

/-- A link that is not to replay: it is down, retrains, holds nothing, or has not stood still for long. -/
def NoReplay (x : Link) : Prop := x.up = false ∨ x.retraining = true ∨ x.window = [] ∨ x.stalled < 256

theorem noReplay_iff (x : Link) : (!x.up || x.retraining || x.window.isEmpty || decide (x.stalled < 256)) = true ↔ NoReplay x := by
  simp only [NoReplay, Bool.or_eq_true, Bool.not_eq_true', List.isEmpty_iff, decide_eq_true_eq, or_assoc]

/-- The controller of the sending end of a link is being swapped. -/
def Swapping (s : State) (m : Fin 8) : Prop := ∃ n, (s.plat.controllers[18 + m.val]'(by omega)).state = .starting n

theorem lathSwapping_iff (s : State) (l : Fin 8) : lathSwapping s l = true ↔ Swapping s l ∨ Swapping s (linkBack l) := by
  have hone : ∀ m, (match (lathController s m).state with | .starting _ => true | _ => false) = true ↔ Swapping s m := fun m => by
    unfold Swapping lathController
    cases (s.plat.controllers[18 + m.val]'(by omega)).state <;> simp
  rw [← hone, ← hone, ← Bool.or_eq_true]
  rfl

theorem exec_lathReplay_idle {s : State} {l : Fin 8} (h : NoReplay s.dies.links[l]) : exec (.lathReplay l) s = .next s :=
  if_pos ((noReplay_iff _).mpr h)

theorem exec_lathReplay_due {s : State} {l : Fin 8} (h : ¬NoReplay s.dies.links[l]) : exec (.lathReplay l) s =
    if 8 ≤ s.dies.links[l].replays then
      if lathSwapping s l then .next s
      else .next (mapLinks s (fun y => y = l || y = linkBack l) (fun y => { y with retraining := true, wire := [] }))
    else .next (putLink s l { s.dies.links[l] with
      wire := replayFlits s.dies.links[l].window, stalled := 0, replays := s.dies.links[l].replays + 1 }) :=
  if_neg (fun hc => h ((noReplay_iff _).mp hc))

theorem exec_lathReplay_replays {s : State} {l : Fin 8} (h : ¬NoReplay s.dies.links[l]) (hr : s.dies.links[l].replays < 8) :
    exec (.lathReplay l) s = .next (putLink s l { s.dies.links[l] with
      wire := replayFlits s.dies.links[l].window, stalled := 0, replays := s.dies.links[l].replays + 1 }) :=
  (exec_lathReplay_due h).trans (if_neg (Nat.not_le.mpr hr))

theorem exec_lathReplay_swapping {s : State} {l : Fin 8} (h : ¬NoReplay s.dies.links[l]) (hr : 8 ≤ s.dies.links[l].replays)
    (hs : Swapping s l ∨ Swapping s (linkBack l)) : exec (.lathReplay l) s = .next s :=
  (exec_lathReplay_due h).trans ((if_pos hr).trans (if_pos ((lathSwapping_iff s l).mpr hs)))

theorem exec_lathReplay_retrains {s : State} {l : Fin 8} (h : ¬NoReplay s.dies.links[l]) (hr : 8 ≤ s.dies.links[l].replays)
    (hl : ¬Swapping s l) (hb : ¬Swapping s (linkBack l)) : exec (.lathReplay l) s =
      .next (mapLinks s (fun y => y = l || y = linkBack l) (fun y => { y with retraining := true, wire := [] })) :=
  (exec_lathReplay_due h).trans ((if_pos hr).trans (if_neg (fun hc => ((lathSwapping_iff s l).mp hc).elim hl hb)))

theorem link_mapLinks (s : State) (p : Fin 8 → Bool) (f : Link → Link) (m : Fin 8) :
    (mapLinks s p f).dies.links[m] = if p m = true then f s.dies.links[m] else s.dies.links[m] := by
  simp [mapLinks, putDies]

/-- A link whose lath has retrained. -/
def retrained (x : Link) : Link := { x with retraining := false, replays := 0, stalled := 0, wire := replayFlits x.window }

/-- A link whose lath has gone down. -/
def linkLost (x : Link) : Link :=
  { x with up := false, retraining := false, replays := 0, stalled := 0, wire := [], window := [] }

theorem exec_retrainComplete_idle {s : State} {lath : Fin 4} (trained : Bool) (h : (s.dies.links[2 * lath.val]'(by omega)).retraining = false) :
    exec (.retrainComplete lath trained) s = .next s := if_pos (by rw [h]; rfl)

theorem exec_retrainComplete_trained {s : State} {lath : Fin 4} (h : (s.dies.links[2 * lath.val]'(by omega)).retraining = true) :
    exec (.retrainComplete lath true) s = .next (mapLinks s (ofLath lath) retrained) :=
  (if_neg (by rw [h]; exact Bool.false_ne_true)).trans (if_pos rfl)

theorem exec_retrainComplete_lost {s : State} {lath : Fin 4} (h : (s.dies.links[2 * lath.val]'(by omega)).retraining = true) :
    exec (.retrainComplete lath false) s = .next (resendKept (mapLinks s (ofLath lath) linkLost)) :=
  (if_neg (by rw [h]; exact Bool.false_ne_true)).trans (if_neg Bool.false_ne_true)

theorem link_retrainComplete_lost (s : State) (lath : Fin 4) {m : Fin 8} (hm : m.val / 2 = lath.val) :
    (resendKept (mapLinks s (ofLath lath) linkLost)).dies.links[m] = linkLost s.dies.links[m] := by
  have hlink : (mapLinks s (ofLath lath) linkLost).dies.links[m] = linkLost s.dies.links[m] := by
    have hof : ofLath lath m = true := decide_eq_true hm
    rw [link_mapLinks, if_pos hof]
  obtain ⟨-, -, -, -, hsame⟩ := linksFed_resendKept (mapLinks s (ofLath lath) linkLost) m
  exact (hsame (by rw [hlink]; rfl)).trans hlink

/-- Whether an audit found an entry of a window uncorrectable. -/
def auditBad (found : List AuditFinding) (e : WindowEntry) : Bool := found.any (fun y => y = .uncorrectable e.flit.seq.toNat)

theorem foundBad_eq (found : List AuditFinding) (e : WindowEntry) : foundBad found e = auditBad found e := by
  unfold foundBad auditBad
  refine congrArg (List.any found) (funext fun y => ?_)
  cases y with
  | single n => simp
  | uncorrectable n => simp [eq_comm]

theorem exec_replayAudit (s : State) (l : Fin 8) (found : List AuditFinding) : exec (.replayAudit l found) s = .next { s with
    dies := { s.dies with links := s.dies.links.set l { s.dies.links[l] with
      window := s.dies.links[l].window.map (fun e => { e with rebuild := auditBad found e }) } }
    plat := { s.plat with lathWork := s.plat.lathWork.set l { s.plat.lathWork[l] with audit := s.plat.lathWork[l].audit + 1 } } } := by
  have hbad : (fun e : WindowEntry => { e with rebuild := foundBad found e }) = fun e => { e with rebuild := auditBad found e } :=
    funext fun e => by rw [foundBad_eq]
  show execReplayAudit l found s = _
  unfold execReplayAudit
  dsimp only
  rw [hbad]
  rfl

/-! ## What the dies keep after a flit -/

/-- A step that changes only what the package keeps of the dies. -/
def ChangesDies (s : State) (i : Instr) (q : Dies → Prop) : Prop := ∃ t, exec i s = .next t ∧ { t with dies := s.dies } = s ∧ q t.dies

theorem changesDies_flit {s t : State} {l : Fin 8} {intact : Bool} {q : Dies → Prop} (hnone : NoneOnWay s)
    (ht : receiveLath l intact s = t) (hrest : { t with dies := s.dies } = s) (hq : q t.dies) :
    ChangesDies s (.flitReceive (Fin.ofNat 12 l.val) intact) q := by
  have hcoh : t.coh = s.coh := (congrArg State.coh hrest :)
  have hland : landGrants t = t := landGrants_of_none ⟨by rw [hcoh]; exact hnone.1, by rw [hcoh]; exact hnone.2⟩
  exact ⟨t, by rw [exec_flitReceive_lath, ht, hland], hrest, hq⟩

theorem onlyDies_taken (s : State) (l : Fin 8) (f : Flit) (w : List Flit) : { taken s l f w with dies := s.dies } = s := by
  simp only [taken, heardAndAcked, takeAck, heardFrom, advanced, putLink, putDies]

section Accepted

variable {s : State} {l n : Fin 8} {intact : Bool} {f : Flit} {w : List Flit} (hnone : NoneOnWay s) (hlive : Live s.dies.links[l])
  (hw : s.dies.links[l].wire = f :: w) (hok : ¬Discarded s l intact f)

include hnone hlive hw hok

theorem flit_delivered (hdst : Fin.ofNat 4 f.stream = linkTo l) (hothers : ∀ e ∈ s.dies.streams, e.1 = f.stream ∨ e.2.kept = [])
    (hkept : ∀ m ∈ (streamAt s f.stream).kept, m.1 = f.number) (hsorted : tabSorted s.dies.streams = true)
    (hnum : f.number = (streamAt s f.stream).deliver) : ChangesDies s (.flitReceive (Fin.ofNat 12 l.val) intact) (fun t =>
      t.links[l] = { s.dies.links[l] with wire := w, expect := s.dies.links[l].expect + 1 } ∧
      t.links[linkBack l].window = ackWindow f.ack s.dies.links[linkBack l].window ∧
      tabGet ⟨0, 0, []⟩ t.streams f.stream = { streamAt s f.stream with deliver := (streamAt s f.stream).deliver + 1, kept := [] } ∧
      t.health[linkFrom l] = { s.dies.health[linkFrom l] with silent := 0 } ∧
      { t with links := s.dies.links, streams := s.dies.streams, health := s.dies.health } = s.dies) := by
  have hpassed := passedOn_next (l := l) (w := w) hdst hnum hkept
  have hall : ∀ e ∈ (passedOn (taken s l f w) l f).dies.streams, e.2.kept = [] := by
    rw [hpassed]
    intro e he
    obtain rfl | ⟨hmem, hne⟩ := mem_tabSet_of_sorted hsorted he
    · rfl
    · exact (hothers e hmem).resolve_left hne
  refine changesDies_flit hnone ((receiveLath_accepted hlive hw hok).trans ((acceptFlit_putLink s l f w).trans
    ((resendKept_of_none_kept hall).trans hpassed))) (onlyDies_taken s l f w) ⟨link_taken_same s l f w, ?_, ?_, health_taken s l f w, ?_⟩
  · exact (congrArg Link.window (link_taken_back s l f w)).trans (window_ackLink _ _)
  · exact tabGet_tabSet_same _ _ _ _
  · exact (congrArg State.dies (taken_rest s l f w) :)

theorem flit_again (hdst : Fin.ofNat 4 f.stream = linkTo l) (hall : ∀ e ∈ s.dies.streams, e.2.kept = [])
    (hnum : f.number ≠ (streamAt s f.stream).deliver) : ChangesDies s (.flitReceive (Fin.ofNat 12 l.val) intact) (fun t =>
      t.streams = s.dies.streams ∧ t.links[l].expect = s.dies.links[l].expect + 1) := by
  have hpassed := passedOn_again (l := l) (w := w) hdst hnum
  refine changesDies_flit hnone ((receiveLath_accepted hlive hw hok).trans ((acceptFlit_putLink s l f w).trans
    ((resendKept_of_none_kept ?_).trans hpassed))) (onlyDies_taken s l f w) ⟨streams_taken s l f w, ?_⟩
  · rw [hpassed]
    exact hall
  · rw [link_taken_same]

theorem flit_forwarded (hdst : Fin.ofNat 4 f.stream ≠ linkTo l) (hall : ∀ e ∈ s.dies.streams, e.2.kept = [])
    (hnext : nextLink s (linkTo l) (Fin.ofNat 4 f.stream) = some n) (hb : n ≠ linkBack l) (hup : s.dies.links[n].up = true)
    (hroom : s.dies.links[n].window.length < 2048) : ChangesDies s (.flitReceive (Fin.ofNat 12 l.val) intact) (fun t =>
      t.streams = s.dies.streams ∧ t.links[l] = { s.dies.links[l] with wire := w, expect := s.dies.links[l].expect + 1 } ∧
      (∃ z ∈ t.links[n].window, z.flit.stream = f.stream ∧ z.flit.number = f.number ∧ z.flit.seq = s.dies.links[n].next ∧
        z.flit.inc = s.dies.tables[linkFrom n].incs[linkFrom n]) ∧ t.links[n].next = s.dies.links[n].next + 1) := by
  obtain ⟨hpassed, hl, hlink⟩ := passedOn_forward (w := w) hdst hnext hb hup hroom
  have hrest : { putLink (taken s l f w) n (fedWith (taken s l f w) n f.stream f.number) with dies := s.dies } = s :=
    onlyDies_taken s l f w
  refine changesDies_flit hnone ((receiveLath_accepted hlive hw hok).trans ((acceptFlit_putLink s l f w).trans
    ((resendKept_of_none_kept ?_).trans hpassed))) hrest ⟨streams_taken s l f w, ?_, ?_, ?_⟩
  · rw [hpassed]
    exact hall
  · rw [link_putLink_other _ hl.symm, link_taken_same]
  · rw [link_putLink_same]
    refine ⟨_, List.mem_append_right _ (List.mem_singleton.mpr rfl), rfl, rfl, congrArg Link.next hlink, rfl⟩
  · rw [link_putLink_same]
    exact congrArg (fun x : Link => x.next + 1) hlink

end Accepted

theorem nextLink_short {s : State} {src dst : Fin 4} (hne : src ≠ dst) (h : ∀ m ∈ shortWay src dst, s.dies.links[m].up = true) :
    nextLink s src dst = (shortWay src dst).head? := by
  rw [nextLink_eq s hne, if_pos ((pathUp_iff _ _).mpr h)]

theorem nextLink_long {s : State} {src dst : Fin 4} (hne : src ≠ dst) (h : ¬∀ m ∈ shortWay src dst, s.dies.links[m].up = true)
    (hlong : ∀ m ∈ longWay src dst, s.dies.links[m].up = true) : nextLink s src dst = (longWay src dst).head? := by
  rw [nextLink_eq s hne, if_neg (fun hc => h ((pathUp_iff _ _).mp hc)), if_pos ((pathUp_iff _ _).mpr hlong)]

theorem nextLink_none {s : State} {src dst : Fin 4} (hne : src ≠ dst) (h : ¬∀ m ∈ shortWay src dst, s.dies.links[m].up = true)
    (hlong : ¬∀ m ∈ longWay src dst, s.dies.links[m].up = true) : nextLink s src dst = none := by
  rw [nextLink_eq s hne, if_neg (fun hc => h ((pathUp_iff _ _).mp hc)), if_neg (fun hc => hlong ((pathUp_iff _ _).mp hc))]

theorem flit_idle {s : State} {l : Fin 8} {intact : Bool} (hnone : NoneOnWay s) (hlive : Live s.dies.links[l])
    (hw : s.dies.links[l].wire = []) (hall : ∀ e ∈ s.dies.streams, e.2.kept = []) (hi : intact = true)
    (hf : s.dies.tables[linkTo l].fenced.getLsbD (linkFrom l).val = false) :
    ChangesDies s (.flitReceive (Fin.ofNat 12 l.val) intact) (fun t =>
      t.links[linkBack l].window = ackWindow (s.dies.links[linkBack l].expect - 1) s.dies.links[linkBack l].window ∧
      t.links[l] = s.dies.links[l] ∧ t.health[linkFrom l].silent = 0 ∧
      { t with links := s.dies.links, health := s.dies.health } = s.dies) := by
  refine changesDies_flit hnone ((receiveLath_idle hlive hw hi hf).trans (idleFlit_of_none_kept l hall)) ?_ ⟨?_, ?_, ?_, ?_⟩
  · simp only [heardAndAcked, takeAck, heardFrom, putLink, putDies]
  · exact (congrArg Link.window (link_heardAndAcked_back s l _)).trans (window_ackLink _ _)
  · exact link_heardAndAcked_other s (linkBack_ne l).symm _
  · rw [health_heardAndAcked]
  · simp only [heardAndAcked, takeAck, heardFrom, putLink, putDies]

theorem exec_flitReceive_of_receiveLath {s t : State} {l : Fin 8} {intact : Bool} (hnone : NoneOnWay s)
    (ht : receiveLath l intact s = t) (hcoh : t.coh = s.coh) : exec (.flitReceive (Fin.ofNat 12 l.val) intact) s = .next t := by
  rw [exec_flitReceive_lath, ht, landGrants_of_none ⟨by rw [hcoh]; exact hnone.1, by rw [hcoh]; exact hnone.2⟩]

theorem ackWindow_windowAfter : (fun (y : Link) (a : BitVec 12) => ackWindow a y.window) = windowAfter :=
  funext fun y => funext fun a => ackWindow_eq y a

/-- Settles O55: the claim's cases are those of a message sent, a flit received, a replay, a retraining and an audit. -/
theorem lathFlits : Obligations.LathFlits := by
  intro s l n port src dst intact trained f w lath found g r
  refine ⟨sendMessage_none, fun hne hs hd => ?_, fun hne => ⟨nextLink_short hne, nextLink_long hne, nextLink_none hne⟩, ?_,
    fun hnone hdead => exec_flitReceive_of_receiveLath hnone (receiveLath_dead hdead intact) rfl, fun hg hr hdead ha => ?_,
    fun hg hr hdead ha hc hw ht => ?_, fun hnone hlive hw hall hi hf => ?_,
    fun hnone hlive hw h => exec_flitReceive_of_receiveLath hnone (receiveLath_idle_lost hlive hw h) rfl,
    fun hnone hlive hw hb => exec_flitReceive_of_receiveLath hnone (receiveLath_discarded hlive hw hb) rfl,
    fun hnone hlive hw hok hdst hothers hkept hsorted hnum => ?_,
    fun hnone hlive hw hok hdst hall hnum => flit_again hnone hlive hw hok hdst hall hnum,
    fun hnone hlive hw hok hdst hall hnext hb hup hroom => flit_forwarded hnone hlive hw hok hdst hall hnext hb hup hroom,
    exec_lathReplay_idle, exec_lathReplay_replays, exec_lathReplay_swapping, fun h hr hl hb => ?_, exec_retrainComplete_idle trained,
    fun h => ?_, fun h => ?_, exec_replayAudit s l found⟩
  · have hby := (byLath_iff s src dst).mpr ⟨hne, hs, hd⟩
    exact ⟨nextTransit_eq hby, decide_eq_true_iff, streamAt_sendMessage hby, links_sendMessage hby⟩
  · rw [exec_flitReceive_port, receivePort_eq]
    rfl
  · rw [exec_flitReceive_lath, receiveLath_dead hdead]
    exact congrArg _ (landGrants_refusal hg hr ha)
  · refine ⟨granted s g, ?_, rfl, dirGet_granted s g, rfl⟩
    rw [exec_flitReceive_lath, receiveLath_dead hdead, landGrants_grant hg hr ha hc hw ht]
  · have h := flit_idle hnone hlive hw hall hi hf
    rw [ackWindow_eq] at h
    exact h
  · have h := flit_delivered hnone hlive hw hok hdst hothers hkept hsorted hnum
    rw [ackWindow_eq] at h
    exact h
  · refine ⟨_, exec_lathReplay_retrains h hr hl hb, rfl, rfl, fun m => (link_mapLinks _ _ _ _).trans (if_congr ?_ rfl rfl)⟩
    rw [Bool.or_eq_true, decide_eq_true_eq, decide_eq_true_eq]
  · exact ⟨_, exec_retrainComplete_trained h, rfl, rfl, fun m => (link_mapLinks _ _ _ _).trans (if_congr decide_eq_true_iff rfl rfl)⟩
  · have hlinks := (onlyLinks_resendKept (mapLinks s (ofLath lath) linkLost))
    refine ⟨_, exec_retrainComplete_lost h, (congrArg (fun t : State => { t with dies := s.dies }) hlinks :),
      (congrArg (fun t : State => { t.dies with links := s.dies.links }) hlinks :), fun m hm => ?_⟩
    rw [link_retrainComplete_lost s lath hm]
    exact ⟨rfl, rfl, rfl⟩

end Sys2Proof.Machine
end

section
/-! What hosts read and write by RDMA: the launch window and its seals, open regions, and bytes written at the homes of their lines
(22 R390-R392; 10 R232). -/

namespace Sys2Proof.Machine

open Sys2Proof.Safety

/-! ## The launch window (22 R391, R392) -/

theorem memGet_windowWrite (bs : List Byte) : ∀ (m : List Host.Cell) (a b : Nat),
    memGet (windowWrite m a bs) b = if a ≤ b then bs.getD (b - a) (memGet m b) else memGet m b := by
  induction bs with
  | nil => simp [windowWrite]
  | cons x bs ih =>
    intro m a b
    rw [windowWrite, ih, memGet_memSet]
    by_cases hb : b = a
    · simp [hb]
    · by_cases hab : a ≤ b
      · obtain ⟨k, rfl⟩ : ∃ k, b = a + 1 + k := ⟨b - (a + 1), by omega⟩
        simp [show a ≠ a + 1 + k by omega, show a + 1 + k - a = k + 1 by omega, show a ≤ a + 1 + k by omega]
      · simp [hab, show ¬a + 1 ≤ b by omega, Ne.symm hb]

/-- Whether the line monitor takes the record of a slot: the slot is FREE and its SEQ is new (22 R392). -/
def SealTaken (s : State) (n : Nat) : Prop :=
  (winSlot s n).st = .free ∧ (winSlot s n).lastSeq ≠ some (LaunchRec.seq (windowRecord s.host.window n))

/-- A window slot that has been taken up, with its place in the order of the seals. -/
def takenUp (x : WinSlot) (r : LaunchRec) (order : Nat) : WinSlot :=
  { x with st := .parsed, lastSeq := some (LaunchRec.seq r), record := r, order := order }

theorem acceptSeal_of_taken {s : State} {n : Nat} (h : SealTaken s n) : acceptSeal s n = { s with host := { s.host with
    slots := tabSet s.host.slots n (takenUp (winSlot s n) (windowRecord s.host.window n) s.host.seals)
    seals := s.host.seals + 1 } } := by
  obtain ⟨hfree, hseq⟩ := h
  simp only [acceptSeal, hfree, decide_true, Bool.true_and, bne_iff_ne.mpr hseq, if_true]
  rfl

theorem acceptSeal_of_not_taken {s : State} {n : Nat} (h : ¬SealTaken s n) : acceptSeal s n = s := by
  refine if_neg fun hc => h ?_
  rw [Bool.and_eq_true, decide_eq_true_eq, bne_iff_ne] at hc
  exact hc

/-- Seals accepted: the window slots and their order alone have changed. -/
def OnlySeals (s t : State) : Prop :=
  { t with host := { t.host with slots := s.host.slots, seals := s.host.seals } } = s ∧ s.host.seals ≤ t.host.seals

theorem OnlySeals.trans {s t u : State} (h : OnlySeals s t) (k : OnlySeals t u) : OnlySeals s u := by
  refine ⟨?_, h.2.trans k.2⟩
  have hk := congrArg (fun v : State => { v with host := { v.host with slots := s.host.slots, seals := s.host.seals } }) k.1
  exact hk.trans h.1

theorem onlySeals_acceptSeal (s : State) (n : Nat) : OnlySeals s (acceptSeal s n) := by
  by_cases h : SealTaken s n
  · rw [acceptSeal_of_taken h]
    exact ⟨rfl, Nat.le_succ _⟩
  · rw [acceptSeal_of_not_taken h]
    exact ⟨rfl, Nat.le_refl _⟩

theorem onlySeals_acceptSeals (l : List Nat) : ∀ s, OnlySeals s (l.foldl acceptSeal s) := by
  induction l with
  | nil => exact fun s => ⟨rfl, Nat.le_refl _⟩
  | cons n l ih => exact fun s => (onlySeals_acceptSeal s n).trans (ih _)

theorem OnlySeals.window {s t : State} (h : OnlySeals s t) : t.host.window = s.host.window :=
  (congrArg (fun v : State => v.host.window) h.1 :)

theorem OnlySeals.sent {s t : State} (h : OnlySeals s t) : t.host.sent = s.host.sent :=
  (congrArg (fun v : State => v.host.sent) h.1 :)

theorem winSlot_acceptSeal_other (s : State) {n k : Nat} (hk : k ≠ n) : winSlot (acceptSeal s n) k = winSlot s k := by
  by_cases h : SealTaken s n
  · rw [acceptSeal_of_taken h]
    exact tabGet_tabSet_other _ _ _ _ _ hk.symm
  · rw [acceptSeal_of_not_taken h]

theorem winSlot_acceptSeals_other (l : List Nat) {k : Nat} : ∀ s, k ∉ l → winSlot (l.foldl acceptSeal s) k = winSlot s k := by
  induction l with
  | nil => exact fun s _ => rfl
  | cons n l ih =>
    intro s hk
    rw [List.mem_cons, not_or] at hk
    rw [List.foldl_cons, ih _ hk.2, winSlot_acceptSeal_other s hk.1]

/-- The slots whose byte 127 has been written are looked at one after another; each is taken at the number of seals so far. -/
theorem winSlot_acceptSeals (l : List Nat) {k : Nat} : ∀ s, l.Nodup → k ∈ l → SealTaken s k →
    ∃ o, s.host.seals ≤ o ∧ o < (l.foldl acceptSeal s).host.seals ∧
      winSlot (l.foldl acceptSeal s) k = takenUp (winSlot s k) (windowRecord s.host.window k) o := by
  induction l with
  | nil => exact fun s _ hk => absurd hk List.not_mem_nil
  | cons n l ih =>
    intro s hl hk ht
    obtain ⟨hn, hl⟩ := List.nodup_cons.mp hl
    have hone := onlySeals_acceptSeal s n
    by_cases hkn : k = n
    · subst hkn
      have hrest := (onlySeals_acceptSeals l (acceptSeal s k)).2
      refine ⟨s.host.seals, Nat.le_refl _, ?_, ?_⟩
      · rw [acceptSeal_of_taken ht] at hrest
        rw [List.foldl_cons, acceptSeal_of_taken ht]
        exact hrest
      · rw [List.foldl_cons, winSlot_acceptSeals_other l _ hn, acceptSeal_of_taken ht]
        exact tabGet_tabSet_same _ _ _ _
    · have hsame := winSlot_acceptSeal_other s hkn
      have ht' : SealTaken (acceptSeal s n) k := by
        unfold SealTaken
        rw [hsame, hone.window]
        exact ht
      obtain ⟨o, hlo, hhi, heq⟩ := ih (acceptSeal s n) hl ((List.mem_cons.mp hk).resolve_left hkn) ht'
      rw [hsame, hone.window] at heq
      exact ⟨o, hone.2.trans hlo, hhi, heq⟩

theorem winSlot_acceptSeals_not_taken (l : List Nat) {k : Nat} : ∀ s, ¬SealTaken s k →
    winSlot (l.foldl acceptSeal s) k = winSlot s k := by
  induction l with
  | nil => exact fun s _ => rfl
  | cons n l ih =>
    intro s hk
    have hone : winSlot (acceptSeal s n) k = winSlot s k := by
      by_cases hkn : k = n
      · rw [← hkn, acceptSeal_of_not_taken hk]
      · exact winSlot_acceptSeal_other s hkn
    have hk' : ¬SealTaken (acceptSeal s n) k := by
      unfold SealTaken
      rwa [hone, (onlySeals_acceptSeal s n).window]
    rw [List.foldl_cons, ih _ hk', hone]

theorem mem_sealedSlots (addr n i : Nat) :
    i ∈ sealedSlots addr n ↔ i < 512 ∧ addr ≤ 128 * i + 127 ∧ 128 * i + 127 < addr + n := by
  simp [sealedSlots]

theorem nodup_sealedSlots (addr n : Nat) : (sealedSlots addr n).Nodup := List.nodup_range.filter _

/-- The seals of a write to the window looked at, slot after slot; kept opaque, for its list is as long as the window. -/
@[irreducible] def sealsSeen (s : State) (addr n : Nat) : State := (sealedSlots addr n).foldl acceptSeal s

theorem onlySeals_sealsSeen (s : State) (addr n : Nat) : OnlySeals s (sealsSeen s addr n) := by
  unfold sealsSeen
  exact onlySeals_acceptSeals _ s

theorem winSlot_sealsSeen_of_taken {s : State} {addr n i : Nat} (hi : i ∈ sealedSlots addr n) (ht : SealTaken s i) :
    ∃ o, s.host.seals ≤ o ∧ o < (sealsSeen s addr n).host.seals ∧
      winSlot (sealsSeen s addr n) i = takenUp (winSlot s i) (windowRecord s.host.window i) o := by
  unfold sealsSeen
  exact winSlot_acceptSeals _ s (nodup_sealedSlots addr n) hi ht

theorem winSlot_sealsSeen_of_kept {s : State} {addr n i : Nat} (h : ¬(i ∈ sealedSlots addr n ∧ SealTaken s i)) :
    winSlot (sealsSeen s addr n) i = winSlot s i := by
  unfold sealsSeen
  by_cases ht : SealTaken s i
  · exact winSlot_acceptSeals_other _ s fun hi => h ⟨hi, ht⟩
  · exact winSlot_acceptSeals_not_taken _ s ht

/-! ## Regions and the homes of lines (22 R390; 10 R232) -/

theorem regionOpen_iff (s : State) (key addr n : Nat) : regionOpen s key addr n = true ↔
    (∃ r ∈ s.host.regions, r.1 = key ∧ r.2.1 ≤ addr ∧ addr + n ≤ r.2.1 + r.2.2) ∧
      memExists s addr = true ∧ memExists s (addr + n - 1) = true := by
  simp only [regionOpen, Bool.and_eq_true, List.any_eq_true, decide_eq_true_eq, and_assoc]

theorem quiet_hostClears (ls : List Nat) : ∀ {s : State},
    (∀ t, hostClears s ls = .ok t → Quiet s t) ∧ ∀ w, hostClears s ls = .error w → Quiet s w := by
  induction ls with
  | nil =>
    intro s
    refine ⟨fun t h => ?_, fun w h => (by cases h)⟩
    cases h
    exact .refl s
  | cons l ls ih =>
    intro s
    have hl := quiet_homeClear (s := s) (d := trueHome s l) (line := l)
    unfold hostClears
    split
    · next w e =>
      refine ⟨fun t h => (by cases h), fun w' h => ?_⟩
      cases h
      exact hl.2 _ e
    · next u e => exact ⟨fun t h => (hl.1 u e).trans (ih.1 t h), fun w h => (hl.1 u e).trans (ih.2 w h)⟩

theorem hostByte_of_readable {s : State} {a : Nat} (h : ∃ d, d < 4 ∧ readsBad s d (a / 32) = false) :
    hostByte s a = softByte s a := by
  obtain ⟨d, hd, hgood⟩ := h
  refine if_neg fun hall => ?_
  have hbad := List.all_eq_true.mp hall d (List.mem_range.mpr hd)
  rw [hgood] at hbad
  exact Bool.false_ne_true hbad

/-! ## Bytes written at their homes -/

theorem fullPadSectors_memLocs (pa n : Nat) : fullPadSectors (memLocs pa n) = [] := by
  simp [fullPadSectors, memLocs, List.filterMap_map]

theorem cellAt_putCcOf_self (s : State) (c : Nat) : cellAt (putCcOf s (ccOf s)) c = cellAt s c := by
  by_cases hc : s.curCell = c
  · subst hc
    simp [putCcOf, putCc, ccOf, ccAt]
  · exact cellAt_putCell_other _ _ _ _ hc

theorem cellAt_healLocs_mem (s : State) (pa n c : Nat) : cellAt (healLocs s (memLocs pa n)) c = cellAt s c := by
  have hkeep : ∀ l : List Nat, l.filter (fun x => !(fullPadSectors (memLocs pa n)).contains x) = l := by simp [fullPadSectors_memLocs]
  unfold healLocs
  dsimp only
  split
  · rfl
  · rw [hkeep]
    exact cellAt_putCcOf_self _ c

theorem damagePools_eq_place (s : State) (ls : List Loc) : damagePools s ls = { s with place := (damagePools s ls).place } := by
  unfold damagePools
  split <;> rfl

theorem damagePools_of_no_hit {s : State} {ls : List Loc} (h : ∀ sp ∈ s.place.spaces, hitsPool sp ls = false) : damagePools s ls = s := by
  refine if_neg fun hc => ?_
  obtain ⟨sp, hsp, hit⟩ := List.any_eq_true.mp hc
  rw [h sp hsp] at hit
  exact Bool.false_ne_true hit

theorem hitsPool_memLocs {sp : Space} {pa n : Nat} (h : ∀ j, j < n → inPool sp (pa + j) = false) : hitsPool sp (memLocs pa n) = false := by
  simpa [hitsPool, memLocs] using h

theorem memGet_memWrite (bs : List Byte) : ∀ (s : State) (pa i : Nat) (h : i < bs.length),
    memGet (memWrite s pa bs).mem (pa + i) = bs[i] := by
  have hkeep : ∀ (l : List Byte) (t : State) (a b : Nat), b < a → memGet (memWrite t a l).mem b = memGet t.mem b := by
    intro l
    induction l with
    | nil => exact fun t a b _ => rfl
    | cons x l ih =>
      intro t a b hb
      rw [memWrite, ih _ _ _ (by omega)]
      exact memGet_memSet_other _ _ _ _ (by omega)
  induction bs with
  | nil => exact fun s pa i h => absurd h (Nat.not_lt_zero i)
  | cons b bs ih =>
    intro s pa i h
    cases i with
    | zero =>
      rw [memWrite, Nat.add_zero, hkeep _ _ _ _ (by omega)]
      exact memGet_memSet_same _ _ _
    | succ i =>
      have := ih (memPut s pa b) (pa + 1) i (Nat.lt_of_succ_lt_succ h)
      rwa [show pa + 1 + i = pa + (i + 1) by omega] at this

/-- A state with memory and what caches hold of it, the cells and the place store put back. -/
def putBack (s v : State) : State :=
  { v with mem := s.mem, dirty := s.dirty, poison := s.poison, coh := s.coh, tlbs := s.tlbs, cells := s.cells, place := s.place
           dies := { v.dies with links := s.dies.links, streams := s.dies.streams } }

theorem putBack_of_onlyMemory (s : State) {u v : State} (h : OnlyMemory u v) : putBack s v = putBack s u := by
  unfold OnlyMemory at h
  exact (congrArg (putBack s) h :)

theorem putBack_healLocs (s : State) (ls : List Loc) : putBack s (healLocs s ls) = s := by
  unfold healLocs
  dsimp only
  split <;> rfl

theorem putBack_damagePools (s u : State) (ls : List Loc) : putBack s (damagePools u ls) = putBack s u :=
  (congrArg (putBack s) (damagePools_eq_place u ls) :)

/-- What a write at the homes leaves as it was: all but memory, poison, the canonical form of the cells and records of place spaces. -/
theorem deviceWrite_only (s : State) (pa : Nat) (data : List Byte) :
    OnlyMemory s { deviceWrite s pa data with cells := s.cells, place := s.place } := by
  have h : putBack s (deviceWrite s pa data) = s := by
    rw [deviceWrite, putBack_of_onlyMemory s (memWrite_only data _ pa), putBack_damagePools, putBack_healLocs]
  exact h

theorem deviceWrite_place {s : State} {pa : Nat} {data : List Byte}
    (h : ∀ sp ∈ s.place.spaces, ∀ j, j < data.length → inPool sp (pa + j) = false) : (deviceWrite s pa data).place = s.place := by
  have hheal : (healLocs s (memLocs pa data.length)).place = s.place := by
    unfold healLocs
    dsimp only
    split <;> rfl
  have hpools : damagePools (healLocs s (memLocs pa data.length)) (memLocs pa data.length) = healLocs s (memLocs pa data.length) :=
    damagePools_of_no_hit fun sp hsp => hitsPool_memLocs (h sp (hheal ▸ hsp))
  have hwrite : (memWrite (healLocs s (memLocs pa data.length)) pa data).place = (healLocs s (memLocs pa data.length)).place :=
    (congrArg State.place (memWrite_only data _ pa) :)
  unfold deviceWrite
  dsimp only
  rw [hpools, hwrite, hheal]

theorem cellAt_deviceWrite (s : State) (pa : Nat) (data : List Byte) (c : Nat) : cellAt (deviceWrite s pa data) c = cellAt s c := by
  have hwrite : (deviceWrite s pa data).cells = (damagePools (healLocs s (memLocs pa data.length)) (memLocs pa data.length)).cells :=
    (congrArg State.cells (memWrite_only data _ pa) :)
  have hpools : (damagePools (healLocs s (memLocs pa data.length)) (memLocs pa data.length)).cells =
      (healLocs s (memLocs pa data.length)).cells := by rw [damagePools_eq_place]
  refine Eq.trans ?_ (cellAt_healLocs_mem s pa data.length c)
  unfold cellAt
  rw [hwrite, hpools]

theorem physByte_deviceWrite_other (s : State) {pa a : Nat} {data : List Byte} (h : a < pa ∨ pa + data.length ≤ a) :
    physByte (deviceWrite s pa data) a = physByte s a := by
  have hheal : physByte (healLocs s (memLocs pa data.length)) a = physByte s a := by
    unfold healLocs
    dsimp only
    split <;> rfl
  refine (physByte_memWrite_other data _ pa a h).trans ?_
  rw [damagePools_eq_place]
  exact hheal

end Sys2Proof.Machine
end

section
/-! RDMA, clause by clause (22 R389-R392, R395; 10 R232). -/

namespace Sys2Proof.Machine

open Sys2Proof.Safety

/-! ## Where an access goes -/

/-- What a host hears of an access that lies in nothing open. -/
def rdmaRefused (s : State) (key addr : Nat) : State := sentOut s [.rdmaRefused key addr]

/-- The launch window as a write leaves it, before its seals are looked at. -/
def windowWritten (s : State) (addr : Nat) (data : List Byte) : State :=
  { s with host := { s.host with window := windowWrite s.host.window addr data } }

section
variable {s : State} {key addr : Nat}

theorem exec_rdmaRead_of_cut (n : Nat) (h : hostReach s = false) : exec (.rdmaRead key addr n) s = .next s := by
  simp [exec, execRdmaRead, h]

theorem exec_rdmaWrite_of_cut (data : List Byte) (h : hostReach s = false) : exec (.rdmaWrite key addr data) s = .next s := by
  simp [exec, execRdmaWrite, h]

variable (hr : hostReach s = true)
include hr

theorem exec_rdmaRead_window {n : Nat} (hk : key = 0) (hw : s.host.open_ = true ∧ addr + n ≤ 65536) :
    exec (.rdmaRead key addr n) s =
      .next (sentOut s [.data key addr ((List.range n).map (fun i => memGet s.host.window (addr + i)))]) := by
  simp [exec, execRdmaRead, hr, hk, hw, sendOut_eq_sentOut]

theorem exec_rdmaRead_outside {n : Nat} (hk : key = 0) (hw : ¬(s.host.open_ = true ∧ addr + n ≤ 65536)) :
    exec (.rdmaRead key addr n) s = .next (rdmaRefused s key addr) := by
  have hc : ¬(s.host.open_ && decide (addr + n ≤ 65536)) = true := by simpa using hw
  simp only [exec, execRdmaRead, hr, hk, Bool.not_true, Bool.false_eq_true, if_false, if_true, if_neg hc]
  rfl

theorem exec_rdmaWrite_window {data : List Byte} (hk : key = 0) (hw : s.host.open_ = true ∧ addr + data.length ≤ 65536) :
    exec (.rdmaWrite key addr data) s = .next (sentOut (sealsSeen (windowWritten s addr data) addr data.length)
      [.ack key addr data.length]) := by
  unfold sealsSeen
  simp only [exec, execRdmaWrite]
  generalize sealedSlots addr data.length = l
  simp only [hr, hk, hw, Bool.not_true, Bool.false_eq_true, if_false, if_true, decide_true, Bool.and_self, sendOut_eq_sentOut, putHost,
    windowWritten]

theorem exec_rdmaWrite_outside {data : List Byte} (hk : key = 0) (hw : ¬(s.host.open_ = true ∧ addr + data.length ≤ 65536)) :
    exec (.rdmaWrite key addr data) s = .next (rdmaRefused s key addr) := by
  have hc : ¬(s.host.open_ && decide (addr + data.length ≤ 65536)) = true := by simpa using hw
  simp only [exec, execRdmaWrite, hr, hk, Bool.not_true, Bool.false_eq_true, if_false, if_true, if_neg hc]
  rfl

theorem exec_rdmaRead_closed {n : Nat} (hk : key ≠ 0) (ho : regionOpen s key addr n = false) :
    exec (.rdmaRead key addr n) s = .next (rdmaRefused s key addr) := by
  simp only [exec, execRdmaRead, hr, hk, ho, Bool.not_true, Bool.not_false, Bool.false_eq_true, if_false, if_true]
  rfl

theorem exec_rdmaWrite_closed {data : List Byte} (hk : key ≠ 0) (ho : regionOpen s key addr data.length = false) :
    exec (.rdmaWrite key addr data) s = .next (rdmaRefused s key addr) := by
  simp only [exec, execRdmaWrite, hr, hk, ho, Bool.not_true, Bool.not_false, Bool.false_eq_true, if_false, if_true]
  rfl

theorem exec_rdmaRead_open {n : Nat} (hk : key ≠ 0) (ho : regionOpen s key addr n = true) :
    exec (.rdmaRead key addr n) s = .next (if (physLines addr n).any (homeBusy s) then s
      else sentOut s [.data key addr ((List.range n).map (fun i => hostByte s (addr + i)))]) := by
  simp only [exec, execRdmaRead, hr, hk, ho, Bool.not_true, Bool.false_eq_true, if_false]
  split <;> rfl

theorem exec_rdmaWrite_waits {data : List Byte} {w : State} (hk : key ≠ 0) (ho : regionOpen s key addr data.length = true)
    (hc : hostClears s (physLines addr data.length) = .error w) : exec (.rdmaWrite key addr data) s = .next w := by
  simp only [exec, execRdmaWrite, hr, hk, ho, hc, Bool.not_true, Bool.false_eq_true, if_false]

theorem exec_rdmaWrite_done {data : List Byte} {u : State} (hk : key ≠ 0) (ho : regionOpen s key addr data.length = true)
    (hc : hostClears s (physLines addr data.length) = .ok u) :
    exec (.rdmaWrite key addr data) s = .next (sentOut (deviceWrite u addr data) [.ack key addr data.length]) := by
  simp only [exec, execRdmaWrite, hr, hk, ho, hc, Bool.not_true, Bool.false_eq_true, if_false]
  rfl

end

/-! ## A write to the launch window -/

/-- The state after a write to the launch window. -/
def windowDone (s : State) (key addr : Nat) (data : List Byte) : State :=
  sentOut (sealsSeen (windowWritten s addr data) addr data.length) [.ack key addr data.length]

section
variable (s : State) (key addr : Nat) (data : List Byte)

theorem windowDone_window : (windowDone s key addr data).host.window = windowWrite s.host.window addr data :=
  (onlySeals_sealsSeen (windowWritten s addr data) addr data.length).window

theorem windowDone_rest : { windowDone s key addr data with host := { (windowDone s key addr data).host with
    window := s.host.window, slots := s.host.slots, seals := s.host.seals, sent := s.host.sent } } = s :=
  (congrArg (fun v : State => { v with host := { v.host with window := s.host.window, sent := s.host.sent } })
    (onlySeals_sealsSeen (windowWritten s addr data) addr data.length).1 :)

theorem windowDone_sent : (windowDone s key addr data).host.sent = s.host.sent ++ [.ack key addr data.length] :=
  congrArg (· ++ _) (onlySeals_sealsSeen (windowWritten s addr data) addr data.length).sent

theorem windowDone_byte (a : Nat) : memGet (windowDone s key addr data).host.window a =
    if addr ≤ a then data.getD (a - addr) (memGet s.host.window a) else memGet s.host.window a := by
  rw [windowDone_window, memGet_windowWrite]

/-- A record in the window after a write: its SEQ is that of its last word. -/
theorem sealTaken_windowWritten_iff (i : Nat) : SealTaken (windowWritten s addr data) i ↔
    (winSlot s i).st = .free ∧ (winSlot s i).lastSeq ≠
      some (LaunchRec.seq (windowRecord (windowDone s key addr data).host.window i)) := by
  rw [windowDone_window]
  rfl

theorem windowDone_slot_taken {i : Nat} (hi : i ∈ sealedSlots addr data.length) (ht : SealTaken (windowWritten s addr data) i) :
    ∃ o, s.host.seals ≤ o ∧ o < (windowDone s key addr data).host.seals ∧ tabGet WinSlot.fresh (windowDone s key addr data).host.slots i =
      takenUp (winSlot s i) (windowRecord (windowDone s key addr data).host.window i) o := by
  rw [windowDone_window]
  exact winSlot_sealsSeen_of_taken hi ht

theorem windowDone_slot_kept {i : Nat} (h : ¬(i ∈ sealedSlots addr data.length ∧ SealTaken (windowWritten s addr data) i)) :
    tabGet WinSlot.fresh (windowDone s key addr data).host.slots i = winSlot s i :=
  winSlot_sealsSeen_of_kept h

end

/-- The SEQ of a seal is the high half of the last word. -/
theorem launchRec_seq_eq (r : LaunchRec) : LaunchRec.seq r = (r[15] >>> 32).setWidth 32 := by
  refine BitVec.eq_of_toNat_eq ?_
  have := r[15].isLt
  rw [seq_toNat]
  simp only [BitVec.toNat_setWidth, BitVec.toNat_ushiftRight, Nat.shiftRight_eq_div_pow]
  omega

/-! ## A write to an open region -/

/-- The state after a write to an open region. -/
def regionDone (u : State) (key addr : Nat) (data : List Byte) : State :=
  sentOut (deviceWrite u addr data) [.ack key addr data.length]

section
variable {s u : State} (hq : Quiet s u) (key addr : Nat) (data : List Byte)

theorem regionDone_host : (regionDone u key addr data).host =
    { u.host with sent := u.host.sent ++ [.ack key addr data.length] } := by
  have h : (deviceWrite u addr data).host = u.host := (congrArg State.host (deviceWrite_only u addr data) :)
  simp only [regionDone, sentOut, h]

include hq

theorem Quiet.host : u.host = s.host := (congrArg State.host hq.only :)

theorem regionDone_only : OnlyMemory s { regionDone u key addr data with cells := s.cells, host := s.host, place := s.place } := by
  have hput : putBack s (deviceWrite u addr data) = s := by
    have h := (congrArg (putBack s) (deviceWrite_only u addr data) :)
    exact h.trans ((putBack_of_onlyMemory s hq.only).trans rfl)
  exact (congrArg (fun v : State => { v with host := s.host }) hput :)

theorem regionDone_sameSlots : SameSlots s (regionDone u key addr data) := by
  intro c k
  have h : (regionDone u key addr data).slots = s.slots := (congrArg State.slots (regionDone_only hq key addr data) :)
  unfold slotAt
  rw [h]

end

/-! ## The clauses together -/

theorem rdmaWrite_window_slot (s : State) (key addr : Nat) (data : List Byte) {i : Nat} (hi : i < 512) :
    ∃ o, tabGet WinSlot.fresh (windowDone s key addr data).host.slots i =
      if addr ≤ 128 * i + 127 ∧ 128 * i + 127 < addr + data.length ∧ (winSlot s i).st = .free ∧ (winSlot s i).lastSeq ≠
          some (LaunchRec.seq (windowRecord (windowDone s key addr data).host.window i)) then
        takenUp (winSlot s i) (windowRecord (windowDone s key addr data).host.window i) o
      else winSlot s i := by
  have hiff : (i ∈ sealedSlots addr data.length ∧ SealTaken (windowWritten s addr data) i) ↔
      addr ≤ 128 * i + 127 ∧ 128 * i + 127 < addr + data.length ∧ (winSlot s i).st = .free ∧ (winSlot s i).lastSeq ≠
          some (LaunchRec.seq (windowRecord (windowDone s key addr data).host.window i)) := by
    rw [mem_sealedSlots, sealTaken_windowWritten_iff s key addr data i]
    exact ⟨fun h => ⟨h.1.2.1, h.1.2.2, h.2⟩, fun h => ⟨⟨hi, h.1, h.2.1⟩, h.2.2⟩⟩
  by_cases h : i ∈ sealedSlots addr data.length ∧ SealTaken (windowWritten s addr data) i
  · obtain ⟨o, -, -, heq⟩ := windowDone_slot_taken s key addr data h.1 h.2
    exact ⟨o, by rw [if_pos (hiff.mp h), heq]⟩
  · exact ⟨0, by rw [if_neg (mt hiff.mpr h), windowDone_slot_kept s key addr data h]⟩

theorem windowRecord_last (m : List Host.Cell) (i : Nat) : (windowRecord m i)[15] =
    BitVec.ofNat 64 (natOf ((List.range 8).map (fun b => memGet m (128 * i + 8 * 15 + b)))) := by
  simp only [windowRecord, Vector.getElem_ofFn]

/-- RDMA, clause by clause. -/
theorem remoteAccess : Claims.RemoteAccess := by
  intro s u w key addr n i data reach open_ there window refused busy clears x byte word
  have hreach : reach ↔ hostReach s = true := (hostReach_iff s).symm
  have hregion : ∀ m, open_ m ∧ there m ↔ regionOpen s key addr m = true := fun m => (regionOpen_iff s key addr m).symm
  have hclosed : ∀ m, ¬(open_ m ∧ there m) → regionOpen s key addr m = false := fun m h =>
    Bool.eq_false_iff.mpr (mt (hregion m).mpr h)
  have hbusy : busy n ↔ (physLines addr n).any (homeBusy s) = true := List.any_eq_true.symm
  have hseq : ∀ t : State, (word t 15 >>> 32).setWidth 32 = LaunchRec.seq (windowRecord t.host.window i) := fun t => by
    rw [launchRec_seq_eq, windowRecord_last]
  refine ⟨fun h => ?_, fun a h => hostByte_of_readable h, fun h => ?_⟩
  · have hcut : hostReach s = false := Bool.eq_false_iff.mpr (mt hreach.mpr h)
    exact ⟨exec_rdmaRead_of_cut n hcut, exec_rdmaWrite_of_cut data hcut⟩
  · have hr : hostReach s = true := hreach.mp h
    refine ⟨exec_rdmaRead_outside hr, exec_rdmaWrite_outside hr, exec_rdmaRead_window hr, fun hk hw hi => ?_,
      fun hk hw hi hlo hhi hfree t ht hnew => ?_, fun hk ho => exec_rdmaRead_closed hr hk (hclosed n ho),
      fun hk ho => exec_rdmaWrite_closed hr hk (hclosed _ ho), fun hk ho ht hb => ?_, fun hk ho ht hb => ?_, fun hk ho ht hc => ?_,
      fun hk ho ht hc => ?_⟩
    · obtain ⟨o, ho⟩ := rdmaWrite_window_slot s key addr data hi
      refine ⟨windowDone s key addr data, o, exec_rdmaWrite_window hr hk hw, windowDone_rest s key addr data, windowDone_sent s key addr data,
        (onlySeals_sealsSeen (windowWritten s addr data) addr data.length).2, windowDone_byte s key addr data, ?_⟩
      rw [hseq]
      exact ho
    · rw [exec_rdmaWrite_window hr hk hw] at ht
      cases ht
      rw [hseq] at hnew
      obtain ⟨o, hle, hlt, heq⟩ := windowDone_slot_taken s key addr data ((mem_sealedSlots _ _ _).mpr ⟨hi, hlo, hhi⟩)
        ((sealTaken_windowWritten_iff s key addr data i).mpr ⟨hfree, hnew⟩)
      have horder : (tabGet WinSlot.fresh (windowDone s key addr data).host.slots i).order = o := by rw [heq]; rfl
      intro o'
      have ho' : o' = o := horder
      rw [ho']
      exact ⟨hle, hlt⟩
    · rw [exec_rdmaRead_open hr hk ((hregion n).mp ⟨ho, ht⟩), if_pos (hbusy.mp hb)]
    · rw [exec_rdmaRead_open hr hk ((hregion n).mp ⟨ho, ht⟩), if_neg (mt hbusy.mpr hb)]
      rfl
    · have hq := (quiet_hostClears _).2 w hc
      exact ⟨exec_rdmaWrite_waits hr hk ((hregion _).mp ⟨ho, ht⟩) hc, hq.only, hq.bytes⟩
    · have hq := (quiet_hostClears _).1 u hc
      have hhost := regionDone_host (u := u) key addr data
      rw [hq.host] at hhost
      refine ⟨regionDone u key addr data, exec_rdmaWrite_done hr hk ((hregion _).mp ⟨ho, ht⟩) hc, regionDone_sameSlots hq key addr data,
        fun c => (cellAt_deviceWrite u addr data c).trans (hq.cellAt c), regionDone_only hq key addr data, fun hpool => ?_, ?_, ?_,
        fun j hj => ?_, fun a ha => ?_⟩
      · have hplace : (deviceWrite u addr data).place = u.place := deviceWrite_place (by rw [hq.place]; exact hpool)
        exact hplace.trans hq.place
      · rw [hhost]
      · rw [hhost]
      · rw [List.getD_eq_getElem _ _ hj]
        exact ⟨physByte_memWrite_at data _ addr j hj, memGet_memWrite data _ addr j hj⟩
      · exact (physByte_deviceWrite_other u ha).trans (hq.bytes a)

end Sys2Proof.Machine
end

section
/-! The checks of a launch record, and the part of a launch that this package takes up (22 R393-R395, R399). -/

namespace Sys2Proof.Machine

/-! ## Words of a record (22 R393) -/

theorem bitsOf_top_ne_zero_iff (x : Word) (k : Nat) (hk : k ≤ 63) : bitsOf x 63 k ≠ 0 ↔ 2 ^ k ≤ x.toNat := by
  have hx : x.toNat < 2 ^ k * 2 ^ (64 - k) := by
    rw [← Nat.pow_add, show k + (64 - k) = 64 by omega]
    exact x.isLt
  have hlt : x.toNat / 2 ^ k < 2 ^ (63 + 1 - k) := Nat.div_lt_of_lt_mul hx
  rw [bitsOf, Nat.mod_eq_of_lt hlt, ne_eq, Nat.div_eq_zero_iff_lt (by positivity), not_lt]

/-- Whether a reserved bit of a record is set (22 R393). -/
def ReservedSet (r : LaunchRec) : Prop :=
  2 ^ 45 ≤ r[0].toNat ∨ r[0].toNat % 2 ^ 6 ≠ 0 ∨ 2 ^ 55 ≤ r[1].toNat ∨ r[1].toNat % 2 ^ 16 ≠ 0 ∨ 2 ^ 55 ≤ r[3].toNat ∨
    r[3].toNat / 2 ^ 22 % 2 ^ 10 ≠ 0 ∨ r[4].toNat / 2 ^ 39 % 2 ^ 5 ≠ 0 ∨ r[4].toNat / 2 ^ 34 % 2 ^ 2 ≠ 0 ∨ 2 ^ 55 ≤ r[5].toNat ∨
    r[5].toNat % 2 ^ 4 ≠ 0 ∨ r[6].toNat / 2 ^ 32 % 2 ^ 16 ≠ 0 ∨ r[15].toNat % 2 ^ 32 ≠ 0

theorem bitsOf_low (x : Word) (k : Nat) : bitsOf x k 0 = x.toNat % 2 ^ (k + 1) := by simp [bitsOf]

theorem recordReserved_iff (r : LaunchRec) : recordReserved r = true ↔ ReservedSet r := by
  simp only [recordReserved, ReservedSet, Bool.or_eq_true, bne_iff_ne, or_assoc]
  rw [bitsOf_top_ne_zero_iff r[0] 45 (by decide), bitsOf_top_ne_zero_iff r[1] 55 (by decide), bitsOf_top_ne_zero_iff r[3] 55 (by decide),
    bitsOf_top_ne_zero_iff r[5] 55 (by decide)]
  simp only [bitsOf_low]
  rfl

theorem launchRec_entry_eq (r : LaunchRec) : LaunchRec.entry r = r[2].toNat % 2 ^ 32 := bitsOf_low _ _

theorem launchRec_lim_eq (r : LaunchRec) : LaunchRec.lim r = r[2].toNat / 2 ^ 32 := by
  have := r[2].isLt
  simp only [LaunchRec.lim, bitsOf]
  omega

theorem launchRec_first_eq (r : LaunchRec) : LaunchRec.first r = r[3].toNat % 2 ^ 22 := bitsOf_low _ _

theorem launchRec_count_eq (r : LaunchRec) : LaunchRec.count r = r[3].toNat / 2 ^ 32 % 2 ^ 23 := rfl

/-- Whether a record is not well formed (22 R394). -/
def RecordBad (s : State) (r : LaunchRec) : Prop :=
  ReservedSet r ∨ LaunchRec.count r = 0 ∨ 4194304 < LaunchRec.first r + LaunchRec.count r ∨ 5 ≤ r[4].toNat / 2 ^ 36 % 2 ^ 3 ∨
    r[4].toNat / 2 ^ 32 % 2 ^ 2 = 3 ∨ carveBad (LaunchRec.carve r) = true ∨ r[2].toNat / 2 ^ 32 ≤ r[2].toNat % 2 ^ 32 ∨
    tabFind s.host.endpoints (r[6].toNat / 2 ^ 48) = none

theorem recordBad_iff (s : State) (r : LaunchRec) : recordBad s r = true ↔ RecordBad s r := by
  simp only [recordBad, RecordBad, Bool.or_eq_true, decide_eq_true_eq, or_assoc, recordReserved_iff, launchRec_lim_eq, launchRec_entry_eq,
    endpointOf, cep_eq, Option.isNone_iff_eq_none]
  rfl

/-! ## The packages of a launch (22 R394) -/

/-- The package of the last cell of a launch. -/
def lastPkg (r : LaunchRec) : Nat := (LaunchRec.first r + LaunchRec.count r - 1) / 1024

theorem mem_otherPkgs (s : State) (r : LaunchRec) (p : Nat) :
    p ∈ otherPkgs s r ↔ LaunchRec.first r / 1024 ≤ p ∧ p ≤ lastPkg r ∧ p ≠ myPkg s := by
  simp only [otherPkgs, List.mem_filter, List.mem_map, List.mem_range, bne_iff_ne, ne_eq, lastPkg, LaunchRec.firstPkg, ← and_assoc]
  refine and_congr_left' ⟨?_, fun h => ⟨p - LaunchRec.first r / 1024, ?_, ?_⟩⟩
  · rintro ⟨i, hi, rfl⟩
    omega
  · omega
  · omega

theorem otherPkgs_of_one {s : State} {r : LaunchRec} {p : Nat} (hf : LaunchRec.first r / 1024 = p) (hl : lastPkg r = p) :
    otherPkgs s r = if p = myPkg s then [] else [p] := by
  have hlen : (LaunchRec.first r + LaunchRec.count r - 1) / 1024 + 1 - LaunchRec.firstPkg r = 1 := by
    simp only [LaunchRec.firstPkg, lastPkg] at hl ⊢
    omega
  have hfirst : LaunchRec.firstPkg r = p := hf
  rw [otherPkgs, hlen, hfirst]
  by_cases h : p = myPkg s <;> simp [h]

theorem otherPkgs_ne_nil {s : State} {r : LaunchRec} (hc : LaunchRec.count r ≠ 0)
    (h : LaunchRec.first r / 1024 ≠ myPkg s ∨ lastPkg r ≠ myPkg s) : otherPkgs s r ≠ [] := by
  have hle : LaunchRec.first r / 1024 ≤ lastPkg r := Nat.div_le_div_right (by omega)
  rcases h with h | h
  · exact List.ne_nil_of_mem ((mem_otherPkgs s r _).mpr ⟨Nat.le_refl _, hle, h⟩)
  · exact List.ne_nil_of_mem ((mem_otherPkgs s r _).mpr ⟨hle, Nat.le_refl _, h⟩)

theorem hasPart_of_one {r : LaunchRec} {p : Nat} (q : Nat) (hc : LaunchRec.count r ≠ 0) (hf : LaunchRec.first r / 1024 = p)
    (hl : lastPkg r = p) : LaunchRec.hasPart r q = decide (q = p) := by
  unfold lastPkg at hl
  simp only [LaunchRec.hasPart, LaunchRec.lo, LaunchRec.hi]
  refine decide_eq_decide.mpr ⟨fun h => ?_, fun h => ?_⟩ <;> omega

/-! ## The check of a part (22 R394) -/

theorem partStatus_of_no_cell {s : State} {r : LaunchRec} (h : ∃ c ∈ LaunchRec.cells r (myPkg s), cellCount s ≤ c) :
    partStatus s r = some 1 := by
  refine if_pos (List.any_eq_true.mpr ?_)
  obtain ⟨c, hc, hn⟩ := h
  exact ⟨c, hc, decide_eq_true hn⟩

theorem partStatus_of_cells {s : State} {r : LaunchRec} (h : ∀ c ∈ LaunchRec.cells r (myPkg s), c < cellCount s) :
    partStatus s r = match partDescriptor s r with
      | none => some 2
      | some w => if (readList s w r).isNone then some 1 else none := by
  refine if_neg fun hany => ?_
  obtain ⟨c, hc, hn⟩ := List.any_eq_true.mp hany
  exact absurd (of_decide_eq_true hn) (Nat.not_le.mpr (h c hc))

theorem readDescriptor_putWin (s : State) (n : Nat) (x : WinSlot) (addr : Nat) :
    readDescriptor (putWin s n x) addr = readDescriptor s addr := rfl

theorem walk_putWin (s : State) (n : Nat) (x : WinSlot) (id : BitVec 16) (root a : Nat) :
    walk (putWin s n x) id root a = walk s id root a := rfl

theorem readList_putWin (s : State) (n : Nat) (x : WinSlot) (w : BitVec 512) (r : LaunchRec) :
    readList (putWin s n x) w r = readList s w r := by
  simp only [readList, walk_putWin]
  rfl

theorem partDescriptor_putWin (s : State) (n : Nat) (x : WinSlot) (r : LaunchRec) :
    partDescriptor (putWin s n x) r = partDescriptor s r := by
  simp only [partDescriptor, readDescriptor_putWin]
  rfl

theorem partStatus_putWin (s : State) (n : Nat) (x : WinSlot) (r : LaunchRec) : partStatus (putWin s n x) r = partStatus s r := by
  simp only [partStatus, partDescriptor_putWin, readList_putWin]
  rfl

/-! ## A record parsed (22 R394) -/

/-- The part that a record adds (22 R394, R395). -/
def newPart (s : State) (accepting : Nat) (slot : Fin 512) (r : LaunchRec) (order : Nat) : Part where
  accepting := accepting
  slot := slot
  record := r
  order := order
  ctxid := none
  stage := match partStatus s r with
    | some st => .rejected st s.stime
    | none => .latched
  waked := []
  lost := 0
  base := (0, 0, 0)
  carried := (0, 0, 0)

theorem addPart_eq (s : State) (accepting : Nat) (slot : Fin 512) (r : LaunchRec) (order : Nat) :
    addPart s accepting slot r order = putParts s (s.host.parts ++ [newPart s accepting slot r order]) := rfl

theorem newPart_putWin (s : State) (n : Nat) (x : WinSlot) (accepting : Nat) (slot : Fin 512) (r : LaunchRec) (order : Nat) :
    newPart (putWin s n x) accepting slot r order = newPart s accepting slot r order := by
  simp only [newPart, partStatus_putWin]
  rfl

/-- Whether a dispatcher is there that parses records. -/
def Parser (s : State) : Prop := ∃ d : Fin 4, dispatcherUp s d = true

theorem parser_iff (s : State) : (List.finRange 4).any (dispatcherUp s) = true ↔ Parser s := by
  simp [Parser]

section
variable {s : State} {n : Fin 512}

theorem exec_launchParse_of_idle (h : (winSlot s n.val).st ≠ .parsed ∨ ¬Parser s) : exec (.launchParse n) s = .next s := by
  refine if_pos ?_
  rw [Bool.or_eq_true, Bool.or_eq_true, bne_iff_ne, Bool.not_eq_true', ← Bool.not_eq_true, parser_iff]
  exact .inl h

theorem exec_launchParse_of_cut (h : mayParse s (winSlot s n.val).record = false) : exec (.launchParse n) s = .next s := by
  refine if_pos ?_
  rw [Bool.or_eq_true, h]
  exact .inr rfl

variable (hst : (winSlot s n.val).st = .parsed) (hup : Parser s) (hm : mayParse s (winSlot s n.val).record = true)
include hst hup hm

theorem exec_launchParse_of_ready : exec (.launchParse n) s =
    if recordBad s (winSlot s n.val).record then .next (writeCompletion (putWin s n.val { winSlot s n.val with st := .free })
      (winSlot s n.val).record 0 (completionWords 1 (myPkg s) n (LaunchRec.seq (winSlot s n.val).record) s.stime 0 0 0 0))
    else if LaunchRec.hasPart (winSlot s n.val).record (myPkg s) && partHeld s (winSlot s n.val).record then .next s
    else
      let s1 := forwardRecord (putWin s n.val { winSlot s n.val with st := .held, notices := [] }) n (winSlot s n.val).record
      .next (if LaunchRec.hasPart (winSlot s n.val).record (myPkg s) then
          addPart s1 (myPkg s) n (winSlot s n.val).record (winSlot s n.val).order
        else freeWin (putWin s1 n.val { winSlot s1 n.val with st := .run }) n.val) := by
  refine if_neg ?_
  rw [Bool.or_eq_true, Bool.or_eq_true, bne_iff_ne, Bool.not_eq_true', ← Bool.not_eq_true, parser_iff, hm]
  rintro ((h | h) | h)
  · exact h hst
  · exact h hup
  · exact Bool.false_ne_true h

theorem exec_launchParse_of_bad (hb : recordBad s (winSlot s n.val).record = true) : exec (.launchParse n) s =
    .next (writeCompletion (putWin s n.val { winSlot s n.val with st := .free }) (winSlot s n.val).record 0
      (completionWords 1 (myPkg s) n (LaunchRec.seq (winSlot s n.val).record) s.stime 0 0 0 0)) := by
  rw [exec_launchParse_of_ready hst hup hm, if_pos hb]

variable (hb : recordBad s (winSlot s n.val).record = false)
include hb

theorem exec_launchParse_of_held (hp : LaunchRec.hasPart (winSlot s n.val).record (myPkg s) = true)
    (hh : partHeld s (winSlot s n.val).record = true) : exec (.launchParse n) s = .next s := by
  rw [exec_launchParse_of_ready hst hup hm, if_neg (by rw [hb]; exact Bool.false_ne_true), if_pos (by rw [hp, hh]; rfl)]

theorem exec_launchParse_of_own (hp : LaunchRec.hasPart (winSlot s n.val).record (myPkg s) = true)
    (hh : partHeld s (winSlot s n.val).record = false) (ho : otherPkgs s (winSlot s n.val).record = []) :
    exec (.launchParse n) s = .next (putParts (putWin s n.val { winSlot s n.val with st := .held, notices := [] })
      (s.host.parts ++ [newPart s (myPkg s) n (winSlot s n.val).record (winSlot s n.val).order])) := by
  have hforward : forwardRecord (putWin s n.val { winSlot s n.val with st := .held, notices := [] }) n (winSlot s n.val).record =
      putWin s n.val { winSlot s n.val with st := .held, notices := [] } :=
    congrArg (List.foldl _ _) (show otherPkgs (putWin s n.val _) _ = [] from ho)
  rw [exec_launchParse_of_ready hst hup hm, if_neg (by rw [hb]; exact Bool.false_ne_true), if_neg (by rw [hh, Bool.and_false]; exact Bool.false_ne_true)]
  dsimp only
  rw [if_pos hp, hforward, addPart_eq, newPart_putWin]
  rfl

theorem exec_launchParse_of_other (hp : LaunchRec.hasPart (winSlot s n.val).record (myPkg s) = false) :
    exec (.launchParse n) s =
      (let s1 := forwardRecord (putWin s n.val { winSlot s n.val with st := .held, notices := [] }) n (winSlot s n.val).record
      .next (freeWin (putWin s1 n.val { winSlot s1 n.val with st := .run }) n.val)) := by
  rw [exec_launchParse_of_ready hst hup hm, if_neg (by rw [hb]; exact Bool.false_ne_true), if_neg (by rw [hp]; exact Bool.false_ne_true)]
  dsimp only
  rw [if_neg (by rw [hp]; exact Bool.false_ne_true)]

end

/-! ## A record for another package alone -/

/-- One window slot put and something sent out; nothing else has changed. -/
structure SlotSent (s t : State) (n : Nat) (y : WinSlot) (l : List Outgoing) : Prop where
  rest : { t with host := { t.host with slots := s.host.slots, sent := s.host.sent } } = s
  sent : t.host.sent = s.host.sent ++ l
  slot : ∀ j, tabGet WinSlot.fresh t.host.slots j = if j = n then y else tabGet WinSlot.fresh s.host.slots j

namespace SlotSent

variable {s t : State} {n : Nat} {x y : WinSlot} {l : List Outgoing}

theorem refl (s : State) (n : Nat) : SlotSent s s n (winSlot s n) [] where
  rest := rfl
  sent := (List.append_nil _).symm
  slot j := by
    split
    · next h => rw [h]; rfl
    · rfl

theorem putWin (h : SlotSent s t n x l) (y : WinSlot) : SlotSent s (putWin t n y) n y l where
  rest := h.rest
  sent := h.sent
  slot j := by
    rw [winSlot_putWin]
    split
    · rfl
    · next hj => exact (h.slot j).trans (if_neg hj)

theorem sentOut (h : SlotSent s t n y l) (m : List Outgoing) : SlotSent s (sentOut t m) n y (l ++ m) where
  rest := h.rest
  sent := (congrArg (· ++ m) h.sent).trans (List.append_assoc _ _ _)
  slot := h.slot

theorem winSlot_eq (h : SlotSent s t n y l) : winSlot t n = y := (h.slot n).trans (if_pos rfl)

theorem plat (h : SlotSent s t n y l) : t.plat = s.plat := (congrArg State.plat h.rest :)

theorem stime (h : SlotSent s t n y l) : t.stime = s.stime := (congrArg State.stime h.rest :)

theorem parts (h : SlotSent s t n y l) : t.host.parts = s.host.parts := (congrArg (fun v : State => v.host.parts) h.rest :)

theorem peers (h : SlotSent s t n y l) : t.host.peers = s.host.peers := (congrArg (fun v : State => v.host.peers) h.rest :)

theorem endpoints (h : SlotSent s t n y l) : t.host.endpoints = s.host.endpoints :=
  (congrArg (fun v : State => v.host.endpoints) h.rest :)

theorem myPkg_eq (h : SlotSent s t n y l) : myPkg t = myPkg s := by rw [myPkg, h.plat, myPkg]

theorem otherPkgs_eq (h : SlotSent s t n y l) (r : LaunchRec) : otherPkgs t r = otherPkgs s r := by
  rw [otherPkgs, otherPkgs, h.myPkg_eq]

theorem winDone_iff (h : SlotSent s t n y l) : WinDone t n ↔
    y.st ≠ .parsed ∧ y.notices = [] ∧ ¬∃ q ∈ s.host.parts, q.accepting = myPkg s ∧ q.slot.val = n := by
  rw [WinDone, h.winSlot_eq, h.parts, h.myPkg_eq]
  simp only [not_exists, not_and]

theorem freeWin_of_done (h : SlotSent s t n y l) (hd : WinDone t n) : SlotSent s (freeWin t n) n { y with st := .free } l where
  rest := (congrArg (fun v : State => { v with host := { v.host with slots := s.host.slots, sent := s.host.sent } })
    (freeWin_rest t n) :).trans h.rest
  sent := (congrArg (fun v : State => v.host.sent) (freeWin_rest t n) :).trans h.sent
  slot j := by
    by_cases hj : j = n
    · rw [hj, winSlot_freeWin_of_done hd, if_pos rfl, h.winSlot_eq]
    · rw [winSlot_freeWin_other t hj, if_neg hj]
      exact (h.slot j).trans (if_neg hj)

/-- A slot put in RUN, and FREE again where nothing is owed. -/
theorem run (h : SlotSent s t n y l) : SlotSent s (freeWin (Machine.putWin t n { winSlot t n with st := .run }) n) n
    { y with st := if y.notices ≠ [] ∨ ∃ q ∈ s.host.parts, q.accepting = myPkg s ∧ q.slot.val = n then .run else .free } l := by
  have hrun := h.putWin { winSlot t n with st := .run }
  rw [h.winSlot_eq] at hrun ⊢
  have hdone := hrun.winDone_iff
  simp only [ne_eq, reduceCtorEq, not_false_eq_true, true_and] at hdone
  by_cases hd : y.notices ≠ [] ∨ ∃ q ∈ s.host.parts, q.accepting = myPkg s ∧ q.slot.val = n
  · rw [if_pos hd, freeWin_of_not_done fun hw => hd.elim (fun k => k (hdone.mp hw).1) (hdone.mp hw).2]
    exact hrun
  · rw [not_or, not_not] at hd
    rw [if_neg (by rw [not_or, not_not]; exact hd)]
    exact hrun.freeWin_of_done (hdone.mpr hd)

end SlotSent

theorem completionWords_of {status : BitVec 8} {seq : BitVec 32} {cells aborts kills undeliv m q : Nat} {w2 w3 : Word} (pkg : Nat)
    (slot : Fin 512) (end_ : Word) (hm : status.toNat = m) (hq : seq.toNat = q)
    (h2 : BitVec.ofNat 64 (sat32 aborts * 2 ^ 32 + sat32 kills) = w2) (h3 : BitVec.ofNat 64 (sat32 undeliv * 2 ^ 32 + sat32 cells) = w3) :
    completionWords status pkg slot seq end_ cells aborts kills undeliv =
      #v[BitVec.ofNat 64 (q * 2 ^ 32 + slot.val * 2 ^ 23 + pkg * 2 ^ 8 + m), end_, w2, w3] := by
  subst hm hq h2 h3
  rfl

theorem sat32_zero : sat32 0 = 0 := Nat.zero_min _

theorem noCounts : BitVec.ofNat 64 (sat32 0 * 2 ^ 32 + sat32 0) = 0 := by
  rw [sat32_zero, Nat.zero_mul]
  rfl

/-- The words of a completion record that tells of a rejection by the first checks (22 R399). -/
theorem completionWords_rejection (s : State) (n : Fin 512) (r : LaunchRec) :
    completionWords 1 (myPkg s) n (LaunchRec.seq r) s.stime 0 0 0 0 =
      #v[BitVec.ofNat 64 (r[15].toNat / 2 ^ 32 * 2 ^ 32 + n.val * 2 ^ 23 + s.plat.pkg.toNat * 2 ^ 8 + 1), s.stime, 0, 0] :=
  completionWords_of _ _ _ (by decide) (seq_toNat r) noCounts noCounts

/-- What leaves the package when a record is rejected by the first checks. -/
def rejectionSent (s : State) (n : Fin 512) (r : LaunchRec) : List Outgoing :=
  completionSent s r 0 (completionWords 1 (myPkg s) n (LaunchRec.seq r) s.stime 0 0 0 0)

theorem rejectionSent_of_endpoint {s : State} {n : Fin 512} {r : LaunchRec} {fabric key : Word}
    (h : tabFind s.host.endpoints (r[6].toNat / 2 ^ 48) = some (fabric, key)) : rejectionSent s n r = [.completion fabric key r[14]
      #v[BitVec.ofNat 64 (r[15].toNat / 2 ^ 32 * 2 ^ 32 + n.val * 2 ^ 23 + s.plat.pkg.toNat * 2 ^ 8 + 1), s.stime, 0, 0]] := by
  rw [← cep_eq] at h
  simp only [rejectionSent, completionSent, h, Nat.mul_zero, BitVec.add_zero]
  rw [completionWords_rejection]

theorem rejectionSent_of_no_endpoint {s : State} {n : Fin 512} {r : LaunchRec}
    (h : tabFind s.host.endpoints (r[6].toNat / 2 ^ 48) = none) : rejectionSent s n r = [] := by
  rw [← cep_eq] at h
  simp only [rejectionSent, completionSent, h]

theorem forwardRecord_sent {s u : State} {n : Fin 512} {y : WinSlot} {l : List Outgoing} {r : LaunchRec} {p : Nat} {peer : Word}
    (h : SlotSent s u n.val y l) (ho : otherPkgs s r = [p]) (hp : tabFind s.host.peers p = some peer) :
    SlotSent s (forwardRecord u n r) n.val { y with notices := y.notices ++ [p] } (l ++ [.launch peer p n r]) := by
  have hsent := (h.sentOut [.launch peer p n r]).putWin { y with notices := y.notices ++ [p] }
  rw [← h.otherPkgs_eq] at ho
  rw [← h.peers] at hp
  rw [← h.winSlot_eq] at hsent
  simp only [forwardRecord, ho, List.foldl_cons, List.foldl_nil, peerOf, hp, ← h.winSlot_eq]
  exact hsent

theorem forwardRecord_unreachable {s u : State} {n : Fin 512} {y : WinSlot} {l : List Outgoing} {r : LaunchRec} {p : Nat}
    (h : SlotSent s u n.val y l) (ho : otherPkgs s r = [p]) (hfirst : LaunchRec.firstPkg r = p) (hp : tabFind s.host.peers p = none) :
    SlotSent s (forwardRecord u n r) n.val y (l ++ rejectionSent s n r) := by
  have hsent := h.sentOut (rejectionSent s n r)
  rw [← h.otherPkgs_eq] at ho
  rw [← h.peers] at hp
  simp only [forwardRecord, ho, List.foldl_cons, List.foldl_nil, peerOf, hp, hfirst, Nat.sub_self, writeCompletion_eq, completionSent,
    h.endpoints, h.myPkg_eq, h.stime]
  exact hsent

section
variable {s : State} {n : Fin 512} {p : Nat} (hst : (winSlot s n.val).st = .parsed) (hup : Parser s)
  (hm : mayParse s (winSlot s n.val).record = true) (hb : recordBad s (winSlot s n.val).record = false)
  (hp : LaunchRec.hasPart (winSlot s n.val).record (myPkg s) = false) (ho : otherPkgs s (winSlot s n.val).record = [p])
include hst hup hm hb hp ho

theorem exec_launchParse_of_sent {peer : Word} (hpeer : tabFind s.host.peers p = some peer) : ∃ t, exec (.launchParse n) s = .next t ∧
    SlotSent s t n.val { winSlot s n.val with st := .run, notices := [p] } [.launch peer p n (winSlot s n.val).record] := by
  have hheld := (SlotSent.refl s n.val).putWin { winSlot s n.val with st := .held, notices := [] }
  have hrun := (forwardRecord_sent hheld ho hpeer).run
  rw [if_pos (.inl (List.cons_ne_nil _ _))] at hrun
  exact ⟨_, exec_launchParse_of_other hst hup hm hb hp, hrun⟩

theorem exec_launchParse_of_unreachable (hfirst : LaunchRec.firstPkg (winSlot s n.val).record = p)
    (hpeer : tabFind s.host.peers p = none) : ∃ t, exec (.launchParse n) s = .next t ∧ SlotSent s t n.val
      { winSlot s n.val with
        notices := [], st := if ∃ q ∈ s.host.parts, q.accepting = myPkg s ∧ q.slot = n then .run else .free }
      (rejectionSent s n (winSlot s n.val).record) := by
  have hheld := (SlotSent.refl s n.val).putWin { winSlot s n.val with st := .held, notices := [] }
  have hrun := (forwardRecord_unreachable hheld ho hfirst hpeer).run
  simp only [ne_eq, not_true_eq_false, false_or, ← Fin.ext_iff] at hrun
  exact ⟨_, exec_launchParse_of_other hst hup hm hb hp, hrun⟩

end

/-! ## A forwarded record (22 R394) -/

theorem exec_launchForward_of_ready {s : State} {pkg : Nat} {n : Fin 512} {q : LaunchRec} (hbrought : s.plat.brought = true)
    (hr : hostReach s = true) (hpkg : pkg ≠ myPkg s) (hp : LaunchRec.hasPart q (myPkg s) = true) (hh : partHeld s q = false) :
    exec (.launchForward pkg n q) s = .next { s with host := { s.host with
      parts := s.host.parts ++ [newPart s pkg n q s.host.seals], seals := s.host.seals + 1 } } := by
  refine (if_neg ?_).trans rfl
  simp [hbrought, hr, hpkg, hp, hh]

theorem exec_launchForward_of_not {s : State} {pkg : Nat} {n : Fin 512} {q : LaunchRec}
    (h : s.plat.brought = false ∨ hostReach s = false ∨ pkg = myPkg s ∨ LaunchRec.hasPart q (myPkg s) = false ∨ partHeld s q = true) :
    exec (.launchForward pkg n q) s = .next s := by
  refine if_pos ?_
  simpa [or_assoc] using h

theorem exec_launchParse_of_rejected {s : State} {n : Fin 512} (hst : (winSlot s n.val).st = .parsed) (hup : Parser s)
    (hm : mayParse s (winSlot s n.val).record = true) (hb : recordBad s (winSlot s n.val).record = true) :
    ∃ t, exec (.launchParse n) s = .next t ∧
      SlotSent s t n.val { winSlot s n.val with st := .free } (rejectionSent s n (winSlot s n.val).record) := by
  refine ⟨_, exec_launchParse_of_bad hst hup hm hb, ?_⟩
  rw [writeCompletion_eq]
  exact ((SlotSent.refl s n.val).putWin { winSlot s n.val with st := .free }).sentOut _

theorem mayParse_of_reach {s : State} (h : hostReach s = true) (r : LaunchRec) : mayParse s r = true := by
  rw [mayParse, h, Bool.true_or]

theorem mayParse_of_own {s : State} {r : LaunchRec} (hb : recordBad s r = false) (ho : otherPkgs s r = []) : mayParse s r = true := by
  rw [mayParse, hb, ho]
  simp

theorem mayParse_of_cut {s : State} {r : LaunchRec} (hr : hostReach s = false)
    (h : RecordBad s r ∨ LaunchRec.first r / 1024 ≠ myPkg s ∨ lastPkg r ≠ myPkg s) : mayParse s r = false := by
  rw [mayParse, hr, Bool.false_or, Bool.and_eq_false_iff, Bool.not_eq_false', List.isEmpty_eq_false_iff]
  rcases Classical.em (RecordBad s r) with hb | hb
  · exact .inl ((recordBad_iff s r).mpr hb)
  · have hcount : LaunchRec.count r ≠ 0 := fun hc => hb (.inr (.inl hc))
    exact .inr (otherPkgs_ne_nil hcount (h.resolve_left hb))

/-! ## The clauses together -/

/-- The checks of a launch, clause by clause. -/
theorem launchChecks : Claims.LaunchChecks := by
  intro s n pkg q fabric key peer reach x r me w reserved first count last endpoint bad up rejection stage part Slot Host
  have hreach : reach ↔ hostReach s = true := (hostReach_iff s).symm
  have hcut : ¬reach ↔ hostReach s = false := (hostReach_eq_false_iff s).symm
  have hfirst : first = LaunchRec.first r := (launchRec_first_eq r).symm
  have hcount : count = LaunchRec.count r := rfl
  have hlast : last = lastPkg r := by rw [lastPkg, ← hfirst]; rfl
  have hbad : bad ↔ recordBad s r = true := by
    rw [recordBad_iff, RecordBad, ← hfirst]
    rfl
  have hgood : ¬bad → recordBad s r = false := fun h => Bool.eq_false_iff.mpr (mt hbad.mpr h)
  have hup : up ↔ Parser s := exists_congr fun d => decide_eq_true_iff.symm
  have hsome : ¬bad → LaunchRec.count r ≠ 0 := fun h hc => h (.inr (.inl hc))
  refine ⟨fun h => exec_launchParse_of_idle (h.imp_right (mt hup.mpr)), fun _ hr h => exec_launchParse_of_cut ?_,
    fun hst hu hr hb => ?_, fun hst hu hb hp hh => ?_, fun hst hu hb hf hl hh => ?_, fun hst hu hr hb hf hl hpkg => ?_,
    fun hbr hr hpkg hp hh => exec_launchForward_of_ready hbr (hreach.mp hr) hpkg hp hh,
    fun h => exec_launchForward_of_not (h.imp_right (Or.imp_left hcut.mp)), partStatus_of_no_cell, fun hcells => ?_⟩
  · rw [hbad, recordBad_iff, hfirst, hlast] at h
    exact mayParse_of_cut (hcut.mp hr) h
  · obtain ⟨t, ht, h⟩ := exec_launchParse_of_rejected hst (hup.mp hu) (mayParse_of_reach (hreach.mp hr) _) (hbad.mp hb)
    exact ⟨t, ht, h.rest, h.slot, fun he => h.sent.trans (congrArg (s.host.sent ++ ·) (rejectionSent_of_endpoint he)),
      fun he => (h.sent.trans (congrArg (s.host.sent ++ ·) (rejectionSent_of_no_endpoint he))).trans (List.append_nil _)⟩
  · by_cases hm : mayParse s r = true
    · exact exec_launchParse_of_held hst (hup.mp hu) hm (hgood hb) hp hh
    · exact exec_launchParse_of_cut (Bool.eq_false_iff.mpr hm)
  · rw [hfirst] at hf
    rw [hlast] at hl
    have ho : otherPkgs s r = [] := (otherPkgs_of_one hf hl).trans (if_pos rfl)
    have hp : LaunchRec.hasPart r (myPkg s) = true := (hasPart_of_one _ (hsome hb) hf hl).trans (decide_eq_true rfl)
    exact ⟨_, exec_launchParse_of_own hst (hup.mp hu) (mayParse_of_own (hgood hb) ho) (hgood hb) hp hh ho, rfl,
      fun j => winSlot_putWin s n.val j _, rfl⟩
  · rw [hfirst] at hf
    rw [hlast] at hl
    have ho : otherPkgs s r = [pkg] := (otherPkgs_of_one hf hl).trans (if_neg hpkg)
    have hp : LaunchRec.hasPart r (myPkg s) = false := (hasPart_of_one _ (hsome hb) hf hl).trans (decide_eq_false hpkg.symm)
    have hm := mayParse_of_reach (hreach.mp hr) r
    cases hpeer : tabFind s.host.peers pkg with
    | some fabric' =>
      obtain ⟨t, ht, h⟩ := exec_launchParse_of_sent hst (hup.mp hu) hm (hgood hb) hp ho hpeer
      refine ⟨t, ht, h.rest, fun hsome => ?_, fun hnone => (by cases hnone)⟩
      cases hsome
      exact ⟨h.sent, h.slot⟩
    | none =>
      obtain ⟨t, ht, h⟩ := exec_launchParse_of_unreachable hst (hup.mp hu) hm (hgood hb) hp ho hf hpeer
      exact ⟨t, ht, h.rest, fun hsome => (by cases hsome),
        fun _ he => ⟨h.sent.trans (congrArg (s.host.sent ++ ·) (rejectionSent_of_endpoint he)), h.slot⟩⟩
  · rw [partStatus_of_cells hcells]
    refine ⟨fun hd => by rw [hd], fun v hv => ⟨fun hl => ?_, fun hl => ?_⟩⟩
    · simp [hv, hl]
    · simp [hv, Option.isSome_iff_ne_none.mp hl]

end Sys2Proof.Machine
end

section
namespace Sys2Proof.Machine

/-- Settles O56: RDMA by the branches of an access, and the checks of a launch by what forwards, latches and rejects a record. -/
theorem hostAccess : Obligations.HostAccess := ⟨remoteAccess, launchChecks⟩

end Sys2Proof.Machine
end

section
/-! A die fenced, field by field (20 R382, R386; 23 R412, R413). -/

namespace Sys2Proof.Machine

open Sys2Proof.Safety

/-! ## Messages that cross a fence -/

/-- A message as it goes on when a die is fenced: without it if its stream is from or to that die. -/
theorem cutTransit_eq (d : Nat) (t : Transit) : cutTransit d t = match t with
    | some (k, n) => if k / 4 = d ∨ k % 4 = d then none else some (k, n)
    | none => none := by
  cases t with
  | none => simp [cutTransit, viaDie]
  | some e => simp [cutTransit, viaDie]

theorem cutTransit_eq_self_iff (d : Nat) (t : Transit) : cutTransit d t = t ↔ viaDie d t = false := by
  unfold cutTransit
  cases h : viaDie d t with
  | false => simp
  | true =>
    cases t with
    | none => simp [viaDie] at h
    | some e => simp

theorem cutSlot_reset (d : Nat) : cutSlot d Slot.reset = Slot.reset := rfl

theorem cutCell_reset (d : Nat) : cutCell d Cell.reset = Cell.reset := rfl

/-! ## What is lost with a die's cells -/

theorem mem_of_tabFind {α : Type} {t : Tab α} {i : Nat} {x : α} (h : tabFind t i = some x) : (i, x) ∈ t := by
  induction t with
  | nil => cases h
  | cons e t ih =>
    obtain ⟨k, y⟩ := e
    by_cases hk : k = i
    · simp only [tabFind, hk, if_true] at h
      cases h
      rw [hk]
      exact List.mem_cons_self
    · simp only [tabFind, hk, if_false] at h
      exact List.mem_cons_of_mem _ (ih h)

theorem loseCell_frame (s : State) (c : Nat) : { loseCell s c with host := s.host } = s := by
  have hport : ∀ (l : List OutMsg) (t : State), { l.foldl (fun s m => addLoss s c m.ctxid 1) t with host := s.host } = { t with host := s.host } := by
    intro l
    induction l with
    | nil => exact fun t => rfl
    | cons m l ih => exact fun t => ih (addLoss t c m.ctxid 1)
  refine (hport _ _).trans ?_
  split <;> rfl

theorem loseCell_slots (s : State) (c : Nat) : (loseCell s c).slots = s.slots := (congrArg State.slots (loseCell_frame s c) :)

theorem loseCell_cells (s : State) (c : Nat) : (loseCell s c).cells = s.cells := (congrArg State.cells (loseCell_frame s c) :)

theorem loseCell_images (s : State) (c : Nat) : (loseCell s c).images = s.images := (congrArg State.images (loseCell_frame s c) :)

theorem cellsCounted_slots (s : State) (d : Nat) : (cellsCounted s d).slots = s.slots := foldl_keeps loseCell State.slots loseCell_slots _ s

theorem cellsCounted_cells (s : State) (d : Nat) : (cellsCounted s d).cells = s.cells := foldl_keeps loseCell State.cells loseCell_cells _ s

theorem cellsCounted_images (s : State) (d : Nat) : (cellsCounted s d).images = s.images :=
  foldl_keeps loseCell State.images loseCell_images _ s

theorem loseImages_slots (s : State) (p : Image → Bool) : (loseImages s p).slots = s.slots :=
  foldl_keeps loseImage State.slots (fun _ _ => rfl) _ s

theorem loseImages_cells (s : State) (p : Image → Bool) : (loseImages s p).cells = s.cells :=
  foldl_keeps loseImage State.cells (fun _ _ => rfl) _ s

theorem loseImages_images (s : State) (p : Image → Bool) : (loseImages s p).images = s.images.filter (fun x => !p x) :=
  congrArg (List.filter (fun x => !p x)) (foldl_keeps loseImage State.images (fun _ _ => rfl) _ s)

/-- A steal whose claim on a frame of a die is lost with the die. -/
def claimKept (s : State) (d : Nat) : Steal → Steal
  | .claimed v f t => if cellOnDie s d v then .idle else .claimed v f t
  | y => y

/-- A cell whose claim on a frame of a die that is lost is lost as well. -/
def withoutClaim (s : State) (d : Nat) (x : Cell) : Cell := { x with steal := claimKept s d x.steal }

theorem claimKept_claimKept (s : State) (d : Nat) (y : Steal) : claimKept s d (claimKept s d y) = claimKept s d y := by
  cases y with
  | claimed v f t => by_cases hv : cellOnDie s d v = true <;> simp [claimKept, hv]
  | _ => rfl

theorem withoutClaim_withoutClaim (s : State) (d : Nat) (x : Cell) : withoutClaim s d (withoutClaim s d x) = withoutClaim s d x :=
  congrArg (fun y => { x with steal := y }) (claimKept_claimKept s d x.steal)

theorem cellAt_loseClaim_other (s : State) (d : Nat) {c c' : Nat} (h : c ≠ c') : cellAt (loseClaim s d c) c' = cellAt s c' := by
  unfold loseClaim
  dsimp only
  split
  · split
    · exact cellAt_putCell_other _ _ _ _ h
    · rfl
  · rfl

theorem withoutClaim_of_lost {s : State} {d v : Nat} {f : Frame} {t : Transit} {x : Cell} (h : x.steal = .claimed v f t)
    (hv : cellOnDie s d v = true) : withoutClaim s d x = { x with steal := .idle } := by simp [withoutClaim, claimKept, h, hv]

theorem withoutClaim_of_kept {s : State} {d : Nat} {x : Cell} (h : ∀ v f t, x.steal = .claimed v f t → cellOnDie s d v = false) :
    withoutClaim s d x = x := by
  have hsteal : claimKept s d x.steal = x.steal := by
    cases hx : x.steal with
    | claimed v f t => simp [claimKept, h v f t hx]
    | _ => rfl
  rw [withoutClaim, hsteal]

theorem cellAt_loseClaim_same {s : State} {d c : Nat} (h : cellOnDie s d c = false) :
    cellAt (loseClaim s d c) c = withoutClaim s d (cellAt s c) := by
  unfold loseClaim
  dsimp only
  split
  · next v f t hs =>
    by_cases hv : cellOnDie s d v = true
    · rw [if_pos (by rw [hv, h]; rfl), cellAt_putCell_same, withoutClaim_of_lost hs hv]
      rfl
    · rw [Bool.not_eq_true] at hv
      rw [if_neg (by rw [hv]; exact Bool.false_ne_true), withoutClaim_of_kept]
      intro v' f' t' hs'
      rw [hs] at hs'
      cases hs'
      exact hv
  · next hs => exact (withoutClaim_of_kept fun v f t hx => absurd hx (hs v f t)).symm

theorem loseClaim_frame (s : State) (d c : Nat) : { loseClaim s d c with cells := s.cells, host := s.host } = s := by
  unfold loseClaim
  dsimp only
  split
  · split <;> rfl
  · rfl

theorem cellOnDie_of_absent {s t : State} (h : t.plat.absentCells = s.plat.absentCells) : cellOnDie t = cellOnDie s := by
  funext d c
  unfold cellOnDie physOf
  rw [h]

theorem cellOnDie_congr {s t : State} (h : t.plat = s.plat) : cellOnDie t = cellOnDie s := cellOnDie_of_absent (by rw [h])

theorem withoutClaim_congr {s t : State} (h : t.plat = s.plat) (d : Nat) (x : Cell) : withoutClaim t d x = withoutClaim s d x := by
  have hkept : claimKept t d x.steal = claimKept s d x.steal := by
    cases x.steal with
    | claimed v f m => simp only [claimKept, cellOnDie_congr h]
    | _ => rfl
  rw [withoutClaim, hkept, withoutClaim]

theorem loseClaim_plat (s : State) (d c : Nat) : (loseClaim s d c).plat = s.plat := (congrArg State.plat (loseClaim_frame s d c) :)

theorem cellAt_loseClaims {d c : Nat} (l : List Nat) : ∀ s : State, cellOnDie s d c = false →
    cellAt (l.foldl (fun s c => loseClaim s d c) s) c = if c ∈ l then withoutClaim s d (cellAt s c) else cellAt s c := by
  induction l with
  | nil => exact fun s _ => rfl
  | cons a l ih =>
    intro s h
    have hplat := loseClaim_plat s d a
    rw [List.foldl_cons, ih _ (by rw [cellOnDie_congr hplat]; exact h), withoutClaim_congr hplat]
    by_cases hac : a = c
    · subst hac
      rw [cellAt_loseClaim_same h, withoutClaim_withoutClaim, ite_self, if_pos List.mem_cons_self]
    · rw [cellAt_loseClaim_other s d hac]
      simp [List.mem_cons, Ne.symm hac]

theorem cellAt_of_not_known {s : State} {c : Nat} (h : c ∉ knownCells s) : cellAt s c = Cell.reset := by
  have hfind : tabFind s.cells c = none := by
    cases hf : tabFind s.cells c with
    | none => rfl
    | some x =>
      refine absurd (List.mem_map.mpr ⟨(c, x), ?_, rfl⟩) h
      exact mem_of_tabFind hf
  simp [cellAt, tabGet, hfind]

theorem claimsGone_slots (s : State) (d : Nat) : (claimsGone s d).slots = s.slots := by
  have hfold : (claimsGone s d).slots = (imagesGone s d).slots :=
    foldl_keeps (fun s c => loseClaim s d c) State.slots (fun s c => (congrArg State.slots (loseClaim_frame s d c) :)) _ _
  exact hfold.trans ((loseImages_slots _ _).trans (cellsCounted_slots s d))

theorem imagesGone_cells (s : State) (d : Nat) : (imagesGone s d).cells = s.cells := (loseImages_cells _ _).trans (cellsCounted_cells s d)

theorem imagesGone_plat (s : State) (d : Nat) : (imagesGone s d).plat = s.plat :=
  (loseImages_plat _ _).trans (foldl_keeps loseCell State.plat (fun s c => (congrArg State.plat (loseCell_frame s c) :)) _ s)

theorem cellAt_claimsGone {s : State} {d c : Nat} (h : cellOnDie s d c = false) :
    cellAt (claimsGone s d) c = withoutClaim s d (cellAt s c) := by
  have hcell : cellAt (imagesGone s d) c = cellAt s c := by rw [cellAt, imagesGone_cells, cellAt]
  have hplat := imagesGone_plat s d
  rw [claimsGone, cellAt_loseClaims _ _ (by rw [cellOnDie_congr hplat]; exact h), withoutClaim_congr hplat, hcell]
  by_cases hc : c ∈ knownCells (imagesGone s d)
  · rw [if_pos hc]
  · rw [if_neg hc, ← hcell, cellAt_of_not_known hc]
    rfl

theorem claimsGone_images (s : State) (d : Nat) : (claimsGone s d).images = s.images.filter (fun x => !imageLost s d x) := by
  have hfold : (claimsGone s d).images = (imagesGone s d).images :=
    foldl_keeps (fun s c => loseClaim s d c) State.images (fun s c => (congrArg State.images (loseClaim_frame s d c) :)) _ _
  rw [hfold, imagesGone, loseImages_images, cellsCounted_images]

/-! ## What a fence leaves of cells and slots -/

theorem fenceDie_slots (s : State) (d : Fin 4) : (fenceDie s d).slots =
    tabMap (fun _ x => cutSlot d.val x) (s.slots.filter (fun e => !cellOnDie s d.val (e.1 / 4))) := by
  have h : (fenceDie s d).slots = (fenceRecorded s d).slots :=
    (congrArg State.slots (onlyLaths_resendKept (lathsCut (fenceRecorded s d) d)) :)
  rw [h, ← claimsGone_slots s d.val]
  rfl

theorem fenceDie_cells (s : State) (d : Fin 4) : (fenceDie s d).cells =
    tabMap (fun _ x => cutCell d.val x) ((claimsGone s d.val).cells.filter (fun e => !cellOnDie s d.val e.1)) :=
  (congrArg State.cells (onlyLaths_resendKept (lathsCut (fenceRecorded s d) d)) :)

theorem fenceDie_images (s : State) (d : Fin 4) : (fenceDie s d).images = s.images.filter (fun x => !imageLost s d.val x) := by
  have h : (fenceDie s d).images = (fenceRecorded s d).images :=
    (congrArg State.images (onlyLaths_resendKept (lathsCut (fenceRecorded s d) d)) :)
  rw [h, ← claimsGone_images s d.val]
  rfl

theorem slotAt_fenceDie (s : State) (d : Fin 4) (c : Nat) (k : Fin 4) : slotAt (fenceDie s d) c k =
    if cellOnDie s d.val c then Slot.reset else cutSlot d.val (slotAt s c k) := by
  have hkey : slotKey c k / 4 = c := by
    unfold slotKey
    omega
  unfold slotAt
  rw [fenceDie_slots, tabGet_tabMap (fun _ x => cutSlot d.val x) _ _ _ (cutSlot_reset d.val), tabGet_filter Slot.reset (fun i => !cellOnDie s d.val (i / 4)), hkey]
  cases cellOnDie s d.val c <;> rfl

theorem cellAt_fenceDie (s : State) (d : Fin 4) (c : Nat) : cellAt (fenceDie s d) c =
    if cellOnDie s d.val c then Cell.reset else cutCell d.val (withoutClaim s d.val (cellAt s c)) := by
  unfold cellAt
  rw [fenceDie_cells, tabGet_tabMap (fun _ x => cutCell d.val x) _ _ _ (cutCell_reset d.val), tabGet_filter Cell.reset (fun i => !cellOnDie s d.val i)]
  cases h : cellOnDie s d.val c with
  | true => rfl
  | false => exact congrArg (cutCell d.val) (cellAt_claimsGone h)

theorem mem_fenceDie_images (s : State) (d : Fin 4) (y : Image) : y ∈ (fenceDie s d).images ↔
    y ∈ s.images ∧ ¬(y.phys / 256 = d.val ∧ (y.spilled = false ∨ y.cc.desc.sys = false ∨ imagePoisoned s y = true)) := by
  have hlost : imageLost s d.val y = true ↔
      y.phys / 256 = d.val ∧ (y.spilled = false ∨ y.cc.desc.sys = false ∨ imagePoisoned s y = true) := by
    simp only [imageLost, Bool.and_eq_true, Bool.or_eq_true, Bool.not_eq_true', decide_eq_true_eq, or_assoc]
    rfl
  rw [fenceDie_images, List.mem_filter, ← hlost, Bool.not_eq_true', Bool.not_eq_true]

/-! ## What a fence leaves of links and tables -/

/-- A link of a lath that is disabled. -/
def linkCut (x : Link) : Link := { x with up := false, wire := [], window := [], retraining := false }

theorem lathsCut_links (s : State) (d : Fin 4) : (lathsCut s d).dies.links = (mapLinks s (linkTouches d) linkCut).dies.links := rfl

theorem lathsCut_streams (s : State) (d : Fin 4) :
    (lathsCut s d).dies.streams = s.dies.streams.filter (fun e => e.1 / 4 != d.val && e.1 % 4 != d.val) := rfl

theorem linkTouches_iff (d : Fin 4) (l : Fin 8) : linkTouches d l = true ↔ linkFrom l = d ∨ linkTo l = d := by
  simp [linkTouches]

theorem link_lathsCut (s : State) (d : Fin 4) (l : Fin 8) : (lathsCut s d).dies.links[l] =
    if linkTouches d l = true then linkCut s.dies.links[l] else s.dies.links[l] := by
  rw [lathsCut_links, link_mapLinks]

theorem fenceRecorded_links (s : State) (d : Fin 4) : (fenceRecorded s d).dies.links = s.dies.links := by rw [fenceRecorded_dies]

theorem fenceRecorded_streams (s : State) (d : Fin 4) : (fenceRecorded s d).dies.streams = s.dies.streams := by rw [fenceRecorded_dies]

theorem fenceDie_links (s : State) (d : Fin 4) : (fenceDie s d).dies.links = (resendKept (lathsCut (fenceRecorded s d) d)).dies.links := rfl

theorem link_fenceDie_of_touched {s : State} {d : Fin 4} {l : Fin 8} (h : linkTouches d l = true) : (fenceDie s d).dies.links[l] =
    linkCut s.dies.links[l] := by
  obtain ⟨n, w, v, -, hdown⟩ := linksFed_resendKept (lathsCut (fenceRecorded s d) d) l
  have hlink := link_lathsCut (fenceRecorded s d) d l
  rw [if_pos h, fenceRecorded_links] at hlink
  rw [hlink] at hdown
  rw [fenceDie_links]
  exact hdown rfl

theorem link_fenceDie_of_untouched {s : State} {d : Fin 4} {l : Fin 8} (h : linkTouches d l = false) :
    LinkFed s.dies.links[l] (fenceDie s d).dies.links[l] := by
  have hfed := linksFed_resendKept (lathsCut (fenceRecorded s d) d) l
  have hlink := link_lathsCut (fenceRecorded s d) d l
  rw [if_neg (by rw [h]; exact Bool.false_ne_true), fenceRecorded_links] at hlink
  rw [hlink] at hfed
  rw [fenceDie_links]
  exact hfed

theorem link_fenceDie_of_none_kept {s : State} {d : Fin 4} {l : Fin 8} (h : linkTouches d l = false)
    (hk : ∀ y ∈ s.dies.streams, y.2.kept = []) : (fenceDie s d).dies.links[l] = s.dies.links[l] := by
  have hkept : ∀ y ∈ (lathsCut (fenceRecorded s d) d).dies.streams, y.2.kept = [] := by
    rw [lathsCut_streams, fenceRecorded_streams]
    exact fun y hy => hk y (List.mem_filter.mp hy).1
  have hlink := link_lathsCut (fenceRecorded s d) d l
  rw [if_neg (by rw [h]; exact Bool.false_ne_true), fenceRecorded_links] at hlink
  rw [fenceDie_links, resendKept_of_none_kept hkept]
  exact hlink

theorem fenceDie_tables (s : State) (d : Fin 4) : (fenceDie s d).dies.tables = (fenceRecorded s d).dies.tables :=
  (congrArg (fun t : State => t.dies.tables) (onlyLaths_resendKept (lathsCut (fenceRecorded s d) d)) :)

theorem fenced_fenceDie (s : State) {d e : Fin 4} (h : e ≠ d) (i : Fin 4) :
    (fenceDie s d).dies.tables[e].fenced.getLsbD i.val = (decide (i = d) || s.dies.tables[e].fenced.getLsbD i.val) := by
  rw [fenceDie_tables, fenceRecorded_dies]
  have htable : (Vector.ofFn (fun x : Fin 4 => if x = d then s.dies.tables[x] else
      { s.dies.tables[x] with fenced := putBit s.dies.tables[x].fenced d.val true }))[e] =
      { s.dies.tables[e] with fenced := putBit s.dies.tables[e].fenced d.val true } := by simp [h]
  rw [htable, getLsbD_putBit _ _ _ _ i.isLt]
  by_cases hi : i = d
  · simp [hi]
  · simp [hi, Fin.val_ne_of_ne hi]

/-! ## What a fence leaves of the memory system -/

/-- What caches and messages about lines are when a die is fenced, before its caches are emptied. -/
theorem lathsDown_coh (s : State) (d : Fin 4) : (dropLaths (fenceRecorded s d) d).coh =
    { (cutCoh (loseMessages (loseCells s d.val) d.val) d.val).coh with dirs := (lathsCut (fenceRecorded s d) d).coh.dirs } := by
  rw [dropLaths_eq]
  exact (congrArg State.coh (onlyLaths_resendKept (lathsCut (fenceRecorded s d) d)) :)

theorem lathsDown_tlbs (s : State) (d : Fin 4) : (dropLaths (fenceRecorded s d) d).tlbs = s.tlbs := by
  have h : (dropLaths (fenceRecorded s d) d).tlbs = (loseCells s d.val).tlbs :=
    (congrArg State.tlbs (onlyLaths_resendKept (lathsCut (fenceRecorded s d) d)) :)
  exact h.trans (congrArg State.tlbs (onlyLosses_loseCells s d.val) :)

theorem loseCells_coh (s : State) (d : Nat) : (loseCells s d).coh = s.coh := (congrArg State.coh (onlyLosses_loseCells s d) :)

theorem lineKey_die (p n : Nat) (h : n < 2 ^ 40) : lineKey p n / 2 ^ 40 = p := by
  unfold lineKey
  omega

/-- A die whose caches, TLBs and directories are empty. -/
structure DieEmpty (t : State) (d : Nat) : Prop where
  l1 : ∀ p n, p / 256 = d → n < 2 ^ 40 → (l1Get t.coh p n).st = .i ∧ (vicGet t.coh p n).st = .i
  dirs : ∀ n, n < 2 ^ 40 → dirGet t.coh d n = DirEntry.none

theorem dieEmpty_flushDie (s : State) (d : Nat) : DieEmpty (flushDie s d) d where
  l1 p n hp hn := by
    have hl1 := tabGet_filter LineCopy.none (fun e => e / 2 ^ 40 / 256 != d) s.coh.l1 (lineKey p n)
    have hvic := tabGet_filter LineCopy.none (fun e => e / 2 ^ 40 / 256 != d) s.coh.vic (lineKey p n)
    rw [lineKey_die p n hn, hp, bne_self_eq_false, if_neg Bool.false_ne_true] at hl1 hvic
    exact ⟨congrArg LineCopy.st hl1, congrArg LineCopy.st hvic⟩
  dirs n hn := by
    have h := tabGet_filter DirEntry.none (fun e => e / 2 ^ 40 != d) s.coh.dirs (lineKey d n)
    rwa [lineKey_die d n hn, bne_self_eq_false, if_neg Bool.false_ne_true] at h

theorem l1_tlb_flushDie {s : State} {d c : Nat} (h : cellOnDie s d c = true) : tabGet [] (flushDie s d).tlbs.l1 c = [] := by
  refine (tabGet_filter [] (fun e => !cellOnDie s d e) s.tlbs.l1 c).trans ?_
  rw [h]
  rfl

theorem fenceDie_homes (s : State) (d : Fin 4) : (fenceDie s d).coh.homes = s.coh.homes := by
  have h : (fenceDie s d).coh.homes = (dropLaths (fenceRecorded s d) d).coh.homes := rfl
  rw [h, lathsDown_coh]
  exact (congrArg Coh.homes (loseCells_coh s d.val) :)

/-- The requests of other dies, which a fence leaves. -/
def otherReqs (s : State) (d : Fin 4) : List ReqMsg := s.coh.reqs.filter (fun m => m.req.from_ != d.val)

theorem fenceDie_reqs (s : State) (d : Fin 4) : (fenceDie s d).coh.reqs = (otherReqs s d).filter (fun m => !viaDie d.val m.via) := by
  have h : (fenceDie s d).coh.reqs = (dropLaths (fenceRecorded s d) d).coh.reqs := rfl
  have hl : (loseMessages (loseCells s d.val) d.val).coh = s.coh := loseCells_coh s d.val
  rw [h, lathsDown_coh]
  simp only [cutCoh, putCoh, hl]
  rfl

theorem from_ne_of_mem_reqs {s : State} {d : Fin 4} {m : ReqMsg} (h : m ∈ (fenceDie s d).coh.reqs) : m.req.from_ ≠ d.val := by
  rw [fenceDie_reqs] at h
  exact bne_iff_ne.mp (List.mem_filter.mp (List.mem_filter.mp h).1).2

theorem from_ne_of_mem_refusals {s : State} {d : Fin 4} {m : ReqMsg} (h : m ∈ (fenceDie s d).coh.refusals) : m.req.from_ ≠ d.val := by
  have he : (fenceDie s d).coh.refusals = (dropLaths (fenceRecorded s d) d).coh.refusals := rfl
  have hl : (loseMessages (loseCells s d.val) d.val).coh = s.coh := loseCells_coh s d.val
  rw [he, lathsDown_coh] at h
  simp only [cutCoh, putCoh, hl] at h
  obtain ⟨m', hm', rfl⟩ := List.mem_map.mp h
  exact bne_iff_ne.mp (List.mem_filter.mp (List.mem_filter.mp hm').1).2

theorem die_ne_of_mem_grants {s : State} {d : Fin 4} {m : GrantMsg} (h : m ∈ (fenceDie s d).coh.grants) : m.die ≠ d.val := by
  have he : (fenceDie s d).coh.grants = (dropLaths (fenceRecorded s d) d).coh.grants := rfl
  have hl : (loseMessages (loseCells s d.val) d.val).coh = s.coh := loseCells_coh s d.val
  rw [he, lathsDown_coh] at h
  simp only [cutCoh, putCoh, hl] at h
  obtain ⟨m', hm', rfl⟩ := List.mem_map.mp h
  exact bne_iff_ne.mp (List.mem_filter.mp (List.mem_filter.mp hm').1).2

theorem die_ne_of_mem_walkers {s : State} {d : Nat} {y : Walker} (h : y ∈ (flushDie s d).tlbs.walkers) : y.die ≠ d :=
  bne_iff_ne.mp (List.mem_filter.mp h).2

/-- A request of another die to a home across the fence is held again. -/
theorem mem_held_of_cut {s : State} {d : Fin 4} {m : ReqMsg} (hm : m ∈ s.coh.reqs) (hfrom : m.req.from_ ≠ d.val)
    (hvia : viaDie d.val m.via = true) (hput : m.req.kind ≠ .put) (hsite : m.req.site = .home) : m.req ∈ (fenceDie s d).coh.held := by
  have he : (fenceDie s d).coh.held = (dropLaths (fenceRecorded s d) d).coh.held.filter (fun r => !reqFrom d.val r) := rfl
  have hl : (loseMessages (loseCells s d.val) d.val).coh = s.coh := loseCells_coh s d.val
  have hother : reqFrom d.val m.req = false := by
    unfold reqFrom
    rw [hsite]
    exact decide_eq_false hfrom
  rw [he, lathsDown_coh, List.mem_filter, hother]
  refine ⟨?_, rfl⟩
  simp only [cutCoh, putCoh, hl]
  refine List.mem_append_left _ (List.mem_append_right _ (List.mem_map_of_mem (List.mem_append_left _ ?_)))
  rw [List.mem_filter, List.mem_filter, hvia]
  exact ⟨⟨hm, bne_iff_ne.mpr hfrom⟩, by simpa using hput⟩

/-! ## The step -/

theorem dieCut_iff (s : State) (d : Fin 4) :
    dieCut s d = true ↔ ∃ q : Fin 5, (s.plat.islands[5 * d.val + q.val]'(by omega)).cut = true := by
  simp [dieCut]

/-- What makes a die unreachable (20 R382; 23 R412). -/
def Unreached (s : State) (d : Fin 4) : Prop := 1000000 ≤ s.dies.health[d].silent ∨ unanswered s d = true ∨ dieCut s d = true

theorem exec_dieUnreachable_of_reached {s : State} {d : Fin 4} (h : s.dies.health[d].reported = true ∨ ¬Unreached s d) :
    exec (.dieUnreachable d) s = .next s := by
  refine if_pos ?_
  rw [Bool.or_eq_true, Bool.not_eq_true', ← Bool.not_eq_true, Bool.or_eq_true, Bool.or_eq_true, decide_eq_true_eq, or_assoc]
  exact h

theorem exec_dieUnreachable_of_unreached {s : State} {d : Fin 4} (hr : s.dies.health[d].reported = false) (h : Unreached s d) :
    exec (.dieUnreachable d) s = .next (fenceDie s d) := by
  refine if_neg ?_
  rw [Bool.or_eq_true, Bool.not_eq_true', ← Bool.not_eq_true, Bool.or_eq_true, Bool.or_eq_true, decide_eq_true_eq, or_assoc, hr]
  exact fun hc => hc.elim Bool.false_ne_true fun hn => hn h

end Sys2Proof.Machine
end

section
/-! What a fence does, clause by clause (20 R382, R386). -/

namespace Sys2Proof.Machine

open Sys2Proof.Safety

/-- What a fence leaves of slots and cells, with the statement's reading of a message that meets it. -/
theorem cutStall_eq {d : Nat} {crossing : Transit → Transit} (h : ∀ t, crossing t = cutTransit d t) (y : Stall) : cutStall d y =
    match y with
    | .trip v => if crossing v = v then .trip v else .again
    | .reply r v z => .reply r (crossing v) z
    | .replyUe v a b => .replyUe (crossing v) a b
    | .place op r w (some (a, v)) => .place op r w (some (a, crossing v))
    | z => z := by
  cases y with
  | trip v =>
    have hiff := cutTransit_eq_self_iff d v
    cases hv : viaDie d v <;> simp [cutStall, h, hiff, hv]
  | reply r v z => simp [cutStall, h]
  | replyUe v a b => simp [cutStall, h]
  | place op r w o =>
    cases o with
    | none => rfl
    | some e => simp [cutStall, h]
  | _ => rfl

theorem cutSteal_claimKept_eq {s : State} {d : Nat} {crossing : Transit → Transit} (h : ∀ t, crossing t = cutTransit d t) (y : Steal) :
    cutSteal d (claimKept s d y) = match y with
      | .idle => .idle
      | .asked v g t => .asked v g (crossing t)
      | .empty g t => .empty g (crossing t)
      | .claimed v f t => if physOf s v / 256 = d then .idle else .claimed v f (crossing t) := by
  cases y with
  | idle => rfl
  | asked v g t => simp [claimKept, cutSteal, h]
  | empty g t => simp [claimKept, cutSteal, h]
  | claimed v f t =>
    by_cases hv : physOf s v / 256 = d
    · simp [claimKept, cutSteal, cellOnDie, dieOf, hv]
    · simp [claimKept, cutSteal, cellOnDie, dieOf, hv, h]

theorem cellOnDie_iff (s : State) (d c : Nat) : cellOnDie s d c = true ↔ physOf s c / 256 = d := decide_eq_true_iff

theorem unanswered_iff (s : State) (d : Fin 4) :
    unanswered s d = true ↔ ∃ y ∈ s.dies.streams, y.1 % 4 = d.val ∧ ∃ n ∈ y.2.kept, 1000000 ≤ n.2 := by
  simp only [unanswered, List.any_eq_true, Bool.and_eq_true, decide_eq_true_eq]

theorem tlb_fenceDie {s : State} {d : Fin 4} {c : Nat} (h : cellOnDie s d.val c = true) : tabGet [] (fenceDie s d).tlbs.l1 c = [] := by
  rw [fenceDie_eq]
  refine l1_tlb_flushDie ?_
  rw [cellOnDie_of_absent (s := s)]
  · exact h
  · rw [dropLaths_plat, fenceRecorded_plat]

end Sys2Proof.Machine
end

section
/-! A fence confirmed, step by step (20 R376, R383-R385). -/

namespace Sys2Proof.Machine

open Sys2Proof.Safety

/-! ## An update that goes on -/

theorem nextController_eq_plat (s : State) (u : Update) : nextController s u = { s with plat := (nextController s u).plat } := by
  unfold nextController
  split
  · rfl
  · dsimp only
    split
    · rfl
    · split <;> rfl

theorem resumeUpdate_eq_plat (s : State) : resumeUpdate s = { s with plat := (resumeUpdate s).plat } := by
  unfold resumeUpdate
  split
  · split
    · exact nextController_eq_plat ..
    · rfl
  · rfl

/-! ## Lines lost with a die (20 R384) -/

/-- Lines lost: poison, dirty data and what copies are good for have changed, and no more. -/
structure LinesLost (s t : State) : Prop where
  rest : { t with dirty := s.dirty, poison := s.poison, coh := { t.coh with dirs := s.coh.dirs } } = s
  lvl : ∀ x n, (dirGet t.coh x n).lvl = (dirGet s.coh x n).lvl
  poison : ∀ k ∈ s.poison, k ∈ t.poison
  clean : ∀ a, tabFind s.dirty a = none → tabFind t.dirty a = none

theorem LinesLost.refl (s : State) : LinesLost s s := ⟨rfl, fun _ _ => rfl, fun _ h => h, fun _ h => h⟩

theorem LinesLost.trans {s t u : State} (h : LinesLost s t) (k : LinesLost t u) : LinesLost s u where
  rest := (congrArg (fun v : State => { v with dirty := s.dirty, poison := s.poison, coh := { v.coh with dirs := s.coh.dirs } })
    k.rest :).trans h.rest
  lvl x n := (k.lvl x n).trans (h.lvl x n)
  poison n hn := k.poison n (h.poison n hn)
  clean a ha := k.clean a (h.clean a ha)

theorem LinesLost.foldl {α : Type} (f : State → α → State) (h : ∀ s a, LinesLost s (f s a)) (l : List α) : ∀ s, LinesLost s (l.foldl f s) := by
  induction l with
  | nil => exact LinesLost.refl
  | cons a l ih => exact fun s => (h s a).trans (ih (f s a))

theorem LinesLost.dies {s t : State} (h : LinesLost s t) : t.dies = s.dies := (congrArg State.dies h.rest :)

theorem LinesLost.plat {s t : State} (h : LinesLost s t) : t.plat = s.plat := (congrArg State.plat h.rest :)

theorem LinesLost.mem {s t : State} (h : LinesLost s t) : t.mem = s.mem := (congrArg State.mem h.rest :)

theorem LinesLost.slots {s t : State} (h : LinesLost s t) : t.slots = s.slots := (congrArg State.slots h.rest :)

theorem LinesLost.cells {s t : State} (h : LinesLost s t) : t.cells = s.cells := (congrArg State.cells h.rest :)

theorem LinesLost.images {s t : State} (h : LinesLost s t) : t.images = s.images := (congrArg State.images h.rest :)

theorem LinesLost.coh {s t : State} (h : LinesLost s t) : t.coh = { s.coh with dirs := t.coh.dirs } :=
  (congrArg (fun v : State => { v.coh with dirs := t.coh.dirs }) h.rest :)

theorem lvl_keepGood (s : State) (p : Nat → Bool) (x n : Nat) : (dirGet (keepGood s p).coh x n).lvl = (dirGet s.coh x n).lvl := by
  unfold dirGet keepGood
  rw [putCoh, tabGet_tabMap _ _ _ _ rfl]
  split <;> rfl

theorem mem_poison_loseLine (s : State) (line k : Nat) : k ∈ (loseLine s line).poison ↔ k ∈ s.poison ∨ k / 4 = line := by
  have hpoison : (loseLine s line).poison = s.poison.filter (fun x => x / 4 != line) ++ [4 * line, 4 * line + 1, 4 * line + 2, 4 * line + 3] :=
    rfl
  rw [hpoison]
  simp only [List.mem_append, List.mem_filter, bne_iff_ne, ne_eq, List.mem_cons, List.not_mem_nil, or_false]
  by_cases hk : k / 4 = line
  · exact ⟨fun _ => .inr hk, fun _ => .inr (by omega)⟩
  · have hout : ¬(k = 4 * line ∨ k = 4 * line + 1 ∨ k = 4 * line + 2 ∨ k = 4 * line + 3) := by omega
    simp [hk, hout]

theorem linesLost_loseLine (s : State) (line : Nat) : LinesLost s (loseLine s line) where
  rest := rfl
  lvl x n := lvl_keepGood s (fun k => k / 4 = line) x n
  poison k hk := (mem_poison_loseLine s line k).mpr (.inl hk)
  clean _ h := h

theorem tabFind_dropDirty (s : State) (line a : Nat) :
    tabFind (dropDirty s line).dirty a = if a / 128 = line then none else tabFind s.dirty a := by
  refine (tabFind_filter (fun i => i / 128 != line) s.dirty a).trans ?_
  by_cases h : a / 128 = line <;> simp [h]

theorem linesLost_dropDirty (s : State) (line : Nat) : LinesLost s (dropDirty s line) where
  rest := rfl
  lvl _ _ := rfl
  poison _ h := h
  clean a ha := by
    rw [tabFind_dropDirty, ha, ite_self]

theorem linesLost_loseOwned (s : State) (line : Nat) : LinesLost s (loseOwned s line) := by
  unfold loseOwned
  dsimp only
  split
  · exact linesLost_loseLine s line
  · exact (linesLost_loseLine s line).trans (linesLost_dropDirty _ line)

theorem mem_poison_loseOwned (s : State) {line k : Nat} (h : k / 4 = line) : k ∈ (loseOwned s line).poison := by
  have hline := (mem_poison_loseLine s line k).mpr (.inr h)
  unfold loseOwned
  dsimp only
  split <;> exact hline

theorem clean_loseOwned {s : State} {line a : Nat} (hs : ∀ e : Fin 4, s.dies.health[e].reported = false → (dirGet s.coh e.val line).lvl = .i)
    (h : a / 128 = line) : tabFind (loseOwned s line).dirty a = none := by
  have hnone : (survivors s).any (fun d => (dirGet s.coh d.val line).lvl != .i) = false := by
    refine List.any_eq_false.mpr fun e he => ?_
    have hsurvives := (List.mem_filter.mp he).2
    rw [Bool.not_eq_true', isFenced] at hsurvives
    simp [hs e hsurvives]
  unfold loseOwned
  dsimp only
  rw [hnone, if_neg Bool.false_ne_true, tabFind_dropDirty, if_pos h]

section
variable {l : List Nat} {line : Nat}

theorem mem_poison_loseAll (hl : line ∈ l) : ∀ {s : State} {k : Nat}, k / 4 = line → k ∈ (l.foldl loseOwned s).poison := by
  induction l with
  | nil => exact absurd hl List.not_mem_nil
  | cons a l ih =>
    intro s k hk
    rcases List.mem_cons.mp hl with rfl | hl
    · exact (LinesLost.foldl loseOwned linesLost_loseOwned l _).poison k (mem_poison_loseOwned s hk)
    · exact ih hl hk

theorem clean_loseAll (hl : line ∈ l) : ∀ {s : State} {a : Nat},
    (∀ e : Fin 4, s.dies.health[e].reported = false → (dirGet s.coh e.val line).lvl = .i) → a / 128 = line →
      tabFind (l.foldl loseOwned s).dirty a = none := by
  induction l with
  | nil => exact absurd hl List.not_mem_nil
  | cons b l ih =>
    intro s a hs ha
    rcases List.mem_cons.mp hl with rfl | hl
    · exact (LinesLost.foldl loseOwned linesLost_loseOwned l _).clean a (clean_loseOwned hs ha)
    · have hone := linesLost_loseOwned s b
      refine ih hl (fun e he => ?_) ha
      rw [hone.dies] at he
      rw [hone.lvl]
      exact hs e he

end

/-- The lines homed elsewhere that a die holds dirty (20 R384). -/
def lostLines (s : State) (d : Fin 4) : List Nat :=
  (s.coh.homes.filter (fun e => homedElsewhere s d e.1 && isDirty e.2.st && e.2.owner = BitVec.ofFin d)).map (fun e => e.1)

theorem poisonLost_of_no_images {s : State} {d : Fin 4} (h : s.images = []) : poisonLost s d = (lostLines s d).foldl loseOwned s := by
  have hi : ((lostLines s d).foldl loseOwned s).images = [] :=
    (LinesLost.foldl loseOwned linesLost_loseOwned _ s).images.trans h
  show losePoisoned ((lostLines s d).foldl loseOwned s) = _
  rw [losePoisoned, hi]
  rfl

theorem linesLost_poisonLost {s : State} {d : Fin 4} (h : s.images = []) : LinesLost s (poisonLost s d) := by
  rw [poisonLost_of_no_images h]
  exact LinesLost.foldl loseOwned linesLost_loseOwned _ s

theorem mem_lostLines {s : State} {d : Fin 4} {y : Nat × HomeEntry} (hy : y ∈ s.coh.homes) (hhome : trueHome s y.1 ≠ d.val)
    (hst : y.2.st = .o ∨ y.2.st = .m) (ho : y.2.owner.toNat = d.val) : y.1 ∈ lostLines s d := by
  refine List.mem_map_of_mem (List.mem_filter.mpr ⟨hy, ?_⟩)
  have howner : y.2.owner = BitVec.ofFin d := BitVec.eq_of_toNat_eq ho
  have hdirty : isDirty y.2.st = true := by rcases hst with h | h <;> rw [h] <;> rfl
  rw [hdirty, Bool.and_true, Bool.and_eq_true]
  exact ⟨bne_iff_ne.mpr hhome, decide_eq_true howner⟩

/-! ## Where nothing is held or handed over -/

theorem replayHeld_of_none_held {s : State} (p : CohReq → Bool) (hh : s.coh.held = []) (hc : s.coh.conflicts = [])
    (hw : s.coh.wayWait = []) : replayHeld s p = s := by
  have hsame : putCoh s { s.coh with held := s.coh.held.filter (fun r => !p r) } = s := by
    rw [hh]
    show putCoh s { s.coh with held := [] } = s
    rw [← hh]
    rfl
  simp only [replayHeld]
  rw [hsame, hh]
  exact drain_of_none_waiting hc hw

theorem fenceHandovers_of_none {s : State} (d : Fin 4) (l : List (Fin 12)) (h : s.dies.handovers = []) :
    l.foldl (fun s k => fenceHandover s d k) s = s := by
  induction l with
  | nil => rfl
  | cons k l ih =>
    have hone : fenceHandover s d k = s := by simp [fenceHandover, findHandover, h]
    rw [List.foldl_cons, hone]
    exact ih

/-- A state in which no request waits and no stack passes on. -/
structure Calm (s : State) : Prop where
  conflicts : s.coh.conflicts = []
  wayWait : s.coh.wayWait = []
  held : s.coh.held = []
  handovers : s.dies.handovers = []

/-- What a fence leaves of homes elsewhere and of its own, where no transaction is open. -/
def presenceGone (s : State) (d : Fin 4) : State := reholdRequests (dropPresence s d) d

theorem calm_presenceGone {s : State} {d : Fin 4} (h : Calm s) (ht : s.coh.txns = []) : Calm (presenceGone s d) where
  conflicts := by
    show s.coh.conflicts.filter _ = []
    rw [h.conflicts]
    rfl
  wayWait := by
    show s.coh.wayWait.filter _ = []
    rw [h.wayWait]
    rfl
  held := by
    simp only [presenceGone, reholdRequests, dropPresence, putCoh, h.held, ht, h.conflicts, h.wayWait]
    rfl
  handovers := h.handovers

/-- The package once the fence of a die is acknowledged by every survivor. -/
def acknowledged (s : State) (d : Fin 4) : State :=
  putDies s { s.dies with health := s.dies.health.set d { s.dies.health[d] with confirmed := true } }

theorem confirmFence_of_calm {s u : State} {d : Fin 4} (hu : synthesise (poisonLost (acknowledged s d) d) d = u) (h : Calm u)
    (ht : u.coh.txns = []) : confirmFence s d = forceStacks (presenceGone u d) d := by
  have hc := calm_presenceGone (d := d) h ht
  have hdrain : drain (presenceGone u d) = presenceGone u d := drain_of_none_waiting hc.conflicts hc.wayWait
  have hstages : confirmFence s d = releaseHeld (forceStacks ((List.finRange 12).foldl (fun s k => fenceHandover s d k)
      (drain (presenceGone (synthesise (poisonLost (acknowledged s d) d) d) d))) d) d := rfl
  rw [hstages, hu, hdrain, fenceHandovers_of_none d _ hc.handovers]
  exact replayHeld_of_none_held _ hc.held hc.conflicts hc.wayWait

/-! ## Presence sets and hand-overs after a fence -/

theorem homeGet_presenceGone (s : State) (d : Fin 4) (n : Nat) : homeGet (presenceGone s d).coh n =
    if trueHome s n ≠ d.val ∧ (homeGet s.coh n).present.getLsbD d.val = true then withoutDie d.val (homeGet s.coh n) else homeGet s.coh n := by
  have hmap : homeGet (presenceGone s d).coh n = (if homedElsewhere s d n && (homeGet s.coh n).present.getLsbD d.val
      then withoutDie d.val (homeGet s.coh n) else homeGet s.coh n) := by
    refine tabGet_tabMap (fun line h => if homedElsewhere s d line && h.present.getLsbD d.val then withoutDie d.val h else h)
      HomeEntry.none s.coh.homes n ?_
    have hnone : HomeEntry.none.present.getLsbD d.val = false := BitVec.getLsbD_zero
    rw [hnone, Bool.and_false]
    exact if_neg Bool.false_ne_true
  rw [hmap]
  refine if_congr ?_ rfl rfl
  rw [Bool.and_eq_true, homedElsewhere, bne_iff_ne]

theorem present_withoutDie (d : Fin 4) (h : HomeEntry) : (withoutDie d.val h).present.getLsbD d.val = false := by
  have hbit : ∀ (x : BitVec 4) (d : Fin 4), (x &&& ~~~(1#4 <<< d.val)).getLsbD d.val = false := by decide
  unfold withoutDie
  dsimp only
  split
  · exact BitVec.getLsbD_zero
  · split
    · exact hbit h.present d
    · exact hbit h.present d

theorem mem_handovers_forceStacks {s : State} {d : Fin 4} (hn : s.dies.handovers = []) (y : Handover) :
    y ∈ (forceStacks s d).dies.handovers ↔
      ∃ k : Fin 12, s.plat.stackBits.getLsbD k.val = true ∧ s.dies.active[k] = d ∧ forcedHandover k d = y := by
  have hlist : (forceStacks s d).dies.handovers = s.dies.handovers ++ ((List.finRange 12).filter (fun k =>
      s.plat.stackBits.getLsbD k.val && s.dies.active[k] = d && (findHandover s k).isNone)).map (fun k => forcedHandover k d) := rfl
  have hnone : ∀ k, findHandover s k = none := fun k => by simp [findHandover, hn]
  simp only [hlist, hn, List.nil_append, List.mem_map, List.mem_filter, List.mem_finRange, true_and, hnone, Option.isNone_none, Bool.and_true,
    Bool.and_eq_true, decide_eq_true_eq, and_assoc]

/-- The package once a fence is settled, an update that went on aside. -/
def settled (u : State) (d : Fin 4) (p : Platform) : State := { forceStacks (presenceGone u d) d with plat := p }

section
variable (u : State) (d : Fin 4) (p : Platform)

theorem settled_mem : (settled u d p).mem = u.mem := rfl

theorem settled_dirty : (settled u d p).dirty = u.dirty := rfl

theorem settled_poison : (settled u d p).poison = u.poison := rfl

theorem settled_slots : (settled u d p).slots = u.slots := rfl

theorem settled_cells : (settled u d p).cells = u.cells := rfl

theorem settled_health : (settled u d p).dies.health = u.dies.health := rfl

theorem settled_coh : (settled u d p).coh = (presenceGone u d).coh := rfl

theorem mem_handovers_settled (hn : u.dies.handovers = []) (y : Handover) : y ∈ (settled u d p).dies.handovers ↔
    ∃ k : Fin 12, u.plat.stackBits.getLsbD k.val = true ∧ u.dies.active[k] = d ∧ forcedHandover k d = y :=
  mem_handovers_forceStacks (s := presenceGone u d) hn y

end

end Sys2Proof.Machine
end

section
/-! A transaction that waited for a fenced die, completed without its answer (20 R383). -/

namespace Sys2Proof.Machine

open Sys2Proof.Safety

/-- The package with the grant of a home on its way to another die, the line's transaction closed. -/
def grantSent (s : State) (r : CohReq) (good : BitVec 4) : State :=
  let a := homeAnswer (homeGet s.coh r.line) r.from_ r.kind
  sendMessage (putCoh s { homeSet { s.coh with txns := [], probes := [] } r.line a.2 with
      grants := s.coh.grants ++ [⟨r.from_, r.line, a.1, a.2.seq, good, nextTransit s (trueHome s r.line) r.from_⟩] })
    (trueHome s r.line) r.from_

/-- A message of a home elsewhere that waits for a fenced die, alone in the package with its transaction. -/
structure Waiting (s : State) (d e : Fin 4) (q : ProbeMsg) (x : Txn) (k : CohKind) : Prop where
  probes : s.coh.probes = [q]
  site : q.site = .home
  target : q.target = d.val
  elsewhere : trueHome s q.line ≠ d.val
  txns : s.coh.txns = [x]
  req : x.req = ⟨.home, e.val, q.line, k⟩
  left : x.left = 1
  survives : s.dies.health[e].reported = false
  afar : trueHome s q.line ≠ e.val

section
variable {s : State} {d e : Fin 4} {q : ProbeMsg} {x : Txn} {k : CohKind} (h : Waiting s d e q x k)

/-- The transaction of a line alone, its last answer missing. -/
def loneTxn (s : State) (x : Txn) : State := putCoh s { s.coh with txns := [x], probes := [] }

include h

theorem synthesise_of_waiting : synthesise s d = takeAnswer (loneTxn s x) .home q.line 0 := by
  have hwaits : (decide (q.site = .home) && decide (q.target = d.val) && homedElsewhere s d q.line) = true := by
    rw [h.site, h.target, homedElsewhere, bne_iff_ne.mpr h.elsewhere]
    simp
  have hlone : putCoh s { s.coh with probes := [] } = loneTxn s x := by
    rw [loneTxn, ← h.txns]
  simp only [synthesise, h.probes, List.filter_cons, hwaits, List.filter_nil, Bool.not_true, Bool.false_eq_true, if_false, if_true,
    List.foldl_cons, List.foldl_nil]
  exact congrArg (fun u => takeAnswer u .home q.line 0) hlone

theorem atSite_waiting : atSite .home q.line x.req.site x.req.line = true := by
  rw [h.req]
  simp [atSite]

theorem takeAnswer_of_waiting : takeAnswer (loneTxn s x) .home q.line 0 =
    finishTxn (loneTxn s { x with left := 0 }) { x with left := 0 } := by
  have hat := atSite_waiting h
  have hany : (loneTxn s x).coh.txns.any (fun t => atSite .home q.line t.req.site t.req.line && t.left != 0) = true := by
    simp [loneTxn, putCoh, hat, h.left]
  have hcount : countAnswer (loneTxn s x) .home q.line 0 = loneTxn s { x with left := 0 } := by
    simp [countAnswer, loneTxn, putCoh, hat, h.left]
  have hanswered : answered (loneTxn s { x with left := 0 }) .home q.line = some { x with left := 0 } := by
    simp [answered, loneTxn, putCoh, hat]
  rw [takeAnswer, if_pos hany]
  dsimp only
  rw [hcount, hanswered]

theorem finishTxn_of_waiting (hk : k = .gets ∨ k = .getm) :
    finishTxn (loneTxn s { x with left := 0 }) { x with left := 0 } = grantSent s x.req x.good := by
  have hat := atSite_waiting h
  have hunlock : unlock (loneTxn s { x with left := 0 }) x.req.site x.req.line = putCoh s { s.coh with txns := [], probes := [] } := by
    simp [unlock, loneTxn, putCoh, atSite]
  have hgrant : homeGrant (putCoh s { s.coh with txns := [], probes := [] }) x.req x.good = grantSent s x.req x.good := by
    have hfenced : isFenced (putCoh s { s.coh with txns := [], probes := [] }) (Fin.ofNat 4 x.req.from_) = false := by
      rw [h.req, fin4_ofNat_val]
      exact h.survives
    have hafar : ¬trueHome (putCoh s { s.coh with txns := [], probes := [] }) x.req.line = x.req.from_ := by
      rw [h.req]
      exact h.afar
    unfold homeGrant
    dsimp only
    rw [hfenced, if_neg Bool.false_ne_true, if_neg hafar]
    rfl
  rw [← hgrant, ← hunlock]
  unfold finishTxn
  rw [h.req]
  rcases hk with rfl | rfl <;> rfl

theorem synthesise_waiting (hk : k = .gets ∨ k = .getm) : synthesise s d = grantSent s x.req x.good := by
  rw [synthesise_of_waiting h, takeAnswer_of_waiting h, finishTxn_of_waiting h hk]

end

/-! ## What a grant on its way leaves -/

section
variable (s : State) (r : CohReq) (good : BitVec 4)

theorem grantSent_coh : (grantSent s r good).coh = { homeSet { s.coh with txns := [], probes := [] } r.line
      (homeAnswer (homeGet s.coh r.line) r.from_ r.kind).2 with
    grants := s.coh.grants ++ [⟨r.from_, r.line, (homeAnswer (homeGet s.coh r.line) r.from_ r.kind).1,
      (homeAnswer (homeGet s.coh r.line) r.from_ r.kind).2.seq, good, nextTransit s (trueHome s r.line) r.from_⟩] } :=
  (congrArg State.coh (onlyLaths_sendMessage _ _ _) :)

theorem homeGet_grantSent : homeGet (grantSent s r good).coh r.line = (homeAnswer (homeGet s.coh r.line) r.from_ r.kind).2 := by
  rw [grantSent_coh]
  exact tabGet_tabSet_same _ _ _ _

theorem grantSent_active : (grantSent s r good).dies.active = s.dies.active :=
  (congrArg (fun t : State => t.dies.active) (onlyLaths_sendMessage _ _ _) :)

theorem grantSent_handovers : (grantSent s r good).dies.handovers = s.dies.handovers :=
  (congrArg (fun t : State => t.dies.handovers) (onlyLaths_sendMessage _ _ _) :)

theorem trueHome_congr {s t : State} (h : t.dies.active = s.dies.active) (line : Nat) : trueHome t line = trueHome s line := by
  unfold trueHome
  rw [h]

theorem calm_grantSent (h : Calm s) : Calm (grantSent s r good) where
  conflicts := by
    rw [grantSent_coh]
    exact h.conflicts
  wayWait := by
    rw [grantSent_coh]
    exact h.wayWait
  held := by
    rw [grantSent_coh]
    exact h.held
  handovers := (grantSent_handovers s r good).trans h.handovers

end

/-! ## Entries of homes once the die is gone -/

theorem withoutDie_homeRead {y : HomeEntry} {d e : Fin 4} (hst : y.st = .m) (ho : y.owner.toNat = d.val) (hp : y.present = 1#4 <<< d.val)
    (hne : e ≠ d) : (homeRead y e.val).1 = .s ∧ (homeRead y e.val).2.present.getLsbD d.val = true ∧
      (withoutDie d.val (homeRead y e.val).2).st = .s ∧ (withoutDie d.val (homeRead y e.val).2).present = 1#4 <<< e.val := by
  have hbits : ∀ d e : Fin 4, e ≠ d → (1#4 <<< d.val ||| 1#4 <<< e.val).getLsbD d.val = true ∧
      (1#4 <<< d.val ||| 1#4 <<< e.val) &&& ~~~(1#4 <<< d.val) = 1#4 <<< e.val ∧ (1#4 <<< e.val) ≠ 0 := by decide
  obtain ⟨hin, hrest, hsome⟩ := hbits d e hne
  have hread : homeRead y e.val = (.s, { y with seq := y.seq + 1, st := .o, present := 1#4 <<< d.val ||| 1#4 <<< e.val }) := by
    have howner : ¬y.owner.toNat = e.val := fun he => hne (Fin.ext (he.symm.trans ho))
    simp only [homeRead, hst, howner, if_false, hp]
  rw [hread]
  refine ⟨rfl, hin, ?_⟩
  simp only [withoutDie, hrest, hsome, if_false, ho, hasOwner, decide_true, Bool.and_self, if_true]
  exact ⟨trivial, trivial⟩

theorem homeWrite_other {d e : Fin 4} (y : HomeEntry) (hne : e ≠ d) : (homeWrite y e.val).st = .m ∧ (homeWrite y e.val).owner.toNat = e.val ∧
    (homeWrite y e.val).present.getLsbD d.val = false := by
  have hbits : ∀ d e : Fin 4, e ≠ d → (1#4 <<< e.val).getLsbD d.val = false ∧ (BitVec.ofNat 2 e.val).toNat = e.val := by decide
  exact ⟨rfl, (hbits d e hne).2, (hbits d e hne).1⟩

end Sys2Proof.Machine
end

section
/-! The fence of a die confirmed, clause by clause (20 R376, R383-R385). -/

namespace Sys2Proof.Machine

open Sys2Proof.Safety

theorem exec_fenceConfirm_of_not {s : State} {d : Fin 4} (h : s.dies.health[d].reported = false ∨ s.dies.health[d].confirmed = true) :
    exec (.fenceConfirm d) s = .next s := by
  refine if_pos ?_
  rw [Bool.or_eq_true, Bool.not_eq_true']
  exact h

theorem reported_acknowledged (s : State) (d e : Fin 4) :
    (acknowledged s d).dies.health[e].reported = s.dies.health[e].reported := by
  by_cases h : e = d
  · subst h
    simp [acknowledged, putDies]
  · have hval : d.val ≠ e.val := fun hv => h (Fin.ext hv.symm)
    simp [acknowledged, putDies, hval]

theorem health_acknowledged (s : State) (d : Fin 4) :
    (acknowledged s d).dies.health[d] = { s.dies.health[d] with confirmed := true } := by
  simp [acknowledged, putDies]

theorem acknowledged_handovers (s : State) (d : Fin 4) : (acknowledged s d).dies.handovers = s.dies.handovers := rfl

theorem acknowledged_active (s : State) (d : Fin 4) : (acknowledged s d).dies.active = s.dies.active := rfl

theorem acknowledged_plat (s : State) (d : Fin 4) : (acknowledged s d).plat = s.plat := rfl

/-- The package with a die's dirty lines lost, before transactions that wait for it complete. -/
def dirtyLost (s : State) (d : Fin 4) : State := poisonLost (acknowledged s d) d

section
variable {s : State} {d : Fin 4} (hi : s.images = [])
include hi

theorem linesLost_dirtyLost : LinesLost (acknowledged s d) (dirtyLost s d) := linesLost_poisonLost hi

theorem dirtyLost_homes : (dirtyLost s d).coh.homes = s.coh.homes := by
  rw [(linesLost_dirtyLost hi).coh]
  rfl

theorem trueHome_dirtyLost (n : Nat) : trueHome (dirtyLost s d) n = trueHome s n :=
  trueHome_congr (congrArg Dies.active (linesLost_dirtyLost hi).dies :) n

theorem homeGet_dirtyLost (n : Nat) : homeGet (dirtyLost s d).coh n = homeGet s.coh n := by
  rw [homeGet, dirtyLost_homes hi, homeGet]

theorem calm_dirtyLost (h : Calm s) : Calm (dirtyLost s d) where
  conflicts := by
    rw [(linesLost_dirtyLost hi).coh]
    exact h.conflicts
  wayWait := by
    rw [(linesLost_dirtyLost hi).coh]
    exact h.wayWait
  held := by
    rw [(linesLost_dirtyLost hi).coh]
    exact h.held
  handovers := by
    rw [(linesLost_dirtyLost hi).dies]
    exact h.handovers

/-- What a fence leaves of a line that the die held dirty: its sectors are poisoned, and its data is gone where no survivor holds it. -/
theorem lost_dirtyLost {y : Nat × HomeEntry} (hy : y ∈ s.coh.homes) (hhome : trueHome s y.1 ≠ d.val)
    (hst : y.2.st = .o ∨ y.2.st = .m) (ho : y.2.owner.toNat = d.val) :
    (∀ i, i < 4 → 4 * y.1 + i ∈ (dirtyLost s d).poison) ∧
      ((∀ e : Fin 4, s.dies.health[e].reported = false → (dirGet s.coh e.val y.1).lvl = .i) →
        ∀ a, a / 128 = y.1 → tabFind (dirtyLost s d).dirty a = none) := by
  have hmem : y.1 ∈ lostLines (acknowledged s d) d := mem_lostLines (s := acknowledged s d) hy hhome hst ho
  rw [dirtyLost, poisonLost_of_no_images (s := acknowledged s d) hi]
  refine ⟨fun i hlt => mem_poison_loseAll hmem (by omega), fun hs a ha => clean_loseAll hmem (fun e he => ?_) ha⟩
  rw [reported_acknowledged] at he
  exact hs e he

/-- A transaction that waits for the die does so with its dirty lines lost as well. -/
theorem waiting_dirtyLost {e : Fin 4} {q : ProbeMsg} {x : Txn} {k : CohKind} (h : Waiting s d e q x k) :
    Waiting (dirtyLost s d) d e q x k where
  probes := by
    rw [(linesLost_dirtyLost hi).coh]
    exact h.probes
  site := h.site
  target := h.target
  elsewhere := by
    rw [trueHome_dirtyLost hi]
    exact h.elsewhere
  txns := by
    rw [(linesLost_dirtyLost hi).coh]
    exact h.txns
  req := h.req
  left := h.left
  survives := by
    rw [(linesLost_dirtyLost hi).dies, reported_acknowledged]
    exact h.survives
  afar := by
    rw [trueHome_dirtyLost hi]
    exact h.afar

end

theorem synthesise_of_no_probes {s : State} (d : Fin 4) (h : s.coh.probes = []) : synthesise s d = s := by
  have hsame : putCoh s { s.coh with probes := [] } = s := by
    rw [← h]
    rfl
  simp only [synthesise, h, List.filter_nil, List.foldl_nil]
  exact hsame

/-- The step that confirms a fence, once what waited is settled. -/
theorem exec_fenceConfirm_of_calm {s u : State} {d : Fin 4} (hr : s.dies.health[d].reported = true)
    (hc : s.dies.health[d].confirmed = false) (hu : synthesise (dirtyLost s d) d = u) (h : Calm u) (ht : u.coh.txns = []) :
    ∃ p, exec (.fenceConfirm d) s = .next (settled u d p) := by
  refine ⟨(resumeUpdate (forceStacks (presenceGone u d) d)).plat, ?_⟩
  rw [exec_fenceConfirm hr hc, confirmFence_of_calm hu h ht, resumeUpdate_eq_plat]
  rfl

section
variable {s : State} {d : Fin 4} (hr : s.dies.health[d].reported = true) (hc : s.dies.health[d].confirmed = false) (hcalm : Calm s)
  (hi : s.images = [])
include hr hc hcalm hi

/-- A fence confirmed while nothing waits for the die. -/
theorem exec_fenceConfirm_of_idle (ht : s.coh.txns = []) (hp : s.coh.probes = []) :
    ∃ p, exec (.fenceConfirm d) s = .next (settled (dirtyLost s d) d p) := by
  have hcoh := (linesLost_dirtyLost (s := s) (d := d) hi).coh
  refine exec_fenceConfirm_of_calm hr hc (synthesise_of_no_probes d ?_) (calm_dirtyLost hi hcalm) ?_
  · rw [hcoh]
    exact hp
  · rw [hcoh]
    exact ht

/-- A fence confirmed while one read or write waits for the die alone. -/
theorem exec_fenceConfirm_of_waiting {e : Fin 4} {q : ProbeMsg} {x : Txn} {k : CohKind} (hw : Waiting s d e q x k)
    (hk : k = .gets ∨ k = .getm) : ∃ t, exec (.fenceConfirm d) s = .next t ∧ t.coh.txns = [] ∧ t.coh.probes = [] ∧
      (homeGet t.coh q.line = if ((homeAnswer (homeGet s.coh q.line) e.val k).2.present.getLsbD d.val) = true
        then withoutDie d.val (homeAnswer (homeGet s.coh q.line) e.val k).2 else (homeAnswer (homeGet s.coh q.line) e.val k).2) ∧
      ∃ m ∈ t.coh.grants, m.die = e.val ∧ m.line = q.line ∧ m.st = (homeAnswer (homeGet s.coh q.line) e.val k).1 := by
  have hwait := waiting_dirtyLost hi hw
  have hcoh := grantSent_coh (dirtyLost s d) x.req x.good
  obtain ⟨p, ht⟩ := exec_fenceConfirm_of_calm hr hc (synthesise_waiting hwait hk) (calm_grantSent _ _ _ (calm_dirtyLost hi hcalm))
    (by rw [hcoh]; rfl)
  have hentry := homeGet_grantSent (dirtyLost s d) x.req x.good
  have hhome : trueHome (grantSent (dirtyLost s d) x.req x.good) q.line ≠ d.val := by
    rw [trueHome_congr (grantSent_active _ _ _), trueHome_dirtyLost hi]
    exact hw.elsewhere
  rw [hw.req] at ht hcoh hentry hhome
  rw [homeGet_dirtyLost hi] at hentry hcoh
  refine ⟨_, ht, ?_, ?_, ?_, ?_⟩
  · show (grantSent (dirtyLost s d) ⟨.home, e.val, q.line, k⟩ x.good).coh.txns.filter _ = []
    rw [hcoh]
    rfl
  · show (grantSent (dirtyLost s d) ⟨.home, e.val, q.line, k⟩ x.good).coh.probes.filter _ = []
    rw [hcoh]
    rfl
  · refine (homeGet_presenceGone (grantSent (dirtyLost s d) ⟨.home, e.val, q.line, k⟩ x.good) d q.line).trans ?_
    rw [hentry]
    exact if_congr (and_iff_right hhome) rfl rfl
  · show ∃ m ∈ (grantSent (dirtyLost s d) ⟨.home, e.val, q.line, k⟩ x.good).coh.grants, _
    rw [hcoh]
    exact ⟨_, List.mem_append_right _ List.mem_cons_self, rfl, rfl, rfl⟩

end

/-! ## What the step leaves where nothing waits -/

section
variable {s : State} {d : Fin 4} (p : Platform) (hi : s.images = [])
include hi

theorem slotAt_settled (c : Nat) (k : Fin 4) : slotAt (settled (dirtyLost s d) d p) c k = slotAt s c k := by
  rw [slotAt, settled_slots, (linesLost_dirtyLost hi).slots]
  rfl

theorem cells_settled : (settled (dirtyLost s d) d p).cells = s.cells := by
  rw [settled_cells, (linesLost_dirtyLost hi).cells]
  rfl

theorem mem_settled : (settled (dirtyLost s d) d p).mem = s.mem := by
  rw [settled_mem, (linesLost_dirtyLost hi).mem]
  rfl

theorem health_settled : (settled (dirtyLost s d) d p).dies.health[d] = { s.dies.health[d] with confirmed := true } := by
  rw [settled_health, (linesLost_dirtyLost hi).dies, health_acknowledged]

theorem homeGet_settled (n : Nat) : homeGet (settled (dirtyLost s d) d p).coh n =
    if trueHome s n ≠ d.val ∧ (homeGet s.coh n).present.getLsbD d.val = true then withoutDie d.val (homeGet s.coh n) else homeGet s.coh n := by
  rw [settled_coh, homeGet_presenceGone, trueHome_dirtyLost hi, homeGet_dirtyLost hi]

theorem present_settled {n : Nat} (hn : trueHome s n ≠ d.val) :
    (homeGet (settled (dirtyLost s d) d p).coh n).present.getLsbD d.val = false := by
  rw [homeGet_settled p hi]
  split
  · exact present_withoutDie d _
  · next hno => exact Bool.eq_false_iff.mpr fun hb => hno ⟨hn, hb⟩

theorem lost_settled {y : Nat × HomeEntry} (hy : y ∈ s.coh.homes) (hhome : trueHome s y.1 ≠ d.val)
    (hst : y.2.st = .o ∨ y.2.st = .m) (ho : y.2.owner.toNat = d.val) :
    (∀ i, i < 4 → 4 * y.1 + i ∈ (settled (dirtyLost s d) d p).poison) ∧
      ((∀ e : Fin 4, s.dies.health[e].reported = false → (dirGet s.coh e.val y.1).lvl = .i) →
        ∀ a, a / 128 = y.1 → physByte (settled (dirtyLost s d) d p) a = memGet s.mem a) := by
  obtain ⟨hpoison, hclean⟩ := lost_dirtyLost hi hy hhome hst ho
  rw [settled_poison]
  refine ⟨hpoison, fun hs a ha => ?_⟩
  rw [physByte, settled_dirty, hclean hs a ha, mem_settled p hi]

theorem handovers_settled (hn : s.dies.handovers = []) (y : Handover) : y ∈ (settled (dirtyLost s d) d p).dies.handovers ↔
    ∃ k : Fin 12, s.plat.stackBits.getLsbD k.val = true ∧ s.dies.active[k] = d ∧ forcedHandover k d = y := by
  have h := linesLost_dirtyLost (s := s) (d := d) hi
  have hnone : (dirtyLost s d).dies.handovers = [] := by rw [h.dies, acknowledged_handovers, hn]
  rw [mem_handovers_settled _ d p hnone, h.plat, h.dies, acknowledged_active, acknowledged_plat]

end

end Sys2Proof.Machine
end

section
/-! A die that returns (20 R387; 10 R222). -/

namespace Sys2Proof.Machine

open Sys2Proof.Safety

/-! ## Lines of a home given up -/

theorem memWrite_frame (bs : List Byte) : ∀ (s : State) (a : Nat), { memWrite s a bs with mem := s.mem, dirty := s.dirty } = s := by
  induction bs with
  | nil => exact fun s a => rfl
  | cons b bs ih =>
    intro s a
    exact congrArg (fun x : State => { x with mem := s.mem, dirty := s.dirty }) (ih (memPut s a b) (a + 1))

/-- Lines given up: memory and its poison, the copies on dies and the entries of homes have changed, and no more. -/
def OnlyCopies (s t : State) : Prop :=
  { t with mem := s.mem, dirty := s.dirty, poison := s.poison, coh := { t.coh with
      l1 := s.coh.l1, vic := s.coh.vic, dirs := s.coh.dirs, homes := s.coh.homes } } = s

theorem OnlyCopies.refl (s : State) : OnlyCopies s s := rfl

theorem OnlyCopies.trans {s t u : State} (h : OnlyCopies s t) (k : OnlyCopies t u) : OnlyCopies s u := by
  unfold OnlyCopies at *
  exact (congrArg (fun v : State => { v with mem := s.mem, dirty := s.dirty, poison := s.poison, coh := { v.coh with
    l1 := s.coh.l1, vic := s.coh.vic, dirs := s.coh.dirs, homes := s.coh.homes } }) k :).trans h

theorem OnlyCopies.foldl {α : Type} (f : State → α → State) (h : ∀ s a, OnlyCopies s (f s a)) (l : List α) :
    ∀ s, OnlyCopies s (l.foldl f s) := by
  induction l with
  | nil => exact OnlyCopies.refl
  | cons a l ih => exact fun s => (h s a).trans (ih (f s a))

section
variable {s t : State} (h : OnlyCopies s t)
include h

theorem OnlyCopies.slots : t.slots = s.slots := (congrArg State.slots h :)

theorem OnlyCopies.cells : t.cells = s.cells := (congrArg State.cells h :)

theorem OnlyCopies.plat : t.plat = s.plat := (congrArg State.plat h :)

theorem OnlyCopies.dies : t.dies = s.dies := (congrArg State.dies h :)

theorem OnlyCopies.conflicts : t.coh.conflicts = s.coh.conflicts := (congrArg (fun v : State => v.coh.conflicts) h :)

theorem OnlyCopies.wayWait : t.coh.wayWait = s.coh.wayWait := (congrArg (fun v : State => v.coh.wayWait) h :)

theorem OnlyCopies.held : t.coh.held = s.coh.held := (congrArg (fun v : State => v.coh.held) h :)

end

/-- A state with memory, copies and the entries of homes put back. -/
def copiesBack (s v : State) : State := { v with mem := s.mem, dirty := s.dirty, poison := s.poison, coh := { v.coh with
  l1 := s.coh.l1, vic := s.coh.vic, dirs := s.coh.dirs, homes := s.coh.homes } }

/-- Copies given up with no entry of a home changed. -/
def CopiesGone (s t : State) : Prop := OnlyCopies s t ∧ t.coh.homes = s.coh.homes

theorem copiesGone_backFrom (s : State) (d line : Nat) : CopiesGone s (backFrom s d line) := by
  unfold backFrom writeBack
  generalize physBytes _ (line * 128) 128 = bs
  have h := memWrite_frame bs (healSectors s line (dirGet s.coh d line).good) (line * 128)
  exact ⟨(congrArg (copiesBack s) h :), (congrArg (fun v : State => v.coh.homes) h :)⟩

theorem copiesGone_dieInvalidate (s : State) (d line : Nat) : CopiesGone s (putCoh s (dieInvalidate s.coh d line)) := by
  unfold dieInvalidate
  dsimp only
  split <;> exact ⟨rfl, rfl⟩

theorem CopiesGone.trans {s t u : State} (h : CopiesGone s t) (k : CopiesGone t u) : CopiesGone s u := ⟨h.1.trans k.1, k.2.trans h.2⟩

theorem copiesGone_giveUp (s : State) (d line : Nat) : CopiesGone s (giveUp s d line) := by
  unfold giveUp
  dsimp only
  split
  · exact (copiesGone_backFrom s d line).trans (copiesGone_dieInvalidate _ d line)
  · exact copiesGone_dieInvalidate s d line

theorem copiesGone_giveUps (line : Nat) (l : List (Fin 4)) : ∀ s : State, CopiesGone s (l.foldl (fun s x => giveUp s x.val line) s) := by
  induction l with
  | nil => exact fun s => ⟨rfl, rfl⟩
  | cons x l ih => exact fun s => (copiesGone_giveUp s x.val line).trans (ih _)

theorem LinesLost.copiesGone {s t : State} (h : LinesLost s t) : CopiesGone s t :=
  ⟨(congrArg (copiesBack s) h.rest :), (congrArg (fun v : State => v.coh.homes) h.rest :)⟩

/-- The package before the entry of a second-tier line of a rejoining die goes. -/
def tierGone (s : State) (d : Fin 4) (line : Nat) : State :=
  let h := homeGet s.coh line
  let s1 := if isDirty h.st && h.owner = BitVec.ofFin d then dropDirty (loseLine s line) line else s
  (survivors s).foldl (fun s x => giveUp s x.val line) s1

theorem rehomeTier_eq (s : State) (d : Fin 4) (line : Nat) :
    rehomeTier s d line = putCoh (tierGone s d line) (freeHome (tierGone s d line).coh line) := rfl

theorem copiesGone_tierGone (s : State) (d : Fin 4) (line : Nat) : CopiesGone s (tierGone s d line) := by
  unfold tierGone
  dsimp only
  refine CopiesGone.trans ?_ (copiesGone_giveUps line _ _)
  split
  · exact ((linesLost_loseLine s line).trans (linesLost_dropDirty _ line)).copiesGone
  · exact ⟨rfl, rfl⟩

theorem onlyCopies_rehomeTier (s : State) (d : Fin 4) (line : Nat) : OnlyCopies s (rehomeTier s d line) := (copiesGone_tierGone s d line).1

theorem homeGet_rehomeTier (s : State) (d : Fin 4) (line n : Nat) : homeGet (rehomeTier s d line).coh n =
    if line = n then HomeEntry.none else homeGet s.coh n := by
  rw [rehomeTier_eq]
  refine (tabGet_tabErase _ _ _ _).trans ?_
  rw [(copiesGone_tierGone s d line).2]
  rfl

theorem homeGet_rehomeTiers (d : Fin 4) (l : List Nat) (n : Nat) : ∀ s : State,
    homeGet (l.foldl (fun s x => rehomeTier s d x) s).coh n = if n ∈ l then HomeEntry.none else homeGet s.coh n := by
  induction l with
  | nil => exact fun s => rfl
  | cons a l ih =>
    intro s
    rw [List.foldl_cons, ih, homeGet_rehomeTier]
    by_cases hl : n ∈ l
    · rw [if_pos hl, if_pos (List.mem_cons_of_mem a hl)]
    · by_cases ha : a = n
      · rw [if_neg hl, if_pos ha, if_pos (ha ▸ List.mem_cons_self)]
      · rw [if_neg hl, if_neg ha, if_neg (by rw [List.mem_cons, not_or]; exact ⟨Ne.symm ha, hl⟩)]

/-! ## The second tier of a rejoining die -/

theorem stackOfLine_isNone_iff (line : Nat) : (stackOfLine line).isNone = true ↔ 12 * 2 ^ 29 ≤ line := by
  unfold stackOfLine
  by_cases h : line / 2 ^ 29 < 12
  · rw [dif_pos h]
    simp only [Option.isNone_some, Bool.false_eq_true, false_iff]
    omega
  · rw [dif_neg h]
    simp only [Option.isNone_none, true_iff]
    omega

theorem mem_tierLines_iff (s : State) (d : Fin 4) (n : Nat) : n ∈ tierLines s d ↔
    ∃ y ∈ s.coh.homes, 12 * 2 ^ 29 ≤ y.1 ∧ y.1 / 32 % 4 = d.val ∧ y.2.st ≠ .i ∧ y.1 = n := by
  simp only [tierLines, List.mem_map, List.mem_filter, Bool.and_eq_true, stackOfLine_isNone_iff, decide_eq_true_eq, bne_iff_ne, and_assoc]

theorem st_of_not_tier {s : State} {d : Fin 4} {n : Nat} (h : n ∉ tierLines s d) (hn : 12 * 2 ^ 29 ≤ n) (hd : n / 32 % 4 = d.val) :
    (homeGet s.coh n).st = .i := by
  unfold homeGet tabGet
  cases hf : tabFind s.coh.homes n with
  | none => rfl
  | some y =>
    refine Classical.byContradiction fun hst => h ((mem_tierLines_iff s d n).mpr ?_)
    exact ⟨(n, y), mem_of_tabFind hf, hn, hd, hst, rfl⟩

theorem tierPinned_iff (s : State) (d : Fin 4) : tierPinned s d = true ↔ ∃ y ∈ s.coh.homes, 12 * 2 ^ 29 ≤ y.1 ∧ y.1 / 32 % 4 = d.val ∧
    y.2.st ≠ .i ∧ ∃ f : Fin 4, s.dies.health[f].reported = false ∧ isPinned s.coh f.val y.1 = true := by
  have hpin : ∀ n, (survivors s).any (fun x => isPinned s.coh x.val n) = true ↔
      ∃ f : Fin 4, s.dies.health[f].reported = false ∧ isPinned s.coh f.val n = true := by
    simp [survivors, isFenced]
  simp only [tierPinned, List.any_eq_true, mem_tierLines_iff]
  constructor
  · rintro ⟨n, ⟨y, hy, ht, hd, hst, rfl⟩, hf⟩
    exact ⟨y, hy, ht, hd, hst, (hpin y.1).mp (List.any_eq_true.mpr hf)⟩
  · rintro ⟨y, hy, ht, hd, hst, hf⟩
    exact ⟨y.1, ⟨y, hy, ht, hd, hst, rfl⟩, List.any_eq_true.mp ((hpin y.1).mpr hf)⟩

theorem findHandover_isSome_iff (s : State) (k : Fin 12) : (findHandover s k).isSome = true ↔ ∃ y ∈ s.dies.handovers, y.stack = k := by
  unfold findHandover
  cases hf : s.dies.handovers.findIdx? (fun h => h.stack = k) with
  | none =>
    rw [List.findIdx?_eq_none_iff] at hf
    simpa using hf
  | some i =>
    obtain ⟨hlt, hk, -⟩ := List.findIdx?_eq_some_iff_getElem.mp hf
    simp only [Option.bind_some, List.getElem?_eq_getElem hlt, Option.map_some, Option.isSome_some, true_iff]
    exact ⟨_, List.getElem_mem hlt, of_decide_eq_true hk⟩

theorem stillOwns_iff (s : State) (d : Fin 4) : stillOwns s d = true ↔ ∃ k : Fin 12, s.plat.stackBits.getLsbD k.val = true ∧
    (d = (pairOf k).1 ∨ d = (pairOf k).2) ∧ s.dies.health[otherOf k d].reported = false ∧
    (s.dies.tables[d].owner[k] = d ∨ s.dies.active[k] = d ∨ ∃ y ∈ s.dies.handovers, y.stack = k) := by
  simp only [stillOwns, tableOf, fin4_ofNat_val, List.any_eq_true, List.mem_finRange, true_and, Bool.and_eq_true, Bool.or_eq_true,
    decide_eq_true_eq, Bool.not_eq_true', isFenced, findHandover_isSome_iff, or_assoc]
  refine exists_congr fun k => ⟨?_, ?_⟩
  · rintro ⟨⟨⟨hb, ho⟩, hp⟩, hf⟩
    exact ⟨hb, hp, hf, ho⟩
  · rintro ⟨hb, hp, hf, ho⟩
    exact ⟨⟨⟨hb, ho⟩, hp⟩, hf⟩

/-- What keeps a die from rejoining (20 R385, R387; 10 R222; 23 R412). -/
def MustWait (s : State) (d : Fin 4) : Prop :=
  s.dies.health[d].confirmed = false ∨ dieCut s d = true ∨ stillOwns s d = true ∨ tierPinned s d = true

/-! ## The step -/

/-- The package with the owner tables naming a die whose caches are empty again. -/
def tablesRejoined (u : State) (d : Fin 4) : State :=
  mapTables u (fun x t =>
    let y := if x = d then rejoinTable u d else { t with fenced := putBit t.fenced d.val false }
    { y with incs := y.incs.set d (y.incs[d] + 1) })

/-- The package with the die back among the others. -/
def dieBack (u : State) (d : Fin 4) : State :=
  dropStreams (putDies (tablesRejoined u d) { (tablesRejoined u d).dies with
    health := (tablesRejoined u d).dies.health.set d ⟨0, false, false⟩ }) d.val

/-- The package with its laths and port link up as well. -/
def lathsBack (u : State) (d : Fin 4) : State :=
  mapLinks (setPortLink (dieBack u d) d.val (!portCut (dieBack u d) d.val))
    (fun l => linkTouches d l && !isFenced (dieBack u d) (linkFrom l) && !isFenced (dieBack u d) (linkTo l)) (fun _ => Link.reset)

theorem exec_dieRejoin_of_waits {s : State} {d : Fin 4} (h : MustWait s d) : exec (.dieRejoin d) s = .next s := by
  refine if_pos ?_
  simpa [MustWait, or_assoc] using h

theorem exec_dieRejoin_of_ready {s : State} {d : Fin 4} (h : ¬MustWait s d) :
    exec (.dieRejoin d) s = .next (replayHeld (lathsBack (cleanDie s d) d) (fun _ => true)) := by
  refine if_neg fun hc => h ?_
  simpa [MustWait, or_assoc] using hc

end Sys2Proof.Machine
end

section
/-! A die among the others again, clause by clause (20 R387). -/

namespace Sys2Proof.Machine

open Sys2Proof.Safety

section
variable (u : State) (d : Fin 4)

theorem lathsBack_slots : (lathsBack u d).slots = u.slots := by
  simp only [lathsBack, mapLinks, putDies, setPortLink, putReach, keepGood, putCoh, dieBack, dropStreams, tablesRejoined, mapTables]

theorem lathsBack_cells : (lathsBack u d).cells = u.cells := by
  simp only [lathsBack, mapLinks, putDies, setPortLink, putReach, keepGood, putCoh, dieBack, dropStreams, tablesRejoined, mapTables]

theorem lathsBack_tlbs : (lathsBack u d).tlbs = u.tlbs := by
  simp only [lathsBack, mapLinks, putDies, setPortLink, putReach, keepGood, putCoh, dieBack, dropStreams, tablesRejoined, mapTables]

theorem lathsBack_coh : (lathsBack u d).coh = { u.coh with dirs := (lathsBack u d).coh.dirs } := rfl

theorem dieBack_coh : (dieBack u d).coh = u.coh := rfl

theorem dieBack_plat : (dieBack u d).plat = u.plat := rfl

theorem lathsBack_health : (lathsBack u d).dies.health = u.dies.health.set d ⟨0, false, false⟩ := rfl

theorem dieBack_health : (dieBack u d).dies.health = u.dies.health.set d ⟨0, false, false⟩ := rfl

theorem isFenced_dieBack_iff (e : Fin 4) : isFenced (dieBack u d) e = false ↔ u.dies.health[e].reported = false ∨ e = d := by
  unfold isFenced
  rw [dieBack_health]
  by_cases h : e = d
  · subst h
    simp
  · have hval : d.val ≠ e.val := fun hv => h (Fin.ext hv.symm)
    simp [h, hval]

theorem portUp_lathsBack : (lathsBack u d).plat.portUp.getLsbD d.val =
    !(u.plat.islands[20 + 2 * (d.val % 2)]'(by omega)).cut := by
  have h : (lathsBack u d).plat.portUp = putBit u.plat.portUp d.val (!portCut u d.val) := rfl
  rw [h, getLsbD_putBit _ _ _ _ d.isLt, if_pos rfl, portCut]

/-- The table that a die has once another has rejoined. -/
def rejoined (d : Fin 4) (y : DieTable) : DieTable := { y with incs := y.incs.set d (y.incs[d] + 1) }

theorem table_lathsBack (e : Fin 4) : (lathsBack u d).dies.tables[e] = rejoined d (if e = d then rejoinTable u d
    else { u.dies.tables[e] with fenced := putBit u.dies.tables[e].fenced d.val false }) := by
  have h : (lathsBack u d).dies.tables = Vector.ofFn (fun x => rejoined d (if x = d then rejoinTable u d
      else { u.dies.tables[x] with fenced := putBit u.dies.tables[x].fenced d.val false })) := rfl
  rw [h]
  simp

theorem link_lathsBack (l : Fin 8) (ht : linkTouches d l = true) (hf : u.dies.health[linkFrom l].reported = false ∨ linkFrom l = d)
    (hto : u.dies.health[linkTo l].reported = false ∨ linkTo l = d) : (lathsBack u d).dies.links[l] = Link.reset := by
  rw [lathsBack, link_mapLinks, ht, (isFenced_dieBack_iff u d _).mpr hf, (isFenced_dieBack_iff u d _).mpr hto]
  rfl

theorem DieEmpty.lathsBack {u : State} {d : Fin 4} (h : DieEmpty u d.val) : DieEmpty (lathsBack u d) d.val where
  l1 p n hp hn := by
    rw [lathsBack_coh]
    exact h.l1 p n hp hn
  dirs n hn := by
    have hdir := h.dirs n hn
    rw [← dieBack_coh u d] at hdir
    refine (dirGet_keepGood (dieBack u d) _ d.val n hn).trans ?_
    rw [hdir]
    rfl

end

/-! ## The caches of a rejoining die empty -/

section
variable (s : State) (d : Fin 4)

/-- The package with the second-tier lines of a rejoining die forgotten. -/
def tierCleared (s : State) (d : Fin 4) : State := (tierLines s d).foldl (fun s l => rehomeTier s d l) s

theorem cleanDie_eq : cleanDie s d = flushDie (tierCleared s d) d.val := rfl

theorem onlyCopies_tierCleared : OnlyCopies s (tierCleared s d) :=
  OnlyCopies.foldl (fun s l => rehomeTier s d l) (fun s l => onlyCopies_rehomeTier s d l) _ s

theorem flushDie_dies (t : State) (n : Nat) : (flushDie t n).dies = t.dies := rfl

theorem flushDie_plat (t : State) (n : Nat) : (flushDie t n).plat = t.plat := rfl

theorem flushDie_slots (t : State) (n : Nat) : (flushDie t n).slots = t.slots := rfl

theorem flushDie_cells (t : State) (n : Nat) : (flushDie t n).cells = t.cells := rfl

theorem flushDie_homes (t : State) (n : Nat) : (flushDie t n).coh.homes = t.coh.homes := rfl

theorem cleanDie_dies : (cleanDie s d).dies = s.dies := by
  rw [cleanDie_eq, flushDie_dies, (onlyCopies_tierCleared s d).dies]

theorem cleanDie_plat : (cleanDie s d).plat = s.plat := by
  rw [cleanDie_eq, flushDie_plat, (onlyCopies_tierCleared s d).plat]

theorem cleanDie_slots : (cleanDie s d).slots = s.slots := by
  rw [cleanDie_eq, flushDie_slots, (onlyCopies_tierCleared s d).slots]

theorem cleanDie_cells : (cleanDie s d).cells = s.cells := by
  rw [cleanDie_eq, flushDie_cells, (onlyCopies_tierCleared s d).cells]

theorem cleanDie_waits (hc : s.coh.conflicts = []) (hw : s.coh.wayWait = []) (hh : s.coh.held = []) :
    (cleanDie s d).coh.conflicts = [] ∧ (cleanDie s d).coh.wayWait = [] ∧ (cleanDie s d).coh.held = [] := by
  have h := onlyCopies_tierCleared s d
  rw [cleanDie_eq]
  simp only [flushDie, h.conflicts, h.wayWait, h.held, hc, hw, hh, List.filter_nil, and_self]

end

theorem find_first {n : Nat} {p : Fin n → Bool} {e : Fin n} (he : p e = true) (hf : ∀ f, f < e → p f = false) :
    (List.finRange n).find? p = some e := by
  rw [List.find?_eq_some_iff_getElem]
  refine ⟨he, e.val, by simp, by simp, fun j hj => ?_⟩
  rw [List.getElem_finRange]
  simpa using hf ⟨j, hj.trans e.isLt⟩ hj

theorem rejoinTable_eq {s : State} {d e : Fin 4} (hne : e ≠ d) (he : s.dies.health[e].reported = false)
    (hf : ∀ f : Fin 4, f < e → f ≠ d → s.dies.health[f].reported = true) :
    rejoinTable (cleanDie s d) d = { s.dies.tables[e] with fenced := putBit s.dies.tables[e].fenced d.val false } := by
  have hfind : (List.finRange 4).find? (fun x => x != d && !isFenced (cleanDie s d) x) = some e := by
    refine find_first ?_ fun f hlt => ?_
    · rw [isFenced, cleanDie_dies, he, bne_iff_ne.mpr hne]
      rfl
    · rw [isFenced, cleanDie_dies]
      by_cases hfd : f = d
      · simp [hfd]
      · rw [hf f hlt hfd, Bool.not_true, Bool.and_false]
  unfold rejoinTable
  rw [hfind, cleanDie_dies]

/-! ## Caches and homes -/

section
variable (s : State) (d : Fin 4)

theorem dieEmpty_cleanDie : DieEmpty (cleanDie s d) d.val := dieEmpty_flushDie (tierCleared s d) d.val

theorem st_cleanDie (n : Nat) (hn : 12 * 2 ^ 29 ≤ n) (hd : n / 32 % 4 = d.val) : (homeGet (cleanDie s d).coh n).st = .i := by
  rw [cleanDie_eq, homeGet, flushDie_homes, ← homeGet, tierCleared, homeGet_rehomeTiers]
  by_cases hl : n ∈ tierLines s d
  · rw [if_pos hl]
    rfl
  · rw [if_neg hl]
    exact st_of_not_tier hl hn hd

theorem tlb_cleanDie (c : Nat) (h : physOf s c / 256 = d.val) : tabGet [] (cleanDie s d).tlbs.l1 c = [] := by
  refine l1_tlb_flushDie (s := tierCleared s d) ?_
  rw [cellOnDie_congr (onlyCopies_tierCleared s d).plat]
  exact (cellOnDie_iff s d.val c).mpr h

theorem replayHeld_lathsBack {u : State} (hc : u.coh.conflicts = []) (hw : u.coh.wayWait = []) (hh : u.coh.held = []) :
    replayHeld (lathsBack u d) (fun _ => true) = lathsBack u d := by
  have h := lathsBack_coh u d
  refine replayHeld_of_none_held _ ?_ ?_ ?_
  · rw [h]
    exact hh
  · rw [h]
    exact hc
  · rw [h]
    exact hw

end

end Sys2Proof.Machine
end

section
namespace Sys2Proof.Machine

open Sys2Proof.Safety

/-- Settles O54: a fence field by field; its confirmation by the lines lost and the transaction that completes; the return by the lines
that a home forgets. -/
theorem fencedDies : Obligations.FencedDies := by
  intro s d e q x h cut due touches mine crossing stealAfter stallAfter quiet one pinned stuck
  have hcut : cut ↔ dieCut s d = true := (dieCut_iff s d).symm
  have hdue : due ↔ Unreached s d := by
    refine or_congr_right ?_
    rw [unanswered_iff, dieCut_iff, or_comm]
  have htouches : ∀ l, touches l ↔ linkTouches d l = true := fun l => (linkTouches_iff d l).symm
  have hmine : ∀ c, mine c ↔ cellOnDie s d.val c = true := fun c => (cellOnDie_iff s d.val c).symm
  have hother : ∀ c, ¬mine c → cellOnDie s d.val c = false := fun c hc => Bool.eq_false_iff.mpr (mt (hmine c).mpr hc)
  have hcrossing : ∀ t, crossing t = cutTransit d.val t := fun t => (cutTransit_eq d.val t).symm
  have hpinned : pinned ↔ tierPinned s d = true := (tierPinned_iff s d).symm
  have hstuck : stuck ↔ stillOwns s d = true := (stillOwns_iff s d).symm
  have hcalm : quiet → Calm s := fun ⟨hc, hw, hh, ho, _⟩ => ⟨hc, hw, hh, ho⟩
  have himages : quiet → s.images = [] := fun hq => hq.2.2.2.2
  have hwaiting : ∀ k, one k → Waiting s d e q x k ∧ e ≠ d := fun k ⟨hp, hs, ht, he, hx, hr, hl, hne, hf, ha⟩ =>
    ⟨⟨hp, hs, ht, he, hx, hr, hl, hf, ha⟩, hne⟩
  have hwait : h.confirmed = false ∨ cut ∨ stuck ∨ pinned ↔ MustWait s d := by
    rw [hcut, hstuck, hpinned]
    rfl
  refine ⟨fun hc => exec_dieUnreachable_of_reached (hc.imp_right (mt hdue.mpr)), fun hr hd => ?_, exec_fenceConfirm_of_not,
    fun hr hc ht hp hq => ?_, fun hr hc hq ho hst howner hpres => ?_, fun hr hc hq ho => ?_,
    fun hc => exec_dieRejoin_of_waits (hwait.mp hc), fun hc hncut hnstuck hnpinned hconf hway hheld => ?_⟩
  · refine ⟨fenceDie s d, exec_dieUnreachable_of_unreached hr (hdue.mp hd), fenceDie_mem s d, fenceDie_dirty s d, fenceDie_poison s d, ?_,
      fun i hi => ?_, ?_, fun e he => ?_, fun l => ⟨fun hl => ?_, fun hl => ?_, fun hl hk => ?_⟩, fun e he i => fenced_fenceDie s he i,
      fun c hc => ⟨?_, fun k => ?_⟩, fun c hc k => ?_, fun c hc => ?_, mem_fenceDie_images s d, fun c hc => ?_,
      (dieEmpty_flushDie _ d.val).l1, (dieEmpty_flushDie _ d.val).dirs, fenceDie_homes s d, fun m hm => from_ne_of_mem_reqs hm,
      fun m hm => from_ne_of_mem_refusals hm, fun y hy => die_ne_of_mem_walkers hy, fun m hm => die_ne_of_mem_grants hm,
      fun m hm hfrom hvia hput hsite => ?_⟩
    · rw [fenceDie_plat]
    · rw [fenceDie_plat, getLsbD_putBit _ _ _ _ hi]
      by_cases hid : i = d.val <;> simp [hid]
    · rw [fenceDie_health]
      exact Vector.getElem_set_self _
    · rw [fenceDie_health]
      exact Vector.getElem_set_ne _ _ fun hv => he (Fin.ext hv.symm)
    · rw [link_fenceDie_of_touched ((htouches l).mp hl)]
      exact ⟨rfl, rfl, rfl⟩
    · obtain ⟨n, w, v, heq, -⟩ := link_fenceDie_of_untouched (s := s) (Bool.eq_false_iff.mpr (mt (htouches l).mpr hl))
      rw [heq]
      exact ⟨rfl, rfl⟩
    · exact link_fenceDie_of_none_kept (Bool.eq_false_iff.mpr (mt (htouches l).mpr hl)) hk
    · rw [cellAt_fenceDie, if_pos ((hmine c).mp hc)]
    · rw [slotAt_fenceDie, if_pos ((hmine c).mp hc)]
    · rw [slotAt_fenceDie, hother c hc, if_neg Bool.false_ne_true]
      exact congrArg (fun y => { slotAt s c k with stall := y }) (cutStall_eq hcrossing _)
    · rw [cellAt_fenceDie, hother c hc, if_neg Bool.false_ne_true]
      refine congrArg₂ (fun y z => { cellAt s c with port := y, steal := z }) ?_ (cutSteal_claimKept_eq hcrossing _)
      exact congrArg (fun f => (cellAt s c).port.map (fun m => { m with via := f m.via })) (funext hcrossing).symm
    · exact tlb_fenceDie ((hmine c).mp hc)
    · rw [hcrossing] at hvia
      refine mem_held_of_cut hm hfrom ?_ hput hsite
      exact (Bool.not_eq_false _).mp fun hn => hvia ((cutTransit_eq_self_iff _ _).mpr hn).symm
  · have hi := himages hq
    obtain ⟨p, hstep⟩ := exec_fenceConfirm_of_idle hr hc (hcalm hq) hi ht hp
    have hhandovers := handovers_settled (d := d) p hi (hcalm hq).handovers
    refine ⟨_, hstep, mem_settled p hi, slotAt_settled p hi, cells_settled p hi, health_settled p hi, fun y hy => lost_settled p hi hy,
      fun n hn => present_settled p hi hn, fun n hn => (homeGet_settled p hi n).trans (if_neg fun hb => hb.1 hn), fun y hy => ?_,
      fun k hk ha => ⟨forcedHandover k d, (hhandovers _).mpr ⟨k, hk, ha, rfl⟩, rfl, rfl⟩⟩
    obtain ⟨k, -, -, rfl⟩ := (hhandovers y).mp hy
    exact ⟨rfl, rfl, rfl⟩
  · obtain ⟨hw, hne⟩ := hwaiting .gets ho
    obtain ⟨t, hstep, htxns, hprobes, hentry, m, hm, hdie, hline, hgrant⟩ :=
      exec_fenceConfirm_of_waiting hr hc (hcalm hq) (himages hq) hw (.inl rfl)
    obtain ⟨hread, hin, hst', hpres'⟩ := withoutDie_homeRead hst howner hpres hne
    have hentry' : homeGet t.coh q.line = withoutDie d.val (homeRead (homeGet s.coh q.line) e.val).2 := hentry.trans (if_pos hin)
    exact ⟨t, hstep, htxns, hprobes, by rw [hentry']; exact hst', by rw [hentry']; exact hpres', m, hm, hdie, hline, hgrant.trans hread⟩
  · obtain ⟨hw, hne⟩ := hwaiting .getm ho
    obtain ⟨t, hstep, htxns, hprobes, hentry, m, hm, hdie, hline, hgrant⟩ :=
      exec_fenceConfirm_of_waiting hr hc (hcalm hq) (himages hq) hw (.inr rfl)
    obtain ⟨hst, howner, hout⟩ := homeWrite_other (homeGet s.coh q.line) hne
    have hentry' : homeGet t.coh q.line = homeWrite (homeGet s.coh q.line) e.val :=
      hentry.trans (if_neg fun hin => Bool.false_ne_true (hout.symm.trans hin))
    exact ⟨t, hstep, htxns, hprobes, by rw [hentry']; exact hst, by rw [hentry']; exact howner, m, hm, hdie, hline, hgrant⟩
  · obtain ⟨hcc, hcw, hch⟩ := cleanDie_waits s d hconf hway hheld
    have hstep := exec_dieRejoin_of_ready (s := s) (d := d) fun hm => by
      rcases hwait.mpr hm with hn | hn | hn | hn
      · exact Bool.false_ne_true (hn.symm.trans hc)
      · exact hncut hn
      · exact hnstuck hn
      · exact hnpinned hn
    rw [replayHeld_lathsBack d hcc hcw hch] at hstep
    have hempty := (dieEmpty_cleanDie s d).lathsBack
    refine ⟨_, hstep, fun c k => ?_, (lathsBack_cells _ d).trans (cleanDie_cells s d), ?_, ?_, fun e he => ?_, fun e he hup hfirst => ?_,
      fun l hl hf hto => ?_, hempty.l1, hempty.dirs, fun n hn hd => ?_, fun c hc => ?_⟩
    · rw [slotAt, lathsBack_slots, cleanDie_slots, slotAt]
    · rw [lathsBack_health, cleanDie_dies]
      exact Vector.getElem_set_self _
    · rw [portUp_lathsBack, cleanDie_plat]
    · rw [table_lathsBack, if_neg he, cleanDie_dies]
      refine ⟨Vector.getElem_set_self _, ?_, rfl⟩
      exact (getLsbD_putBit _ _ _ _ d.isLt).trans (if_pos rfl)
    · rw [table_lathsBack, if_pos rfl, rejoinTable_eq he hup hfirst]
      exact ⟨rfl, (getLsbD_putBit _ _ _ _ d.isLt).trans (if_pos rfl)⟩
    · refine link_lathsBack _ d l ((htouches l).mp hl) ?_ ?_
      · rw [cleanDie_dies]
        exact hf
      · rw [cleanDie_dies]
        exact hto
    · rw [lathsBack_coh]
      exact st_cleanDie s d n hn hd
    · rw [lathsBack_tlbs]
      exact tlb_cleanDie s d c hc

end Sys2Proof.Machine
end

section
/-! What a commit does, step by step: the frames it releases, the frame it sends, the slot it frees or leaves in COMMIT (05 R116;
07 R156-R159, R166). -/

namespace Sys2Proof.Machine

open Sys2Proof.Safety

/-! ## The header of a released frame (07 R156) -/

theorem getLsbD_putBits (x : Word) (hi lo y i : Nat) (h : i < 64) :
    (putBits x hi lo y).getLsbD i = if lo ≤ i ∧ i < hi + 1 then y.testBit (i - lo) else x.getLsbD i := by
  have hmask : (BitVec.ofNat 64 ((2 ^ (hi + 1 - lo) - 1) * 2 ^ lo)).getLsbD i = decide (lo ≤ i ∧ i < hi + 1) := by
    rw [BitVec.getLsbD_ofNat, Nat.testBit_mul_two_pow, Nat.testBit_two_pow_sub_one, decide_eq_true h, Bool.true_and, ← Bool.decide_and]
    exact decide_eq_decide.mpr (by omega)
  have hput : (BitVec.ofNat 64 (y * 2 ^ lo)).getLsbD i = (decide (lo ≤ i) && y.testBit (i - lo)) := by
    rw [BitVec.getLsbD_ofNat, Nat.testBit_mul_two_pow, decide_eq_true h, Bool.true_and]
  unfold putBits
  dsimp only
  rw [BitVec.getLsbD_or, BitVec.getLsbD_and, BitVec.getLsbD_and, BitVec.getLsbD_not, hmask, hput, decide_eq_true h]
  by_cases hin : lo ≤ i ∧ i < hi + 1
  · rw [if_pos hin, decide_eq_true hin, decide_eq_true hin.1]
    simp
  · rw [if_neg hin, decide_eq_false hin]
    simp

theorem getLsbD_headerAt (h : Word) (k sc q i : Nat) (hi : i < 64) : (headerAt h k sc q).getLsbD i =
    if i < 22 then q.testBit i else if i < 25 then sc.testBit (i - 22) else if i < 26 then false else if i < 28 then h.getLsbD i
      else if i < 32 then k.testBit (i - 28) else h.getLsbD i := by
  unfold headerAt
  rw [getLsbD_putBits _ _ _ _ _ hi, getLsbD_putBits _ _ _ _ _ hi, getLsbD_putBits _ _ _ _ _ hi, getLsbD_putBits _ _ _ _ _ hi]
  by_cases h22 : i < 22
  · simp [h22]
  by_cases h25 : i < 25
  · simp [h22, h25, show 22 ≤ i by omega]
  by_cases h26 : i < 26
  · simp [show i = 25 by omega]
  by_cases h28 : i < 28
  · simp [h22, h25, h26, h28, show ¬28 ≤ i by omega]
  by_cases h32 : i < 32
  · simp [h22, h25, h26, h28, h32, show 28 ≤ i by omega]
  · simp [h22, h25, h26, h28, h32]

/-- A field of a number, bit by bit. -/
theorem field_eq {a b lo n : Nat} (hb : b < 2 ^ n) (h : ∀ i, i < n → a.testBit (lo + i) = b.testBit i) : a / 2 ^ lo % 2 ^ n = b := by
  refine Nat.eq_of_testBit_eq fun i => ?_
  rw [Nat.testBit_mod_two_pow, Nat.testBit_div_two_pow, Nat.add_comm i lo]
  by_cases hi : i < n
  · rw [decide_eq_true hi, Bool.true_and, h i hi]
  · rw [decide_eq_false hi, Bool.false_and, Nat.testBit_lt_two_pow (hb.trans_le (Nat.pow_le_pow_right (by decide) (by omega)))]

/-- The header of a released frame, field by field (07 R156). -/
theorem headerAt_fields (h : Word) (k sc q : Nat) (hk : k < 16) (hsc : sc < 8) (hq : q < 2 ^ 22) :
    (headerAt h k sc q).toNat / 2 ^ 28 % 16 = k ∧ (headerAt h k sc q).toNat / 2 ^ 25 % 2 = 0 ∧
      (headerAt h k sc q).toNat / 2 ^ 22 % 8 = sc ∧ (headerAt h k sc q).toNat % 2 ^ 22 = q ∧
      (headerAt h k sc q).toNat / 2 ^ 32 = h.toNat / 2 ^ 32 ∧
      (headerAt h k sc q).toNat / 2 ^ 26 % 4 = h.toNat / 2 ^ 26 % 4 := by
  have hbit : ∀ i, i < 64 → (headerAt h k sc q).toNat.testBit i = _ := getLsbD_headerAt h k sc q
  have hkeep : ∀ lo n, lo + n ≤ 64 → (∀ i, i < n → (headerAt h k sc q).toNat.testBit (lo + i) = h.toNat.testBit (lo + i)) →
      (headerAt h k sc q).toNat / 2 ^ lo % 2 ^ n = h.toNat / 2 ^ lo % 2 ^ n := fun lo n _ hb => by
    refine field_eq (Nat.mod_lt _ (by positivity)) fun i hi => ?_
    rw [hb i hi, Nat.testBit_mod_two_pow, Nat.testBit_div_two_pow, decide_eq_true hi, Bool.true_and, Nat.add_comm]
  refine ⟨field_eq (n := 4) hk fun i hi => ?_, field_eq (n := 1) (by decide) fun i hi => ?_, field_eq (n := 3) hsc fun i hi => ?_, ?_, ?_, ?_⟩
  · rw [hbit _ (by omega)]
    simp [show ¬28 + i < 22 by omega, show ¬28 + i < 25 by omega, show ¬28 + i < 26 by omega, show ¬28 + i < 28 by omega,
      show 28 + i < 32 by omega]
  · rw [hbit _ (by omega)]
    simp [show ¬25 + i < 22 by omega, show ¬25 + i < 25 by omega, show 25 + i < 26 by omega]
  · rw [hbit _ (by omega)]
    simp [show ¬22 + i < 22 by omega, show 22 + i < 25 by omega]
  · have hlow := field_eq (a := (headerAt h k sc q).toNat) (lo := 0) (n := 22) hq fun i hi => by
      rw [hbit _ (by omega)]
      simp [hi]
    simpa using hlow
  · have hhigh := hkeep 32 32 (by decide) fun i hi => by
      rw [hbit _ (by omega)]
      simp [show ¬32 + i < 22 by omega, show ¬32 + i < 25 by omega, show ¬32 + i < 26 by omega, show ¬32 + i < 28 by omega,
        show ¬32 + i < 32 by omega, BitVec.getLsbD]
    have hlt := (headerAt h k sc q).isLt
    have hlt' := h.isLt
    omega
  · exact hkeep 26 2 (by decide) fun i hi => by
      rw [hbit _ (by omega)]
      simp [show ¬26 + i < 22 by omega, show ¬26 + i < 25 by omega, show ¬26 + i < 26 by omega, show 26 + i < 28 by omega,
        BitVec.getLsbD]

theorem headerScope_eq (h : Word) : headerScope h = min 4 (h.toNat / 2 ^ 22 % 8) := rfl

/-! ## Frames released (07 R156, R158, R166) -/

theorem putCell_putCell (s : State) (c : Nat) (x y : Cell) : putCell (putCell s c x) c y = putCell s c y := by
  simp [putCell, tabSet_tabSet]

theorem putCc_putCc (s : State) (c : Nat) (x y : CtxCell) : putCc (putCc s c x) c y = putCc s c y := by
  simp [putCc, putCell_putCell]

/-- A frame of a KIND with the next frame number at the bottom of a hod. -/
def withFrame (y : CtxCell) (kind : Nat) (f : Frame) : CtxCell :=
  withWork { y with hod := y.hod ++ [f.set 0 (headerAt f[0] kind (headerScope f[0]) y.frameCtr.toNat)], frameCtr := y.frameCtr + 1 }

theorem releaseFrame_of_room {s : State} {c : Nat} (kind : Nat) (f : Frame) (h : (ccAt s c).hod.length < 64) :
    releaseFrame s c kind f = .ok (putCc s c (withFrame (ccAt s c) kind f)) := by
  have hroom : pushRoom s c = .ok s := if_pos h
  rw [releaseFrame, hroom]
  simp only [Except.map, nextSeq, pushBottom, ccAt_putCc_same, putCc_putCc]
  rfl

theorem releaseFrame_of_line {s w : State} {c : Nat} (kind : Nat) (f : Frame) (h : (ccAt s c).hod.length = 64)
    (hring : (ccAt s c).ringCount < ringCap (ccAt s c))
    (hline : ringLines s c true (ccAt s c).ringCount (min 32 (ringCap (ccAt s c) - (ccAt s c).ringCount)) = .error w) :
    releaseFrame s c kind f = .error w := by
  have hroom : pushRoom s c = .error w := by
    unfold pushRoom
    dsimp only
    rw [if_neg (by omega), if_neg (by omega), hline]
  rw [releaseFrame, hroom]
  rfl

/-- Frames spawned one after another. -/
def withSpawns : CtxCell → List Frame → CtxCell
  | y, [] => y
  | y, f :: l => withSpawns (withFrame y 0 f) l

theorem handOn_spawns (c : Nat) (fs : List Frame) : ∀ s : State, fs ≠ [] → (ccAt s c).hod.length + fs.length ≤ 64 →
    handOn s c (fs.map .spawn) = (putCc s c (withSpawns (ccAt s c) fs), []) := by
  induction fs with
  | nil => exact fun s h => absurd rfl h
  | cons f l ih =>
    intro s _ hlen
    rw [List.length_cons] at hlen
    have hone := releaseFrame_of_room (s := s) (c := c) 0 f (by omega)
    rw [List.map_cons, handOn, hone]
    cases l with
    | nil => rfl
    | cons g l =>
      have hhod : (withFrame (ccAt s c) 0 f).hod.length = (ccAt s c).hod.length + 1 := List.length_append
      dsimp only
      rw [ih (putCc s c (withFrame (ccAt s c) 0 f)) (List.cons_ne_nil g l) (by rw [ccAt_putCc_same, hhod]; omega), ccAt_putCc_same,
        putCc_putCc]
      rfl

/-- A spawned frame with the number that it takes, counted from a value of the frame counter. -/
def numbered (ctr : BitVec 22) (e : Frame × Nat) : Frame :=
  e.1.set 0 (headerAt e.1[0] 0 (headerScope e.1[0]) (ctr + BitVec.ofNat 22 e.2).toNat)

theorem numbered_succ (ctr : BitVec 22) (f : Frame) (n : Nat) : numbered ctr (f, n + 1) = numbered (ctr + 1) (f, n) := by
  have h : ctr + BitVec.ofNat 22 (n + 1) = ctr + 1 + BitVec.ofNat 22 n := by
    rw [BitVec.ofNat_add, BitVec.add_comm (BitVec.ofNat 22 n), BitVec.add_assoc]
    rfl
  simp only [numbered, h]

theorem map_numbered_zipIdx (ctr : BitVec 22) (l : List Frame) :
    (l.zipIdx 1).map (numbered ctr) = l.zipIdx.map (numbered (ctr + 1)) := by
  rw [List.zipIdx_succ, List.map_map]
  exact List.map_congr_left fun e _ => numbered_succ ctr e.1 e.2

theorem withSpawns_eq (fs : List Frame) : ∀ y : CtxCell, fs ≠ [] → withSpawns y fs = withWork { y with
    hod := y.hod ++ fs.zipIdx.map (numbered y.frameCtr), frameCtr := y.frameCtr + BitVec.ofNat 22 fs.length } := by
  induction fs with
  | nil => exact fun y h => absurd rfl h
  | cons f l ih =>
    intro y _
    have hfirst : numbered y.frameCtr (f, 0) = f.set 0 (headerAt f[0] 0 (headerScope f[0]) y.frameCtr.toNat) := by simp [numbered]
    cases l with
    | nil =>
      simp only [withSpawns, withFrame, List.zipIdx_cons, List.zipIdx_nil, List.map_cons, List.map_nil, hfirst, List.length_singleton]
      rfl
    | cons g l =>
      have hctr : y.frameCtr + 1 + BitVec.ofNat 22 (g :: l).length = y.frameCtr + BitVec.ofNat 22 (f :: g :: l).length := by
        rw [List.length_cons (a := f), BitVec.ofNat_add, BitVec.add_comm (BitVec.ofNat 22 _), BitVec.add_assoc]
        rfl
      have hzip : (f :: g :: l).zipIdx.map (numbered y.frameCtr) =
          f.set 0 (headerAt f[0] 0 (headerScope f[0]) y.frameCtr.toNat) :: (g :: l).zipIdx.map (numbered (y.frameCtr + 1)) := by
        rw [List.zipIdx_cons, List.map_cons, hfirst, Nat.zero_add, map_numbered_zipIdx]
      rw [withSpawns, ih _ (List.cons_ne_nil g l), hzip, ← hctr]
      simp only [withFrame, withWork, List.append_assoc, List.singleton_append]

/-! ## A send handed to the port (07 R156, R159) -/

/-- The message of a send. -/
def sentMsg (s : State) (c : Nat) (flat : BitVec 22) (ch : Fin 32) (f : Frame) : OutMsg where
  flat := flat
  chan := ch
  ctxid := (ccAt s c).desc.ctxid
  frame := f.set 0 (headerAt f[0] 1 (max (headerScope f[0]) (scopeCode (spanScope s (flatOf s c) flat.toNat))) (ccAt s c).frameCtr.toNat)
  state := .queued
  backoff := 32
  via := nextTransit s (dieOf (physOf s c)) (destDie s (dieOf (physOf s c)) flat.toNat)

/-- A cell that has handed a send to its port. -/
def withSend (s : State) (c : Nat) (flat : BitVec 22) (ch : Fin 32) (f : Frame) : Cell :=
  { cellAt s c with
    port := (cellAt s c).port ++ [sentMsg s c flat ch f], cc := { ccAt s c with frameCtr := (ccAt s c).frameCtr + 1 } }

theorem cellAt_of_onlyLaths {s t : State} (h : OnlyLaths s t) (c : Nat) : cellAt t c = cellAt s c := by
  have hcells : t.cells = s.cells := (congrArg State.cells h :)
  rw [cellAt, hcells, cellAt]

/-- The package once a send is on its way from a die, its frame number taken. -/
def sendLeaves (s : State) (c : Nat) (flat : BitVec 22) : State :=
  sendMessage (putCc s c { ccAt s c with frameCtr := (ccAt s c).frameCtr + 1 }) (dieOf (physOf s c)) (destDie s (dieOf (physOf s c)) flat.toNat)

theorem releaseSend_eq (s : State) (c : Nat) (flat : BitVec 22) (ch : Fin 32) (f : Frame) :
    releaseSend s c flat ch f = putCell (sendLeaves s c flat) c (withSend s c flat ch f) := by
  have hcell : cellAt (sendLeaves s c flat) c = { cellAt s c with cc := { ccAt s c with frameCtr := (ccAt s c).frameCtr + 1 } } :=
    (cellAt_of_onlyLaths (onlyLaths_sendMessage _ _ _) c).trans (cellAt_putCell_same _ _ _)
  have hstep : releaseSend s c flat ch f = putCell (sendLeaves s c flat) c { cellAt (sendLeaves s c flat) c with
      port := (cellAt (sendLeaves s c flat) c).port ++ [{ sentMsg s c flat ch f with ctxid := (cellAt (sendLeaves s c flat) c).cc.desc.ctxid }] } := rfl
  rw [hstep, hcell]
  rfl

theorem handOn_send {s : State} {c : Nat} {flat : BitVec 22} {ch : Fin 32} {f : Frame} (h : (cellAt s c).port.length < 64) :
    handOn s c [.send flat ch f] = (putCell (sendLeaves s c flat) c (withSend s c flat ch f), []) := by
  rw [handOn, if_neg (by omega), releaseSend_eq, handOn]

/-! ## A slot that ends, and one that stays in COMMIT -/

theorem lookPreempt_of_none {s : State} {c : Nat} (h : (cellAt s c).preempt = none) : lookPreempt s c = s := by
  simp [lookPreempt, h]

/-- The package with the slot at hand free and no slot of its cell committing. -/
def slotEnded (s : State) : State := putCell (freeSlot s) s.curCell { cellAt s s.curCell with committing := none }

/-- The package with the slot at hand in COMMIT. -/
def slotCommits (s : State) (x : Slot) : State :=
  putCell (putSlot s { x with run := .commit }) s.curCell { cellAt s s.curCell with committing := some s.curSlot }

theorem commitStep3_of_done {s t : State} (h : handOn s s.curCell (slotOf s).release = (t, [])) (hp : (cellAt t t.curCell).preempt = none) :
    commitStep3 s = slotEnded t := by
  have hput : commitStep3 s = lookPreempt (slotEnded t) t.curCell := by
    unfold commitStep3
    rw [h]
    rfl
  rw [hput]
  refine lookPreempt_of_none ?_
  rw [slotEnded, cellAt_putCell_same]
  exact hp

theorem commitStep3_of_left {s t : State} {r : Release} {l : List Release} (h : handOn s s.curCell (slotOf s).release = (t, r :: l)) :
    commitStep3 s = slotCommits t { slotOf t with release := r :: l, joins := [] } := by
  unfold commitStep3
  rw [h]
  rfl

/-- What a commit does with its join list taken as far as it goes. -/
def commitAfter (r : State × List JoinEntry) : State := match r.2 with
  | [] => commitStep3 r.1
  | l => slotCommits r.1 { slotOf r.1 with joins := l }

theorem commit_eq (s : State) : commit s = commitAfter (applyJoins s s.curCell (slotOf s).joins) := rfl

theorem commit_of_no_joins {s : State} (h : (slotOf s).joins = []) : commit s = commitStep3 s := by
  rw [commit_eq, h]
  rfl

/-! ## What stays as it was -/

theorem slotOf_slotEnded (s : State) : slotOf (slotEnded s) = freed (slotOf s) := by
  have h : slotOf (slotEnded s) = slotOf (freeSlot s) := rfl
  rw [h, slotOf_freeSlot]
  rfl

theorem cellAt_slotEnded (s : State) : cellAt (slotEnded s) s.curCell = { cellAt s s.curCell with committing := none } :=
  cellAt_putCell_same _ _ _

theorem otherCells_slotEnded (s : State) : OtherCells s.curCell s (slotEnded s) := fun _ hc =>
  cellAt_putCell_other (freeSlot s) _ _ _ hc.symm

theorem otherSlots_slotEnded (s : State) : OtherSlots s (slotEnded s) :=
  otherSlots_putSlot (s := s) (t := s) rfl rfl (fun _ _ => rfl) _

theorem slotEnded_rest (s : State) : { slotEnded s with slots := s.slots, cells := s.cells } = s := rfl

theorem slotOf_slotCommits (s : State) (x : Slot) : slotOf (slotCommits s x) = { x with run := .commit } := slotOf_putSlot s _

theorem cellAt_slotCommits (s : State) (x : Slot) :
    cellAt (slotCommits s x) s.curCell = { cellAt s s.curCell with committing := some s.curSlot } := cellAt_putCell_same _ _ _

theorem otherCells_slotCommits (s : State) (x : Slot) : OtherCells s.curCell s (slotCommits s x) := fun _ hc =>
  cellAt_putCell_other (putSlot s { x with run := .commit }) _ _ _ hc.symm

theorem otherSlots_slotCommits (s : State) (x : Slot) : OtherSlots s (slotCommits s x) :=
  otherSlots_putSlot (s := s) (t := s) rfl rfl (fun _ _ => rfl) _

theorem slotCommits_rest (s : State) (x : Slot) : { slotCommits s x with slots := s.slots, cells := s.cells } = s := rfl

/-! ## end (05 R116; 07 R158) -/

theorem exec_endAct_of_level {s : State} (h : (slotOf s).level ≠ 0) : exec .endAct s = .next (trapPriv s 0x0EA) := if_pos h

section
variable {s : State} (hl : (slotOf s).level = 0)
include hl

theorem exec_endAct_of_committing (h : (cellAt s s.curCell).committing ≠ none) : exec .endAct s = .next (waitHere s) :=
  (if_neg (not_not.mpr hl)).trans (if_pos (Option.isSome_iff_ne_none.mpr h))

theorem exec_endAct_of_alone (h : (cellAt s s.curCell).committing = none) : exec .endAct s =
    if freeFrames (ccOf s) < (slotOf s).release.length + (slotOf s).joins.length then
      .next (trapHere s 0x0A 0 (infoArg (freeFrames (ccOf s)) ((slotOf s).release.length + (slotOf s).joins.length) 0))
    else .next (commit s) :=
  (if_neg (not_not.mpr hl)).trans (if_neg (by rw [h]; exact Bool.false_ne_true))

theorem exec_endAct_of_room (h : (cellAt s s.curCell).committing = none)
    (hf : (slotOf s).release.length + (slotOf s).joins.length ≤ freeFrames (ccOf s)) : exec .endAct s = .next (commit s) := by
  rw [exec_endAct_of_alone hl h, if_neg (Nat.not_lt.mpr hf)]

end

end Sys2Proof.Machine
end

section
/-! end and what it hands on, clause by clause (05 R116; 07 R156-R159, R166). -/

namespace Sys2Proof.Machine

open Sys2Proof.Safety

/-! ## A slot that ends after its release buffer has been handed on -/

/-- From one state to another the cell at hand and messages on laths alone have changed. -/
structure HandedOn (s t : State) (y : Cell) : Prop where
  only : OnlyLaths s { t with cells := s.cells }
  cell : cellAt t s.curCell = y
  others : OtherCells s.curCell s t

section
variable {s t : State} {y : Cell} (h : HandedOn s t y)
include h

theorem HandedOn.curCell : t.curCell = s.curCell := (congrArg State.curCell h.only :)

theorem HandedOn.curSlot : t.curSlot = s.curSlot := (congrArg State.curSlot h.only :)

theorem HandedOn.slots : t.slots = s.slots := (congrArg State.slots h.only :)

theorem HandedOn.slotAt_eq (c : Nat) (k : Fin 4) : slotAt t c k = slotAt s c k := by
  rw [slotAt, h.slots, slotAt]

theorem HandedOn.slotOf_eq : slotOf t = slotOf s := by
  rw [slotOf, h.curCell, h.curSlot, h.slotAt_eq, slotOf]

/-- The slot at hand ends: it is freed, no slot of its cell commits, and the rest is as the release buffer left it. -/
theorem HandedOn.ended : slotOf (slotEnded t) = freed (slotOf s) ∧ OtherSlots s (slotEnded t) ∧
    cellAt (slotEnded t) s.curCell = { y with committing := none } ∧ OtherCells s.curCell s (slotEnded t) ∧
    OnlyLaths s { slotEnded t with slots := s.slots, cells := s.cells } := by
  refine ⟨by rw [slotOf_slotEnded, h.slotOf_eq], fun c k hck => ?_, ?_, fun c hc => ?_,
    (congrArg (fun v : State => { v with slots := s.slots }) h.only :)⟩
  · rw [← h.curCell, ← h.curSlot] at hck
    exact (otherSlots_slotEnded t c k hck).trans (h.slotAt_eq c k)
  · have hcell := cellAt_slotEnded t
    rw [h.curCell, h.cell] at hcell
    exact hcell
  · rw [← h.curCell] at hc
    exact (otherCells_slotEnded t c hc).trans (h.others c (h.curCell ▸ hc))

end

theorem handedOn_refl (s : State) : HandedOn s s (cellAt s s.curCell) := ⟨rfl, rfl, fun _ _ => rfl⟩

theorem handedOn_putCc (s : State) (y : CtxCell) : HandedOn s (putCc s s.curCell y) { cellAt s s.curCell with cc := y } where
  only := rfl
  cell := cellAt_putCell_same _ _ _
  others _ hc := cellAt_putCell_other _ _ _ _ hc.symm

theorem handedOn_send (s : State) (flat : BitVec 22) (y : Cell) :
    HandedOn s (putCell (sendLeaves s s.curCell flat) s.curCell y) y where
  only := (congrArg (fun v : State => { v with cells := s.cells })
    (onlyLaths_sendMessage (putCc s s.curCell { ccAt s s.curCell with frameCtr := (ccAt s s.curCell).frameCtr + 1 }) _ _) :)
  cell := cellAt_putCell_same _ _ _
  others c hc := (cellAt_putCell_other _ _ _ _ hc.symm).trans
    ((cellAt_of_onlyLaths (onlyLaths_sendMessage _ _ _) c).trans (cellAt_putCell_other _ _ _ _ hc.symm))

/-! ## The clauses together -/

/-- What the statement says of an end that is through: the cell at hand becomes `y`. -/
def EndsAs (s : State) (y : Cell) : Prop := ∃ t, exec .endAct s = .next t ∧ slotOf t = freed (slotOf s) ∧ OtherSlots s t ∧
  cellAt t s.curCell = y ∧ OtherCells s.curCell s t ∧ OnlyLaths s { t with slots := s.slots, cells := s.cells }

section
variable {s : State} (hl : (slotOf s).level = 0) (hc : (cellAt s s.curCell).committing = none)
  (hj : (slotOf s).joins = [])
include hl hc hj

theorem exec_endAct_of_no_joins (hf : (slotOf s).release.length ≤ freeFrames (ccOf s)) : exec .endAct s = .next (commitStep3 s) := by
  rw [exec_endAct_of_room hl hc (by rw [hj]; exact hf), commit_of_no_joins hj]

theorem endsAs_of_handedOn {t : State} {y : Cell} (hf : (slotOf s).release.length ≤ freeFrames (ccOf s))
    (hand : handOn s s.curCell (slotOf s).release = (t, [])) (h : HandedOn s t y) (hy : y.committing = none ∧ y.preempt = none) :
    EndsAs s y := by
  have hpre : (cellAt t t.curCell).preempt = none := by rw [h.curCell, h.cell, hy.2]
  obtain ⟨hslot, hslots, hcell, hcells, honly⟩ := h.ended
  refine ⟨slotEnded t, ?_, hslot, hslots, ?_, hcells, honly⟩
  · rw [exec_endAct_of_no_joins hl hc hj hf, commitStep3_of_done hand hpre]
  · rw [hcell, ← hy.1]

end

theorem le_freeFrames_of_hod {c : CtxCell} {n : Nat} (h : c.hod.length + n ≤ 64) : n ≤ freeFrames c := by
  unfold freeFrames
  omega

theorem one_le_freeFrames {c : CtxCell} (hr : c.ringCount < ringCap c) : 1 ≤ freeFrames c := by
  unfold freeFrames
  omega

theorem infoArg_zero (free n : Nat) : infoArg free n 0 = BitVec.ofNat 64 (free * 2 ^ 32 + n * 2 ^ 16) := by rw [infoArg, Nat.add_zero]

/-- end, clause by clause. -/
theorem endCommits : Claims.EndCommits := by
  intro s w fs flat ch f x cell c entries head scope quiet Ends
  refine ⟨fun hl => ?_, fun hl hc => exec_endAct_of_committing hl hc, fun hl hc hf => ?_, fun ⟨hl, hc, hp, hj⟩ hr => ?_,
    fun ⟨hl, hc, hp, hj⟩ hne hr hlen => ?_, fun ⟨hl, hc, hp, hj⟩ hr hfree hport => ?_, fun ⟨hl, hc, hp, hj⟩ hr hhod hring hline => ?_,
    fun h k sc q hk hsc hq => headerAt_fields h k sc q hk hsc hq⟩
  · exact traps_takeTrap (exec_endAct_of_level hl)
  · have hexec : exec .endAct s = .next (trapHere s 0x0A 0 (BitVec.ofNat 64 (freeFrames c * 2 ^ 32 + entries * 2 ^ 16))) := by
      rw [exec_endAct_of_alone hl hc, infoArg_zero]
      exact if_pos hf
    exact traps_takeTrap hexec
  · refine endsAs_of_handedOn hl hc hj ?_ (t := s) ?_ (handedOn_refl s) ⟨hc, hp⟩
    · rw [hr]
      exact Nat.zero_le _
    · rw [hr]
      rfl
  · have hcc : withSpawns c fs = withWork { c with
        hod := c.hod ++ fs.zipIdx.map (fun e => head e.1 0 (scope e.1) e.2)
        frameCtr := c.frameCtr + BitVec.ofNat 22 fs.length } := withSpawns_eq fs c hne
    have hand : handOn s s.curCell (slotOf s).release = (putCc s s.curCell (withSpawns c fs), []) := by
      rw [hr]
      exact handOn_spawns s.curCell fs s hne hlen
    have hends := endsAs_of_handedOn hl hc hj (by rw [hr, List.length_map]; exact le_freeFrames_of_hod hlen) hand
      (handedOn_putCc s _) ⟨hc, hp⟩
    rw [hcc] at hends
    exact hends
  · intro wide die
    have hand : handOn s s.curCell (slotOf s).release =
        (putCell (sendLeaves s s.curCell flat) s.curCell (withSend s s.curCell flat ch f), []) := by
      rw [hr]
      exact handOn_send hport
    have hends := endsAs_of_handedOn hl hc hj (by rw [hr]; exact hfree) hand (handedOn_send s flat _) ⟨hc, hp⟩
    have hmsg : sentMsg s s.curCell flat ch f = ⟨flat, ch, c.desc.ctxid, head f 1 wide 0, .queued, 32, nextTransit s (myDie s) die⟩ := by
      have hnumber : c.frameCtr + BitVec.ofNat 22 0 = c.frameCtr := BitVec.add_zero _
      simp only [head, hnumber]
      rfl
    rw [withSend, hmsg] at hends
    exact hends
  · have hline' : releaseFrame s s.curCell 0 f = .error w := releaseFrame_of_line 0 f hhod hring hline
    have hq : Quiet s w := (quiet_acquireLines _).2 w hline
    have hand : handOn s s.curCell (slotOf s).release = (w, [.spawn f]) := by
      rw [hr, handOn, hline']
    have hslot : { slotOf w with release := [.spawn f], joins := [], run := .commit } = ({ x with run := .commit } : Slot) := by
      rw [hq.slotOf, ← hr, ← hj]
    refine ⟨slotCommits w { slotOf w with release := [.spawn f], joins := [] }, ?_, ?_, ?_, fun d k hdk => ?_, fun d hd => ?_,
      slotCommits_rest w _, hq.only⟩
    · rw [exec_endAct_of_no_joins hl hc hj (by rw [hr]; exact one_le_freeFrames hring), commitStep3_of_left hand]
    · rw [slotOf_slotCommits]
      exact hslot
    · have hcell := cellAt_slotCommits w { slotOf w with release := [.spawn f], joins := [] }
      rw [hq.curCell, hq.curSlot, hq.cellAt] at hcell
      exact hcell
    · rw [← hq.curCell, ← hq.curSlot] at hdk
      exact (otherSlots_slotCommits w _ d k hdk).trans (hq.slotAt d k)
    · rw [← hq.curCell] at hd
      exact (otherCells_slotCommits w _ d hd).trans (hq.cellAt d)

end Sys2Proof.Machine
end

section
/-! A join committed: its counter at the home of its line, what its cell hears of it, and the continuation it releases
(07 R160, R163, R417). -/

namespace Sys2Proof.Machine

open Sys2Proof.Safety

/-! ## States that differ in the slot at hand and in the memory system -/

/-- The cells and the slots but that at hand are as before. -/
structure Beside (s u : State) : Prop where
  curCell : u.curCell = s.curCell
  curSlot : u.curSlot = s.curSlot
  cells : u.cells = s.cells
  slots : OtherSlots s u
  plat : u.plat = s.plat

theorem Beside.refl (s : State) : Beside s s := ⟨rfl, rfl, rfl, fun _ _ _ => rfl, rfl⟩

theorem Beside.trans {s t u : State} (h : Beside s t) (k : Beside t u) : Beside s u where
  curCell := k.curCell.trans h.curCell
  curSlot := k.curSlot.trans h.curSlot
  cells := k.cells.trans h.cells
  slots c j hcj := (k.slots c j (by rw [h.curCell, h.curSlot]; exact hcj)).trans (h.slots c j hcj)
  plat := k.plat.trans h.plat

theorem Quiet.beside {s t : State} (h : Quiet s t) : Beside s t :=
  ⟨h.curCell, h.curSlot, h.cells, fun c k _ => h.slotAt c k, h.plat⟩

theorem beside_putSlot (s : State) (x : Slot) : Beside s (putSlot s x) :=
  ⟨rfl, rfl, rfl, otherSlots_putSlot (s := s) (t := s) rfl rfl (fun _ _ => rfl) x, rfl⟩

theorem beside_setStall (s : State) (x : Stall) : Beside s (setStall s x) := beside_putSlot s _

theorem beside_memWrite (s : State) (a : Nat) (bs : List Byte) : Beside s (memWrite s a bs) := by
  have h := memWrite_frame bs s a
  exact ⟨(congrArg State.curCell h :), (congrArg State.curSlot h :), (congrArg State.cells h :),
    fun c k _ => congrArg (fun t => tabGet Slot.reset t (slotKey c k)) (congrArg State.slots h :), (congrArg State.plat h :)⟩

theorem cellAt_putCc_at (s : State) (c : Nat) (y : CtxCell) : cellAt (putCc s c y) c = { cellAt s c with cc := y } :=
  cellAt_putCell_same _ _ _

section
variable {s u : State} (h : Beside s u)
include h

theorem Beside.cellAt_eq (c : Nat) : cellAt u c = cellAt s c := by rw [cellAt, h.cells, cellAt]

theorem Beside.ccAt_eq (c : Nat) : ccAt u c = ccAt s c := by rw [ccAt, h.cellAt_eq, ccAt]

theorem Beside.myDie_eq : myDie u = myDie s := by rw [myDie, physOf, h.plat, h.curCell, myDie, physOf]

/-- A slot left in COMMIT, seen from before. -/
theorem Beside.commits (x : Slot) : slotOf (slotCommits u x) = { x with run := .commit } ∧
    cellAt (slotCommits u x) s.curCell = { cellAt s s.curCell with committing := some s.curSlot } ∧ OtherSlots s (slotCommits u x) ∧
    OtherCells s.curCell s (slotCommits u x) ∧ { slotCommits u x with slots := u.slots, cells := u.cells } = u := by
  refine ⟨slotOf_slotCommits u x, ?_, fun c k hck => ?_, fun c hc => ?_, slotCommits_rest u x⟩
  · have hcell := cellAt_slotCommits u x
    rw [h.curCell, h.curSlot, h.cellAt_eq] at hcell
    exact hcell
  · refine (otherSlots_slotCommits u x c k ?_).trans (h.slots c k hck)
    rw [h.curCell, h.curSlot]
    exact hck
  · refine (otherCells_slotCommits u x c ?_).trans (h.cellAt_eq c)
    rw [h.curCell]
    exact hc

/-- A slot ended where the context of its cell has become another, seen from before. -/
theorem Beside.ends {v : State} {y : CtxCell} (hrest : { v with cells := u.cells } = u)
    (hcell : cellAt v s.curCell = { cellAt s s.curCell with cc := y }) (hother : OtherCells s.curCell u v) :
    slotOf (slotEnded v) = freed (slotOf u) ∧ ccOf (slotEnded v) = y ∧
      { cellAt (slotEnded v) s.curCell with cc := ccAt s s.curCell } = { cellAt s s.curCell with committing := none } ∧
      OtherSlots s (slotEnded v) ∧ OtherCells s.curCell s (slotEnded v) ∧
      { slotEnded v with slots := u.slots, cells := u.cells } = u := by
  have hcur : v.curCell = s.curCell := (congrArg State.curCell hrest :).trans h.curCell
  have hslot : v.curSlot = s.curSlot := (congrArg State.curSlot hrest :).trans h.curSlot
  have hslots : v.slots = u.slots := (congrArg State.slots hrest :)
  have hat : ∀ c k, slotAt v c k = slotAt u c k := fun c k => by rw [slotAt, hslots, slotAt]
  have hend : cellAt (slotEnded v) s.curCell = { cellAt s s.curCell with cc := y, committing := none } := by
    have hc := cellAt_slotEnded v
    rw [hcur, hcell] at hc
    exact hc
  refine ⟨?_, ?_, ?_, fun c k hck => ?_, fun c hc => ?_, (congrArg (fun t : State => { t with slots := u.slots }) hrest :)⟩
  · rw [slotOf_slotEnded, slotOf, hat, hcur, hslot, ← h.curCell, ← h.curSlot, slotOf]
  · have hcc : ccOf (slotEnded v) = (cellAt (slotEnded v) s.curCell).cc := congrArg (ccAt (slotEnded v)) hcur
    rw [hcc, hend]
  · rw [hend]
    rfl
  · refine ((otherSlots_slotEnded v c k ?_).trans (hat c k)).trans (h.slots c k hck)
    rw [hcur, hslot]
    exact hck
  · refine ((otherCells_slotEnded v c ?_).trans (hother c hc)).trans (h.cellAt_eq c)
    rw [hcur]
    exact hc

end

/-! ## What a cell hears of a join (07 R163, R417) -/

/-- Where a join list of one entry stands once its cell has heard of it. -/
def heardOutcome (u : State) (c : Nat) (e : JoinEntry) (code : Nat) : State × List JoinEntry :=
  match hearJoin u c e code with
  | (t, false) => (t, [])
  | (t, true) =>
    match releaseCont t c e with
    | .error w => (w, [{ e with releaseOnly := true }])
    | .ok v => (v, [])

theorem applyJoins_releaseOnly (s : State) (c : Nat) {e : JoinEntry} (h : e.releaseOnly = true) :
    applyJoins s c [e] = heardOutcome s c e 2 := by
  have hhear : hearJoin s c e 2 = (s, true) := rfl
  cases hcont : releaseCont s c e with
  | error w => simp only [applyJoins, h, if_true, heardOutcome, hhear, hcont]
  | ok v => simp only [applyJoins, h, if_true, heardOutcome, hhear, hcont]

section
variable {s u : State} {c : Nat} {e : JoinEntry} (h : e.releaseOnly = false)
include h

theorem applyJoins_of_heard {code : Nat} (hs : joinStep s c e = .ok (hearJoin u c e code)) : applyJoins s c [e] = heardOutcome u c e code := by
  simp only [applyJoins, h, Bool.false_eq_true, if_false, hs, heardOutcome]
  rcases hearJoin u c e code with ⟨t, b⟩
  cases b
  · rfl
  · cases releaseCont t c e <;> rfl

theorem applyJoins_of_waits (hs : joinStep s c e = .error u) : applyJoins s c [e] = (u, [e]) := by
  simp only [applyJoins, h, Bool.false_eq_true, if_false, hs]

end

theorem heardOutcome_of_nothing (u : State) (c : Nat) (e : JoinEntry) : heardOutcome u c e 0 = (u, []) := rfl

theorem heardOutcome_of_event (u : State) (c : Nat) (e : JoinEntry) {code : Nat} (h : code = 1 ∨ code = 6) :
    heardOutcome u c e code = (putCc u c (ccEvent (ccAt u c) code e.va), []) := by
  rcases h with rfl | rfl <;> rfl

theorem heardOutcome_of_line {u w : State} {c : Nat} {e : JoinEntry} (h : cellLine u c false e.pa = .error w) :
    heardOutcome u c e 2 = (w, [{ e with releaseOnly := true }]) := by
  have hhear : hearJoin u c e 2 = (u, true) := rfl
  have hcont : releaseCont u c e = .error w := by rw [releaseCont, h]
  simp only [heardOutcome, hhear, hcont]

theorem heardOutcome_of_poison {u w : State} {c : Nat} {e : JoinEntry} (h : cellLine u c false e.pa = .ok w)
    (hb : frameBad w (dieOf (physOf w c)) (e.pa + 64) = true) :
    heardOutcome u c e 2 = (putCc w c (ccEvent (ccAt w c) 6 e.va), []) := by
  have hhear : hearJoin u c e 2 = (u, true) := rfl
  have hcont : releaseCont u c e = .ok (postEvent w c 6 e.va) := by
    rw [releaseCont, h]
    exact if_pos hb
  simp only [heardOutcome, hhear, hcont]
  rfl

theorem heardOutcome_of_frame {u w : State} {c : Nat} {e : JoinEntry} (h : cellLine u c false e.pa = .ok w)
    (hb : frameBad w (dieOf (physOf w c)) (e.pa + 64) = false) (hroom : (ccAt w c).hod.length < 64) : heardOutcome u c e 2 =
      (putCc w c (withFrame (ccAt w c) 2 (physFrame w (dieOf (physOf w c)) (e.pa + 64))), []) := by
  have hhear : hearJoin u c e 2 = (u, true) := rfl
  have hcont : releaseCont u c e = .ok (putCc w c (withFrame (ccAt w c) 2 (physFrame w (dieOf (physOf w c)) (e.pa + 64)))) := by
    rw [releaseCont, h]
    exact (if_neg (by rw [hb]; exact Bool.false_ne_true)).trans (releaseFrame_of_room 2 _ hroom)
  simp only [heardOutcome, hhear, hcont]

/-! ## At the home of the counter (07 R160; 12 R251) -/

theorem quiet_arriveMessage (s : State) (r : CohReq) : Quiet s (arriveMessage s r) := by
  unfold arriveMessage
  split
  · next m t h => exact ((quiet_popReq h).trans (quiet_takeReq t m)).trans (quiet_drain _)
  · exact .refl s

theorem quiet_askHome (s : State) (pa : Nat) : Quiet (setStall s (.home pa)) (askHome s pa) := quiet_routeHome _ _ _

theorem homeReady_quiet {s : State} {pa : Nat} : (∀ v, homeReady s pa = .ok v → Quiet s v) ∧
    ∀ w, homeReady s pa = .error w → Quiet s w ∨ Quiet (setStall s (.home pa)) w := by
  have hask : ∀ w : State, Except.error (askHome s pa) = (.error w : Except State State) →
      Quiet s w ∨ Quiet (setStall s (.home pa)) w := fun w hw => by
    cases hw
    exact .inr (quiet_askHome s pa)
  have harrive := quiet_arriveMessage s (atomReq s (pa / 128))
  unfold homeReady
  dsimp only
  split
  · split
    · refine ⟨fun v hv => ?_, fun w hw => (by cases hw)⟩
      cases hv
      exact harrive
    · refine ⟨fun v hv => (by cases hv), fun w hw => ?_⟩
      cases hw
      exact .inl harrive
  · split
    · split
      · next t ht =>
        refine ⟨fun v hv => ?_, fun w hw => (by cases hw)⟩
        cases hv
        exact quiet_homeClear.1 t ht
      · exact ⟨fun v hv => (by cases hv), hask⟩
    · exact ⟨fun v hv => (by cases hv), hask⟩

theorem homeReady_waits {s w : State} {pa : Nat} (h : homeReady s pa = .error w) :
    Beside s w ∧ (slotOf w).joins = (slotOf s).joins ∧ OnlyMemory s { w with slots := s.slots } := by
  rcases homeReady_quiet.2 w h with hq | hq
  · exact ⟨hq.beside, by rw [hq.slotOf], (congrArg (fun v : State => { v with slots := s.slots }) hq.only :)⟩
  · refine ⟨(beside_setStall s _).trans hq.beside, ?_, (congrArg (fun v : State => { v with slots := s.slots }) hq.only :)⟩
    rw [hq.slotOf, setStall, slotOf_putSlot]

theorem quiet_homeDone (s : State) (line : Nat) : Quiet s (homeDone s line) := by
  unfold homeDone
  split
  · exact (quiet_putCoh s _).trans (quiet_drain _)
  · exact .refl s

/-- What a cell hears of a counter: 6 where it is poisoned, 1 where it is not above 0, 2 where it was 1 (07 R163, R417). -/
def joinCode (bad : Bool) (n : Int) : Nat := if bad then 6 else if n ≤ 0 then 1 else if n = 1 then 2 else 0

theorem countJoin_eq (v : State) (e : JoinEntry) : countJoin v e =
    (if joinCode (rangeBad v e.pa 4) (joinCount v e.pa) = 2 ∨ joinCode (rangeBad v e.pa 4) (joinCount v e.pa) = 0
      then memWrite v e.pa (bytesOf (joinCount v e.pa - 1).toNat 4) else v, joinCode (rangeBad v e.pa 4) (joinCount v e.pa)) := by
  unfold countJoin joinCode
  by_cases hb : rangeBad v e.pa 4 = true
  · simp [hb]
  · by_cases hn : joinCount v e.pa ≤ 0
    · simp [hb, hn]
    · by_cases h1 : joinCount v e.pa = 1 <;> simp [hb, hn, h1]

/-- The package once a join has been counted at its home, the slot's stall gone. -/
def joinCounted (v : State) (e : JoinEntry) : State := setStall (homeDone (countJoin v e).1 (e.pa / 128)) .none

theorem beside_countJoin (v : State) (e : JoinEntry) : Beside v (countJoin v e).1 := by
  rw [countJoin_eq]
  split
  · exact beside_memWrite v _ _
  · exact .refl v

theorem beside_joinCounted (v : State) (e : JoinEntry) : Beside v (joinCounted v e) :=
  ((beside_countJoin v e).trans (quiet_homeDone _ _).beside).trans (beside_setStall _ _)

theorem slotOf_memWrite (s : State) (a : Nat) (bs : List Byte) : slotOf (memWrite s a bs) = slotOf s := by
  have h := beside_memWrite s a bs
  have hslots : (memWrite s a bs).slots = s.slots := (congrArg State.slots (memWrite_frame bs s a) :)
  rw [slotOf, slotAt, h.curCell, h.curSlot, hslots, slotOf, slotAt]

theorem slotOf_joinCounted (v : State) (e : JoinEntry) : slotOf (joinCounted v e) = { slotOf v with stall := .none } := by
  have hcount : slotOf (countJoin v e).1 = slotOf v := by
    rw [countJoin_eq]
    split
    · exact slotOf_memWrite v _ _
    · rfl
  rw [joinCounted, setStall, slotOf_putSlot, (quiet_homeDone _ _).slotOf, hcount]

theorem onlyMemory_joinCounted (v : State) (e : JoinEntry) : OnlyMemory v { joinCounted v e with slots := v.slots } := by
  have hcount : OnlyMemory v (countJoin v e).1 := by
    rw [countJoin_eq]
    split
    · exact memWrite_only _ v _
    · rfl
  have hdone : OnlyMemory v (homeDone (countJoin v e).1 (e.pa / 128)) := by
    have hq := (quiet_homeDone (countJoin v e).1 (e.pa / 128)).only
    unfold OnlyMemory at *
    rw [← hq] at hcount
    exact hcount
  exact (congrArg (fun t : State => { t with slots := v.slots }) hdone :)

theorem natOf_bytesOf (n : Nat) : ∀ x, natOf (bytesOf x n) = x % 256 ^ n := by
  induction n with
  | zero => exact fun x => (Nat.mod_one x).symm
  | succ n ih =>
    intro x
    rw [bytesOf, natOf, ih, BitVec.toNat_ofNat]
    exact Nat.mod_mul.symm.trans (by rw [← Nat.pow_succ'])

theorem physBytes_memWrite (s : State) (pa : Nat) (bs : List Byte) : physBytes (memWrite s pa bs) pa bs.length = bs := by
  refine List.ext_getElem (by simp [physBytes]) fun i hi hi' => ?_
  simp only [physBytes, List.getElem_map, List.getElem_range]
  exact physByte_memWrite_at bs s pa i hi'

theorem physByte_joinCounted (v : State) (e : JoinEntry) (q : Nat) : physByte (joinCounted v e) q = physByte (countJoin v e).1 q :=
  (quiet_homeDone (countJoin v e).1 (e.pa / 128)).bytes q

theorem physByte_joinCounted_other (v : State) (e : JoinEntry) {q : Nat} (h : q < e.pa ∨ e.pa + 4 ≤ q) :
    physByte (joinCounted v e) q = physByte v q := by
  rw [physByte_joinCounted, countJoin_eq]
  split
  · exact physByte_memWrite_other _ v e.pa q (by rw [length_bytesOf]; exact h)
  · rfl

theorem joinCount_lt (v : State) (pa : Nat) : (joinCount v pa - 1).toNat < 256 ^ 4 := by
  have h := BitVec.toInt_lt (x := BitVec.ofNat 32 (physNat v pa 4))
  have hle : joinCount v pa < 2 ^ 31 := h
  omega

theorem physNat_joinCounted (v : State) (e : JoinEntry) : physNat (joinCounted v e) e.pa 4 =
    if joinCode (rangeBad v e.pa 4) (joinCount v e.pa) = 2 ∨ joinCode (rangeBad v e.pa 4) (joinCount v e.pa) = 0
      then (joinCount v e.pa - 1).toNat else physNat v e.pa 4 := by
  have hbytes : physNat (joinCounted v e) e.pa 4 = physNat (countJoin v e).1 e.pa 4 :=
    congrArg natOf (List.map_congr_left fun i _ => physByte_joinCounted v e (e.pa + i))
  rw [hbytes, countJoin_eq]
  split
  · have hwritten := physBytes_memWrite v e.pa (bytesOf (joinCount v e.pa - 1).toNat 4)
    rw [length_bytesOf] at hwritten
    rw [physNat, hwritten, natOf_bytesOf, Nat.mod_eq_of_lt (joinCount_lt v e.pa)]
  · rfl

/-! ## One step of a join (20 R367, R377) -/

section
variable {s : State} {c : Nat} {e : JoinEntry}

theorem joinStep_of_reply {g : GReg} {via : Transit} {z : Word} (h : (slotOf s).stall = .reply g via z) : joinStep s c e =
    if arrived s via then .ok (hearJoin (setStall s .none) c e z.toNat) else .error s := by
  unfold joinStep
  rw [h]

variable (h : ∀ g via z, (slotOf s).stall ≠ .reply g via z)
include h

theorem joinStep_of_pending (hp : copyPending s (memLocs e.pa 4) = true) : joinStep s c e = .error s := by
  unfold joinStep
  split
  · next g via z hr => exact absurd hr (h g via z)
  · exact if_pos hp

variable (hp : copyPending s (memLocs e.pa 4) = false)
include hp

theorem joinStep_of_unready {w : State} (hw : homeReady s e.pa = .error w) : joinStep s c e = .error w := by
  unfold joinStep
  split
  · next g via z hr => exact absurd hr (h g via z)
  · rw [hp, if_neg Bool.false_ne_true, hw]

theorem joinStep_of_ready {v : State} (hv : homeReady s e.pa = .ok v) : joinStep s c e =
    if byLath (joinCounted v e) (trueHome v (e.pa / 128)) (myDie (joinCounted v e)) then
      .error (setStall (sendMessage (joinCounted v e) (trueHome v (e.pa / 128)) (myDie (joinCounted v e)))
        (.reply 0 (nextTransit (joinCounted v e) (trueHome v (e.pa / 128)) (myDie (joinCounted v e))) (BitVec.ofNat 64 (countJoin v e).2)))
    else .ok (hearJoin (joinCounted v e) c e (countJoin v e).2) := by
  unfold joinStep
  split
  · next g via z hr => exact absurd hr (h g via z)
  · rw [hp, if_neg Bool.false_ne_true, hv]
    rfl

end

end Sys2Proof.Machine
end

section
/-! A join committed, clause by clause (07 R158, R160, R163, R417; 20 R367, R377). -/

namespace Sys2Proof.Machine

open Sys2Proof.Safety

/-- The step leaves the slot at hand in COMMIT as `y`, all else as in `u`. -/
def WaitsWith (i : Instr) (s u : State) (y : Slot) : Prop := ∃ t, exec i s = .next t ∧ slotOf t = { y with run := .commit } ∧
  cellAt t s.curCell = { cellAt s s.curCell with committing := some s.curSlot } ∧ OtherSlots s t ∧ OtherCells s.curCell s t ∧
  { t with slots := u.slots, cells := u.cells } = u

/-- The step ends the slot at hand, the context of its cell become `y`, all else as in `u`. -/
def EndsWith (i : Instr) (s u : State) (y : CtxCell) : Prop := ∃ t, exec i s = .next t ∧ slotOf t = freed (slotOf s) ∧ ccOf t = y ∧
  { cellAt t s.curCell with cc := ccAt s s.curCell } = { cellAt s s.curCell with committing := none } ∧ OtherSlots s t ∧
  OtherCells s.curCell s t ∧ { t with slots := u.slots, cells := u.cells } = u

theorem WaitsWith.of_setStall {i : Instr} {s u : State} {x : Stall} {y : Slot} (h : WaitsWith i s (setStall u x) y) : WaitsWith i s u y := by
  obtain ⟨t, hstep, hslot, hcell, hslots, hcells, hrest⟩ := h
  exact ⟨t, hstep, hslot, hcell, hslots, hcells, (congrArg (fun v : State => { v with slots := u.slots }) hrest :)⟩

/-- A state to which a join has led: beside the start, its slot the one at hand with another stall at most. -/
structure Led (s u : State) : Prop where
  beside : Beside s u
  release : (slotOf u).release = (slotOf s).release
  joins : (slotOf u).joins = (slotOf s).joins
  freed : freed (slotOf u) = freed (slotOf s)

theorem Led.refl (s : State) : Led s s := ⟨.refl s, rfl, rfl, rfl⟩

theorem Led.quiet {s u v : State} (h : Led s u) (k : Quiet u v) : Led s v where
  beside := h.beside.trans k.beside
  release := by rw [k.slotOf, h.release]
  joins := by rw [k.slotOf, h.joins]
  freed := by rw [k.slotOf, h.freed]

theorem led_setStall (s : State) (x : Stall) : Led s (setStall s x) where
  beside := beside_setStall s x
  release := by rw [setStall, slotOf_putSlot]
  joins := by rw [setStall, slotOf_putSlot]
  freed := by
    rw [setStall, slotOf_putSlot]
    rfl

theorem led_joinCounted {s v : State} (h : Led s v) (e : JoinEntry) : Led s (joinCounted v e) where
  beside := h.beside.trans (beside_joinCounted v e)
  release := by rw [slotOf_joinCounted, ← h.release]
  joins := by rw [slotOf_joinCounted, ← h.joins]
  freed := by
    rw [slotOf_joinCounted, ← h.freed]
    rfl

section
variable {i : Instr} {s : State} {e : JoinEntry} (hexec : exec i s = .next (commit s)) (hj : (slotOf s).joins = [e])
include hexec hj

theorem waitsWith_of {u : State} {e' : JoinEntry} (hap : applyJoins s s.curCell [e] = (u, [e'])) (hb : Beside s u) :
    WaitsWith i s u { slotOf u with joins := [e'] } := by
  have hcommit : commit s = slotCommits u { slotOf u with joins := [e'] } := by
    rw [commit_eq, hj, hap]
    rfl
  exact ⟨_, hexec.trans (congrArg _ hcommit), hb.commits _⟩

variable (hp : (cellAt s s.curCell).preempt = none) (hr : (slotOf s).release = [])
include hp hr

theorem endsWith_of {u v : State} {y : CtxCell} (hap : applyJoins s s.curCell [e] = (v, [])) (hl : Led s u)
    (hrest : { v with cells := u.cells } = u) (hcell : cellAt v s.curCell = { cellAt s s.curCell with cc := y })
    (hother : OtherCells s.curCell u v) : EndsWith i s u y := by
  have hcur : v.curCell = s.curCell := (congrArg State.curCell hrest :).trans hl.beside.curCell
  have hslot : slotOf v = slotOf u := (congrArg slotOf hrest :)
  have hand : handOn v v.curCell (slotOf v).release = (v, []) := by
    rw [hslot, hl.release, hr]
    rfl
  have hcommit : commit s = slotEnded v := by
    rw [commit_eq, hj, hap]
    exact commitStep3_of_done hand (by rw [hcur, hcell]; exact hp)
  obtain ⟨hs, hcc, hc, hslots, hcells, hall⟩ := hl.beside.ends hrest hcell hother
  exact ⟨_, hexec.trans (congrArg _ hcommit), hs.trans hl.freed, hcc, hc, hslots, hcells, hall⟩

theorem endsWith_of_putCc {u : State} {y : CtxCell} (hap : applyJoins s s.curCell [e] = (putCc u s.curCell y, [])) (hl : Led s u) :
    EndsWith i s u y :=
  endsWith_of hexec hj hp hr hap hl rfl ((cellAt_putCc_at _ _ _).trans (by rw [hl.beside.cellAt_eq]))
    fun _ hc => cellAt_putCell_other _ _ _ _ hc.symm

/-- What the cell hears of a join, by its code (07 R163, R417). -/
theorem heardWith {u w : State} {k : Nat} (hroom : (ccAt s s.curCell).hod.length < 64)
    (hap : applyJoins s s.curCell [e] = heardOutcome u s.curCell e k) (hl : Led s u) :
    (k = 0 → EndsWith i s u (ccAt s s.curCell)) ∧ (k = 1 ∨ k = 6 → EndsWith i s u (ccEvent (ccAt s s.curCell) k e.va)) ∧
    (k = 2 → cellLine u s.curCell false e.pa = .error w → WaitsWith i s w { slotOf w with joins := [{ e with releaseOnly := true }] }) ∧
    (k = 2 → cellLine u s.curCell false e.pa = .ok w →
      (frameBad w (myDie s) (e.pa + 64) = true → EndsWith i s w (ccEvent (ccAt s s.curCell) 6 e.va)) ∧
      (frameBad w (myDie s) (e.pa + 64) = false →
        EndsWith i s w (withFrame (ccAt s s.curCell) 2 (physFrame w (myDie s) (e.pa + 64))))) := by
  refine ⟨fun hk => ?_, fun hk => ?_, fun hk hline => ?_, fun hk hline => ?_⟩
  · rw [hk, heardOutcome_of_nothing] at hap
    exact endsWith_of hexec hj hp hr hap hl rfl (hl.beside.cellAt_eq _) fun _ _ => rfl
  · rw [heardOutcome_of_event u _ e hk, hl.beside.ccAt_eq] at hap
    exact endsWith_of_putCc hexec hj hp hr hap hl
  · have hq : Quiet u w := (quiet_acquireLines _).2 w hline
    rw [hk, heardOutcome_of_line hline] at hap
    exact waitsWith_of hexec hj hap (hl.quiet hq).beside
  · have hq : Quiet u w := (quiet_acquireLines _).1 w hline
    have hw := hl.quiet hq
    have hdie : dieOf (physOf w s.curCell) = myDie s := by rw [physOf, hw.beside.plat, myDie, physOf]
    refine ⟨fun hb => ?_, fun hb => ?_⟩
    · rw [← hdie] at hb
      rw [hk, heardOutcome_of_poison hline hb, hw.beside.ccAt_eq] at hap
      exact endsWith_of_putCc hexec hj hp hr hap hw
    · rw [← hdie] at hb ⊢
      rw [hk, heardOutcome_of_frame hline hb (by rw [hw.beside.ccAt_eq]; exact hroom), hw.beside.ccAt_eq] at hap
      exact endsWith_of_putCc hexec hj hp hr hap hw

end

theorem exec_sendHandoff_of_commit {s : State} (h : (slotOf s).run = .commit) :
    exec (.sendHandoff s.curCell s.curSlot) s = .next (commit s) := by
  show execSendHandoff s.curCell s.curSlot s = _
  unfold execSendHandoff
  rw [show (slotAt s s.curCell s.curSlot).run = .commit from h]
  rfl

theorem exec_commit {i : Instr} {s : State} {e : JoinEntry} (hi : i = .endAct ∧ (slotOf s).level = 0 ∧
      (cellAt s s.curCell).committing = none ∨ i = .sendHandoff s.curCell s.curSlot ∧ (slotOf s).run = .commit)
    (hr : (slotOf s).release = []) (hj : (slotOf s).joins = [e]) (hroom : (ccAt s s.curCell).hod.length < 64) :
    exec i s = .next (commit s) := by
  rcases hi with ⟨rfl, hl, hc⟩ | ⟨rfl, hrun⟩
  · refine exec_endAct_of_room hl hc ?_
    rw [hr, hj]
    exact le_freeFrames_of_hod (c := ccOf s) hroom
  · exact exec_sendHandoff_of_commit hrun

end Sys2Proof.Machine
end

section
namespace Sys2Proof.Machine

open Sys2Proof.Safety

theorem slot_with_joins {x : Slot} {l : List JoinEntry} (h : x.joins = l) : { x with joins := l } = x := by rw [← h]

theorem slotOf_setStall (s : State) (y : Stall) : slotOf (setStall s y) = { slotOf s with stall := y } := by rw [setStall, slotOf_putSlot]

/-- The slot with its join, once the counter has moved and the answer is on its way. -/
theorem slotOf_answered {s v : State} (h : slotOf v = slotOf s) {e : JoinEntry} (hj : (slotOf s).joins = [e]) (a b : Nat) (y : Stall) :
    { slotOf (setStall (sendMessage (joinCounted v e) a b) y) with joins := [e] } = { slotOf s with stall := y } := by
  rw [slotOf_setStall, (quiet_sendMessage _ a b).slotOf, slotOf_joinCounted, h, ← hj]

/-- Two steps that move the memory system, the second the slots also, move the memory system and the slots. -/
theorem onlyMemory_trans_slots {s v u : State} (h : OnlyMemory s v) (k : OnlyMemory v { u with slots := v.slots }) :
    OnlyMemory s { u with slots := s.slots } := by
  have hu := congrArg (fun y : State =>
    { y with slots := s.slots, mem := s.mem, dirty := s.dirty, poison := s.poison, coh := s.coh, tlbs := s.tlbs,
             dies := { y.dies with links := s.dies.links, streams := s.dies.streams } }) k
  exact hu.trans (congrArg (fun y : State => { y with slots := s.slots }) h)

/-- A join committed, clause by clause. -/
theorem joinCommits : Claims.JoinCommits := by
  intro s v w e i g via z x cell c line n bad code counted far Waits Ends Heard hi hp hr hj hroom
  have hexec : exec i s = .next (commit s) := exec_commit hi hr hj hroom
  have hheard : ∀ {u : State} {k : Nat}, applyJoins s s.curCell [e] = heardOutcome u s.curCell e k → Led s u → Heard u k := fun hap hl =>
    heardWith hexec hj hp hr hroom hap hl
  have hwait : ∀ {u : State}, applyJoins s s.curCell [e] = (u, [e]) → Led s u → Waits u (slotOf u) := fun {u} hap hl => by
    have h := waitsWith_of hexec hj hap hl.beside
    rwa [slot_with_joins (hl.joins.trans hj)] at h
  refine ⟨fun ho => hheard (applyJoins_releaseOnly s s.curCell ho) (.refl s), fun ho hst => ⟨fun ha => ?_, fun ha => ?_⟩,
    fun ho hst => ⟨fun hpend => ?_, fun hpend => ⟨fun hready => ?_, fun hready => ?_⟩⟩⟩
  · refine hwait (applyJoins_of_waits ho ?_) (.refl s)
    rw [joinStep_of_reply hst, ha, if_neg Bool.false_ne_true]
  · refine hheard (applyJoins_of_heard ho ?_) (led_setStall s _)
    rw [joinStep_of_reply hst, ha, if_pos rfl]
  · exact hwait (applyJoins_of_waits ho (joinStep_of_pending hst hpend)) (.refl s)
  · obtain ⟨hbeside, hjoins, honly⟩ := homeReady_waits hready
    have h := waitsWith_of hexec hj (applyJoins_of_waits ho (joinStep_of_unready hst hpend hready)) hbeside
    rw [slot_with_joins (hjoins.trans hj)] at h
    exact ⟨h, honly⟩
  · have hq : Quiet s v := homeReady_quiet.1 v hready
    have hbytes : physNat v e.pa 4 = physNat s e.pa 4 := congrArg natOf (List.map_congr_left fun k _ => hq.bytes (e.pa + k))
    have hcount : joinCount v e.pa = n := by
      rw [joinCount, hbytes]
    have hcode : joinCode (rangeBad v e.pa 4) (joinCount v e.pa) = code := by
      rw [hcount]
      rfl
    have hcounted : joinCounted v e = counted := by
      rw [joinCounted, countJoin_eq, hcode, hcount]
    have hled : Led s counted := hcounted ▸ led_joinCounted ((Led.refl s).quiet hq) e
    have hstep := joinStep_of_ready (c := s.curCell) hst hpend hready
    have hsecond : (countJoin v e).2 = code := by rw [countJoin_eq, hcode]
    rw [hcounted, hled.beside.myDie_eq, hsecond] at hstep
    refine ⟨fun hlath => ?_, fun hlath => ?_, ?_, fun q hq' => ?_, ?_⟩
    · rw [hlath, if_neg Bool.false_ne_true] at hstep
      exact hheard (applyJoins_of_heard ho hstep) hled
    · rw [hlath, if_pos rfl] at hstep
      have hsent := hled.quiet (quiet_sendMessage counted far (myDie s))
      have h := waitsWith_of hexec hj (applyJoins_of_waits ho hstep) (hsent.beside.trans (beside_setStall _ _))
      rw [← hcounted, slotOf_answered hq.slotOf hj, hcounted] at h
      exact h.of_setStall
    · exact hcounted ▸ onlyMemory_trans_slots hq.only (onlyMemory_joinCounted v e)
    · rw [← hcounted, physByte_joinCounted_other v e hq', hq.bytes]
    · rw [← hcounted, physNat_joinCounted, hcode, hcount, hbytes]

/-- Settles O28: end by what its release buffer hands on, a join by what its home counts and its cell hears. -/
theorem commits : Obligations.Commits := ⟨endCommits, joinCommits⟩

end Sys2Proof.Machine
end

section
/-! The lowest byte of an access that fails its checks, and the trap it gives (02 R35; 06 R148; 18 R344, R345). -/

namespace Sys2Proof.Machine

open Sys2Proof.Safety

/-! ## The lowest failing byte -/

theorem notMem_of_lowestBad_none {l : List (Word × Except Bad Loc)} (h : lowestBad l = none) (a : Word) (b : Bad) :
    (a, .error b) ∉ l := by
  induction l with
  | nil => exact List.not_mem_nil
  | cons e l ih =>
    obtain ⟨x, r⟩ := e
    cases r with
    | error y => exact absurd h (lowestBad_error_ne_none x y l)
    | ok y =>
      rintro (_ | ⟨_, hm⟩)
      exact ih h hm

/-- What is answered fails, and nothing that fails is lower. -/
theorem lowestBad_spec (l : List (Word × Except Bad Loc)) : ∀ {a : Word} {b : Bad}, lowestBad l = some (a, b) →
    (a, .error b) ∈ l ∧ ∀ a' b', (a', .error b') ∈ l → a.toNat ≤ a'.toNat := by
  induction l with
  | nil => exact fun h => nomatch h
  | cons e l ih =>
    intro a b h
    obtain ⟨x, r⟩ := e
    cases r with
    | ok y =>
      obtain ⟨hm, hmin⟩ := ih h
      refine ⟨List.mem_cons_of_mem _ hm, fun a' b' h' => ?_⟩
      rcases List.mem_cons.mp h' with h' | h'
      · cases h'
      · exact hmin a' b' h'
    | error y =>
      cases hl : lowestBad l with
      | none =>
        obtain ⟨rfl, rfl⟩ : x = a ∧ y = b := by simpa [lowestBad, hl] using h
        refine ⟨List.mem_cons_self, fun a' b' h' => ?_⟩
        rcases List.mem_cons.mp h' with h' | h'
        · cases h'; exact Nat.le_refl _
        · exact absurd h' (notMem_of_lowestBad_none hl a' b')
      | some e =>
        obtain ⟨x', y'⟩ := e
        obtain ⟨hm, hmin⟩ := ih hl
        simp only [lowestBad, hl] at h
        split at h
        · next hlt =>
          obtain ⟨rfl, rfl⟩ : x' = a ∧ y' = b := by simpa using h
          refine ⟨List.mem_cons_of_mem _ hm, fun a' b' h' => ?_⟩
          rcases List.mem_cons.mp h' with h' | h'
          · cases h'; exact hlt.le
          · exact hmin a' b' h'
        · next hge =>
          obtain ⟨rfl, rfl⟩ : x = a ∧ y = b := by simpa using h
          refine ⟨List.mem_cons_self, fun a' b' h' => ?_⟩
          rcases List.mem_cons.mp h' with h' | h'
          · cases h'; exact Nat.le_refl _
          · exact (Nat.le_of_not_lt hge).trans (hmin a' b' h')

/-- Of checked addresses, one that fails and than which none that fails is lower is the one answered. -/
theorem lowestBad_map {f : Word → Except Bad Loc} {as : List Word} {a : Word} {b : Bad} (ha : a ∈ as) (hb : f a = .error b)
    (hmin : ∀ a' ∈ as, ∀ b', f a' = .error b' → a.toNat ≤ a'.toNat) :
    lowestBad (as.map (fun a => (a, f a))) = some (a, b) := by
  have hmem : (a, .error b) ∈ as.map (fun a => (a, f a)) := List.mem_map.mpr ⟨a, ha, by rw [hb]⟩
  cases hl : lowestBad (as.map (fun a => (a, f a))) with
  | none => exact absurd hmem (notMem_of_lowestBad_none hl a b)
  | some e =>
    obtain ⟨x, y⟩ := e
    obtain ⟨hm, hlow⟩ := lowestBad_spec _ hl
    obtain ⟨x', hx, e⟩ := List.mem_map.mp hm
    obtain ⟨rfl, hy⟩ := Prod.mk.inj e
    obtain rfl : x' = a := BitVec.eq_of_toNat_eq (Nat.le_antisymm (hlow a b hmem) (hmin x' hx y hy))
    rw [hb] at hy
    cases hy
    rfl

/-- Where every byte has its place, none fails, and the places are those. -/
theorem places_of_map_ok {f : Word → Except Bad Loc} {as : List Word} : ∀ {ls : List Loc}, as.map f = ls.map .ok →
    lowestBad (as.map (fun a => (a, f a))) = none ∧ locsOf (as.map (fun a => (a, f a))) = ls := by
  induction as with
  | nil => exact fun h => ⟨rfl, (List.map_eq_nil_iff.mp h.symm).symm⟩
  | cons a as ih =>
    intro ls h
    cases ls with
    | nil => exact nomatch h
    | cons l ls =>
      obtain ⟨ha, has⟩ := List.cons.inj h
      obtain ⟨hn, hl⟩ := ih has
      simp only [List.map_cons, ha, lowestBad, locsOf, hn, hl, and_self]

/-! ## What the checks of an access come to once its pages have been walked -/

section
variable {s u : State} {acc : Access} {first : Word} {as : List Word}
  (hw : walkPages s s.curCell (ccOf s).desc (pagesOf as) = .ok u)
include hw

theorem quiet_of_walk : Quiet s u := (quiet_walkPages _).1 u hw

theorem checkAccess_of_poisonedWalk {q : Word} (hp : poisonedWalk u s.curCell (ccOf s).desc as = some q) :
    checkAccess s acc first as = .trap u (ueTrap acc first q) := by
  have h := quiet_of_walk hw
  simp only [checkAccess, hw, walkUe, h.curCell, h.ccOf, hp, Option.map_some]

theorem checkAccess_of_lowestBad (hp : poisonedWalk u s.curCell (ccOf s).desc as = none) {a : Word} {b : Bad}
    (hb : lowestBad (as.map (fun a => (a, locate u acc a))) = some (a, b)) :
    checkAccess s acc first as = .trap u (badTrap acc first a b) := by
  have h := quiet_of_walk hw
  simp only [checkAccess, hw, walkUe, h.curCell, h.ccOf, hp, Option.map_none, checkBytes, hb]

end

end Sys2Proof.Machine

namespace Sys2Proof.Safety

open Sys2Proof.Machine

/-! ## Traps of the checks -/

/-- An instruction that traps wherever the checks of its access do. -/
def TrapsOnCheck (i : Instr) (s : State) (acc : Access) (first : Word) (as : List Word) : Prop :=
  ∀ u e, checkAccess s acc first as = .trap u e → exec i s = .next (takeInfo u e)

theorem trapsFrom_takeInfo {i : Instr} {s u : State} {e : TrapInfo} (h : exec i s = .next (takeInfo u e)) (hq : Quiet s u) :
    TrapsFrom i s u e.cause (slotOf s).ip e.va e.info := by
  rw [← hq.slotOf]
  exact trapsFrom_takeTrap h

/-- A failed check is a trap with tfva at the byte and LEVEL, PAGE2, KIND and OPC in tinfo (18 R344, R345). -/
theorem trapsHereFrom_badTrap {i : Instr} {s u : State} {acc : Access} {first a : Word} {b : Bad}
    (h : exec i s = .next (takeInfo u (badTrap acc first a b))) :
    TrapsHereFrom i s u (badCause b) a
      (badLevel b * 2 ^ 22 + (if first.toNat / 65536 < a.toNat / 65536 then 2 ^ 21 else 0) +
        (acc.kind * 4096 + acc.opc.toNat)) := by
  have hi : (badTrap acc first a b).info =
      infoAccess (badLevel b) (decide (first.toNat / 65536 < a.toNat / 65536)) acc.kind acc.opc := rfl
  rw [takeInfo, hi, infoAccess, toNat_decide_mul, Nat.add_assoc] at h
  exact trapsFrom_takeTrap h

section
variable {i : Instr} {s u : State} {acc : Access} {first : Word} {as : List Word} (h : TrapsOnCheck i s acc first as)
include h

theorem TrapsOnCheck.trapsFrom {e : TrapInfo} (hc : checkAccess s acc first as = .trap u e) :
    TrapsFrom i s u e.cause (slotOf s).ip e.va e.info :=
  trapsFrom_takeInfo (h u e hc) (quiet_checkAccess.2.1 u e hc).1

variable (hw : walkPages s s.curCell (ccOf s).desc (pagesOf as) = .ok u)
include hw

theorem TrapsOnCheck.poisoned {q : Word} (hp : poisonedWalk u s.curCell (ccOf s).desc as = some q) :
    TrapsHereFrom i s u 13 (q &&& ~~~31) ((if first.toNat / 65536 < (q &&& ~~~31).toNat / 65536 then 2 ^ 21 else 0) +
      (acc.kind * 4096 + acc.opc.toNat)) :=
  trapsHereFrom_ueTrap (h u _ (checkAccess_of_poisonedWalk hw hp)) rfl

/-- The lowest byte that fails is the one trapped on. -/
theorem TrapsOnCheck.lowest (hp : poisonedWalk u s.curCell (ccOf s).desc as = none) {a : Word} {b : Bad} (ha : a ∈ as)
    (hb : locate u acc a = .error b) (hmin : ∀ a' ∈ as, ∀ b', locate u acc a' = .error b' → a.toNat ≤ a'.toNat) :
    TrapsHereFrom i s u (badCause b) a
      (badLevel b * 2 ^ 22 + (if first.toNat / 65536 < a.toNat / 65536 then 2 ^ 21 else 0) +
        (acc.kind * 4096 + acc.opc.toNat)) :=
  trapsHereFrom_badTrap (h u _ (checkAccess_of_lowestBad hw hp (lowestBad_map ha hb hmin)))

end

/-! ## The instructions that check an access -/

section
variable (s : State) (o : MemOrder) (m : MemOp)

theorem trapsOnCheck_ld (sz : Size) (sign : Bool) (d : GReg) :
    TrapsOnCheck (.ld sz o sign d m) s (loadAccess 0x100) (effAddr s m) (addrsFrom (effAddr s m) (sizeBytes sz)) := by
  intro u e h
  exact exec_ld_trap (by rw [loadBytes, h])

theorem trapsOnCheck_st (sz : Size) (d : GReg) :
    TrapsOnCheck (.st sz o d m) s (storeAccess 0x102) (effAddr s m) (addrsFrom (effAddr s m) (sizeBytes sz)) := by
  intro u e h
  simp only [exec_st, execSt, storeBytes, h]

theorem vectorLoad_trap {opc : BitVec 12} {sz : VSize} {d : VReg} {mode : LaneMode} {k : MaskSel} {as : List Word}
    (ha : laneAddrs mode (effAddr s m) (vsizeBytes sz) (activeLanes (vsizeBytes sz) (maskVal s k.mask)) = as)
    {u : State} {e : TrapInfo} (h : checkAccess s (loadAccess opc) (firstAddr as) as = .trap u e) :
    vectorLoad opc sz d m mode k s = .next (takeInfo u e) := by
  simp only [vectorLoad, ha, loadBytes, h]

theorem vectorStore_trap {opc : BitVec 12} {sz : VSize} {d : VReg} {mode : LaneMode} {k : Option MReg} {as : List Word}
    (ha : laneAddrs mode (effAddr s m) (vsizeBytes sz) (activeLanes (vsizeBytes sz) (maskVal s k)) = as)
    {u : State} {e : TrapInfo} (h : checkAccess s (storeAccess opc) (firstAddr as) as = .trap u e) :
    vectorStore opc sz d m mode k s = .next (takeInfo u e) := by
  simp only [vectorStore, ha, storeBytes, h]

/-- An atomic that its home has not been asked for, at a multiple of its size. -/
theorem atomicOp_trap {opc : BitVec 12} {sz : Size} {sc : Scope} {sign : Bool} {d : GReg} {f : Nat → Option Nat}
    (hs : ∀ pa, (slotOf s).stall ≠ .home pa) (ha : (effAddr s m).toNat % sizeBytes sz = 0) {u : State} {e : TrapInfo}
    (h : checkAccess s ⟨3, opc, true, true, false, false⟩ (effAddr s m) (addrsFrom (effAddr s m) (sizeBytes sz)) = .trap u e) :
    atomicOp opc sz sc sign d m f s = .next (takeInfo u e) := by
  unfold atomicOp
  dsimp only
  split
  · next pa hpa => exact absurd hpa (hs pa)
  · simp only [Rmw.start, ha, ne_eq, not_true_eq_false, if_false, h]

theorem cacheOp_trap {acc : Access} {act : State → Nat → State} {n1 : Fin 128} {u : State} {e : TrapInfo}
    (h : checkAccess s acc (keepBits (effAddr s m) 63 7) (cachedBases (effAddr s m) n1) = .trap u e) :
    cacheOp acc act n1 m s = .next (takeInfo u e) := by
  simp only [cacheOp, h]

end

end Sys2Proof.Safety
end

section
/-! The address checks of an access, clause by clause (02 R35, R40, R41; 06 R148; 12 R248, R261; 18 R344, R345). -/

namespace Sys2Proof.Machine

/-! ## Parts of an address -/

theorem bitsOf_63_55 (a : Word) : bitsOf a 63 55 = a.toNat / 2 ^ 55 := by
  have hlt := a.isLt
  rw [bitsOf]
  omega

theorem bitsOf_63_48 (a : Word) : bitsOf a 63 48 = a.toNat / 2 ^ 48 := by
  have hlt := a.isLt
  rw [bitsOf]
  omega

theorem bitsOf_47_0 (a : Word) : bitsOf a 47 0 = a.toNat % 2 ^ 48 := by
  rw [bitsOf, pow_zero, Nat.div_one]

/-! ## The lines of cwb and cinv (12 R261) -/

theorem cachedBases_eq (ea : Word) (n1 : Fin 128) : cachedBases ea n1 =
    ((List.range (n1.val + 1)).map (fun i => (ea &&& ~~~127) + BitVec.ofNat 64 (128 * i))).filter
      (fun a => a.toNat / 2 ^ 48 ≠ 0xFE00) := by
  unfold cachedBases
  refine List.filter_congr fun a _ => ?_
  rw [bitsOf_63_48, bne, beq_eq_decide, decide_not]

theorem toNat_line (ea : Word) : (ea &&& ~~~127).toNat = ea.toNat / 128 * 128 := by
  have h : ea &&& ~~~(127 : Word) = (ea >>> 7) <<< 7 := by
    apply BitVec.eq_of_getLsbD_eq
    intro i hi
    have hc : ∀ i : Fin 64, (~~~127 : Word).getLsbD i = decide (7 ≤ i.val) := by decide
    rw [BitVec.getLsbD_and, hc ⟨i, hi⟩, BitVec.getLsbD_shiftLeft, BitVec.getLsbD_ushiftRight]
    by_cases h7 : 7 ≤ i
    · simp [hi, h7, Nat.not_lt.mpr h7]
    · simp [h7, Nat.lt_of_not_le h7]
  have hlt := ea.isLt
  rw [h, BitVec.toNat_shiftLeft, BitVec.toNat_ushiftRight, Nat.shiftLeft_eq, Nat.shiftRight_eq_div_pow]
  omega

end Sys2Proof.Machine

namespace Sys2Proof

open Sys2Proof.Machine Sys2Proof.Safety

theorem accessFaults_claim : Claims.AccessFaults := by
  intro s u sz vz o ro sc sign op d vd m k n1 e b q j ea span n lanes unit strided indexed lines Faults load store
  have faults {i : Instr} {acc : Access} {first : Word} {as : List Word} (h : TrapsOnCheck i s acc first as) :
      Faults i acc first as := by
    refine ⟨h.trapsFrom, fun hw => ⟨h.poisoned hw, fun hp hj hb hmin => ?_⟩⟩
    have hmem : as.getD j 0 ∈ as := by rw [List.getD_eq_getElem _ _ hj]; exact List.getElem_mem hj
    have hlow := h.lowest hw hp hmem hb fun a' ha' b' hb' => by
      obtain ⟨p, hlt, rfl⟩ := List.getElem_of_mem ha'
      rw [← List.getD_eq_getElem as 0 hlt] at hb' ⊢
      exact hmin p b' hlt hb'
    cases b <;> exact hlow
  have hlanes : activeLanes n (maskVal s k.mask) = lanes := by
    refine List.filter_congr fun i _ => ?_
    cases k.mask <;> rfl
  have hunit : laneAddrs .unit ea n (activeLanes n (maskVal s k.mask)) = unit := by rw [hlanes]; rfl
  have hstrided : laneAddrs (.strided (readG s m.b)) ea n (activeLanes n (maskVal s k.mask)) = strided := by rw [hlanes]; rfl
  have hindexed : laneAddrs (.indexed (readV s (regAt vd 1))) ea n (activeLanes n (maskVal s k.mask)) = indexed := by
    rw [hlanes]; rfl
  have hlines : cachedBases ea n1 = lines := cachedBases_eq ea n1
  refine ⟨faults (trapsOnCheck_ld s o m sz sign d), faults (trapsOnCheck_st s o m sz d),
    faults fun _ _ => vectorLoad_trap s m hunit, faults fun _ _ => vectorLoad_trap s m hstrided,
    faults fun _ _ => vectorLoad_trap s m hindexed, faults fun _ _ => vectorStore_trap s m hunit,
    faults fun _ _ => vectorStore_trap s m hstrided, faults fun _ _ => vectorStore_trap s m hindexed,
    fun hs ha => ⟨faults fun _ _ => atomicOp_trap s m hs ha, faults fun _ _ => atomicOp_trap s m hs ha⟩, ?_, ?_⟩
  · rw [← hlines]
    exact faults fun _ _ => cacheOp_trap s m
  · rw [← hlines]
    exact faults fun _ _ => cacheOp_trap s m

end Sys2Proof
end

section
/-! The address checks of one byte, in their order (02 R35, R40, R41; 18 R344, R345). -/

namespace Sys2Proof.Machine

open Sys2Proof.Safety

/-! ## Where one byte lies, or why it may not be accessed -/

section
variable {s : State} {acc : Access} {a : Word}

theorem locate_of_outside (hh : a.toNat / 2 ^ 55 ≠ 0) (hw : a.toNat / 2 ^ 48 ≠ 0xFE00) : locate s acc a = .error .addr := by
  simp only [locate, bitsOf_63_55, bitsOf_63_48, hh, hw, if_false]

theorem locate_of_beyondPad (hw : a.toNat / 2 ^ 48 = 0xFE00) (hp : padSize (ccOf s) ≤ a.toNat % 2 ^ 48) :
    locate s acc a = .error .addr := by
  have hh : bitsOf a 63 55 ≠ 0 := by rw [bitsOf_63_55]; omega
  have hl : padLocate (ccOf s) acc.load (bitsOf a 47 0) = none := if_pos (by rwa [bitsOf_47_0])
  unfold locate
  dsimp only
  rw [if_neg hh, if_pos ((bitsOf_63_48 a).trans hw), hl]

theorem locate_of_noTranslation (hh : a.toNat / 2 ^ 55 = 0) {l : Nat}
    (ht : translate s s.curCell (ccOf s).desc a.toNat = .error l) : locate s acc a = .error (.xlate l) := by
  simp only [locate, bitsOf_63_55, hh, ht, if_true]

theorem locate_of_noPermission (hh : a.toNat / 2 ^ 55 = 0) {e : TlbEntry}
    (ht : translate s s.curCell (ccOf s).desc a.toNat = .ok e)
    (hp : ((acc.r && !e.r) || (acc.w && !e.w) || (acc.x && !e.x)) = true) : locate s acc a = .error .prot := by
  simp only [locate, bitsOf_63_55, hh, ht, hp, if_true]

end

/-! ## The walks of one address -/

theorem pagesOf_global {a : Word} (h : a.toNat / 2 ^ 55 = 0) : pagesOf [a] = [a.toNat / 65536] := by
  have hf : [a].filter (fun a => bitsOf a 63 55 = 0) = [a] :=
    List.filter_eq_self.mpr fun b hb => by rw [List.mem_singleton.mp hb, bitsOf_63_55, h]; rfl
  rw [pagesOf, hf]
  rfl

theorem pagesOf_local {a : Word} (h : a.toNat / 2 ^ 55 ≠ 0) : pagesOf [a] = [] := by
  have hf : [a].filter (fun a => bitsOf a 63 55 = 0) = [] :=
    List.filter_eq_nil_iff.mpr fun b hb => by
      rw [List.mem_singleton.mp hb, bitsOf_63_55, decide_eq_true_eq]
      exact h
  rw [pagesOf, hf]
  rfl

theorem poisonedWalk_local (s : State) (c : Nat) (x : Descriptor) {a : Word} (h : a.toNat / 2 ^ 55 ≠ 0) :
    poisonedWalk s c x [a] = none := by
  refine List.find?_eq_none.mpr fun b hb => ?_
  rw [List.mem_singleton.mp hb, bitsOf_63_55, Bool.and_eq_true, decide_eq_true_eq]
  exact fun e => h e.1

theorem addrsFrom_one (a : Word) : addrsFrom a (sizeBytes .b1) = [a] := by
  simp [addrsFrom, sizeBytes]

theorem cachedBases_one {ea : Word} (h : ea.toNat / 2 ^ 48 ≠ 0xFE00) : cachedBases ea 0 = [ea &&& ~~~127] := by
  have hl := toNat_line ea
  rw [cachedBases_eq]
  generalize ea &&& ~~~127 = line at hl ⊢
  have hm : (List.range ((0 : Fin 128).val + 1)).map (fun i => line + BitVec.ofNat 64 (128 * i)) = [line] := by simp
  rw [hm]
  refine List.filter_eq_self.mpr fun b hb => decide_eq_true ?_
  rw [List.mem_singleton.mp hb, hl]
  omega

end Sys2Proof.Machine

namespace Sys2Proof.Safety

open Sys2Proof.Machine

/-! ## The trap of an access of one byte -/

section
variable {i : Instr} {s u : State} {acc : Access} {a : Word} (h : TrapsOnCheck i s acc a [a])
include h

theorem TrapsOnCheck.byte (hw : walkPages s s.curCell (ccOf s).desc (pagesOf [a]) = .ok u)
    (hp : poisonedWalk u s.curCell (ccOf s).desc [a] = none) {b : Bad} (hb : locate u acc a = .error b) :
    TrapsHereFrom i s u (badCause b) a (badLevel b * 2 ^ 22 + (acc.kind * 4096 + acc.opc.toNat)) := by
  have hlow := h.lowest hw hp List.mem_cons_self hb fun a' ha' _ _ => by rw [List.mem_singleton.mp ha']
  rwa [if_neg (Nat.lt_irrefl _), Nat.add_zero] at hlow

/-- ADDR of a byte outside the global range, for which nothing is walked (02 R40, R41). -/
theorem TrapsOnCheck.addr (hh : a.toNat / 2 ^ 55 ≠ 0) (hb : locate s acc a = .error .addr) :
    TrapsHere i s 6 a (acc.kind * 4096 + acc.opc.toNat) := by
  have ht := h.byte (u := s) (by rw [pagesOf_local hh]; rfl) (poisonedWalk_local s _ _ hh) hb
  rwa [show badLevel .addr = 0 from rfl, Nat.zero_mul, Nat.zero_add] at ht

variable (hh : a.toNat / 2 ^ 55 = 0)
  (hw : walkPages s s.curCell (ccOf s).desc [a.toNat / 65536] = .ok u ∧ poisonedWalk u s.curCell (ccOf s).desc [a] = none)
include hh hw

theorem TrapsOnCheck.xlate {l : Nat} (ht : translate u s.curCell (ccOf s).desc a.toNat = .error l) :
    TrapsHereFrom i s u 4 a (l * 2 ^ 22 + (acc.kind * 4096 + acc.opc.toNat)) := by
  have hq := quiet_of_walk (as := [a]) (by rw [pagesOf_global hh]; exact hw.1)
  refine h.byte (b := .xlate l) (by rw [pagesOf_global hh]; exact hw.1) hw.2 (locate_of_noTranslation hh ?_)
  rwa [hq.curCell, hq.ccOf]

theorem TrapsOnCheck.prot {e : TlbEntry} (ht : translate u s.curCell (ccOf s).desc a.toNat = .ok e)
    (hp : ((acc.r && !e.r) || (acc.w && !e.w) || (acc.x && !e.x)) = true) :
    TrapsHereFrom i s u 5 a (acc.kind * 4096 + acc.opc.toNat) := by
  have hq := quiet_of_walk (as := [a]) (by rw [pagesOf_global hh]; exact hw.1)
  have hb := h.byte (by rw [pagesOf_global hh]; exact hw.1) hw.2 (locate_of_noPermission hh (by rwa [hq.curCell, hq.ccOf]) hp)
  rwa [show badLevel .prot = 0 from rfl, Nat.zero_mul, Nat.zero_add] at hb

end

end Sys2Proof.Safety

namespace Sys2Proof

open Sys2Proof.Machine Sys2Proof.Safety

theorem addressTraps_claim : Claims.AddressTraps := by
  intro s u o sign d m sc ea line high walks walked
  have hld : TrapsOnCheck (.ld .b1 o sign d m) s (loadAccess 0x100) ea [ea] := by
    rw [← addrsFrom_one]
    exact trapsOnCheck_ld s o m .b1 sign d
  have hst : TrapsOnCheck (.st .b1 o d m) s (storeAccess 0x102) ea [ea] := by
    rw [← addrsFrom_one]
    exact trapsOnCheck_st s o m .b1 d
  have hcwb (hn : ea.toNat / 2 ^ 48 ≠ 0xFE00) : TrapsOnCheck (.cwb sc 0 m) s ⟨7, 0x108, true, false, false, true⟩ line [line] := by
    rw [← cachedBases_one hn]
    exact fun _ _ => cacheOp_trap s m
  have hcinv (hn : ea.toNat / 2 ^ 48 ≠ 0xFE00) : TrapsOnCheck (.cinv sc 0 m) s ⟨7, 0x10A, false, true, false, true⟩ line [line] := by
    rw [← cachedBases_one hn]
    exact fun _ _ => cacheOp_trap s m
  have hline : line.toNat = ea.toNat / 128 * 128 := toNat_line ea
  have hhigh : high = ea.toNat / 2 ^ 55 := rfl
  refine ⟨fun hn hh => ?_, fun hw hp => ?_, fun hh hw l ht => ?_, fun hh hw l ht => ?_, fun hh hw e ht => ?_, fun hh hw e ht => ?_⟩
  · have hh' : line.toNat / 2 ^ 55 ≠ 0 := by omega
    have hn' : line.toNat / 2 ^ 48 ≠ 0xFE00 := by omega
    exact ⟨hld.addr hh (locate_of_outside hh hn), hst.addr hh (locate_of_outside hh hn),
      (hcwb hn).addr hh' (locate_of_outside hh' hn'), (hcinv hn).addr hh' (locate_of_outside hh' hn')⟩
  · have hh : ea.toNat / 2 ^ 55 ≠ 0 := by omega
    exact ⟨hld.addr hh (locate_of_beyondPad hw hp), hst.addr hh (locate_of_beyondPad hw hp)⟩
  · exact ⟨hld.xlate hh hw ht, hst.xlate hh hw ht⟩
  · have hn : ea.toNat / 2 ^ 48 ≠ 0xFE00 := by omega
    have hh' : line.toNat / 2 ^ 55 = 0 := by omega
    exact ⟨(hcwb hn).xlate hh' hw ht, (hcinv hn).xlate hh' hw ht⟩
  · exact ⟨fun hr => hld.prot hh hw ht (by rw [hr]; rfl), fun hr => hst.prot hh hw ht (by rw [hr]; rfl)⟩
  · have hn : ea.toNat / 2 ^ 48 ≠ 0xFE00 := by omega
    have hh' : line.toNat / 2 ^ 55 = 0 := by omega
    exact ⟨fun hr => (hcwb hn).prot hh' hw ht (by rw [hr]; rfl), fun hr => (hcinv hn).prot hh' hw ht (by rw [hr]; rfl)⟩

/-- Settles O21: the checks of an access answer the lowest byte that fails them, and every instruction that makes an access traps where its
checks do. -/
theorem addressTraps : Obligations.AddressTraps := ⟨addressTraps_claim, accessFaults_claim⟩

end Sys2Proof
end

section
/-! A turn of a slot: what its fetch comes to, and what the step does with it (02 R32-R36, R39, R59; 07 R180; 18 R344, R345; 20 R377,
R388). -/

namespace Sys2Proof.Machine

open Sys2Proof.Safety

/-! ## Turns named by the agenda -/

/-- The state in which a slot takes the turn that heads the agenda. -/
def atTurn (s : State) (l : List Turn) (c : Nat) (k : Fin 4) : State :=
  { s with agenda := l, turnNo := s.turnNo + 1, curCell := c, curSlot := k }

theorem nextReady_of_agenda {s : State} {t : Turn} {l : List Turn} (h : s.agenda = t :: l) :
    nextReady s = takeTurn { s with agenda := l, turnNo := s.turnNo + 1 } t := by
  simp only [nextReady, nextTurn, dropTurn, h, List.headD_cons, List.drop_succ_cons, List.drop_zero]

theorem step_slot {s : State} {c : Nat} {k : Fin 4} {l : List Turn} (h : s.agenda = .slot c k :: l) (hc : c < cellCount s) :
    step s = finish (slotTurn (atTurn s l c k)) := by
  rw [step, nextReady_of_agenda h]
  exact congrArg finish (if_pos hc)

theorem step_event {s : State} {i : Instr} {l : List Turn} (h : s.agenda = .event i :: l)
    (hi : eventOk { s with agenda := l, turnNo := s.turnNo + 1 } i = true) :
    step s = exec i { s with agenda := l, turnNo := s.turnNo + 1 } := by
  rw [step, nextReady_of_agenda h]
  exact congrArg finish (if_pos hi)

section
variable {s : State} {l : List Turn} {c : Nat} {k : Fin 4} (h : s.agenda = .slot c k :: l) (hc : c < cellCount s)
  (hr : (slotOf (atTurn s l c k)).run = .run)
include h hc hr

/-- A slot that runs, does not stall and is not out of budget issues. -/
theorem step_issue (hs : (slotOf (atTurn s l c k)).stall = .none) (hb : budgetDue (slotOf (atTurn s l c k)) = false) :
    step s = finish (issue (atTurn s l c k)) := by
  rw [step_slot h hc]
  simp only [slotTurn, hr, hs, hb, ne_eq, not_true_eq_false, if_false, Bool.false_eq_true]

theorem step_stalled {w : Stall} (hs : (slotOf (atTurn s l c k)).stall = w) (hw : w ≠ .none) :
    step s = finish (stallTurn (atTurn s l c k) (slotOf (atTurn s l c k))) := by
  rw [step_slot h hc]
  simp only [slotTurn, hr, hs, ne_eq, hw, not_false_eq_true, if_true]

end

/-! ## A stalled slot (20 R377, R388) -/

section
variable {s : State} {x : Slot}

theorem stallTurn_again (h : x.stall = .again) : stallTurn s x = .go (setStall s .none) x.issued := by
  simp only [stallTurn, h]

theorem stallTurn_home {pa : Nat} (h : x.stall = .home pa) : stallTurn s x = .go s x.issued := by
  simp only [stallTurn, h]

theorem stallTurn_reply {g : GReg} {via : Transit} {v : Word} (h : x.stall = .reply g via v) :
    stallTurn s x = .done (if arrived s via then finishG (setStall s .none) g v else s) := by
  simp only [stallTurn, h, resumeStall]
  split <;> rfl

theorem stallTurn_replyUe {via : Transit} {va info : Word} (h : x.stall = .replyUe via va info) :
    stallTurn s x = .done (if arrived s via then takeInfo (setStall s .none) ⟨0x0D, va, info⟩ else s) := by
  simp only [stallTurn, h, resumeStall]
  split <;> rfl

end

theorem takeInfo_setStall (s : State) (w : Stall) (e : TrapInfo) : takeInfo (setStall s w) e =
    takeTrap (putSlot s { slotOf s with stall := w }) e.cause (slotOf s).ip e.va e.info := by
  rw [takeInfo, trapHere, ipOf, setStall, slotOf_putSlot]

/-! ## The fetch (02 R32, R33) -/

theorem Quiet.myDie {s t : State} (h : Quiet s t) : myDie t = myDie s := by
  rw [Machine.myDie, Machine.myDie, physOf, physOf, h.curCell, h.plat]

theorem fetchLim_eq (s : State) : fetchLim s = (ccOf s).sclim.toNat % 2 ^ 32 := by
  rw [fetchLim, bitsOf, pow_zero, Nat.div_one]

theorem fetch_beyond {s : State} (h : fetchLim s ≤ (ipOf s).toNat) : fetch s = .trap s ⟨7, 0, infoAccess 0 false 0 0⟩ :=
  if_pos h

/-- What stands at an address keeps a fetch out: it is not in the global range, or its page has no translation or no execute
permission (02 R33). -/
theorem fetchLocate_error_iff (s : State) (a : Word) : (∃ b, fetchLocate s a = .error b) ↔
    bitsOf a 63 55 ≠ 0 ∨ (∃ l, translate s s.curCell (ccOf s).desc a.toNat = .error l) ∨
      ∃ e, translate s s.curCell (ccOf s).desc a.toNat = .ok e ∧ e.x = false := by
  unfold fetchLocate
  by_cases hg : bitsOf a 63 55 = 0
  · cases ht : translate s s.curCell (ccOf s).desc a.toNat with
    | error l => simp [hg]
    | ok e => cases hx : e.x <;> simp [hg, hx]
  · simp [hg]

section
variable {s t : State} (h : (ipOf s).toNat < fetchLim s)
include h

theorem fetch_walkWaits (hw : walkPages s s.curCell (ccOf s).desc (pagesOf (addrsFrom (fetchAddr s) 12)) = .error t) :
    fetch s = .wait t := by
  simp only [fetch, Nat.not_le.mpr h, if_false, hw]

variable (hw : walkPages s s.curCell (ccOf s).desc (pagesOf (addrsFrom (fetchAddr s) 12)) = .ok t)
include hw

theorem fetch_poisonedWalk {q : Word} (hp : poisonedWalk t s.curCell (ccOf s).desc (addrsFrom (fetchAddr s) 12) = some q) :
    fetch s = .trap t (ueTrap fetchAccess (fetchAddr s) q) := by
  have hq := quiet_of_walk hw
  simp only [fetch, Nat.not_le.mpr h, if_false, hw, walkUe, hq.curCell, hq.ccOf, hp, Option.map_some]

variable (hp : poisonedWalk t s.curCell (ccOf s).desc (addrsFrom (fetchAddr s) 12) = none)
include hp

theorem fetch_denied {a : Word} {b : Bad}
    (hb : lowestBad ((addrsFrom (fetchAddr s) 12).map (fun a => (a, fetchLocate t a))) = some (a, b)) :
    fetch s = .trap t (ifetchTrap (fetchAddr s) a) := by
  have hq := quiet_of_walk hw
  simp only [fetch, Nat.not_le.mpr h, if_false, hw, walkUe, hq.curCell, hq.ccOf, hp, Option.map_none, hb]

variable {ls : List Loc} (hl : (addrsFrom (fetchAddr s) 12).map (fetchLocate t) = ls.map .ok)
include hl

theorem fetch_linesWait {w : State} (hg : acquireLines t (myDie s) (engineOf (myDie s)) false (linesOf ls) = .error w) :
    fetch s = .wait w := by
  have hq := quiet_of_walk hw
  obtain ⟨hb, hls⟩ := places_of_map_ok hl
  simp only [fetch, Nat.not_le.mpr h, if_false, hw, walkUe, hq.curCell, hq.ccOf, hp, Option.map_none, hb, hls, hq.myDie, hg]

variable {u : State} (hg : acquireLines t (myDie s) (engineOf (myDie s)) false (linesOf ls) = .ok u)
include hg

omit h hp hl in
theorem quiet_of_fetch : Quiet s u := (quiet_of_walk hw).trans ((quiet_acquireLines _).1 u hg)

theorem fetch_poisoned {q : Word} (hpo : lowestPoison u (addrsFrom (fetchAddr s) 12) ls = some q) :
    fetch s = .trap u (ueTrap fetchAccess (fetchAddr s) q) := by
  have hq := quiet_of_walk hw
  obtain ⟨hb, hls⟩ := places_of_map_ok hl
  simp only [fetch, Nat.not_le.mpr h, if_false, hw, walkUe, hq.curCell, hq.ccOf, hp, Option.map_none, hb, hls, hq.myDie, hg,
    poisonTrap, hpo, Option.map_some]

theorem fetch_bytes (hpo : lowestPoison u (addrsFrom (fetchAddr s) 12) ls = none) : fetch s = .bytes u (loadedBytes u ls) := by
  have hq := quiet_of_walk hw
  obtain ⟨hb, hls⟩ := places_of_map_ok hl
  simp only [fetch, Nat.not_le.mpr h, if_false, hw, walkUe, hq.curCell, hq.ccOf, hp, Option.map_none, hb, hls, hq.myDie, hg,
    poisonTrap, hpo]

end

/-! ## Traps of a fetch (18 R344, R345) -/

theorem infoAccess_page (p : Prop) [Decidable p] : infoAccess 0 (decide p) 0 0 = if p then 2 ^ 21 else 0 := by
  by_cases h : p <;> simp [h] <;> rfl

section
variable {s u : State} (hq : Quiet s u) (first a : Word)
include hq

theorem takeInfo_ifetch : takeInfo u (ifetchTrap first a) =
    takeTrap u 7 (slotOf s).ip a (if first.toNat / 65536 < a.toNat / 65536 then 2 ^ 21 else 0) := by
  rw [← hq.slotOf, ← infoAccess_page]
  rfl

theorem takeInfo_fetchUe : takeInfo u (ueTrap fetchAccess first a) = takeTrap u 0x0D (slotOf s).ip (keepBits a 63 5)
    (if first.toNat / 65536 < (keepBits a 63 5).toNat / 65536 then 2 ^ 21 else 0) := by
  rw [← hq.slotOf, ← infoAccess_page]
  rfl

end

/-! ## The issue (02 R35, R36, R39, R59) -/

theorem bitsFromBytes_eq_natOf (bs : List Byte) : bitsFromBytes bs = natOf bs := by
  induction bs with
  | nil => rfl
  | cons b bs ih => rw [bitsFromBytes, natOf, ih]

theorem tooEarly_iff (x : Slot) (n : Nat) : tooEarly x n = true ↔ ∃ m, x.sinceIssue = some m ∧ m < n := by
  unfold tooEarly
  cases x.sinceIssue <;> simp

theorem readP_markIssue (s : State) (p : PReg) : readP (markIssue s) p = readP s p := by
  rw [readP, markIssue, slotOf_putSlot]
  rfl

section
variable {s t : State}

theorem issue_of_trap {e : TrapInfo} (h : fetch s = .trap t e) : issue s = .done (takeInfo t e) := by
  simp only [issue, h]

theorem issue_of_wait (h : fetch s = .wait t) : issue s = .done t := by
  simp only [issue, h]

variable {bs : List Byte} (h : fetch s = .bytes t bs)
include h

theorem issue_early (he : tooEarly (slotOf t) (issueDelay bs) = true) : issue s = .done t := by
  simp only [issue, h, he, if_true]

variable (he : tooEarly (slotOf t) (issueDelay bs) = false)
include he

theorem issue_word : issue s = issueWord (markIssue t) bs := by
  simp only [issue, h, he, Bool.false_eq_true, if_false]

theorem issue_undefined {e : Ill} (hd : decode bs = .error e) :
    issue s = .done (takeTrap (putSlot t { slotOf t with sinceIssue := some 0 }) 1 (slotOf t).ip 0
      (BitVec.ofNat 64 (e.reason * 2 ^ 16 + e.pos * 2 ^ 14 + natOf (bs.take 12) / 2 ^ 84 % 2 ^ 12))) := by
  simp only [issue_word h he, issueWord, hd, trapIllop, bitsFromBytes_eq_natOf, infoIllop, BitVec.toNat_ofNat, trapHere, ipOf,
    markIssue, slotOf_putSlot]

variable {d : Decoded} {rest : List Byte} (hd : decode bs = .ok (d, rest))
include hd

theorem issue_guardFalse (hg : readP t d.pred = d.neg) :
    issue s = .done (putSlot t (nextIp { slotOf t with sinceIssue := some 0 })) := by
  have hf : guardFalse (markIssue t) d = true := by rw [guardFalse, readP_markIssue, hg, decide_eq_true rfl]
  rw [issue_word h he, issueWord, hd]
  simp only [hf, if_true]
  rw [markIssue, advance_eq, slotOf_putSlot, putSlot_putSlot]
  rfl

theorem issue_guardTrue (hg : readP t d.pred ≠ d.neg) :
    issue s = .go (putSlot t { slotOf t with sinceIssue := some 0, issued := d.instr }) d.instr := by
  have hf : guardFalse (markIssue t) d = false := by rw [guardFalse, readP_markIssue, decide_eq_false hg]
  rw [issue_word h he, issueWord, hd]
  simp only [hf, Bool.false_eq_true, if_false]
  rw [noteIssued, markIssue, slotOf_putSlot, putSlot_putSlot]

end

end Sys2Proof.Machine
end

section
/-! A step of a slot, clause by clause (02 R32-R36, R39, R59; 07 R180; 18 R344, R345; 20 R377, R388). -/

namespace Sys2Proof

open Sys2Proof.Machine Sys2Proof.Safety

/-- Settles O2: the agenda's turn is a fetch, a stall or a step of the hardware, and each goes on as what it comes to says. -/
theorem stepRunsDecoded : Obligations.StepRunsDecoded := by
  intro s u1 u2 w1 c k l ls rest d e i q pa u x a as bytes w y v got early later bad sector
  have hfirst : a 0 = fetchAddr u := BitVec.add_zero _
  have hlim : fetchLim u = (ccOf u).sclim.toNat % 2 ^ 32 := fetchLim_eq u
  have hstall (ha : s.agenda = .slot c k :: l) (hc : c < cellCount s) (hr : x.run = .run) {w : Stall} (hs : x.stall = w)
      (hw : w ≠ .none) : step s = finish (stallTurn u x) := step_stalled ha hc hr hs hw
  refine ⟨fun ha hc hr hs hb => ?_, fun ha hc hr hs => ?_, fun ha hc hr hs => ?_, fun g via z f ha hc hr => ?_, step_event⟩
  · have hissue : step s = finish (issue u) := step_issue ha hc hr hs hb
    have htrap {t : State} {e : TrapInfo} (h : fetch u = .trap t e) : step s = .next (takeInfo t e) := by
      rw [hissue, issue_of_trap h]
      rfl
    have hwait {t : State} (h : fetch u = .wait t) : step s = .next t := by
      rw [hissue, issue_of_wait h]
      rfl
    rw [← hlim]
    refine ⟨fun hip => htrap (fetch_beyond hip), fun hip hw => ⟨fun hp => ?_, fun hp j hj hbad hmin => ?_⟩,
      fun hip hlen hw hp hl => ?_, fun hip hw => hwait (fetch_walkWaits hip hw)⟩
    · rw [htrap (fetch_poisonedWalk hip hw hp), takeInfo_fetchUe (quiet_of_walk hw), ← hfirst]
    · have hq := quiet_of_walk hw
      have hbad_iff (z : Word) : (∃ b, fetchLocate u1 z = .error b) ↔ bad z := by
        rw [fetchLocate_error_iff, hq.curCell, hq.ccOf]
      obtain ⟨b, hb⟩ := (hbad_iff (a j)).mpr hbad
      have hlow := lowestBad_map (List.mem_map.mpr ⟨j, List.mem_range.mpr hj, rfl⟩) hb fun a' ha' b' hb' => by
        obtain ⟨n, hn, rfl⟩ := List.mem_map.mp ha'
        exact hmin n (List.mem_range.mp hn) ((hbad_iff _).mp ⟨b', hb'⟩)
      rw [htrap (fetch_denied hip hw hp hlow), takeInfo_ifetch hq, ← hfirst]
    · have hplaces : as.map (fetchLocate u1) = ls.map .ok := by
        refine List.ext_getElem (by simp [as, hlen]) fun n hn hn' => ?_
        simp only [List.length_map] at hn'
        simpa [as] using hl n hn'
      refine ⟨fun hg => hwait (fetch_linesWait hip hw hp hplaces hg), fun hg hpo => ?_, fun hg hpo => ?_⟩
      · rw [htrap (fetch_poisoned hip hw hp hplaces hg hpo), takeInfo_fetchUe (quiet_of_fetch hw hg), ← hfirst]
      · have hx : slotOf u2 = x := (quiet_of_fetch hw hg).slotOf
        have hf : fetch u = .bytes u2 bytes := fetch_bytes hip hw hp hplaces hg hpo
        have hearly : tooEarly (slotOf u2) (issueDelay bytes) = true ↔ early := by
          rw [hx, tooEarly_iff, issueDelay, bitsFromBytes_eq_natOf]
        have hdue (hn : ¬early) : tooEarly (slotOf u2) (issueDelay bytes) = false := by rwa [← Bool.not_eq_true, hearly]
        have hpred (p : PReg) : readP u2 p = readP u p := congrArg (fun z : Slot => z.readP p) hx
        refine ⟨hx, fun hy => ?_, fun hn hd hg => ?_, fun hn hd hg => ?_, fun hn hd => ?_⟩
        · rw [hissue, issue_early hf (hearly.mpr hy)]
          rfl
        · rw [hissue, issue_guardTrue hf (hdue hn) hd (by rwa [hpred]), hx]
          rfl
        · rw [hissue, issue_guardFalse hf (hdue hn) hd (by rwa [hpred]), hx]
          exact ⟨_, rfl, slotOf_putSlot _ _, onlySlot_putSlot _ _⟩
        · rw [hissue, issue_undefined hf (hdue hn) hd, hx]
          rfl
  · rw [hstall ha hc hr hs nofun, stallTurn_again hs]
    rfl
  · rw [hstall ha hc hr hs nofun, stallTurn_home hs]
    rfl
  · refine ⟨fun hs harr => ?_, fun hs harr => ?_, fun hs harr => ?_⟩
    · rcases hs with hs | hs
      · rw [hstall ha hc hr hs nofun, stallTurn_reply hs, harr]
        rfl
      · rw [hstall ha hc hr hs nofun, stallTurn_replyUe hs, harr]
        rfl
    · refine ⟨finishG (setStall u .none) g z, ?_, ?_, ?_⟩
      · rw [hstall ha hc hr hs nofun, stallTurn_reply hs, harr]
        rfl
      · rw [finishG_eq_putSlot_gResult, slotOf_putSlot, setStall, slotOf_putSlot]
      · rw [finishG_eq_putSlot_gResult, setStall, putSlot_putSlot]
        exact onlySlot_putSlot u _
    · rw [hstall ha hc hr hs nofun, stallTurn_replyUe hs, harr]
      exact congrArg _ (takeInfo_setStall u .none _)

end Sys2Proof
end

section
/-! No instruction and no step of the hardware stops the package (02 R35; 07 R152; log 11 DESIGN CHOICE). -/

namespace Sys2Proof.Machine

open Sys2Proof.Safety

/-- What an instruction or a step comes to is a next state: neither a fault nor a refusal. -/
def Goes (o : Res) : Prop := ∃ t, o = .next t

theorem goes_next (t : State) : Goes (.next t) := ⟨t, rfl⟩

/-! ## Operations that several instructions share -/

section
variable (s : State) (opc : BitVec 12)

theorem goes_divide (t : Option IntTy) (n : Nat) (d a b : GReg) (f : Int → Int → Int) (zero : Int → Int) :
    Goes (divide t n d a b s f zero) := by
  unfold divide
  dsimp only
  repeat' split
  all_goals exact goes_next _

theorem goes_barrierOp (b : Fin 256) (form : Arrive) : Goes (barrierOp opc b form s) := by
  unfold barrierOp
  split <;> exact goes_next _

theorem goes_derefOp (a d : GReg) (op : Deref) : Goes (derefOp a d op s) := by
  unfold derefOp
  dsimp only
  split <;> exact goes_next _

theorem goes_derefWord (a d : GReg) (n : Fin 16) (op : Deref) : Goes (derefWord a d n op s) := by
  unfold derefWord
  dsimp only
  repeat' split
  all_goals exact goes_next _

theorem goes_queryOp (d b : GReg) (num : Fin 16) (shape : QueryShape) : Goes (queryOp opc d b num shape s) := by
  unfold queryOp
  dsimp only
  repeat' split
  all_goals exact goes_next _

theorem goes_cacheOp (acc : Access) (act : State → Nat → State) (n1 : Fin 128) (m : MemOp) : Goes (cacheOp acc act n1 m s) := by
  unfold cacheOp
  dsimp only
  repeat' split
  all_goals exact goes_next _

theorem goes_rmwAtHome (x : Rmw) (d : GReg) (pa : Nat) : Goes (x.atHome s d pa) := by
  unfold Rmw.atHome
  split <;> exact goes_next _

/-- A read-modify-write that issues goes to its home, or ends or waits where it is. -/
theorem goes_rmwStart (x : Rmw) (d : GReg) : Goes (x.start s d) := by
  unfold Rmw.start
  split
  · exact goes_next _
  · split
    · exact goes_next _
    · exact goes_next _
    · next t ls _ =>
      split
      · exact goes_next _
      · split
        · exact goes_rmwAtHome t x d _
        · split <;> exact goes_next _

theorem goes_atomicOp (sz : Size) (sc : Scope) (sign : Bool) (d : GReg) (m : MemOp) (f : Nat → Option Nat) :
    Goes (atomicOp opc sz sc sign d m f s) := by
  unfold atomicOp
  dsimp only
  split
  · exact goes_rmwAtHome s _ d _
  · exact goes_rmwStart s _ d

theorem goes_vectorLoad (sz : VSize) (d : VReg) (m : MemOp) (mode : LaneMode) (k : MaskSel) :
    Goes (vectorLoad opc sz d m mode k s) := by
  unfold vectorLoad
  dsimp only
  split <;> exact goes_next _

theorem goes_vectorStore (sz : VSize) (d : VReg) (m : MemOp) (mode : LaneMode) (k : Option MReg) :
    Goes (vectorStore opc sz d m mode k s) := by
  unfold vectorStore
  dsimp only
  split <;> exact goes_next _

end

/-! ## Every arm -/

/-- An instruction or a step of the hardware has one ending, or that of an operation it shares, or one for each of the branches
that its checks make. -/
theorem goes_exec (i : Instr) (s : State) : Goes (exec i s) := by
  cases i with
  | add | addImm | sub | subImm | and | andImm | or | orImm | xor | xorImm | andn | andnImm | min | minImm | max | maxImm | sel | lea
  | mul | mulImm | mulh | madd | shl | shlImm | shr | shrImm | sar | sarImm | rotl | rotlImm | clz | ctz | popc | bext | bins | bswap
  | cmp | pand | por | pxor | fadd | fsub | fmul | fma | fdiv | fsqrt | fmin | fmax | fcmp | fcls | cvt | fround | mov | movImm
  | mtsSdomain | br | jmp | call | callImm | ret | loop | nop | pref | fence | bset | spawn | chset | chmsk | trap | shandQuery | cpwp
  | vadd | vsub | vmin | vmax | vabs | vadds | vsubs | vmul | vmulh | vmadd | vdot4 | vand | vor | vxor | vshl | vshr | vsar | vcmp
  | vsel | mand | mor | mxor | mpop | vfadd | vfsub | vfmul | vffma | vfmin | vfmax | vfdiv | vfsqrt | vfexp2 | vfcmp | vcvt | vpkbx
  | vunbx | vtrl | vbcast | vbcastImm | vperm | vslide | vred | vins | vext | vrigid | vdist2 | preemptRequest | restoreRequest
  | replayAudit | admission | ptpMessage | cxlLinkDown => exact goes_next _
  | div | rem | barr | bsync | bxch | pdel | pset | pres | pld | pstw | pqbox | pqrad | cwb | cinv | amo | cas | vld | vlds | vldx
  | vst | vsts | vstx =>
    simp only [exec, execDiv, execRem, execBarr, execBsync, execBxch, execPdel, execPset, execPres, execPld, execPstw, execPqbox, execPqrad,
      execCwb, execCinv, execAmo, execCas, execVld, execVlds, execVldx, execVst, execVsts, execVstx, goes_divide, goes_barrierOp,
      goes_derefOp, goes_derefWord, goes_queryOp, goes_cacheOp, goes_atomicOp, goes_vectorLoad, goes_vectorStore]
  | _ =>
    simp only [exec, execPmov, execMfs, execMts, execMtsSspill, execMtsScarve, execMtsSvgroup, execEndAct, execLd, execSt, execStx,
      execBwait, execSend, execArm, execJoin, execTret, execTwait, execTabort, execFpostPost, execFpostServe, execTlbinv, execShand, execPnew,
      execPqwait, execPmap, execPspcDefine, execPspcDelete, execCpy, execCpwait, execTgive, execTtake, execMxq, execMxwait, execShdef,
      execShkill, execBudget, execHandlerLimit, execSelection, execSendHandoff, execStealRequest, execStealClaim, execStealEmpty,
      execStealInstall, execInstallBufferDrain, execMessageArrival, execFrameRefused, execOutboundRetry, execContextSave,
      execContextRestore, execWakeArrival, execLaunchRootStart, execGets, execGetm, execPut, execProbe, execProbeAnswer,
      execConflictRetry, execPageWalk, execPinRelease, execStxLanding, execBarrierReport, execCchLand, execMma, execMmv, execMvld,
      execMzero, execMacld, execMacst, execNarrowEnter, execNarrowExit, execDerefAtHome, execMoveDeparture, execMoveArrival,
      execMoveAck, execMoveRefuse, execMoveHomeUpdate, execQueryRequest, execQueryAnswer, execTombstoneFree, execScrimPost,
      execScrimPostRetry, execScrimWake, execWakeDelivery, execHandoverStage, execNotownerRetry, execFlitReceive, execLathReplay,
      execRetrainComplete, execDieUnreachable, execFenceConfirm, execDieRejoin, execRdmaWrite, execRdmaRead, execLaunchParse,
      execLaunchForward, execAdmissionRecheck, execCompletionDetect, execCompletionWrite, execCompletionNotice, execPowerAlarm,
      execAlarmClear, execThermalCutoff, execImageUpdate, execControllerCheckIn, execUpdateWatchdog, execCoronaipFailover,
      execPatrolScrub, execPowerOn, execEnergyCounterUpdate, execVersionFloorRaise]
    repeat' split
    all_goals exact goes_next _

end Sys2Proof.Machine

namespace Sys2Proof

open Sys2Proof.Machine Sys2Proof.Safety

/-- Settles O7: a turn is done, or performs an instruction or a step of the hardware, each of which goes on. -/
theorem nothingStops : Obligations.NothingStops := by
  intro s
  show Goes (finish (nextReady s))
  cases nextReady s with
  | done t => exact goes_next t
  | go t i => exact goes_exec i t

end Sys2Proof
end

section
/-! A refutation about cwb: the tags of the dies have room for lines below 2^40, and the clauses about cwb do not bound its lines. -/

namespace Sys2Proof.Safety

open Sys2Proof.Machine

/-- The machine after reset, but for a byte 1 that caches hold dirty at address 0, and for a context whose page 0 ends with line 2^40
of memory and whose page 1 begins with line 0. The entry listed dirty is that of line 2^40 at die 0, and that of line 0 at die 1. -/
def foldedLine : State :=
  { State.reset with
    dirty := [(0, 1)]
    coh := { State.reset.coh with dirs := [(2 ^ 40, { DirEntry.none with lvl := .m })] }
    tlbs := ⟨[(0, [⟨0, 0, 16, 2 ^ 47 - 0xFF80, true, true, true⟩, ⟨0, 0x10000, 16, 0, true, true, true⟩])], [], [], []⟩ }

/-- A cwb of the last line of page 0 and the first of page 1. -/
def foldedCwb : Instr := .cwb .sys 1 ⟨0, 0, 0xFF80⟩

/-- The bytes at which the two lines begin. -/
def foldedLocs : List Loc := [.mem (2 ^ 47), .mem 0]

theorem checkAccess_foldedLine :
    checkAccess foldedLine ⟨7, 0x108, true, false, false, true⟩ 0xFF80 [0xFF80, 0x10000] = .ok foldedLine foldedLocs := by
  rfl

/-- The byte stays where it was: writing line 2^40 back has made the entry clean, by which line 0 would be found dirty. -/
theorem mem_cwb_foldedLine (t : State) (h : exec foldedCwb foldedLine = .next t) : memGet t.mem 0 = 0 := by
  have hs : exec foldedCwb foldedLine = .next (advance ([2 ^ 40, 0].foldl cwbLine foldedLine)) := rfl
  obtain rfl : advance ([2 ^ 40, 0].foldl cwbLine foldedLine) = t := by simpa [hs] using h
  decide +kernel

end Sys2Proof.Safety

namespace Sys2Proof

open Sys2Proof.Machine Sys2Proof.Safety

theorem not_cacheMaintenance : ¬ Claims.CacheMaintenance := by
  unfold Claims.CacheMaintenance
  intro h
  obtain ⟨-, -, -, -, hcwb, -⟩ := h foldedLine foldedLine foldedLine .sys 1 ⟨0, 0, 0xFF80⟩ foldedLocs
  obtain ⟨t, ht, ⟨-, -, -, -, hdone⟩, -⟩ := hcwb checkAccess_foldedLine (by decide +kernel)
  obtain ⟨-, hbytes⟩ := hdone 0 (by decide) 1 (by decide)
  have := (mem_cwb_foldedLine t ht).symm.trans (hbytes 0 rfl)
  exact absurd this (by decide)

/-- Refutes O24: cwb is said to leave every line that a cache held dirty in memory itself, for lines of any number; but a die's tags are
kept by line and die together, so that line 2^40 at one die and line 0 at the next share an entry, and cleaning the one hides the other. -/
theorem not_relayAndCaches : ¬ Obligations.RelayAndCaches := by
  unfold Obligations.RelayAndCaches
  rintro ⟨-, hcaches⟩
  exact not_cacheMaintenance hcaches

end Sys2Proof
end

section
/-! Decoding: what each check and each reader of a field accepts, and what each code stands for
(03 R45-R52, R58). Every lemma says for one function of the decoder exactly when it answers a value,
in the terms in which the encoder writes that value. -/

namespace Sys2Proof

open Sys2Proof.Machine

/-! ## What each check and each reader accepts (03 R47, R58) -/

section
variable {α β : Type}

@[simp] theorem dec_bind_eq_ok {x : Dec α} {k : α → Dec β} {b : β} :
    (x >>= k) = .ok b ↔ ∃ a, x = .ok a ∧ k a = .ok b := by
  cases x with
  | error e => exact ⟨nofun, nofun⟩
  | ok a => exact ⟨fun h => ⟨a, rfl, h⟩, fun ⟨_, rfl, h⟩ => h⟩

@[simp] theorem dec_pure_eq_ok {a b : α} : (pure a : Dec α) = .ok b ↔ a = b := Except.ok.injEq a b ▸ Iff.rfl

@[simp] theorem dec_map_eq_ok {g : α → β} {x : Dec α} {b : β} : (g <$> x) = .ok b ↔ ∃ a, x = .ok a ∧ g a = b := by
  cases x with
  | error e => exact ⟨nofun, nofun⟩
  | ok a => exact (Except.ok.injEq ..).to_iff.trans ⟨fun h => ⟨a, rfl, h⟩, fun ⟨_, rfl, h⟩ => h⟩

@[simp] theorem needSome_eq_ok {x : Option α} {a : α} : needSome x = .ok a ↔ x = some a := by
  cases x <;> simp [needSome]

end

section
variable {f : Fields} {p v k i : Nat} {c : Bool} {u : Unit} {ins : Instr}

@[simp] theorem need_eq_ok : need c = .ok u ↔ c = true := by cases c <;> simp [need]

@[simp] theorem needPos_eq_ok : needPos p c = .ok u ↔ c = true := by cases c <;> simp [needPos]

@[simp] theorem unused_eq_ok : unused p v = .ok u ↔ v = 0 := by simp [unused]

@[simp] theorem typeOnly_eq_ok : typeOnly f = .ok u ↔ xBits f 43 0 = 0 := by simp [typeOnly]

@[simp] theorem gSpec_eq_ok {r : GReg} : gSpec p v = .ok r ↔ v = gS r := by
  unfold gSpec gS
  split <;> simp [Fin.ext_iff]
  omega

@[simp] theorem vSpec_eq_ok {r : VReg} : vSpec p v = .ok r ↔ v = vS r := by
  unfold vSpec vS
  split <;> simp [Fin.ext_iff] <;> omega

@[simp] theorem pSpec_eq_ok {r : PReg} : pSpec p v = .ok r ↔ v = pS r := by
  unfold pSpec pS
  split <;> simp [Fin.ext_iff] <;> omega

@[simp] theorem mSpec_eq_ok {r : MReg} : mSpec p v = .ok r ↔ v = mS r := by
  unfold mSpec mS
  split <;> simp [Fin.ext_iff] <;> omega

@[simp] theorem vgSpec_eq_ok {r : VSrc} : vgSpec p v = .ok r ↔ v = vgS r := by
  unfold vgSpec vgS gS vS
  split
  · cases r <;> simp [Fin.ext_iff]; omega
  · split <;> cases r <;> simp [Fin.ext_iff] <;> omega

@[simp] theorem groupSpec_eq_ok {r : GReg} : groupSpec p v k = .ok r ↔ v = gS r ∧ groupOk r k = true := by
  simp only [groupSpec, dec_bind_eq_ok, gSpec_eq_ok, needPos_eq_ok, dec_pure_eq_ok]
  aesop

@[simp] theorem cSpecG_eq_ok {r : GReg} : cSpecG f = .ok r ↔ xBits f 37 30 = gS r := by
  simp only [cSpecG, gS]
  split <;> simp [Fin.ext_iff]
  omega

@[simp] theorem cSpecV_eq_ok {r : VReg} : cSpecV f = .ok r ↔ xBits f 31 24 = vS r := by
  simp only [cSpecV, vS]
  split <;> simp [Fin.ext_iff] <;> omega

@[simp] theorem noImm_eq_ok {q : Dec Instr} : noImm i q = .ok ins ↔ i = 0 ∧ q = .ok ins := by
  unfold noImm
  split <;> simp [*]

@[simp] theorem onlyImm_eq_ok {q : Dec Instr} : onlyImm i q = .ok ins ↔ i = 1 ∧ q = .ok ins := by
  unfold onlyImm
  split <;> simp [*]

@[simp] theorem bothForms_eq_ok {q q' : Dec Instr} :
    bothForms i q q' = .ok ins ↔ i = 0 ∧ q = .ok ins ∨ i ≠ 0 ∧ q' = .ok ins := by
  unfold bothForms
  split <;> simp [*]

@[simp] theorem ggg_eq_ok {d a b : GReg} : ggg f = .ok (d, a, b) ↔ f.d = gS d ∧ f.a = gS a ∧ f.b = gS b := by
  simp [ggg]

@[simp] theorem ggz_eq_ok {d a : GReg} : ggz f = .ok (d, a) ↔ f.d = gS d ∧ f.a = gS a ∧ f.b = 0 := by
  simp [ggz]

@[simp] theorem vvs_eq_ok {d a : VReg} {b : VSrc} :
    vvs f = .ok (d, a, b) ↔ f.d = vS d ∧ f.a = vS a ∧ f.b = vgS b := by
  simp [vvs]

@[simp] theorem vvz_eq_ok {d a : VReg} : vvz f = .ok (d, a) ↔ f.d = vS d ∧ f.a = vS a ∧ f.b = 0 := by
  simp [vvz]

end

/-! ## Codes and what they stand for (03 R50-R52) -/

section
variable {f : Fields} {n : Nat}

@[simp] theorem intTy_eq_some {t : Option IntTy} : intTy n = some t ↔ n = intCode t :=
  ⟨by fun_cases intTy n <;> rintro ⟨⟩ <;> rfl, by rintro rfl; fun_cases intCode t <;> rfl⟩

@[simp] theorem fpTy_eq_some {t : Option FpTy} : fpTy n = some t ↔ n = fpCode t :=
  ⟨by fun_cases fpTy n <;> rintro ⟨⟩ <;> rfl, by rintro rfl; fun_cases fpCode t <;> rfl⟩

@[simp] theorem laneInt_eq_some {t : Option LaneInt} : laneInt n = some t ↔ n = laneIntCode t :=
  ⟨by fun_cases laneInt n <;> rintro ⟨⟩ <;> rfl, by rintro rfl; fun_cases laneIntCode t <;> rfl⟩

@[simp] theorem laneTy1_eq_some {t : LaneTy} : laneTy1 n = some t ↔ n = laneCode1 t :=
  ⟨by fun_cases laneTy1 n <;> rintro ⟨⟩ <;> rfl, by rintro rfl; rcases t with t | t <;> cases t <;> rfl⟩

@[simp] theorem numTy_eq_some {t : NumTy} : numTy n = some t ↔ n = numCode t :=
  ⟨by fun_cases numTy n <;> rintro ⟨⟩ <;> rfl, by rintro rfl; rcases t with t | t <;> cases t <;> rfl⟩

@[simp] theorem wideTy_eq_some {t : Option WideTy} : wideTy n = some t ↔ n = wideCode t :=
  ⟨by fun_cases wideTy n <;> rintro ⟨⟩ <;> rfl, by rintro rfl; fun_cases wideCode t <;> rfl⟩

@[simp] theorem swapTy_eq_some {t : Option SwapTy} : swapTy n = some t ↔ n = swapCode t :=
  ⟨by fun_cases swapTy n <;> rintro ⟨⟩ <;> rfl, by rintro rfl; fun_cases swapCode t <;> rfl⟩

@[simp] theorem dotTy_eq_some {t : Option DotTy} : dotTy n = some t ↔ n = dotCode t :=
  ⟨by fun_cases dotTy n <;> rintro ⟨⟩ <;> rfl, by rintro rfl; fun_cases dotCode t <;> rfl⟩

@[simp] theorem bxTy_eq_some {t : BxTy} : bxTy n = some t ↔ n = bxCode t :=
  ⟨by fun_cases bxTy n <;> rintro ⟨⟩ <;> rfl, by rintro rfl; fun_cases bxCode t <;> rfl⟩

@[simp] theorem condTy_eq_some {t : Cond} : condTy n = some t ↔ n = condCode t :=
  ⟨by fun_cases condTy n <;> rintro ⟨⟩ <;> rfl, by rintro rfl; fun_cases condCode t <;> rfl⟩

@[simp] theorem fcondTy_eq_some {t : FCond} : fcondTy n = some t ↔ n = fcondCode t :=
  ⟨by fun_cases fcondTy n <;> rintro ⟨⟩ <;> rfl, by rintro rfl; fun_cases fcondCode t <;> rfl⟩

@[simp] theorem scopeTy_eq_some {t : Scope} : scopeTy n = some t ↔ n = scopeBits t :=
  ⟨by fun_cases scopeTy n <;> rintro ⟨⟩ <;> rfl, by rintro rfl; fun_cases scopeBits t <;> rfl⟩

@[simp] theorem sizeTy_eq_some {t : Size} : sizeTy n = some t ↔ n = sizeCode t :=
  ⟨by fun_cases sizeTy n <;> rintro ⟨⟩ <;> rfl, by rintro rfl; fun_cases sizeCode t <;> rfl⟩

@[simp] theorem vsizeTy_eq_some {t : VSize} : vsizeTy n = some t ↔ n = vsizeCode t :=
  ⟨by fun_cases vsizeTy n <;> rintro ⟨⟩ <;> rfl, by rintro rfl; fun_cases vsizeCode t <;> rfl⟩

@[simp] theorem amoTy_eq_some {t : AmoOp} : amoTy n = some t ↔ n = amoCode t :=
  ⟨by fun_cases amoTy n <;> rintro ⟨⟩ <;> rfl, by rintro rfl; fun_cases amoCode t <;> rfl⟩

@[simp] theorem fenceTy_eq_some {t : FenceOrder} : fenceTy n = some t ↔ n = fenceCode t :=
  ⟨by fun_cases fenceTy n <;> rintro ⟨⟩ <;> rfl, by rintro rfl; fun_cases fenceCode t <;> rfl⟩

@[simp] theorem redTy_eq_some {t : RedOp} : redTy n = some t ↔ n = redCode t :=
  ⟨by fun_cases redTy n <;> rintro ⟨⟩ <;> rfl, by rintro rfl; fun_cases redCode t <;> rfl⟩

@[simp] theorem chmskTy_eq_some {t : ChmskOp} : chmskTy n = some t ↔ n = chmskCode t :=
  ⟨by fun_cases chmskTy n <;> rintro ⟨⟩ <;> rfl, by rintro rfl; fun_cases chmskCode t <;> rfl⟩

@[simp] theorem engineTy_eq_some {t : Engine} : engineTy n = some t ↔ n = engineCode t :=
  ⟨by fun_cases engineTy n <;> rintro ⟨⟩ <;> rfl, by rintro rfl; fun_cases engineCode t <;> rfl⟩

@[simp] theorem kindTy_eq_some {t : AccessKind} : kindTy n = some t ↔ n = kindCode t :=
  ⟨by fun_cases kindTy n <;> rintro ⟨⟩ <;> rfl, by rintro rfl; fun_cases kindCode t <;> rfl⟩

@[simp] theorem laneTy_eq_some {t : Option LaneTy} : laneTy n = some t ↔ n = laneCode t := by
  cases n with
  | zero =>
    rcases t with _ | (t | t)
    · simp [laneTy, laneCode]
    all_goals cases t <;> simp [laneTy, laneCode, laneCode1, laneIntCode, fpCode]
  | succ n => cases t <;> simp [laneTy, laneCode]

theorem rmwTy_eq {o : RmwOrder} (hn : n < 4) : rmwTy n = o ↔ n = rmwCode o := by
  interval_cases n <;> cases o <;> simp [rmwTy, rmwCode]

theorem rndOf_eq {r : Rnd} : rndOf f = r ↔ xBits f 43 42 = rndCode r := by
  have h : xBits f 43 42 < 4 := Nat.mod_lt _ (by decide)
  unfold rndOf
  split <;> cases r <;> simp_all [rndCode]
  omega

@[simp] theorem ordTy_eq_some {m : Nat} {o : MemOrder} : ordTy n m = some o ↔ (n, m) = ordCode o := by
  unfold ordTy ordCode
  split <;> cases o <;> simp_all

@[simp] theorem sregTy_eq_some {r : SReg} : sregTy n = some r ↔ n = sregCode r := by
  constructor
  · fun_cases sregTy n <;> rintro ⟨⟩ <;> simp [sregCode] <;> omega
  · rintro rfl
    cases r with
    | senacc i => exact (dif_pos ⟨Nat.le_add_right _ _, Nat.add_lt_add_left i.isLt _⟩).trans (by simp [sregCode])
    | senlim i =>
      have h : ¬(0x040 ≤ sregCode (.senlim i) ∧ sregCode (.senlim i) < 0x058) := by
        simp only [sregCode]
        omega
      exact (dif_neg h).trans ((dif_pos ⟨Nat.le_add_right _ _, Nat.add_lt_add_left i.isLt _⟩).trans (by simp [sregCode]))
    | tcause l | tip l | tfva l | tinfo l | tarea l => cases l <;> rfl
    | _ => rfl

end

end Sys2Proof
end

section
/-! The fields of X (03 R49, R52; 06 R124): a word's X is the sum that the encoder writes exactly when
the fields that the decoder checks hold the codes of the sum. -/

namespace Sys2Proof

open Sys2Proof.Machine

/-! ## What a specifier or a code fits into -/

@[simp] theorem gS_lt (r : GReg) : gS r < 256 := r.isLt.trans (by decide)

@[simp] theorem vS_lt (r : VReg) : vS r < 256 := by unfold vS; omega

@[simp] theorem pS_lt (r : PReg) : pS r < 256 := by unfold pS; omega

@[simp] theorem mS_lt (r : MReg) : mS r < 256 := by unfold mS; omega

@[simp] theorem vgS_lt (r : VSrc) : vgS r < 256 := by
  cases r with
  | v r => exact vS_lt r
  | g r => exact gS_lt r

@[simp] theorem intCode_lt (t : Option IntTy) : intCode t < 16 := by fun_cases intCode t <;> decide

@[simp] theorem fpCode_lt (t : Option FpTy) : fpCode t < 16 := by fun_cases fpCode t <;> decide

@[simp] theorem laneIntCode_lt (t : Option LaneInt) : laneIntCode t < 16 := by fun_cases laneIntCode t <;> decide

@[simp] theorem laneCode1_lt (t : LaneTy) : laneCode1 t < 16 := by
  cases t with
  | int t => exact laneIntCode_lt (some t)
  | fp t => exact fpCode_lt (some t)

@[simp] theorem laneCode_lt (t : Option LaneTy) : laneCode t < 16 := by
  cases t with
  | none => decide
  | some t => exact laneCode1_lt t

@[simp] theorem numCode_lt (t : NumTy) : numCode t < 16 := by
  cases t with
  | int t => exact intCode_lt (some t)
  | fp t => exact fpCode_lt (some t)

@[simp] theorem wideCode_lt (t : Option WideTy) : wideCode t < 16 := by fun_cases wideCode t <;> decide

@[simp] theorem swapCode_lt (t : Option SwapTy) : swapCode t < 16 := by fun_cases swapCode t <;> decide

@[simp] theorem dotCode_lt (t : Option DotTy) : dotCode t < 16 := by fun_cases dotCode t <;> decide

@[simp] theorem bxCode_lt (t : BxTy) : bxCode t < 16 := by cases t <;> decide

@[simp] theorem rndCode_lt (t : Rnd) : rndCode t < 4 := by cases t <;> decide

@[simp] theorem condCode_lt (t : Cond) : condCode t < 16 := by cases t <;> decide

@[simp] theorem fcondCode_lt (t : FCond) : fcondCode t < 16 := by cases t <;> decide

@[simp] theorem sizeCode_lt (t : Size) : sizeCode t < 8 := by cases t <;> decide

@[simp] theorem vsizeCode_lt (t : VSize) : vsizeCode t < 8 := by cases t <;> decide

@[simp] theorem scopeBits_lt (t : Scope) : scopeBits t < 8 := by cases t <;> decide

@[simp] theorem ordCode_lt (t : MemOrder) : (ordCode t).1 < 4 ∧ (ordCode t).2 < 8 := by
  cases t <;> simp [ordCode]

@[simp] theorem amoCode_lt (t : AmoOp) : amoCode t < 16 := by cases t <;> decide

@[simp] theorem rmwCode_lt (t : RmwOrder) : rmwCode t < 4 := by cases t <;> decide

@[simp] theorem fenceCode_lt (t : FenceOrder) : fenceCode t < 4 := by cases t <;> decide

@[simp] theorem redCode_lt (t : RedOp) : redCode t < 16 := by cases t <;> decide

@[simp] theorem chmskCode_lt (t : ChmskOp) : chmskCode t < 4 := by cases t <;> decide

@[simp] theorem engineCode_lt (t : Engine) : engineCode t < 4 := by cases t <;> decide

@[simp] theorem kindCode_lt (t : AccessKind) : kindCode t < 4 := by cases t <;> decide

@[simp] theorem sregCode_lt (r : SReg) : sregCode r < 4096 := by
  cases r with
  | senacc i | senlim i =>
    simp only [sregCode]
    omega
  | tcause l | tip l | tfva l | tinfo l | tarea l => cases l <;> decide
  | _ => decide

@[simp] theorem maskCode_lt (m : Option MReg) : maskCode m < 16 := by
  cases m with
  | none => decide
  | some m => exact Nat.add_lt_add_left m.isLt 8

theorem mkT_le (k : MaskSel) : mkT k ≤ 0x3E00000000 := by
  have := maskCode_lt k.mask
  have := k.z.toNat_lt
  unfold mkT
  omega

@[simp] theorem mkT_lt (k : MaskSel) : mkT k < 0x4000000000 := (mkT_le k).trans_lt (by decide)

theorem mkT_add_lt (k : MaskSel) {r : Nat} (hr : r < 2 ^ 33) : mkT k + r < 2 ^ 38 := by
  have := mkT_le k
  omega

@[simp] theorem mkM_lt (k : MaskSel) : mkM k < 128 := by
  have := maskCode_lt k.mask
  have := k.z.toNat_lt
  unfold mkM
  omega

theorem widthRatio_le (dt st : LaneTy) : widthRatio dt st ≤ 4 := by
  rcases dt with t | t <;> rcases st with u | u <;> cases t <;> cases u <;> decide

/-! ## One field and runs of fields -/

section
variable {f : Fields}

theorem xFin_val {n lo : Nat} [NeZero n] : (xFin f n lo).val = f.x / 2 ^ lo % n := rfl

theorem xFin_eq {n lo : Nat} [NeZero n] {p : Fin n} : xFin f n lo = p ↔ f.x / 2 ^ lo % n = p.val := Fin.ext_iff

theorem xBit_eq {j : Nat} {b : Bool} : xBit f j = b ↔ f.x / 2 ^ j % 2 = b.toNat := by
  have h : f.x / 2 ^ j % 2 < 2 := Nat.mod_lt _ (by decide)
  cases b <;> simp [xBit]

theorem xBits_43_0_eq_zero : xBits f 43 0 = 0 ↔ xBits f 43 42 = 0 ∧ xBits f 41 38 = 0 ∧ xBits f 37 0 = 0 := by
  simp only [xBits]
  omega

theorem xBits_41_0_eq_zero : xBits f 41 0 = 0 ↔ xBits f 41 38 = 0 ∧ xBits f 37 0 = 0 := by
  simp only [xBits]
  omega

theorem xBits_43_38_eq_zero : xBits f 43 38 = 0 ↔ xBits f 43 42 = 0 ∧ xBits f 41 38 = 0 := by
  simp only [xBits]
  omega

theorem xBits_37_0_third {c : Nat} : xBits f 37 0 = c * 2 ^ 30 ↔ xBits f 37 30 = c ∧ xBits f 29 0 = 0 := by
  simp only [xBits]
  omega

theorem xBits_37_0_source {c : Nat} : xBits f 37 0 = c * 2 ^ 34 ↔ xBits f 37 34 = c ∧ xBits f 33 0 = 0 := by
  simp only [xBits]
  omega

theorem xBits_37_0_mask {k : MaskSel} {r : Nat} (hr : r < 2 ^ 33) :
    xBits f 37 0 = mkT k + r ↔ xBits f 37 34 = maskCode k.mask ∧ xBit f 33 = k.z ∧ xBits f 32 0 = r := by
  have := maskCode_lt k.mask
  have := k.z.toNat_lt
  simp only [xBit_eq, mkT, xBits]
  omega

theorem xBits_37_0_mkT {k : MaskSel} :
    xBits f 37 0 = mkT k ↔ xBits f 37 34 = maskCode k.mask ∧ xBit f 33 = k.z ∧ xBits f 32 0 = 0 := by
  rw [← xBits_37_0_mask (Nat.two_pow_pos 33), Nat.add_zero]

theorem xBits_38_32_mkM {k : MaskSel} :
    xBits f 38 32 = mkM k ↔ xBits f 38 35 = maskCode k.mask ∧ xBit f 34 = k.z ∧ xBits f 33 32 = 0 := by
  have := maskCode_lt k.mask
  have := k.z.toNat_lt
  simp only [xBit_eq, mkM, xBits]
  omega

theorem xBits_39_32_eq_zero : xBits f 39 32 = 0 ↔ xBit f 39 = false ∧ xBits f 38 32 = 0 := by
  simp only [xBit_eq, xBits, Bool.toNat_false]
  omega

theorem xBits_32_0_third {c : Nat} (hc : c < 2 ^ 8) :
    xBits f 32 0 = c * 2 ^ 24 ↔ xBit f 32 = false ∧ xBits f 31 24 = c ∧ xBits f 23 0 = 0 := by
  simp only [xBit_eq, xBits, Bool.toNat_false]
  omega

theorem xBits_32_0_op {c : Nat} (hc : c < 2 ^ 4) :
    xBits f 32 0 = c * 2 ^ 28 ↔ xBit f 32 = false ∧ xBits f 31 28 = c ∧ xBits f 27 0 = 0 := by
  simp only [xBit_eq, xBits, Bool.toNat_false]
  omega

theorem xBits_32_0_part {c : Nat} {p : Fin 4} (hc : c < 2 ^ 4) : xBits f 32 0 = c * 2 ^ 28 + p.val * 2 ^ 17 ↔
    xBit f 32 = false ∧ xBits f 31 28 = c ∧ xBits f 27 20 = 0 ∧ xBits f 19 17 = p.val ∧ xBits f 16 0 = 0 := by
  simp only [xBit_eq, xBits, Bool.toNat_false]
  omega

theorem xBits_32_0_block {b : Fin 8} : xBits f 32 0 = b.val * 2 ^ 17 ↔
    xBits f 32 20 = 0 ∧ xFin f 8 17 = b ∧ xBits f 16 0 = 0 := by
  simp only [xFin_eq, xBits]
  omega

theorem xBits_37_0_pack {c : Nat} {sp : Fin 16} {b : Fin 8} (hc : c < 2 ^ 8) :
    xBits f 37 0 = c * 2 ^ 24 + sp.val * 2 ^ 20 + b.val * 2 ^ 17 ↔
    xBits f 37 32 = 0 ∧ xBits f 31 24 = c ∧ xFin f 16 20 = sp ∧ xFin f 8 17 = b ∧ xBits f 16 0 = 0 := by
  simp only [xFin_eq, xBits]
  omega

theorem xBits_37_0_field {p l : Fin 64} : xBits f 37 0 = l.val * 2 ^ 6 + p.val ↔
    xBits f 37 12 = 0 ∧ xFin f 64 6 = l ∧ xFin f 64 0 = p := by
  simp only [xFin_eq, xBits]
  omega

section
variable (hx : f.x < 2 ^ 48)
include hx

/-! ## The layouts (03 R49, R52) -/

theorem xT_eq_iff {ty rnd cond rest : Nat} (hr : rnd < 4) (hc : cond < 16) (hs : rest < 2 ^ 38) :
    xT ty rnd cond rest = f.x ↔ tyOf f = ty ∧ xBits f 43 42 = rnd ∧ xBits f 41 38 = cond ∧ xBits f 37 0 = rest := by
  simp only [xT, tyOf, xBits]
  omega

theorem xM_eq_iff {size : Nat} {o : Nat × Nat} {sg : Bool} {per : Nat} {disp : BitVec 32} (h1 : o.1 < 4) (h2 : o.2 < 8)
    (h3 : per < 128) :
    xM size o sg per disp = f.x ↔ xBits f 47 45 = size ∧ (xBits f 44 43, xBits f 42 40) = o ∧ xBit f 39 = sg ∧
      xBits f 38 32 = per ∧ BitVec.ofNat 32 f.x = disp := by
  have := disp.isLt
  have := sg.toNat_lt
  obtain ⟨o1, o2⟩ := o
  simp only [xBit_eq, xM, xBits, Prod.mk.injEq, BitVec.toNat_eq, BitVec.toNat_ofNat] at *
  omega

/-! ### Layout T -/

section
variable {ty cond c : Nat} {m : Rnd} {k : MaskSel}

theorem xT_type : xT ty 0 0 0 = f.x ↔ tyOf f = ty ∧ xBits f 43 0 = 0 := by
  rw [xT_eq_iff hx (by decide) (by decide) (by decide), xBits_43_0_eq_zero]

theorem xT_rnd : xT ty (rndCode m) 0 0 = f.x ↔ tyOf f = ty ∧ rndOf f = m ∧ xBits f 41 0 = 0 := by
  rw [xT_eq_iff hx (rndCode_lt m) (by decide) (by decide), xBits_41_0_eq_zero, rndOf_eq]

theorem xT_cond (hc : cond < 16) :
    xT ty 0 cond 0 = f.x ↔ tyOf f = ty ∧ xBits f 43 42 = 0 ∧ xBits f 41 38 = cond ∧ xBits f 37 0 = 0 :=
  xT_eq_iff hx (by decide) hc (by decide)

theorem xT_third (r : GReg) : xT ty 0 0 (gS r * 2 ^ 30) = f.x ↔
    tyOf f = ty ∧ xBits f 43 38 = 0 ∧ xBits f 37 30 = gS r ∧ xBits f 29 0 = 0 := by
  have := gS_lt r
  rw [xT_eq_iff hx (by decide) (by decide) (by omega), xBits_43_38_eq_zero, xBits_37_0_third, and_assoc]

theorem xT_rnd_third (r : GReg) : xT ty (rndCode m) 0 (gS r * 2 ^ 30) = f.x ↔
    tyOf f = ty ∧ rndOf f = m ∧ xBits f 41 38 = 0 ∧ xBits f 37 30 = gS r ∧ xBits f 29 0 = 0 := by
  have := gS_lt r
  rw [xT_eq_iff hx (rndCode_lt m) (by decide) (by omega), rndOf_eq, xBits_37_0_third]

theorem xT_rnd_source (t : NumTy) : xT ty (rndCode m) 0 (numCode t * 2 ^ 34) = f.x ↔
    tyOf f = ty ∧ rndOf f = m ∧ xBits f 41 38 = 0 ∧ xBits f 37 34 = numCode t ∧ xBits f 33 0 = 0 := by
  have := numCode_lt t
  rw [xT_eq_iff hx (rndCode_lt m) (by decide) (by omega), rndOf_eq, xBits_37_0_source]

theorem xT_field (p l : Fin 64) : xT ty 0 0 (l.val * 2 ^ 6 + p.val) = f.x ↔
    tyOf f = ty ∧ xBits f 43 12 = 0 ∧ xFin f 64 6 = l ∧ xFin f 64 0 = p := by
  rw [xT_eq_iff hx (by decide) (by decide) (by omega), xBits_37_0_field]
  simp only [xBits]
  omega

theorem xT_mask : xT ty 0 0 (mkT k) = f.x ↔
    tyOf f = ty ∧ xBits f 43 38 = 0 ∧ xBits f 37 34 = maskCode k.mask ∧ xBit f 33 = k.z ∧ xBits f 32 0 = 0 := by
  rw [xT_eq_iff hx (by decide) (by decide) (mkT_lt k), xBits_43_38_eq_zero, xBits_37_0_mkT, and_assoc]

theorem xT_rnd_mask : xT ty (rndCode m) 0 (mkT k) = f.x ↔
    tyOf f = ty ∧ rndOf f = m ∧ xBits f 41 38 = 0 ∧ xBits f 37 34 = maskCode k.mask ∧ xBit f 33 = k.z ∧
      xBits f 32 0 = 0 := by
  rw [xT_eq_iff hx (rndCode_lt m) (by decide) (mkT_lt k), rndOf_eq, xBits_37_0_mkT]

theorem xT_cond_mask (hc : cond < 16) : xT ty 0 cond (mkT k) = f.x ↔
    tyOf f = ty ∧ xBits f 43 42 = 0 ∧ xBits f 41 38 = cond ∧ xBits f 37 34 = maskCode k.mask ∧ xBit f 33 = k.z ∧
      xBits f 32 0 = 0 := by
  rw [xT_eq_iff hx (by decide) hc (mkT_lt k), xBits_37_0_mkT]

theorem xT_mask_third (r : VReg) : xT ty 0 0 (mkT k + vS r * 2 ^ 24) = f.x ↔
    tyOf f = ty ∧ xBits f 43 38 = 0 ∧ xBits f 37 34 = maskCode k.mask ∧ xBit f 33 = k.z ∧ xBit f 32 = false ∧
      xBits f 31 24 = vS r ∧ xBits f 23 0 = 0 := by
  have := vS_lt r
  rw [xT_eq_iff hx (by decide) (by decide) (mkT_add_lt k (by omega)), xBits_43_38_eq_zero, xBits_37_0_mask (by omega),
    xBits_32_0_third (by omega), and_assoc]

theorem xT_rnd_mask_third (r : VReg) : xT ty (rndCode m) 0 (mkT k + vS r * 2 ^ 24) = f.x ↔
    tyOf f = ty ∧ rndOf f = m ∧ xBits f 41 38 = 0 ∧ xBits f 37 34 = maskCode k.mask ∧ xBit f 33 = k.z ∧
      xBit f 32 = false ∧ xBits f 31 24 = vS r ∧ xBits f 23 0 = 0 := by
  have := vS_lt r
  rw [xT_eq_iff hx (rndCode_lt m) (by decide) (mkT_add_lt k (by omega)), rndOf_eq, xBits_37_0_mask (by omega),
    xBits_32_0_third (by omega)]

theorem xT_rnd_mask_part (t : LaneTy) (p : Fin 4) :
    xT ty (rndCode m) 0 (mkT k + laneCode1 t * 2 ^ 28 + p.val * 2 ^ 17) = f.x ↔
    tyOf f = ty ∧ rndOf f = m ∧ xBits f 41 38 = 0 ∧ xBits f 37 34 = maskCode k.mask ∧ xBit f 33 = k.z ∧
      xBit f 32 = false ∧ xBits f 31 28 = laneCode1 t ∧ xBits f 27 20 = 0 ∧ xBits f 19 17 = p.val ∧
      xBits f 16 0 = 0 := by
  have := laneCode1_lt t
  rw [Nat.add_assoc, xT_eq_iff hx (rndCode_lt m) (by decide) (mkT_add_lt k (by omega)), rndOf_eq,
    xBits_37_0_mask (by omega), xBits_32_0_part (by omega)]

theorem xT_rnd_mask_op (o : RedOp) : xT ty (rndCode m) 0 (mkT k + redCode o * 2 ^ 28) = f.x ↔
    tyOf f = ty ∧ rndOf f = m ∧ xBits f 41 38 = 0 ∧ xBits f 37 34 = maskCode k.mask ∧ xBit f 33 = k.z ∧
      xBit f 32 = false ∧ xBits f 31 28 = redCode o ∧ xBits f 27 0 = 0 := by
  have := redCode_lt o
  rw [xT_eq_iff hx (rndCode_lt m) (by decide) (mkT_add_lt k (by omega)), rndOf_eq, xBits_37_0_mask (by omega),
    xBits_32_0_op (by omega)]

theorem xT_third_block (r : VReg) (sp : Fin 16) (b : Fin 8) :
    xT ty 0 0 (vS r * 2 ^ 24 + sp.val * 2 ^ 20 + b.val * 2 ^ 17) = f.x ↔
    tyOf f = ty ∧ xBits f 43 32 = 0 ∧ xBits f 31 24 = vS r ∧ xFin f 16 20 = sp ∧ xFin f 8 17 = b ∧
      xBits f 16 0 = 0 := by
  have := vS_lt r
  rw [xT_eq_iff hx (by decide) (by decide) (by omega), xBits_37_0_pack (by omega)]
  simp only [xBits]
  omega

theorem xT_mask_block (b : Fin 8) : xT ty 0 0 (mkT k + b.val * 2 ^ 17) = f.x ↔
    tyOf f = ty ∧ xBits f 43 38 = 0 ∧ xBits f 37 34 = maskCode k.mask ∧ xBit f 33 = k.z ∧ xBits f 32 20 = 0 ∧
      xFin f 8 17 = b ∧ xBits f 16 0 = 0 := by
  rw [xT_eq_iff hx (by decide) (by decide) (mkT_add_lt k (by omega)), xBits_43_38_eq_zero, xBits_37_0_mask (by omega),
    xBits_32_0_block, and_assoc]

end

/-! ### Layout M -/

section
variable {size : Nat} {o : MemOrder} {sc : Scope} {sg : Bool} {disp : BitVec 32}

theorem xM_access : xM size (ordCode o) sg 0 disp = f.x ↔ xBits f 47 45 = size ∧
    (xBits f 44 43, xBits f 42 40) = ordCode o ∧ xBit f 39 = sg ∧ xBits f 38 32 = 0 ∧ BitVec.ofNat 32 f.x = disp :=
  xM_eq_iff hx (ordCode_lt o).1 (ordCode_lt o).2 (by decide)

theorem xM_store : xM size (ordCode o) false 0 disp = f.x ↔ xBits f 47 45 = size ∧
    (xBits f 44 43, xBits f 42 40) = ordCode o ∧ xBits f 39 32 = 0 ∧ BitVec.ofNat 32 f.x = disp := by
  rw [xM_access hx, xBits_39_32_eq_zero, and_assoc]

theorem xM_hint (n : Fin 4) : xM 0 (0, 0) false n.val disp = f.x ↔
    xBits f 47 34 = 0 ∧ xFin f 4 32 = n ∧ BitVec.ofNat 32 f.x = disp := by
  have := disp.isLt
  rw [xM_eq_iff hx (by decide) (by decide) (by omega)]
  simp only [xBit_eq, xFin_eq, xBits, Bool.toNat_false, Prod.mk.injEq, BitVec.toNat_eq, BitVec.toNat_ofNat]
  omega

theorem xM_plain : xM size (0, 0) false 0 disp = f.x ↔
    xBits f 47 45 = size ∧ xBits f 44 32 = 0 ∧ BitVec.ofNat 32 f.x = disp := by
  have := disp.isLt
  rw [xM_eq_iff hx (by decide) (by decide) (by decide)]
  simp only [xBit_eq, xBits, Bool.toNat_false, Prod.mk.injEq, BitVec.toNat_eq, BitVec.toNat_ofNat]
  omega

theorem xM_lines (n : Fin 128) : xM 0 (0, scopeBits sc) false n.val disp = f.x ↔ xBits f 47 43 = 0 ∧
    xBits f 42 40 = scopeBits sc ∧ xBit f 39 = false ∧ xFin f 128 32 = n ∧ BitVec.ofNat 32 f.x = disp := by
  have := disp.isLt
  rw [xM_eq_iff hx (Nat.zero_lt_succ 3) (scopeBits_lt sc) n.isLt]
  simp only [xBit_eq, xFin_eq, xBits, Bool.toNat_false, Prod.mk.injEq, BitVec.toNat_eq, BitVec.toNat_ofNat]
  omega

theorem xM_atomic {a r : Nat} (ha : a < 16) (hr : r < 4) :
    xM size (0, scopeBits sc) sg (a * 2 ^ 3 + r * 2) disp = f.x ↔
    xBits f 47 45 = size ∧ xBits f 44 43 = 0 ∧ xBits f 42 40 = scopeBits sc ∧ xBit f 39 = sg ∧ xBits f 38 35 = a ∧
      xBits f 34 33 = r ∧ xBit f 32 = false ∧ BitVec.ofNat 32 f.x = disp := by
  have := disp.isLt
  rw [xM_eq_iff hx (Nat.zero_lt_succ 3) (scopeBits_lt sc) (by omega)]
  simp only [xBit_eq, xBits, Bool.toNat_false, Prod.mk.injEq, BitVec.toNat_eq, BitVec.toNat_ofNat]
  omega

theorem xM_swap {r : Nat} (hr : r < 4) : xM size (0, scopeBits sc) sg (r * 2) disp = f.x ↔
    xBits f 47 45 = size ∧ xBits f 44 43 = 0 ∧ xBits f 42 40 = scopeBits sc ∧ xBit f 39 = sg ∧ xBits f 38 35 = 0 ∧
      xBits f 34 33 = r ∧ xBit f 32 = false ∧ BitVec.ofNat 32 f.x = disp := by
  rw [← xM_atomic hx (Nat.zero_lt_succ 15) hr, Nat.zero_mul, Nat.zero_add]

theorem xM_mask {k : MaskSel} : xM size (ordCode o) false (mkM k) disp = f.x ↔ xBits f 47 45 = size ∧
    (xBits f 44 43, xBits f 42 40) = ordCode o ∧ xBit f 39 = false ∧ xBits f 38 35 = maskCode k.mask ∧ xBit f 34 = k.z ∧
      xBits f 33 32 = 0 ∧ BitVec.ofNat 32 f.x = disp := by
  rw [xM_eq_iff hx (ordCode_lt o).1 (ordCode_lt o).2 (mkM_lt k), xBits_38_32_mkM, and_assoc, and_assoc]

end

/-! ### Words whose X holds a small number -/

theorem xBits_top_eq_zero {k : Nat} (hk : k ≤ 48) : xBits f 47 k = 0 ↔ f.x < 2 ^ k := by
  have : f.x / 2 ^ k < 2 ^ (47 + 1 - k) := Nat.div_lt_of_lt_mul (by rwa [← pow_add, Nat.add_sub_cancel' hk])
  rw [xBits, Nat.mod_eq_of_lt this, Nat.div_eq_zero_iff_lt (Nat.two_pow_pos k)]

theorem negs_eq_iff {na nb : Bool} : negs na nb = f.x ↔ xBits f 47 2 = 0 ∧ xBit f 1 = na ∧ xBit f 0 = nb := by
  have := na.toNat_lt
  have := nb.toNat_lt
  simp only [xBit_eq, negs, xBits]
  omega

theorem small_eq_iff {c : Nat} (k : Nat) (hc : c < 2 ^ (k + 1)) (hk : k ≤ 46) :
    c = f.x ↔ xBits f 47 (k + 1) = 0 ∧ xBits f k 0 = c := by
  rw [xBits_top_eq_zero hx (by omega), xBits, pow_zero, Nat.div_one]
  exact ⟨fun h => h ▸ ⟨hc, Nat.mod_eq_of_lt hc⟩, fun ⟨h, h'⟩ => h' ▸ Nat.mod_eq_of_lt h⟩

theorem lea_eq_iff {sh : Fin 5} {disp : BitVec 32} : sh.val * 2 ^ 32 + disp.toNat = f.x ↔
    xBits f 47 35 = 0 ∧ xBits f 34 32 = sh.val ∧ BitVec.ofNat 32 f.x = disp := by
  have := disp.isLt
  simp only [xBits, BitVec.toNat_eq, BitVec.toNat_ofNat]
  omega

theorem field_eq_iff {p l : Fin 64} : l.val * 2 ^ 6 + p.val = f.x ↔
    xBits f 47 12 = 0 ∧ xFin f 64 6 = l ∧ xFin f 64 0 = p := by
  simp only [xFin_eq, xBits]
  omega

theorem fence_eq_iff {o : FenceOrder} {sc : Scope} : fenceCode o * 2 ^ 4 + scopeBits sc = f.x ↔
    xBits f 47 6 = 0 ∧ xBit f 3 = false ∧ xBits f 5 4 = fenceCode o ∧ xBits f 2 0 = scopeBits sc := by
  have := fenceCode_lt o
  have := scopeBits_lt sc
  simp only [xBit_eq, xBits, Bool.toNat_false]
  omega

theorem trap_eq_iff {c : BitVec 16} : c.toNat = f.x ↔ xBits f 47 16 = 0 ∧ BitVec.ofNat 16 f.x = c := by
  have := c.isLt
  simp only [xBits, BitVec.toNat_eq, BitVec.toNat_ofNat]
  omega

theorem serve_eq_iff {fl : Bool} : 2 ^ 4 + fl.toNat * 2 ^ 3 = f.x ↔
    xBit f 4 = true ∧ xBits f 47 5 = 0 ∧ xBits f 2 0 = 0 ∧ xBit f 3 = fl := by
  have := fl.toNat_lt
  simp only [xBit_eq, xBits, Bool.toNat_true]
  omega

theorem post_eq_iff {k : AccessKind} : kindCode k = f.x ↔
    xBit f 4 = false ∧ xBits f 47 2 = 0 ∧ xBits f 1 0 = kindCode k := by
  have := kindCode_lt k
  simp only [xBit_eq, xBits, Bool.toNat_false]
  omega

theorem one_eq_iff : 1 = f.x ↔ xBit f 0 = true ∧ xBits f 47 1 = 0 := by
  simp only [xBit_eq, xBits, Bool.toNat_true]
  omega

theorem zero_eq_iff : 0 = f.x ↔ xBit f 0 = false ∧ xBits f 47 1 = 0 := by
  simp only [xBit_eq, xBits, Bool.toNat_false]
  omega

theorem define_eq_iff {sp : Fin 16} : sp.val = f.x ↔ xBits f 47 5 = 0 ∧ xBit f 4 = false ∧ xFin f 16 0 = sp := by
  simp only [xBit_eq, xFin_eq, xBits, Bool.toNat_false]
  omega

theorem delete_eq_iff {sp : Fin 16} : 2 ^ 4 + sp.val = f.x ↔
    xBits f 47 5 = 0 ∧ xBit f 4 = true ∧ xFin f 16 0 = sp := by
  simp only [xBit_eq, xFin_eq, xBits, Bool.toNat_true]
  omega

theorem copy_eq_iff {out : Bool} {ch : Fin 2} : out.toNat * 2 + ch.val = f.x ↔
    xBits f 47 2 = 0 ∧ xBit f 1 = out ∧ xFin f 2 0 = ch := by
  have := out.toNat_lt
  simp only [xBit_eq, xFin_eq, xBits]
  omega

theorem give_eq_iff {n : Fin 256} {e : Nat} (he : e < 4) : n.val * 2 ^ 8 + e = f.x ↔
    xBits f 47 16 = 0 ∧ xBits f 7 2 = 0 ∧ xFin f 256 8 = n ∧ xBits f 1 0 = e := by
  simp only [xFin_eq, xBits]
  omega

theorem take_eq_iff {n : Fin 256} : n.val * 2 ^ 8 = f.x ↔
    xBits f 47 16 = 0 ∧ xBits f 7 0 = 0 ∧ xFin f 256 8 = n := by
  simp only [xFin_eq, xBits]
  omega

theorem low_eq_iff {n : Nat} [NeZero n] {p : Fin n} (k : Nat) (hn : n = 2 ^ k) (hk : k ≤ 48) :
    p.val = f.x ↔ xBits f 47 k = 0 ∧ xFin f n 0 = p := by
  have hp := p.isLt
  rw [xBits_top_eq_zero hx hk, xFin_eq, pow_zero, Nat.div_one, ← hn]
  exact ⟨fun h => h ▸ ⟨hp, Nat.mod_eq_of_lt hp⟩, fun ⟨h, h'⟩ => h' ▸ Nat.mod_eq_of_lt h⟩
end

section
variable (hb : f.b < 2 ^ 8) (hx : f.x < 2 ^ 48)
include hb hx

theorem immOf_toNat : (immOf f).toNat = f.b * 2 ^ 48 + f.x := by
  simp [immOf]
  omega

theorem encImm_eq_iff {op d a : Nat} {imm : BitVec 56} :
    encImm op d a imm = ⟨f.op, f.d, f.a, f.b, f.x⟩ ↔ op = f.op ∧ d = f.d ∧ a = f.a ∧ immOf f = imm := by
  rw [BitVec.toNat_eq, immOf_toNat hb hx, encImm, Enc.mk.injEq]
  omega
end

@[simp] theorem maskT_eq_ok {m : MaskSel} :
    maskT f = .ok m ↔ maskOk m = true ∧ xBits f 37 34 = maskCode m.mask ∧ xBit f 33 = m.z := by
  have h : xBits f 37 34 < 16 := Nat.mod_lt _ (by decide)
  obtain ⟨mask, z⟩ := m
  simp only [maskT, dec_bind_eq_ok, need_eq_ok, dec_pure_eq_ok, MaskSel.mk.injEq]
  cases mask <;> simp [maskOk, maskCode, Fin.ext_iff] <;> grind

@[simp] theorem maskM_eq_ok {m : MaskSel} :
    maskM f = .ok m ↔ maskOk m = true ∧ xBits f 38 35 = maskCode m.mask ∧ xBit f 34 = m.z := by
  have h : xBits f 38 35 < 16 := Nat.mod_lt _ (by decide)
  obtain ⟨mask, z⟩ := m
  simp only [maskM, dec_bind_eq_ok, need_eq_ok, dec_pure_eq_ok, MaskSel.mk.injEq]
  cases mask <;> simp [maskOk, maskCode, Fin.ext_iff] <;> grind

@[simp] theorem vmemOf_eq_ok {a b : GReg} {sz : VSize} {o : MemOrder} {m : MemOp} :
    vmemOf a b f = .ok (sz, o, m) ↔ xBits f 47 45 = vsizeCode sz ∧
      (xBits f 44 43, xBits f 42 40) = ordCode o ∧ xBit f 39 = false ∧ m = memOf a b f := by
  simp [vmemOf]
  grind

end

end Sys2Proof
end

section
/-! The words of instructions, clause by clause (03 R54, R55). For each clause of the decoder: it
answers exactly the instructions that it is for, and each of them from exactly the word that the
encoder gives it. On the decoder's side the checks come apart by the lemmas about them; on the
encoder's side the layout of X comes apart into the fields that the checks name. -/

namespace Sys2Proof

open Sys2Proof.Machine

/-! ## Words, codes and clauses -/

/-- The fields hold the word of an instruction that is well formed. -/
def IsWordOf (f : Fields) (ins : Instr) : Prop :=
  WellFormed ins = true ∧ encodeInstr ins = some ⟨f.op, f.d, f.a, f.b, f.x⟩

/-- An instruction is well formed if `wf` says so, and its encoding is `e`. -/
def Coded (ins : Instr) (wf : Bool) (e : Enc) : Prop := WellFormed ins = wf ∧ encodeInstr ins = some e

/-- A clause `q` of the decoder answers the instructions `k a`, each from its own word and from no other. -/
def Reads {α : Type} (f : Fields) (q : Dec Instr) (k : α → Instr) : Prop :=
  ∀ ins, q = .ok ins ↔ ∃ a, k a = ins ∧ IsWordOf f (k a)

theorem Coded.isWordOf_iff {f : Fields} {ins : Instr} {wf : Bool} {e : Enc} (h : Coded ins wf e) :
    IsWordOf f ins ↔ wf = true ∧ e = ⟨f.op, f.d, f.a, f.b, f.x⟩ := by
  obtain ⟨hw, he⟩ := h
  rw [IsWordOf, hw, he, Option.some.injEq]

section
variable {α : Type} {f : Fields} {q : Dec Instr} {k : α → Instr} {ins : Instr}

theorem Reads.isWordOf (h : Reads f q k) (hq : q = .ok ins) : IsWordOf f ins := by
  obtain ⟨a, rfl, hw⟩ := (h ins).mp hq
  exact hw

theorem Reads.eq_ok (h : Reads f q k) (a : α) (hw : IsWordOf f (k a)) : q = .ok (k a) := (h _).mpr ⟨a, rfl, hw⟩

end

theorem memOp_exists {p : MemOp → Prop} : (∃ m, p m) ↔ ∃ a b disp, p ⟨a, b, disp⟩ :=
  ⟨fun ⟨⟨a, b, disp⟩, h⟩ => ⟨a, b, disp, h⟩, fun ⟨a, b, disp, h⟩ => ⟨⟨a, b, disp⟩, h⟩⟩

theorem maskSel_exists {p : MaskSel → Prop} : (∃ m, p m) ↔ ∃ mask z, p ⟨mask, z⟩ :=
  ⟨fun ⟨⟨mask, z⟩, h⟩ => ⟨mask, z, h⟩, fun ⟨mask, z, h⟩ => ⟨⟨mask, z⟩, h⟩⟩

theorem pmovForm_exists {p : PmovForm → Prop} :
    (∃ m, p m) ↔ (∃ d a na, p (.pp d a na)) ∨ (∃ d a, p (.pg d a)) ∨ ∃ d a na, p (.gp d a na) := by
  constructor
  · rintro ⟨_ | _ | _, h⟩
    · exact .inl ⟨_, _, _, h⟩
    · exact .inr (.inl ⟨_, _, h⟩)
    · exact .inr (.inr ⟨_, _, _, h⟩)
  · rintro (⟨_, _, _, h⟩ | ⟨_, _, h⟩ | ⟨_, _, _, h⟩) <;> exact ⟨_, h⟩

theorem tlbExtent_exists {p : TlbExtent → Prop} : (∃ m, p m) ↔ (∃ a, p (.page a)) ∨ p .context ∨ p .all := by
  constructor
  · rintro ⟨_ | _ | _, h⟩
    · exact .inl ⟨_, h⟩
    · exact .inr (.inl h)
    · exact .inr (.inr h)
  · rintro (⟨_, h⟩ | h | h) <;> exact ⟨_, h⟩

/-- The type of a geometry instruction: none or .i32 (06 R125). -/
theorem geoType_iff {n : Nat} {ty : Bool} : n = (if ty then 3 else 0) ↔ (n = 0 ∨ n = 3) ∧ (n == 3) = ty := by
  cases ty <;> simp <;> omega

theorem rmwTy_xBits {f : Fields} {o : RmwOrder} : rmwTy (xBits f 34 33) = o ↔ xBits f 34 33 = rmwCode o :=
  rmwTy_eq (Nat.mod_lt _ (by decide))

/-! ## The shared clauses -/

section
variable {f : Fields} {i op : Nat}

theorem decBare_reads {ins : Instr} (hk : Coded ins true ⟨op, 0, 0, 0, 0⟩) (hop : f.op = op + i) :
    Reads f (decBare i f ins) fun (_ : Unit) => ins := by
  intro ins
  simp [decBare, hk.isWordOf_iff]
  grind

theorem decTarget_reads {k : GReg → Instr}
    (hk : ∀ a, Coded (k a) true ⟨op, 0, gS a, 0, 0⟩) (hop : f.op = op + i) :
    Reads f (decTarget i f k) k := by
  intro ins
  simp [decTarget, (hk _).isWordOf_iff]
  grind

variable (hx : f.x < 2 ^ 48)
include hx

/-- The immediate form of decInt. -/
def decIntImm (f : Fields) (k : GReg → GReg → BitVec 56 → Instr) : Dec Instr := do
  let d ← gSpec 0 f.d
  let a ← gSpec 1 f.a
  return k d a (immOf f)

omit hx in
theorem decInt_eq_ok {k : Option IntTy → GReg → GReg → GReg → Instr} {ki : GReg → GReg → BitVec 56 → Instr}
    {ins : Instr} : decInt i f k ki = .ok ins ↔
      i = 0 ∧ decIntR 0 f k = .ok ins ∨ i ≠ 0 ∧ decIntImm f ki = .ok ins := bothForms_eq_ok

theorem decIntR_reads {k : Option IntTy → GReg → GReg → GReg → Instr}
    (hk : ∀ t d a b, Coded (k t d a b) true (encI3 op t d a b)) (hop : f.op = op + i) :
    Reads f (decIntR i f k) fun (t, d, a, b) => k t d a b := by
  intro ins
  simp [decIntR, (hk _ _ _ _).isWordOf_iff, encI3, xT_type hx]
  grind

theorem decIntImm_reads (hb : f.b < 2 ^ 8) {k : GReg → GReg → BitVec 56 → Instr}
    (hk : ∀ d a m, Coded (k d a m) true (encImm op (gS d) (gS a) m)) (hop : f.op = op) :
    Reads f (decIntImm f k) fun (d, a, m) => k d a m := by
  intro ins
  simp [decIntImm, (hk _ _ _).isWordOf_iff, encImm_eq_iff hb hx]
  grind

theorem decInt2_reads {k : Option IntTy → GReg → GReg → Instr}
    (hk : ∀ t d a, Coded (k t d a) true (encI2 op t d a)) (hop : f.op = op + i) :
    Reads f (decInt2 i f k) fun (t, d, a) => k t d a := by
  intro ins
  simp [decInt2, (hk _ _ _).isWordOf_iff, encI2, xT_type hx]
  grind

theorem decPred_reads {k : PReg → PReg → PReg → Bool → Bool → Instr}
    (hk : ∀ d a b na nb, Coded (k d a b na nb) true ⟨op, pS d, pS a, pS b, negs na nb⟩) (hop : f.op = op + i) :
    Reads f (decPred i f k) fun (d, a, b, na, nb) => k d a b na nb := by
  intro ins
  simp [decPred, (hk _ _ _ _ _).isWordOf_iff, negs_eq_iff hx, -Bool.exists_bool]
  grind

theorem decFp3_reads {k : Option FpTy → Rnd → GReg → GReg → GReg → Instr}
    (hk : ∀ t r d a b, Coded (k t r d a b) true (encF3 op t r d a b)) (hop : f.op = op + i) :
    Reads f (decFp3 i f k) fun (t, r, d, a, b) => k t r d a b := by
  intro ins
  simp [decFp3, (hk _ _ _ _ _).isWordOf_iff, encF3, xT_rnd hx]
  grind

theorem decFp2_reads {k : Option FpTy → Rnd → GReg → GReg → Instr}
    (hk : ∀ t r d a, Coded (k t r d a) true
      ⟨op, gS d, gS a, 0, xT (fpCode t) (rndCode r) 0 0⟩) (hop : f.op = op + i) :
    Reads f (decFp2 i f k) fun (t, r, d, a) => k t r d a := by
  intro ins
  simp [decFp2, (hk _ _ _ _).isWordOf_iff, xT_rnd hx]
  grind

theorem decFp3n_reads {k : Option FpTy → GReg → GReg → GReg → Instr}
    (hk : ∀ t d a b, Coded (k t d a b) true (encF3 op t .rne d a b)) (hop : f.op = op + i) :
    Reads f (decFp3n i f k) fun (t, d, a, b) => k t d a b := by
  intro ins
  simp [decFp3n, (hk _ _ _ _).isWordOf_iff, encF3, rndCode, xT_type hx]
  grind

theorem decCache_reads {k : Scope → Fin 128 → MemOp → Instr}
    (hk : ∀ sc n m, Coded (k sc n m) true
      ⟨op, 0, gS m.a, gS m.b, xM 0 (0, scopeBits sc) false n.val m.disp⟩) (hop : f.op = op + i) :
    Reads f (decCache i f k) fun (sc, n, m) => k sc n m := by
  intro ins
  simp [decCache, (hk _ _ _).isWordOf_iff, memOf, memOp_exists, xM_lines hx]
  grind

theorem decV3_reads {k : Option LaneInt → VReg → VReg → VSrc → MaskSel → Instr}
    (hk : ∀ t d a b m, Coded (k t d a b m) (maskOk m) (encV3 op t d a b m)) (hop : f.op = op + i) :
    Reads f (decV3 i f k) fun (t, d, a, b, m) => k t d a b m := by
  intro ins
  simp [decV3, (hk _ _ _ _ _).isWordOf_iff, encV3, xT_mask hx]
  grind

theorem decVf3_reads {k : Option FpTy → Rnd → VReg → VReg → VSrc → MaskSel → Instr}
    (hk : ∀ t r d a b m, Coded (k t r d a b m) (maskOk m) (encVf op t r d a (vgS b) m)) (hop : f.op = op + i) :
    Reads f (decVf3 i f k) fun (t, r, d, a, b, m) => k t r d a b m := by
  intro ins
  simp [decVf3, (hk _ _ _ _ _ _).isWordOf_iff, encVf, xT_rnd_mask hx]
  grind

theorem decVf3n_reads {k : Option FpTy → VReg → VReg → VSrc → MaskSel → Instr}
    (hk : ∀ t d a b m, Coded (k t d a b m) (maskOk m) (encVf op t .rne d a (vgS b) m)) (hop : f.op = op + i) :
    Reads f (decVf3n i f k) fun (t, d, a, b, m) => k t d a b m := by
  intro ins
  simp [decVf3n, (hk _ _ _ _ _).isWordOf_iff, encVf, rndCode, xT_mask hx]
  grind

theorem decVf2_reads {k : Option FpTy → Rnd → VReg → VReg → MaskSel → Instr}
    (hk : ∀ t r d a m, Coded (k t r d a m) (maskOk m) (encVf op t r d a 0 m)) (hop : f.op = op + i) :
    Reads f (decVf2 i f k) fun (t, r, d, a, m) => k t r d a m := by
  intro ins
  simp [decVf2, (hk _ _ _ _ _).isWordOf_iff, encVf, xT_rnd_mask hx]
  grind

theorem decMask_reads {k : MReg → MReg → MReg → Bool → Bool → Instr}
    (hk : ∀ d a b na nb, Coded (k d a b na nb) true ⟨op, mS d, mS a, mS b, negs na nb⟩) (hop : f.op = op + i) :
    Reads f (decMask i f k) fun (d, a, b, na, nb) => k d a b na nb := by
  intro ins
  simp [decMask, (hk _ _ _ _ _).isWordOf_iff, negs_eq_iff hx, -Bool.exists_bool]
  grind

theorem decVld_reads {k : VSize → MemOrder → VReg → MemOp → MaskSel → Instr} {even : Bool}
    (hk : ∀ sz o d m mk, Coded (k sz o d m mk) ((!even || d.val % 2 == 0) && maskOk mk)
      (encVm op sz o d m (mkM mk))) (hop : f.op = op + i) :
    Reads f (decVld i f even k) fun (sz, o, d, m, mk) => k sz o d m mk := by
  intro ins
  simp [decVld, (hk _ _ _ _ _).isWordOf_iff, encVm, memOf, memOp_exists, xM_mask hx]
  grind

theorem decVst_reads {k : VSize → MemOrder → VReg → MemOp → Option MReg → Instr} {even : Bool}
    (hk : ∀ sz o d m mk, Coded (k sz o d m mk) (!even || d.val % 2 == 0)
      (encVm op sz o d m (mkM ⟨mk, false⟩))) (hop : f.op = op + i) :
    Reads f (decVst i f even k) fun (sz, o, d, m, mk) => k sz o d m mk := by
  intro ins
  simp [decVst, (hk _ _ _ _ _).isWordOf_iff, encVm, memOf, memOp_exists, maskSel_exists, maskOk, xM_mask hx]
  grind

theorem decGeo_reads {k : Bool → VReg → VReg → VReg → MaskSel → Instr} {dn : Nat}
    (hk : ∀ ty d a b m, Coded (k ty d a b m) (decide (d.val + dn ≤ 63) && decide (a.val + 2 ≤ 63) && maskOk m)
      ⟨op, vS d, vS a, vS b, xT (if ty then 3 else 0) 0 0 (mkT m)⟩) (hop : f.op = op + i) :
    Reads f (decGeo i f dn k) fun (ty, d, a, b, m) => k ty d a b m := by
  intro ins
  simp [decGeo, (hk _ _ _ _ _).isWordOf_iff, geoType_iff, xT_mask hx, -Bool.exists_bool]
  grind

end

/-! ## The clauses whose X is 0 -/

section
variable {f : Fields} {i : Nat}

theorem call_reads (hop : f.op = 0x0E4) : Reads f (decG7 2 0 f) .call :=
  decTarget_reads (i := 0) (fun _ => ⟨rfl, rfl⟩) hop

theorem twait_reads (hop : f.op = 0x184 + i) : Reads f (decG12 2 i f) fun (d, a) => .twait d a := by
  intro ins
  have hk d a : Coded (.twait d a) true _ := ⟨rfl, rfl⟩
  simp [decG12, (hk _ _).isWordOf_iff]
  grind

theorem spawn_reads (hop : f.op = 0x160 + i) : Reads f (decG11 0 i f) .spawn := by
  intro ins
  have hk a : Coded (.spawn a) (groupOk a 7) _ := ⟨rfl, rfl⟩
  simp [decG11, (hk _).isWordOf_iff]
  grind

theorem send_reads (hop : f.op = 0x162 + i) : Reads f (decG11 1 i f) fun (a, b) => .send a b := by
  intro ins
  have hk a b : Coded (.send a b) (groupOk a 7) _ := ⟨rfl, rfl⟩
  simp [decG11, (hk _ _).isWordOf_iff]
  grind

theorem arm_reads (hop : f.op = 0x164 + i) : Reads f (decG11 2 i f) fun (d, a, b) => .arm d a b := by
  intro ins
  have hk d a b : Coded (.arm d a b) (groupOk b 7) _ := ⟨rfl, rfl⟩
  simp [decG11, (hk _ _ _).isWordOf_iff]
  grind

theorem pset_reads (hop : f.op = 0x1A4 + i) : Reads f (decG13 2 i f) fun (d, a, b) => .pset d a b := by
  intro ins
  have hk d a b : Coded (.pset d a b) (groupOk b 1) _ := ⟨rfl, rfl⟩
  simp [decG13, (hk _ _ _).isWordOf_iff]
  grind

theorem pqwait_reads (hop : f.op = 0x1AE + i) : Reads f (decG13 7 i f) fun (d, a) => .pqwait d a := by
  intro ins
  have hk d a : Coded (.pqwait d a) true _ := ⟨rfl, rfl⟩
  simp [decG13, (hk _ _).isWordOf_iff]
  grind

theorem pres_reads (hop : f.op = 0x1B0 + i) : Reads f (decG13 8 i f) fun (d, a) => .pres d a := by
  intro ins
  have hk d a : Coded (.pres d a) true _ := ⟨rfl, rfl⟩
  simp [decG13, (hk _ _).isWordOf_iff]
  grind

theorem mxq_reads (hop : f.op = 0x1CA + i) : Reads f (decG14 5 i f) fun (d, a) => .mxq d a := by
  intro ins
  have hk d a : Coded (.mxq d a) (groupOk a 7) _ := ⟨rfl, rfl⟩
  simp [decG14, (hk _ _).isWordOf_iff]
  grind

theorem shdef_reads (hop : f.op = 0x1CE + i) : Reads f (decG14 7 i f) fun (d, a, b) => .shdef d a b := by
  intro ins
  have hk d a b : Coded (.shdef d a b) (groupOk a 7) _ := ⟨rfl, rfl⟩
  simp [decG14, (hk _ _ _).isWordOf_iff]
  grind

theorem vtrl_reads (hop : f.op = 0x4A6 + i) : Reads f (decV5 3 i f) fun (d, a) => .vtrl d a := by
  intro ins
  have hk d a : Coded (.vtrl d a) true _ := ⟨rfl, rfl⟩
  simp [decV5, (hk _ _).isWordOf_iff]
  grind

end

section
variable {f : Fields} {i : Nat} (hx : f.x < 2 ^ 48)
include hx

/-! ## Integers, bits and predicates (05 R93) -/

theorem sel_reads (hop : f.op = 0x010 + i) : Reads f (decG0 8 i f) fun (d, a, b, p) => .sel d a b p := by
  intro ins
  have hk d a b p : Coded (.sel d a b p) true _ := ⟨rfl, rfl⟩
  simp [decG0, (hk _ _ _ _).isWordOf_iff, low_eq_iff hx 3 rfl (by decide)]
  grind

theorem lea_reads (hop : f.op = 0x012 + i) : Reads f (decG0 9 i f) fun (d, a, b, sh, disp) => .lea d a b sh disp := by
  intro ins
  have hk d a b sh disp : Coded (.lea d a b sh disp) true _ := ⟨rfl, rfl⟩
  simp [-Nat.reducePow, decG0, (hk _ _ _ _ _).isWordOf_iff, lea_eq_iff hx, -Fin.ofNat_eq_cast]
  grind

theorem madd_reads (hop : f.op = 0x028 + i) : Reads f (decG1 4 i f) fun (t, d, a, b, c) => .madd t d a b c := by
  intro ins
  have hk t d a b c : Coded (.madd t d a b c) true _ := ⟨rfl, rfl⟩
  simp [-Nat.reducePow, decG1, (hk _ _ _ _ _).isWordOf_iff, xT_third hx]
  grind

theorem bext_reads (hop : f.op = 0x04E + i) : Reads f (decG2 7 i f) fun (t, d, a, p, l) => .bext t d a p l := by
  intro ins
  have hk t d a p l : Coded (.bext t d a p l) (fieldOk p l) _ := ⟨rfl, rfl⟩
  simp [-Nat.reducePow, decG2, (hk _ _ _ _ _).isWordOf_iff, xT_field hx]
  grind

theorem bins_reads (hop : f.op = 0x050 + i) : Reads f (decG2 8 i f) fun (d, a, p, l) => .bins d a p l := by
  intro ins
  have hk d a p l : Coded (.bins d a p l) (fieldOk p l) _ := ⟨rfl, rfl⟩
  simp [-Nat.reducePow, decG2, (hk _ _ _ _).isWordOf_iff, field_eq_iff hx]
  grind

theorem bswap_reads (hop : f.op = 0x052 + i) : Reads f (decG2 9 i f) fun (t, d, a) => .bswap t d a := by
  intro ins
  have hk t d a : Coded (.bswap t d a) true _ := ⟨rfl, rfl⟩
  simp [decG2, (hk _ _ _).isWordOf_iff, xT_type hx]
  grind

theorem cmp_reads (hop : f.op = 0x060 + i) : Reads f (decG3 0 i f) fun (t, c, d, a, b) => .cmp t c d a b := by
  intro ins
  have hk t c d a b : Coded (.cmp t c d a b) true _ := ⟨rfl, rfl⟩
  simp [decG3, (hk _ _ _ _ _).isWordOf_iff, xT_cond hx (condCode_lt _)]
  grind

theorem pmov_reads (hop : f.op = 0x068 + i) : Reads f (decG3 4 i f) .pmov := by
  intro ins
  have hpp d a na : Coded (.pmov (.pp d a na)) true _ := ⟨rfl, rfl⟩
  have hpg d a : Coded (.pmov (.pg d a)) true _ := ⟨rfl, rfl⟩
  have hgp d a na : Coded (.pmov (.gp d a na)) true _ := ⟨rfl, rfl⟩
  simp [decG3, decPmov, pmovForm_exists, (hpp _ _ _).isWordOf_iff, (hpg _ _).isWordOf_iff, (hgp _ _ _).isWordOf_iff,
    negs_eq_iff hx, -Bool.exists_bool]
  by_cases hd : f.d < 64 <;> by_cases ha : f.a < 64 <;> simp [hd, ha]
  all_goals grind [gS, pS]

/-! ## Scalar floating point and conversion (05 R93) -/

theorem fma_reads (hop : f.op = 0x086 + i) : Reads f (decG4 3 i f) fun (t, r, d, a, b, c) => .fma t r d a b c := by
  intro ins
  have hk t r d a b c : Coded (.fma t r d a b c) true _ := ⟨rfl, rfl⟩
  simp [-Nat.reducePow, decG4, (hk _ _ _ _ _ _).isWordOf_iff, xT_rnd_third hx]
  grind

theorem fcmp_reads (hop : f.op = 0x090 + i) : Reads f (decG4 8 i f) fun (t, c, d, a, b) => .fcmp t c d a b := by
  intro ins
  have hk t c d a b : Coded (.fcmp t c d a b) true _ := ⟨rfl, rfl⟩
  simp [decG4, (hk _ _ _ _ _).isWordOf_iff, xT_cond hx (fcondCode_lt _)]
  grind

theorem fcls_reads (hop : f.op = 0x092 + i) : Reads f (decG4 9 i f) fun (t, d, a) => .fcls t d a := by
  intro ins
  have hk t d a : Coded (.fcls t d a) true _ := ⟨rfl, rfl⟩
  simp [decG4, (hk _ _ _).isWordOf_iff, xT_type hx]
  grind

theorem cvt_reads (hop : f.op = 0x0A0 + i) : Reads f (decG5 0 i f) fun (dt, st, r, d, a) => .cvt dt st r d a := by
  intro ins
  have hk dt st r d a : Coded (.cvt dt st r d a) (!(numIsInt dt && numIsInt st) || noRound r) _ := ⟨rfl, rfl⟩
  simp [-Nat.reducePow, decG5, (hk _ _ _ _ _).isWordOf_iff, xT_rnd_source hx]
  grind

/-! ## Moves and control (05 R93) -/

theorem mov_reads (hop : f.op = 0x0C0) : Reads f (decG6 0 0 f) fun (t, d, a) => .mov t d a :=
  decInt2_reads (i := 0) hx (fun _ _ _ => ⟨rfl, rfl⟩) hop

theorem movImm_reads (hb : f.b < 2 ^ 8) (hop : f.op = 0x0C1) :
    Reads f (decG6 0 1 f) fun (d, m) => .movImm d m := by
  intro ins
  have hk d m : Coded (.movImm d m) true _ := ⟨rfl, rfl⟩
  simp [decG6, (hk _ _).isWordOf_iff, encImm_eq_iff hb hx]
  grind

theorem mfs_reads (hop : f.op = 0x0C2 + i) : Reads f (decG6 1 i f) fun (d, r) => .mfs d r := by
  intro ins
  have hk d r : Coded (.mfs d r) true _ := ⟨rfl, rfl⟩
  simp [decG6, (hk _ _).isWordOf_iff, small_eq_iff hx 11 (sregCode_lt _) (by decide)]
  grind

omit hx in
theorem coded_mtsOf (r : SReg) (a : GReg) : Coded (mtsOf r a) true ⟨0x0C4, 0, gS a, 0, sregCode r⟩ := by
  cases r <;> exact ⟨rfl, rfl⟩

theorem mts_reads (hop : f.op = 0x0C4 + i) : Reads f (decG6 2 i f) fun (r, a) => mtsOf r a := by
  intro ins
  simp [decG6, (coded_mtsOf _ _).isWordOf_iff, small_eq_iff hx 11 (sregCode_lt _) (by decide)]
  grind

omit hx in
theorem mtsOf_of_not_own {r : SReg} (a : GReg) (h : ownMts r = false) : mtsOf r a = .mts r a := by
  cases r with
  | sspill | scarve | svgroup | sdomain => cases h
  | _ => rfl

theorem br_reads (hb : f.b < 2 ^ 8) (hop : f.op = 0x0E0 + i) : Reads f (decG7 0 i f) .br := by
  intro ins
  have hk m : Coded (.br m) true _ := ⟨rfl, rfl⟩
  simp [decG7, (hk _).isWordOf_iff, encImm_eq_iff hb hx]
  grind

theorem callImm_reads (hb : f.b < 2 ^ 8) (hop : f.op = 0x0E5) : Reads f (decG7 2 1 f) .callImm := by
  intro ins
  have hk m : Coded (.callImm m) true _ := ⟨rfl, rfl⟩
  simp [decG7, (hk _).isWordOf_iff, encImm_eq_iff hb hx]
  grind

theorem loop_reads (hb : f.b < 2 ^ 8) (hop : f.op = 0x0E8 + i) : Reads f (decG7 4 i f) fun (d, m) => .loop d m := by
  intro ins
  have hk d m : Coded (.loop d m) true _ := ⟨rfl, rfl⟩
  simp [decG7, (hk _ _).isWordOf_iff, encImm_eq_iff hb hx]
  grind

/-! ## Memory and synchronisation (12 R245) -/

theorem ld_reads (hop : f.op = 0x100 + i) : Reads f (decG8 0 i f) fun (sz, o, sg, d, m) => .ld sz o sg d m := by
  intro ins
  have hk sz o sg d m : Coded (.ld sz o sg d m) true _ := ⟨rfl, rfl⟩
  simp [decG8, (hk _ _ _ _ _).isWordOf_iff, memOf, xM_access hx, memOp_exists, -Bool.exists_bool]
  grind

theorem st_reads (hop : f.op = 0x102 + i) : Reads f (decG8 1 i f) fun (sz, o, d, m) => .st sz o d m := by
  intro ins
  have hk sz o d m : Coded (.st sz o d m) true _ := ⟨rfl, rfl⟩
  simp [decG8, (hk _ _ _ _).isWordOf_iff, memOf, xM_store hx, memOp_exists]
  grind

theorem pref_reads (hop : f.op = 0x104 + i) : Reads f (decG8 2 i f) fun (n, m) => .pref n m := by
  intro ins
  have hk n m : Coded (.pref n m) true _ := ⟨rfl, rfl⟩
  simp [decG8, (hk _ _).isWordOf_iff, memOf, xM_hint hx, memOp_exists]
  grind

theorem stx_reads (hop : f.op = 0x106 + i) : Reads f (decG8 3 i f) fun (sz, d, m) => .stx sz d m := by
  intro ins
  have hk sz d m : Coded (.stx sz d m) true _ := ⟨rfl, rfl⟩
  simp [decG8, (hk _ _ _).isWordOf_iff, memOf, xM_plain hx, memOp_exists]
  grind

theorem amo_reads (hop : f.op = 0x120 + i) :
    Reads f (decG9 0 i f) fun (sz, sc, sg, op, o, d, m) => .amo sz sc sg op o d m := by
  intro ins
  have hk sz sc sg op o d m : Coded (.amo sz sc sg op o d m) true _ := ⟨rfl, rfl⟩
  simp [-Nat.reducePow, decG9, (hk _ _ _ _ _ _ _).isWordOf_iff, memOf,
    xM_atomic hx (amoCode_lt _) (rmwCode_lt _), memOp_exists, -Bool.exists_bool]
  grind [rmwTy_xBits]

theorem cas_reads (hop : f.op = 0x122 + i) :
    Reads f (decG9 1 i f) fun (sz, sc, sg, o, d, m) => .cas sz sc sg o d m := by
  intro ins
  have hk sz sc sg o d m : Coded (.cas sz sc sg o d m) (d.val != 0 && d.val != 63) _ := ⟨rfl, rfl⟩
  simp [-Nat.reducePow, decG9, (hk _ _ _ _ _ _).isWordOf_iff, memOf, xM_swap hx (rmwCode_lt _), memOp_exists,
    -Bool.exists_bool]
  grind [rmwTy_xBits]

theorem fence_reads (hop : f.op = 0x140 + i) : Reads f (decG10 0 i f) fun (o, sc) => .fence o sc := by
  intro ins
  have hk o sc : Coded (.fence o sc) true _ := ⟨rfl, rfl⟩
  simp [-Nat.reducePow, decG10, (hk _ _).isWordOf_iff, fence_eq_iff hx]
  grind

theorem bset_reads (hop : f.op = 0x142 + i) : Reads f (decG10 1 i f) fun (d, a, b) => .bset d a b := by
  intro ins
  have hk d a b : Coded (.bset d a b) true _ := ⟨rfl, rfl⟩
  simp [decG10, (hk _ _ _).isWordOf_iff, low_eq_iff hx 8 rfl (by decide)]
  grind

theorem barr_reads (hop : f.op = 0x144 + i) : Reads f (decG10 2 i f) fun (d, b) => .barr d b := by
  intro ins
  have hk d b : Coded (.barr d b) true _ := ⟨rfl, rfl⟩
  simp [decG10, (hk _ _).isWordOf_iff, low_eq_iff hx 8 rfl (by decide)]
  grind

theorem bwait_reads (hop : f.op = 0x146 + i) : Reads f (decG10 3 i f) fun (a, b) => .bwait a b := by
  intro ins
  have hk a b : Coded (.bwait a b) true _ := ⟨rfl, rfl⟩
  simp [decG10, (hk _ _).isWordOf_iff, low_eq_iff hx 8 rfl (by decide)]
  grind

theorem bsync_reads (hop : f.op = 0x148 + i) : Reads f (decG10 4 i f) .bsync := by
  intro ins
  have hk b : Coded (.bsync b) true _ := ⟨rfl, rfl⟩
  simp [decG10, (hk _).isWordOf_iff, low_eq_iff hx 8 rfl (by decide)]
  grind

theorem bxch_reads (hop : f.op = 0x14A + i) : Reads f (decG10 5 i f) .bxch := by
  intro ins
  have hk b : Coded (.bxch b) true _ := ⟨rfl, rfl⟩
  simp [decG10, (hk _).isWordOf_iff, low_eq_iff hx 8 rfl (by decide)]
  grind

/-! ## Tasks and system (08 R186; 18 R346; 20 R370) -/

theorem chset_reads (hop : f.op = 0x168 + i) : Reads f (decG11 4 i f) fun (a, ch) => .chset a ch := by
  intro ins
  have hk a ch : Coded (.chset a ch) (ch.val != 30) _ := ⟨rfl, rfl⟩
  simp [decG11, (hk _ _).isWordOf_iff, low_eq_iff hx 5 rfl (by decide)]
  grind

theorem chmsk_reads (hop : f.op = 0x16A + i) : Reads f (decG11 5 i f) fun (d, a, op) => .chmsk d a op := by
  intro ins
  have hk d a op : Coded (.chmsk d a op) true _ := ⟨rfl, rfl⟩
  simp [decG11, (hk _ _ _).isWordOf_iff, small_eq_iff hx 1 (chmskCode_lt _) (by decide)]
  grind

theorem trap_reads (hop : f.op = 0x180 + i) : Reads f (decG12 0 i f) .trap := by
  intro ins
  have hk c : Coded (.trap c) true _ := ⟨rfl, rfl⟩
  simp [decG12, (hk _).isWordOf_iff, trap_eq_iff hx]
  grind

theorem fpost_reads (hop : f.op = 0x188 + i) : Reads f (decG12 4 i f)
    (Sum.elim (fun (a, b, fl) => .fpostServe a b fl) fun (a, k) => .fpostPost a k) := by
  intro ins
  have hs a b fl : Coded (.fpostServe a b fl) true _ := ⟨rfl, rfl⟩
  have hp a k : Coded (.fpostPost a k) true _ := ⟨rfl, rfl⟩
  simp [-Nat.reducePow, decG12, (hs _ _ _).isWordOf_iff, (hp _ _).isWordOf_iff, serve_eq_iff hx, post_eq_iff hx,
    -Bool.exists_bool]
  cases h : xBit f 4 <;> simp
  all_goals grind

theorem tlbinv_reads (hop : f.op = 0x18A + i) : Reads f (decG12 5 i f) .tlbinv := by
  intro ins
  have hp a : Coded (.tlbinv (.page a)) true _ := ⟨rfl, rfl⟩
  have hc : Coded (.tlbinv .context) true _ := ⟨rfl, rfl⟩
  have ha : Coded (.tlbinv .all) true _ := ⟨rfl, rfl⟩
  have hlt : xBits f 1 0 < 4 := Nat.mod_lt _ (by decide)
  have hcode (c : Nat) (h : c < 4) : c = f.x ↔ xBits f 47 2 = 0 ∧ xBits f 1 0 = c := small_eq_iff hx 1 h (by decide)
  simp [decG12, tlbExtent_exists, (hp _).isWordOf_iff, hc.isWordOf_iff, ha.isWordOf_iff, hcode 0, hcode 1, hcode 2]
  by_cases h0 : xBits f 1 0 = 0 <;> simp [h0]
  all_goals grind

theorem shand_reads (hop : f.op = 0x18C + i) :
    Reads f (decG12 6 i f) (Sum.elim .shandQuery fun (d, a) => .shand d a) := by
  intro ins
  have hs d : Coded (.shandQuery d) true _ := ⟨rfl, rfl⟩
  have hp d a : Coded (.shand d a) true _ := ⟨rfl, rfl⟩
  simp [decG12, (hs _).isWordOf_iff, (hp _ _).isWordOf_iff, one_eq_iff hx, zero_eq_iff hx]
  cases h : xBit f 0 <;> simp
  all_goals grind

/-! ## Place and engines (16 R322; 14 R275) -/

theorem pnew_reads (hop : f.op = 0x1A0 + i) : Reads f (decG13 0 i f) fun (d, a, b, sp) => .pnew d a b sp := by
  intro ins
  have hk d a b sp : Coded (.pnew d a b sp) (groupOk a 1) _ := ⟨rfl, rfl⟩
  simp [decG13, (hk _ _ _ _).isWordOf_iff, low_eq_iff hx 4 rfl (by decide)]
  grind

theorem pld_reads (hop : f.op = 0x1A6 + i) : Reads f (decG13 3 i f) fun (d, a, w) => .pld d a w := by
  intro ins
  have hk d a w : Coded (.pld d a w) true _ := ⟨rfl, rfl⟩
  simp [decG13, (hk _ _ _).isWordOf_iff, low_eq_iff hx 4 rfl (by decide)]
  grind

theorem pstw_reads (hop : f.op = 0x1A8 + i) : Reads f (decG13 4 i f) fun (d, a, w) => .pstw d a w := by
  intro ins
  have hk d a w : Coded (.pstw d a w) (2 ≤ w.val) _ := ⟨rfl, rfl⟩
  simp [decG13, (hk _ _ _).isWordOf_iff, low_eq_iff hx 4 rfl (by decide)]
  grind

theorem pqbox_reads (hop : f.op = 0x1AA + i) : Reads f (decG13 5 i f) fun (d, a, b, sp) => .pqbox d a b sp := by
  intro ins
  have hk d a b sp : Coded (.pqbox d a b sp) (groupOk a 2) _ := ⟨rfl, rfl⟩
  simp [decG13, (hk _ _ _ _).isWordOf_iff, low_eq_iff hx 4 rfl (by decide)]
  grind

theorem pqrad_reads (hop : f.op = 0x1AC + i) : Reads f (decG13 6 i f) fun (d, a, b, sp) => .pqrad d a b sp := by
  intro ins
  have hk d a b sp : Coded (.pqrad d a b sp) (groupOk a 1) _ := ⟨rfl, rfl⟩
  simp [decG13, (hk _ _ _ _).isWordOf_iff, low_eq_iff hx 4 rfl (by decide)]
  grind

theorem pmap_reads (hop : f.op = 0x1B2 + i) : Reads f (decG13 9 i f) fun (d, a, sp) => .pmap d a sp := by
  intro ins
  have hk d a sp : Coded (.pmap d a sp) (groupOk a 1) _ := ⟨rfl, rfl⟩
  simp [decG13, (hk _ _ _).isWordOf_iff, low_eq_iff hx 4 rfl (by decide)]
  grind

theorem pspc_reads (hop : f.op = 0x1B4 + i) : Reads f (decG13 10 i f)
    (Sum.elim (fun (d, a, sp) => .pspcDelete d a sp) fun (d, a, sp) => .pspcDefine d a sp) := by
  intro ins
  have hdel d a sp : Coded (.pspcDelete d a sp) true _ := ⟨rfl, rfl⟩
  have hdef d a sp : Coded (.pspcDefine d a sp) true _ := ⟨rfl, rfl⟩
  simp [-Nat.reducePow, decG13, (hdel _ _ _).isWordOf_iff, (hdef _ _ _).isWordOf_iff, delete_eq_iff hx, define_eq_iff hx]
  cases h : xBit f 4 <;> simp
  all_goals grind

theorem cpy_reads (hop : f.op = 0x1C0 + i) : Reads f (decG14 0 i f) fun (d, a, out, ch) => .cpy d a out ch := by
  intro ins
  have hk d a out ch : Coded (.cpy d a out ch) (groupOk a 3) _ := ⟨rfl, rfl⟩
  simp [decG14, (hk _ _ _ _).isWordOf_iff, copy_eq_iff hx, -Bool.exists_bool, -Fin.exists_fin_two]
  grind

theorem cpwp_reads (hop : f.op = 0x1C2 + i) : Reads f (decG14 1 i f) fun (d, ch) => .cpwp d ch := by
  intro ins
  have hk d ch : Coded (.cpwp d ch) true _ := ⟨rfl, rfl⟩
  simp [decG14, (hk _ _).isWordOf_iff, low_eq_iff hx 1 rfl (by decide)]
  grind

theorem cpwait_reads (hop : f.op = 0x1C4 + i) : Reads f (decG14 2 i f) fun (d, a, ch) => .cpwait d a ch := by
  intro ins
  have hk d a ch : Coded (.cpwait d a ch) true _ := ⟨rfl, rfl⟩
  simp [decG14, (hk _ _ _).isWordOf_iff, low_eq_iff hx 1 rfl (by decide)]
  grind

theorem tgive_reads (hop : f.op = 0x1C6 + i) : Reads f (decG14 3 i f) fun (a, n, e) => .tgive a n e := by
  intro ins
  have hk a n e : Coded (.tgive a n e) true _ := ⟨rfl, rfl⟩
  simp [-Nat.reducePow, decG14, (hk _ _ _).isWordOf_iff, give_eq_iff hx (engineCode_lt _)]
  grind

theorem ttake_reads (hop : f.op = 0x1C8 + i) : Reads f (decG14 4 i f) fun (a, n) => .ttake a n := by
  intro ins
  have hk a n : Coded (.ttake a n) true _ := ⟨rfl, rfl⟩
  simp [-Nat.reducePow, decG14, (hk _ _).isWordOf_iff, take_eq_iff hx]
  grind

/-! ## Vectors (06 R125) -/

theorem vabs_reads (hop : f.op = 0x408 + i) : Reads f (decV0 4 i f) fun (t, d, a, m) => .vabs t d a m := by
  intro ins
  have hk t d a m : Coded (.vabs t d a m) (maskOk m) _ := ⟨rfl, rfl⟩
  simp [decV0, (hk _ _ _ _).isWordOf_iff, xT_mask hx]
  grind

theorem vmadd_reads (hop : f.op = 0x424 + i) :
    Reads f (decV1 2 i f) fun (t, d, a, b, c, m) => .vmadd t d a b c m := by
  intro ins
  have hk t d a b c m : Coded (.vmadd t d a b c m) (maskOk m) _ := ⟨rfl, rfl⟩
  simp [-Nat.reducePow, decV1, (hk _ _ _ _ _ _).isWordOf_iff, xT_mask_third hx]
  grind

theorem vdot4_reads (hop : f.op = 0x426 + i) : Reads f (decV1 3 i f) fun (t, d, a, b, m) => .vdot4 t d a b m := by
  intro ins
  have hk t d a b m : Coded (.vdot4 t d a b m) (maskOk m) _ := ⟨rfl, rfl⟩
  simp [decV1, (hk _ _ _ _ _).isWordOf_iff, xT_mask hx]
  grind

theorem vcmp_reads (hop : f.op = 0x460 + i) : Reads f (decV3g 0 i f) fun (t, c, d, a, b, m) => .vcmp t c d a b m := by
  intro ins
  have hk t c d a b m : Coded (.vcmp t c d a b m) (maskOk m) _ := ⟨rfl, rfl⟩
  simp [decV3g, (hk _ _ _ _ _ _).isWordOf_iff, xT_cond_mask hx (condCode_lt _)]
  grind

theorem vsel_reads (hop : f.op = 0x462 + i) : Reads f (decV3g 1 i f) fun (t, d, a, b, m) => .vsel t d a b m := by
  intro ins
  have hk t d a b m : Coded (.vsel t d a b m) true _ := ⟨rfl, rfl⟩
  simp [decV3g, (hk _ _ _ _ _).isWordOf_iff, xT_mask hx, maskSel_exists, maskOk]
  grind

theorem mpop_reads (hop : f.op = 0x46A + i) : Reads f (decV3g 5 i f) fun (t, d, a) => .mpop t d a := by
  intro ins
  have hk t d a : Coded (.mpop t d a) true _ := ⟨rfl, rfl⟩
  simp [decV3g, (hk _ _ _).isWordOf_iff, xT_type hx]
  grind

theorem vffma_reads (hop : f.op = 0x486 + i) :
    Reads f (decV4 3 i f) fun (t, r, d, a, b, c, m) => .vffma t r d a b c m := by
  intro ins
  have hk t r d a b c m : Coded (.vffma t r d a b c m) (maskOk m) _ := ⟨rfl, rfl⟩
  simp [-Nat.reducePow, decV4, (hk _ _ _ _ _ _ _).isWordOf_iff, xT_rnd_mask_third hx]
  grind

theorem vfcmp_reads (hop : f.op = 0x492 + i) :
    Reads f (decV4 9 i f) fun (t, c, d, a, b, m) => .vfcmp t c d a b m := by
  intro ins
  have hk t c d a b m : Coded (.vfcmp t c d a b m) (maskOk m) _ := ⟨rfl, rfl⟩
  simp [decV4, (hk _ _ _ _ _ _).isWordOf_iff, xT_cond_mask hx (fcondCode_lt _)]
  grind

theorem vcvt_reads (hop : f.op = 0x4A0 + i) :
    Reads f (decV5 0 i f) fun (dt, st, r, p, d, a, m) => .vcvt dt st r p d a m := by
  intro ins
  have hk dt st r p d a m : Coded (.vcvt dt st r p d a m)
      ((!(laneIsInt dt && laneIsInt st) || noRound r) && decide (p.val < widthRatio dt st) && maskOk m) _ := ⟨rfl, rfl⟩
  simp [-Nat.reducePow, decV5, (hk _ _ _ _ _ _ _).isWordOf_iff, xT_rnd_mask_part hx, -Fin.ofNat_eq_cast]
  grind [widthRatio_le, Fin.ofNat_val_eq_self]

theorem vpkbx_reads (hop : f.op = 0x4A2 + i) :
    Reads f (decV5 1 i f) fun (t, d, a, b, c, sp, blk) => .vpkbx t d a b c sp blk := by
  intro ins
  have hk t d a b c sp blk : Coded (.vpkbx t d a b c sp blk) (blockOk t blk && decide (c ≠ d)) _ := ⟨rfl, rfl⟩
  simp [-Nat.reducePow, decV5, (hk _ _ _ _ _ _ _).isWordOf_iff, xT_third_block hx]
  grind

theorem vunbx_reads (hop : f.op = 0x4A4 + i) :
    Reads f (decV5 2 i f) fun (t, d, a, b, blk, m) => .vunbx t d a b blk m := by
  intro ins
  have hk t d a b blk m : Coded (.vunbx t d a b blk m) (blockOk t blk && maskOk m) _ := ⟨rfl, rfl⟩
  simp [-Nat.reducePow, decV5, (hk _ _ _ _ _ _).isWordOf_iff, xT_mask_block hx]
  grind

theorem vbcast_reads (hop : f.op = 0x4C0) : Reads f (decV6 0 0 f) fun (t, d, a, m) => .vbcast t d a m := by
  intro ins
  have hk t d a m : Coded (.vbcast t d a m) (maskOk m) _ := ⟨rfl, rfl⟩
  simp [decV6, (hk _ _ _ _).isWordOf_iff, xT_mask hx]
  grind

theorem vbcastImm_reads (hb : f.b < 2 ^ 8) (hop : f.op = 0x4C1) :
    Reads f (decV6 0 1 f) fun (d, m) => .vbcastImm d m := by
  intro ins
  have hk d m : Coded (.vbcastImm d m) true _ := ⟨rfl, rfl⟩
  simp [decV6, (hk _ _).isWordOf_iff, encImm_eq_iff hb hx]
  grind

theorem vperm_reads (hop : f.op = 0x4C2 + i) : Reads f (decV6 1 i f) fun (t, d, a, b, m) => .vperm t d a b m := by
  intro ins
  have hk t d a b m : Coded (.vperm t d a b m) (maskOk m) _ := ⟨rfl, rfl⟩
  simp [decV6, (hk _ _ _ _ _).isWordOf_iff, xT_mask hx]
  grind

theorem vslide_reads (hop : f.op = 0x4C4 + i) : Reads f (decV6 2 i f) fun (t, d, a, b, m) => .vslide t d a b m := by
  intro ins
  have hk t d a b m : Coded (.vslide t d a b m) (maskOk m) _ := ⟨rfl, rfl⟩
  simp [decV6, (hk _ _ _ _ _).isWordOf_iff, xT_mask hx]
  grind

theorem vred_reads (hop : f.op = 0x4C6 + i) :
    Reads f (decV6 3 i f) fun (t, r, op, d, a, m) => .vred t r op d a m := by
  intro ins
  have hk t r op d a m : Coded (.vred t r op d a m) (redOk t op && (noRound r || decide (op = .fadd))) _ := ⟨rfl, rfl⟩
  simp [-Nat.reducePow, decV6, (hk _ _ _ _ _ _).isWordOf_iff, xT_rnd_mask_op hx, maskSel_exists, maskOk]
  grind

theorem vins_reads (hop : f.op = 0x4C8 + i) : Reads f (decV6 4 i f) fun (t, d, a, b) => .vins t d a b := by
  intro ins
  have hk t d a b : Coded (.vins t d a b) true _ := ⟨rfl, rfl⟩
  simp [decV6, (hk _ _ _ _).isWordOf_iff, xT_type hx]
  grind

theorem vext_reads (hop : f.op = 0x4CA + i) : Reads f (decV6 5 i f) fun (t, d, a, b) => .vext t d a b := by
  intro ins
  have hk t d a b : Coded (.vext t d a b) true _ := ⟨rfl, rfl⟩
  simp [decV6, (hk _ _ _ _).isWordOf_iff, xT_type hx]
  grind

end

end Sys2Proof
end

section
/-! The tables of the decoder (03 R46, R54, R55, R58). What a group, a class and the decoder answer is
an instruction whose word the fields hold; and the fields of an instruction's word are decoded to it. -/

namespace Sys2Proof

open Sys2Proof.Machine

/-- Every field is within its bits (R43). -/
structure Fields.Fits (f : Fields) : Prop where
  op : f.op < 2 ^ 12
  neg : f.neg < 2
  pred : f.pred < 2 ^ 3
  hints : f.hints < 2 ^ 8
  d : f.d < 2 ^ 8
  a : f.a < 2 ^ 8
  b : f.b < 2 ^ 8
  x : f.x < 2 ^ 48

/-! ## Whatever decodes is well formed and has the word it was read from -/

section
variable {f : Fields} {fn i op : Nat} {ins : Instr}

theorem isWordOf_of_flag {q : Nat → Dec Instr} (hi : i < 2) (hop : f.op = op + i)
    (h0 : f.op = op → q 0 = .ok ins → IsWordOf f ins) (h1 : f.op = op + 1 → q 1 = .ok ins → IsWordOf f ins)
    (h : q i = .ok ins) : IsWordOf f ins := by
  obtain rfl | rfl : i = 0 ∨ i = 1 := by omega
  · exact h0 hop h
  · exact h1 hop h

variable (hf : f.Fits) (hi : i < 2)
include hf hi

theorem decInt_isWordOf {k : Option IntTy → GReg → GReg → GReg → Instr} {ki : GReg → GReg → BitVec 56 → Instr}
    (hk : ∀ t d a b, Coded (k t d a b) true (encI3 op t d a b))
    (hki : ∀ d a m, Coded (ki d a m) true (encImm (op + 1) (gS d) (gS a) m)) (hop : f.op = op + i)
    (h : decInt i f k ki = .ok ins) : IsWordOf f ins := by
  rcases decInt_eq_ok.mp h with ⟨rfl, h⟩ | ⟨hi0, h⟩
  · exact (decIntR_reads hf.x hk hop).isWordOf h
  · exact (decIntImm_reads hf.x hf.b hki (by omega)).isWordOf h

theorem decG0_isWordOf : ∀ {fn : Nat}, f.op = 0x000 + 2 * fn + i → decG0 fn i f = .ok ins → IsWordOf f ins
  | 0, hop, h => decInt_isWordOf hf hi (fun _ _ _ _ => ⟨rfl, rfl⟩) (fun _ _ _ => ⟨rfl, rfl⟩) hop h
  | 1, hop, h => decInt_isWordOf hf hi (fun _ _ _ _ => ⟨rfl, rfl⟩) (fun _ _ _ => ⟨rfl, rfl⟩) hop h
  | 2, hop, h => decInt_isWordOf hf hi (fun _ _ _ _ => ⟨rfl, rfl⟩) (fun _ _ _ => ⟨rfl, rfl⟩) hop h
  | 3, hop, h => decInt_isWordOf hf hi (fun _ _ _ _ => ⟨rfl, rfl⟩) (fun _ _ _ => ⟨rfl, rfl⟩) hop h
  | 4, hop, h => decInt_isWordOf hf hi (fun _ _ _ _ => ⟨rfl, rfl⟩) (fun _ _ _ => ⟨rfl, rfl⟩) hop h
  | 5, hop, h => decInt_isWordOf hf hi (fun _ _ _ _ => ⟨rfl, rfl⟩) (fun _ _ _ => ⟨rfl, rfl⟩) hop h
  | 6, hop, h => decInt_isWordOf hf hi (fun _ _ _ _ => ⟨rfl, rfl⟩) (fun _ _ _ => ⟨rfl, rfl⟩) hop h
  | 7, hop, h => decInt_isWordOf hf hi (fun _ _ _ _ => ⟨rfl, rfl⟩) (fun _ _ _ => ⟨rfl, rfl⟩) hop h
  | 8, hop, h => (sel_reads hf.x hop).isWordOf h
  | 9, hop, h => (lea_reads hf.x hop).isWordOf h
  | _ + 10, _, h => nomatch h

theorem decG1_isWordOf : ∀ {fn : Nat}, f.op = 0x020 + 2 * fn + i → decG1 fn i f = .ok ins → IsWordOf f ins
  | 0, hop, h => decInt_isWordOf hf hi (fun _ _ _ _ => ⟨rfl, rfl⟩) (fun _ _ _ => ⟨rfl, rfl⟩) hop h
  | 1, hop, h => (decIntR_reads hf.x (fun _ _ _ _ => ⟨rfl, rfl⟩) hop).isWordOf h
  | 2, hop, h => (decIntR_reads hf.x (fun _ _ _ _ => ⟨rfl, rfl⟩) hop).isWordOf h
  | 3, hop, h => (decIntR_reads hf.x (fun _ _ _ _ => ⟨rfl, rfl⟩) hop).isWordOf h
  | 4, hop, h => (madd_reads hf.x hop).isWordOf h
  | _ + 5, _, h => nomatch h

theorem decG2_isWordOf : ∀ {fn : Nat}, f.op = 0x040 + 2 * fn + i → decG2 fn i f = .ok ins → IsWordOf f ins
  | 0, hop, h => decInt_isWordOf hf hi (fun _ _ _ _ => ⟨rfl, rfl⟩) (fun _ _ _ => ⟨rfl, rfl⟩) hop h
  | 1, hop, h => decInt_isWordOf hf hi (fun _ _ _ _ => ⟨rfl, rfl⟩) (fun _ _ _ => ⟨rfl, rfl⟩) hop h
  | 2, hop, h => decInt_isWordOf hf hi (fun _ _ _ _ => ⟨rfl, rfl⟩) (fun _ _ _ => ⟨rfl, rfl⟩) hop h
  | 3, hop, h => decInt_isWordOf hf hi (fun _ _ _ _ => ⟨rfl, rfl⟩) (fun _ _ _ => ⟨rfl, rfl⟩) hop h
  | 4, hop, h => (decInt2_reads hf.x (fun _ _ _ => ⟨rfl, rfl⟩) hop).isWordOf h
  | 5, hop, h => (decInt2_reads hf.x (fun _ _ _ => ⟨rfl, rfl⟩) hop).isWordOf h
  | 6, hop, h => (decInt2_reads hf.x (fun _ _ _ => ⟨rfl, rfl⟩) hop).isWordOf h
  | 7, hop, h => (bext_reads hf.x hop).isWordOf h
  | 8, hop, h => (bins_reads hf.x hop).isWordOf h
  | 9, hop, h => (bswap_reads hf.x hop).isWordOf h
  | _ + 10, _, h => nomatch h

omit hi in
theorem decG3_isWordOf : ∀ {fn : Nat}, f.op = 0x060 + 2 * fn + i → decG3 fn i f = .ok ins → IsWordOf f ins
  | 0, hop, h => (cmp_reads hf.x hop).isWordOf h
  | 1, hop, h => (decPred_reads hf.x (fun _ _ _ _ _ => ⟨rfl, rfl⟩) hop).isWordOf h
  | 2, hop, h => (decPred_reads hf.x (fun _ _ _ _ _ => ⟨rfl, rfl⟩) hop).isWordOf h
  | 3, hop, h => (decPred_reads hf.x (fun _ _ _ _ _ => ⟨rfl, rfl⟩) hop).isWordOf h
  | 4, hop, h => (pmov_reads hf.x hop).isWordOf h
  | _ + 5, _, h => nomatch h

omit hi in
theorem decG4_isWordOf : ∀ {fn : Nat}, f.op = 0x080 + 2 * fn + i → decG4 fn i f = .ok ins → IsWordOf f ins
  | 0, hop, h => (decFp3_reads hf.x (fun _ _ _ _ _ => ⟨rfl, rfl⟩) hop).isWordOf h
  | 1, hop, h => (decFp3_reads hf.x (fun _ _ _ _ _ => ⟨rfl, rfl⟩) hop).isWordOf h
  | 2, hop, h => (decFp3_reads hf.x (fun _ _ _ _ _ => ⟨rfl, rfl⟩) hop).isWordOf h
  | 3, hop, h => (fma_reads hf.x hop).isWordOf h
  | 4, hop, h => (decFp3_reads hf.x (fun _ _ _ _ _ => ⟨rfl, rfl⟩) hop).isWordOf h
  | 5, hop, h => (decFp2_reads hf.x (fun _ _ _ _ => ⟨rfl, rfl⟩) hop).isWordOf h
  | 6, hop, h => (decFp3n_reads hf.x (fun _ _ _ _ => ⟨rfl, rfl⟩) hop).isWordOf h
  | 7, hop, h => (decFp3n_reads hf.x (fun _ _ _ _ => ⟨rfl, rfl⟩) hop).isWordOf h
  | 8, hop, h => (fcmp_reads hf.x hop).isWordOf h
  | 9, hop, h => (fcls_reads hf.x hop).isWordOf h
  | _ + 10, _, h => nomatch h

omit hi in
theorem decG5_isWordOf : ∀ {fn : Nat}, f.op = 0x0A0 + 2 * fn + i → decG5 fn i f = .ok ins → IsWordOf f ins
  | 0, hop, h => (cvt_reads hf.x hop).isWordOf h
  | 1, hop, h => (decFp2_reads hf.x (fun _ _ _ _ => ⟨rfl, rfl⟩) hop).isWordOf h
  | _ + 2, _, h => nomatch h

theorem decG6_isWordOf : ∀ {fn : Nat}, f.op = 0x0C0 + 2 * fn + i → decG6 fn i f = .ok ins → IsWordOf f ins
  | 0, hop, h => isWordOf_of_flag (q := fun i => decG6 0 i f) hi hop (fun hop => (mov_reads hf.x hop).isWordOf)
      (fun hop => (movImm_reads hf.x hf.b hop).isWordOf) h
  | 1, hop, h => (mfs_reads hf.x hop).isWordOf h
  | 2, hop, h => (mts_reads hf.x hop).isWordOf h
  | _ + 3, _, h => nomatch h

theorem decG7_isWordOf : ∀ {fn : Nat}, f.op = 0x0E0 + 2 * fn + i → decG7 fn i f = .ok ins → IsWordOf f ins
  | 0, hop, h => (br_reads hf.x hf.b hop).isWordOf h
  | 1, hop, h => (decTarget_reads (fun _ => ⟨rfl, rfl⟩) hop).isWordOf h
  | 2, hop, h => isWordOf_of_flag (q := fun i => decG7 2 i f) hi hop (fun hop => (call_reads hop).isWordOf)
      (fun hop => (callImm_reads hf.x hf.b hop).isWordOf) h
  | 3, hop, h => (decTarget_reads (fun _ => ⟨rfl, rfl⟩) hop).isWordOf h
  | 4, hop, h => (loop_reads hf.x hf.b hop).isWordOf h
  | 5, hop, h => (decBare_reads ⟨rfl, rfl⟩ hop).isWordOf h
  | 6, hop, h => (decBare_reads ⟨rfl, rfl⟩ hop).isWordOf h
  | _ + 7, _, h => nomatch h

omit hi in
theorem decG8_isWordOf : ∀ {fn : Nat}, f.op = 0x100 + 2 * fn + i → decG8 fn i f = .ok ins → IsWordOf f ins
  | 0, hop, h => (ld_reads hf.x hop).isWordOf h
  | 1, hop, h => (st_reads hf.x hop).isWordOf h
  | 2, hop, h => (pref_reads hf.x hop).isWordOf h
  | 3, hop, h => (stx_reads hf.x hop).isWordOf h
  | 4, hop, h => (decCache_reads hf.x (fun _ _ _ => ⟨rfl, rfl⟩) hop).isWordOf h
  | 5, hop, h => (decCache_reads hf.x (fun _ _ _ => ⟨rfl, rfl⟩) hop).isWordOf h
  | _ + 6, _, h => nomatch h

omit hi in
theorem decG9_isWordOf : ∀ {fn : Nat}, f.op = 0x120 + 2 * fn + i → decG9 fn i f = .ok ins → IsWordOf f ins
  | 0, hop, h => (amo_reads hf.x hop).isWordOf h
  | 1, hop, h => (cas_reads hf.x hop).isWordOf h
  | _ + 2, _, h => nomatch h

omit hi in
theorem decG10_isWordOf : ∀ {fn : Nat}, f.op = 0x140 + 2 * fn + i → decG10 fn i f = .ok ins → IsWordOf f ins
  | 0, hop, h => (fence_reads hf.x hop).isWordOf h
  | 1, hop, h => (bset_reads hf.x hop).isWordOf h
  | 2, hop, h => (barr_reads hf.x hop).isWordOf h
  | 3, hop, h => (bwait_reads hf.x hop).isWordOf h
  | 4, hop, h => (bsync_reads hf.x hop).isWordOf h
  | 5, hop, h => (bxch_reads hf.x hop).isWordOf h
  | _ + 6, _, h => nomatch h

omit hi in
theorem decG11_isWordOf : ∀ {fn : Nat}, f.op = 0x160 + 2 * fn + i → decG11 fn i f = .ok ins → IsWordOf f ins
  | 0, hop, h => (spawn_reads hop).isWordOf h
  | 1, hop, h => (send_reads hop).isWordOf h
  | 2, hop, h => (arm_reads hop).isWordOf h
  | 3, hop, h => (decTarget_reads (fun _ => ⟨rfl, rfl⟩) hop).isWordOf h
  | 4, hop, h => (chset_reads hf.x hop).isWordOf h
  | 5, hop, h => (chmsk_reads hf.x hop).isWordOf h
  | _ + 6, _, h => nomatch h

omit hi in
theorem decG12_isWordOf : ∀ {fn : Nat}, f.op = 0x180 + 2 * fn + i → decG12 fn i f = .ok ins → IsWordOf f ins
  | 0, hop, h => (trap_reads hf.x hop).isWordOf h
  | 1, hop, h => (decBare_reads ⟨rfl, rfl⟩ hop).isWordOf h
  | 2, hop, h => (twait_reads hop).isWordOf h
  | 3, hop, h => (decBare_reads ⟨rfl, rfl⟩ hop).isWordOf h
  | 4, hop, h => (fpost_reads hf.x hop).isWordOf h
  | 5, hop, h => (tlbinv_reads hf.x hop).isWordOf h
  | 6, hop, h => (shand_reads hf.x hop).isWordOf h
  | _ + 7, _, h => nomatch h

omit hi in
theorem decG13_isWordOf : ∀ {fn : Nat}, f.op = 0x1A0 + 2 * fn + i → decG13 fn i f = .ok ins → IsWordOf f ins
  | 0, hop, h => (pnew_reads hf.x hop).isWordOf h
  | 1, hop, h => (decTarget_reads (fun _ => ⟨rfl, rfl⟩) hop).isWordOf h
  | 2, hop, h => (pset_reads hop).isWordOf h
  | 3, hop, h => (pld_reads hf.x hop).isWordOf h
  | 4, hop, h => (pstw_reads hf.x hop).isWordOf h
  | 5, hop, h => (pqbox_reads hf.x hop).isWordOf h
  | 6, hop, h => (pqrad_reads hf.x hop).isWordOf h
  | 7, hop, h => (pqwait_reads hop).isWordOf h
  | 8, hop, h => (pres_reads hop).isWordOf h
  | 9, hop, h => (pmap_reads hf.x hop).isWordOf h
  | 10, hop, h => (pspc_reads hf.x hop).isWordOf h
  | _ + 11, _, h => nomatch h

omit hi in
theorem decG14_isWordOf : ∀ {fn : Nat}, f.op = 0x1C0 + 2 * fn + i → decG14 fn i f = .ok ins → IsWordOf f ins
  | 0, hop, h => (cpy_reads hf.x hop).isWordOf h
  | 1, hop, h => (cpwp_reads hf.x hop).isWordOf h
  | 2, hop, h => (cpwait_reads hf.x hop).isWordOf h
  | 3, hop, h => (tgive_reads hf.x hop).isWordOf h
  | 4, hop, h => (ttake_reads hf.x hop).isWordOf h
  | 5, hop, h => (mxq_reads hop).isWordOf h
  | 6, hop, h => (decTarget_reads (fun _ => ⟨rfl, rfl⟩) hop).isWordOf h
  | 7, hop, h => (shdef_reads hop).isWordOf h
  | 8, hop, h => (decTarget_reads (fun _ => ⟨rfl, rfl⟩) hop).isWordOf h
  | _ + 9, _, h => nomatch h

omit hi in
theorem decV0_isWordOf : ∀ {fn : Nat}, f.op = 0x400 + 2 * fn + i → decV0 fn i f = .ok ins → IsWordOf f ins
  | 0, hop, h => (decV3_reads hf.x (fun _ _ _ _ _ => ⟨rfl, rfl⟩) hop).isWordOf h
  | 1, hop, h => (decV3_reads hf.x (fun _ _ _ _ _ => ⟨rfl, rfl⟩) hop).isWordOf h
  | 2, hop, h => (decV3_reads hf.x (fun _ _ _ _ _ => ⟨rfl, rfl⟩) hop).isWordOf h
  | 3, hop, h => (decV3_reads hf.x (fun _ _ _ _ _ => ⟨rfl, rfl⟩) hop).isWordOf h
  | 4, hop, h => (vabs_reads hf.x hop).isWordOf h
  | 5, hop, h => (decV3_reads hf.x (fun _ _ _ _ _ => ⟨rfl, rfl⟩) hop).isWordOf h
  | 6, hop, h => (decV3_reads hf.x (fun _ _ _ _ _ => ⟨rfl, rfl⟩) hop).isWordOf h
  | _ + 7, _, h => nomatch h

omit hi in
theorem decV1_isWordOf : ∀ {fn : Nat}, f.op = 0x420 + 2 * fn + i → decV1 fn i f = .ok ins → IsWordOf f ins
  | 0, hop, h => (decV3_reads hf.x (fun _ _ _ _ _ => ⟨rfl, rfl⟩) hop).isWordOf h
  | 1, hop, h => (decV3_reads hf.x (fun _ _ _ _ _ => ⟨rfl, rfl⟩) hop).isWordOf h
  | 2, hop, h => (vmadd_reads hf.x hop).isWordOf h
  | 3, hop, h => (vdot4_reads hf.x hop).isWordOf h
  | _ + 4, _, h => nomatch h

omit hi in
theorem decV2_isWordOf : ∀ {fn : Nat}, f.op = 0x440 + 2 * fn + i → decV2 fn i f = .ok ins → IsWordOf f ins
  | 0, hop, h => (decV3_reads hf.x (fun _ _ _ _ _ => ⟨rfl, rfl⟩) hop).isWordOf h
  | 1, hop, h => (decV3_reads hf.x (fun _ _ _ _ _ => ⟨rfl, rfl⟩) hop).isWordOf h
  | 2, hop, h => (decV3_reads hf.x (fun _ _ _ _ _ => ⟨rfl, rfl⟩) hop).isWordOf h
  | 3, hop, h => (decV3_reads hf.x (fun _ _ _ _ _ => ⟨rfl, rfl⟩) hop).isWordOf h
  | 4, hop, h => (decV3_reads hf.x (fun _ _ _ _ _ => ⟨rfl, rfl⟩) hop).isWordOf h
  | 5, hop, h => (decV3_reads hf.x (fun _ _ _ _ _ => ⟨rfl, rfl⟩) hop).isWordOf h
  | _ + 6, _, h => nomatch h

omit hi in
theorem decV3g_isWordOf : ∀ {fn : Nat}, f.op = 0x460 + 2 * fn + i → decV3g fn i f = .ok ins → IsWordOf f ins
  | 0, hop, h => (vcmp_reads hf.x hop).isWordOf h
  | 1, hop, h => (vsel_reads hf.x hop).isWordOf h
  | 2, hop, h => (decMask_reads hf.x (fun _ _ _ _ _ => ⟨rfl, rfl⟩) hop).isWordOf h
  | 3, hop, h => (decMask_reads hf.x (fun _ _ _ _ _ => ⟨rfl, rfl⟩) hop).isWordOf h
  | 4, hop, h => (decMask_reads hf.x (fun _ _ _ _ _ => ⟨rfl, rfl⟩) hop).isWordOf h
  | 5, hop, h => (mpop_reads hf.x hop).isWordOf h
  | _ + 6, _, h => nomatch h

omit hi in
theorem decV4_isWordOf : ∀ {fn : Nat}, f.op = 0x480 + 2 * fn + i → decV4 fn i f = .ok ins → IsWordOf f ins
  | 0, hop, h => (decVf3_reads hf.x (fun _ _ _ _ _ _ => ⟨rfl, rfl⟩) hop).isWordOf h
  | 1, hop, h => (decVf3_reads hf.x (fun _ _ _ _ _ _ => ⟨rfl, rfl⟩) hop).isWordOf h
  | 2, hop, h => (decVf3_reads hf.x (fun _ _ _ _ _ _ => ⟨rfl, rfl⟩) hop).isWordOf h
  | 3, hop, h => (vffma_reads hf.x hop).isWordOf h
  | 4, hop, h => (decVf3n_reads hf.x (fun _ _ _ _ _ => ⟨rfl, rfl⟩) hop).isWordOf h
  | 5, hop, h => (decVf3n_reads hf.x (fun _ _ _ _ _ => ⟨rfl, rfl⟩) hop).isWordOf h
  | 6, hop, h => (decVf3_reads hf.x (fun _ _ _ _ _ _ => ⟨rfl, rfl⟩) hop).isWordOf h
  | 7, hop, h => (decVf2_reads hf.x (fun _ _ _ _ _ => ⟨rfl, rfl⟩) hop).isWordOf h
  | 8, hop, h => (decVf2_reads hf.x (fun _ _ _ _ _ => ⟨rfl, rfl⟩) hop).isWordOf h
  | 9, hop, h => (vfcmp_reads hf.x hop).isWordOf h
  | _ + 10, _, h => nomatch h

omit hi in
theorem decV5_isWordOf : ∀ {fn : Nat}, f.op = 0x4A0 + 2 * fn + i → decV5 fn i f = .ok ins → IsWordOf f ins
  | 0, hop, h => (vcvt_reads hf.x hop).isWordOf h
  | 1, hop, h => (vpkbx_reads hf.x hop).isWordOf h
  | 2, hop, h => (vunbx_reads hf.x hop).isWordOf h
  | 3, hop, h => (vtrl_reads hop).isWordOf h
  | _ + 4, _, h => nomatch h

theorem decV6_isWordOf : ∀ {fn : Nat}, f.op = 0x4C0 + 2 * fn + i → decV6 fn i f = .ok ins → IsWordOf f ins
  | 0, hop, h => isWordOf_of_flag (q := fun i => decV6 0 i f) hi hop (fun hop => (vbcast_reads hf.x hop).isWordOf)
      (fun hop => (vbcastImm_reads hf.x hf.b hop).isWordOf) h
  | 1, hop, h => (vperm_reads hf.x hop).isWordOf h
  | 2, hop, h => (vslide_reads hf.x hop).isWordOf h
  | 3, hop, h => (vred_reads hf.x hop).isWordOf h
  | 4, hop, h => (vins_reads hf.x hop).isWordOf h
  | 5, hop, h => (vext_reads hf.x hop).isWordOf h
  | _ + 6, _, h => nomatch h

omit hi in
theorem decV7_isWordOf : ∀ {fn : Nat}, f.op = 0x4E0 + 2 * fn + i → decV7 fn i f = .ok ins → IsWordOf f ins
  | 0, hop, h => (decVld_reads hf.x (fun _ _ _ _ _ => ⟨rfl, rfl⟩) hop).isWordOf h
  | 1, hop, h => (decVst_reads hf.x (fun _ _ _ _ _ => ⟨rfl, rfl⟩) hop).isWordOf h
  | 2, hop, h => (decVld_reads hf.x (fun _ _ _ _ _ => ⟨rfl, rfl⟩) hop).isWordOf h
  | 3, hop, h => (decVst_reads hf.x (fun _ _ _ _ _ => ⟨rfl, rfl⟩) hop).isWordOf h
  | 4, hop, h => (decVld_reads hf.x (fun _ _ _ _ _ => ⟨rfl, rfl⟩) hop).isWordOf h
  | 5, hop, h => (decVst_reads hf.x (fun _ _ _ _ _ => ⟨rfl, rfl⟩) hop).isWordOf h
  | _ + 6, _, h => nomatch h

omit hi in
theorem decV8_isWordOf : ∀ {fn : Nat}, f.op = 0x500 + 2 * fn + i → decV8 fn i f = .ok ins → IsWordOf f ins
  | 0, hop, h => (decGeo_reads hf.x (fun _ _ _ _ _ => ⟨rfl, rfl⟩) hop).isWordOf h
  | 1, hop, h => (decGeo_reads hf.x (fun _ _ _ _ _ => ⟨rfl, rfl⟩) hop).isWordOf h
  | _ + 2, _, h => nomatch h

theorem decClass0_isWordOf : ∀ {gr : Nat}, f.op = 0x000 + 0x020 * gr + 2 * fn + i →
    decClass0 gr fn i f = .ok ins → IsWordOf f ins
  | 0, hop, h => decG0_isWordOf hf hi hop h
  | 1, hop, h => decG1_isWordOf hf hi hop h
  | 2, hop, h => decG2_isWordOf hf hi hop h
  | 3, hop, h => decG3_isWordOf hf hop h
  | 4, hop, h => decG4_isWordOf hf hop h
  | 5, hop, h => decG5_isWordOf hf hop h
  | 6, hop, h => decG6_isWordOf hf hi hop h
  | 7, hop, h => decG7_isWordOf hf hi hop h
  | 8, hop, h => decG8_isWordOf hf hop h
  | 9, hop, h => decG9_isWordOf hf hop h
  | 10, hop, h => decG10_isWordOf hf hop h
  | 11, hop, h => decG11_isWordOf hf hop h
  | 12, hop, h => decG12_isWordOf hf hop h
  | 13, hop, h => decG13_isWordOf hf hop h
  | 14, hop, h => decG14_isWordOf hf hop h
  | _ + 15, _, h => nomatch h

theorem decClass1_isWordOf : ∀ {gr : Nat}, f.op = 0x400 + 0x020 * gr + 2 * fn + i →
    decClass1 gr fn i f = .ok ins → IsWordOf f ins
  | 0, hop, h => decV0_isWordOf hf hop h
  | 1, hop, h => decV1_isWordOf hf hop h
  | 2, hop, h => decV2_isWordOf hf hop h
  | 3, hop, h => decV3g_isWordOf hf hop h
  | 4, hop, h => decV4_isWordOf hf hop h
  | 5, hop, h => decV5_isWordOf hf hop h
  | 6, hop, h => decV6_isWordOf hf hi hop h
  | 7, hop, h => decV7_isWordOf hf hop h
  | 8, hop, h => decV8_isWordOf hf hop h
  | _ + 9, _, h => nomatch h

omit hi in
theorem decodeInstr_isWordOf (h : decodeInstr f = .ok ins) : IsWordOf f ins := by
  have hi : f.op % 2 < 2 := Nat.mod_lt _ Nat.zero_lt_two
  have hop := hf.op
  unfold decodeInstr at h
  split at h
  next h0 => exact decClass0_isWordOf hf hi (by omega) h
  next h1 => exact decClass1_isWordOf hf hi (by omega) h
  next => nomatch h
end

/-! ## The word of an instruction is decoded to it -/

section
variable {f : Fields} {ins : Instr}

/-- decodeInstr, its choice of clause made by an opcode of its own. -/
def decodeAt (op : Nat) (f : Fields) : Dec Instr :=
  match op / 2 ^ 10 with
  | 0 => decClass0 (op / 2 ^ 5 % 2 ^ 5) (op / 2 % 2 ^ 4) (op % 2) f
  | 1 => decClass1 (op / 2 ^ 5 % 2 ^ 5) (op / 2 % 2 ^ 4) (op % 2) f
  | _ => .error ⟨0, 0⟩

theorem decodeInstr_eq_decodeAt : decodeInstr f = decodeAt f.op f := rfl

theorem IsWordOf.op_eq {op d a b x : Nat} (h : IsWordOf f ins) (he : encodeInstr ins = some ⟨op, d, a, b, x⟩) :
    f.op = op :=
  (congrArg Enc.op (Option.some.inj (he.symm.trans h.2))).symm

theorem Reads.decodes {α : Type} {q : Dec Instr} {k : α → Instr} {op d a b x : Nat} (hr : Reads f q k) (y : α)
    (h : IsWordOf f (k y)) (he : encodeInstr (k y) = some ⟨op, d, a, b, x⟩) (hq : decodeAt op f = q) :
    decodeInstr f = .ok (k y) := by
  rw [decodeInstr_eq_decodeAt, h.op_eq he, hq, hr.eq_ok y h]

theorem IsWordOf.decodeInstr_eq (hf : f.Fits) (h : IsWordOf f ins) : decodeInstr f = .ok ins := by
  cases ins with
  | add t d a b | sub t d a b | and t d a b | or t d a b | xor t d a b | andn t d a b | min t d a b
  | max t d a b | mul t d a b | shl t d a b | shr t d a b | sar t d a b | rotl t d a b =>
    exact (decIntR_reads (i := 0) hf.x (fun _ _ _ _ => ⟨rfl, rfl⟩) (h.op_eq rfl)).decodes (t, d, a, b) h rfl rfl
  | addImm d a imm | subImm d a imm | andImm d a imm | orImm d a imm | xorImm d a imm | andnImm d a imm
  | minImm d a imm | maxImm d a imm | mulImm d a imm | shlImm d a imm | shrImm d a imm | sarImm d a imm
  | rotlImm d a imm =>
    exact (decIntImm_reads hf.x hf.b (fun _ _ _ => ⟨rfl, rfl⟩) (h.op_eq rfl)).decodes (d, a, imm) h rfl rfl
  | sel d a b p =>
    exact (sel_reads (i := 0) hf.x (h.op_eq rfl)).decodes (d, a, b, p) h rfl rfl
  | lea d a b sh disp =>
    exact (lea_reads (i := 0) hf.x (h.op_eq rfl)).decodes (d, a, b, sh, disp) h rfl rfl
  | mulh t d a b | div t d a b | rem t d a b =>
    exact (decIntR_reads (i := 0) hf.x (fun _ _ _ _ => ⟨rfl, rfl⟩) (h.op_eq rfl)).decodes (t, d, a, b) h rfl rfl
  | madd t d a b c =>
    exact (madd_reads (i := 0) hf.x (h.op_eq rfl)).decodes (t, d, a, b, c) h rfl rfl
  | clz t d a | ctz t d a | popc t d a =>
    exact (decInt2_reads (i := 0) hf.x (fun _ _ _ => ⟨rfl, rfl⟩) (h.op_eq rfl)).decodes (t, d, a) h rfl rfl
  | bext t d a pos len1 =>
    exact (bext_reads (i := 0) hf.x (h.op_eq rfl)).decodes (t, d, a, pos, len1) h rfl rfl
  | bins d a pos len1 =>
    exact (bins_reads (i := 0) hf.x (h.op_eq rfl)).decodes (d, a, pos, len1) h rfl rfl
  | bswap t d a =>
    exact (bswap_reads (i := 0) hf.x (h.op_eq rfl)).decodes (t, d, a) h rfl rfl
  | cmp t c d a b =>
    exact (cmp_reads (i := 0) hf.x (h.op_eq rfl)).decodes (t, c, d, a, b) h rfl rfl
  | pand d a b na nb | por d a b na nb | pxor d a b na nb =>
    exact (decPred_reads (i := 0) hf.x (fun _ _ _ _ _ => ⟨rfl, rfl⟩) (h.op_eq rfl)).decodes (d, a, b, na, nb) h rfl rfl
  | pmov form =>
    cases form <;> exact (pmov_reads (i := 0) hf.x (h.op_eq rfl)).decodes _ h rfl rfl
  | fadd t r d a b | fsub t r d a b | fmul t r d a b | fdiv t r d a b =>
    exact (decFp3_reads (i := 0) hf.x (fun _ _ _ _ _ => ⟨rfl, rfl⟩) (h.op_eq rfl)).decodes (t, r, d, a, b) h rfl rfl
  | fma t r d a b c =>
    exact (fma_reads (i := 0) hf.x (h.op_eq rfl)).decodes (t, r, d, a, b, c) h rfl rfl
  | fsqrt t r d a | fround t r d a =>
    exact (decFp2_reads (i := 0) hf.x (fun _ _ _ _ => ⟨rfl, rfl⟩) (h.op_eq rfl)).decodes (t, r, d, a) h rfl rfl
  | fmin t d a b | fmax t d a b =>
    exact (decFp3n_reads (i := 0) hf.x (fun _ _ _ _ => ⟨rfl, rfl⟩) (h.op_eq rfl)).decodes (t, d, a, b) h rfl rfl
  | fcmp t c d a b =>
    exact (fcmp_reads (i := 0) hf.x (h.op_eq rfl)).decodes (t, c, d, a, b) h rfl rfl
  | fcls t d a =>
    exact (fcls_reads (i := 0) hf.x (h.op_eq rfl)).decodes (t, d, a) h rfl rfl
  | cvt dt st r d a =>
    exact (cvt_reads (i := 0) hf.x (h.op_eq rfl)).decodes (dt, st, r, d, a) h rfl rfl
  | mov t d a =>
    exact (mov_reads hf.x (h.op_eq rfl)).decodes (t, d, a) h rfl rfl
  | movImm d imm =>
    exact (movImm_reads hf.x hf.b (h.op_eq rfl)).decodes (d, imm) h rfl rfl
  | mfs d r =>
    exact (mfs_reads (i := 0) hf.x (h.op_eq rfl)).decodes (d, r) h rfl rfl
  | mts r a =>
    have hr : ownMts r = false := by simpa [WellFormed] using h.1
    rw [← mtsOf_of_not_own a hr] at h ⊢
    exact (mts_reads (i := 0) hf.x (h.op_eq (coded_mtsOf r a).2)).decodes (r, a) h (coded_mtsOf r a).2 rfl
  | mtsSspill a =>
    exact (mts_reads (i := 0) hf.x (h.op_eq rfl)).decodes (.sspill, a) h rfl rfl
  | mtsScarve a =>
    exact (mts_reads (i := 0) hf.x (h.op_eq rfl)).decodes (.scarve, a) h rfl rfl
  | mtsSvgroup a =>
    exact (mts_reads (i := 0) hf.x (h.op_eq rfl)).decodes (.svgroup, a) h rfl rfl
  | mtsSdomain a =>
    exact (mts_reads (i := 0) hf.x (h.op_eq rfl)).decodes (.sdomain, a) h rfl rfl
  | br imm =>
    exact (br_reads (i := 1) hf.x hf.b (h.op_eq rfl)).decodes imm h rfl rfl
  | jmp a | ret a | join a | pdel a | mxwait a | shkill a =>
    exact (decTarget_reads (i := 0) (fun _ => ⟨rfl, rfl⟩) (h.op_eq rfl)).decodes a h rfl rfl
  | call a =>
    exact (call_reads (h.op_eq rfl)).decodes a h rfl rfl
  | callImm imm =>
    exact (callImm_reads hf.x hf.b (h.op_eq rfl)).decodes imm h rfl rfl
  | loop d imm =>
    exact (loop_reads (i := 1) hf.x hf.b (h.op_eq rfl)).decodes (d, imm) h rfl rfl
  | endAct | nop | tret | tabort =>
    exact (decBare_reads (i := 0) ⟨rfl, rfl⟩ (h.op_eq rfl)).decodes () h rfl rfl
  | ld sz ord sign d m =>
    exact (ld_reads (i := 0) hf.x (h.op_eq rfl)).decodes (sz, ord, sign, d, m) h rfl rfl
  | st sz ord d m =>
    exact (st_reads (i := 0) hf.x (h.op_eq rfl)).decodes (sz, ord, d, m) h rfl rfl
  | pref intent m =>
    exact (pref_reads (i := 0) hf.x (h.op_eq rfl)).decodes (intent, m) h rfl rfl
  | stx sz d m =>
    exact (stx_reads (i := 0) hf.x (h.op_eq rfl)).decodes (sz, d, m) h rfl rfl
  | cwb sc n1 m | cinv sc n1 m =>
    exact (decCache_reads (i := 0) hf.x (fun _ _ _ => ⟨rfl, rfl⟩) (h.op_eq rfl)).decodes (sc, n1, m) h rfl rfl
  | amo sz sc sign op o d m =>
    exact (amo_reads (i := 0) hf.x (h.op_eq rfl)).decodes (sz, sc, sign, op, o, d, m) h rfl rfl
  | cas sz sc sign o d m =>
    exact (cas_reads (i := 0) hf.x (h.op_eq rfl)).decodes (sz, sc, sign, o, d, m) h rfl rfl
  | fence o sc =>
    exact (fence_reads (i := 0) hf.x (h.op_eq rfl)).decodes (o, sc) h rfl rfl
  | bset d a b =>
    exact (bset_reads (i := 0) hf.x (h.op_eq rfl)).decodes (d, a, b) h rfl rfl
  | barr d b =>
    exact (barr_reads (i := 0) hf.x (h.op_eq rfl)).decodes (d, b) h rfl rfl
  | bwait a b =>
    exact (bwait_reads (i := 0) hf.x (h.op_eq rfl)).decodes (a, b) h rfl rfl
  | bsync b =>
    exact (bsync_reads (i := 0) hf.x (h.op_eq rfl)).decodes b h rfl rfl
  | bxch b =>
    exact (bxch_reads (i := 0) hf.x (h.op_eq rfl)).decodes b h rfl rfl
  | spawn a =>
    exact (spawn_reads (i := 0) (h.op_eq rfl)).decodes a h rfl rfl
  | send a b =>
    exact (send_reads (i := 0) (h.op_eq rfl)).decodes (a, b) h rfl rfl
  | arm d a b =>
    exact (arm_reads (i := 0) (h.op_eq rfl)).decodes (d, a, b) h rfl rfl
  | chset a ch =>
    exact (chset_reads (i := 0) hf.x (h.op_eq rfl)).decodes (a, ch) h rfl rfl
  | chmsk d a op =>
    exact (chmsk_reads (i := 0) hf.x (h.op_eq rfl)).decodes (d, a, op) h rfl rfl
  | trap code =>
    exact (trap_reads (i := 0) hf.x (h.op_eq rfl)).decodes code h rfl rfl
  | twait d a =>
    exact (twait_reads (i := 0) (h.op_eq rfl)).decodes (d, a) h rfl rfl
  | fpostServe a b fail =>
    exact (fpost_reads (i := 0) hf.x (h.op_eq rfl)).decodes (.inl (a, b, fail)) h rfl rfl
  | fpostPost a k =>
    exact (fpost_reads (i := 0) hf.x (h.op_eq rfl)).decodes (.inr (a, k)) h rfl rfl
  | tlbinv form =>
    cases form <;> exact (tlbinv_reads (i := 0) hf.x (h.op_eq rfl)).decodes _ h rfl rfl
  | shandQuery d =>
    exact (shand_reads (i := 0) hf.x (h.op_eq rfl)).decodes (.inl d) h rfl rfl
  | shand d a =>
    exact (shand_reads (i := 0) hf.x (h.op_eq rfl)).decodes (.inr (d, a)) h rfl rfl
  | pnew d a b sp =>
    exact (pnew_reads (i := 0) hf.x (h.op_eq rfl)).decodes (d, a, b, sp) h rfl rfl
  | pset d a b =>
    exact (pset_reads (i := 0) (h.op_eq rfl)).decodes (d, a, b) h rfl rfl
  | pld d a w =>
    exact (pld_reads (i := 0) hf.x (h.op_eq rfl)).decodes (d, a, w) h rfl rfl
  | pstw d a w =>
    exact (pstw_reads (i := 0) hf.x (h.op_eq rfl)).decodes (d, a, w) h rfl rfl
  | pqbox d a b sp =>
    exact (pqbox_reads (i := 0) hf.x (h.op_eq rfl)).decodes (d, a, b, sp) h rfl rfl
  | pqrad d a b sp =>
    exact (pqrad_reads (i := 0) hf.x (h.op_eq rfl)).decodes (d, a, b, sp) h rfl rfl
  | pqwait d a =>
    exact (pqwait_reads (i := 0) (h.op_eq rfl)).decodes (d, a) h rfl rfl
  | pres d a =>
    exact (pres_reads (i := 0) (h.op_eq rfl)).decodes (d, a) h rfl rfl
  | pmap d a sp =>
    exact (pmap_reads (i := 0) hf.x (h.op_eq rfl)).decodes (d, a, sp) h rfl rfl
  | pspcDelete d a sp =>
    exact (pspc_reads (i := 0) hf.x (h.op_eq rfl)).decodes (.inl (d, a, sp)) h rfl rfl
  | pspcDefine d a sp =>
    exact (pspc_reads (i := 0) hf.x (h.op_eq rfl)).decodes (.inr (d, a, sp)) h rfl rfl
  | cpy d a out ch =>
    exact (cpy_reads (i := 0) hf.x (h.op_eq rfl)).decodes (d, a, out, ch) h rfl rfl
  | cpwp d ch =>
    exact (cpwp_reads (i := 0) hf.x (h.op_eq rfl)).decodes (d, ch) h rfl rfl
  | cpwait d a ch =>
    exact (cpwait_reads (i := 0) hf.x (h.op_eq rfl)).decodes (d, a, ch) h rfl rfl
  | tgive a n1 e =>
    exact (tgive_reads (i := 0) hf.x (h.op_eq rfl)).decodes (a, n1, e) h rfl rfl
  | ttake a n1 =>
    exact (ttake_reads (i := 0) hf.x (h.op_eq rfl)).decodes (a, n1) h rfl rfl
  | mxq d a =>
    exact (mxq_reads (i := 0) (h.op_eq rfl)).decodes (d, a) h rfl rfl
  | shdef d a b =>
    exact (shdef_reads (i := 0) (h.op_eq rfl)).decodes (d, a, b) h rfl rfl
  | vadd t d a b k | vsub t d a b k | vmin t d a b k | vmax t d a b k | vadds t d a b k | vsubs t d a b k
  | vmul t d a b k | vmulh t d a b k | vand t d a b k | vor t d a b k | vxor t d a b k | vshl t d a b k
  | vshr t d a b k | vsar t d a b k =>
    exact (decV3_reads (i := 0) hf.x (fun _ _ _ _ _ => ⟨rfl, rfl⟩) (h.op_eq rfl)).decodes (t, d, a, b, k) h rfl rfl
  | vabs t d a k =>
    exact (vabs_reads (i := 0) hf.x (h.op_eq rfl)).decodes (t, d, a, k) h rfl rfl
  | vmadd t d a b c k =>
    exact (vmadd_reads (i := 0) hf.x (h.op_eq rfl)).decodes (t, d, a, b, c, k) h rfl rfl
  | vdot4 t d a b k =>
    exact (vdot4_reads (i := 0) hf.x (h.op_eq rfl)).decodes (t, d, a, b, k) h rfl rfl
  | vcmp t c d a b k =>
    exact (vcmp_reads (i := 0) hf.x (h.op_eq rfl)).decodes (t, c, d, a, b, k) h rfl rfl
  | vsel t d a b m =>
    exact (vsel_reads (i := 0) hf.x (h.op_eq rfl)).decodes (t, d, a, b, m) h rfl rfl
  | mand d a b na nb | mor d a b na nb | mxor d a b na nb =>
    exact (decMask_reads (i := 0) hf.x (fun _ _ _ _ _ => ⟨rfl, rfl⟩) (h.op_eq rfl)).decodes (d, a, b, na, nb) h rfl rfl
  | mpop t d a =>
    exact (mpop_reads (i := 0) hf.x (h.op_eq rfl)).decodes (t, d, a) h rfl rfl
  | vfadd t r d a b k | vfsub t r d a b k | vfmul t r d a b k | vfdiv t r d a b k =>
    exact (decVf3_reads (i := 0) hf.x (fun _ _ _ _ _ _ => ⟨rfl, rfl⟩) (h.op_eq rfl)).decodes (t, r, d, a, b, k) h rfl rfl
  | vffma t r d a b c k =>
    exact (vffma_reads (i := 0) hf.x (h.op_eq rfl)).decodes (t, r, d, a, b, c, k) h rfl rfl
  | vfmin t d a b k | vfmax t d a b k =>
    exact (decVf3n_reads (i := 0) hf.x (fun _ _ _ _ _ => ⟨rfl, rfl⟩) (h.op_eq rfl)).decodes (t, d, a, b, k) h rfl rfl
  | vfsqrt t r d a k | vfexp2 t r d a k =>
    exact (decVf2_reads (i := 0) hf.x (fun _ _ _ _ _ => ⟨rfl, rfl⟩) (h.op_eq rfl)).decodes (t, r, d, a, k) h rfl rfl
  | vfcmp t c d a b k =>
    exact (vfcmp_reads (i := 0) hf.x (h.op_eq rfl)).decodes (t, c, d, a, b, k) h rfl rfl
  | vcvt dt st r part d a k =>
    exact (vcvt_reads (i := 0) hf.x (h.op_eq rfl)).decodes (dt, st, r, part, d, a, k) h rfl rfl
  | vpkbx f d a b c sp blk =>
    exact (vpkbx_reads (i := 0) hf.x (h.op_eq rfl)).decodes (f, d, a, b, c, sp, blk) h rfl rfl
  | vunbx f d a b blk k =>
    exact (vunbx_reads (i := 0) hf.x (h.op_eq rfl)).decodes (f, d, a, b, blk, k) h rfl rfl
  | vtrl d a =>
    exact (vtrl_reads (i := 0) (h.op_eq rfl)).decodes (d, a) h rfl rfl
  | vbcast t d a k =>
    exact (vbcast_reads hf.x (h.op_eq rfl)).decodes (t, d, a, k) h rfl rfl
  | vbcastImm d imm =>
    exact (vbcastImm_reads hf.x hf.b (h.op_eq rfl)).decodes (d, imm) h rfl rfl
  | vperm t d a b k =>
    exact (vperm_reads (i := 0) hf.x (h.op_eq rfl)).decodes (t, d, a, b, k) h rfl rfl
  | vslide t d a b k =>
    exact (vslide_reads (i := 0) hf.x (h.op_eq rfl)).decodes (t, d, a, b, k) h rfl rfl
  | vred t r op d a m =>
    exact (vred_reads (i := 0) hf.x (h.op_eq rfl)).decodes (t, r, op, d, a, m) h rfl rfl
  | vins t d a b =>
    exact (vins_reads (i := 0) hf.x (h.op_eq rfl)).decodes (t, d, a, b) h rfl rfl
  | vext t d a b =>
    exact (vext_reads (i := 0) hf.x (h.op_eq rfl)).decodes (t, d, a, b) h rfl rfl
  | vld sz ord d m k | vlds sz ord d m k | vldx sz ord d m k =>
    exact (decVld_reads (i := 0) hf.x (fun _ _ _ _ _ => ⟨rfl, rfl⟩) (h.op_eq rfl)).decodes (sz, ord, d, m, k) h rfl rfl
  | vst sz ord d m k | vsts sz ord d m k | vstx sz ord d m k =>
    exact (decVst_reads (i := 0) hf.x (fun _ _ _ _ _ => ⟨rfl, rfl⟩) (h.op_eq rfl)).decodes (sz, ord, d, m, k) h rfl rfl
  | vrigid typed d a b k | vdist2 typed d a b k =>
    exact (decGeo_reads (i := 0) hf.x (fun _ _ _ _ _ => ⟨rfl, rfl⟩) (h.op_eq rfl)).decodes (typed, d, a, b, k) h rfl rfl
  | _ => exact absurd h.1 Bool.false_ne_true

end

end Sys2Proof
end

section
/-! Decoding and encoding agree (03 R43-R58): every encoding lies within its fields, fields within
their bits and words are the same thing, and so are words and twelve bytes. -/

namespace Sys2Proof

open Sys2Proof.Machine

/-! ## Every encoding lies within its fields -/

/-- Every part of an encoding is within its bits (R43). -/
def Enc.Fits (e : Enc) : Prop := e.op < 2 ^ 12 ∧ e.d < 2 ^ 8 ∧ e.a < 2 ^ 8 ∧ e.b < 2 ^ 8 ∧ e.x < 2 ^ 48

@[simp] theorem xT_lt {ty rnd cond rest : Nat} (ht : ty < 16) (hr : rnd < 4) (hc : cond < 16) (hs : rest < 0x4000000000) :
    xT ty rnd cond rest < 0x1000000000000 := by
  unfold xT
  omega

@[simp] theorem xM_lt {size : Nat} {o : Nat × Nat} {sg : Bool} {per : Nat} {disp : BitVec 32} (hz : size < 8) (h1 : o.1 < 4)
    (h2 : o.2 < 8) (h3 : per < 128) : xM size o sg per disp < 0x1000000000000 := by
  have := sg.toNat_lt
  unfold xM
  omega

theorem encImm_fits {op d a : Nat} (ho : op < 2 ^ 12) (hd : d < 2 ^ 8) (ha : a < 2 ^ 8) (imm : BitVec 56) :
    (encImm op d a imm).Fits :=
  ⟨ho, hd, ha, Nat.div_lt_of_lt_mul imm.isLt, Nat.mod_lt _ (Nat.two_pow_pos 48)⟩

/-- The cases are put together by what X holds: an immediate, a layout whose parts are single codes,
small numbers, small codes, and a layout that packs several parts into one. -/
theorem exists_encodeInstr_fits {ins : Instr} (h : WellFormed ins = true) : ∃ e, encodeInstr ins = some e ∧ e.Fits := by
  cases ins with
  | addImm | subImm | andImm | orImm | xorImm | andnImm | minImm | maxImm | mulImm | shlImm | shrImm | sarImm | rotlImm
  | movImm | loop | br | callImm | vbcastImm =>
    exact ⟨_, rfl, encImm_fits (by decide) (by simp) (by simp) _⟩
  | add | sub | and | or | xor | andn | min | max | mul | shl | shr | sar | rotl | mulh | div | rem | clz | ctz | popc
  | mov | bswap | cmp | fadd | fsub | fmul | fdiv | fmin | fmax | fsqrt | fround | fcmp | fcls | mtsSspill | mtsScarve
  | mtsSvgroup | mtsSdomain | jmp | call | ret | spawn | join | pdel | mxwait | shkill | endAct | nop | tret | tabort
  | ld | st | stx | send | arm | pset | shdef | twait | shand | pqwait | pres | mxq | shandQuery | vadd | vsub | vmin
  | vmax | vadds | vsubs | vmul | vmulh | vand | vor | vxor | vshl | vshr | vsar | vabs | vdot4 | vcmp | vsel | mpop
  | vfadd | vfsub | vfmul | vfdiv | vfmin | vfmax | vfsqrt | vfexp2 | vfcmp | vtrl | vbcast | vperm | vslide | vins
  | vext | vld | vlds | vldx | vst | vsts | vstx =>
    exact ⟨_, rfl, by simp [Enc.Fits, encI3, encI2, encF3, encV3, encVf, encVm, sregCode]⟩
  | vrigid typed | vdist2 typed => exact ⟨_, rfl, by cases typed <;> simp [Enc.Fits]⟩
  | sel | lea | pnew | pqbox | pqrad | bins | bset | pld | pstw | pmap | pspcDefine | pspcDelete | cpwait | bsync
  | bxch | trap | barr | cpwp | bwait | chset | ttake =>
    exact ⟨_, rfl, by simp [Enc.Fits]; omega⟩
  | cpy | pand | por | pxor | mfs | mts | fence | tgive | chmsk | fpostPost | fpostServe | mand | mor | mxor =>
    exact ⟨_, rfl, by grind [Enc.Fits, gS_lt, pS_lt, mS_lt, negs, sregCode_lt, fenceCode_lt, scopeBits_lt, engineCode_lt,
      chmskCode_lt, kindCode_lt, Bool.toNat_lt]⟩
  | madd | bext | fma | cvt | pref | cwb | cinv | amo | cas | vmadd | vffma | vcvt | vpkbx | vunbx | vred =>
    exact ⟨_, rfl, by grind [Enc.Fits, gS_lt, vS_lt, vgS_lt, xT_lt, mkT_le, xM_lt, intCode_lt, wideCode_lt, fpCode_lt,
      rndCode_lt, numCode_lt, laneIntCode_lt, laneCode1_lt, laneCode_lt, bxCode_lt, redCode_lt, sizeCode_lt, scopeBits_lt,
      amoCode_lt, rmwCode_lt]⟩
  | pmov form | tlbinv form =>
    cases form <;> exact ⟨_, rfl, by grind [Enc.Fits, gS_lt, pS_lt, negs, Bool.toNat_lt]⟩
  | _ => exact absurd h Bool.false_ne_true

/-! ## Fields and words (03 R43) -/

theorem fieldsOf_fits (w : Nat) : (fieldsOf w).Fits := by
  constructor <;> exact Nat.mod_lt _ (by decide)

theorem wordBits_fieldsOf {w : Nat} (hw : w < 2 ^ 96) : wordBits (fieldsOf w) = w := by
  simp only [wordBits, fieldsOf]
  omega

theorem wordBits_lt {f : Fields} (hf : f.Fits) : wordBits f < 2 ^ 96 := by
  obtain ⟨_, _, _, _, _, _, _, _⟩ := hf
  unfold wordBits
  omega

theorem fieldsOf_wordBits {f : Fields} (hf : f.Fits) : fieldsOf (wordBits f) = f := by
  obtain ⟨op, neg, pred, hints, d, a, b, x⟩ := f
  obtain ⟨_, _, _, _, _, _, _, _⟩ := hf
  simp only [fieldsOf, wordBits, Fields.mk.injEq] at *
  omega

theorem encFields_fits {e : Enc} (he : e.Fits) (neg : Bool) (pred : PReg) (hints : Byte) :
    (encFields neg pred hints e).Fits := by
  obtain ⟨ho, hd, ha, hb, hx⟩ := he
  exact ⟨ho, neg.toNat_lt, pred.isLt, hints.isLt, hd, ha, hb, hx⟩

/-- The guard and hints of fields beside an instruction. -/
def withInstr (f : Fields) (ins : Instr) : Decoded := ⟨f.neg == 1, Fin.ofNat 8 f.pred, BitVec.ofNat 8 f.hints, ins⟩

theorem withInstr_encFields (d : Decoded) (e : Enc) : withInstr (encFields d.neg d.pred d.hints e) d.instr = d := by
  obtain ⟨neg, pred, hints, ins⟩ := d
  simp only [withInstr, encFields, Decoded.mk.injEq, Fin.ofNat_val_eq_self, BitVec.ofNat_toNat, BitVec.setWidth_eq, and_true]
  cases neg <;> rfl

theorem encFields_withInstr {f : Fields} (hf : f.Fits) (ins : Instr) :
    encFields (withInstr f ins).neg (withInstr f ins).pred (withInstr f ins).hints ⟨f.op, f.d, f.a, f.b, f.x⟩ = f := by
  obtain ⟨op, neg, pred, hints, d, a, b, x⟩ := f
  have hn : (neg == 1).toNat = neg := by
    obtain rfl | rfl : neg = 0 ∨ neg = 1 := by have := hf.neg; dsimp only at this; omega
    · rfl
    · rfl
  have hp : pred % 8 = pred := Nat.mod_eq_of_lt hf.pred
  have hh : hints % 2 ^ 8 = hints := Nat.mod_eq_of_lt hf.hints
  simp only [encFields, withInstr, Fin.val_ofNat, BitVec.toNat_ofNat, hn, hp, hh]

theorem decodeBits_eq_ok {w : Nat} {d : Decoded} :
    decodeBits w = .ok d ↔ ∃ ins, decodeInstr (fieldsOf w) = .ok ins ∧ withInstr (fieldsOf w) ins = d := by
  simp [decodeBits, withInstr]

theorem encode_eq_some {w : Nat} {d : Decoded} :
    encode d = some w ↔ ∃ e, encodeInstr d.instr = some e ∧ wordBits (encFields d.neg d.pred d.hints e) = w :=
  Option.map_eq_some_iff

theorem encode_of_decodeBits {w : Nat} {d : Decoded} (hw : w < 2 ^ 96) (h : decodeBits w = .ok d) :
    WellFormed d.instr = true ∧ encode d = some w := by
  obtain ⟨ins, hi, rfl⟩ := decodeBits_eq_ok.mp h
  obtain ⟨hwf, he⟩ := decodeInstr_isWordOf (fieldsOf_fits w) hi
  exact ⟨hwf, encode_eq_some.mpr ⟨_, he, by rw [encFields_withInstr (fieldsOf_fits w), wordBits_fieldsOf hw]⟩⟩

theorem decodeBits_encode {d : Decoded} (h : WellFormed d.instr = true) :
    ∃ w, encode d = some w ∧ w < 2 ^ 96 ∧ decodeBits w = .ok d := by
  obtain ⟨e, he, hfit⟩ := exists_encodeInstr_fits h
  have hf := encFields_fits hfit d.neg d.pred d.hints
  have hword : IsWordOf (encFields d.neg d.pred d.hints e) d.instr := ⟨h, he⟩
  refine ⟨_, encode_eq_some.mpr ⟨e, he, rfl⟩, wordBits_lt hf, decodeBits_eq_ok.mpr ⟨d.instr, ?_, ?_⟩⟩
  · rw [fieldsOf_wordBits hf, hword.decodeInstr_eq hf]
  · rw [fieldsOf_wordBits hf, withInstr_encFields]

/-! ## Bytes (00 R3) -/

theorem bytesOfBits_eq_bytesOf (k : Nat) : ∀ w, bytesOfBits w k = bytesOf w k := by
  induction k with
  | zero => exact fun _ => rfl
  | succ k ih => exact fun w => congrArg _ (ih (w / 256))

theorem natOf_lt (bs : List Byte) : natOf bs < 256 ^ bs.length := by
  induction bs with
  | nil => decide
  | cons b bs ih =>
    have hb : b.toNat < 256 := b.isLt
    rw [natOf, List.length_cons, pow_succ]
    omega

theorem decode_eq_ok {bs rest : List Byte} {d : Decoded} :
    decode bs = .ok (d, rest) ↔ 12 ≤ bs.length ∧ decodeBits (natOf (bs.take 12)) = .ok d ∧ rest = bs.drop 12 := by
  rw [decode, bitsFromBytes_eq_natOf]
  split
  next h => exact ⟨nofun, fun h' => absurd h'.1 (Nat.not_le.mpr h)⟩
  next h =>
    cases decodeBits (natOf (bs.take 12)) <;> simp [Except.map, Nat.not_lt.mp h, eq_comm]

/-! ## The statement -/

theorem encodedDecodes : Claims.EncodedDecodes := by
  intro d rest h
  obtain ⟨w, he, hw, hd⟩ := decodeBits_encode h
  have hlen : (bytesOf w 12).length = 12 := length_bytesOf 12 w
  refine ⟨w, he, hw, decode_eq_ok.mpr ?_⟩
  rw [bytesOfBits_eq_bytesOf, List.take_left' hlen, List.drop_left' hlen, natOf_bytesOf,
    Nat.mod_eq_of_lt (show w < 256 ^ 12 from hw)]
  exact ⟨by simp, hd, rfl⟩

theorem decodedEncodes : Claims.DecodedEncodes := by
  intro bs rest d h
  obtain ⟨hlen, hd, hrest⟩ := decode_eq_ok.mp h
  have hw : natOf (bs.take 12) < 2 ^ 96 := by
    have := natOf_lt (bs.take 12)
    rwa [List.length_take, Nat.min_eq_left hlen] at this
  obtain ⟨hwf, he⟩ := encode_of_decodeBits hw hd
  exact ⟨hwf, he, hrest⟩

/-- Settles O4, by what each clause of the decoder reads: exactly the words that the encoder gives its instructions. -/
theorem encodingsAgree : Obligations.EncodingsAgree := ⟨encodedDecodes, decodedEncodes⟩

end Sys2Proof
end

section
/-! Proofs about the floating-point formats (04 R72): the sign and the magnitude of what is made, and the value of a magnitude. -/

namespace Sys2Proof.Machine

open Sys2Proof.Safety

/-! ## Sign and magnitude -/

theorem infMag_lt_signBit (t : FpTy) : infMag t < signBit t := by cases t <;> decide

theorem two_signBit_eq (t : FpTy) : 2 * signBit t = 2 ^ fpWidth t := by cases t <;> rfl

theorem two_pow_fpWidth_le (t : FpTy) : 2 ^ fpWidth t ≤ 2 ^ 32 := by cases t <;> decide

theorem fpMag_lt_signBit (t : FpTy) (x : FpBits) : fpMag t x < signBit t := Nat.mod_lt _ (Nat.two_pow_pos _)

section
variable {t : FpTy} {neg : Bool} {mag : Nat}

theorem fpMake_toNat (h : mag < signBit t) : (fpMake t neg mag).toNat = mag + if neg then signBit t else 0 := by
  have hw := two_signBit_eq t
  have h32 := two_pow_fpWidth_le t
  rw [fpMake, BitVec.toNat_ofNat, Nat.mod_eq_of_lt]
  split <;> omega

theorem fpMake_toNat_lt (h : mag < signBit t) : (fpMake t neg mag).toNat < 2 ^ fpWidth t := by
  have hw := two_signBit_eq t
  rw [fpMake_toNat h]
  split <;> omega

theorem fpMag_fpMake (h : mag < signBit t) : fpMag t (fpMake t neg mag) = mag := by
  rw [fpMag, fpMake_toNat h]
  cases neg
  · simp [Nat.mod_eq_of_lt h]
  · simp [Nat.mod_eq_of_lt h]

theorem fpNeg_eq_decide (t : FpTy) (x : FpBits) : fpNeg t x = decide (x.toNat / signBit t % 2 = 1) := by
  simp [fpNeg, BitVec.getLsbD, Nat.testBit, Nat.shiftRight_eq_div_pow, signBit, Nat.and_comm 1, Nat.and_one_is_mod]
  rfl

theorem fpNeg_fpMake (h : mag < signBit t) : fpNeg t (fpMake t neg mag) = neg := by
  have hpos : 0 < signBit t := Nat.two_pow_pos _
  rw [fpNeg_eq_decide, fpMake_toNat h]
  cases neg
  · simp [Nat.div_eq_of_lt h]
  · simp [Nat.add_div_right _ hpos, Nat.div_eq_of_lt h]

end

theorem fpTrunc_eq_fpMake (t : FpTy) (x : FpBits) : fpTrunc t x = fpMake t (fpNeg t x) (fpMag t x) := by
  have hmod : x.toNat % 2 ^ fpWidth t = fpMag t x + signBit t * (x.toNat / signBit t % 2) := by
    rw [← two_signBit_eq, Nat.mul_comm, Nat.mod_mul, fpMag]
  rw [fpTrunc, fpMake, hmod, fpNeg_eq_decide]
  rcases Nat.mod_two_eq_zero_or_one (x.toNat / signBit t) with h | h <;> simp [h]

theorem fpNeg_fpTrunc (t : FpTy) (x : FpBits) : fpNeg t (fpTrunc t x) = fpNeg t x := by
  rw [fpTrunc_eq_fpMake, fpNeg_fpMake (fpMag_lt_signBit t x)]

theorem fpMag_fpTrunc (t : FpTy) (x : FpBits) : fpMag t (fpTrunc t x) = fpMag t x := by
  rw [fpTrunc_eq_fpMake, fpMag_fpMake (fpMag_lt_signBit t x)]

theorem fpNeg_fpFlip (t : FpTy) (x : FpBits) : fpNeg t (fpFlip t x) = !fpNeg t x := by
  have hbit : (BitVec.ofNat 32 (signBit t)).getLsbD (fpWidth t - 1) = true := by cases t <;> rfl
  rw [← fpNeg_fpTrunc t x, fpNeg, fpFlip, BitVec.getLsbD_xor, hbit, Bool.xor_true]
  rfl

theorem fpMag_fpFlip (t : FpTy) (x : FpBits) : fpMag t (fpFlip t x) = fpMag t x := by
  have hmod : (BitVec.ofNat 32 (signBit t)).toNat % signBit t = 0 := by cases t <;> rfl
  rw [fpMag, fpFlip, BitVec.toNat_xor, signBit, Nat.xor_mod_two_pow, ← signBit, hmod, Nat.xor_zero]
  exact fpMag_fpTrunc t x

/-! ## The value of a magnitude -/

/-- The value of a magnitude, also of one that is no finite value's. -/
def magVal (t : FpTy) (m : Nat) : ℚ :=
  (if m / 2 ^ fracBits t = 0 then m % 2 ^ fracBits t else m % 2 ^ fracBits t + 2 ^ fracBits t : Nat) *
    2 ^ (minExp t + ((m / 2 ^ fracBits t - 1 : Nat) : Int))

/-- A sign on a magnitude m·2^e. -/
def signedVal (neg : Bool) (m : Nat) (e : Int) : ℚ := (if neg then -1 else 1) * m * 2 ^ e

theorem fpVal_eq_signedVal (t : FpTy) (x : FpBits) : fpVal t x = signedVal (fpNeg t x) (fpSig t x) (fpExp t x) := rfl

theorem fpVal_eq_magVal (t : FpTy) (x : FpBits) : fpVal t x = (if fpNeg t x then -1 else 1) * magVal t (fpMag t x) :=
  mul_assoc _ _ _

theorem magVal_fpMag (t : FpTy) (x : FpBits) : magVal t (fpMag t x) = fpSig t x * 2 ^ fpExp t x := rfl

/-- From n·2^fracBits on, magnitudes count places of weight 2^(minExp + n). -/
theorem magVal_add {t : FpTy} {n k : Nat} (hn : n = 0 ∨ 2 ^ fracBits t ≤ k) (hk : k ≤ 2 * 2 ^ fracBits t) :
    magVal t (n * 2 ^ fracBits t + k) = k * 2 ^ (minExp t + n) := by
  have hf := Nat.two_pow_pos (fracBits t)
  have hdiv : (n * 2 ^ fracBits t + k) / 2 ^ fracBits t = n + k / 2 ^ fracBits t := by
    rw [Nat.add_comm, Nat.add_mul_div_right _ _ hf, Nat.add_comm]
  have hmod : (n * 2 ^ fracBits t + k) % 2 ^ fracBits t = k % 2 ^ fracBits t := Nat.mul_add_mod_self_right ..
  rw [magVal, hdiv, hmod]
  rcases Nat.lt_or_ge k (2 ^ fracBits t) with h | h
  · obtain rfl : n = 0 := by omega
    simp [Nat.div_eq_of_lt h, Nat.mod_eq_of_lt h]
  · rcases Nat.lt_or_ge k (2 * 2 ^ fracBits t) with h2 | h2
    · have hq : k / 2 ^ fracBits t = 1 := Nat.div_eq_of_lt_le (by omega) (by omega)
      have hr : k % 2 ^ fracBits t + 2 ^ fracBits t = k := by
        have := Nat.mod_add_div k (2 ^ fracBits t)
        rw [hq] at this
        omega
      simp [hq, hr]
    · obtain rfl : k = 2 * 2 ^ fracBits t := by omega
      simp only [Nat.mul_div_cancel _ hf, Nat.mul_mod_left, zero_add, Nat.add_eq_zero_iff, OfNat.ofNat_ne_zero, and_false, if_false]
      rw [show n + 2 - 1 = n + 1 by omega]
      push_cast
      rw [← add_assoc, zpow_add_one₀ (by norm_num)]
      ring

theorem magVal_lt_succ (t : FpTy) (m : Nat) : magVal t m < magVal t (m + 1) := by
  have hf := Nat.two_pow_pos (fracBits t)
  have hm := Nat.div_add_mod m (2 ^ fracBits t)
  have hlt := Nat.mod_lt m hf
  obtain ⟨n, k, rfl, hn, hk⟩ : ∃ n k, m = n * 2 ^ fracBits t + k ∧ (n = 0 ∨ 2 ^ fracBits t ≤ k) ∧ k < 2 * 2 ^ fracBits t := by
    rcases Nat.eq_zero_or_pos (m / 2 ^ fracBits t) with h | h
    · exact ⟨0, m, by simp, .inl rfl, by rw [h] at hm; omega⟩
    · obtain ⟨j, hj⟩ := Nat.exists_eq_succ_of_ne_zero h.ne'
      refine ⟨j, 2 ^ fracBits t + m % 2 ^ fracBits t, ?_, .inr (by omega), by omega⟩
      rw [hj, Nat.mul_succ, Nat.mul_comm] at hm
      omega
  rw [add_assoc, magVal_add hn hk.le, magVal_add (by omega) (by omega)]
  have : (0 : ℚ) < 2 ^ (minExp t + n) := by positivity
  push_cast
  nlinarith

theorem magVal_strictMono (t : FpTy) : StrictMono (magVal t) := strictMono_nat_of_lt_succ (magVal_lt_succ t)

theorem magVal_zero (t : FpTy) : magVal t 0 = 0 := by simp [magVal]

theorem magVal_nonneg (t : FpTy) (m : Nat) : 0 ≤ magVal t m := by unfold magVal; positivity

theorem abs_fpVal (t : FpTy) (x : FpBits) : |fpVal t x| = magVal t (fpMag t x) := by
  rw [fpVal_eq_magVal]
  split <;> simp [abs_of_nonneg (magVal_nonneg t _)]

theorem magVal_infMag (t : FpTy) : magVal t (infMag t) = 2 ^ (expBias t + 1) := by
  have h := magVal_add (t := t) (n := 2 ^ expBits t - 2) (k := 2 ^ fracBits t) (.inr le_rfl) (by omega)
  have he : (2 ^ expBits t - 2) * 2 ^ fracBits t + 2 ^ fracBits t = infMag t := by cases t <;> rfl
  have hx : (fracBits t : Int) + (minExp t + (2 ^ expBits t - 2 : Nat)) = (expBias t + 1 : Nat) := by cases t <;> rfl
  rw [he] at h
  rw [h]
  push_cast
  rw [← zpow_natCast, ← zpow_add₀ (by norm_num), hx, zpow_natCast]

/-- The largest finite value. -/
theorem magVal_infMag_pred (t : FpTy) :
    magVal t (infMag t - 1) = (2 - 1 / 2 ^ fracBits t) * 2 ^ expBias t := by
  have h := magVal_add (t := t) (n := 2 ^ expBits t - 3) (k := 2 * 2 ^ fracBits t - 1)
    (.inr (by have := Nat.two_pow_pos (fracBits t); omega)) (by omega)
  have he : (2 ^ expBits t - 3) * 2 ^ fracBits t + (2 * 2 ^ fracBits t - 1) = infMag t - 1 := by cases t <;> rfl
  have hx : (expBias t : Int) = fracBits t + (minExp t + (2 ^ expBits t - 3 : Nat)) := by cases t <;> rfl
  rw [he] at h
  have hpow : (2 : ℚ) ^ expBias t = 2 ^ fracBits t * 2 ^ (minExp t + (2 ^ expBits t - 3 : Nat)) := by
    rw [← zpow_natCast, hx, zpow_add₀ (by norm_num), zpow_natCast]
  rw [h, hpow, Nat.cast_sub (Nat.one_le_iff_ne_zero.mpr (by positivity)), ← mul_assoc]
  congr 1
  push_cast
  field_simp

theorem infMag_pred_mod_two (t : FpTy) : (infMag t - 1) % 2 = 1 := by cases t <;> rfl

theorem infMag_pos (t : FpTy) : 0 < infMag t := by cases t <;> decide

end Sys2Proof.Machine
end

section
/-! Proofs that rounding meets its description by values (04 R73): a magnitude on a rising grid of values, its rounding by quotient
and remainder, and the rounded magnitude as a value of the format. -/

namespace Sys2Proof.Machine

open Sys2Proof.Safety

/-! ## Rounding to a grid -/

/-- Whether the magnitude `a`, which lies between the neighbours `lo`, number `k` of its grid, and `hi`, is rounded up. -/
def RoundsUp (r : Rnd) (neg : Bool) (k : Nat) (lo hi a : ℝ) : Prop :=
  match r with
  | .rne => lo + hi < 2 * a ∨ lo + hi = 2 * a ∧ k % 2 = 1
  | .rtz => False
  | .rup => neg = false ∧ lo < a
  | .rdn => neg = true ∧ lo < a

/-- The magnitude `a` rounded to a rising grid of values is its value number `m`. -/
def GridRounded (r : Rnd) (neg : Bool) (g : Nat → ℝ) (a : ℝ) (m : Nat) : Prop :=
  ∃ k, g k ≤ a ∧ a < g (k + 1) ∧
    (m = k ∧ ¬RoundsUp r neg k (g k) (g (k + 1)) a ∨ m = k + 1 ∧ RoundsUp r neg k (g k) (g (k + 1)) a)

/-- m·2^e stands for the magnitude `a`: the multiples of `g` compare with m as their values do with `a`. -/
def StandsFor (g m : Nat) (e : Int) (a : ℝ) : Prop :=
  ∀ c, g ∣ c → ((c : ℝ) * 2 ^ e ≤ a ↔ c ≤ m) ∧ ((c : ℝ) * 2 ^ e < a ↔ c < m)

theorem standsFor_self (m : Nat) (e : Int) : StandsFor 1 m e (m * 2 ^ e) := by
  have h : (0 : ℝ) < 2 ^ e := by positivity
  exact fun c _ => ⟨by rw [mul_le_mul_iff_left₀ h, Nat.cast_le], by rw [mul_lt_mul_iff_left₀ h, Nat.cast_lt]⟩

theorem StandsFor.eq {m : Nat} {e : Int} {a : ℝ} (h : StandsFor 1 m e a) : a = m * 2 ^ e :=
  le_antisymm (not_lt.mp fun hlt => (((h m (one_dvd m)).2.mp hlt).false)) ((h m (one_dvd m)).1.mpr le_rfl)

/-- A magnitude between the multiples n and n + 1 of 2^(e + 1) stands as 2n with a sticky place below. -/
theorem standsFor_sticky {n : Nat} {e : Int} {a : ℝ} {x : Nat} (hx : x ≤ 1)
    (hle : ∀ c : Nat, (c : ℝ) * 2 ^ (e + 1) ≤ a ↔ c ≤ n)
    (hlt : ∀ c : Nat, (c : ℝ) * 2 ^ (e + 1) < a ↔ c < n + x) : StandsFor 2 (2 * n + x) e a := by
  rintro _ ⟨c, rfl⟩
  have hc : ((2 * c : Nat) : ℝ) * 2 ^ e = c * 2 ^ (e + 1) := by
    rw [zpow_add_one₀ (by norm_num)]
    push_cast
    ring
  rw [hc, hle, hlt]
  omega

/-- A significand that is exact, or that has two places or more below the last place of any format, the sticky one among them. -/
def WideFor (t : FpTy) (g m : Nat) : Prop := g = 1 ∨ g = 2 ∧ 4 * 2 ^ fracBits t ≤ m

/-- Below a place of 2^q that is 2·2^n places up, the remainder of m decides as the magnitude itself. -/
theorem roundsUp_iff {r : Rnd} {neg : Bool} {g m n : Nat} {e q : Int} {a : ℝ} (h : StandsFor g m e a) (hg : g ∣ 2 ^ n)
    (hq : q = e + (n + 1 : Nat)) (k : Nat) (hk : k = m / 2 ^ (n + 1)) :
    RoundsUp r neg k (k * 2 ^ q) ((k + 1 : Nat) * 2 ^ q) a ↔ roundsUp r neg k (m % 2 ^ (n + 1)) (2 ^ (n + 1)) = true := by
  have hm : 2 * 2 ^ n * k + m % 2 ^ (n + 1) = m := by rw [hk, ← pow_succ', Nat.div_add_mod]
  have hpow : (2 : ℝ) ^ q = 2 * 2 ^ n * 2 ^ e := by
    rw [hq, zpow_add₀ (by norm_num), zpow_natCast, pow_succ']
    ring
  have hmid := h (2 ^ n * (2 * k + 1)) (hg.mul_right _)
  have hlow := h (2 ^ n * (2 * k)) (hg.mul_right _)
  push_cast at hmid hlow
  have hd : 2 ^ (n + 1) = 2 * 2 ^ n := pow_succ' 2 n
  have e1 : (k : ℝ) * 2 ^ q = 2 ^ n * (2 * k) * 2 ^ e := by rw [hpow]; ring
  have e2 : (k : ℝ) * 2 ^ q + (k + 1 : Nat) * 2 ^ q = 2 * (2 ^ n * (2 * k + 1) * 2 ^ e) := by rw [hpow]; push_cast; ring
  have hsplit : 2 ^ n * (2 * k + 1) = 2 * 2 ^ n * k + 2 ^ n := by ring
  have hsplit' : 2 ^ n * (2 * k) = 2 * 2 ^ n * k := by ring
  rw [hsplit] at hmid
  rw [hsplit'] at hlow
  rw [hd] at hm ⊢
  generalize m % (2 * 2 ^ n) = x, 2 * 2 ^ n * k = y at hm hmid hlow ⊢
  cases r with
  | rne =>
    have heq : 2 ^ n * (2 * k + 1) * 2 ^ e = a ↔ y + 2 ^ n = m := by
      rw [eq_iff_le_not_lt, hmid.1, hmid.2, eq_iff_le_not_lt]
    simp only [RoundsUp, roundsUp, e2, mul_lt_mul_iff_right₀ (zero_lt_two' ℝ), mul_right_inj' (two_ne_zero' ℝ), hmid.2, heq,
      Bool.or_eq_true, Bool.and_eq_true, decide_eq_true_eq]
    omega
  | rtz => simp [RoundsUp, roundsUp]
  | rup =>
    simp only [RoundsUp, roundsUp, e1, hlow.2, Bool.and_eq_true, Bool.not_eq_true', decide_eq_true_eq]
    exact and_congr_right fun _ => by omega
  | rdn =>
    simp only [RoundsUp, roundsUp, e1, hlow.2, Bool.and_eq_true, decide_eq_true_eq]
    exact and_congr_right fun _ => by omega

/-- Rounding by quotient and remainder rounds to the multiples of 2^q, where the places below 2^q are exact or two at least. -/
theorem roundAt_gridRounded {r : Rnd} {neg : Bool} {g m : Nat} {e q : Int} {a : ℝ} (h : StandsFor g m e a)
    (hg : g = 1 ∨ g = 2 ∧ e + 2 ≤ q) : GridRounded r neg (fun k => k * 2 ^ q) a (roundAt r neg m e q) := by
  have hq0 : (0 : ℝ) < 2 ^ q := by positivity
  by_cases hqe : q ≤ e
  · obtain rfl : g = 1 := by omega
    obtain ⟨n, hn⟩ := Int.eq_ofNat_of_zero_le (Int.sub_nonneg.mpr hqe)
    have ha : a = (m * 2 ^ n : Nat) * 2 ^ q := by
      rw [h.eq, show e = n + q by omega, zpow_add₀ (by norm_num), zpow_natCast]
      push_cast
      ring
    have hr : roundAt r neg m e q = m * 2 ^ n := by rw [roundAt, if_pos hqe, hn]; rfl
    refine ⟨m * 2 ^ n, ha.ge, ?_, .inl ⟨hr, ?_⟩⟩
    · rw [ha]; push_cast; linarith
    · rw [ha]
      cases r <;> simp [RoundsUp, two_mul, add_mul, hq0.le, hq0.ne']
  · obtain ⟨n, hn⟩ := Int.eq_ofNat_of_zero_le (show 0 ≤ q - e - 1 by omega)
    have hgn : g ∣ 2 ^ n := by
      rcases hg with rfl | ⟨rfl, h2⟩
      · exact one_dvd _
      · exact dvd_pow_self 2 (by omega)
    have hq : q = e + (n + 1 : Nat) := by omega
    have hd : (q - e).toNat = n + 1 := by omega
    have hplace (k : Nat) : (k : ℝ) * 2 ^ q = (2 ^ n * (2 * k) : Nat) * 2 ^ e := by
      rw [hq, zpow_add₀ (by norm_num), zpow_natCast, pow_succ']
      push_cast
      ring
    have hcmp (k : Nat) := h (2 ^ n * (2 * k)) (hgn.mul_right _)
    have hup := roundsUp_iff (r := r) (neg := neg) h hgn hq _ rfl
    have hr : roundAt r neg m e q =
        m / 2 ^ (n + 1) + (roundsUp r neg (m / 2 ^ (n + 1)) (m % 2 ^ (n + 1)) (2 ^ (n + 1))).toNat := by
      rw [roundAt, if_neg hqe, hd]
    have hdiv := Nat.div_add_mod m (2 ^ (n + 1))
    have hmod := Nat.mod_lt m (Nat.two_pow_pos (n + 1))
    refine ⟨m / 2 ^ (n + 1), ?_, ?_, ?_⟩ <;> beta_reduce
    · rw [hplace, (hcmp _).1, ← mul_assoc, ← pow_succ]
      exact Nat.mul_div_le ..
    · rw [hplace, ← not_le, (hcmp _).1, ← mul_assoc, ← pow_succ, not_le]
      exact Nat.lt_mul_div_succ m (Nat.two_pow_pos _)
    · rw [hr, hup]
      cases roundsUp r neg (m / 2 ^ (n + 1)) (m % 2 ^ (n + 1)) (2 ^ (n + 1)) <;> simp

/-! ## The grid of a format's magnitudes -/

/-- Between 2^fracBits and twice that many places of 2^(minExp + n), and below for n = 0, a format's grid is that of the places. -/
theorem gridRounded_magVal {t : FpTy} {r : Rnd} {neg : Bool} {a : ℝ} {m n : Nat}
    (h : GridRounded r neg (fun k => k * 2 ^ (minExp t + n)) a m) (hlo : n = 0 ∨ 2 ^ fracBits t * 2 ^ (minExp t + n) ≤ a)
    (hhi : a < 2 * 2 ^ fracBits t * 2 ^ (minExp t + n)) :
    GridRounded r neg (fun k => (magVal t k : ℝ)) a (n * 2 ^ fracBits t + m) := by
  obtain ⟨k, hk, hk1, hm⟩ := h
  have hw : (0 : ℝ) < 2 ^ (minExp t + n) := by positivity
  have hkhi : k < 2 * 2 ^ fracBits t := by
    have := hk.trans_lt hhi
    rw [mul_lt_mul_iff_left₀ hw] at this
    exact_mod_cast this
  have hklo : n = 0 ∨ 2 ^ fracBits t ≤ k := hlo.imp_right fun hlo => by
    have := hlo.trans_lt hk1
    rw [mul_lt_mul_iff_left₀ hw] at this
    exact Nat.lt_succ_iff.mp (by exact_mod_cast this)
  have hv : ((magVal t (n * 2 ^ fracBits t + k) : ℚ) : ℝ) = k * 2 ^ (minExp t + n) := by
    rw [magVal_add hklo hkhi.le]
    push_cast
    rfl
  have hv1 : ((magVal t (n * 2 ^ fracBits t + k + 1) : ℚ) : ℝ) = (k + 1 : Nat) * 2 ^ (minExp t + n) := by
    rw [add_assoc, magVal_add (hklo.imp_right Nat.le_succ_of_le) hkhi]
    push_cast
    rfl
  have hpar : (n * 2 ^ fracBits t + k) % 2 = k % 2 := by
    obtain ⟨f, hf⟩ : ∃ f, fracBits t = f + 1 := by cases t <;> exact ⟨_, rfl⟩
    rw [hf, pow_succ, ← mul_assoc, Nat.mul_add_mod_self_right]
  have hup : RoundsUp r neg (n * 2 ^ fracBits t + k) (k * 2 ^ (minExp t + n)) ((k + 1 : Nat) * 2 ^ (minExp t + n)) a ↔
      RoundsUp r neg k (k * 2 ^ (minExp t + n)) ((k + 1 : Nat) * 2 ^ (minExp t + n)) a := by
    cases r <;> simp only [RoundsUp, hpar]
  refine ⟨n * 2 ^ fracBits t + k, ?_⟩
  beta_reduce
  rw [hv, hv1, hup]
  exact ⟨hk, hk1, hm.imp (.imp_left fun h => by omega) (.imp_left fun h => by omega)⟩

section
variable {t : FpTy} {r : Rnd} {neg : Bool} {a : ℝ} {m : Nat}

/-- No value of the format lies nearer than the one rounded to, and of two as near the even one is taken. -/
theorem GridRounded.nearest (h : GridRounded .rne neg (fun k => (magVal t k : ℝ)) a m) (i : Nat) :
    |a - magVal t m| ≤ |a - magVal t i| ∧ (|a - magVal t m| = |a - magVal t i| → i ≠ m → m % 2 = 0) := by
  have hmono {i j : Nat} (hij : i ≤ j) : (magVal t i : ℝ) ≤ magVal t j := by exact_mod_cast (magVal_strictMono t).monotone hij
  have hstrict {i j : Nat} (hij : i < j) : (magVal t i : ℝ) < magVal t j := by exact_mod_cast magVal_strictMono t hij
  obtain ⟨k, hk, hk1, ⟨rfl, hup⟩ | ⟨rfl, hup⟩⟩ := h
  · simp only [RoundsUp, not_or, not_and, not_lt] at hup
    rw [abs_of_nonneg (sub_nonneg.mpr hk)]
    rcases Nat.lt_trichotomy i m with hi | rfl | hi
    · have := hstrict hi
      rw [abs_of_pos (by linarith)]
      exact ⟨by linarith, fun h => absurd h (by linarith)⟩
    · rw [abs_of_nonneg (sub_nonneg.mpr hk)]
      exact ⟨le_rfl, fun _ h => absurd rfl h⟩
    · have := hmono hi
      rw [abs_of_neg (by linarith)]
      refine ⟨by linarith, fun h _ => ?_⟩
      have := hup.2 (by linarith)
      omega
  · simp only [RoundsUp] at hup
    have hnear : magVal t k + magVal t (k + 1) ≤ 2 * a := hup.elim le_of_lt fun h => h.1.le
    rw [abs_of_neg (sub_neg.mpr hk1)]
    rcases Nat.lt_trichotomy i (k + 1) with hi | rfl | hi
    · have := hmono (Nat.lt_succ_iff.mp hi)
      rw [abs_of_nonneg (by linarith)]
      refine ⟨by linarith, fun h _ => ?_⟩
      have := hup.resolve_left (by linarith)
      omega
    · rw [abs_of_neg (sub_neg.mpr hk1)]
      exact ⟨le_rfl, fun _ h => absurd rfl h⟩
    · have := hstrict hi
      rw [abs_of_neg (by linarith)]
      exact ⟨by linarith, fun h => absurd h (by linarith)⟩

/-- To the nearest, a magnitude is rounded beyond the largest finite one from the middle between it and 2^(expBias + 1) on. -/
theorem GridRounded.infMag_le_iff (h : GridRounded .rne neg (fun k => (magVal t k : ℝ)) a m) :
    infMag t ≤ m ↔ (2 - 1 / 2 ^ (fracBits t + 1)) * 2 ^ expBias t ≤ a := by
  have hmono {i j : Nat} (hij : i ≤ j) : (magVal t i : ℝ) ≤ magVal t j := by exact_mod_cast (magVal_strictMono t).monotone hij
  have hpos := infMag_pos t
  have hstep : (magVal t (infMag t - 1) : ℝ) < magVal t (infMag t) := by
    exact_mod_cast magVal_strictMono t (Nat.sub_lt hpos one_pos)
  have hmid : (magVal t (infMag t - 1) + magVal t (infMag t) : ℝ) = 2 * ((2 - 1 / 2 ^ (fracBits t + 1)) * 2 ^ expBias t) := by
    rw [magVal_infMag, magVal_infMag_pred]
    push_cast
    ring
  have hodd := infMag_pred_mod_two t
  obtain ⟨k, hk, hk1, hm⟩ := h
  beta_reduce at hk hk1 hm
  rcases Nat.lt_trichotomy (k + 1) (infMag t) with hki | hki | hki
  · have h1 := hmono (show k + 1 ≤ infMag t - 1 by omega)
    exact iff_of_false (by omega) (not_le.mpr (by linarith))
  · rw [hki, show k = infMag t - 1 by omega, RoundsUp, hmid, mul_lt_mul_iff_right₀ two_pos, mul_right_inj' two_ne_zero] at hm
    constructor
    · intro hle
      obtain ⟨hm, -⟩ | ⟨-, hup⟩ := hm
      · omega
      · exact hup.elim le_of_lt fun h => h.1.le
    · intro hle
      obtain ⟨-, hup⟩ | ⟨hm, -⟩ := hm
      · exact absurd (hle.lt_or_eq.imp_right fun h => ⟨h, hodd⟩) hup
      · omega
  · have h1 := hmono (show infMag t ≤ k by omega)
    exact iff_of_true (by omega) (by linarith)

/-- A magnitude that is cut off is the largest one of a finite value that is not beyond it. -/
theorem GridRounded.below (h : GridRounded r neg (fun k => (magVal t k : ℝ)) a m) (hr : ∀ k lo hi, ¬RoundsUp r neg k lo hi a) :
    min m (infMag t - 1) < infMag t ∧ (magVal t (min m (infMag t - 1)) : ℝ) ≤ a ∧
      ∀ i, i < infMag t → (magVal t i : ℝ) ≤ a → magVal t i ≤ magVal t (min m (infMag t - 1)) := by
  have hpos := infMag_pos t
  obtain ⟨k, hk, hk1, ⟨rfl, -⟩ | ⟨-, hup⟩⟩ := h <;> beta_reduce at hk hk1
  · refine ⟨by omega, le_trans ?_ hk, fun i hi hia => (magVal_strictMono t).monotone (le_min ?_ (by omega))⟩
    · exact_mod_cast (magVal_strictMono t).monotone (min_le_left _ _)
    · have : magVal t i < magVal t (m + 1) := by exact_mod_cast hia.trans_lt hk1
      exact Nat.lt_succ_iff.mp ((magVal_strictMono t).lt_iff_lt.mp this)
  · exact absurd hup (hr _ _ _)

/-- A magnitude that is rounded up is the smallest one that is not below it. -/
theorem GridRounded.above (h : GridRounded r neg (fun k => (magVal t k : ℝ)) a m)
    (hr : ∀ k lo hi, RoundsUp r neg k lo hi a ↔ lo < a) :
    a ≤ magVal t m ∧ ∀ i, a ≤ magVal t i → m ≤ i := by
  obtain ⟨k, hk, hk1, ⟨rfl, hup⟩ | ⟨rfl, hup⟩⟩ := h <;> beta_reduce at hk hk1 hup <;> rw [hr] at hup
  · refine ⟨not_lt.mp hup, fun i hi => (magVal_strictMono t).le_iff_le.mp ?_⟩
    exact_mod_cast hk.trans hi
  · refine ⟨hk1.le, fun i hi => (magVal_strictMono t).lt_iff_lt.mp ?_⟩
    exact_mod_cast hup.trans_le hi

end

/-! ## The rounded value -/

section
variable {t : FpTy} {r : Rnd} {neg : Bool} {a v : ℝ} {m : Nat}

theorem fpVal_fpMake (h : m ≤ infMag t) : fpVal t (fpMake t neg m) = (if neg then -1 else 1) * magVal t m := by
  have hlt := h.trans_lt (infMag_lt_signBit t)
  rw [fpVal_eq_magVal, fpNeg_fpMake hlt, fpMag_fpMake hlt]

/-- What is made of a sign and a magnitude up to infinity is a value of the format, with that sign. -/
theorem fpMake_signed (hm : m ≤ infMag t) (ha : 0 < a) (hv : v = if neg then -a else a) :
    (fpNeg t (fpMake t neg m) = true ↔ v < 0) ∧ (fpMake t neg m).toNat < 2 ^ fpWidth t ∧ fpMag t (fpMake t neg m) ≤ infMag t := by
  have hlt := hm.trans_lt (infMag_lt_signBit t)
  refine ⟨?_, fpMake_toNat_lt hlt, (fpMag_fpMake hlt).trans_le hm⟩
  rw [fpNeg_fpMake hlt, hv]
  cases neg
  · simpa using ha.le
  · simpa using ha

theorem abs_signed (ha : 0 < a) (hv : v = if neg then -a else a) : |v| = a := by
  rw [hv]
  split <;> simp [abs_of_pos ha]

theorem fpFinite_fpMake (h : m ≤ infMag t) : fpFinite t (fpMake t neg m) ↔ m < infMag t := by
  rw [fpFinite, fpMag_fpMake (h.trans_lt (infMag_lt_signBit t))]

theorem fpRounded_rne (ha : 0 < a) (hv : v = if neg then -a else a) (h : GridRounded .rne neg (fun k => (magVal t k : ℝ)) a m) :
    FpRounded t .rne v (if infMag t ≤ m then fpMake t neg (infMag t) else fpMake t neg m) := by
  have habs := abs_signed ha hv
  split
  next hm =>
    obtain ⟨hneg, hlt, hle⟩ := fpMake_signed le_rfl ha hv
    refine ⟨hneg, hlt, hle, fun hfin => absurd ((fpFinite_fpMake le_rfl).mp hfin) (lt_irrefl _), fun _ => ?_⟩
    rw [habs]
    exact h.infMag_le_iff.mp hm
  next hm =>
    have hmlt := not_le.mp hm
    obtain ⟨hneg, hlt, hle⟩ := fpMake_signed hmlt.le ha hv
    refine ⟨hneg, hlt, hle, fun _ => ⟨?_, fun y hy => ?_⟩, fun hfin => absurd ((fpFinite_fpMake hmlt.le).mpr hmlt) hfin⟩
    · rw [habs]
      exact not_le.mp fun hle => hm (h.infMag_le_iff.mpr hle)
    · obtain ⟨hnear, htie⟩ := h.nearest (fpMag t y)
      have hx : |v - fpVal t (fpMake t neg m)| = |a - magVal t m| := by
        rw [fpVal_fpMake hmlt.le, hv]
        cases neg
        · simp
        · rw [← abs_neg]
          congr 1
          simp
          ring
      have hy' : |a - magVal t (fpMag t y)| ≤ |v - fpVal t y| := by
        have := abs_abs_sub_abs_le v (fpVal t y : ℝ)
        rwa [habs, ← Rat.cast_abs, abs_fpVal] at this
      rw [hx, fpMag_fpMake (hmlt.trans (infMag_lt_signBit t))]
      exact ⟨hnear.trans hy', fun heq => htie (le_antisymm hnear (hy'.trans heq.ge))⟩

theorem fpRounded_rtz (ha : 0 < a) (hv : v = if neg then -a else a) (h : GridRounded .rtz neg (fun k => (magVal t k : ℝ)) a m) :
    FpRounded t .rtz v (fpMake t neg (min m (infMag t - 1))) := by
  obtain ⟨hmlt, hle, hmax⟩ := h.below fun _ _ _ h => h
  obtain ⟨hneg, hlt, hinf⟩ := fpMake_signed hmlt.le ha hv
  refine ⟨hneg, hlt, hinf, (fpFinite_fpMake hmlt.le).mpr hmlt, ?_, fun y hy => ?_⟩
  all_goals rw [abs_signed ha hv, ← Rat.cast_abs, abs_fpVal]
  · rwa [fpMag_fpMake (hmlt.trans (infMag_lt_signBit t))]
  · rw [abs_fpVal, fpMag_fpMake (hmlt.trans (infMag_lt_signBit t))]
    exact hmax _ hy

theorem fpVal_cast (t : FpTy) (y : FpBits) :
    (fpVal t y : ℝ) = if fpNeg t y then -(magVal t (fpMag t y) : ℝ) else magVal t (fpMag t y) := by
  rw [fpVal_eq_magVal]
  split <;> simp

theorem fpVal_fpFlip (t : FpTy) (y : FpBits) : fpVal t (fpFlip t y) = -fpVal t y := by
  rw [fpVal_eq_magVal, fpVal_eq_magVal, fpNeg_fpFlip, fpMag_fpFlip]
  cases fpNeg t y <;> simp

theorem fpRounded_rup (ha : 0 < a) (hv : v = if neg then -a else a) (h : GridRounded .rup neg (fun k => (magVal t k : ℝ)) a m) :
    FpRounded t .rup v (fpMake t neg (if neg then min m (infMag t - 1) else min m (infMag t))) := by
  have hnn (i : Nat) : (0 : ℝ) ≤ magVal t i := by exact_mod_cast magVal_nonneg t i
  cases neg with
  | true =>
    obtain ⟨hmlt, hle, hmax⟩ := h.below (by simp [RoundsUp])
    obtain ⟨hneg, hlt, hinf⟩ := fpMake_signed hmlt.le ha hv
    refine ⟨hneg, hlt, hinf, fun _ => ⟨?_, fun y hy hvy => ?_⟩, fun hfin => absurd ((fpFinite_fpMake hmlt.le).mpr hmlt) hfin⟩
    · simpa [fpVal_fpMake hmlt.le, hv] using hle
    · rw [fpVal_cast, hv] at hvy
      rw [if_pos rfl, fpVal_fpMake hmlt.le, fpVal_eq_magVal]
      cases hn : fpNeg t y
      · simpa using (neg_nonpos.mpr (magVal_nonneg t (min m (infMag t - 1)))).trans (magVal_nonneg t (fpMag t y))
      · simpa using hmax _ hy (by simpa [hn] using hvy)
  | false =>
    obtain ⟨hle, hmin⟩ := h.above (by simp [RoundsUp])
    have hpos (y : FpBits) (hvy : v ≤ fpVal t y) : fpNeg t y = false ∧ m ≤ fpMag t y := by
      rw [fpVal_cast, hv] at hvy
      cases hn : fpNeg t y
      · exact ⟨rfl, hmin _ (by simpa [hn] using hvy)⟩
      · have := hnn (fpMag t y)
        simp [hn] at hvy
        linarith
    obtain ⟨hneg, hlt, hinf⟩ := fpMake_signed (min_le_right m (infMag t)) ha hv
    refine ⟨hneg, hlt, hinf, fun hfin => ?_, fun hfin => ⟨by simpa [hv] using ha, fun y hy => ?_⟩⟩
    · have hmlt : m < infMag t := by simpa [fpFinite_fpMake] using hfin
      simp only [Bool.false_eq_true, if_false, min_eq_left hmlt.le]
      refine ⟨by simpa [fpVal_fpMake hmlt.le, hv] using hle, fun y hy hvy => ?_⟩
      obtain ⟨hn, hmy⟩ := hpos y hvy
      rw [fpVal_fpMake hmlt.le, fpVal_eq_magVal, hn]
      simpa using (magVal_strictMono t).monotone hmy
    · have hmle : infMag t ≤ m := by simpa [fpFinite_fpMake] using hfin
      exact not_le.mp fun hvy => absurd (hmle.trans (hpos y hvy).2) (not_le.mpr hy)

/-- Rounding down is rounding up of the number turned over. -/
theorem fpRounded_rdn_of_rup (h : FpRounded t .rup (-v) (fpMake t (!neg) m)) (hv : v ≠ 0) (hm : m ≤ infMag t) :
    FpRounded t .rdn v (fpMake t neg m) := by
  have hlt := hm.trans_lt (infMag_lt_signBit t)
  have hval : fpVal t (fpMake t (!neg) m) = -fpVal t (fpMake t neg m) := by
    rw [fpVal_fpMake hm, fpVal_fpMake hm]
    cases neg <;> simp
  have hfin : fpFinite t (fpMake t (!neg) m) ↔ fpFinite t (fpMake t neg m) := by rw [fpFinite_fpMake hm, fpFinite_fpMake hm]
  have hflip {y : FpBits} (hy : fpFinite t y) : fpFinite t (fpFlip t y) := by rwa [fpFinite, fpMag_fpFlip]
  obtain ⟨hneg, -, -, hin, hout⟩ := h
  rw [hfin, hval] at hin
  rw [hfin] at hout
  refine ⟨?_, fpMake_toNat_lt hlt, (fpMag_fpMake hlt).trans_le hm, fun hf => ?_, fun hf => ?_⟩
  · rw [fpNeg_fpMake hlt] at hneg ⊢
    cases neg
    · simpa using hneg.mp rfl |>.le
    · simp only [Bool.not_true, Bool.false_eq_true, false_iff, not_lt, Left.nonneg_neg_iff] at hneg
      simpa using lt_of_le_of_ne hneg hv
  · obtain ⟨hle, hmin⟩ := hin hf
    push_cast at hle
    refine ⟨neg_le_neg_iff.mp hle, fun y hy hvy => ?_⟩
    have := hmin _ (hflip hy)
    rw [fpVal_fpFlip] at this
    push_cast at this
    exact neg_le_neg_iff.mp (this (neg_le_neg hvy))
  · obtain ⟨hpos, hall⟩ := hout hf
    refine ⟨neg_pos.mp hpos, fun y hy => ?_⟩
    have := hall _ (hflip hy)
    rw [fpVal_fpFlip] at this
    push_cast at this
    exact neg_lt_neg_iff.mp this

theorem GridRounded.rup_of_rdn {g : Nat → ℝ} (h : GridRounded .rdn neg g a m) : GridRounded .rup (!neg) g a m := by
  simpa [GridRounded, RoundsUp] using h

theorem fpRounded_rdn (ha : 0 < a) (hv : v = if neg then -a else a) (h : GridRounded .rdn neg (fun k => (magVal t k : ℝ)) a m) :
    FpRounded t .rdn v (fpMake t neg (if neg then min m (infMag t) else min m (infMag t - 1))) := by
  have hup := fpRounded_rup (v := -v) ha (by rw [hv]; cases neg <;> simp) h.rup_of_rdn
  have hv0 : v ≠ 0 := by rw [hv]; cases neg <;> simp [ha.ne']
  refine fpRounded_rdn_of_rup ?_ hv0 ?_
  · cases neg <;> simpa using hup
  · split <;> omega

/-- A magnitude rounded to the grid of the format, or what the mode makes of one beyond it, is the value rounded once. -/
theorem fpRounded_of_gridRounded (ha : 0 < a) (hv : v = if neg then -a else a)
    (h : GridRounded r neg (fun k => (magVal t k : ℝ)) a m) :
    FpRounded t r v (if infMag t ≤ m then fpOverflow t r neg else fpMake t neg m) := by
  have hpos := infMag_pos t
  cases r with
  | rne => exact fpRounded_rne ha hv h
  | rtz =>
    have := fpRounded_rtz ha hv h
    split
    · rwa [min_eq_right (by omega)] at this
    · rwa [min_eq_left (by omega)] at this
  | rup =>
    have := fpRounded_rup ha hv h
    split
    · rwa [min_eq_right (by omega), min_eq_right (by omega)] at this
    · rwa [min_eq_left (by omega), min_eq_left (by omega), ite_self] at this
  | rdn =>
    have := fpRounded_rdn ha hv h
    split
    · rwa [min_eq_right (by omega), min_eq_right (by omega)] at this
    · rwa [min_eq_left (by omega), min_eq_left (by omega), ite_self] at this

/-- The significand's places put the rounded number's exponent at q, with nothing below it that is not exact or sticky. -/
theorem fpRound_rounded {g : Nat} {e : Int} (hm : m ≠ 0) (ha : 0 < a) (hv : v = if neg then -a else a) (h : StandsFor g m e a)
    (hg : WideFor t g m) : FpRounded t r v (fpRound t r neg m e) := by
  have hlen1 := Nat.log2_self_le hm
  have hlen2 : m < 2 ^ (m.log2 + 1) := Nat.lt_log2_self
  obtain ⟨n, hn⟩ : ∃ n : Nat, max (minExp t) (e + (m.log2 + 1 : Nat) - (fracBits t + 1)) = minExp t + n :=
    ⟨(max (minExp t) (e + (m.log2 + 1 : Nat) - (fracBits t + 1)) - minExp t).toNat, by omega⟩
  have hg2 : g = 1 ∨ g = 2 ∧ fracBits t + 2 ≤ m.log2 := hg.imp_right fun ⟨hg, hle⟩ =>
    ⟨hg, by
      have : 2 ^ (fracBits t + 2) < 2 ^ (m.log2 + 1) := by rw [pow_add]; omega
      have := (Nat.pow_lt_pow_iff_right one_lt_two).mp this
      omega⟩
  have hdvd {k : Nat} (hk : k ≠ 0 ∨ g = 1) : g ∣ 2 ^ k := by
    rcases hg with rfl | ⟨rfl, -⟩
    · exact one_dvd _
    · exact dvd_pow_self 2 (by omega)
  have hlo : (2 : ℝ) ^ (m.log2 + e : Int) ≤ a := by
    rw [zpow_add₀ two_ne_zero, zpow_natCast]
    exact_mod_cast ((h (2 ^ m.log2) (hdvd (by omega))).1.mpr hlen1)
  have hhi : a < (2 : ℝ) ^ (m.log2 + 1 + e : Int) := by
    rw [zpow_add₀ two_ne_zero, ← not_le]
    exact fun hle => absurd hlen2 (not_lt.mpr ((h (2 ^ (m.log2 + 1)) (hdvd (by omega))).1.mp (by exact_mod_cast hle)))
  have hgrid := gridRounded_magVal (t := t) (n := n) (roundAt_gridRounded (r := r) (neg := neg) (q := minExp t + n) h (by omega))
    (by
      rcases Nat.eq_zero_or_pos n with h0 | h0
      · exact .inl h0
      · refine .inr ?_
        rw [← zpow_natCast, ← zpow_add₀ two_ne_zero, show (fracBits t + (minExp t + n) : Int) = m.log2 + e by omega]
        exact hlo)
    (hhi.trans_le (by
      rw [← pow_succ', ← zpow_natCast, ← zpow_add₀ two_ne_zero]
      exact zpow_le_zpow_right₀ one_le_two (by omega)))
  have := fpRounded_of_gridRounded ha hv hgrid
  rw [fpRound]
  simp only [if_neg hm, hn, add_sub_cancel_left, Int.toNat_natCast]
  exact this

end

end Sys2Proof.Machine
end

section
/-! Proofs that the arithmetic and the conversions round once (04 R73-R75; 05 R106, R110, R111). -/

namespace Sys2Proof.Machine

open Sys2Proof.Safety

/-! ## Finite operands -/

section
variable {t : FpTy} {a : FpBits}

theorem fpIsNan_of_finite (h : fpFinite t a) : fpIsNan t a = false := by simp [fpIsNan, Nat.le_of_lt h]

theorem fpIsInf_of_finite (h : fpFinite t a) : fpIsInf t a = false := by simp [fpIsInf, Nat.ne_of_lt h]

theorem fpVal_eq_zero_iff : fpVal t a = 0 ↔ fpMag t a = 0 := by
  rw [← abs_eq_zero, abs_fpVal, ← magVal_zero t, (magVal_strictMono t).injective.eq_iff]

theorem fpSig_eq_zero_iff : fpSig t a = 0 ↔ fpMag t a = 0 := by
  rw [← fpVal_eq_zero_iff, ← abs_eq_zero, abs_fpVal, magVal_fpMag, mul_eq_zero, Nat.cast_eq_zero,
    or_iff_left (zpow_ne_zero _ two_ne_zero)]

theorem withNans_of_forall_not {xs : List FpBits} {body : FpBits} (h : ∀ x ∈ xs, fpIsNan t x = false) :
    withNans t xs body = body := by
  rw [withNans, nanOf, List.filter_eq_nil_iff.mpr fun x hx => by simp [h x hx]]

theorem fpSig_lt (t : FpTy) (a : FpBits) : fpSig t a < 2 * 2 ^ fracBits t := by
  have := Nat.mod_lt (fpMag t a) (Nat.two_pow_pos (fracBits t))
  have hif (p : Prop) [Decidable p] (x y : Nat) (hx : x < y) : (if p then x else x + y) < 2 * y := by split <;> omega
  exact hif _ _ _ this

end

/-! ## Exact results -/

section
variable {t : FpTy} {r : Rnd}

theorem signedVal_eq_zero_iff {neg : Bool} {m : Nat} {e : Int} : signedVal neg m e = 0 ↔ m = 0 := by
  have : (2 : ℚ) ^ e ≠ 0 := zpow_ne_zero _ two_ne_zero
  cases neg <;> simp [signedVal, this]

theorem fpRound_zero (neg : Bool) (e : Int) : fpRound t r neg 0 e = fpMake t neg 0 := rfl

/-- An exact result is rounded once. -/
theorem fpRound_signedVal {neg : Bool} {m : Nat} {e : Int} (hm : m ≠ 0) :
    FpRounded t r (signedVal neg m e : ℚ) (fpRound t r neg m e) := by
  refine fpRound_rounded hm (a := m * 2 ^ e) (by positivity) ?_ (standsFor_self m e) (.inl rfl)
  cases neg <;> simp [signedVal]

theorem signedVal_mul (n1 n2 : Bool) (m1 m2 : Nat) (e1 e2 : Int) :
    signedVal n1 m1 e1 * signedVal n2 m2 e2 = signedVal (n1 != n2) (m1 * m2) (e1 + e2) := by
  rw [signedVal, signedVal, signedVal, zpow_add₀ two_ne_zero]
  cases n1 <;> cases n2 <;> simp <;> ring

/-- The sum that fpRoundSum forms at the lower of two exponents. -/
theorem signedVal_add (n1 n2 : Bool) (m1 m2 : Nat) (e1 e2 : Int) :
    signedVal n1 m1 e1 + signedVal n2 m2 e2 =
      ((signedNat n1 m1 * 2 ^ (e1 - min e1 e2).toNat + signedNat n2 m2 * 2 ^ (e2 - min e1 e2).toNat : Int) : ℚ) * 2 ^ min e1 e2 := by
  have hshift {n : Bool} {m : Nat} {e e' : Int} (h : e' ≤ e) :
      signedVal n m e = ((signedNat n m * 2 ^ (e - e').toNat : Int) : ℚ) * 2 ^ e' := by
    have hz : (2 : ℚ) ^ e = 2 ^ (e - e').toNat * 2 ^ e' := by
      rw [← zpow_natCast, ← zpow_add₀ two_ne_zero, Int.toNat_sub_of_le h, sub_add_cancel]
    rw [signedVal, hz, signedNat]
    cases n <;> simp <;> ring
  rw [hshift (min_le_left e1 e2), hshift (min_le_right e1 e2)]
  push_cast
  ring

theorem intCast_mul_eq_signedVal (s e : Int) : (s : ℚ) * 2 ^ e = signedVal (s < 0) s.natAbs e := by
  have hs : (s : ℚ) = (if s < 0 then -1 else 1) * (s.natAbs : ℚ) := by
    rw [Nat.cast_natAbs, Int.cast_abs]
    split
    next h => rw [abs_of_neg (by exact_mod_cast h)]; ring
    next h => rw [abs_of_nonneg (by exact_mod_cast not_lt.mp h)]; ring
  rw [signedVal, hs]
  simp

/-- A sum is rounded once; an exact zero has the operands' sign where they agree, else that of the mode (04 R73). -/
theorem fpRoundSum_rounded (n1 n2 : Bool) (m1 m2 : Nat) (e1 e2 : Int) :
    (signedVal n1 m1 e1 + signedVal n2 m2 e2 ≠ 0 →
      FpRounded t r (signedVal n1 m1 e1 + signedVal n2 m2 e2 : ℚ) (fpRoundSum t r n1 m1 e1 n2 m2 e2)) ∧
    (signedVal n1 m1 e1 + signedVal n2 m2 e2 = 0 →
      fpRoundSum t r n1 m1 e1 n2 m2 e2 = fpMake t (if n1 = n2 then n1 else r = .rdn) 0) := by
  rw [signedVal_add, fpRoundSum]
  generalize signedNat n1 m1 * 2 ^ (e1 - min e1 e2).toNat + signedNat n2 m2 * 2 ^ (e2 - min e1 e2).toNat = s
  have hzero : (s : ℚ) * 2 ^ min e1 e2 = 0 ↔ s = 0 := by simp [zpow_ne_zero]
  rw [Ne, hzero]
  constructor <;> intro h
  · rw [if_neg h, intCast_mul_eq_signedVal]
    exact fpRound_signedVal (Int.natAbs_ne_zero.mpr h)
  · simp only [if_pos h]

end

/-! ## Quotients and roots -/

/-- A quotient is formed to 64 places below its operands', with a sticky place below. -/
theorem standsFor_div {m d : Nat} (hd : d ≠ 0) (e : Int) :
    StandsFor 2 (2 * (m * 2 ^ 64 / d) + if m * 2 ^ 64 % d = 0 then 0 else 1) (e - 65) (m / d * 2 ^ e) := by
  have hd' : (0 : ℝ) < d := by exact_mod_cast Nat.pos_of_ne_zero hd
  have hz : (2 : ℝ) ^ e = 2 ^ 64 * 2 ^ (e - 65 + 1) := by
    rw [← zpow_natCast, ← zpow_add₀ two_ne_zero]
    congr 1
    omega
  have hw : (0 : ℝ) < 2 ^ (e - 65 + 1) := by positivity
  have hdm := Nat.div_add_mod (m * 2 ^ 64) d
  have hlt := Nat.mod_lt (m * 2 ^ 64) (Nat.pos_of_ne_zero hd)
  refine standsFor_sticky (by split <;> omega) (fun c => ?_) (fun c => ?_)
  · rw [hz, ← mul_assoc, mul_le_mul_iff_left₀ hw, Nat.le_div_iff_mul_le (Nat.pos_of_ne_zero hd), div_mul_eq_mul_div, le_div_iff₀ hd']
    exact_mod_cast Iff.rfl
  · rw [hz, ← mul_assoc, mul_lt_mul_iff_left₀ hw, div_mul_eq_mul_div, lt_div_iff₀ hd']
    have : c < m * 2 ^ 64 / d + (if m * 2 ^ 64 % d = 0 then 0 else 1) ↔ c * d < m * 2 ^ 64 := by
      split
      next h => rw [Nat.add_zero, Nat.lt_div_iff_mul_lt_of_dvd hd (Nat.dvd_of_mod_eq_zero h)]
      next h =>
        rw [Nat.lt_succ_iff, Nat.le_div_iff_mul_le (Nat.pos_of_ne_zero hd)]
        exact ⟨fun hle => lt_of_le_of_ne hle fun heq => h (by rw [← heq, Nat.mul_mod_left]), le_of_lt⟩
    rw [this]
    exact_mod_cast Iff.rfl

theorem two_pow_fracBits_le (t : FpTy) : 2 ^ fracBits t ≤ 2 ^ 23 := by cases t <;> decide

theorem fpDiv_rounded {t : FpTy} {r : Rnd} {tag : BitVec 22} {a b : FpBits} (ha : fpFinite t a) (hb : fpFinite t b)
    (ha0 : fpVal t a ≠ 0) (hb0 : fpVal t b ≠ 0) : FpRounded t r (fpVal t a / fpVal t b : ℚ) (fpDiv t r tag a b) := by
  have hma : fpSig t a ≠ 0 := fpSig_eq_zero_iff.not.mpr (fpVal_eq_zero_iff.not.mp ha0)
  have hmb : fpMag t b ≠ 0 := fpVal_eq_zero_iff.not.mp hb0
  have hmb' : fpSig t b ≠ 0 := fpSig_eq_zero_iff.not.mpr hmb
  have hf := two_pow_fracBits_le t
  have hf0 := Nat.two_pow_pos (fracBits t)
  have hlarge : 2 * 2 ^ fracBits t ≤ fpSig t a * 2 ^ 64 / fpSig t b := by
    rw [Nat.le_div_iff_mul_le (Nat.pos_of_ne_zero hmb')]
    calc 2 * 2 ^ fracBits t * fpSig t b ≤ 2 ^ 24 * 2 ^ 24 := Nat.mul_le_mul (by omega) (by have := fpSig_lt t b; omega)
      _ ≤ fpSig t a * 2 ^ 64 := by omega
  have hdiv : fpDiv t r tag a b = fpRound t r (fpNeg t a != fpNeg t b) (2 * (fpSig t a * 2 ^ 64 / fpSig t b) +
      if fpSig t a * 2 ^ 64 % fpSig t b = 0 then 0 else 1) (fpExp t a - fpExp t b - 65) := by
    rw [fpDiv, withNans_of_forall_not (by simp [fpIsNan_of_finite ha, fpIsNan_of_finite hb])]
    simp only [fpIsInf_of_finite ha, fpIsInf_of_finite hb, Bool.false_eq_true, if_false, hmb]
  rw [hdiv]
  refine fpRound_rounded (by omega) (a := fpSig t a / fpSig t b * 2 ^ (fpExp t a - fpExp t b)) (by positivity) ?_
    (standsFor_div hmb' _) (.inr ⟨rfl, by omega⟩)
  rw [fpVal_eq_signedVal, fpVal_eq_signedVal, signedVal, signedVal, zpow_sub₀ two_ne_zero]
  push_cast
  cases fpNeg t a <;> cases fpNeg t b <;> simp <;> field_simp

theorem rootBits_spec (x : Nat) : ∀ k r, r * r ≤ x → x < (r + 2 ^ k) * (r + 2 ^ k) →
    rootBits x r k * rootBits x r k ≤ x ∧ x < (rootBits x r k + 1) * (rootBits x r k + 1) := by
  intro k
  induction k with
  | zero => exact fun r hlo hhi => ⟨hlo, hhi⟩
  | succ k ih =>
    intro r hlo hhi
    rw [rootBits]
    split
    next h => exact ih _ h (by rwa [Nat.add_assoc, ← Nat.two_mul, ← pow_succ'])
    next h => exact ih _ hlo (not_le.mp h)

theorem rootNat_eq_sqrt {x k : Nat} (h : x < 2 ^ (2 * k)) : rootNat x k = x.sqrt := by
  have := rootBits_spec x k 0 (Nat.zero_le _) (by rwa [Nat.zero_add, ← pow_add, ← two_mul])
  exact Nat.eq_sqrt.mpr this

/-- A root is formed from a number of 64 places more and an even exponent, with a sticky place below. -/
theorem standsFor_sqrt (m : Nat) (e : Int) :
    StandsFor 2 (2 * (m * 2 ^ 64).sqrt + if (m * 2 ^ 64).sqrt * (m * 2 ^ 64).sqrt = m * 2 ^ 64 then 0 else 1) (e - 33)
      (Real.sqrt (m * 2 ^ (2 * e))) := by
  have hz : (2 : ℝ) ^ (2 * e) = 2 ^ 64 * (2 ^ (e - 33 + 1)) ^ 2 := by
    rw [← zpow_natCast, ← zpow_natCast, ← zpow_mul, ← zpow_add₀ two_ne_zero]
    congr 1
    omega
  have hw : (0 : ℝ) < (2 ^ (e - 33 + 1)) ^ 2 := by positivity
  refine standsFor_sticky (by split <;> omega) (fun c => ?_) (fun c => ?_)
  · rw [Real.le_sqrt (by positivity) (by positivity), hz, ← mul_assoc, mul_pow, mul_le_mul_iff_left₀ hw, Nat.le_sqrt, ← sq]
    exact_mod_cast Iff.rfl
  · rw [Real.lt_sqrt (by positivity), hz, ← mul_assoc, mul_pow, mul_lt_mul_iff_left₀ hw]
    have hroot := Nat.sqrt_le (m * 2 ^ 64)
    have : c < (m * 2 ^ 64).sqrt + (if (m * 2 ^ 64).sqrt * (m * 2 ^ 64).sqrt = m * 2 ^ 64 then 0 else 1) ↔ c * c < m * 2 ^ 64 := by
      split
      next h => rw [Nat.add_zero, ← Nat.mul_self_lt_mul_self_iff, h]
      next h =>
        rw [Nat.lt_succ_iff, Nat.le_sqrt]
        exact ⟨fun hle => lt_of_le_of_ne hle fun heq => h (by rw [← heq, Nat.sqrt_eq]), le_of_lt⟩
    rw [this, ← sq]
    exact_mod_cast Iff.rfl

theorem fpSqrt_rounded {t : FpTy} {r : Rnd} {tag : BitVec 22} {a : FpBits} (ha : fpFinite t a) (ha0 : 0 < fpVal t a) :
    FpRounded t r (Real.sqrt (fpVal t a : ℝ)) (fpSqrt t r tag a) := by
  have hm : fpMag t a ≠ 0 := fpVal_eq_zero_iff.not.mp ha0.ne'
  have hs : fpSig t a ≠ 0 := fpSig_eq_zero_iff.not.mpr hm
  have hn : fpNeg t a = false := by
    rw [fpVal_eq_magVal] at ha0
    by_contra hn
    rw [Bool.not_eq_false] at hn
    have := magVal_nonneg t (fpMag t a)
    simp [hn] at ha0
    linarith
  have hodd : fpExp t a % 2 = 0 ∨ fpExp t a % 2 = 1 := Int.emod_two_eq_zero_or_one _
  have hf := two_pow_fracBits_le t
  have hlt := fpSig_lt t a
  obtain ⟨m, hmdef⟩ : ∃ m, m = fpSig t a * 2 ^ (fpExp t a % 2).toNat := ⟨_, rfl⟩
  have hm0 : m ≠ 0 := by rw [hmdef]; positivity
  have hmlt : m < 2 ^ 32 := by
    rcases hodd with h | h <;> rw [hmdef, h] <;> norm_num <;> omega
  have hroot : rootNat (m * 2 ^ 64) 48 = (m * 2 ^ 64).sqrt := rootNat_eq_sqrt (by omega)
  have hlarge : 2 ^ 32 ≤ (m * 2 ^ 64).sqrt := Nat.le_sqrt.mpr (by omega)
  have hsqrt : fpSqrt t r tag a = fpRound t r false
      (2 * (m * 2 ^ 64).sqrt + if (m * 2 ^ 64).sqrt * (m * 2 ^ 64).sqrt = m * 2 ^ 64 then 0 else 1)
      ((fpExp t a - fpExp t a % 2) / 2 - 33) := by
    rw [fpSqrt, withNans_of_forall_not (by simp [fpIsNan_of_finite ha])]
    simp only [hm, hn, fpIsInf_of_finite ha, Bool.false_eq_true, if_false, ← hmdef, hroot]
  have hval : (fpVal t a : ℝ) = m * 2 ^ (2 * ((fpExp t a - fpExp t a % 2) / 2)) := by
    rw [fpVal_eq_signedVal, signedVal, hn, hmdef]
    have : (2 : ℝ) ^ fpExp t a = 2 ^ (fpExp t a % 2).toNat * 2 ^ (2 * ((fpExp t a - fpExp t a % 2) / 2)) := by
      rw [← zpow_natCast, ← zpow_add₀ two_ne_zero]
      congr 1
      omega
    push_cast
    rw [this]
    simp
    ring
  rw [hsqrt]
  refine fpRound_rounded (by omega) (Real.sqrt_pos.mpr (by exact_mod_cast ha0)) rfl ?_ (.inr ⟨rfl, by omega⟩)
  rw [hval]
  exact standsFor_sqrt m _

/-! ## The statement on results -/

section
variable {t : FpTy} {r : Rnd} {tag : BitVec 22} {a b c : FpBits}

theorem fpAdd_of_finite (ha : fpFinite t a) (hb : fpFinite t b) : fpAdd t r tag a b =
    fpRoundSum t r (fpNeg t a) (fpSig t a) (fpExp t a) (fpNeg t b) (fpSig t b) (fpExp t b) := by
  rw [fpAdd, withNans_of_forall_not (by simp [fpIsNan_of_finite ha, fpIsNan_of_finite hb])]
  simp [addBody, fpIsInf_of_finite ha, fpIsInf_of_finite hb]

theorem fpSub_eq_fpAdd_fpFlip (hb : fpIsNan t b = false) : fpSub t r tag a b = fpAdd t r tag a (fpFlip t b) := by
  have hb' : fpIsNan t (fpFlip t b) = false := by rwa [fpIsNan, fpMag_fpFlip]
  simp [fpSub, fpAdd, withNans, nanOf, List.filter_cons, hb, hb']

theorem fpMul_of_finite (ha : fpFinite t a) (hb : fpFinite t b) : fpMul t r tag a b =
    fpRound t r (fpNeg t a != fpNeg t b) (fpSig t a * fpSig t b) (fpExp t a + fpExp t b) := by
  rw [fpMul, withNans_of_forall_not (by simp [fpIsNan_of_finite ha, fpIsNan_of_finite hb])]
  simp [fpIsInf_of_finite ha, fpIsInf_of_finite hb]

theorem fpFma_of_finite (ha : fpFinite t a) (hb : fpFinite t b) (hc : fpFinite t c) : fpFma t r tag a b c =
    fpRoundSum t r (fpNeg t a != fpNeg t b) (fpSig t a * fpSig t b) (fpExp t a + fpExp t b) (fpNeg t c) (fpSig t c) (fpExp t c) := by
  rw [fpFma, withNans_of_forall_not (by simp [fpIsNan_of_finite ha, fpIsNan_of_finite hb, fpIsNan_of_finite hc])]
  simp [fmaBody, fpIsInf_of_finite ha, fpIsInf_of_finite hb, fpIsInf_of_finite hc]

theorem fpAdd_rounded (ha : fpFinite t a) (hb : fpFinite t b) :
    (fpVal t a + fpVal t b ≠ 0 → FpRounded t r (fpVal t a + fpVal t b : ℚ) (fpAdd t r tag a b)) ∧
    (fpVal t a + fpVal t b = 0 →
      fpAdd t r tag a b = fpMake t (if fpNeg t a = fpNeg t b then fpNeg t a else r = .rdn) 0) := by
  rw [fpAdd_of_finite ha hb]
  exact fpRoundSum_rounded ..

theorem fpSub_rounded (ha : fpFinite t a) (hb : fpFinite t b) :
    (fpVal t a - fpVal t b ≠ 0 → FpRounded t r (fpVal t a - fpVal t b : ℚ) (fpSub t r tag a b)) ∧
    (fpVal t a - fpVal t b = 0 →
      fpSub t r tag a b = fpMake t (if fpNeg t a = !fpNeg t b then fpNeg t a else r = .rdn) 0) := by
  have hb' : fpFinite t (fpFlip t b) := by rwa [fpFinite, fpMag_fpFlip]
  have := fpAdd_rounded (r := r) (tag := tag) ha hb'
  rwa [fpVal_fpFlip, fpNeg_fpFlip, ← sub_eq_add_neg, ← fpSub_eq_fpAdd_fpFlip (fpIsNan_of_finite hb)] at this

theorem fpMul_rounded (ha : fpFinite t a) (hb : fpFinite t b) :
    (fpVal t a * fpVal t b ≠ 0 → FpRounded t r (fpVal t a * fpVal t b : ℚ) (fpMul t r tag a b)) ∧
    (fpVal t a * fpVal t b = 0 → fpMul t r tag a b = fpMake t (fpNeg t a != fpNeg t b) 0) := by
  rw [fpMul_of_finite ha hb, fpVal_eq_signedVal, fpVal_eq_signedVal, signedVal_mul, Ne, signedVal_eq_zero_iff]
  exact ⟨fpRound_signedVal, fun h => by rw [h, fpRound_zero]⟩

theorem fpFma_rounded (ha : fpFinite t a) (hb : fpFinite t b) (hc : fpFinite t c) :
    (fpVal t a * fpVal t b + fpVal t c ≠ 0 →
      FpRounded t r (fpVal t a * fpVal t b + fpVal t c : ℚ) (fpFma t r tag a b c)) ∧
    (fpVal t a * fpVal t b + fpVal t c = 0 → fpFma t r tag a b c =
      fpMake t (if (fpNeg t a != fpNeg t b) = fpNeg t c then fpNeg t a != fpNeg t b else r = .rdn) 0) := by
  rw [fpFma_of_finite ha hb hc, fpVal_eq_signedVal, fpVal_eq_signedVal, fpVal_eq_signedVal, signedVal_mul]
  exact fpRoundSum_rounded ..

end

theorem roundedOnce : Claims.RoundedOnce := by
  intro t r tag a b c ha hb hc
  obtain ⟨hadd, hadd0⟩ := fpAdd_rounded (r := r) (tag := tag) ha hb
  obtain ⟨hsub, hsub0⟩ := fpSub_rounded (r := r) (tag := tag) ha hb
  obtain ⟨hmul, hmul0⟩ := fpMul_rounded (r := r) (tag := tag) ha hb
  obtain ⟨hfma, hfma0⟩ := fpFma_rounded (r := r) (tag := tag) ha hb hc
  exact ⟨hadd, hsub, hmul, hfma, fpDiv_rounded ha hb, fpSqrt_rounded ha, hadd0, hsub0, hmul0, hfma0⟩

end Sys2Proof.Machine
end

section
/-! Proofs that conversions round once (04 R73, R75; 05 R110, R111). -/

namespace Sys2Proof.Machine

open Sys2Proof.Safety

/-! ## Integers -/

theorem signedNat_cast (neg : Bool) (m : Nat) : (signedNat neg m : ℚ) = if neg then -(m : ℚ) else m := by
  cases neg <;> simp [signedNat]

section
variable {r : Rnd} {neg : Bool} {v a : ℚ} {m : Nat}

theorem intRounded_rne (hv : v = if neg then -a else a) (h : GridRounded .rne neg (fun k => (k : ℝ)) a m) :
    IntRounded .rne v (signedNat neg m) := by
  have hdist : |v - signedNat neg m| = |a - m| := by
    rw [signedNat_cast, hv]
    cases neg
    · rfl
    · rw [if_pos rfl, if_pos rfl, neg_sub_neg, abs_sub_comm]
  have hpar : signedNat neg m % 2 = 0 ↔ m % 2 = 0 := by cases neg <;> simp [signedNat] <;> omega
  rw [IntRounded, hdist, hpar]
  obtain ⟨k, hk, hk1, hm⟩ := h
  simp only [RoundsUp] at hk hk1 hm
  norm_cast at hk hk1 hm
  push_cast at hk hk1 hm
  obtain ⟨rfl, hup⟩ | ⟨rfl, hup⟩ := hm
  · simp only [not_or, not_and, not_lt] at hup
    rw [abs_of_nonneg (sub_nonneg.mpr hk)]
    refine ⟨by linarith, fun h => ?_⟩
    have := hup.2 (by linarith)
    omega
  · push_cast
    have := hup.elim le_of_lt fun h => h.1.le
    rw [abs_of_neg (by linarith)]
    refine ⟨by linarith, fun h => ?_⟩
    have := hup.resolve_left (by linarith)
    omega

/-- A magnitude rounded to the grid of the integers is, with its sign, the number rounded to an integer. -/
theorem intRounded_of_gridRounded (ha : 0 ≤ a) (hv : v = if neg then -a else a) (h : GridRounded r neg (fun k => (k : ℝ)) a m) :
    IntRounded r v (signedNat neg m) := by
  cases r with
  | rne => exact intRounded_rne hv h
  | rtz =>
    obtain ⟨k, hk, hk1, ⟨rfl, -⟩ | ⟨-, hup⟩⟩ := h
    · beta_reduce at hk hk1
      norm_cast at hk hk1
      push_cast at hk1
      rw [IntRounded, signedNat_cast, hv]
      cases neg <;> simp [abs_of_nonneg, ha, hk, hk1, mul_nonneg]
    · exact hup.elim
  | rup =>
    obtain ⟨k, hk, hk1, hm⟩ := h
    simp only [RoundsUp] at hk hk1 hm
    norm_cast at hk hk1 hm
    push_cast at hk1
    rw [IntRounded, signedNat_cast, hv]
    cases neg
    · obtain ⟨rfl, hup⟩ | ⟨rfl, hup⟩ := hm <;> simp at hup ⊢ <;> constructor <;> linarith
    · obtain ⟨rfl, -⟩ : m = k ∧ True := by simpa using hm
      constructor <;> simp <;> linarith
  | rdn =>
    obtain ⟨k, hk, hk1, hm⟩ := h
    simp only [RoundsUp] at hk hk1 hm
    norm_cast at hk hk1 hm
    push_cast at hk1
    rw [IntRounded, signedNat_cast, hv]
    cases neg
    · obtain ⟨rfl, -⟩ : m = k ∧ True := by simpa using hm
      exact ⟨hk, hk1⟩
    · obtain ⟨rfl, hup⟩ | ⟨rfl, hup⟩ := hm <;> simp at hup ⊢ <;> constructor <;> linarith

end

theorem intRounded_roundToNat (t : FpTy) (r : Rnd) (a : FpBits) :
    IntRounded r (fpVal t a) (signedNat (fpNeg t a) (roundToNat r (fpNeg t a) (fpSig t a) (fpExp t a))) := by
  refine intRounded_of_gridRounded (a := fpSig t a * 2 ^ fpExp t a) (by positivity) ?_ ?_
  · rw [fpVal_eq_magVal, magVal_fpMag]
    split <;> simp
  · have := roundAt_gridRounded (r := r) (neg := fpNeg t a) (q := 0) (standsFor_self (fpSig t a) (fpExp t a)) (.inl rfl)
    simpa [roundToNat] using this

/-! ## Integral values -/

/-- Every integer up to 2^fracBits is a value of the format. -/
theorem exists_magVal_eq_natCast {t : FpTy} {n : Nat} (hn0 : n ≠ 0) (hn : n ≤ 2 ^ fracBits t) :
    ∃ m, m < infMag t ∧ magVal t m = n := by
  have hlo := Nat.log2_self_le hn0
  have hhi : n < 2 ^ (n.log2 + 1) := Nat.lt_log2_self
  have hlog : n.log2 ≤ fracBits t := by
    by_contra hlt
    have := Nat.pow_le_pow_right two_pos (show fracBits t + 1 ≤ n.log2 by omega)
    rw [pow_succ] at this
    have := Nat.two_pow_pos (fracBits t)
    omega
  have hmin : minExp t + fracBits t ≤ 0 := by cases t <;> decide
  obtain ⟨j, hj⟩ := Int.eq_ofNat_of_zero_le (show 0 ≤ n.log2 - fracBits t - minExp t by omega)
  have hlo' : 2 ^ fracBits t ≤ n * 2 ^ (fracBits t - n.log2) := by
    calc 2 ^ fracBits t = 2 ^ n.log2 * 2 ^ (fracBits t - n.log2) := by rw [← pow_add, Nat.add_sub_cancel' hlog]
      _ ≤ _ := Nat.mul_le_mul_right _ hlo
  have hhi' : n * 2 ^ (fracBits t - n.log2) ≤ 2 * 2 ^ fracBits t := by
    calc n * 2 ^ (fracBits t - n.log2) ≤ 2 ^ (n.log2 + 1) * 2 ^ (fracBits t - n.log2) := Nat.mul_le_mul_right _ hhi.le
      _ = 2 * 2 ^ fracBits t := by rw [pow_succ', mul_assoc, ← pow_add, Nat.add_sub_cancel' hlog]
  have hval := magVal_add (t := t) (n := j) (.inr hlo') hhi'
  have hn' : magVal t (j * 2 ^ fracBits t + n * 2 ^ (fracBits t - n.log2)) = n := by
    rw [hval, Nat.cast_mul, Nat.cast_pow, Nat.cast_two, mul_assoc, ← zpow_natCast, ← zpow_add₀ two_ne_zero,
      show ((fracBits t - n.log2 : Nat) + (minExp t + j) : Int) = 0 by omega, zpow_zero, mul_one]
  refine ⟨_, (magVal_strictMono t).lt_iff_lt.mp ?_, hn'⟩
  rw [hn', magVal_infMag]
  have hlt : n < 2 ^ (expBias t + 1) := hn.trans_lt (Nat.pow_lt_pow_right one_lt_two (by cases t <;> decide))
  exact_mod_cast hlt

/-- A magnitude rounded to an integer is a value of the format. -/
theorem exists_magVal_eq_roundToNat {t : FpTy} {r : Rnd} {neg : Bool} {a : FpBits} (ha : fpFinite t a)
    (h0 : roundToNat r neg (fpSig t a) (fpExp t a) ≠ 0) :
    ∃ m, m < infMag t ∧ magVal t m = roundToNat r neg (fpSig t a) (fpExp t a) := by
  by_cases he : 0 ≤ fpExp t a
  · obtain ⟨n, hn⟩ := Int.eq_ofNat_of_zero_le he
    refine ⟨fpMag t a, ha, ?_⟩
    rw [magVal_fpMag, roundToNat, roundAt, if_pos he, sub_zero, hn]
    push_cast
    simp
  · refine exists_magVal_eq_natCast h0 ?_
    obtain ⟨n, hn⟩ : ∃ n : Nat, (0 - fpExp t a).toNat = n + 1 := ⟨(0 - fpExp t a).toNat - 1, by omega⟩
    have hlt := fpSig_lt t a
    have hq : fpSig t a / 2 ^ (n + 1) < 2 ^ fracBits t := by
      rw [Nat.div_lt_iff_lt_mul (by positivity), pow_succ, Nat.mul_comm (2 ^ n), ← mul_assoc, Nat.mul_comm _ 2]
      exact hlt.trans_le (Nat.le_mul_of_pos_right _ (by positivity))
    rw [roundToNat, roundAt, if_neg he, hn]
    have := Bool.toNat_le (roundsUp r neg (fpSig t a / 2 ^ (n + 1)) (fpSig t a % 2 ^ (n + 1)) (2 ^ (n + 1)))
    simp only
    omega

/-- What is cut off to a format is itself where it is a value of the format. -/
theorem fpVal_of_rounded_rtz {t : FpTy} {neg : Bool} {m n : Nat} {x : FpBits} (hm : m < infMag t) (hmn : magVal t m = n) (hn : n ≠ 0)
    (h : FpRounded t .rtz (signedVal neg n 0 : ℚ) x) : fpVal t x = signedNat neg n ∧ fpNeg t x = neg := by
  obtain ⟨hneg, -, -, hfin, hle, hmax⟩ := h
  have habs : |(signedVal neg n 0 : ℚ)| = n := by cases neg <;> simp [signedVal]
  have hsign : fpNeg t x = neg := by
    rw [Bool.eq_iff_iff, hneg]
    have : (0 : ℝ) < n := by exact_mod_cast Nat.pos_of_ne_zero hn
    cases neg
    · simp [signedVal]
    · simpa [signedVal] using Nat.pos_of_ne_zero hn
  rw [← Rat.cast_abs, ← Rat.cast_abs, habs, abs_fpVal] at hle
  have hge := hmax (fpMake t false m) ((fpFinite_fpMake hm.le).mpr hm) (by
    rw [← Rat.cast_abs, ← Rat.cast_abs, abs_fpVal, fpMag_fpMake (hm.trans (infMag_lt_signBit t)), habs, hmn])
  rw [abs_fpVal, abs_fpVal, fpMag_fpMake (hm.trans (infMag_lt_signBit t)), hmn] at hge
  have hval : magVal t (fpMag t x) = n := le_antisymm (by exact_mod_cast hle) hge
  refine ⟨?_, hsign⟩
  rw [fpVal_eq_magVal, hsign, hval]
  cases neg <;> simp [signedNat]

theorem fpRoundInt_spec {t : FpTy} {r : Rnd} {a : FpBits} (ha : fpFinite t a) :
    fpVal t (fpRoundInt t r a) = signedNat (fpNeg t a) (roundToNat r (fpNeg t a) (fpSig t a) (fpExp t a)) ∧
    fpNeg t (fpRoundInt t r a) = fpNeg t a := by
  have hround : fpRoundInt t r a = if fpMag t a = 0 then fpTrunc t a
      else fpRound t .rtz (fpNeg t a) (roundToNat r (fpNeg t a) (fpSig t a) (fpExp t a)) 0 := by
    rw [fpRoundInt, withNans_of_forall_not (by simp [fpIsNan_of_finite ha])]
    simp [fpIsInf_of_finite ha]
  rw [hround]
  split
  next h0 =>
    have hs := fpSig_eq_zero_iff.mpr h0
    have hr : roundToNat r (fpNeg t a) 0 (fpExp t a) = 0 := by
      rw [roundToNat, roundAt]
      split
      · simp
      · cases r <;> simp [roundsUp]
    rw [hs, hr, fpNeg_fpTrunc]
    refine ⟨?_, rfl⟩
    rw [fpVal_eq_zero_iff.mpr (by rwa [fpMag_fpTrunc])]
    simp [signedNat]
  next h0 =>
    by_cases hr : roundToNat r (fpNeg t a) (fpSig t a) (fpExp t a) = 0
    · rw [hr, fpRound_zero, fpNeg_fpMake (Nat.two_pow_pos _), fpVal_fpMake (Nat.zero_le _), magVal_zero]
      simp [signedNat]
    · obtain ⟨m, hm, hmn⟩ := exists_magVal_eq_roundToNat ha hr
      exact fpVal_of_rounded_rtz hm hmn hr (fpRound_signedVal hr)

theorem intToFp_rounded {t : FpTy} {r : Rnd} {n : Int} (h : n ≠ 0) : FpRounded t r (n : ℚ) (intToFp t r n) := by
  have := fpRound_signedVal (t := t) (r := r) (neg := n < 0) (e := 0) (Int.natAbs_ne_zero.mpr h)
  rwa [← intCast_mul_eq_signedVal, zpow_zero, mul_one] at this

theorem fpToFp_of_finite {t u : FpTy} {r : Rnd} {a : FpBits} (ha : fpFinite t a) :
    fpToFp u t r a = fpRound u r (fpNeg t a) (fpSig t a) (fpExp t a) := by
  simp [fpToFp, fpIsNan_of_finite ha, fpIsInf_of_finite ha]

theorem fpToInt_of_finite {t : FpTy} {r : Rnd} {a : FpBits} {sg : Bool} {w : Nat} (ha : fpFinite t a) :
    fpToInt sg w t r a = clampInt sg w (signedNat (fpNeg t a) (roundToNat r (fpNeg t a) (fpSig t a) (fpExp t a))) := by
  simp [fpToInt, fpIsNan_of_finite ha, fpIsInf_of_finite ha]

theorem conversionsRound : Claims.ConversionsRound := by
  intro t u r n a sg w ha
  obtain ⟨hval, hneg⟩ := fpRoundInt_spec (r := r) ha
  refine ⟨intToFp_rounded, ?_, fun hv => ?_, fun hv => ?_, _, intRounded_roundToNat t r a, fpToInt_of_finite ha, hval, hneg⟩
  · cases t <;> cases r <;> rfl
  · rw [fpToFp_of_finite ha]
    exact fpRound_signedVal (fpSig_eq_zero_iff.not.mpr (fpVal_eq_zero_iff.not.mp hv))
  · rw [fpToFp_of_finite ha, fpSig_eq_zero_iff.mpr (fpVal_eq_zero_iff.mp hv), fpRound_zero]

/-- Settles O14: an exact or sticky significand rounded by quotient and remainder is the exact value rounded once. -/
theorem floatingPointRounds : Obligations.FloatingPointRounds := ⟨roundedOnce, conversionsRound⟩

end Sys2Proof.Machine
end

section
/-! Proofs about infinities, NaNs and the floating-point order (04 R74-R78; 05 R106-R111). -/

namespace Sys2Proof.Machine

open Sys2Proof.Safety

/-! ## NaN operands -/

/-- Of two operands the one that a result takes if either is a NaN (04 R77, R78). -/
def operandNan (t : FpTy) (x y : FpBits) : FpBits :=
  if fpIsNan t x ∧ (¬fpIsNan t y ∨ t ≠ .f32 ∨ x.toNat % 2 ^ 22 ≤ y.toNat % 2 ^ 22) then x else y

section
variable {t : FpTy} {a b c body : FpBits}

theorem fpIsNan_iff : fpIsNan t a = true ↔ infMag t < fpMag t a := by simp [fpIsNan]

theorem fpIsNan_eq_false (h : ¬infMag t < fpMag t a) : fpIsNan t a = false := by simpa [fpIsNan] using h

theorem withNans_single (h : fpIsNan t a) : withNans t [a] body = fpQuiet t a := by
  cases t <;> simp [withNans, nanOf, h]

theorem nanSmaller_eq (x y : FpBits) : nanSmaller x y = if x.toNat % 2 ^ 22 ≤ y.toNat % 2 ^ 22 then x else y := by
  simp only [nanSmaller, ← not_le, ite_not]

theorem operandNan_of_not_left (h : fpIsNan t a = false) : operandNan t a b = b := by simp [operandNan, h]

theorem operandNan_of_not_right (ha : fpIsNan t a) (hb : fpIsNan t b = false) : operandNan t a b = a := by
  simp [operandNan, ha, hb]

theorem operandNan_f32 (ha : fpIsNan .f32 a) (hb : fpIsNan .f32 b) : operandNan .f32 a b = nanSmaller a b := by
  simp [operandNan, nanSmaller_eq, ha, hb]

theorem operandNan_narrow (ht : t ≠ .f32) (ha : fpIsNan t a) : operandNan t a b = a := by simp [operandNan, ha, ht]

theorem nanSmaller_assoc (a b c : FpBits) : nanSmaller (nanSmaller a b) c = nanSmaller a (nanSmaller b c) := by
  simp only [nanSmaller_eq]
  split_ifs <;> grind

theorem fpIsNan_nanSmaller (hb : fpIsNan t b) (hc : fpIsNan t c) : fpIsNan t (nanSmaller b c) := by
  rw [nanSmaller]
  split <;> assumption

theorem nanOf_of_not {xs : List FpBits} (h : fpIsNan t a = false) : nanOf t (a :: xs) = nanOf t xs := by
  simp [nanOf, h]

/-- The operand NaN of a list is that of its first NaN and of the operand NaN of the rest. -/
theorem nanOf_pair (h : fpIsNan t a ∨ fpIsNan t b) : nanOf t [a, b] = some (fpQuiet t (operandNan t a b)) := by
  cases ha : fpIsNan t a with
  | false =>
    have hb : fpIsNan t b := by simpa [ha] using h
    rw [operandNan_of_not_left ha, nanOf_of_not ha]
    cases t <;> simp [nanOf, hb]
  | true =>
    cases hb : fpIsNan t b with
    | false =>
      rw [operandNan_of_not_right ha hb]
      cases t <;> simp [nanOf, ha, hb]
    | true => cases t <;> simp [nanOf, ha, hb, operandNan_f32, operandNan_narrow]

theorem nanOf_triple (h : fpIsNan t a ∨ fpIsNan t b ∨ fpIsNan t c) :
    nanOf t [a, b, c] = some (fpQuiet t (operandNan t a (operandNan t b c))) := by
  cases ha : fpIsNan t a with
  | false => rw [operandNan_of_not_left ha, nanOf_of_not ha, nanOf_pair (by simpa [ha] using h)]
  | true =>
    cases hb : fpIsNan t b with
    | false =>
      rw [operandNan_of_not_left hb, ← nanOf_pair (.inl ha)]
      simp [nanOf, List.filter_cons, ha, hb]
    | true =>
      cases hc : fpIsNan t c with
      | false =>
        rw [operandNan_of_not_right hb hc, ← nanOf_pair (.inl ha)]
        simp [nanOf, ha, hb, hc]
      | true =>
        cases t
        · simp [nanOf, ha, hb, hc, operandNan_narrow]
        · simp [nanOf, ha, hb, hc, operandNan_narrow]
        · rw [operandNan_f32 hb hc, operandNan_f32 ha (fpIsNan_nanSmaller hb hc), ← nanSmaller_assoc]
          simp [nanOf, ha, hb, hc]

theorem withNans_of_nanOf {xs : List FpBits} {x : FpBits} (h : nanOf t xs = some x) : withNans t xs body = x := by
  rw [withNans, h]

/-- A NaN operand decides the result of every operation. -/
theorem arithmetic_nan {r : Rnd} {tag : BitVec 22} (h : fpIsNan t a ∨ fpIsNan t b) :
    fpAdd t r tag a b = fpQuiet t (operandNan t a b) ∧ fpSub t r tag a b = fpQuiet t (operandNan t a b) ∧
    fpMul t r tag a b = fpQuiet t (operandNan t a b) ∧ fpDiv t r tag a b = fpQuiet t (operandNan t a b) :=
  have h := nanOf_pair h
  ⟨withNans_of_nanOf h, withNans_of_nanOf h, withNans_of_nanOf h, withNans_of_nanOf h⟩

end

/-! ## Infinities -/

section
variable {t u : FpTy} {r : Rnd} {tag : BitVec 22} {a b c : FpBits}

theorem fpIsInf_iff : fpIsInf t a = true ↔ fpMag t a = infMag t := by simp [fpIsInf]

theorem fpIsNan_of_inf (h : fpMag t a = infMag t) : fpIsNan t a = false := by simp [fpIsNan, h]

theorem fpIsNan_of_zero (h : fpMag t a = 0) : fpIsNan t a = false := by simp [fpIsNan, h]

theorem fpTrunc_of_inf (h : fpMag t a = infMag t) : fpTrunc t a = fpMake t (fpNeg t a) (infMag t) := by
  rw [fpTrunc_eq_fpMake, h]

/-- The sum with an infinity on the left. -/
theorem fpAdd_inf_left (ha : fpMag t a = infMag t) (hb : fpIsNan t b = false) : fpAdd t r tag a b =
    if fpMag t b = infMag t ∧ fpNeg t b ≠ fpNeg t a then nanCreated t tag else fpMake t (fpNeg t a) (infMag t) := by
  rw [fpAdd, withNans_of_forall_not (by simp [fpIsNan_of_inf ha, hb]), addBody, if_pos (fpIsInf_iff.mpr ha), fpTrunc_of_inf ha]
  simp [fpIsInf]

theorem fpAdd_inf_right (ha : fpFinite t a) (hb : fpMag t b = infMag t) : fpAdd t r tag a b = fpMake t (fpNeg t b) (infMag t) := by
  rw [fpAdd, withNans_of_forall_not (by simp [fpIsNan_of_finite ha, fpIsNan_of_inf hb]), addBody, fpIsInf_of_finite ha,
    if_pos (fpIsInf_iff.mpr hb), fpTrunc_of_inf hb]
  rfl

theorem fpSub_inf_left (ha : fpMag t a = infMag t) (hb : fpIsNan t b = false) : fpSub t r tag a b =
    if fpMag t b = infMag t ∧ fpNeg t b = fpNeg t a then nanCreated t tag else fpMake t (fpNeg t a) (infMag t) := by
  have hb' : fpIsNan t (fpFlip t b) = false := by rwa [fpIsNan, fpMag_fpFlip]
  rw [fpSub_eq_fpAdd_fpFlip hb, fpAdd_inf_left ha hb', fpMag_fpFlip, fpNeg_fpFlip]
  simp

theorem fpSub_inf_right (ha : fpFinite t a) (hb : fpMag t b = infMag t) :
    fpSub t r tag a b = fpMake t (!fpNeg t b) (infMag t) := by
  rw [fpSub_eq_fpAdd_fpFlip (fpIsNan_of_inf hb), fpAdd_inf_right ha (by rwa [fpMag_fpFlip]), fpNeg_fpFlip]

theorem fpMul_inf (h : fpMag t a = infMag t ∨ fpMag t b = infMag t) (ha : fpIsNan t a = false) (hb : fpIsNan t b = false) :
    fpMul t r tag a b =
      if fpMag t a = 0 ∨ fpMag t b = 0 then nanCreated t tag else fpMake t (fpNeg t a != fpNeg t b) (infMag t) := by
  rw [fpMul, withNans_of_forall_not (by simp [ha, hb])]
  simp [fpIsInf, h]

theorem fpFma_inf (h : fpMag t a = infMag t ∨ fpMag t b = infMag t) (ha : fpIsNan t a = false) (hb : fpIsNan t b = false)
    (hc : fpIsNan t c = false) : fpFma t r tag a b c =
      if fpMag t a = 0 ∨ fpMag t b = 0 ∨ fpMag t c = infMag t ∧ fpNeg t c ≠ (fpNeg t a != fpNeg t b) then nanCreated t tag
      else fpMake t (fpNeg t a != fpNeg t b) (infMag t) := by
  rw [fpFma, withNans_of_forall_not (by simp [ha, hb, hc]), fmaBody]
  simp only [fpIsInf, Bool.or_eq_true, decide_eq_true_eq, if_pos h, Bool.and_eq_true, bne_iff_ne]
  split_ifs <;> grind

theorem fpFma_inf_addend (ha : fpFinite t a) (hb : fpFinite t b) (hc : fpMag t c = infMag t) :
    fpFma t r tag a b c = fpMake t (fpNeg t c) (infMag t) := by
  rw [fpFma, withNans_of_forall_not (by simp [fpIsNan_of_finite ha, fpIsNan_of_finite hb, fpIsNan_of_inf hc]), fmaBody,
    fpIsInf_of_finite ha, fpIsInf_of_finite hb, if_pos (fpIsInf_iff.mpr hc), fpTrunc_of_inf hc]
  rfl

theorem fpDiv_of_not_nan (ha : fpIsNan t a = false) (hb : fpIsNan t b = false)
    (h : fpMag t a = infMag t ∨ fpMag t b = infMag t ∨ fpMag t b = 0) : fpDiv t r tag a b =
      if fpMag t a = infMag t ∧ fpMag t b = infMag t ∨ fpMag t a = 0 ∧ fpMag t b = 0 then nanCreated t tag
      else fpMake t (fpNeg t a != fpNeg t b) (if fpMag t b = infMag t then 0 else infMag t) := by
  have hpos := infMag_pos t
  rw [fpDiv, withNans_of_forall_not (by simp [ha, hb])]
  simp only [fpIsInf, decide_eq_true_eq]
  split_ifs <;> grind

theorem fpSqrt_special (ha : fpIsNan t a = false) (h : fpMag t a = 0 ∨ fpNeg t a = true ∨ fpMag t a = infMag t) :
    fpSqrt t r tag a = if 0 < fpMag t a ∧ fpNeg t a = true then nanCreated t tag else fpMake t (fpNeg t a) (fpMag t a) := by
  rw [fpSqrt, withNans_of_forall_not (by simp [ha]), ← fpTrunc_eq_fpMake]
  simp only [fpIsInf, decide_eq_true_eq]
  split_ifs <;> grind

end

/-! ## Conversions of infinities and NaNs -/

section
variable {t u : FpTy} {r : Rnd} {a : FpBits}

theorem fpToFp_of_inf (h : fpMag t a = infMag t) : fpToFp u t r a = fpMake u (fpNeg t a) (infMag u) := by
  simp [fpToFp, fpIsNan_of_inf h, fpIsInf_iff.mpr h]

theorem fpRoundInt_of_inf (h : fpMag t a = infMag t) : fpRoundInt t r a = fpMake t (fpNeg t a) (infMag t) := by
  rw [fpRoundInt, withNans_of_forall_not (by simp [fpIsNan_of_inf h]), fpIsInf_iff.mpr h, fpTrunc_of_inf h]
  simp

theorem fpToInt_of_inf {sg : Bool} {n : Nat} (h : fpMag t a = infMag t) :
    fpToInt sg n t r a = if fpNeg t a then minInt sg n else maxInt sg n := by
  simp [fpToInt, fpIsNan_of_inf h, fpIsInf_iff.mpr h]

theorem infMag_add_sign (t : FpTy) (n : Bool) : infMag t + (if n then signBit t else 0) =
    2 ^ fracBits t * (2 ^ expBits t - 1 + if n then 2 ^ expBits t else 0) := by
  cases n <;> cases t <;> rfl

theorem infMag_add_lt_signBit {g : Nat} (hg : g < 2 ^ fracBits t) : infMag t + g < signBit t := by
  have : infMag t + 2 ^ fracBits t = signBit t := by cases t <;> rfl
  omega

theorem fracBits_pos (t : FpTy) : 0 < fracBits t := by cases t <;> decide

/-- Quieting a NaN sets a bit of its fraction. -/
theorem fpQuiet_fpMake {n : Bool} {g : Nat} (hg : g < 2 ^ fracBits u) :
    fpQuiet u (fpMake u n (infMag u + g)) = fpMake u n (infMag u + (g ||| 2 ^ (fracBits u - 1))) := by
  have hq : 2 ^ (fracBits u - 1) < 2 ^ fracBits u := Nat.pow_lt_pow_right one_lt_two (Nat.sub_lt (fracBits_pos u) one_pos)
  have hg' := Nat.or_lt_two_pow hg hq
  have hmag := infMag_add_lt_signBit hg
  have hmag' := infMag_add_lt_signBit hg'
  have h32 : 2 ^ (fracBits u - 1) < 2 ^ 32 := by cases u <;> decide
  rw [fpQuiet, fpTrunc_eq_fpMake, fpNeg_fpMake hmag, fpMag_fpMake hmag]
  apply BitVec.eq_of_toNat_eq
  rw [BitVec.toNat_or, fpMake_toNat hmag, fpMake_toNat hmag', BitVec.toNat_ofNat, Nat.mod_eq_of_lt h32,
    Nat.add_right_comm, infMag_add_sign, Nat.add_right_comm, infMag_add_sign,
      Nat.two_pow_add_eq_or_of_lt hg, Nat.two_pow_add_eq_or_of_lt hg', Nat.or_assoc]

theorem nanConvert_spec (h : infMag t < fpMag t a) :
    ∃ y, fpToFp u t r a = y ∧ y.toNat < 2 ^ fpWidth u ∧ fpNeg u y = fpNeg t a ∧
      fpMag u y / 2 ^ fracBits u = infMag u / 2 ^ fracBits u ∧ y.getLsbD (fracBits u - 1) = true ∧
      ∀ k, 1 ≤ k → k < fracBits u →
        y.getLsbD (fracBits u - 1 - k) = (decide (k < fracBits t) && a.getLsbD (fracBits t - 1 - k)) := by
  have hf := Nat.two_pow_pos (fracBits u)
  have hfu := fracBits_pos u
  obtain ⟨g, hgdef⟩ : ∃ g, g = a.toNat % 2 ^ fracBits t * 2 ^ fracBits u / 2 ^ fracBits t := ⟨_, rfl⟩
  have hg : g < 2 ^ fracBits u := by
    rw [hgdef, Nat.div_lt_iff_lt_mul (Nat.two_pow_pos _), Nat.mul_comm]
    exact Nat.mul_lt_mul_of_pos_left (Nat.mod_lt _ (Nat.two_pow_pos _)) hf
  have hy : fpToFp u t r a = fpMake u (fpNeg t a) (infMag u + (g ||| 2 ^ (fracBits u - 1))) := by
    rw [← fpQuiet_fpMake hg, hgdef]
    simp [fpToFp, fpIsNan_iff.mpr h, nanConvert]
  have hq : 2 ^ (fracBits u - 1) < 2 ^ fracBits u := Nat.pow_lt_pow_right one_lt_two (Nat.sub_lt hfu one_pos)
  have hg' := Nat.or_lt_two_pow hg hq
  have hmag := infMag_add_lt_signBit hg'
  have hbit {n : Bool} {i : Nat} (hi : i < fracBits u) :
      (fpMake u n (infMag u + (g ||| 2 ^ (fracBits u - 1)))).getLsbD i = (g.testBit i || decide (fracBits u - 1 = i)) := by
    rw [BitVec.getLsbD, fpMake_toNat hmag, Nat.add_right_comm, infMag_add_sign, Nat.testBit_two_pow_mul_add _ hg', if_pos hi, Nat.testBit_or,
      Nat.testBit_two_pow]
  refine ⟨_, hy, fpMake_toNat_lt hmag, fpNeg_fpMake hmag, ?_, ?_, fun k hk hku => ?_⟩
  · rw [fpMag_fpMake hmag, infMag, Nat.mul_comm, Nat.mul_add_div hf, Nat.div_eq_of_lt hg', Nat.mul_div_cancel_left _ hf, Nat.add_zero]
  · rw [hbit (by omega)]
    simp
  · rw [hbit (by omega), hgdef, Nat.testBit_div_two_pow, Nat.testBit_mul_two_pow, Nat.testBit_mod_two_pow]
    rw [show fracBits u - 1 - k + fracBits t - fracBits u = fracBits t - 1 - k by omega,
      decide_eq_false (show ¬fracBits u - 1 = fracBits u - 1 - k by omega), Bool.or_false]
    by_cases hkt : k < fracBits t
    · simp [BitVec.getLsbD, show fracBits u ≤ fracBits u - 1 - k + fracBits t by omega, show fracBits t - 1 - k < fracBits t by omega,
        hkt]
    · simp [show ¬fracBits u ≤ fracBits u - 1 - k + fracBits t by omega, hkt]

end

/-! ## The statement on infinities and NaNs -/

theorem specialValues : Claims.SpecialValues := by
  intro t u r tag a b c n inf na nb nc isNan isInf made winner wins
  have hpos := infMag_pos t
  have hfin {x : FpBits} (h : fpFinite t x) : fpMag t x ≠ infMag t := Nat.ne_of_lt h
  have hnot {x : FpBits} : ¬isNan x → fpIsNan t x = false := fpIsNan_eq_false
  refine ⟨fun ha hb hn => ⟨?_, ?_⟩, fun ha hb hn => ⟨?_, ?_⟩, fun ha hb => ⟨?_, ?_⟩,
    fun ha hb => ⟨fpAdd_inf_right ha hb, fpSub_inf_right ha hb⟩,
    fun hb ha hna => ?_, fun ha hb hc => ⟨?_, ?_⟩, fun ha hb hnb hc hs => ⟨?_, ?_⟩, fun ha hb hnb hc => ⟨?_, ?_⟩,
    fpFma_inf_addend, fun h => withNans_of_nanOf (nanOf_triple (by simpa only [fpIsNan_iff] using h)),
    fun h => withNans_single (fpIsNan_iff.mpr h), fun h => ⟨fpToFp_of_inf h, fpRoundInt_of_inf h, ?_, ?_⟩,
    fun h => ⟨?_, ?_, withNans_single (fpIsNan_iff.mpr h)⟩, nanConvert_spec, fun ha hb => ⟨?_, ?_⟩,
    fun ha hb hnb => ?_, fun ha hb => ?_, fun ha hb => ?_, fun ha hb => ?_, fun ha hb => ?_, fun ha hpa hb => ?_, fun h => ?_,
    fun h hn => ?_, fun h hna hn => ?_, fun h => arithmetic_nan (by simpa only [fpIsNan_iff] using h)⟩
  · rw [fpAdd_inf_left ha (fpIsNan_of_inf hb), if_pos ⟨hb, Ne.symm hn⟩]
  · rw [fpSub_inf_left ha (fpIsNan_of_inf hb), if_neg fun h => hn h.2.symm]
  · rw [fpSub_inf_left ha (fpIsNan_of_inf hb), if_pos ⟨hb, Eq.symm hn⟩]
  · rw [fpAdd_inf_left ha (fpIsNan_of_inf hb), if_neg fun h => h.2 hn.symm]
  · rw [fpAdd_inf_left ha (fpIsNan_of_finite hb), if_neg fun h => hfin hb h.1]
  · rw [fpSub_inf_left ha (fpIsNan_of_finite hb), if_neg fun h => hfin hb h.1]
  · rw [fpMul_inf (.inr hb) (hnot hna) (fpIsNan_of_inf hb), if_neg (by rw [hb]; omega)]
  · rw [fpFma_inf (.inl ha) (fpIsNan_of_inf ha) (fpIsNan_of_zero hb) (hnot hc), if_pos (.inr (.inl hb))]
  · rw [fpFma_inf (.inr ha) (fpIsNan_of_zero hb) (fpIsNan_of_inf ha) (hnot hc), if_pos (.inl hb)]
  · rw [fpFma_inf (.inl ha) (fpIsNan_of_inf ha) (hnot hnb) (fpIsNan_of_inf hc), if_pos (.inr (.inr ⟨hc, hs⟩))]
  · rw [fpFma_inf (.inr ha) (hnot hnb) (fpIsNan_of_inf ha) (fpIsNan_of_inf hc), bne_comm, if_pos (.inr (.inr ⟨hc, hs⟩))]
  · have hcn : fpIsNan t c = false := hc.elim fpIsNan_of_finite fun h => fpIsNan_of_inf h.1
    have hcs : ¬(fpMag t c = infMag t ∧ fpNeg t c ≠ (fpNeg t a != fpNeg t b)) := fun h =>
      hc.elim (fun hf => hfin hf h.1) fun hi => h.2 hi.2
    rw [fpFma_inf (.inl ha) (fpIsNan_of_inf ha) (hnot hnb) hcn, if_neg]
    exact fun h => h.elim (by rw [ha]; omega) fun h => h.elim hb.ne' hcs
  · have hcn : fpIsNan t c = false := hc.elim fpIsNan_of_finite fun h => fpIsNan_of_inf h.1
    have hcs : ¬(fpMag t c = infMag t ∧ fpNeg t c ≠ (fpNeg t a != fpNeg t b)) := fun h =>
      hc.elim (fun hf => hfin hf h.1) fun hi => h.2 hi.2
    rw [fpFma_inf (.inr ha) (hnot hnb) (fpIsNan_of_inf ha) hcn, bne_comm, if_neg]
    exact fun h => h.elim hb.ne' fun h => h.elim (by rw [ha]; omega) hcs
  · rw [fpToInt_of_inf h, minInt, maxInt, if_pos rfl, if_pos rfl, Nat.add_sub_cancel]
  · rw [fpToInt_of_inf h, minInt, maxInt, if_neg Bool.false_ne_true, if_neg Bool.false_ne_true]
  · rw [fpToInt, if_pos (fpIsNan_iff.mpr h)]
  · rw [fpToInt, if_pos (fpIsNan_iff.mpr h)]
  · rw [fpMul_inf (.inl ha) (fpIsNan_of_inf ha) (fpIsNan_of_zero hb), if_pos (.inr hb)]
  · rw [fpMul_inf (.inr ha) (fpIsNan_of_zero hb) (fpIsNan_of_inf ha), if_pos (.inl hb)]
  · rw [fpMul_inf (.inl ha) (fpIsNan_of_inf ha) (hnot hnb), if_neg (by rw [ha]; omega)]
  · rw [fpDiv_of_not_nan (fpIsNan_of_inf ha) (fpIsNan_of_inf hb) (.inl ha), if_pos (.inl ⟨ha, hb⟩)]
  · rw [fpDiv_of_not_nan (fpIsNan_of_zero ha) (fpIsNan_of_zero hb) (.inr (.inr hb)), if_pos (.inr ⟨ha, hb⟩)]
  · rw [fpDiv_of_not_nan (fpIsNan_of_inf ha) (fpIsNan_of_finite hb) (.inl ha), if_neg, if_neg (hfin hb)]
    exact fun h => h.elim (fun h => hfin hb h.2) fun h => hpos.ne (h.1.symm.trans ha)
  · rw [fpDiv_of_not_nan (fpIsNan_of_finite ha) (fpIsNan_of_inf hb) (.inr (.inl hb)), if_neg, if_pos hb]
    exact fun h => h.elim (fun h => hfin ha h.1) fun h => hpos.ne (h.2.symm.trans hb)
  · rw [fpDiv_of_not_nan (fpIsNan_of_finite ha) (fpIsNan_of_zero hb) (.inr (.inr hb)), if_neg, if_neg fun h => hpos.ne (hb.symm.trans h)]
    exact fun h => h.elim (fun h => hfin ha h.1) fun h => hpa.ne' h.1
  · rw [fpSqrt_special (fpIsNan_of_zero h) (.inl h), if_neg (by omega), h]
  · rw [fpSqrt_special (fpIsNan_of_inf h) (.inr (.inr h)), if_neg (by rw [show fpNeg t a = false from hn]; simp), h,
       show fpNeg t a = false from hn]
  · rw [fpSqrt_special (hnot hna) (.inr (.inl hn)), if_pos ⟨h, hn⟩]

/-! ## The floating-point order -/

/-- The value of a signed magnitude. -/
def ordVal (t : FpTy) (z : Int) : ℚ := if z < 0 then -magVal t z.natAbs else magVal t z.natAbs

theorem ordVal_strictMono (t : FpTy) : StrictMono (ordVal t) := by
  refine strictMono_of_odd_strictMonoOn_nonneg (fun z => ?_) fun x hx y hy hxy => ?_
  · obtain h | rfl | h := lt_trichotomy z 0
    · simp [ordVal, h, h.le]
    · simp [ordVal, magVal_zero]
    · simp [ordVal, h, h.le]
  · rw [ordVal, ordVal, if_neg (not_lt.mpr hx), if_neg (not_lt.mpr hy)]
    exact magVal_strictMono t (Int.natAbs_lt_natAbs_of_nonneg_of_lt hx hxy)

section
variable {t : FpTy} {a b : FpBits}

theorem natAbs_signedNat (neg : Bool) (m : Nat) : (signedNat neg m).natAbs = m := by cases neg <;> simp [signedNat]

theorem fpVal_eq_ordVal (t : FpTy) (a : FpBits) : fpVal t a = ordVal t (fpOrd t a) := by
  rw [fpVal_eq_magVal, ordVal, fpOrd, natAbs_signedNat, signedNat]
  cases fpNeg t a
  · simp
  · rcases Nat.eq_zero_or_pos (fpMag t a) with h | h
    · simp [h, magVal_zero]
    · simp [h]

theorem fpVal_lt_iff : fpVal t a < fpVal t b ↔ fpOrd t a < fpOrd t b := by
  rw [fpVal_eq_ordVal, fpVal_eq_ordVal, (ordVal_strictMono t).lt_iff_lt]

theorem fpVal_eq_iff : fpVal t a = fpVal t b ↔ fpOrd t a = fpOrd t b := by
  rw [fpVal_eq_ordVal, fpVal_eq_ordVal, (ordVal_strictMono t).injective.eq_iff]

/-- One number is below another: finite values by value, an infinity beyond every one of them. -/
def FpLess (t : FpTy) (x y : FpBits) : Prop := (fpFinite t x ∧ fpFinite t y ∧ fpVal t x < fpVal t y) ∨
  (fpMag t x = infMag t ∧ fpNeg t x = true ∧ ¬(fpMag t y = infMag t ∧ fpNeg t y = true)) ∨
  (fpMag t y = infMag t ∧ fpNeg t y = false ∧ ¬(fpMag t x = infMag t ∧ fpNeg t x = false))

/-- One number equals another: finite values by value, an infinity with its sign. -/
def FpSame (t : FpTy) (x y : FpBits) : Prop := (fpFinite t x ∧ fpFinite t y ∧ fpVal t x = fpVal t y) ∨
  (fpMag t x = infMag t ∧ fpMag t y = infMag t ∧ fpNeg t x = fpNeg t y)

theorem fpLess_iff (ha : fpMag t a ≤ infMag t) (hb : fpMag t b ≤ infMag t) : FpLess t a b ↔ fpOrd t a < fpOrd t b := by
  have hpos := infMag_pos t
  rw [FpLess, fpVal_lt_iff, fpFinite, fpFinite, fpOrd, fpOrd, signedNat, signedNat]
  cases fpNeg t a <;> cases fpNeg t b <;> simp <;> omega

theorem fpSame_iff (ha : fpMag t a ≤ infMag t) (hb : fpMag t b ≤ infMag t) : FpSame t a b ↔ fpOrd t a = fpOrd t b := by
  have hpos := infMag_pos t
  rw [FpSame, fpVal_eq_iff, fpFinite, fpFinite, fpOrd, fpOrd, signedNat, signedNat]
  cases fpNeg t a <;> cases fpNeg t b <;> simp <;> omega

theorem fpKey_lt_iff : fpKey t a < fpKey t b ↔
    fpOrd t a < fpOrd t b ∨ fpOrd t a = fpOrd t b ∧ fpNeg t a = true ∧ fpNeg t b = false := by
  rw [fpKey, fpKey, fpOrd, fpOrd, signedNat, signedNat]
  cases fpNeg t a <;> cases fpNeg t b <;> simp <;> omega

/-- fmin and fmax of two numbers keep the order of their keys. -/
theorem fpMin_fpMax_of_not_nan (ha : fpIsNan t a = false) (hb : fpIsNan t b = false) :
    (fpKey t a < fpKey t b → fpMin t a b = fpTrunc t a ∧ fpMax t a b = fpTrunc t b) ∧
    (fpKey t b < fpKey t a → fpMin t a b = fpTrunc t b ∧ fpMax t a b = fpTrunc t a) ∧
    (fpKey t a = fpKey t b → fpMin t a b = fpTrunc t a ∧ fpMax t a b = fpTrunc t a) := by
  simp only [fpMin, fpMax, fpPick, ha, hb, decide_eq_true_eq]
  refine ⟨fun h => ⟨if_neg (by omega), if_pos h⟩, fun h => ⟨if_pos h, if_neg (by omega)⟩,
    fun h => ⟨if_neg (by omega), if_neg (by omega)⟩⟩

theorem fpKey_eq_of_same (h : FpSame t a b) (hs : fpNeg t a = fpNeg t b) : fpKey t a = fpKey t b := by
  have hmag : fpMag t a = fpMag t b := by
    obtain ⟨-, -, hv⟩ | ⟨ha, hb, -⟩ := h
    · rw [← natAbs_signedNat (fpNeg t a) (fpMag t a), ← natAbs_signedNat (fpNeg t b) (fpMag t b)]
      exact congrArg _ (fpVal_eq_iff.mp hv)
    · rw [ha, hb]
  rw [fpKey, fpKey, hs, hmag]

theorem fpIsNan_of_same (h : FpSame t a b) : fpIsNan t a = false ∧ fpIsNan t b = false :=
  h.elim (fun h => ⟨fpIsNan_of_finite h.1, fpIsNan_of_finite h.2.1⟩) fun h => ⟨fpIsNan_of_inf h.1, fpIsNan_of_inf h.2.1⟩

theorem fpKey_lt_of_zeros (ha : fpMag t a = 0) (hb : fpMag t b = 0) (hsa : fpNeg t a = true) (hsb : fpNeg t b = false) :
    fpKey t a < fpKey t b := by
  rw [fpKey_lt_iff, fpOrd, fpOrd, ha, hb, hsa, hsb]
  exact .inr ⟨rfl, rfl, rfl⟩

/-- The comparison of two numbers is by their order. -/
theorem fcondHolds_iff (k : FCond) (ha : fpMag t a ≤ infMag t) (hb : fpMag t b ≤ infMag t) :
    fcondHolds t k a b = true ↔ match k with
      | .ord => True
      | .un => False
      | .eq => FpSame t a b
      | .ne => ¬FpSame t a b
      | .lt => FpLess t a b
      | .le => FpLess t a b ∨ FpSame t a b
      | .gt => FpLess t b a
      | .ge => FpLess t b a ∨ FpSame t a b := by
  unfold fcondHolds
  rw [fpIsNan_eq_false (not_lt.mpr ha), fpIsNan_eq_false (not_lt.mpr hb)]
  rw [fpLess_iff ha hb, fpLess_iff hb ha, fpSame_iff ha hb]
  cases k <;> simp <;> omega

theorem fcondHolds_nan (k : FCond) (h : fpIsNan t a ∨ fpIsNan t b) : fcondHolds t k a b = true ↔ k = .un ∨ k = .ne := by
  unfold fcondHolds
  rw [if_pos (by simpa using h)]
  cases k <;> simp

end

/-! ## The statement on the order -/

theorem fpSrc_eq (t : FpTy) (w : Word) : fpSrc t w = BitVec.ofNat 32 (w.toNat % 2 ^ fpWidth t) := by
  rw [fpSrc, fpTrunc, BitVec.toNat_setWidth, Nat.mod_mod_of_dvd _ (Nat.pow_dvd_pow 2 (by cases t <;> decide))]

theorem fpTrunc_fpSrc (t : FpTy) (w : Word) : fpTrunc t (fpSrc t w) = fpSrc t w := by
  rw [fpTrunc_eq_fpMake, fpSrc, fpNeg_fpTrunc, fpMag_fpTrunc, ← fpTrunc_eq_fpMake]

theorem gives_fcmp {s : State} {u : Option FpTy} {k : FCond} {d : PReg} {p q : GReg} {h : Prop}
    (hz : fcondHolds (u.getD .f32) k (fpSrc (u.getD .f32) (readG s p)) (fpSrc (u.getD .f32) (readG s q)) = true ↔ h) :
    ∃ z : Bool, (z = true ↔ h) ∧ Gives (.fcmp u k d p q) s (pResult (slotOf s) d z) :=
  ⟨_, hz, gives_finishP rfl⟩

theorem floatingPointOrder : Claims.FloatingPointOrder := by
  intro s u k d p q t a b isNan isInf less same wins holds
  have ha : fpSrc t (readG s p) = a := fpSrc_eq ..
  have hb : fpSrc t (readG s q) = b := fpSrc_eq ..
  have hta : fpTrunc t a = a := ha ▸ fpTrunc_fpSrc ..
  have htb : fpTrunc t b = b := hb ▸ fpTrunc_fpSrc ..
  have hnot {x : FpBits} : ¬isNan x → fpIsNan t x = false := fpIsNan_eq_false
  have hle {x : FpBits} : ¬isNan x → fpMag t x ≤ infMag t := not_lt.mp
  have hpick (hna : fpIsNan t a = false) (hnb : fpIsNan t b = false) := fpMin_fpMax_of_not_nan hna hnb
  rw [hta, htb] at hpick
  clear_value a b
  refine ⟨fun hna hnb => ?_, fun hna hnb => ?_, fun hna hnb => ?_,
    fun hna hnb h => (hpick (hnot hna) (hnot hnb)).1 (fpKey_lt_iff.mpr (.inl ((fpLess_iff (hle hna) (hle hnb)).mp h))),
    fun hna hnb h => (hpick (hnot hna) (hnot hnb)).2.1 (fpKey_lt_iff.mpr (.inl ((fpLess_iff (hle hnb) (hle hna)).mp h))),
    fun hza hzb hsa hsb => (hpick (fpIsNan_of_zero hza) (fpIsNan_of_zero hzb)).1 (fpKey_lt_of_zeros hza hzb hsa hsb),
    fun h hs => (hpick (fpIsNan_of_same h).1 (fpIsNan_of_same h).2).2.2 (fpKey_eq_of_same h hs),
    fun hza hzb hsa hsb => (hpick (fpIsNan_of_zero hza) (fpIsNan_of_zero hzb)).2.1 (fpKey_lt_of_zeros hzb hza hsb hsa),
    fun h => gives_fcmp ?_, fun hna hnb => gives_fcmp ?_, fun h => ?_, fun h hs => ?_, fun h hs => ?_, fun h => ?_, fun h => ?_⟩
  · simp [fpMin, fpMax, fpPick, fpIsNan_iff.mpr hna, hnot hnb, htb]
  · simp [fpMin, fpMax, fpPick, fpIsNan_iff.mpr hnb, hnot hna, hta]
  · have hna := fpIsNan_iff.mpr hna
    rw [fpMin, fpMax, fpPick, fpPick, hna, fpIsNan_iff.mpr hnb]
    exact ⟨withNans_of_nanOf (nanOf_pair (.inl hna)), withNans_of_nanOf (nanOf_pair (.inl hna))⟩
  · rw [ha, hb]
    exact fcondHolds_nan k (by simpa only [fpIsNan_iff] using h)
  · rw [ha, hb]
    exact fcondHolds_iff k (hle hna) (hle hnb)
  · simp [fpClass, fpIsNan_of_inf h, fpIsInf_iff.mpr h]
  · have hpos := Nat.two_pow_pos (fracBits t)
    simp [fpClass, fpIsNan_of_finite h, fpIsInf_of_finite h, hs, (hpos.trans_le hs).ne']
  · have hfin : fpFinite t a := hs.trans_le (by cases t <;> decide)
    simp [fpClass, fpIsNan_of_finite hfin, fpIsInf_of_finite hfin, hs, h.ne']
  · have hfin : fpFinite t a := h.trans_lt (infMag_pos t)
    simp [fpClass, fpIsNan_of_finite hfin, fpIsInf_of_finite hfin, h]
  · simp [fpClass, fpIsNan_iff.mpr h]

/-- Settles O15: NaNs decide by the operand that they are, infinities by their signs, and numbers order as their signed magnitudes. -/
theorem floatingPointSpecials : Obligations.FloatingPointSpecials := ⟨specialValues, floatingPointOrder⟩

end Sys2Proof.Machine
end

section
/-! Proofs about the sequencer of the MXU and its pins: what a step of one cell changes, narrowed mode, and a pin given up (10 R222;
14 R299; 23 R412). -/

namespace Sys2Proof.Machine

open Sys2Proof.Safety

/-! ## A step of one cell -/

/-- The cells but one, and all that is no cell, are as before. -/
def CellStep (c : Nat) (s t : State) : Prop := { t with cells := s.cells } = s ∧ OtherCells c s t

section
variable {s t u : State} {c : Nat}

theorem CellStep.refl (c : Nat) (s : State) : CellStep c s s := ⟨rfl, fun _ _ => rfl⟩

theorem CellStep.trans (h : CellStep c s t) (k : CellStep c t u) : CellStep c s u := by
  refine ⟨?_, fun c' hc => (k.2 c' hc).trans (h.2 c' hc)⟩
  have hs := h.1
  rw [← k.1] at hs
  exact hs

theorem cellStep_putCc (s : State) (c : Nat) (x : CtxCell) : CellStep c s (putCc s c x) :=
  ⟨rfl, fun c' hc => cellAt_putCell_other s c c' _ (Ne.symm hc)⟩

theorem CellStep.plat (h : CellStep c s t) : t.plat = s.plat := (congrArg State.plat h.1 :)

/-- The alarms that narrow a cell's MXU are those of the platform alone. -/
theorem cellAlarm_congr (h : t.plat = s.plat) (c : Nat) : cellAlarm t c = cellAlarm s c := by
  simp only [cellAlarm, islandOf, uncoreOf, physOf, h]

theorem cellAlarm_iff : cellAlarm s c = true ↔
    s.plat.islands[islandOf s c].alarm = true ∨ s.plat.islands[uncoreOf s c].alarm = true := by
  rw [cellAlarm, Bool.or_eq_true]

end

/-! ## Narrowed mode (14 R299) -/

theorem setNarrow_sets {i : Instr} {s : State} {c : Nat} {b : Bool} (h : exec i s = .next (setNarrow s c b)) :
    ∃ t, exec i s = .next t ∧ { t with cells := s.cells } = s ∧ OtherCells c s t ∧
      ccAt t c = { ccAt s c with mxu := { (ccAt s c).mxu with narrow := b } } :=
  have hstep := cellStep_putCc s c { ccAt s c with mxu := { (ccAt s c).mxu with narrow := b } }
  ⟨_, h, hstep.1, hstep.2, ccAt_putCc_same ..⟩

theorem exec_narrowEnter (s : State) (c : Nat) :
    exec (.narrowEnter c) s = if cellAlarm s c then .next (setNarrow s c true) else .next s := rfl

theorem exec_narrowExit (s : State) (c : Nat) :
    exec (.narrowExit c) s = if cellAlarm s c then .next s else .next (setNarrow s c false) := rfl

/-! ## Pins (10 R222) -/

/-- A pin of a die on a line. -/
def Pin.On (d : Fin 4) (line : Nat) (p : Pin) : Prop := p.die = d.val ∧ p.line = line

/-- The pins of a line that ask for it to be dropped, or not, all alike (12 R262). -/
def markPins (d : Fin 4) (line : Nat) (drop : Bool) (l : List Pin) : List Pin :=
  l.map (fun p => if p.die = d.val && p.line = line then { p with drop := drop } else p)

section
variable {d : Fin 4} {line i : Nat} {drop : Bool} {l : List Pin}

theorem exec_pinRelease_none {s : State} (h : ∀ p ∈ s.coh.pins, ¬p.On d line) : exec (.pinRelease d line) s = .next s := by
  have hnone : s.coh.pins.findIdx? (fun p => p.die = d.val && p.line = line) = none := by
    rw [List.findIdx?_eq_none_iff]
    exact fun p hp => by simpa [Pin.On] using h p hp
  show execPinRelease d line s = _
  rw [execPinRelease, hnone]

/-- The first pin of a line goes; the line with it when that was the last and a cinv asked for it. -/
theorem exec_pinRelease_first {s : State} (hi : ∃ p, s.coh.pins[i]? = some p ∧ p.On d line)
    (hfirst : ∀ j p, j < i → s.coh.pins[j]? = some p → ¬p.On d line)
    (hdrop : drop = s.coh.pins.any (fun p => p.die = d.val && p.line = line && p.drop)) :
    exec (.pinRelease d line) s =
      let s1 := putCoh s { s.coh with pins := markPins d line drop (s.coh.pins.eraseIdx i) }
      .next (if drop && !isPinned s1.coh d.val line then dropUnpinned s1 d.val line else s1) := by
  obtain ⟨p, hp, hon⟩ := hi
  obtain ⟨hlt, rfl⟩ := List.getElem?_eq_some_iff.mp hp
  have hsome : s.coh.pins.findIdx? (fun p => p.die = d.val && p.line = line) = some i := by
    rw [List.findIdx?_eq_some_iff_getElem]
    exact ⟨hlt, by simpa [Pin.On] using hon, fun j hj => by
      simpa [Pin.On] using hfirst j _ hj (List.getElem?_eq_getElem (by omega))⟩
  show execPinRelease d line s = _
  rw [execPinRelease, hsome, hdrop]
  rfl

theorem markPins_eq_self (h : ∀ p ∈ l, p.On d line → p.drop = drop) : markPins d line drop l = l := by
  refine (List.map_congr_left fun p hp => ?_).trans (List.map_id l)
  split
  next hon =>
    rw [← h p hp (by simpa [Pin.On] using hon)]
    rfl
  next => rfl

theorem map_markPins : (markPins d line drop l).map (fun p => (p.die, p.line)) = l.map (fun p => (p.die, p.line)) := by
  rw [markPins, List.map_map]
  refine List.map_congr_left fun p _ => ?_
  simp only [Function.comp_apply]
  split <;> rfl

theorem drop_of_mem_markPins {p : Pin} (hp : p ∈ markPins d line drop l) (hon : p.On d line) : p.drop = drop := by
  obtain ⟨q, -, rfl⟩ := List.mem_map.mp hp
  by_cases h : q.On d line
  · simp [show q.die = d.val from h.1, show q.line = line from h.2]
  · rw [if_neg (by simpa [Pin.On] using h)] at hon
    exact absurd hon h

theorem isPinned_markPins {c : Coh} :
    isPinned { c with pins := markPins d line drop l } d.val line = true ↔ ∃ p ∈ l, p.On d line := by
  have : isPinned { c with pins := markPins d line drop l } d.val line =
      ((markPins d line drop l).map (fun p => (p.die, p.line))).any (fun q => q.1 = d.val && q.2 = line) := by
    rw [isPinned, List.any_map]
    rfl
  rw [this, map_markPins, List.any_map, List.any_eq_true]
  simp [Pin.On]

end

/-! ## The last pin of a line (12 R262) -/

section
variable (s : State) (d line : Nat)

theorem backFrom_coh : (backFrom s d line).coh = s.coh := by
  unfold backFrom writeBack
  generalize physBytes _ (line * 128) 128 = bs
  exact (congrArg State.coh (memWrite_frame bs (healSectors s line (dirGet s.coh d line).good) (line * 128)) :)

theorem giveUp_coh : (giveUp s d line).coh = dieInvalidate s.coh d line := by
  unfold giveUp
  dsimp only
  split
  · rw [backFrom_coh]
    rfl
  · rfl

theorem dieInvalidate_frame (c : Coh) : (dieInvalidate c d line).pins = c.pins ∧ (dieInvalidate c d line).homes = c.homes := by
  unfold dieInvalidate
  dsimp only
  split <;> exact ⟨rfl, rfl⟩

theorem lvl_dieInvalidate (c : Coh) : (dirGet (dieInvalidate c d line) d line).lvl = .i := by
  unfold dieInvalidate
  dsimp only
  split
  next h => exact h
  next h => simp [dirGet, dirSet, DirEntry.none]

theorem quiet_dropUnpinned : Quiet s (dropUnpinned s d line) := by
  unfold dropUnpinned
  dsimp only
  split
  · exact quiet_giveUp s d line
  · exact (quiet_giveUp s d line).trans (quiet_putCoh _ _)

/-- A die taken out of an entry of its home is in its presence set no longer. -/
theorem present_diePut (h : HomeEntry) : (diePut h d).present.getLsbD d = false := by
  have hbit : (h.present &&& ~~~(1#4 <<< d)).getLsbD d = false := by
    by_cases hd : d < 4
    · simp [hd]
    · exact BitVec.getLsbD_of_ge _ _ (by omega)
  unfold diePut
  dsimp only
  split
  · simp [HomeEntry.none]
  · split <;> exact hbit

/-- The die is left without the line, and the home's entry without the die. -/
theorem dropUnpinned_coh : (dropUnpinned s d line).coh.pins = s.coh.pins ∧ (dirGet (dropUnpinned s d line).coh d line).lvl = .i ∧
    (homeGet (dropUnpinned s d line).coh line).present.getLsbD d = false := by
  obtain ⟨hpins, -⟩ := dieInvalidate_frame d line s.coh
  have hlvl := lvl_dieInvalidate d line s.coh
  unfold dropUnpinned
  dsimp only
  rw [giveUp_coh]
  split
  next h =>
    rw [giveUp_coh]
    exact ⟨hpins, hlvl, by simpa using h⟩
  next h =>
    split
    · exact ⟨hpins, hlvl, by simp [putCoh, homeGet, freeHome, tabGet_tabErase, HomeEntry.none]⟩
    · refine ⟨hpins, hlvl, ?_⟩
      simp only [putCoh, homeGet, homeSet, tabGet_tabSet_same]
      exact present_diePut d _

end

/-! ## The statement -/

theorem narrowingAndPins : Claims.NarrowingAndPins := by
  intro s c d line i x alarm sets here first drops more
  have halarm : alarm ↔ cellAlarm s c = true := cellAlarm_iff.symm
  have hdrops : drops ↔ s.coh.pins.any (fun p => p.die = d.val && p.line = line && p.drop) = true := by
    rw [List.any_eq_true]
    simp only [Bool.and_eq_true, decide_eq_true_eq]
    rfl
  refine ⟨fun h => ?_, fun h => ?_, exec_pinRelease_none, fun h hd => ?_, fun h hd hm => ?_, fun h hd hm _ => ?_⟩
  · have h := halarm.mp h
    exact ⟨setNarrow_sets (by rw [exec_narrowEnter, if_pos h]), by rw [exec_narrowExit, if_pos h]⟩
  · have h := halarm.not.mp h
    exact ⟨setNarrow_sets (by rw [exec_narrowExit, if_neg h]), by rw [exec_narrowEnter, if_neg h]⟩
  · have hself : markPins d line false (s.coh.pins.eraseIdx i) = s.coh.pins.eraseIdx i := markPins_eq_self fun p hp hon =>
      Bool.eq_false_iff.mpr fun hdrop => hd ⟨p, List.mem_of_mem_eraseIdx hp, hon, hdrop⟩
    rw [exec_pinRelease_first h.1 h.2 (Bool.eq_false_iff.mpr (hdrops.not.mp hd)).symm, hself]
    rfl
  · have hpinned : isPinned { s.coh with pins := markPins d line true (s.coh.pins.eraseIdx i) } d.val line = true :=
      isPinned_markPins.mpr hm
    rw [exec_pinRelease_first h.1 h.2 (hdrops.mp hd).symm]
    dsimp only
    rw [if_neg (by simp [putCoh, hpinned])]
    exact ⟨_, rfl, rfl, rfl, fun p hp => drop_of_mem_markPins hp, map_markPins⟩
  · have hpinned : isPinned { s.coh with pins := markPins d line true (s.coh.pins.eraseIdx i) } d.val line = false :=
      Bool.eq_false_iff.mpr (isPinned_markPins.not.mpr hm)
    have hself : markPins d line true (s.coh.pins.eraseIdx i) = s.coh.pins.eraseIdx i := markPins_eq_self fun p hp hon =>
      absurd ⟨p, hp, hon⟩ hm
    rw [exec_pinRelease_first h.1 h.2 (hdrops.mp hd).symm]
    dsimp only
    rw [if_pos (by simp [putCoh, hpinned]), hself]
    have hq := (quiet_putCoh s { s.coh with pins := s.coh.pins.eraseIdx i }).trans (quiet_dropUnpinned _ d.val line)
    exact ⟨_, rfl, hq.only, hq.bytes, dropUnpinned_coh _ d.val line⟩

end Sys2Proof.Machine
end

section
/-! Proofs about what the MXU reads: whatever its reads come to, no byte has changed, nor anything outside the memory system (14 R296). -/

namespace Sys2Proof.Machine

open Sys2Proof.Safety

/-- Whatever an engine's access answers, the memory system alone has worked. -/
def QuietEng {α : Type} (s : State) (f : α → State) (r : EngRes α) : Prop :=
  (∀ a, r = .ok a → Quiet s (f a)) ∧ ∀ e, r = .error e → Quiet s e.1

section
variable {α : Type} {s : State} {f : α → State}

theorem QuietEng.ok {a : α} (h : Quiet s (f a)) : QuietEng s f (.ok a) :=
  ⟨fun _ e => (by cases e; exact h), fun _ e => (by cases e)⟩

theorem QuietEng.error {e : State × EngBad} (h : Quiet s e.1) : QuietEng s f (.error e) :=
  ⟨fun _ e => (by cases e), fun _ e => (by cases e; exact h)⟩

end

theorem quiet_engWalk (s : State) (c : Nat) (write : Bool) (va : Word) : QuietEng s Prod.fst (engWalk s c write va) := by
  have hw := quiet_walkPages (c := c) (x := (ccAt s c).desc) (pagesOf [va]) (s := s)
  unfold engWalk
  split
  next w e => exact .error (hw.2 w e)
  next t e =>
    have ht := hw.1 t e
    split
    · exact .error ht
    · split
      · exact .error ht
      · exact .ok ht

theorem quiet_engRead (s : State) (c : Nat) (va : Word) : QuietEng s Prod.fst (engRead s c va) := by
  have hw := quiet_engWalk s c false va
  unfold engRead
  split
  next e h => exact .error (hw.2 e h)
  next t pa h =>
    have ht := hw.1 _ h
    have hl := quiet_acquireLines (s := t) (d := dieOf (physOf t c)) (a := engineOf (dieOf (physOf t c))) (write := false) [pa / 128]
    split
    next w e => exact .error (ht.trans (hl.2 w e))
    next u e =>
      have hu := ht.trans (hl.1 u e)
      split
      · exact .error hu
      · exact .ok hu

theorem quiet_holdStream (s : State) (d line : Nat) : Quiet s (holdStream s d line) := by
  unfold holdStream
  dsimp only
  split
  · exact quiet_putCoh s _
  · exact .refl s

theorem quiet_engStream (s : State) (c : Nat) (va : Word) : QuietEng s Prod.fst (engStream s c va) := by
  have hw := quiet_engWalk s c false va
  unfold engStream
  split
  next e h => exact .error (hw.2 e h)
  next t pa h =>
    have ht := hw.1 _ h
    dsimp only
    split
    · exact .error (ht.trans (quiet_holdStream _ _ _))
    · split
      · exact .error ht
      · exact .ok ht

theorem quiet_pinLine {s t : State} {n0 d line : Nat} (h : pinLine s n0 d line = some t) : Quiet s t := by
  unfold pinLine at h
  dsimp only at h
  split at h
  · cases h
    exact .refl s
  · split at h
    · cases h
      exact quiet_putCoh s _
    · obtain ⟨i, -, rfl⟩ := Option.map_eq_some_iff.mp h
      exact quiet_putCoh s _

theorem quiet_readSector (s : State) (c : Nat) (stream : Bool) (n0 : Nat) (a : Word) :
    QuietEng s id (readSector s c stream n0 a) := by
  unfold readSector
  split
  · have hs := quiet_engStream s c a
    cases h : engStream s c a with
    | error e => exact .error (hs.2 e h)
    | ok r => exact .ok (hs.1 r h)
  · have hr := quiet_engRead s c a
    split
    next e h => exact .error (hr.2 e h)
    next t pa h =>
      have ht := hr.1 _ h
      split
      next u e => exact .ok (ht.trans (quiet_pinLine e))
      next => exact .error ht

theorem quiet_readSectors (c : Nat) (stream : Bool) (n0 : Nat) (as : List Word) :
    ∀ s, QuietEng s id (readSectors s c stream n0 as) := by
  induction as with
  | nil => exact fun s => .ok (.refl s)
  | cons a as ih =>
    intro s
    have ha := quiet_readSector s c stream n0 a
    rw [readSectors]
    split
    next e h => exact .error (ha.2 e h)
    next t h =>
      have ht := ha.1 t h
      exact ⟨fun u e => ht.trans ((ih t).1 u e), fun u e => ht.trans ((ih t).2 u e)⟩

/-- The state in which a command's reads end. -/
def MxRun.state : MxRun → State
  | .wait s | .pause s _ | .stop s _ _ | .ok s => s

theorem quiet_unpin (s : State) (n0 : Nat) : Quiet s (unpin s n0) := quiet_putCoh s _

theorem quiet_badRun (s : State) (n0 k : Nat) (b : EngBad) : Quiet s (badRun s n0 k b).state := by
  cases b <;> exact quiet_unpin s n0

theorem quiet_readBlock (s : State) (c : Nat) (stream : Bool) (n0 : Nat) (as : List Word) :
    QuietEng s id (readBlock s c stream n0 as).1 := by
  unfold readBlock
  split <;> exact quiet_readSectors c stream n0 _ s

theorem quiet_mxReads (c : Nat) (stream : Bool) (hs : List Shape) (startK : Nat) (u : EngineUpset) (n0 : Nat) (n : Nat) :
    ∀ s k, Quiet s (mxReads s c stream hs startK u n0 k n).state := by
  induction n with
  | zero => exact fun s k => .refl s
  | succ n ih =>
    intro s k
    have hb := quiet_readBlock s c stream n0 (blockAddrs hs startK k)
    rw [mxReads]
    split
    next w b x h =>
      rw [h] at hb
      exact (hb.2 _ rfl).trans (quiet_badRun w n0 k b)
    next t h =>
      rw [h] at hb
      exact (hb.1 t rfl).trans (quiet_unpin t n0)
    next t h =>
      rw [h] at hb
      have ht := hb.1 t rfl
      split
      · exact ht.trans (quiet_unpin t n0)
      · exact ht.trans (ih t (k + 1))

/-- The first read of a block that comes to a page answered fail ends the command there with an XLATE error (14 R283; 18 R351). -/
theorem mxReads_failed {s : State} {c k n : Nat} {stream : Bool} {hs : List Shape} {u : EngineUpset} {page : BitVec 39} {a : Word}
    (hf : (ccAt s c).mxu.failed = some page) (ha : (blockAddrs hs k k).head? = some a) (hp : keyPage a = page) :
    mxReads s c stream hs k u s.coh.pins.length k (n + 1) = .stop s k 2 := by
  obtain ⟨as, has⟩ : ∃ as, blockAddrs hs k k = a :: as := List.head?_eq_some_iff.mp ha
  have hblock : readBlock s c stream s.coh.pins.length (blockAddrs hs k k) = (.ok s, true) := by
    simp [readBlock, hf, has, hp, readSectors]
  have hunpin : unpin s s.coh.pins.length = s := by rw [unpin, List.take_length]; rfl
  rw [mxReads, hblock]
  simp only [hunpin]

theorem keyPage_eq_iff {a : Word} {page : BitVec 39} : keyPage a = page ↔ a.toNat / 65536 % 2 ^ 39 = page.toNat := by
  rw [keyPage, ← BitVec.toNat_inj, BitVec.toNat_ofNat, bitsOf, Nat.mod_mod]
  rfl

end Sys2Proof.Machine
end

section
/-! Proofs about the commands of the MXU: a command's end, accumulators, and the blocks of MMA and MMV (14 R294-R298). -/

namespace Sys2Proof.Machine

open Sys2Proof.Safety

/-! ## The end of a command -/

/-- The MXU after its head command has completed (14 R291, R299). -/
def completedMxu (s : State) (c : Nat) (x : Mxu) : Mxu :=
  { x with queue := x.queue.drop 1, done := x.done + 1, failed := none, narrow := cellAlarm s c }

section
variable (s : State) (c : Nat) (q : MxCmd)

/-- A completed command changes the MXU and the tiles of its cell. -/
theorem ccAt_completeCommand : ∃ tiles, ccAt (completeCommand s c q) c =
    { ccAt s c with mxu := completedMxu s c (ccAt s c).mxu, tiles := tiles } := by
  refine ⟨(ccAt (completeCommand s c q) c).tiles, ?_⟩
  unfold completeCommand returnUnnamed returnTiles putMxu
  simp only [ccAt_putCc_same]
  rfl

theorem cellStep_completeCommand : CellStep c s (completeCommand s c q) := by
  unfold completeCommand returnUnnamed returnTiles putMxu
  exact (cellStep_putCc s c _).trans (cellStep_putCc _ c _)

theorem mxu_completeCommand : (ccAt (completeCommand s c q) c).mxu = completedMxu s c (ccAt s c).mxu := by
  obtain ⟨tiles, h⟩ := ccAt_completeCommand s c q
  rw [h]

theorem spad_completeCommand : (ccAt (completeCommand s c q) c).spad = (ccAt s c).spad := by
  obtain ⟨tiles, h⟩ := ccAt_completeCommand s c q
  rw [h]

theorem chans_completeCommand : (ccAt (completeCommand s c q) c).chans = (ccAt s c).chans ∧
    (ccAt (completeCommand s c q) c).dropped = (ccAt s c).dropped := by
  obtain ⟨tiles, h⟩ := ccAt_completeCommand s c q
  rw [h]
  exact ⟨rfl, rfl⟩

end

/-- The command `q` at the head of the queue of a cell ends: from `v`, to which its reads have led, only the cell changes; the
command has left the queue, of which `l` is left, and counts, and the MXU follows the alarms (14 R291, R299). -/
def MxEnds (s v : State) (c : Nat) (l : List MxCmd) (i : Instr) (Q : State → Mxu → Prop) : Prop :=
  OnlyMemory s v ∧ SameBytes s v ∧ ∃ t, exec i s = .next t ∧ { t with cells := s.cells } = v ∧ OtherCells c s t ∧
    (ccAt t c).mxu.queue = l ∧ (ccAt t c).mxu.done = (ccAt s c).mxu.done + 1 ∧
    ((ccAt t c).mxu.narrow = true ↔
      s.plat.islands[islandOf s c].alarm = true ∨ s.plat.islands[uncoreOf s c].alarm = true) ∧ Q t (ccAt t c).mxu

section
variable {s v u : State} {c : Nat} {q : MxCmd} {l : List MxCmd} {i : Instr} {Q : State → Mxu → Prop}

theorem mxEnds_of_completeCommand (hv : Quiet s v) (hi : exec i s = .next (completeCommand u c q)) (hu : CellStep c v u)
    (hqueue : (ccAt u c).mxu.queue = q :: l) (hdone : (ccAt u c).mxu.done = (ccAt s c).mxu.done)
    (hQ : Q (completeCommand u c q) (completedMxu u c (ccAt u c).mxu)) : MxEnds s v c l i Q := by
  obtain ⟨hrest, hother⟩ := hu.trans (cellStep_completeCommand u c q)
  refine ⟨hv.only, hv.bytes, _, hi, by rwa [← hv.cells], fun c' hc => (hother c' hc).trans (hv.cellAt c'), ?_⟩
  rw [mxu_completeCommand]
  refine ⟨by rw [completedMxu, hqueue]; rfl, by rw [completedMxu, hdone], ?_, hQ⟩
  rw [← cellAlarm_iff, ← cellAlarm_congr (hu.plat.trans hv.plat) c]
  rfl

/-- A command that ends with the MXU put as `y`. -/
theorem mxEnds_of_putMxu {y : Mxu} (hv : Quiet s v) (hi : exec i s = .next (completeCommand (putMxu v c y) c q))
    (hqueue : y.queue = q :: l) (hdone : y.done = (ccAt s c).mxu.done)
    (hQ : ∀ t, (ccAt t c).chans = (ccAt s c).chans → Q t (completedMxu v c y)) : MxEnds s v c l i Q := by
  have hcc : ccAt (putMxu v c y) c = { ccAt s c with mxu := y } := by rw [putMxu, ccAt_putCc_same, hv.ccAt]
  refine mxEnds_of_completeCommand hv hi (cellStep_putCc v c _) (by rwa [hcc]) (by rwa [hcc]) ?_
  have halarm : cellAlarm (putMxu v c y) c = cellAlarm v c := rfl
  rw [hcc, completedMxu, halarm]
  exact hQ _ ((chans_completeCommand _ c q).1.trans (by rw [hcc]))

/-- An event in channel 31 does not look at the MXU. -/
theorem ccEvent_putMxu (z : CtxCell) (y : Mxu) (n : Nat) (w : Word) :
    ccEvent { z with mxu := y } n w = { ccEvent z n w with mxu := y } := by
  unfold ccEvent
  dsimp only
  split
  · unfold chanPush
    dsimp only
    split <;> rfl
  · rfl

/-- The detail of the MXU_UE event of a command (14 R297). -/
def mxDetail (q : MxCmd) (k cause : Nat) : Word :=
  BitVec.ofNat 64 (q.ticket % 2 ^ 32 * 2 ^ 32 + k * 2 ^ 16 + cause * 2 ^ 8 + q.acc.val)

/-- An error of a command recorded in mxstat, and MXU_UE posted (14 R297). -/
def errorNoted (s : State) (c : Nat) (x : Mxu) (q : MxCmd) (k cause : Nat) : State :=
  postEvent (putMxu s c (recordError x q (errCode cause) k)) c 2 (mxDetail q k cause)

theorem commandError_eq (s : State) (c : Nat) (x : Mxu) (q : MxCmd) (k cause : Nat) :
    commandError s c x q k cause = completeCommand (errorNoted s c x q k cause) c q := rfl

theorem cellStep_errorNoted (s : State) (c : Nat) (x : Mxu) (q : MxCmd) (k cause : Nat) :
    CellStep c s (errorNoted s c x q k cause) :=
  (cellStep_putCc s c _).trans (cellStep_putCc _ c _)

theorem ccAt_errorNoted (s : State) (c : Nat) (x : Mxu) (q : MxCmd) (k cause : Nat) : ccAt (errorNoted s c x q k cause) c =
    { ccEvent (ccAt s c) 2 (mxDetail q k cause) with mxu := recordError x q (errCode cause) k } := by
  rw [errorNoted, postEvent, ccAt_putCc_same, putMxu, ccAt_putCc_same, ccEvent_putMxu]

theorem completedMxu_congr {s t : State} (h : t.plat = s.plat) (c : Nat) : completedMxu t c = completedMxu s c := by
  funext x
  simp only [completedMxu, cellAlarm_congr h]

/-- A command that an error ends. -/
theorem mxEnds_of_commandError {y : Mxu} {k cause : Nat} (hv : Quiet s v) (hu : CellStep c v u)
    (hi : exec i s = .next (commandError u c y q k cause)) (hqueue : y.queue = q :: l) (hdone : y.done = (ccAt s c).mxu.done)
    (hQ : ∀ t, (ccAt t c).spad = (ccAt u c).spad →
      (ccAt t c).chans = (ccEvent (ccAt u c) 2 (mxDetail q k cause)).chans →
      (ccAt t c).dropped = (ccEvent (ccAt u c) 2 (mxDetail q k cause)).dropped →
      Q t (completedMxu v c (recordError y q (errCode cause) k))) : MxEnds s v c l i Q := by
  have hcc := ccAt_errorNoted u c y q k cause
  have hstep := hu.trans (cellStep_errorNoted u c y q k cause)
  obtain ⟨hchans, hdropped⟩ := chans_completeCommand (errorNoted u c y q k cause) c q
  have hspad := spad_completeCommand (errorNoted u c y q k cause) c q
  rw [hcc] at hchans hdropped hspad
  refine mxEnds_of_completeCommand hv (hi.trans (congrArg _ (commandError_eq ..))) hstep ?_ ?_ ?_
  · rw [hcc]
    exact hqueue
  · rw [hcc]
    exact hdone
  · rw [hcc, completedMxu_congr hstep.plat]
    exact hQ _ (hspad.trans (ccEvent_frame _ _ _).2.1) hchans hdropped

end

/-! ## Accumulators -/

section
variable (x : Mxu) (a b : Nat) (f : Nat → Nat → FpBits)

theorem tabFind_append {α : Type} (t u : Tab α) (n : Nat) : tabFind (t ++ u) n = (tabFind t n).or (tabFind u n) := by
  induction t with
  | nil => rfl
  | cons e t ih =>
    obtain ⟨k, y⟩ := e
    simp only [List.cons_append, tabFind]
    split <;> simp [ih]

/-- A list of entries by number, those of one value left out, gives each entry. -/
theorem tabFind_entries {α : Type} [DecidableEq α] (d : α) (g : Nat → α) (k n : Nat) (l : List Nat) :
    tabFind (l.filterMap (fun m => if g m = d then none else some (k + m, g m))) (k + n) =
      if n ∈ l ∧ g n ≠ d then some (g n) else none := by
  induction l with
  | nil => rfl
  | cons m l ih =>
    rw [List.filterMap_cons]
    by_cases hm : m = n
    · subst hm
      by_cases hg : g m = d
      · simp [hg, ih]
      · simp [hg, tabFind]
    · have hne : ¬n = m := fun h => hm h.symm
      by_cases hg : g m = d
      · simp [hg, ih, hne]
      · simp [hg, tabFind, hm, hne, ih]

theorem tabFind_entries_other {α : Type} [DecidableEq α] (d : α) (g : Nat → α) (k n : Nat) (l : List Nat)
    (h : ∀ m ∈ l, k + m ≠ n) : tabFind (l.filterMap (fun m => if g m = d then none else some (k + m, g m))) n = none := by
  induction l with
  | nil => rfl
  | cons m l ih =>
    obtain ⟨hm, hl⟩ := List.forall_mem_cons.mp h
    rw [List.filterMap_cons]
    by_cases hg : g m = d
    · simp [hg, ih hl]
    · simp [hg, tabFind, hm, ih hl]

/-- An accumulator put: its elements are those given, and all other accumulators keep theirs. -/
theorem accGet_accPut {i j : Nat} (hi : i < 64) (hj : j < 64) :
    accGet (accPut x a f) b i j = if b = a then f i j else accGet x b i j := by
  obtain ⟨n, hn⟩ : ∃ n, n = 64 * i + j := ⟨_, rfl⟩
  have hlt : n < 4096 := by omega
  have hdiv : n / 64 = i ∧ n % 64 = j := by omega
  rw [accGet, accGet, Nat.add_assoc, ← hn, tabGet, tabGet, accPut]
  simp only [tabFind_append, tabFind_filter (fun k => decide (k < 4096 * a)),
    tabFind_filter (fun k => decide (4096 * (a + 1) ≤ k)), decide_eq_true_eq]
  by_cases hb : b = a
  · subst hb
    rw [if_neg (by omega), if_neg (by omega), tabFind_entries 0 (fun n => f (n / 64) (n % 64)), if_pos rfl, hdiv.1, hdiv.2]
    simp only [List.mem_range, hlt, true_and, Option.none_or, Option.or_none]
    split
    next => rfl
    next h0 => rw [not_not.mp h0]; rfl
  · rw [tabFind_entries_other 0 (fun n => f (n / 64) (n % 64)) (4096 * a) _ _ fun m hm => by
      have := List.mem_range.mp hm
      omega, if_neg hb]
    rcases Nat.lt_or_gt_of_ne hb with h | h
    · rw [if_pos (by omega), if_neg (by omega)]
      simp
    · rw [if_neg (by omega), if_pos (by omega)]
      simp

end

/-! ## Blocks of MMA and MMV (14 R294) -/

/-- Block after block added on to one element, from block `startK` on: n blocks of `as` and `bs`, each NaN that is made tagged with its
block (04 R88, R89). -/
def mxBlocks (c startK n : Nat) (v : FpBits) (as bs : Nat → List MxElem) : FpBits :=
  (List.range n).foldl (fun v k => mxBlock (nanTag c (startK + k)) v (as (startK + k)) (bs (startK + k))) v

/-- Block k of a command applied to an accumulator, in the columns that `col` gives. -/
def applyBlock (c a : Nat) (row : Nat → Nat → List MxElem) (col : Nat → Nat → Option (List MxElem)) (y : Mxu) (k : Nat) : Mxu :=
  accBlock y a (nanTag c k) ((List.range 64).map (fun i => row i k)) (fun j => col j k)

section
variable (c a : Nat) (row : Nat → Nat → List MxElem) (col : Nat → Nat → Option (List MxElem)) (x : Mxu) (startK : Nat)

theorem accGet_applyBlock (k b : Nat) {i j : Nat} (hi : i < 64) (hj : j < 64) : accGet (applyBlock c a row col x k) b i j =
    if b = a then (col j k).elim (accGet x a i j) (mxBlock (nanTag c k) (accGet x a i j) (row i k)) else accGet x b i j := by
  have hrow : ((List.range 64).map (fun i => row i k)).getD i [] = row i k := by simp [List.getD_eq_getElem?_getD, hi]
  rw [applyBlock, accBlock, accGet_accPut _ _ _ _ hi hj, hrow]
  cases col j k <;> rfl

theorem applyBlocks_frame (n : Nat) :
    { (List.range n).foldl (fun y k => applyBlock c a row col y (startK + k)) x with acc := x.acc } = x := by
  induction n with
  | zero => rfl
  | succ n ih => rw [List.range_succ, List.foldl_append]; exact ih

theorem accGet_applyBlocks_other (n b : Nat) {i j : Nat} (hi : i < 64) (hj : j < 64) (hb : b ≠ a) :
    accGet ((List.range n).foldl (fun y k => applyBlock c a row col y (startK + k)) x) b i j = accGet x b i j := by
  induction n with
  | zero => rfl
  | succ n ih =>
    rw [List.range_succ, List.foldl_append, List.foldl_cons, List.foldl_nil, accGet_applyBlock _ _ _ _ _ _ _ hi hj, if_neg hb, ih]

/-- A column with operands takes every block in turn. -/
theorem accGet_applyBlocks_some (n : Nat) {i j : Nat} (hi : i < 64) (hj : j < 64) {bs : Nat → List MxElem}
    (hcol : ∀ k, col j k = some (bs k)) :
    accGet ((List.range n).foldl (fun y k => applyBlock c a row col y (startK + k)) x) a i j =
      mxBlocks c startK n (accGet x a i j) (row i) bs := by
  induction n with
  | zero => rfl
  | succ n ih =>
    rw [mxBlocks, List.range_succ, List.foldl_append, List.foldl_append, ← mxBlocks, ← ih, List.foldl_cons, List.foldl_nil,
      accGet_applyBlock _ _ _ _ _ _ _ hi hj, if_pos rfl, hcol]
    rfl

/-- A column without operands keeps its elements. -/
theorem accGet_applyBlocks_none (n : Nat) {i j : Nat} (hi : i < 64) (hj : j < 64) (hcol : ∀ k, col j k = none) :
    accGet ((List.range n).foldl (fun y k => applyBlock c a row col y (startK + k)) x) a i j = accGet x a i j := by
  induction n with
  | zero => rfl
  | succ n ih =>
    rw [List.range_succ, List.foldl_append, List.foldl_cons, List.foldl_nil, accGet_applyBlock _ _ _ _ _ _ _ hi hj, if_pos rfl, hcol,
      Option.elim_none, ih]

end

end Sys2Proof.Machine
end

section
/-! Proofs about MMA, MMV, MVLD and MZERO: how each ends, by what its reads and its trailers come to (14 R294, R296-R298). -/

namespace Sys2Proof.Machine

open Sys2Proof.Safety

/-! ## The ends of MMA and MMV -/

section
variable {s v : State} {c k cause : Nat} {q : MxCmd} {hs : List (BitVec 2 × Shape)} {nb : Nat} {stream bad : Bool}
  {block : State → Mxu → Nat → Mxu} {u : EngineUpset} {page : BitVec 39} {f : BitVec 2 × Word}

/-- The blocks of a command from START_K on, n of them, their operands read in a state. -/
def runBlocks (s : State) (c : Nat) (q : MxCmd) (block : State → Mxu → Nat → Mxu) (t : State) (n : Nat) : Mxu :=
  (List.range n).foldl (fun y i => block t y (q.startK + i)) (ccAt s c).mxu

/-- The reads of a command whose operands have nb blocks (14 R294). -/
def runReads (s : State) (c : Nat) (q : MxCmd) (hs : List Shape) (nb : Nat) (stream : Bool) (u : EngineUpset) : MxRun :=
  mxReads s c stream hs q.startK u s.coh.pins.length q.startK (nb - q.startK)

theorem quiet_of_runReads {shapes : List Shape} {r : MxRun} (hr : runReads s c q shapes nb stream u = r) : Quiet s r.state :=
  hr ▸ quiet_mxReads c stream shapes q.startK u s.coh.pins.length (nb - q.startK) s q.startK

theorem runMatrix_of_poisoned (h : ¬((ccAt s c).mxu.poisoned[q.acc] = false ∨ q.res = true)) :
    runMatrix s c q hs nb stream bad block u = completeCommand s c q := by
  rw [not_or, Bool.not_eq_false, Bool.not_eq_true] at h
  rw [runMatrix, h.1, h.2]
  rfl

variable (hruns : (ccAt s c).mxu.poisoned[q.acc] = false ∨ q.res = true)
include hruns

theorem runMatrix_of_runs : runMatrix s c q hs nb stream bad block u =
    match runReads s c q (hs.map Prod.snd) nb stream u with
    | .wait t => t
    | .pause t p => mxPause t c p
    | .stop t k cause => commandError t c (setPoison (runBlocks s c q block t (k - q.startK)) q.acc true) q k cause
    | .ok t =>
      match trailerFailure t c stream hs with
      | some f => completeCommand (putMxu t c (trailerError (setPoison (runBlocks s c q block t (nb - q.startK)) q.acc true) q f)) c q
      | none => completeCommand (putMxu t c (setPoison (runBlocks s c q block t (nb - q.startK)) q.acc bad)) c q := by
  have hgo : ((ccAt s c).mxu.poisoned[q.acc] && !q.res) = false := by
    rcases hruns with h | h <;> simp [h]
  rw [runMatrix]
  dsimp only
  rw [hgo]
  rfl

theorem runMatrix_wait (hr : runReads s c q (hs.map Prod.snd) nb stream u = .wait v) :
    runMatrix s c q hs nb stream bad block u = v := by
  rw [runMatrix_of_runs hruns, hr]

theorem runMatrix_pause (hr : runReads s c q (hs.map Prod.snd) nb stream u = .pause v page) :
    runMatrix s c q hs nb stream bad block u = mxPause v c page := by
  rw [runMatrix_of_runs hruns, hr]

theorem runMatrix_stop (hr : runReads s c q (hs.map Prod.snd) nb stream u = .stop v k cause) :
    runMatrix s c q hs nb stream bad block u =
      commandError v c (setPoison (runBlocks s c q block v (k - q.startK)) q.acc true) q k cause := by
  rw [runMatrix_of_runs hruns, hr]

theorem runMatrix_trailer (hr : runReads s c q (hs.map Prod.snd) nb stream u = .ok v) (hf : trailerFailure v c stream hs = some f) :
    runMatrix s c q hs nb stream bad block u =
      completeCommand (putMxu v c (trailerError (setPoison (runBlocks s c q block v (nb - q.startK)) q.acc true) q f)) c q := by
  rw [runMatrix_of_runs hruns, hr]
  simp only [hf]

theorem runMatrix_ok (hr : runReads s c q (hs.map Prod.snd) nb stream u = .ok v) (hf : trailerFailure v c stream hs = none) :
    runMatrix s c q hs nb stream bad block u =
      completeCommand (putMxu v c (setPoison (runBlocks s c q block v (nb - q.startK)) q.acc bad)) c q := by
  rw [runMatrix_of_runs hruns, hr]
  simp only [hf]

end

/-! ## What the ends leave in the MXU -/

/-- An error of a command that ends it: recorded in mxstat, MXU_UE posted, the pending trailer failure as before (14 R297). -/
def MxFails (s v : State) (c : Nat) (q : MxCmd) (l : List MxCmd) (i : Instr) (k cause : Nat) (Q : State → Mxu → Prop) : Prop :=
  MxEnds s v c l i (fun t y => y.errtk = BitVec.ofNat 16 q.ticket ∧ y.k = BitVec.ofNat 16 k ∧ y.err = errCode cause ∧
    y.pend = (ccAt s c).mxu.pend ∧ (ccAt t c).chans = (ccEvent (ccAt s c) 2 (mxDetail q k cause)).chans ∧
    (ccAt t c).dropped = (ccEvent (ccAt s c) 2 (mxDetail q k cause)).dropped ∧ Q t y)

/-- A trailer of a command that fails: recorded, and pending unless an earlier one is (14 R298). -/
def MxTrailers (s v : State) (c : Nat) (q : MxCmd) (l : List MxCmd) (i : Instr) (f : BitVec 2 × Word) (Q : State → Mxu → Prop) :
    Prop :=
  MxEnds s v c l i (fun t y => y.errtk = BitVec.ofNat 16 q.ticket ∧ y.k = 0xFFFF ∧ y.err = 2 ∧
    (ccAt t c).chans = (ccAt s c).chans ∧
    y.pend = (if (ccAt s c).mxu.pend = none then some ⟨q.ticket, f.1, f.2⟩ else (ccAt s c).mxu.pend) ∧ Q t y)

/-- The queue, the count of commands and the pending failure are as before: what a command does to the MXU before its end. -/
structure Mxu.Within (x y : Mxu) : Prop where
  queue : y.queue = x.queue
  done : y.done = x.done
  pend : y.pend = x.pend

/-- Accumulators, their poison and the vector slots are the same. -/
structure Mxu.SameValues (x y : Mxu) : Prop where
  acc : y.acc = x.acc
  poisoned : y.poisoned = x.poisoned
  slots : y.slots = x.slots

section
variable {s v : State} {c k cause : Nat} {q : MxCmd} {l : List MxCmd} {i : Instr} {y : Mxu} {f : BitVec 2 × Word}
  {Q : State → Mxu → Prop} (hv : Quiet s v) (hqueue : (ccAt s c).mxu.queue = q :: l) (hy : (ccAt s c).mxu.Within y)
include hv hqueue hy

theorem mxEnds_of_within (hi : exec i s = .next (completeCommand (putMxu v c y) c q)) (hQ : ∀ t z, y.SameValues z → Q t z) :
    MxEnds s v c l i Q :=
  mxEnds_of_putMxu hv hi (hy.queue.trans hqueue) hy.done fun t _ => hQ t _ ⟨rfl, rfl, rfl⟩

theorem mxFails_of_commandError (hi : exec i s = .next (commandError v c y q k cause))
    (hQ : ∀ t z, y.SameValues z → Q t z) : MxFails s v c q l i k cause Q := by
  refine mxEnds_of_commandError hv (.refl c v) hi (hy.queue.trans hqueue) hy.done fun t _ hc hd => ?_
  rw [hv.ccAt] at hc hd
  exact ⟨rfl, rfl, rfl, hy.pend, hc, hd, hQ t _ ⟨rfl, rfl, rfl⟩⟩

theorem mxTrailers_of_trailerError (hi : exec i s = .next (completeCommand (putMxu v c (trailerError y q f)) c q))
    (hQ : ∀ t z, y.SameValues z → Q t z) : MxTrailers s v c q l i f Q := by
  have herr : trailerError y q f =
      { recordError y q 2 0xFFFF with pend := if y.pend = none then some ⟨q.ticket, f.1, f.2⟩ else y.pend } := by
    unfold trailerError recordError
    cases h : y.pend <;> simp
  rw [herr] at hi
  refine mxEnds_of_putMxu hv hi (hy.queue.trans hqueue) hy.done fun t hc => ⟨rfl, rfl, rfl, hc, ?_, hQ t _ ⟨rfl, rfl, rfl⟩⟩
  rw [← hy.pend]
  rfl

end

theorem Quiet.scrim {s t : State} (h : Quiet s t) : t.scrim = s.scrim := (congrArg State.scrim h.only :)

/-- A page to be served is posted, and the TFU waits for it (14 R283, R296). -/
theorem mxPause_spec {s v : State} {c : Nat} {page : BitVec 39} (hv : Quiet s v) :
    ∃ t, mxPause v c page = t ∧ { t with cells := s.cells, scrim := s.scrim } = v ∧
    OtherCells c s t ∧ ccAt t c = { ccAt s c with mxu := { (ccAt s c).mxu with paused := some page } } ∧
    t.scrim.posts = s.scrim.posts ++ [⟨clusterRouter (physOf s c), .agent (.tfu c), (ccAt s c).desc.ctxid, page, .read, none, 32,
      (ccAt s c).desc.psvc⟩] := by
  have hput : ccAt (putMxu v c { (ccAt v c).mxu with paused := some page }) c =
      { ccAt s c with mxu := { (ccAt s c).mxu with paused := some page } } := by
    rw [putMxu, ccAt_putCc_same, hv.ccAt]
  have hphys : physOf (putMxu v c { (ccAt v c).mxu with paused := some page }) c = physOf s c := by
    rw [physOf, physOf, putMxu, putCc_plat, hv.plat]
  refine ⟨_, rfl, ?_, fun c' hc => ((cellStep_putCc v c _).2 c' hc).trans (hv.cellAt c'), hput, ?_⟩
  · rw [← hv.cells, ← hv.scrim]
    rfl
  · show (putMxu v c _).scrim.posts ++ _ = _
    rw [hput, hphys, ← hv.scrim]
    rfl

/-! ## The values of an accumulator -/

/-- Accumulator `a` has the poison `p` and the elements `f`; the others and the vector slots are those of `x`. -/
def AccIs (x : Mxu) (a : Fin 4) (y : Mxu) (p : Bool) (f : Nat → Nat → FpBits) : Prop :=
  y.poisoned = x.poisoned.set a p ∧ y.slots = x.slots ∧
    ∀ b i j, b < 4 → i < 64 → j < 64 → accGet y b i j = if b = a.val then f i j else accGet x b i j

/-- The blocks of a command read in `v` leave all of the MXU but its accumulator, whose elements after n of them are `val n`. -/
structure BlocksGive (s : State) (c : Nat) (q : MxCmd) (block : State → Mxu → Nat → Mxu) (v : State)
    (val : Nat → Nat → Nat → FpBits) : Prop where
  frame : ∀ n, { runBlocks s c q block v n with acc := (ccAt s c).mxu.acc } = (ccAt s c).mxu
  other : ∀ n b i j, i < 64 → j < 64 → b ≠ q.acc.val → accGet (runBlocks s c q block v n) b i j = accGet (ccAt s c).mxu b i j
  elem : ∀ n i j, i < 64 → j < 64 → accGet (runBlocks s c q block v n) q.acc.val i j = val n i j

section
variable {s v : State} {c k cause : Nat} {q : MxCmd} {l : List MxCmd} {i : Instr} {hs : List (BitVec 2 × Shape)} {nb : Nat}
  {stream bad : Bool} {block : State → Mxu → Nat → Mxu} {u : EngineUpset} {page : BitVec 39} {f : BitVec 2 × Word}
  {val : Nat → Nat → Nat → FpBits}

theorem BlocksGive.within (h : BlocksGive s c q block v val) (n : Nat) (p : Bool) :
    (ccAt s c).mxu.Within (setPoison (runBlocks s c q block v n) q.acc p) :=
  ⟨(congrArg Mxu.queue (h.frame n) :), (congrArg Mxu.done (h.frame n) :), (congrArg Mxu.pend (h.frame n) :)⟩

theorem BlocksGive.accIs (h : BlocksGive s c q block v val) (n : Nat) (p : Bool) {z : Mxu}
    (hz : (setPoison (runBlocks s c q block v n) q.acc p).SameValues z) : AccIs (ccAt s c).mxu q.acc z p (val n) := by
  have hpoison : (runBlocks s c q block v n).poisoned = (ccAt s c).mxu.poisoned := (congrArg Mxu.poisoned (h.frame n) :)
  refine ⟨hz.poisoned.trans (congrArg (fun w => w.set q.acc.val p) hpoison), hz.slots.trans (congrArg Mxu.slots (h.frame n) :),
    fun b i j _ hi hj => ?_⟩
  have hacc : accGet z b i j = accGet (runBlocks s c q block v n) b i j := by
    rw [accGet, hz.acc]
    rfl
  rw [hacc]
  split
  next hb => rw [hb, h.elem n i j hi hj]
  next hb => exact h.other n b i j hi hj hb

variable (hqueue : (ccAt s c).mxu.queue = q :: l)
  (hi : exec i s = .next (runMatrix s c q hs nb stream bad block u))
include hqueue hi

theorem matrix_poisoned (h : ¬((ccAt s c).mxu.poisoned[q.acc] = false ∨ q.res = true)) :
    MxEnds s s c l i (fun _ y => (ccAt s c).mxu.SameValues y) := by
  rw [runMatrix_of_poisoned h] at hi
  exact mxEnds_of_completeCommand (.refl s) hi (.refl c s) hqueue rfl ⟨rfl, rfl, rfl⟩

variable (hruns : (ccAt s c).mxu.poisoned[q.acc] = false ∨ q.res = true)
include hruns

omit hqueue in
theorem matrix_wait (hr : runReads s c q (hs.map Prod.snd) nb stream u = .wait v) : exec i s = .next v ∧ Quiet s v :=
  ⟨hi.trans (by rw [runMatrix_wait hruns hr]), quiet_of_runReads hr⟩

theorem matrix_stop (hb : BlocksGive s c q block v val) (hr : runReads s c q (hs.map Prod.snd) nb stream u = .stop v k cause) :
    MxFails s v c q l i k cause (fun _ y => AccIs (ccAt s c).mxu q.acc y true (val (k - q.startK))) := by
  rw [runMatrix_stop hruns hr] at hi
  exact mxFails_of_commandError (quiet_of_runReads hr) hqueue (hb.within _ true) hi fun _ _ => hb.accIs _ true

theorem matrix_trailer (hb : BlocksGive s c q block v val) (hr : runReads s c q (hs.map Prod.snd) nb stream u = .ok v)
    (hf : trailerFailure v c stream hs = some f) :
    MxTrailers s v c q l i f (fun _ y => AccIs (ccAt s c).mxu q.acc y true (val (nb - q.startK))) := by
  rw [runMatrix_trailer hruns hr hf] at hi
  exact mxTrailers_of_trailerError (quiet_of_runReads hr) hqueue (hb.within _ true) hi fun _ _ => hb.accIs _ true

theorem matrix_ok (hb : BlocksGive s c q block v val) (hr : runReads s c q (hs.map Prod.snd) nb stream u = .ok v)
    (hf : trailerFailure v c stream hs = none) :
    MxEnds s v c l i (fun _ y => AccIs (ccAt s c).mxu q.acc y bad (val (nb - q.startK))) := by
  rw [runMatrix_ok hruns hr hf] at hi
  exact mxEnds_of_within (quiet_of_runReads hr) hqueue (hb.within _ bad) hi fun _ _ => hb.accIs _ bad

end

/-! ## MMA and MMV -/

/-- Block k of an MMA (14 R294). -/
def mmaBlock (c : Nat) (q : MxCmd) (a b : Shape) (t : State) (y : Mxu) (k : Nat) : Mxu :=
  applyBlock c q.acc.val (blockRow t c false a) (fun j k => ((List.range 64).map (fun j => blockRow t c false b j k))[j]?) y k

/-- Block k of an MMV: only the columns of its vector slots have operands (14 R294). -/
def mmvBlock (c : Nat) (q : MxCmd) (slots : Vector VecSlot 8) (w : Shape) (vset : BitVec 8) (t : State) (y : Mxu) (k : Nat) : Mxu :=
  applyBlock c q.acc.val (blockRow t c true w)
    (fun j k => if h : j < 8 then (if vset.getLsbD j then some (blockSlot slots[j] k) else none) else none) y k

/-- An element of an MMA after n blocks. -/
def mmaVal (s : State) (c : Nat) (q : MxCmd) (a b : Shape) (v : State) (n i j : Nat) : FpBits :=
  mxBlocks c q.startK n (accGet (ccAt s c).mxu q.acc.val i j) (blockRow v c false a i) (blockRow v c false b j)

/-- An element of an MMV after n blocks. -/
def mmvVal (s : State) (c : Nat) (q : MxCmd) (w : Shape) (vset : BitVec 8) (v : State) (n i j : Nat) : FpBits :=
  if hj : j < 8 then
    if vset.getLsbD j then
      mxBlocks c q.startK n (accGet (ccAt s c).mxu q.acc.val i j) (blockRow v c true w i) (blockSlot (ccAt s c).mxu.slots[j])
    else accGet (ccAt s c).mxu q.acc.val i j
  else accGet (ccAt s c).mxu q.acc.val i j

section
variable (s : State) (c : Nat) (q : MxCmd) (v : State)

theorem blocksGive_mma (a b : Shape) : BlocksGive s c q (mmaBlock c q a b) v (mmaVal s c q a b v) where
  frame n := applyBlocks_frame ..
  other n b i j hi hj hb := accGet_applyBlocks_other _ _ _ _ _ _ _ _ hi hj hb
  elem n i j hi hj := accGet_applyBlocks_some _ _ _ _ _ _ _ hi hj fun k => by simp [hj]

theorem blocksGive_mmv (w : Shape) (vset : BitVec 8) :
    BlocksGive s c q (mmvBlock c q (ccAt s c).mxu.slots w vset) v (mmvVal s c q w vset v) where
  frame n := applyBlocks_frame ..
  other n b i j hi hj hb := accGet_applyBlocks_other _ _ _ _ _ _ _ _ hi hj hb
  elem n i j hi hj := by
    unfold mmvVal
    split
    next h8 =>
      split
      next hset => exact accGet_applyBlocks_some _ _ _ _ _ _ _ hi hj fun k => by simp [h8, hset]
      next hset => exact accGet_applyBlocks_none _ _ _ _ _ _ _ hi hj fun k => by rw [dif_pos h8, if_neg hset]
    next h8 => exact accGet_applyBlocks_none _ _ _ _ _ _ _ hi hj fun k => by simp [h8]

end

/-! ## What a step at the head of the queue does -/

section
variable {s : State} {c : Nat} {q : MxCmd} {l : List MxCmd} {u : EngineUpset}

theorem headCommand_eq_some (hlive : (cellAt s c).live = true) (hp : (ccAt s c).mxu.paused = none)
    (hq : (ccAt s c).mxu.queue = q :: l) : headCommand s c = some q := by
  simp [headCommand, hlive, hp, hq]

variable (hhead : headCommand s c = some q)
include hhead

theorem exec_mma {a b : Shape} (hop : q.op = .mma a b) : exec (.mma c u) s =
    .next (runMatrix s c q [(0, a), (1, b)] (a.cols / 32) false false (mmaBlock c q a b) u) := by
  show execMma c u s = _
  simp only [execMma, hhead, hop]
  rfl

theorem exec_mmv {w : Shape} {vset : BitVec 8} (hop : q.op = .mmv w vset) : exec (.mmv c u) s =
    .next (runMatrix s c q [(0, w)] (w.cols / 32) true ((vsetSlots vset).any (fun n => (ccAt s c).mxu.slots[n].bad))
      (mmvBlock c q (ccAt s c).mxu.slots w vset) u) := by
  show execMmv c u s = _
  simp only [execMmv, hhead, hop]
  rfl

theorem exec_mzero (hop : q.op = .mzero) : exec (.mzero c) s =
    .next (completeCommand (putMxu s c (setPoison (accPut (ccAt s c).mxu q.acc.val (fun _ _ => 0)) q.acc false)) c q) := by
  show execMzero c s = _
  simp only [execMzero, hhead, hop]

theorem exec_macld {off : Nat} (hop : q.op = .macld off) : exec (.macld c u) s =
    if u ≠ .none || padBad (ccAt s c) off 16384 then
      .next (commandError s c (setPoison (accPut (ccAt s c).mxu q.acc.val (fun i j =>
        (Config.freeWord (2 ^ 120 * (s.turnNo + 1) + 64 * i + j)).setWidth 32)) q.acc true) q 0xFFFF 1)
    else
      .next (completeCommand (putMxu s c (setPoison (accPut (ccAt s c).mxu q.acc.val (fun i j =>
        BitVec.ofNat 32 (natOf (padBytes (ccAt s c) (off + 4 * (64 * i + j)) 4)))) q.acc false)) c q) := by
  show execMacld c u s = _
  simp only [execMacld, hhead, hop]

/-- The scratchpad of a cell after a MACST: what it writes is sound unless its accumulator is poisoned or an error ends it. -/
def storedPad (s : State) (c : Nat) (q : MxCmd) (off d : Nat) (fmt : BitVec 4) (sound : Bool) : State :=
  putCc s c (padWrite (ccAt s c) off (macstOut (ccAt s c).mxu q.acc fmt d sound))

theorem exec_macst {off d : Nat} {fmt : BitVec 4} (hop : q.op = .macst off d fmt) : exec (.macst c u) s =
    let s1 := storedPad s c q off d fmt (!(ccAt s c).mxu.poisoned[q.acc] && u = .none)
    if u ≠ .none then .next (commandError s1 c (ccAt s1 c).mxu q 0xFFFF 1) else .next (completeCommand s1 c q) := by
  show execMacst c u s = _
  simp only [execMacst, hhead, hop]
  rfl

theorem exec_mvld {h : Shape} {n : Fin 8} (hop : q.op = .mvld h n) : exec (.mvld c u) s =
    let fail (t : State) (cause : Nat) : State := commandError t c (putVec (ccAt s c).mxu n (openSlot s h)) q 0xFFFF cause
    match mxReads s c false [h] 0 .none s.coh.pins.length 0 (h.cols / 32) with
    | .wait t => .next t
    | .pause t p => .next (mxPause t c p)
    | .stop t _ cause => .next (fail t cause)
    | .ok t =>
      if u ≠ .none then .next (fail (unpin t s.coh.pins.length) 1)
      else
        match trailerFailure t c false [(2, h)] with
        | some f => .next (completeCommand (putMxu t c (trailerError (putVec (ccAt s c).mxu n (loadSlot t c h true)) q f)) c q)
        | none => .next (completeCommand (putMxu t c (putVec (ccAt s c).mxu n (loadSlot t c h false))) c q) := by
  show execMvld c u s = _
  simp only [execMvld, hhead, hop] <;> rfl

end

end Sys2Proof.Machine
end

section
/-! Proofs about MACST: the bytes that stand in the scratchpad after it, format by format (04 R83, R85; 14 R295, R297). -/

namespace Sys2Proof.Machine

open Sys2Proof.Safety

/-! ## Lists of pieces of one length -/

section
variable {α β : Type} {f : α → List β} {w : Nat}

theorem length_flatMap_of_length {l : List α} (h : ∀ x ∈ l, (f x).length = w) : (l.flatMap f).length = w * l.length := by
  induction l with
  | nil => rfl
  | cons x l ih =>
    obtain ⟨hx, hl⟩ := List.forall_mem_cons.mp h
    rw [List.flatMap_cons, List.length_append, hx, ih hl, List.length_cons]
    ring

/-- Element j of piece i. -/
theorem getD_flatMap_of_length (d : β) {j : Nat} (hj : j < w) {l : List α} (h : ∀ x ∈ l, (f x).length = w) :
    ∀ i (hi : i < l.length), (l.flatMap f).getD (w * i + j) d = (f l[i]).getD j d := by
  induction l with
  | nil => exact fun i hi => absurd hi (Nat.not_lt_zero i)
  | cons x l ih =>
    obtain ⟨hx, hl⟩ := List.forall_mem_cons.mp h
    intro i hi
    rw [List.flatMap_cons]
    cases i with
    | zero => rw [Nat.mul_zero, Nat.zero_add, List.getD_append _ _ _ _ (by omega), List.getElem_cons_zero]
    | succ i =>
      rw [List.getD_append_right _ _ _ _ (by rw [hx, Nat.mul_succ]; omega), hx, Nat.mul_succ,
        show w * i + w + j - w = w * i + j by omega, ih hl i (Nat.lt_of_succ_lt_succ hi), List.getElem_cons_succ]

theorem getD_flatMap_map_range (d : β) {g : Nat → α} {n i j : Nat} (hi : i < n) (hj : j < w) (h : ∀ i, (f (g i)).length = w) :
    (((List.range n).map g).flatMap f).getD (w * i + j) d = (f (g i)).getD j d := by
  have hl : ∀ x ∈ (List.range n).map g, (f x).length = w := by
    intro x hx
    obtain ⟨k, -, rfl⟩ := List.mem_map.mp hx
    exact h k
  rw [getD_flatMap_of_length d hj hl i (by simpa using hi)]
  simp

theorem length_flatMap_map_range {g : Nat → α} {n : Nat} (h : ∀ i, (f (g i)).length = w) :
    (((List.range n).map g).flatMap f).length = w * n := by
  rw [length_flatMap_of_length, List.length_map, List.length_range]
  intro x hx
  obtain ⟨k, -, rfl⟩ := List.mem_map.mp hx
  exact h k

end

/-! ## Bytes written to a scratchpad -/

/-- Bytes written within the scratchpad stand at their offsets, and all others are as before. -/
theorem memGet_padWrite {x : CtxCell} {off : Nat} {bs : List Byte} (h : off + bs.length ≤ padSize x) (p : Nat) :
    memGet (padWrite x off bs).spad p = if off ≤ p ∧ p < off + bs.length then bs.getD (p - off) 0 else memGet x.spad p := by
  have hfold : ∀ n, n ≤ bs.length → memGet ((List.range n).foldl (fun m i =>
      if off + i < padSize x then memSet m (off + i) (bs.getD i 0) else m) x.spad) p =
        if off ≤ p ∧ p < off + n then bs.getD (p - off) 0 else memGet x.spad p := by
    intro n hn
    induction n with
    | zero => rw [if_neg (by omega)]; rfl
    | succ n ih =>
      rw [List.range_succ, List.foldl_append, List.foldl_cons, List.foldl_nil, if_pos (by omega), memGet_memSet, ih (by omega)]
      by_cases hp : off + n = p
      · rw [if_pos hp, if_pos (by omega), show p - off = n by omega]
      · simp only [if_neg hp, show (off ≤ p ∧ p < off + (n + 1)) ↔ (off ≤ p ∧ p < off + n) by omega]
  exact hfold bs.length le_rfl

section
variable (s : State) (c : Nat) (q : MxCmd) (off d : Nat) (fmt : BitVec 4) (sound : Bool)

theorem cellStep_storedPad : CellStep c s (storedPad s c q off d fmt sound) := cellStep_putCc s c _

theorem ccAt_storedPad : ccAt (storedPad s c q off d fmt sound) c =
    padWrite (ccAt s c) off (macstOut (ccAt s c).mxu q.acc fmt d sound) := ccAt_putCc_same ..

theorem getD_bytesOf_toNat {m k j : Nat} (w : BitVec m) (hj : j < k) : (bytesOf w.toNat k).getD j 0 = w.extractLsb' (8 * j) 8 := by
  have hlen : j < (bytesOf w.toNat k).length := by rwa [length_bytesOf]
  rw [List.getD_eq_getElem _ _ hlen, getElem_bytesOf_toNat]

end

/-! ## FP32 and BF16 -/

section
variable (x : Mxu) (a : Fin 4) (d : Nat) (sound : Bool)

theorem macstOut_f32 : (macstOut x a 11 d sound).length = 16384 ∧
    ∀ n, n < 16384 → (macstOut x a 11 d sound).getD n 0 = (accGet x a.val (n / 256) (n / 4 % 64)).extractLsb' (8 * (n % 4)) 8 := by
  have hout : macstOut x a 11 d sound =
      ((List.range 4096).map (fun n => accGet x a.val (n / 64) (n % 64))).flatMap (fun v => bytesOf v.toNat 4) := by
    simp only [macstOut, show bxOf 11 = none from rfl, if_true]
  have hlen (i : Nat) : (bytesOf (accGet x a.val (i / 64) (i % 64)).toNat 4).length = 4 := length_bytesOf ..
  refine ⟨by rw [hout, length_flatMap_map_range hlen], fun n hn => ?_⟩
  rw [hout, ← Nat.div_add_mod n 4, getD_flatMap_map_range 0 (by omega) (Nat.mod_lt n (by omega)) hlen,
    getD_bytesOf_toNat _ (Nat.mod_lt n (by omega)), Nat.div_add_mod, Nat.div_div_eq_div_mul]

theorem macstOut_bf16 : (macstOut x a 10 d sound).length = 8192 ∧
    ∀ n, n < 8192 → (macstOut x a 10 d sound).getD n 0 =
      (fpToFp .bf16 .f32 .rne (accGet x a.val (n / 128) (n / 2 % 64))).extractLsb' (8 * (n % 2)) 8 := by
  have hout : macstOut x a 10 d sound = ((List.range 4096).map (fun n => accGet x a.val (n / 64) (n % 64))).flatMap
      (fun v => bytesOf (fpToFp .bf16 .f32 .rne v).toNat 2) := by
    simp only [macstOut, show bxOf 10 = none from rfl, show (10 : BitVec 4) ≠ 11 by decide, if_false]
  have hlen (i : Nat) : (bytesOf (fpToFp .bf16 .f32 .rne (accGet x a.val (i / 64) (i % 64))).toNat 2).length = 2 :=
    length_bytesOf ..
  refine ⟨by rw [hout, length_flatMap_map_range hlen], fun n hn => ?_⟩
  rw [hout, ← Nat.div_add_mod n 2, getD_flatMap_map_range 0 (by omega) (Nat.mod_lt n (by omega)) hlen,
    getD_bytesOf_toNat _ (Nat.mod_lt n (by omega)), Nat.div_add_mod, Nat.div_div_eq_div_mul]

end

/-! ## BX blocks (04 R83, R85) -/

/-- The bytes of a block. -/
def bxSize (f : BxTy) : Nat := if f = .bx8 then 32 else 16

/-- Block b of an accumulator, packed. -/
def accBx (x : Mxu) (a : Fin 4) (f : BxTy) (d b : Nat) : BxBlock :=
  bxPack f d ((List.range 32).map (fun t => accGet x a.val (b / 2) (b % 2 * 32 + t)))

/-- The two exponent bytes of a block. -/
def bxExps (b : BxBlock) : List Byte := [BitVec.ofNat 8 b.e0, BitVec.ofNat 8 b.e1]

/-- The element bytes of a block. -/
def bxElems (f : BxTy) (b : BxBlock) : List Byte := bxBytes f (b.elems.map BxElem.bits)

/-- The finalised trailer of an accumulator's blocks. -/
def accTrailer (x : Mxu) (a : Fin 4) (f : BxTy) (d : Nat) : Trailer :=
  trailerFinal (((List.range 128).map (accBx x a f d)).foldl (trailerAdd f) ⟨0, 0, false, 0, false, false, 0, 0, 0⟩)

section
variable (x : Mxu) (a : Fin 4) (f : BxTy) (d : Nat) (sound : Bool)

theorem length_accBx (b : Nat) : (accBx x a f d b).elems.length = 32 := by simp [accBx, bxPack]

theorem length_bxElems_accBx (b : Nat) : (bxElems f (accBx x a f d b)).length = bxSize f := by
  have h := length_accBx x a f d b
  cases f <;> simp [bxElems, bxBytes, bxSize, h]

theorem length_bxExps (b : BxBlock) : (bxExps b).length = 2 := rfl

theorem macstOut_bx : macstOut x a (if f = .bx8 then 12 else 13) d sound =
    ((List.range 128).map (accBx x a f d)).flatMap (bxElems f) ++ ((List.range 128).map (accBx x a f d)).flatMap bxExps ++
      bytesOf (trailerBits { accTrailer x a f d with final := sound }) 32 := by
  cases f <;> rfl

/-- Where the elements, the exponents and the trailer of a BX MACST stand. -/
theorem getD_macstOut_bx : let bs := macstOut x a (if f = .bx8 then 12 else 13) d sound
    bs.length = 128 * bxSize f + 288 ∧
    (∀ b j, b < 128 → j < bxSize f → bs.getD (bxSize f * b + j) 0 = (bxElems f (accBx x a f d b)).getD j 0) ∧
    (∀ b j, b < 128 → j < 2 → bs.getD (128 * bxSize f + (2 * b + j)) 0 = (bxExps (accBx x a f d b)).getD j 0) ∧
    ∀ j, bs.getD (128 * bxSize f + 256 + j) 0 =
      (bytesOf (trailerBits { accTrailer x a f d with final := sound }) 32).getD j 0 := by
  dsimp only
  rw [macstOut_bx]
  have hE := length_flatMap_map_range (f := bxElems f) (n := 128) (length_bxElems_accBx x a f d)
  have hX := length_flatMap_map_range (f := bxExps) (n := 128) (fun b => length_bxExps (accBx x a f d b))
  have hgetE {b j : Nat} (hb : b < 128) (hj : j < bxSize f) :=
    getD_flatMap_map_range (0 : Byte) hb hj (length_bxElems_accBx x a f d)
  have hgetX {b j : Nat} (hb : b < 128) (hj : j < 2) :=
    getD_flatMap_map_range (0 : Byte) hb hj (fun b => length_bxExps (accBx x a f d b))
  generalize ((List.range 128).map (accBx x a f d)).flatMap (bxElems f) = E at *
  generalize ((List.range 128).map (accBx x a f d)).flatMap bxExps = X at *
  refine ⟨?_, fun b j hb hj => ?_, fun b j hb hj => ?_, fun j => ?_⟩
  · rw [List.length_append, List.length_append, hE, hX, length_bytesOf]
    omega
  · have hlt := Nat.mul_le_mul_left (bxSize f) (show b + 1 ≤ 128 by omega)
    rw [Nat.mul_succ] at hlt
    rw [List.append_assoc, List.getD_append _ _ _ _ (by omega), hgetE hb hj]
  · rw [List.append_assoc, List.getD_append_right _ _ _ _ (by omega), List.getD_append _ _ _ _ (by omega), hE, ← hgetX hb hj]
    congr 1
    omega
  · rw [List.getD_append_right _ _ _ _ (by rw [List.length_append]; omega), List.length_append, hE, hX,
      show 128 * bxSize f + 256 + j - (bxSize f * 128 + 2 * 128) = j by omega]

end

/-! ## The trailer's fields (04 R85) -/

/-- A running trailer state whose counts have not saturated and whose largest magnitude is one of a finite value. -/
structure Trailer.Sound (t : Trailer) (n : Nat) : Prop where
  elems : t.elems = 32 * n
  satcnt : t.satcnt < 2 ^ 32
  maxmag : t.maxmag < 2 ^ 32
  fmt : t.fmt < 4

theorem bxFinMag_lt (x : FpBits) : bxFinMag x < 2 ^ 32 := by
  have := fpMag_lt_signBit .f32 x
  unfold bxFinMag
  split
  · decide
  · exact this.trans (by decide)

theorem bxBlockMag_lt (xs : List FpBits) : bxBlockMag xs < 2 ^ 32 :=
  foldl_invariant (fun m x => max m (bxFinMag x)) (· < 2 ^ 32) (fun _ x h => Nat.max_lt.mpr ⟨h, bxFinMag_lt x⟩) xs 0 (by decide)

section
variable (x : Mxu) (a : Fin 4) (f : BxTy) (d : Nat)

theorem sound_trailerAdd {t : Trailer} {n : Nat} (h : t.Sound n) (hn : n < 128) (b : Nat) :
    (trailerAdd f t (accBx x a f d b)).Sound (n + 1) where
  elems := by
    show min (t.elems + (accBx x a f d b).elems.length) _ = _
    rw [length_accBx, h.elems]
    omega
  satcnt := by
    show min _ (2 ^ 32 - 1) < _
    omega
  maxmag := Nat.max_lt.mpr ⟨h.maxmag, bxBlockMag_lt _⟩
  fmt := by
    show bxFmt f < 4
    cases f <;> decide

theorem sound_trailerFinal {t : Trailer} {n : Nat} (h : t.Sound n) : (trailerFinal t).Sound n :=
  ⟨h.elems, h.satcnt, h.maxmag, h.fmt⟩

theorem sound_accTrailer : (accTrailer x a f d).Sound 128 := by
  have hrun : ∀ n, n ≤ 128 →
      (((List.range n).map (accBx x a f d)).foldl (trailerAdd f) ⟨0, 0, false, 0, false, false, 0, 0, 0⟩).Sound n := by
    intro n hn
    induction n with
    | zero => exact ⟨rfl, (Nat.two_pow_pos 32 :), (Nat.two_pow_pos 32 :), (Nat.two_pow_pos 2 :)⟩
    | succ n ih =>
      rw [List.range_succ, List.map_append, List.foldl_append]
      exact sound_trailerAdd x a f d (ih (by omega)) (by omega) n
  exact sound_trailerFinal (hrun 128 le_rfl)

end

/-- FINAL of a trailer is bit 127 (04 R85). -/
theorem testBit_trailerBits_final {t : Trailer} (h : t.Sound 128) : (trailerBits t).testBit 127 = t.final := by
  obtain ⟨he, hs, hm, hf⟩ := h
  have hi := t.inf.toNat_le
  have hn := t.nan.toNat_le
  have hfin : t.final.toNat < 2 := by cases t.final <;> decide
  have hdiv : trailerBits t / 2 ^ 127 = t.final.toNat + 2 * (t.crc.toNat + t.pcrc.toNat * 2 ^ 32) := by
    rw [trailerBits, he]
    omega
  rw [Nat.testBit_eq_decide_div_mod_eq, hdiv, Nat.add_mul_mod_self_left]
  cases t.final <;> rfl

end Sys2Proof.Machine
end

section
/-! Proofs about the commands of the MXU, each from the head of the queue to its end (14 R291, R294-R298). -/

namespace Sys2Proof.Machine

open Sys2Proof.Safety

section
variable {s v : State} {c k cause off d : Nat} {q : MxCmd} {l : List MxCmd} {u : EngineUpset} {fmt : BitVec 4}
  {f : BitVec 2 × Word} {Q : State → Mxu → Prop}

theorem accIs_accPut {p : Bool} {g : Nat → Nat → FpBits} {z : Mxu}
    (hz : (setPoison (accPut (ccAt s c).mxu q.acc.val g) q.acc p).SameValues z) : AccIs (ccAt s c).mxu q.acc z p g := by
  refine ⟨hz.poisoned, hz.slots, fun b i j _ hi hj => ?_⟩
  have hacc : accGet z b i j = accGet (accPut (ccAt s c).mxu q.acc.val g) b i j := by
    rw [accGet, hz.acc]
    rfl
  rw [hacc, accGet_accPut _ _ _ _ hi hj]

theorem within_accPut (x : Mxu) (a : Fin 4) (p : Bool) (g : Nat → Nat → FpBits) : x.Within (setPoison (accPut x a.val g) a p) :=
  ⟨rfl, rfl, rfl⟩

theorem within_putVec (x : Mxu) (n : Fin 8) (y : VecSlot) : x.Within (putVec x n y) := ⟨rfl, rfl, rfl⟩

/-- An event in channel 31 does not look at the scratchpad. -/
theorem ccEvent_padWrite (z : CtxCell) (bs : List Byte) (n : Nat) (w : Word) :
    (ccEvent (padWrite z off bs) n w).chans = (ccEvent z n w).chans ∧
      (ccEvent (padWrite z off bs) n w).dropped = (ccEvent z n w).dropped := by
  have hchans : (padWrite z off bs).chans = z.chans := rfl
  have hdropped : (padWrite z off bs).dropped = z.dropped := rfl
  unfold ccEvent
  rw [hchans, hdropped]
  split
  · unfold chanPush
    rw [hchans]
    split <;> exact ⟨rfl, rfl⟩
  · exact ⟨rfl, rfl⟩

variable (hhead : headCommand s c = some q) (hqueue : (ccAt s c).mxu.queue = q :: l)
include hhead hqueue

/-! ## MZERO and MACLD -/

theorem mzero_ends (hop : q.op = .mzero) : MxEnds s s c l (.mzero c) (fun _ y => AccIs (ccAt s c).mxu q.acc y false (fun _ _ => 0)) :=
  mxEnds_of_within (.refl s) hqueue (within_accPut ..) (exec_mzero hhead hop) fun _ _ => accIs_accPut

theorem macld_ends (hop : q.op = .macld off) (hbad : padBad (ccAt s c) off 16384 = false) :
    MxEnds s s c l (.macld c .none) (fun _ y => AccIs (ccAt s c).mxu q.acc y false
      (fun i j => BitVec.ofNat 32 (natOf (padBytes (ccAt s c) (off + 4 * (64 * i + j)) 4)))) := by
  have hi := exec_macld (u := .none) hhead hop
  rw [if_neg (by simp [hbad])] at hi
  exact mxEnds_of_within (.refl s) hqueue (within_accPut ..) hi fun _ _ => accIs_accPut

/-- An error leaves the values of the accumulator open. -/
theorem macld_fails (hop : q.op = .macld off) (hbad : u ≠ .none ∨ padBad (ccAt s c) off 16384 = true) :
    MxFails s s c q l (.macld c u) 0xFFFF 1 (fun _ y => ∃ g, AccIs (ccAt s c).mxu q.acc y true g) := by
  have hi := exec_macld (u := u) hhead hop
  rw [if_pos (by simpa using hbad)] at hi
  exact mxFails_of_commandError (.refl s) hqueue (within_accPut ..) hi fun _ _ hz => ⟨_, accIs_accPut hz⟩

/-! ## MACST -/

/-- A MACST that ends leaves its bytes in the scratchpad. -/
theorem macst_ends (hop : q.op = .macst off d fmt) {bs : List Byte}
    (hbs : macstOut (ccAt s c).mxu q.acc fmt d (!(ccAt s c).mxu.poisoned[q.acc]) = bs) (hlen : off + bs.length ≤ padSize (ccAt s c))
    (hQ : ∀ t, (∀ p, memGet (ccAt t c).spad p =
        if off ≤ p ∧ p < off + bs.length then bs.getD (p - off) 0 else memGet (ccAt s c).spad p) → Q t (ccAt s c).mxu)
    (hsame : ∀ t y, (ccAt s c).mxu.SameValues y → Q t (ccAt s c).mxu → Q t y) : MxEnds s s c l (.macst c .none) Q := by
  have hi := exec_macst (u := .none) hhead hop
  dsimp only at hi
  rw [if_neg (by simp), show (decide (EngineUpset.none = EngineUpset.none)) = true from rfl, Bool.and_true] at hi
  have hcc := ccAt_storedPad s c q off d fmt (!(ccAt s c).mxu.poisoned[q.acc])
  refine mxEnds_of_completeCommand (.refl s) hi (cellStep_storedPad ..) ?_ ?_ ?_
  · rw [hcc]
    exact hqueue
  · rw [hcc]
    rfl
  · rw [hcc]
    refine hsame _ _ ⟨rfl, rfl, rfl⟩ (hQ _ fun p => ?_)
    rw [spad_completeCommand, hcc, hbs, memGet_padWrite hlen]

/-- A MACST that an error ends writes a trailer with FINAL 0. -/
theorem macst_fails (hop : q.op = .macst off d fmt) (hu : u ≠ .none) :
    MxFails s s c q l (.macst c u) 0xFFFF 1 (fun t y => y.acc = (ccAt s c).mxu.acc ∧ y.poisoned = (ccAt s c).mxu.poisoned ∧
      (ccAt t c).spad = (padWrite (ccAt s c) off (macstOut (ccAt s c).mxu q.acc fmt d false)).spad) := by
  have hi := exec_macst (u := u) hhead hop
  dsimp only at hi
  rw [if_pos hu, decide_eq_false hu, Bool.and_false] at hi
  have hcc := ccAt_storedPad s c q off d fmt false
  refine mxEnds_of_commandError (.refl s) (cellStep_storedPad ..) hi ?_ ?_ fun t hs hc hd => ?_
  · rw [hcc]
    exact hqueue
  · rw [hcc]
    rfl
  · rw [hcc] at hs hc hd ⊢
    obtain ⟨hchans, hdropped⟩ := ccEvent_padWrite (off := off) (ccAt s c) (macstOut (ccAt s c).mxu q.acc fmt d false) 2
      (mxDetail q 0xFFFF 1)
    exact ⟨rfl, rfl, rfl, rfl, hc.trans hchans, hd.trans hdropped, rfl, rfl, hs⟩

/-! ## MVLD -/

section
variable {h : Shape} {n : Fin 8} (hop : q.op = .mvld h n)
include hop

theorem mvld_stop (hr : mxReads s c false [h] 0 .none s.coh.pins.length 0 (h.cols / 32) = .stop v k cause) :
    MxFails s v c q l (.mvld c u) 0xFFFF cause (fun _ y => (putVec (ccAt s c).mxu n (openSlot s h)).SameValues y) := by
  have hi := exec_mvld (u := u) hhead hop
  dsimp only at hi
  rw [hr] at hi
  have hv := quiet_mxReads c false [h] 0 .none s.coh.pins.length (h.cols / 32) s 0
  rw [hr] at hv
  exact mxFails_of_commandError hv hqueue (within_putVec ..) hi fun _ _ hz => hz

theorem mvld_trailer (hr : mxReads s c false [h] 0 .none s.coh.pins.length 0 (h.cols / 32) = .ok v)
    (hf : trailerFailure v c false [(2, h)] = some f) : MxTrailers s v c q l (.mvld c .none) f
      (fun _ y => (putVec (ccAt s c).mxu n (loadSlot v c h true)).SameValues y) := by
  have hi := exec_mvld (u := .none) hhead hop
  dsimp only at hi
  rw [hr] at hi
  simp only [hf] at hi
  have hv := quiet_mxReads c false [h] 0 .none s.coh.pins.length (h.cols / 32) s 0
  rw [hr] at hv
  exact mxTrailers_of_trailerError hv hqueue (within_putVec ..) hi fun _ _ hz => hz

theorem mvld_ok (hr : mxReads s c false [h] 0 .none s.coh.pins.length 0 (h.cols / 32) = .ok v)
    (hf : trailerFailure v c false [(2, h)] = none) : MxEnds s v c l (.mvld c .none)
      (fun _ y => (putVec (ccAt s c).mxu n (loadSlot v c h false)).SameValues y) := by
  have hi := exec_mvld (u := .none) hhead hop
  dsimp only at hi
  rw [hr] at hi
  simp only [hf] at hi
  have hv := quiet_mxReads c false [h] 0 .none s.coh.pins.length (h.cols / 32) s 0
  rw [hr] at hv
  exact mxEnds_of_within hv hqueue (within_putVec ..) hi fun _ _ hz => hz

end

end

end Sys2Proof.Machine
end

section
/-! The commands of the MXU: how each that completes ends (14 R291, R294-R296, R299; 04 R75, R83, R85, R88). -/

namespace Sys2Proof.Machine

open Sys2Proof.Safety

section
variable {s v : State} {c off d : Nat} {q : MxCmd} {l : List MxCmd} {i : Instr} {Q R : State → Mxu → Prop}

theorem MxEnds.imp (h : MxEnds s v c l i Q) (hQ : ∀ t y, Q t y → R t y) : MxEnds s v c l i R := by
  obtain ⟨honly, hbytes, t, hi, hrest, hother, hqueue, hdone, hnarrow, hend⟩ := h
  exact ⟨honly, hbytes, t, hi, hrest, hother, hqueue, hdone, hnarrow, hQ t _ hend⟩

/-- What a MACST leaves: the accumulators and their poison as they were, and its bytes in the scratchpad. -/
def Stored (s : State) (c off : Nat) (bs : List Byte) (t : State) (y : Mxu) : Prop :=
  y.acc = (ccAt s c).mxu.acc ∧ y.poisoned = (ccAt s c).mxu.poisoned ∧
    ∀ p, memGet (ccAt t c).spad p = if off ≤ p ∧ p < off + bs.length then bs.getD (p - off) 0 else memGet (ccAt s c).spad p

variable (hhead : headCommand s c = some q) (hqueue : (ccAt s c).mxu.queue = q :: l)
include hhead hqueue

theorem macst_stored {fmt : BitVec 4} (hop : q.op = .macst off d fmt) {bs : List Byte}
    (hbs : macstOut (ccAt s c).mxu q.acc fmt d (!(ccAt s c).mxu.poisoned[q.acc]) = bs)
    (hlen : off + bs.length ≤ padSize (ccAt s c)) : MxEnds s s c l (.macst c .none) (Stored s c off bs) :=
  macst_ends hhead hqueue hop hbs hlen (fun _ hpad => ⟨rfl, rfl, hpad⟩) fun _ _ hsame hQ =>
    ⟨hsame.acc, hsame.poisoned, hQ.2.2⟩

theorem macst_f32 (hop : q.op = .macst off d 11) (hlen : off + 16384 ≤ padSize (ccAt s c)) :
    MxEnds s s c l (.macst c .none) (fun t y => y.acc = (ccAt s c).mxu.acc ∧ y.poisoned = (ccAt s c).mxu.poisoned ∧
      ∀ p, memGet (ccAt t c).spad p = if off ≤ p ∧ p < off + 16384 then
        (accGet (ccAt s c).mxu q.acc.val ((p - off) / 256) ((p - off) / 4 % 64)).extractLsb' (8 * ((p - off) % 4)) 8
      else memGet (ccAt s c).spad p) := by
  obtain ⟨hlength, hget⟩ := macstOut_f32 (ccAt s c).mxu q.acc d (!(ccAt s c).mxu.poisoned[q.acc])
  refine (macst_stored hhead hqueue hop rfl (by rwa [hlength])).imp fun t y hstored => ?_
  obtain ⟨hacc, hpoison, hpad⟩ := hstored
  refine ⟨hacc, hpoison, fun p => ?_⟩
  rw [hpad, hlength]
  exact ite_congr rfl (fun hp => hget _ (by omega)) fun _ => rfl

theorem macst_bf16 (hop : q.op = .macst off d 10) (hlen : off + 8192 ≤ padSize (ccAt s c)) :
    MxEnds s s c l (.macst c .none) (fun t y => y.acc = (ccAt s c).mxu.acc ∧ y.poisoned = (ccAt s c).mxu.poisoned ∧
      ∀ p, memGet (ccAt t c).spad p = if off ≤ p ∧ p < off + 8192 then
        (fpToFp .bf16 .f32 .rne (accGet (ccAt s c).mxu q.acc.val ((p - off) / 128) ((p - off) / 2 % 64))).extractLsb'
          (8 * ((p - off) % 2)) 8
      else memGet (ccAt s c).spad p) := by
  obtain ⟨hlength, hget⟩ := macstOut_bf16 (ccAt s c).mxu q.acc d (!(ccAt s c).mxu.poisoned[q.acc])
  refine (macst_stored hhead hqueue hop rfl (by rwa [hlength])).imp fun t y hstored => ?_
  obtain ⟨hacc, hpoison, hpad⟩ := hstored
  refine ⟨hacc, hpoison, fun p => ?_⟩
  rw [hpad, hlength]
  exact ite_congr rfl (fun hp => hget _ (by omega)) fun _ => rfl

/-- The elements of the blocks stand first, then their exponents, then the trailer. -/
theorem macst_bx {f : BxTy} (hop : q.op = .macst off d (if f = .bx8 then 12 else 13))
    (hlen : off + 128 * bxSize f + 288 ≤ padSize (ccAt s c)) :
    MxEnds s s c l (.macst c .none) (fun t y => y.acc = (ccAt s c).mxu.acc ∧ y.poisoned = (ccAt s c).mxu.poisoned ∧
      (accTrailer (ccAt s c).mxu q.acc f d).elems = 4096 ∧
      (∀ b j, b < 128 → j < bxSize f → memGet (ccAt t c).spad (off + bxSize f * b + j) =
        (bxElems f (accBx (ccAt s c).mxu q.acc f d b)).getD j 0) ∧
      (∀ b, b < 128 →
        memGet (ccAt t c).spad (off + 128 * bxSize f + 2 * b) = BitVec.ofNat 8 (accBx (ccAt s c).mxu q.acc f d b).e0 ∧
        memGet (ccAt t c).spad (off + 128 * bxSize f + 2 * b + 1) = BitVec.ofNat 8 (accBx (ccAt s c).mxu q.acc f d b).e1) ∧
      (∀ j, j < 32 → memGet (ccAt t c).spad (off + 128 * bxSize f + 256 + j) =
        (bytesOf (trailerBits { accTrailer (ccAt s c).mxu q.acc f d with final := !(ccAt s c).mxu.poisoned[q.acc] }) 32).getD j 0) ∧
      ∀ p, p < off ∨ off + 128 * bxSize f + 288 ≤ p → memGet (ccAt t c).spad p = memGet (ccAt s c).spad p) := by
  obtain ⟨hlength, helems, hexps, htrailer⟩ := getD_macstOut_bx (ccAt s c).mxu q.acc f d (!(ccAt s c).mxu.poisoned[q.acc])
  refine (macst_stored hhead hqueue hop rfl (by omega)).imp fun t y hstored => ?_
  obtain ⟨hacc, hpoison, hpad⟩ := hstored
  rw [hlength] at hpad
  have hin {n : Nat} (hn : n < 128 * bxSize f + 288) : memGet (ccAt t c).spad (off + n) =
      (macstOut (ccAt s c).mxu q.acc (if f = .bx8 then 12 else 13) d (!(ccAt s c).mxu.poisoned[q.acc])).getD n 0 := by
    rw [hpad, if_pos (by omega), Nat.add_sub_cancel_left]
  refine ⟨hacc, hpoison, (sound_accTrailer ..).elems, fun b j hb hj => ?_, fun b hb => ⟨?_, ?_⟩, fun j hj => ?_, fun p hp => ?_⟩
  · have hlt := Nat.mul_le_mul_left (bxSize f) (show b + 1 ≤ 128 by omega)
    rw [Nat.mul_succ] at hlt
    rw [Nat.add_assoc, hin (by omega), helems b j hb hj]
  · rw [Nat.add_assoc, hin (by omega)]
    exact hexps b 0 hb (by omega)
  · rw [Nat.add_assoc, Nat.add_assoc, hin (by omega), hexps b 1 hb (by omega)]
    rfl
  · rw [Nat.add_assoc, Nat.add_assoc, hin (by omega), ← Nat.add_assoc, htrailer]
  · rw [hpad, if_neg (by omega)]

/-- MVLD fills its slot. -/
theorem mvld_fills {h : Shape} {n : Fin 8} (hop : q.op = .mvld h n)
    (hr : mxReads s c false [h] 0 .none s.coh.pins.length 0 (h.cols / 32) = .ok v)
    (hf : trailerFailure v c false [(2, h)] = none) : MxEnds s v c l (.mvld c .none) (fun _ y =>
      y.acc = (ccAt s c).mxu.acc ∧ y.poisoned = (ccAt s c).mxu.poisoned ∧
        y.slots = (ccAt s c).mxu.slots.set n (loadSlot v c h false)) :=
  (mvld_ok hhead hqueue hop hr hf).imp fun _ _ hsame => ⟨hsame.acc, hsame.poisoned, hsame.slots⟩

end

/-- No slot of an MMV is bad. -/
theorem vsetSlots_any_eq_false {vset : BitVec 8} {slots : Vector VecSlot 8}
    (h : ∀ n : Fin 8, vset.getLsbD n.val = true → slots[n].bad = false) :
    (vsetSlots vset).any (fun n => slots[n].bad) = false := by
  rw [vsetSlots, List.any_eq_false]
  intro n hn
  exact Bool.not_eq_true _ ▸ h n (List.mem_filter.mp hn).2

theorem matrixCommands : Claims.MatrixCommands := by
  intro s v w c q l x pad alarm Ends Acc blocks runs reads hlive hpaused hqueue
  have hhead := headCommand_eq_some hlive hpaused hqueue
  refine ⟨mzero_ends hhead hqueue, fun off => macld_ends hhead hqueue, fun off d => macst_f32 hhead hqueue,
    fun off d => macst_bf16 hhead hqueue, fun f off d hop => macst_bx hhead hqueue hop, fun h g hop hruns hr hf => ?_,
    fun h g hop hruns hr => ?_, fun h vset hop hruns hgood hr hf => ?_, fun h n hop hr hf => ?_⟩
  · exact matrix_ok hqueue (exec_mma hhead hop) hruns (blocksGive_mma s c q v h g) hr hf
  · obtain ⟨hi, hquiet⟩ := matrix_wait (exec_mma hhead hop) hruns hr
    exact ⟨hi, hquiet.only, hquiet.bytes⟩
  · have hi := exec_mmv (u := .none) hhead hop
    rw [vsetSlots_any_eq_false hgood] at hi
    exact matrix_ok hqueue hi hruns (blocksGive_mmv s c q v h vset) hr hf
  · exact mvld_fills hhead hqueue hop hr hf

end Sys2Proof.Machine
end

section
/-! The commands of the MXU that an error, a fault or a trailer ends (14 R296-R298, R301, R283; 18 R351). -/

namespace Sys2Proof.Machine

open Sys2Proof.Safety

/-- The head command of a queue ends, with nothing said of the alarms. -/
def MxCompletes (s v : State) (c : Nat) (l : List MxCmd) (i : Instr) (Q : State → Mxu → Prop) : Prop :=
  OnlyMemory s v ∧ SameBytes s v ∧ ∃ t, exec i s = .next t ∧ { t with cells := s.cells } = v ∧ OtherCells c s t ∧
    (ccAt t c).mxu.queue = l ∧ (ccAt t c).mxu.done = (ccAt s c).mxu.done + 1 ∧ Q t (ccAt t c).mxu

/-- An error of a command that ends it, its ERR written out by its cause (14 R297). -/
def MxErrs (s v : State) (c : Nat) (q : MxCmd) (l : List MxCmd) (i : Instr) (k cause : Nat) (Q : State → Mxu → Prop) : Prop :=
  MxCompletes s v c l i (fun t y => y.errtk = BitVec.ofNat 16 q.ticket ∧ y.k = BitVec.ofNat 16 k ∧
    y.err = (match cause with | 1 => 1 | 2 => 3 | 3 => 4 | 4 => 5 | _ => y.err) ∧ y.pend = (ccAt s c).mxu.pend ∧
    (ccAt t c).chans = (ccEvent (ccAt s c) 2 (mxDetail q k cause)).chans ∧
    (ccAt t c).dropped = (ccEvent (ccAt s c) 2 (mxDetail q k cause)).dropped ∧ Q t y)

section
variable {s v : State} {c off d k cause : Nat} {q : MxCmd} {l : List MxCmd} {i : Instr} {Q R : State → Mxu → Prop}
  {f : BitVec 2 × Word} {e : EngineUpset}

theorem MxEnds.completes (h : MxEnds s v c l i Q) : MxCompletes s v c l i Q := by
  obtain ⟨honly, hbytes, t, hi, hrest, hother, hqueue, hdone, -, hend⟩ := h
  exact ⟨honly, hbytes, t, hi, hrest, hother, hqueue, hdone, hend⟩

theorem MxTrailers.imp (h : MxTrailers s v c q l i f Q) (hQ : ∀ t y, Q t y → R t y) : MxTrailers s v c q l i f R :=
  MxEnds.imp h fun t y ⟨hticket, hk, herr, hchans, hpend, hend⟩ => ⟨hticket, hk, herr, hchans, hpend, hQ t y hend⟩

theorem MxFails.imp (h : MxFails s v c q l i k cause Q) (hQ : ∀ t y, Q t y → R t y) : MxFails s v c q l i k cause R :=
  MxEnds.imp h fun t y ⟨hticket, hk, herr, hpend, hchans, hdropped, hend⟩ =>
    ⟨hticket, hk, herr, hpend, hchans, hdropped, hQ t y hend⟩

theorem MxFails.errs (h : MxFails s v c q l i k cause Q) : MxErrs s v c q l i k cause Q := by
  refine MxEnds.completes (MxEnds.imp h fun t y hend => ?_)
  obtain ⟨hticket, hk, herr, hend⟩ := hend
  refine ⟨hticket, hk, ?_, hend⟩
  rw [herr]
  split <;> rfl

/-! ## A poisoned accumulator, and the trailer of a MACST -/

section
variable (hqueue : (ccAt s c).mxu.queue = q :: l) {hs : List (BitVec 2 × Shape)} {nb : Nat} {stream bad : Bool}
  {block : State → Mxu → Nat → Mxu}
include hqueue

theorem matrix_poisoned_completes (hi : exec i s = .next (runMatrix s c q hs nb stream bad block e))
    (hruns : ¬((ccAt s c).mxu.poisoned[q.acc] = false ∨ q.res = true)) : MxCompletes s s c l i (fun _ y =>
      y.acc = (ccAt s c).mxu.acc ∧ y.poisoned = (ccAt s c).mxu.poisoned ∧ y.slots = (ccAt s c).mxu.slots) :=
  (MxEnds.imp (matrix_poisoned hqueue hi hruns) fun _ _ hsame => ⟨hsame.acc, hsame.poisoned, hsame.slots⟩).completes

end

/-- A bit of a byte of a number. -/
theorem getLsbD_getD_bytesOf {n m j b : Nat} (hj : j < m) (hb : b < 8) :
    ((bytesOf n m).getD j 0).getLsbD b = n.testBit (8 * j + b) := by
  have hlen : j < (bytesOf n m).length := by rwa [length_bytesOf]
  rw [List.getD_eq_getElem _ _ hlen, getElem_bytesOf, BitVec.getLsbD_ofNat, show 256 ^ j = 2 ^ (8 * j) by rw [Nat.pow_mul],
    Nat.testBit_div_two_pow, Nat.add_comm b, decide_eq_true hb, Bool.true_and]

/-- A BX8 MACST whose values are not sound leaves FINAL 0 in its trailer. -/
theorem getD_macstOut_final (x : Mxu) (a : Fin 4) (d : Nat) : ((macstOut x a 12 d false).getD (4352 + 15) 0).getLsbD 7 = false := by
  obtain ⟨-, -, -, htrailer⟩ := getD_macstOut_bx x a .bx8 d false
  have hsound : ({ accTrailer x a .bx8 d with final := false } : Trailer).Sound 128 := by
    obtain ⟨helems, hsat, hmag, hfmt⟩ := sound_accTrailer x a .bx8 d
    exact ⟨helems, hsat, hmag, hfmt⟩
  have hbyte : (macstOut x a 12 d false).getD (4352 + 15) 0 =
      (bytesOf (trailerBits { accTrailer x a .bx8 d with final := false }) 32).getD 15 0 := htrailer 15
  rw [hbyte, getLsbD_getD_bytesOf (by omega) (by omega)]
  exact testBit_trailerBits_final hsound

/-! ## MVLD, MACLD and MACST -/

section
variable (hhead : headCommand s c = some q) (hqueue : (ccAt s c).mxu.queue = q :: l)
include hhead hqueue

/-- An error marks the slot of an MVLD. -/
theorem mvld_errs {h : Shape} {n : Fin 8} (hop : q.op = .mvld h n)
    (hr : mxReads s c false [h] 0 .none s.coh.pins.length 0 (h.cols / 32) = .stop v k cause) :
    MxErrs s v c q l (.mvld c e) 0xFFFF cause (fun _ y => y.acc = (ccAt s c).mxu.acc ∧ y.poisoned = (ccAt s c).mxu.poisoned ∧
      (y.slots[n]).bad = true ∧ ∀ m, m ≠ n → y.slots[m] = (ccAt s c).mxu.slots[m]) := by
  refine ((mvld_stop hhead hqueue hop hr).imp fun _ y hsame => ?_).errs
  have hslots : y.slots = (ccAt s c).mxu.slots.set n (openSlot s h) := hsame.slots
  refine ⟨hsame.acc, hsame.poisoned, ?_, fun m hm => ?_⟩
  · simp [hslots, openSlot]
  · rw [hslots]
    exact Vector.getElem_set_ne _ _ fun heq => hm (Fin.ext heq.symm)

theorem mvld_trailer_fills {h : Shape} {n : Fin 8} (hop : q.op = .mvld h n)
    (hr : mxReads s c false [h] 0 .none s.coh.pins.length 0 (h.cols / 32) = .ok v)
    (hf : trailerFailure v c false [(2, h)] = some f) : MxTrailers s v c q l (.mvld c .none) f (fun _ y =>
      y.acc = (ccAt s c).mxu.acc ∧ y.poisoned = (ccAt s c).mxu.poisoned ∧
        y.slots = (ccAt s c).mxu.slots.set n (loadSlot v c h true)) :=
  (mvld_trailer hhead hqueue hop hr hf).imp fun _ _ hsame => ⟨hsame.acc, hsame.poisoned, hsame.slots⟩

/-- An error poisons the accumulator of a MACLD and leaves the others. -/
theorem macld_errs (hop : q.op = .macld off) (hbad : e ≠ .none ∨ padBad (ccAt s c) off 16384 = true) :
    MxErrs s s c q l (.macld c e) 0xFFFF 1 (fun _ y => y.poisoned = (ccAt s c).mxu.poisoned.set q.acc true ∧
      y.slots = (ccAt s c).mxu.slots ∧
        ∀ b i j, b < 4 → b ≠ q.acc.val → i < 64 → j < 64 → accGet y b i j = accGet (ccAt s c).mxu b i j) := by
  refine ((macld_fails hhead hqueue hop hbad).imp fun _ y hacc => ?_).errs
  obtain ⟨g, hpoison, hslots, helem⟩ := hacc
  exact ⟨hpoison, hslots, fun b i j hb hne hi hj => (helem b i j hb hi hj).trans (if_neg hne)⟩

/-- An error of a MACST leaves FINAL 0 in the trailer that it writes. -/
theorem macst_errs {fmt : BitVec 4} (hop : q.op = .macst off d fmt) (hu : e ≠ .none) :
    MxErrs s s c q l (.macst c e) 0xFFFF 1 (fun t y => y.acc = (ccAt s c).mxu.acc ∧ y.poisoned = (ccAt s c).mxu.poisoned ∧
      (fmt = 12 → off + 4384 ≤ padSize (ccAt s c) → (memGet (ccAt t c).spad (off + 4352 + 15)).getLsbD 7 = false)) := by
  refine ((macst_fails hhead hqueue hop hu).imp fun t y hstored => ?_).errs
  obtain ⟨hacc, hpoison, hpad⟩ := hstored
  refine ⟨hacc, hpoison, fun hfmt hlen => ?_⟩
  subst hfmt
  have hlength : (macstOut (ccAt s c).mxu q.acc 12 d false).length = 4384 :=
    (getD_macstOut_bx (ccAt s c).mxu q.acc .bx8 d false).1
  rw [hpad, memGet_padWrite (by rwa [hlength]), hlength, if_pos (by omega), show off + 4352 + 15 - off = 4352 + 15 by omega]
  exact getD_macstOut_final ..

end

/-! ## MMA and MMV -/

section
variable {hs : List (BitVec 2 × Shape)} {nb : Nat} {stream bad : Bool} {block : State → Mxu → Nat → Mxu} {page : BitVec 39}

/-- A fault to be served pauses the TFU and posts its page (14 R283, R296). -/
theorem matrix_pause (hi : exec i s = .next (runMatrix s c q hs nb stream bad block e))
    (hruns : (ccAt s c).mxu.poisoned[q.acc] = false ∨ q.res = true)
    (hr : runReads s c q (hs.map Prod.snd) nb stream e = .pause v page) : ∃ t, exec i s = .next t ∧
      { t with cells := s.cells, scrim := s.scrim } = v ∧ OtherCells c s t ∧
      ccAt t c = { ccAt s c with mxu := { (ccAt s c).mxu with paused := some page } } ∧
      t.scrim.posts = s.scrim.posts ++ [⟨clusterRouter (physOf s c), .agent (.tfu c), (ccAt s c).desc.ctxid, page, .read, none, 32,
        (ccAt s c).desc.psvc⟩] := by
  obtain ⟨t, ht, hend⟩ := mxPause_spec (v := v) (c := c) (page := page) (quiet_of_runReads hr)
  exact ⟨t, hi.trans (by rw [runMatrix_pause hruns hr, ht]), hend⟩

end

/-- Whether a slot of an MMV is bad, over all slots. -/
theorem vsetSlots_any (vset : BitVec 8) (slots : Vector VecSlot 8) : (vsetSlots vset).any (fun n => slots[n].bad) =
    (List.finRange 8).any (fun n => vset.getLsbD n.val && slots[n].bad) :=
  List.any_filter ..

end

theorem matrixErrors : Claims.MatrixErrors := by
  intro s v c q l k cause e page x pad detail Ends Fails Trailers Acc blocks mma mmv runs anyBad reads hlive hpaused hqueue
  have hhead := headCommand_eq_some hlive hpaused hqueue
  refine ⟨fun hruns => ⟨fun h g hop => ?_, fun h vset hop => ?_⟩,
    fun h g hop hruns => ⟨fun hr => ?_, fun f hr hf => ?_, fun hr => ?_⟩,
    fun h vset hop hruns => ⟨fun hr => ?_, fun hr => ⟨fun f hf => ?_, fun hf => ?_⟩⟩,
    fun h n hop => ⟨fun hr => ?_, fun f hr he hf => ?_⟩,
    fun off hop hbad => ?_, fun off d fmt hop he => ?_, fun hfailed hs stream n a ha hpage => ?_⟩
  · exact matrix_poisoned_completes hqueue (exec_mma hhead hop) hruns
  · exact matrix_poisoned_completes hqueue (exec_mmv hhead hop) hruns
  · exact (matrix_stop hqueue (exec_mma hhead hop) hruns (blocksGive_mma s c q v h g) hr).errs
  · exact MxEnds.completes (matrix_trailer hqueue (exec_mma hhead hop) hruns (blocksGive_mma s c q v h g) hr hf)
  · exact matrix_pause (exec_mma hhead hop) hruns hr
  · exact (matrix_stop hqueue (exec_mmv hhead hop) hruns (blocksGive_mmv s c q v h vset) hr).errs
  · exact MxEnds.completes (matrix_trailer hqueue (exec_mmv hhead hop) hruns (blocksGive_mmv s c q v h vset) hr hf)
  · have hi := exec_mmv (u := e) hhead hop
    rw [vsetSlots_any] at hi
    exact (matrix_ok hqueue hi hruns (blocksGive_mmv s c q v h vset) hr hf).completes
  · exact mvld_errs hhead hqueue hop hr
  · rw [he]
    exact MxEnds.completes (mvld_trailer_fills hhead hqueue hop hr hf)
  · exact macld_errs hhead hqueue hop hbad
  · exact macst_errs hhead hqueue hop he
  · exact mxReads_failed hfailed ha (keyPage_eq_iff.mpr hpage)

/-- Settles O42: each command by the lemma about its end, the narrowing and the pins by the state's own rules. -/
theorem matrixUnit : Obligations.MatrixUnit := ⟨matrixCommands, matrixErrors, narrowingAndPins⟩

end Sys2Proof.Machine
end
